-- ==== Sys2Proof/Word.lean ====
section
/-! DEFINITION. The word types of the block: what the manual treats as bits (R3, R4, R436). -/
namespace Sys2Proof

/-- One byte (R3: multi-byte fields are little-endian sequences of these). -/
abbrev Byte := BitVec 8

/-- A 16-bit field. -/
abbrev Half := BitVec 16

/-- A 32-bit register (R436). -/
abbrev Word := BitVec 32

/-- A 64-bit field, scalar register or address field (R5, R137). -/
abbrev DWord := BitVec 64

/-- A tick number (R28: a 48-bit count). -/
abbrev Tick := BitVec 48

end Sys2Proof
end

