-- ==== Sys2Proof/Syntax.lean ====
section
/-! DEFINITION. The commands of the block: one constructor per row of spec/opcode_table.json. The table gives no operand
bits, so the operands are those the governing rule names. Raw words and byte strings are kept raw, so that reserved
fields and checks (R6, R312) can be read from them. -/
namespace Sys2Proof

/-- A plan in flight: the context and its `plan_id` (R104, R107). -/
structure PlanKey where
  ctx : Nat
  id  : Nat
deriving DecidableEq, Repr

/-- A room program in flight: a plan on a logical room (R129, R130). -/
structure Tid where
  key  : PlanKey
  room : Nat
deriving DecidableEq, Repr

/-- A fetched 64-byte descriptor (R104): the header's fields with its reserved bits, and the 48 body bytes as six
little-endian words at 0x10 to 0x38. The opcode is the command itself. -/
structure Desc where
  ctx    : Nat
  fence  : Bool
  noIrq  : Bool
  rsvA   : BitVec 6
  planId : BitVec 16
  rsvB   : Word
  userId : DWord
  w10 : DWord
  w18 : DWord
  w20 : DWord
  w28 : DWord
  w30 : DWord
  w38 : DWord
deriving DecidableEq, Repr

/-- The operand fields of a room instruction word (R138); the opcode is the command itself. -/
structure RoomIns where
  pred : BitVec 3
  pneg : Bool
  d    : BitVec 5
  a    : BitVec 5
  b    : BitVec 5
  c    : BitVec 5
  imm  : Word
deriving DecidableEq, Repr

/-- A message that a port has received whole (R318): its port, its channel, and its bytes, the 16-byte header first. -/
structure Msg where
  port  : Nat
  vc    : Nat
  bytes : List Byte
deriving DecidableEq, Repr

/-- How a host access failed (R88, R118). -/
inductive HostErr | translation | unsupported | abort | timeout | poison
deriving DecidableEq, Repr

/-- Which host access failed (R88). -/
inductive HostAccess
  | sqRead (ctx : Nat)            -- submission ring read
  | entryWrite (ctx : Nat)        -- completion or promise array write
  | data (ctx k : Nat)            -- data access of the k-th oldest descriptor in progress of the context
  | faultRing (fn : Nat)
  | ledgerRing (fn : Nat)
deriving DecidableEq, Repr

/-- A part that the repair map can name (R405). -/
inductive Part
  | room (wing slot : Nat)        -- slot 0 to 63, 64 for S0, 65 for S1
  | floorCore (floor core : Nat)
  | hallCore (core : Nat)
deriving DecidableEq, Repr

/-- What start-up finds of the hardware (R425, R426): whether the public keys derived from the secret match the certificates (R379), the
channels that fail their training or check, the parts that fail the built-in self test. -/
structure BootObs where
  identityOk   : Bool
  lostChannels : List (Nat × Nat)
  failedParts  : List Part
deriving DecidableEq, Repr

/-- Where an ECC check reported an error (R303). -/
inductive EccTier
  | roomMem (room unit : Nat)     -- unit 6 to 9 as in R392
  | wall (room : Nat)             -- the receiving room
  | pantryClean (slice : Nat)
  | pantryState (slice : Nat)     -- dirty line, pin, PRED staging, frame record
  | cellar                        -- R280: the error's address gives the cellar and the channel
  | attic
deriving DecidableEq, Repr

/-- IEEE 1149.1 instructions (R467). -/
inductive JtagIns | bypass | idcode | sample | extest | extestPulse | extestTrain
deriving DecidableEq, Repr

/-- The sources that the tick generator tracks (R36, R39): the primary, the alternate, and a replaced source that still
defines the boundaries. -/
inductive SrcRole | primary | alternate | former
deriving DecidableEq, Repr

/-- The PLDM numeric sensors (R418). -/
inductive Sensor | inputPower | inputVoltage | junction (floor : Nat) | metTick
deriving DecidableEq, Repr

/-- An SPDM request on the PF's DOE mailbox (R83, R379): certificate chain of a slot, or IDE_KM keys for a stream of a
function, or another request of the standard. -/
inductive SpdmReq
  | getCertificate (slot : Nat)
  | setIdeKeys (fn stream : Nat)
  | other (request : List Byte)
deriving DecidableEq, Repr

/-- The commands: one constructor per row of the table. -/
inductive Instr
  /-- R45: a boundary. -/
  | tickBoundary
  /-- R48: B + 100 ns. -/
  | reclaimSetFix
  /-- R49: B + 1 µs. -/
  | releasePoint
  /-- R419: by B + 20 µs. -/
  | tokenSettlement
  /-- R53: by B + 50 µs. -/
  | bookAudit
  /-- R419: the energies, in microjoule, that a boiler samples on its rails. -/
  | boilerSample (boiler : Nat) (energies : List Nat)
  /-- R31: a rising edge at a time of the timebase in units of 0.625 ns. -/
  | tickInEdge (time : Nat)
  /-- R32, R323: a received TICK flit on a port, with its arrival time. -/
  | tickFlitReceive (port time : Nat) (flit : List Byte)
  /-- R33: the window of a tracked source closes without a reference. -/
  | referenceMissing (role : SrcRole)
  /-- R38. -/
  | holdoverTimeout
  /-- R38, R41: a write of TICK_CTL, at a time, that sets ENABLE. -/
  | tickEnable (time : Nat) (value : Word)
  /-- R39, R41: a write of TICK_CTL that clears ENABLE. -/
  | tickDisable (time : Nat) (value : Word)
  /-- R39, R41: a write of TICK_CTL that changes SOURCE or UP_PORT. -/
  | tickSourceChange (time : Nat) (value : Word)
  /-- R36, R41: a write of TICK_CTL that changes ALT_SOURCE or ALT_PORT. -/
  | tickAltSourceChange (time : Nat) (value : Word)
  /-- R31, R41: a write of TICK_CTL that changes OUT_EN. -/
  | tickOutEnable (time : Nat) (value : Word)
  /-- R39, R42. -/
  | tickPeriodWrite (value : Word)
  /-- R449. -/
  | tickSysOffsetLoWrite (value : Word)
  /-- R449. -/
  | tickSysOffsetHiWrite (value : Word)
  /-- R30. -/
  | tickNowLoRead
  /-- R450. -/
  | pwrMetLoRead
  /-- R451. -/
  | flogNewestLoRead
  /-- R421. -/
  | pwrCapWrite (value : Word)
  /-- R8: a write to a W1C register of a function's BAR0; `sets` are the flags hardware sets in the same cycle. -/
  | w1cFlagClear (fn offset : Nat) (value sets : Word)
  /-- R436: a write of `size` bytes at an offset of a function's BAR0, at a time of the timebase. -/
  | registerWrite (fn offset size time : Nat) (value : DWord)
  /-- R440: a write of CR_CTL. -/
  | crOpen (fn : Nat) (value : Word)
  | crClose (fn : Nat) (value : Word)
  | crReset (fn : Nat) (value : Word)
  /-- R441: a write of FR_CFG. -/
  | faultRingEnable (fn : Nat) (value : Word)
  /-- R441: a write of LR_CFG. -/
  | ledgerRingEnable (fn : Nat) (value : Word)
  /-- R442: a write of MSIX_MODn. -/
  | msixModWrite (fn vector : Nat) (value : Word)
  /-- R447: a write of word 0 to 3 of the entry of a context. -/
  | contextAssignWrite (ctx word : Nat) (value : Word)
  /-- R95: a BAR2 write of `size` bytes at offset 0x00 of a line. -/
  | doorbellSqCq (fn offset size : Nat) (value : DWord)   -- R95: a BAR2 write; `offset` in BAR2
  | doorbellFaultHead (fn line size : Nat) (value : DWord)
  | doorbellLedgerHead (fn line size : Nat) (value : DWord)
  /-- R97. -/
  | descriptorFetchTimeout (ctx : Nat)
  /-- R98, R99. -/
  | completionWrite (ctx : Nat)
  /-- R105. -/
  | nop (desc : Desc)
  | badOpcode (opcode : Byte) (desc : Desc)
  /-- R106, R107. -/
  | plan (desc : Desc)
  /-- R68. -/
  | planAdmission (key : PlanKey)
  /-- R108. -/
  | planWithdraw (desc : Desc)
  /-- R109, R110: with the bytes that the host reads return, for `dir` 0. -/
  | move (desc : Desc) (data : List Byte)
  /-- R111, R112: with the entry array that the host read returns. -/
  | pageWrite (desc : Desc) (entries : List Byte)
  | pagePublish (desc : Desc)
  | pageCreate (desc : Desc)
  | pageDestroy (desc : Desc)
  /-- R113. -/
  | tickWait (desc : Desc)
  /-- R114. -/
  | ctxOpen (desc : Desc)
  | ctxClose (desc : Desc)
  /-- R374: with the image bytes that the host reads return. -/
  | imageStore (desc : Desc) (image : List Byte)
  /-- R375. -/
  | imageLoad (desc : Desc)
  /-- R377: a load ends; `bad` is the first chunk of the attic copy whose tag fails, if any. -/
  | imageLoadComplete (ctx : Nat) (imageId : Nat) (bad : Option Nat)
  /-- R378. -/
  | imageDelete (desc : Desc)
  /-- R435: with the bundle bytes that the host reads return. -/
  | fwUpdate (desc : Desc) (bundle : List Byte)
  /-- R431: with the configuration bytes that the host reads return. -/
  | configUpdate (desc : Desc) (config : List Byte)
  /-- R381. -/
  | attest (desc : Desc)
  /-- R363: with the parameter block that the host read returns. -/
  | streamOpen (desc : Desc) (params : List Byte)
  /-- R364. -/
  | codecJob (desc : Desc)
  /-- R360. -/
  | codecJobStart (ctx stream : Nat)
  /-- R361. -/
  | codecJobComplete (ctx stream : Nat)
  /-- R366. -/
  | streamClose (desc : Desc)
  /-- R367: with the consumed count that the host read returns. -/
  | streamRingPoll (ctx stream : Nat) (consumed : DWord)
  /-- R362. -/
  | codecEngine (engine : Nat)
  /-- R26, R120: the next waiting record of a function. -/
  | ledgerRecordWrite (fn : Nat)
  /-- R393: the next waiting record for a function's ring. -/
  | faultRecordWrite (fn : Nat)
  /-- R88: a host access at an address failed. -/
  | hostAccessFail (access : HostAccess) (err : HostErr) (addr : DWord)
  /-- R87. -/
  | atsInvalidation (fn : Nat) (pasid : Option (BitVec 20))
  /-- R86. -/
  | ideTlpOutsideStream (fn : Nat)
  | ideStreamLoss (fn : Nat)
  /-- R379, R83. -/
  | doeSpdmRequest (request : SpdmReq)
  /-- R122. -/
  | msixDelayExpiry (fn vector : Nat)
  | msixPerTick
  /-- R123. -/
  | flrVf (fn : Nat)
  | flrPf
  /-- R123: a write of the power state field: true requests D3hot, false D0. -/
  | powerStateWrite (fn : Nat) (d3hot : Bool)
  /-- R140: the room instructions, issued by the sequencer of a plan on a room. -/
  | roomNop (t : Tid) (i : RoomIns)
  | stepEnd (t : Tid) (i : RoomIns)
  | progEnd (t : Tid) (i : RoomIns)
  | jump (t : Tid) (i : RoomIns)
  | call (t : Tid) (i : RoomIns)
  | ret (t : Tid) (i : RoomIns)
  | repeatLoop (t : Tid) (i : RoomIns)
  | trap (t : Tid) (i : RoomIns)
  | sadd (t : Tid) (i : RoomIns)
  | ssub (t : Tid) (i : RoomIns)
  | smul (t : Tid) (i : RoomIns)
  | sand (t : Tid) (i : RoomIns)
  | sor (t : Tid) (i : RoomIns)
  | sxor (t : Tid) (i : RoomIns)
  | sshl (t : Tid) (i : RoomIns)
  | sshr (t : Tid) (i : RoomIns)
  | smin (t : Tid) (i : RoomIns)
  | smax (t : Tid) (i : RoomIns)
  | sli (t : Tid) (i : RoomIns)
  | scmp (t : Tid) (i : RoomIns)
  | sldc (t : Tid) (i : RoomIns)
  | srd (t : Tid) (i : RoomIns)
  | sld (t : Tid) (i : RoomIns)
  | sst (t : Tid) (i : RoomIns)
  | mmaF (t : Tid) (i : RoomIns)
  | mmaB0 (t : Tid) (i : RoomIns)
  | mmaB1 (t : Tid) (i : RoomIns)
  | accZero (t : Tid) (i : RoomIns)
  | accOut (t : Tid) (i : RoomIns)
  | accIn (t : Tid) (i : RoomIns)
  | nest (t : Tid) (i : RoomIns)
  | vld (t : Tid) (i : RoomIns)
  | vst (t : Tid) (i : RoomIns)
  | vlda (t : Tid) (i : RoomIns)
  | vsta (t : Tid) (i : RoomIns)
  | vadd (t : Tid) (i : RoomIns)
  | vsub (t : Tid) (i : RoomIns)
  | vmul (t : Tid) (i : RoomIns)
  | vfma (t : Tid) (i : RoomIns)
  | vmax (t : Tid) (i : RoomIns)
  | vmin (t : Tid) (i : RoomIns)
  | vcmp (t : Tid) (i : RoomIns)
  | vsel (t : Tid) (i : RoomIns)
  | vbc (t : Tid) (i : RoomIns)
  | vred (t : Tid) (i : RoomIns)
  | vidx (t : Tid) (i : RoomIns)
  | vrng (t : Tid) (i : RoomIns)
  | fnTable (t : Tid) (i : RoomIns)
  | fnMicro (t : Tid) (i : RoomIns)
  | rstat (t : Tid) (i : RoomIns)
  | tblLoad (t : Tid) (i : RoomIns)
  | dmaIn (t : Tid) (i : RoomIns)
  | dmaOut (t : Tid) (i : RoomIns)
  /-- R299: the late limit of the room's DMA_IN in progress expires. -/
  | dmaLate (t : Tid)
  | wallPut (t : Tid) (i : RoomIns)
  /-- R197: the oldest halo under way to this room from direction `dir` (R195) lands. -/
  | haloLand (t : Tid) (dir : Nat)
  | haloWait (t : Tid) (i : RoomIns)
  /-- R246: PGATHER of op GATHER. -/
  | gather (t : Tid) (i : RoomIns)
  /-- R248: the oldest requested chunk of a walk slot lands. -/
  | walkChunkLand (t : Tid) (slot : Nat)
  /-- R252, R259, R261: PGATHER of the other ops. -/
  | store (t : Tid) (i : RoomIns)
  | verifyOpen (t : Tid) (i : RoomIns)
  | commit (t : Tid) (i : RoomIns)
  /-- R239: the decrement of the frame at this device address reaches its home slice. -/
  | frameDecrementArrive (frame : Nat)
  | porchSend (t : Tid) (i : RoomIns)
  | porchRecv (t : Tid) (i : RoomIns)
  /-- R338: a received ANNOUNCE. -/
  | announce (msg : Msg)
  /-- R339: a received piece. -/
  | piece (msg : Msg)
  | patom (t : Tid) (i : RoomIns)
  /-- R301: the oldest atomic of the room reaches its home slice. -/
  | patomPerform (t : Tid)
  | pred (t : Tid) (i : RoomIns)
  /-- R302: the oldest contribution of the room reaches its home slice. -/
  | predContribution (t : Tid)
  | flagSet (t : Tid) (i : RoomIns)
  | flagWait (t : Tid) (i : RoomIns)
  /-- R153: the home slice shows the flag of the room's FLAG_WAIT. -/
  | flagWaitComplete (t : Tid)
  | fence (t : Tid) (i : RoomIns)
  | unitWait (t : Tid) (i : RoomIns)
  /-- R126: the oldest instruction of a unit (numbered as in R125) of the room completes. -/
  | instructionComplete (t : Tid) (unit : Nat)
  /-- R75: the last acknowledgement of the plan's running step. -/
  | stepFinish (key : PlanKey)
  /-- R400, R392: unit and class of the check that failed, and the window offsets (R22) of the words that cannot be copied. -/
  | roomHw (room unit : Nat) (permanent : Bool) (badWords : List Nat)
  | roomWatchdogTimeout (room : Nat)
  /-- R403. -/
  | restoreTimeout (t : Tid)
  /-- R399: the recovery ends at a time of the timebase. -/
  | serviceResume (time : Nat)
  /-- R405. -/
  | repairMapWrite
  /-- R404: the outcome of the self test of spare S0 or S1 of a wing. -/
  | spareSelfTest (wing spare : Nat) (pass : Bool)
  /-- R20, R392: the core stopped answering; `missed`: the release point of this tick fell between its last heartbeat and the
  detection of the failure. -/
  | floorCoreFailure (floor core : Nat) (missed : Bool)
  /-- R19. -/
  | hallCoreFailure (core : Nat)
  /-- R392. -/
  | hallWatchdog
  /-- R410: die class as floor 0, cellar 1, corridor 2, porch 3, hall 4, parlour 5, boiler 6. -/
  | dieFail (cls index : Nat)
  /-- R303. -/
  | memoryEccEvent (tier : EccTier) (addr : Nat) (correctable : Bool)
  /-- R304: lines that the scrub of the last 24 hours corrected in a channel. -/
  | patrolScrub (cellar channel lines : Nat)
  /-- R305. -/
  | cellarLoss (cellar channel : Nat)
  /-- R411: a FATAL trigger with its code and details. -/
  | failstop (code : BitVec 16) (detail0 detail1 : DWord)
  /-- R397. -/
  | faultLogSave
  /-- R407: a received SLIDE message. -/
  | slide (msg : Msg)
  /-- R408. -/
  | peerSilent
  /-- R413: a received FAILSTOP message. -/
  | failstopMessage (msg : Msg)
  /-- R308: width (true: full) and lane rate 0, 1 or 2 as in R429; `half` is the half of the lanes kept at half width. -/
  | trainingComplete (port : Nat) (full : Bool) (rate half : Nat)
  | trainingRetry (port : Nat)
  /-- R309. -/
  | helloSend (port : Nat)
  | hello (port : Nat) (flit : List Byte)
  | helloAck (port : Nat) (flit : List Byte)
  /-- R313. -/
  | dataFlitReceive (port : Nat) (flit : List Byte)
  | nak (port : Nat) (flit : List Byte)
  | idleFlitReceive (port : Nat) (flit : List Byte)
  /-- R314: the replay timer expires; `ackNow` is an acknowledgement that arrives in the same cycle (R9). -/
  | replayTimerExpiry (port : Nat) (ackNow : Option (BitVec 16))
  /-- R324: times in units of 0.625 ns. -/
  | echoSend (port time : Nat)
  | echo (port time : Nat) (flit : List Byte)
  | echoReply (port time : Nat) (flit : List Byte)
  /-- R326. -/
  | failstopFlit (port : Nat) (flit : List Byte)
  /-- R325: lane 0 to 7 of a port. -/
  | laneLost (port lane : Nat)
  /-- R321. -/
  | deliveredSend
  | delivered (msg : Msg)
  /-- R322: pause of a priority. -/
  | priorityFlowControl (port priority : Nat)
  /-- R423: a sample of a floor's hottest junction, in 0.1 °C. -/
  | thermalEvent (floor temp : Nat)
  /-- R424: at a time of the timebase. -/
  | droopDetect (floor time : Nat)
  | setpointStepBack (floor : Nat)
  /-- R420: BOARD_CAP_EXC (true) or BOARD_CAP_CONT (false), in watts. -/
  | boardCapWrite (exc : Bool) (watts : Nat)
  /-- R418. -/
  | pldmSensorRead (sensor : Sensor)
  /-- R467. -/
  | jtagInstruction (ins : JtagIns)
  /-- R416, R461: with the strap levels of ADR_SEL1 and ADR_SEL0. -/
  | supplyInRange (sel1 sel0 : Bool)
  | supplyLoss
  | refclkLoss
  | perstAssert
  /-- R425: the release of PERST# at a time, with what start-up finds. -/
  | perstRelease (time : Nat) (obs : BootObs)
  /-- R110: the k-th oldest MOVE in progress of a context. -/
  | moveComplete (ctx k : Nat)
  /-- R374. -/
  | imageStoreComplete (fn : Nat) (imageId : Nat)
  /-- R435, R431: whether the read-back of the written copy matches. -/
  | fwUpdateComplete (readBackOk : Bool)
  | configUpdateComplete (readBackOk : Bool)
  /-- R308. -/
  | trainingFailed (port : Nat)
  | droopRecovery (floor time : Nat)
  /-- R123: VF Enable with NumVFs. -/
  | vfEnableWrite (enable : Bool) (numVfs : Nat)
  /-- R121: mask of a vector, or of the function. -/
  | msixVectorMaskWrite (fn : Nat) (vector : Option Nat) (mask : Bool)
  /-- R322. -/
  | pfcPauseExpiry (port priority : Nat)
deriving DecidableEq, Repr

end Sys2Proof
end

