-- ==== Sys2Proof/Decode.lean ====
section
/-! DEFINITION. Decoding. No row of spec/opcode_table.json gives bits: the commands come from many sides (registers, rings,
flits, pins), and none is a word of the block. So no word spells a command. -/
namespace Sys2Proof

/-- The command that a word of the table spells: the table gives no row any bits, so none. -/
def decodeTableWord (_nbits _w : Nat) : Option Instr := none

end Sys2Proof
end

