-- ==== Sys2Proof/Config.lean ====
section
/-! DEFINITION. What one device or one bundle fixes and the manual does not state, and the free values: constants
with no body, so that nothing can be proved of their values. -/
namespace Sys2Proof.Config

/-- A fresh free value of `n` bits: applied to the counter `State.free` that the step reads and advances. -/
opaque freeBits : (n : Nat) → Nat → BitVec n

/-- R99: the command tags are numbered from here, in the order of the pool; the manual does not say which number a
descriptor takes, only that 4,096 tags are told apart by 12 bits. -/
opaque tagBase : BitVec 12

/-- R112: the handle that PAGE CREATE returns for the `n`-th candidate; the manual does not say which handle. -/
opaque handleNumber : Nat → BitVec 16

/-- R389: the blocks that an EMPTY entry of a table gives when a replay list has it skipped. -/
opaque skippedBlocks : (handle index : Nat) → Nat

/-- R379: the helper data that manufacture left in the attic, and the 256-bit secret that the device's unclonable function makes of
helper data. -/
opaque helperData : List Byte
opaque pufSecret : (helper : List Byte) → List Byte

/-- R379: what tells the derivation of the identity key from that of the wrap key; the manual gives neither string. -/
opaque identityInfo : List Byte
opaque wrapInfo : List Byte

/-- R381, R382: the secret number of an ECDSA signature over a digest; the standard leaves it to the signer. -/
opaque signNumber : (digest : List Byte) → Nat

/-- R381: the configuration copy and the bundle manifest that the device is delivered with. -/
opaque deliveredConfig : List Byte
opaque deliveredManifest : List Byte

/-- R386: can the block that ends here not be reserved in the attic when its first value is due? -/
opaque reserveFails : (blockEnd : Nat) → Bool

/-- R379: the 64-bit device identifier of the certificates. -/
opaque uid : DWord

/-- R379, R381: the DER bytes of the identity certificate and of the device CA certificate. -/
opaque identityCert : List Byte
opaque deviceCaCert : List Byte

/-- R379: the certificate chain that SPDM returns in slot 0. -/
opaque certChain : List Byte

/-- R432: the digests of the two firmware key points that the mask ROM holds. -/
opaque romKey0 : List Byte
opaque romKey1 : List Byte

/-- R444: silicon stepping. -/
opaque stepping : BitVec 8

/-- R319: the MAC address that a partner's Ethernet frames carry as their source; the frames are not in the table's operands. -/
opaque partnerMac : (uid : DWord) → BitVec 48

/-- R319: the next-hop port that the routing table records for a fabric id; no rule says how it is found. -/
opaque nextHop : (fabric : Nat) → Nat

/-- R83, R445: which of their values the trained generation and width of the host link, its max payload size and its max read request
size take. -/
opaque hostLinkGen : Nat
opaque hostLinkWidth : Nat
opaque maxPayload : Nat
opaque maxReadRequest : Nat

/-- R226: coefficient c_j of segment i of built-in table `t`, published in the bundle's manifest and fixed by the epoch. -/
opaque builtinCoef : (t i j : Nat) → Word

/-- R419, R432: energy coefficient of class `c` (0 to 5) in the running bundle's manifest, in nanojoule per counted unit. -/
opaque energyCoef : (bundleVer : Word) → (c : Nat) → Nat

/-- R355: the bytes of the headers of a coded picture, which signal the given values: a function of the parlour image version, the
stream parameters, the pictures coded before and the flags of the jobs. -/
opaque codeHead : (parlourVer : Half) → (params : List Byte) → (pictures : List (List Byte)) → (flags values : List Nat) → List Byte

/-- R355, R356: the bytes of one coded unit: besides what the headers depend on (the numbers are the flags, the headers' values, then the
unit's own number and quantiser), the displacement against each reference that its partitions start from (the reference's place, then
quarter samples), the reference pictures, and the picture's bytes before it. -/
opaque codeUnit : (parlourVer : Half) → (params : List Byte) → (pictures : List (List Byte)) → (numbers : List (List Nat)) →
  (motion : List (Nat × Int × Int)) → (refs : List (List Byte)) → (before : List Byte) → List Byte

/-- R351: the picture that a decoder makes of an access unit with these reference pictures, as the codec's standard defines it. -/
opaque reconstruct : (params : List Byte) → (refs : List (List Byte)) → (unit : List Byte) → List Byte

/-- R356: how four samples make one of the next pyramid level, how well two blocks of samples match (less is better), and the motion
predictor of a unit, in quarter samples, from the displacements of the units before it; the manual states none of them. -/
opaque pyramidSample : List Nat → Nat
opaque blockCost : (cur ref : List Nat) → Nat
opaque motionPredictorX : (motion : List (List (Nat × Int × Int))) → (unit : Nat) → Int
opaque motionPredictorY : (motion : List (List (Nat × Int × Int))) → (unit : Nat) → Int

/-- R356: a sample at a quarter-sample place from the 8 by 8 around it, by the codec's own filter. -/
opaque interpolate : (codec fx fy : Nat) → (around : List Nat) → Nat

/-- R359: the quantiser that the encoder would choose from the fullness of the decoder buffer and the sizes of the earlier access units,
and the one for the next unit from the frame cap, the picture's running size and the quantiser so far. -/
opaque rateQuantiser : (params : List Byte) → (fullness : Nat) → (sizes : List Nat) → Nat
opaque capQuantiser : (cap running qp : Nat) → Nat

/-- R365: the pictures of the units decoded so far in the order of the codec's output process, those still pending included, and how many
of them it has released; as the codec's standard defines them. -/
opaque decodedPictures : (params : List Byte) → (units : List (List Byte)) → List (List Byte)
opaque releasedPictures : (params : List Byte) → (units : List (List Byte)) → Nat

/-- R349: AV1 film-grain synthesis of output picture `k`, as the standard defines it. -/
opaque filmGrain : (params : List Byte) → (units : List (List Byte)) → (k : Nat) → (picture : List Byte) → List Byte

/-- R365: does a unit conform to its standard? -/
opaque unitConforms : (params : List Byte) → (units : List (List Byte)) → (unit : List Byte) → Bool

/-- R365: does a unit start with a key picture, which restores decodable state? -/
opaque unitIsKey : (params unit : List Byte) → Bool

/-- R349, R354: do the frame size, sample rate and tiles of a parameter block meet the limits of the codec's own level table?
The fields are codec, level, tier, width, height, fps_num, fps_den, tile_cols, tile_rows. -/
opaque meetsLevel : (fields : List Nat) → Bool

/-- R379: PLDM and SPDM replies that other standards define are byte strings of those standards. -/
opaque spdmReply : (request : List Byte) → List Byte

end Sys2Proof.Config
end

