-- ==== Sys2Proof/Machine/Crypto.lean ====
section
/-! DEFINITION. The published algorithms that the manual names (R3, R368, R370 to R372, R379): SHA-512, HMAC and HKDF with it,
AES-256-GCM, and ECDH and ECDSA on P-521. Byte strings stand in the order of their standards (R3). -/
namespace Sys2Proof.Machine

/-- The big-endian number of a byte string (R3). -/
def numBE (bs : List Byte) : Nat := bs.foldl (fun n b => n * 256 + b.toNat) 0

/-- The `k` low bytes of a number, most significant first (R3). -/
def bytesBE (n : Nat) : Nat → List Byte
  | 0 => []
  | k + 1 => bytesBE (n / 256) k ++ [BitVec.ofNat 8 n]

/-- The bytes of two strings, bit by bit exclusive. -/
def xorBytes (a b : List Byte) : List Byte := (a.zip b).map (fun p => p.1 ^^^ p.2)

/-! ## SHA-512 -/

/-- The constants of the 80 rounds. -/
def sha512K : List DWord :=
  [0x428a2f98d728ae22, 0x7137449123ef65cd, 0xb5c0fbcfec4d3b2f, 0xe9b5dba58189dbbc,
   0x3956c25bf348b538, 0x59f111f1b605d019, 0x923f82a4af194f9b, 0xab1c5ed5da6d8118]
  ++ [0xd807aa98a3030242, 0x12835b0145706fbe, 0x243185be4ee4b28c, 0x550c7dc3d5ffb4e2,
   0x72be5d74f27b896f, 0x80deb1fe3b1696b1, 0x9bdc06a725c71235, 0xc19bf174cf692694]
  ++ [0xe49b69c19ef14ad2, 0xefbe4786384f25e3, 0x0fc19dc68b8cd5b5, 0x240ca1cc77ac9c65,
   0x2de92c6f592b0275, 0x4a7484aa6ea6e483, 0x5cb0a9dcbd41fbd4, 0x76f988da831153b5]
  ++ [0x983e5152ee66dfab, 0xa831c66d2db43210, 0xb00327c898fb213f, 0xbf597fc7beef0ee4,
   0xc6e00bf33da88fc2, 0xd5a79147930aa725, 0x06ca6351e003826f, 0x142929670a0e6e70]
  ++ [0x27b70a8546d22ffc, 0x2e1b21385c26c926, 0x4d2c6dfc5ac42aed, 0x53380d139d95b3df,
   0x650a73548baf63de, 0x766a0abb3c77b2a8, 0x81c2c92e47edaee6, 0x92722c851482353b]
  ++ [0xa2bfe8a14cf10364, 0xa81a664bbc423001, 0xc24b8b70d0f89791, 0xc76c51a30654be30,
   0xd192e819d6ef5218, 0xd69906245565a910, 0xf40e35855771202a, 0x106aa07032bbd1b8]
  ++ [0x19a4c116b8d2d0c8, 0x1e376c085141ab53, 0x2748774cdf8eeb99, 0x34b0bcb5e19b48a8,
   0x391c0cb3c5c95a63, 0x4ed8aa4ae3418acb, 0x5b9cca4f7763e373, 0x682e6ff3d6b2b8a3]
  ++ [0x748f82ee5defb2fc, 0x78a5636f43172f60, 0x84c87814a1f0ab72, 0x8cc702081a6439ec,
   0x90befffa23631e28, 0xa4506cebde82bde9, 0xbef9a3f7b2c67915, 0xc67178f2e372532b]
  ++ [0xca273eceea26619c, 0xd186b8c721c0c207, 0xeada7dd6cde0eb1e, 0xf57d4f7fee6ed178,
   0x06f067aa72176fba, 0x0a637dc5a2c898a6, 0x113f9804bef90dae, 0x1b710b35131c471b]
  ++ [0x28db77f523047d84, 0x32caab7b40c72493, 0x3c9ebe0a15c9bebc, 0x431d67c49c100d4c,
   0x4cc5d4becb3e42b6, 0x597f299cfc657e2a, 0x5fcb6fab3ad6faec, 0x6c44198c4a475817]

/-- The initial hash value. -/
def sha512Init : List DWord :=
  [0x6a09e667f3bcc908, 0xbb67ae8584caa73b, 0x3c6ef372fe94f82b, 0xa54ff53a5f1d36f1,
   0x510e527fade682d1, 0x9b05688c2b3e6c1f, 0x1f83d9abfb41bd6b, 0x5be0cd19137e2179]

/-- A word rotated to the right. -/
def rotR (w : DWord) (n : Nat) : DWord := w.rotateRight n

/-- The message schedule, newest word first, after `n` more words. -/
def sha512Extend (w : List DWord) : Nat → List DWord
  | 0 => w
  | n + 1 =>
    let a := w.getD 1 0
    let b := w.getD 14 0
    let s1 := rotR a 19 ^^^ rotR a 61 ^^^ (a >>> 6)
    let s0 := rotR b 1 ^^^ rotR b 8 ^^^ (b >>> 7)
    sha512Extend ((s1 + w.getD 6 0 + s0 + w.getD 15 0) :: w) n

/-- One round, with the round's constant and schedule word. -/
def sha512Round (v : List DWord) (k : DWord × DWord) : List DWord :=
  match v with
  | [a, b, c, d, e, f, g, h] =>
    let t1 := h + (rotR e 14 ^^^ rotR e 18 ^^^ rotR e 41) + ((e &&& f) ^^^ (~~~e &&& g)) + k.1 + k.2
    let t2 := (rotR a 28 ^^^ rotR a 34 ^^^ rotR a 39) + ((a &&& b) ^^^ (a &&& c) ^^^ (b &&& c))
    [t1 + t2, a, b, c, d + t1, e, f, g]
  | _ => v

/-- The hash value after one block of 128 bytes. -/
def sha512Block (h : List DWord) (block : List Byte) : List DWord :=
  let w := ((List.range 16).map (fun i => BitVec.ofNat 64 (numBE ((block.drop (8 * i)).take 8)))).reverse
  let v := (sha512K.zip (sha512Extend w 64).reverse).foldl sha512Round h
  (h.zip v).map (fun p => p.1 + p.2)

/-- The padded message. -/
def sha512Pad (m : List Byte) : List Byte :=
  m ++ [0x80] ++ List.replicate ((239 - m.length % 128) % 128) 0 ++ bytesBE (8 * m.length) 16

/-- SHA-512 of a byte string. -/
def sha512 (m : List Byte) : List Byte :=
  let p := sha512Pad m
  (((List.range (p.length / 128)).foldl (fun h i => sha512Block h ((p.drop (128 * i)).take 128)) sha512Init).map
    (fun w => bytesBE w.toNat 8)).flatten

/-- HMAC with SHA-512; keys of more than a block are hashed first. -/
def hmac512 (key msg : List Byte) : List Byte :=
  let k := if key.length ≤ 128 then key else sha512 key
  let k := k ++ List.replicate (128 - k.length) 0
  sha512 (k.map (· ^^^ 0x5C) ++ sha512 (k.map (· ^^^ 0x36) ++ msg))

/-- The output blocks of HKDF, newest first, joined. -/
def hkdfExpand (prk info last : List Byte) (i : Nat) : Nat → List Byte
  | 0 => []
  | n + 1 =>
    let t := hmac512 prk (last ++ info ++ [BitVec.ofNat 8 i])
    t ++ hkdfExpand prk info t (i + 1) n

/-- HKDF with SHA-512: the first `len` bytes. -/
def hkdf512 (ikm salt info : List Byte) (len : Nat) : List Byte :=
  (hkdfExpand (hmac512 salt ikm) info [] 1 ((len + 63) / 64)).take len

/-! ## AES-256 -/

/-- A byte of GF(2⁸) times x. -/
def gfDouble (a : Byte) : Byte := (a <<< 1) ^^^ (if a.getLsbD 7 then 0x1B else 0)

/-- A product in GF(2⁸), over the low `n` bits of `b`. -/
def gfMul (a b : Byte) : Nat → Byte
  | 0 => 0
  | n + 1 => (if b.getLsbD 0 then a else 0) ^^^ gfMul (gfDouble a) (b >>> 1) n

/-- The inverse in GF(2⁸): the 254th power. -/
def gfInv (a : Byte) : Byte :=
  let sq := fun (x : Byte) => gfMul x x 8
  let a2 := sq a
  let a4 := sq a2
  let a8 := sq a4
  let a16 := sq a8
  let a32 := sq a16
  let a64 := sq a32
  [a4, a8, a16, a32, a64, sq a64].foldl (fun x y => gfMul x y 8) a2

/-- The substitution of a byte. -/
def aesSub (a : Byte) : Byte :=
  let b := gfInv a
  b ^^^ b.rotateLeft 1 ^^^ b.rotateLeft 2 ^^^ b.rotateLeft 3 ^^^ b.rotateLeft 4 ^^^ 0x63

/-- The words of the key schedule after the key's eight, `i` of them made so far; newest word last. -/
def aesExpand (w : List (List Byte)) (rcon : Byte) (i : Nat) : Nat → List (List Byte)
  | 0 => w
  | n + 1 =>
    let t := w.getD (i - 1) []
    let t1 := if i % 8 = 0 then xorBytes ((t.drop 1 ++ t.take 1).map aesSub) [rcon, 0, 0, 0] else if i % 8 = 4 then t.map aesSub else t
    aesExpand (w ++ [xorBytes (w.getD (i - 8) []) t1]) (if i % 8 = 0 then gfDouble rcon else rcon) (i + 1) n

/-- The 15 round keys of AES-256. -/
def aesKeys (key : List Byte) : List (List Byte) :=
  let w := aesExpand ((List.range 8).map (fun i => (key.drop (4 * i)).take 4)) 1 8 52
  (List.range 15).map (fun r => ((w.drop (4 * r)).take 4).flatten)

/-- The rows of a state shifted: byte i of the result, column by column. -/
def aesShift (s : List Byte) : List Byte := (List.range 16).map (fun i => s.getD ((i + 4 * (i % 4)) % 16) 0)

/-- One column mixed. -/
def aesMixCol (c : List Byte) : List Byte :=
  (List.range 4).map (fun i =>
    let x := fun k => c.getD ((i + k) % 4) 0
    gfDouble (x 0) ^^^ (gfDouble (x 1) ^^^ x 1) ^^^ x 2 ^^^ x 3)

/-- The columns of a state mixed. -/
def aesMix (s : List Byte) : List Byte := ((List.range 4).map (fun i => aesMixCol ((s.drop (4 * i)).take 4))).flatten

/-- AES-256 of one block under its round keys. -/
def aesBlock (ks : List (List Byte)) (block : List Byte) : List Byte :=
  let s := ((ks.drop 1).take 13).foldl (fun s k => xorBytes (aesMix (aesShift (s.map aesSub))) k) (xorBytes block (ks.getD 0 []))
  xorBytes (aesShift (s.map aesSub)) (ks.getD 14 [])

/-! ## GCM -/

/-- A product in GF(2¹²⁸), over the bits of `x` from bit `n - 1` down; the standard's bit 0 is the most significant. -/
def ghashMul (x v z : Nat) : Nat → Nat
  | 0 => z
  | n + 1 =>
    ghashMul x (if v % 2 = 1 then (v / 2) ^^^ (0xE1 * 2 ^ 120) else v / 2) (if x / 2 ^ n % 2 = 1 then z ^^^ v else z) n

/-- Zeros up to a whole block. -/
def padBlock (bs : List Byte) : List Byte := bs ++ List.replicate ((16 - bs.length % 16) % 16) 0

/-- GHASH of whole blocks. -/
def ghash (h : Nat) (bs : List Byte) : Nat :=
  (List.range (bs.length / 16)).foldl (fun y i => ghashMul (y ^^^ numBE ((bs.drop (16 * i)).take 16)) h 0 128) 0

/-- GCM's tag of a ciphertext. -/
def gcmTag (ks : List (List Byte)) (nonce aad ct : List Byte) : List Byte :=
  let h := numBE (aesBlock ks (List.replicate 16 0))
  let y := ghash h (padBlock aad ++ padBlock ct ++ bytesBE (8 * aad.length) 8 ++ bytesBE (8 * ct.length) 8)
  xorBytes (bytesBE y 16) (aesBlock ks (nonce ++ bytesBE 1 4))

/-- AES-256-GCM decryption under a 12-byte nonce; none when the tag fails. -/
def gcmDecrypt (key nonce aad ct tag : List Byte) : Option (List Byte) :=
  let ks := aesKeys key
  if gcmTag ks nonce aad ct == tag then
    some (xorBytes ct (((List.range ((ct.length + 15) / 16)).map (fun i => aesBlock ks (nonce ++ bytesBE (i + 2) 4))).flatten))
  else none

/-! ## P-521 -/

/-- The field, the curve's constant, its generator and its order. -/
def p521P : Nat := 2 ^ 521 - 1
def p521B : Nat := 0x51953eb9618e1c9a1f929a21a0b68540eea2da725b99b315f3b8b489918ef109e156193951ec7e937b1652c0bd3bb1bf073573df883d2c34f1ef451fd46b503f00
def p521G : Nat × Nat :=
  (0xc6858e06b70404e9cd9e3ecb662395b4429c648139053fb521f828af606b4d3dbaa14b5e77efe75928fe1dc127a2ffa8de3348b3c1856a429bf97e7e31c2e5bd66,
   0x11839296a789a3bc0045c8a5fb42c7d1bd998f54449579b446817afbd17273e662c97ee72995ef42640c550b9013fad0761353c7086a272c24088be94769fd16650)
def p521N : Nat := 0x1fffffffffffffffffffffffffffffffffffffffffffffffffffffffffffffffffa51868783bf2f966b7fcc0148f709a5d03bb5c9b8899c47aebb6fb71e91386409

/-- A power modulo `m`, over the low `n` bits of the exponent. -/
def powMod (m a e : Nat) : Nat → Nat
  | 0 => 1
  | n + 1 => (if e % 2 = 1 then a else 1) * powMod m (a * a % m) (e / 2) n % m

/-- The inverse modulo a prime of 521 bits. -/
def invMod (m a : Nat) : Nat := powMod m a (m - 2) 521

/-- The sum of two points; none is the point at infinity. -/
def ecAdd : Option (Nat × Nat) → Option (Nat × Nat) → Option (Nat × Nat)
  | none, q => q
  | p, none => p
  | some (x1, y1), some (x2, y2) =>
    if x1 = x2 ∧ (y1 + y2) % p521P = 0 then none
    else
      let l := if x1 = x2 then (3 * x1 * x1 + (p521P - 3)) * invMod p521P (2 * y1 % p521P) % p521P
        else (y2 + p521P - y1) * invMod p521P ((x2 + p521P - x1) % p521P) % p521P
      let x := (l * l + 2 * p521P - x1 - x2) % p521P
      some (x, (l * (x1 + p521P - x) + (p521P - y1)) % p521P)

/-- A multiple of a point, over the low `n` bits of the number. -/
def ecMul (k : Nat) (q : Option (Nat × Nat)) : Nat → Option (Nat × Nat)
  | 0 => none
  | n + 1 =>
    let r := ecMul (k / 2) (ecAdd q q) n
    if k % 2 = 1 then ecAdd q r else r

/-- The point of an uncompressed SEC 1 string of 133 bytes; none when it is not one of the curve. -/
def ecPoint (bs : List Byte) : Option (Nat × Nat) :=
  let x := numBE ((bs.drop 1).take 66)
  let y := numBE ((bs.drop 67).take 66)
  if bs.length = 133 ∧ bs.head? = some 4 ∧ x < p521P ∧ y < p521P ∧ y * y % p521P = (x * x * x + (p521P - 3) * x + p521B) % p521P then
    some (x, y)
  else none

/-- ECDH: the x-coordinate, 66 bytes; none when the point is not one of the curve. -/
def ecdh (d : Nat) (point : List Byte) : Option (List Byte) :=
  ((ecPoint point).bind (fun q => ecMul d (some q) 521)).map (fun r => bytesBE r.1 66)

/-- ECDSA: does the 132-byte signature verify for the digest under the key point? -/
def ecdsaVerify (key digest sig : List Byte) : Bool :=
  let r := numBE (sig.take 66)
  let s := numBE (sig.drop 66)
  match ecPoint key with
  | none => false
  | some q =>
    let w := invMod p521N s
    let u := ecAdd (ecMul (numBE digest * w % p521N) (some p521G) 521) (ecMul (r * w % p521N) (some q) 521)
    decide (sig.length = 132 ∧ 0 < r ∧ r < p521N ∧ 0 < s ∧ s < p521N) && u.any (fun p => p.1 % p521N == r)

/-- ECDSA: the signature of a digest by a private key with the secret number `k`. -/
def ecdsaSign (d k : Nat) (digest : List Byte) : List Byte :=
  let r := (ecMul k (some p521G) 521).elim 0 (·.1) % p521N
  bytesBE r 66 ++ bytesBE (invMod p521N k * ((numBE digest + r * d) % p521N) % p521N) 66

end Sys2Proof.Machine
end

