-- ==== Sys2Proof/Machine/State.lean ====
section
/-! DEFINITION. The state of the block, as plain data: every register, ring, queue, book, memory and mode that the manual
gives it, with its reset value, and the closed lists of faults and refusals. Sparse tables are association lists in
rising key order whose absent keys read as the default the docstring names. -/
namespace Sys2Proof.Machine

/-! ## Small parts -/

/-- A W1C status flag with its companion saturating counter (R8, R453). -/
structure Flag where
  /-- R8: 1 bit; reset 0. -/
  set   : Bool := false
  /-- R453: 32 bits, saturating; reset 0. -/
  count : Word := 0
deriving DecidableEq, Repr

/-- R38: the states of the tick generator. -/
inductive TickState | stopped | acquiring | running | holdover | free
deriving DecidableEq, Repr

/-- R29, R41: the sources of boundaries. -/
inductive TickSrc | internal | pin | porch
deriving DecidableEq, Repr

/-- R93: the states of a context. -/
inductive CtxState | closed | opened | error | closing
deriving DecidableEq, Repr

/-- R445: `DEV_STAT.STATE`. -/
inductive DevState | boot | inService | recovery
deriving DecidableEq, Repr

/-- R308: the link states of a port. -/
inductive LinkState | down | training | hello | up | quarantined
deriving DecidableEq, Repr

/-- R306: the modes of a port. -/
inductive PortMode | off | native | ethernet
deriving DecidableEq, Repr

/-- R78 to R80: the miss policies. -/
inductive Policy | abort | degrade | continueLate
deriving DecidableEq, Repr

/-! ## The tick generator (R27 to R43) -/

/-- A tracked source (R33, R34, R36). -/
structure SrcTrack where
  /-- R34: 1 bit; reset 0. -/
  locked  : Bool := false
  /-- R33: time of the last accepted reference, in 0.625 ns units; none at reset. -/
  last    : Option Nat := none
  /-- R34: consecutive accepted references whose intervals hold, up to 4; reset 0. -/
  count   : Nat := 0
  /-- R34: consecutive missing references; reset 0. -/
  missing : Nat := 0
  /-- R35: consecutive accepted references with a phase error of at most 2 ns; reset 0. -/
  good    : Nat := 0
  /-- R29, R323: offset that the source's last marker gives; reset 0. -/
  offset  : Tick := 0
  /-- R323: hop count of the last marker; reset 0. -/
  hop     : BitVec 8 := 0
  /-- R323: aligned flag of the last marker; reset 0. -/
  aligned : Bool := false
  /-- R323: tick root named by the last marker; reset 0. -/
  root    : DWord := 0
deriving DecidableEq, Repr

/-- The tick generator and its registers. -/
structure TickGen where
  /-- R38, R43: `TICK_STAT.STATE`, 3 bits; reset STOPPED. -/
  state       : TickState := .stopped
  /-- R41: `TICK_CTL`, 32 bits; reset 0. -/
  ctl         : Word := 0
  /-- R42: `TICK_PERIOD.PERIOD`, 24 bits; reset 0x0001_86A0. -/
  period      : BitVec 24 := 0x0186A0
  /-- R39: an accepted period that takes effect at the next boundary, 24 bits; none at reset. -/
  newPeriod   : Option (BitVec 24) := none
  /-- R35, R43: `TICK_STAT.ALIGNED`, 1 bit; reset 0. -/
  aligned     : Bool := false
  /-- R37: ALIGNED as it stood at the last boundary; reset 0. -/
  alignedB    : Bool := false
  /-- R36, R43: `TICK_STAT.ON_ALT`, 1 bit; reset 0. -/
  onAlt       : Bool := false
  /-- R43: `TICK_STAT.SRC_LOST`, W1C; reset 0. -/
  srcLost     : Flag := {}
  /-- R43: `TICK_STAT.EDGE_REJECT`, W1C; reset 0. -/
  edgeReject  : Flag := {}
  /-- R43: `TICK_STAT.PERIOD_MISMATCH`, W1C; reset 0. -/
  perMismatch : Flag := {}
  /-- R43: `TICK_STAT.WRITE_REFUSED`, W1C; reset 0. -/
  wrRefused   : Flag := {}
  /-- R43: `TICK_STAT.AUDIT_FAIL`, W1C; reset 0. -/
  auditFail   : Flag := {}
  /-- R28: the local tick number, 48 bits; reset 0. -/
  num         : Tick := 0
  /-- R28: tick 0 has begun, 1 bit; reset 0. -/
  begun       : Bool := false
  /-- R29, R449: the PIN offset, 48 bits; reset 0. -/
  pinOffset   : Tick := 0
  /-- R29: the offset in use under PORCH, set at the lock of the source that defines the boundaries, 48 bits; reset 0. -/
  porchOffset : Tick := 0
  /-- R29: the offset that the last lock of each upstream port set, 48 bits; absent ports read 0; none at reset. -/
  porchLocks  : List (Nat × Tick) := []
  /-- R449: a held write of `TICK_SYS_OFFSET_LO`, 32 bits; none at reset. -/
  heldLo      : Option Word := none
  /-- R30: `TICK_NOW_HI`, 16 bits; reset 0. -/
  nowHi       : BitVec 16 := 0
  /-- R33, R449: `TICK_ERR`, 16 bits; reset 0. -/
  err         : BitVec 16 := 0
  /-- R29, R38: the source that defines the boundaries; reset INTERNAL (DESIGN CHOICE 1: without effect while STOPPED). -/
  inUse       : TickSrc := .internal
  /-- R36: the primary source's tracker; reset empty. -/
  prim        : SrcTrack := {}
  /-- R36: the alternate source's tracker; reset empty. -/
  alt         : SrcTrack := {}
  /-- R39: the tracker of a replaced source that still defines the boundaries until a takeover, and its upstream port; none at
  reset. -/
  prev        : Option SrcTrack := none
  prevPort    : Nat := 0
  /-- R36: the driver has written TICK_CTL since the generator moved to the alternate, 1 bit; reset 0. -/
  rewritten   : Bool := false
  /-- R30: time of the last boundary, in 0.625 ns units; reset 0 (DESIGN CHOICE 1). -/
  lastB       : Nat := 0
  /-- R45: time of the next boundary; none while no boundary is due. -/
  nextB       : Option Nat := none
  /-- R27, R38: frequency correction of a tick in 0.625 ns units; reset 0. -/
  corr        : Int := 0
  /-- R33: adjustment of the next tick in 0.625 ns units, within ±16; reset 0. -/
  slew        : Int := 0
  /-- R31: the TICK_OUT pin, 1 bit; reset low. -/
  tickOut     : Bool := false
  /-- R49: the release point of the current tick has passed, 1 bit; reset 1 (DESIGN CHOICE 1: no tick is open). -/
  released    : Bool := true
deriving DecidableEq, Repr

/-! ## Power (R415 to R424) -/

structure Pwr where
  /-- R416: the supply is in its range and SOC and AUX are up, 1 bit; reset 1 (DESIGN CHOICE 2: reset means a powered module). -/
  supply      : Bool := true
  /-- R425, R426: the CELL and SERDES rails are up, 1 bit; reset 0. -/
  rails       : Bool := false
  /-- R416, R423: the ARRAY rails are up, 1 bit; reset 0. -/
  array       : Bool := false
  /-- R460: PERST# is asserted, 1 bit; reset 1 (DESIGN CHOICE 2). -/
  perst       : Bool := true
  /-- R464: the reference clock is present, 1 bit; reset 1 (DESIGN CHOICE 2). -/
  refclk      : Bool := true
  /-- R421: `PWR_CAP`, 32 bits; reset from the active configuration copy (700 and 850, DESIGN CHOICE 3). -/
  cap         : Word := 0x035202BC
  /-- R420: `BOARD_CAP_CONT` in watts; none at reset (no effecter written). -/
  boardCont   : Option Nat := none
  /-- R420: `BOARD_CAP_EXC` in watts; none at reset. -/
  boardExc    : Option Nat := none
  /-- R420: C in force for admissions, in watts; reset 7,000. -/
  capC        : Nat := 7000
  /-- R420: X in force for admissions, in watts; reset 8,500. -/
  capX        : Nat := 8500
  /-- R420, R81: the met tick, 48 bits; reset 0. -/
  met         : Tick := 0
  /-- R450: `PWR_MET_HI`, 16 bits; reset 0. -/
  metHi       : BitVec 16 := 0
  /-- R422: `PWR_STAT.STRETCH_OVER`, W1C; reset 0. -/
  stretchOver : Flag := {}
  /-- R422: `PWR_STAT.TOKEN_OVERRUN`, W1C; reset 0. -/
  tokOverrun  : Flag := {}
  /-- R422: `PWR_STAT.WRITE_REFUSED`, W1C; reset 0. -/
  wrRefused   : Flag := {}
  /-- R422: `PWR_STAT.THERM_EVENT`, W1C; reset 0. -/
  thermEvent  : Flag := {}
  /-- R423: last sample of each floor's hottest junction, 8 values in 0.1 °C; reset 0 (DESIGN CHOICE 4). -/
  temps       : List Nat := List.replicate 8 0
  /-- R423: hottest junction sampled in the present tick, in 0.1 °C; reset 0 (DESIGN CHOICE 4). -/
  tickMax     : Nat := 0
  /-- R422: `THERM_MAX`, 12 bits; reset 0. -/
  thermMax    : BitVec 12 := 0
  /-- R423: THERM_N is driven low, 1 bit; reset 0. -/
  thermLow    : Bool := false
  /-- R424: floors whose clock stretches, with the time it began; none at reset. -/
  droops      : List (Nat × Nat) := []
  /-- R424: time each floor's clock was under stretch in the present tick, in 0.625 ns units; reset 0. -/
  stretched   : List Nat := List.replicate 8 0
  /-- R416, R424: ARRAY set point of each floor, in mV; reset 700. -/
  setPoint    : List Nat := List.replicate 8 700
  /-- R424: ticks of each floor since its last excess; reset 0. -/
  quiet       : List Nat := List.replicate 8 0
  /-- R59, R81: ended ticks with the tokens booked in them, newest first, as far back as a window reaches; empty at reset. -/
  past        : List (Nat × Nat) := []
  /-- R419: energy sampled in the present tick, in µJ; reset 0. -/
  sampled     : Nat := 0
  /-- R419, R52: energy sampled in the ended tick and not yet settled, in µJ; reset 0. -/
  awaiting    : Nat := 0
  /-- R52: tokens granted for the ended tick; reset 0. -/
  granted     : Nat := 0
  /-- R52: tokens of the ended tick that are settled; reset 0. -/
  settled     : Nat := 0
  /-- R52: tokens of the ended tick that are unused; reset 0. -/
  unused      : Nat := 0
  /-- R419: energy of the ended tick charged to the base allowance, in tokens; reset 0. -/
  baseUse     : Nat := 0
  /-- R82: tokens taken from the unbooked tokens of coming ticks, by tick; reset empty. -/
  debts       : List (Nat × Nat) := []
  /-- R419: plans that ran in the ended tick and await settlement: step, tokens booked, tokens used; empty at reset. -/
  dues        : List (PlanKey × Nat × Nat × Nat) := []
  /-- R450: `PWR_INPUT`, 14 bits; reset 0. -/
  input       : BitVec 14 := 0
deriving DecidableEq, Repr

/-! ## Functions, interrupts and rings (R83 to R124, R438 to R442) -/

/-- An MSI-X vector of a function (R121, R122, R442). -/
structure Vec where
  /-- R442: `MSIX_MOD`, 32 bits; reset COUNT 1, DELAY 1. -/
  modr    : Word := 0x00010010
  /-- R438: message address and data of the table entry; reset 0 (PRESUMED 5: the PCI Express standard's table). -/
  addr    : DWord := 0
  data    : Word := 0
  /-- R121: the mask bit of the table entry; reset 1 (PRESUMED 5). -/
  mask    : Bool := true
  /-- R121: the pending bit; reset 0. -/
  pending : Bool := false
  /-- R122: events since the last message; reset 0. -/
  count   : Nat := 0
  /-- R122: of these, events queued before the last boundary; reset 0. -/
  before  : Nat := 0
  /-- R122: the delay of COUNT_DELAY runs, 1 bit; reset 0. -/
  delayOn : Bool := false
  /-- R121: messages written to the host; the model's own count, reset 0. -/
  sent    : Nat := 0
deriving DecidableEq, Repr

/-- The phase and index of a device-written ring (R98, R119, R120). -/
structure RingTail where
  /-- R441: next slot the device writes; reset 0. -/
  tail  : Nat := 0
  /-- R441: phase of the next slot; reset 1. -/
  phase : Bool := true
  /-- R95: the host's head; reset 0. -/
  head  : Nat := 0
  /-- R98: slots written and not consumed; reset 0. -/
  used  : Nat := 0
deriving DecidableEq, Repr

/-- A Mehrong record, built and waiting (R120, R382): its parts, each a byte string with its counter value. -/
structure LedgerRec where
  ctx   : Nat
  plan  : Nat
  seq   : BitVec 63
  bytes : List Byte
deriving DecidableEq, Repr

/-- A function and its BAR0 function page (R438). -/
structure FnPage where
  /-- R123: the function exists (a VF exists while VF Enable covers it); reset: the PF alone. -/
  present  : Bool := false
  /-- R438: `CR_SQ_BASE`, `CR_CQ_BASE`, 64 bits; reset 0. -/
  crSqBase : DWord := 0
  crCqBase : DWord := 0
  /-- R440: `CR_CFG`, 32 bits; reset 0. -/
  crCfg    : Word := 0
  /-- R438, R441: `FR_BASE`, `FR_CFG`; reset 0. -/
  frBase   : DWord := 0
  frCfg    : Word := 0
  /-- R441: `FR_TAIL` with the ring's head; reset tail 0, phase 1, head 0. -/
  fr       : RingTail := {}
  /-- R438, R441: `LR_BASE`, `LR_CFG`; reset 0. -/
  lrBase   : DWord := 0
  lrCfg    : Word := 0
  /-- R441: `LR_TAIL` with the ring's head; reset tail 0, phase 1, head 0. -/
  lr       : RingTail := {}
  /-- R439: `HOST_STAT.DB_DROP`, W1C; reset 0. -/
  dbDrop   : Flag := {}
  /-- R439: `HOST_STAT.FR_OFF`, W1C; reset 0. -/
  frOff    : Flag := {}
  /-- R439: `HOST_STAT.LR_OFF`, W1C; reset 0. -/
  lrOff    : Flag := {}
  /-- R439: `HOST_STAT.WRITE_REFUSED`, W1C; reset 0. -/
  wrRef    : Flag := {}
  /-- R442: the 32 vectors, absent ones at reset. -/
  vecs     : List (Nat × Vec) := []
  /-- R121: the function mask; reset 0 (PRESUMED 5). -/
  fnMask   : Bool := false
  /-- R86: IDE streams set up for the function by IDE_KM; reset 0. -/
  ide      : Nat := 0
  /-- R86: IDE check failures reported through AER; the model's own count, reset 0. -/
  aerIde   : Nat := 0
  /-- R88: failures reported through AER; the model's own count, reset 0. -/
  aerHost  : Nat := 0
  /-- R123: the power state is D3hot, 1 bit; reset 0 (D0). -/
  d3hot    : Bool := false
  /-- R107, R120: Mehrong records built and waiting; empty at reset. -/
  ledger   : List LedgerRec := []
  /-- R87: PASIDs (none: without one) whose translations the function caches; empty at reset. -/
  atc      : List (Option (BitVec 20)) := []
  /-- R87: ATS invalidations that wait, each with the requests (context, tag) that still use its translation; none at reset. -/
  atsWait  : List (List (Nat × Nat)) := []
  /-- R87: ATS invalidations completed; the model's own count, reset 0. -/
  atsDone  : Nat := 0
deriving DecidableEq, Repr

/-- A completion entry (R100), before its ring fields are known. -/
structure CEntry where
  userId  : DWord
  /-- index of the tag it carries (R99) -/
  tag     : Nat
  kind    : BitVec 4
  code    : Byte
  cause   : Byte
  aux     : BitVec 16
  hold    : Bool
  slid    : Bool
  recomp  : Bool
  notRep  : Bool
  tickA   : Tick
  planId  : BitVec 16
  tickB   : Tick
  opcode  : Byte
  noIrq   : Bool
  /-- R99: tags that its plan booked, for an OUTPUT or END entry -/
  limit   : Nat := 0
deriving DecidableEq, Repr

/-- Who uses a tag (R99): a descriptor of a context, or an OUTPUT or END entry of a plan. -/
inductive TagOwner
  | desc (ctx : Nat)
  | plan (key : PlanKey)
  | charged (key : PlanKey)       -- left unconsumed by a plan that has ended (R58)
deriving DecidableEq, Repr

/-- A command tag in use (R52, R99): in flight, or awaiting consumption in the completion ring of a context. -/
structure TagUse where
  tag      : Nat
  owner    : TagOwner
  awaiting : Option Nat           -- the context whose ring holds its entry
deriving DecidableEq, Repr

/-- A MOVE in progress (R109, R110). -/
structure MoveJob where
  desc : Desc
  tag  : Nat
  data : List Byte
deriving DecidableEq, Repr

/-- A descriptor that has been fetched and waits to complete (R103, R113, R112, R108, R114). -/
inductive WaitKind
  | tick (num : Nat)              -- TICK_WAIT for a local tick
  | publish (table : Nat)         -- PUBLISH of a table (0: the address table)
  | pageWrite (desc : Desc) (entries : List Byte)   -- WRITE that waits for a pending PUBLISH of its table
  | withdraw (key : PlanKey)      -- PLAN_WITHDRAW after the END entry
  | admission                     -- PLAN waiting for its decision
  | move                          -- MOVE in progress
  | close (ctx : Nat) (force : Bool) (waits : List PlanKey) (begun : Bool)   -- CTX_CLOSE: the plans whose admission it waits for
  | image                         -- IMAGE_STORE, IMAGE_LOAD or IMAGE_DELETE in progress or waiting
  | update                        -- FW_UPDATE or CONFIG_UPDATE writing or waiting
  | job (stream : Nat)            -- CODEC_JOB
  | streamClose (stream : Nat)
deriving DecidableEq, Repr

/-- A fetched descriptor that has not written its DESC or ADMIT entry (R103). -/
structure OpenDesc where
  tag    : Nat
  userId : DWord
  noIrq  : Bool
  opcode : Byte
  planId : BitVec 16
  wait   : WaitKind
deriving DecidableEq, Repr

/-- A segment of the address table (R284, R285): the entry's 16 bytes as two words, and its extents (device extent
numbers of 2 MiB, in ascending virtual order; empty for PIN). -/
structure Seg where
  lo      : DWord
  hi      : DWord
  extents : List Nat
deriving DecidableEq, Repr

/-- Address-table staging (R112, R286): the entries written, and an accepted PUBLISH with the table it will make current. -/
structure AddrTable where
  /-- R284: entries of the current generation by index, absent ones EMPTY; empty at reset. -/
  cur     : List (Nat × Seg) := []
  /-- R286: number of the current generation, 32 bits; reset 0 (DESIGN CHOICE 6). -/
  gen     : Word := 0
  /-- R112: the staging's written entries, as two words each; none at reset. -/
  staging : Option (List (Nat × DWord × DWord)) := none
  /-- R286: the table an accepted PUBLISH makes current at the next release point; none at reset. -/
  next    : Option (List (Nat × Seg)) := none
  /-- R286: extents that stopped translating and await the latch; empty at reset. -/
  freeing : List Nat := []
deriving DecidableEq, Repr

/-! ## Codec streams (R349 to R367) -/

/-- A displacement (R356). -/
structure Mv where
  x : Int
  y : Int
deriving DecidableEq, Repr

/-- R356: a plane of luma samples, row by row. -/
structure Plane where
  w  : Nat
  h  : Nat
  px : List Nat
deriving DecidableEq, Repr

/-- R351, R356: a picture in an encode stream's picture buffer: its display number and samples, the two levels of its motion-search
pyramid, and its motion field, per unit the references and displacements. -/
structure BufPic where
  frame   : Nat
  bytes   : List Byte
  half    : Plane
  quarter : Plane
  motion  : List (List (Nat × Mv))
deriving DecidableEq, Repr

/-- A job of a stream (R364). -/
structure Job where
  desc    : Desc
  tag     : Nat
  /-- the tick in which its wait condition was met, none while it waits -/
  ready   : Option Nat
  /-- the plan it waits for, if any -/
  waits   : Option (PlanKey × Nat)
  started : Bool
  /-- a RANDOM_ACCESS job held in its mini-GOP (R357) -/
  held    : Bool
  /-- the tick in which its record first did not fit the ring (R367), none while it has not waited -/
  blocked : Option Nat := none
  /-- R361, R367: a reading of the count has left it waiting for ring space -/
  waited  : Bool := false
  /-- the picture, or the unit, read at its start -/
  input   : List Byte := []
  /-- R367: display-order number of its picture -/
  frame   : Nat := 0
  /-- R357: key picture -/
  idr     : Bool := false
  /-- R358: recovery point -/
  clean   : Bool := false
  /-- R357: a picture within a mini-GOP, predicted from both sides -/
  bi      : Bool := false
  /-- R358: pictures since the last key picture -/
  gpos    : Nat := 0
deriving DecidableEq, Repr

structure Stream where
  /-- R363: `stream_id`. -/
  sid      : Nat
  /-- R363: the 128-byte parameter block. -/
  params   : List Byte
  /-- R353: engines held. -/
  engines  : List Nat
  jobs     : List Job := []
  /-- R367: bytes written to the ring, PAD records included; reset 0. -/
  written  : Nat := 0
  /-- R367: the host's count of consumed bytes as last read; reset 0. -/
  consumed : Nat := 0
  /-- R367: pictures so far; reset 0. -/
  frames   : Nat := 0
  /-- R365: units decoded, in order; R355: pictures coded, in coding order, with their jobs' flags; empty at reset. -/
  units    : List (List Byte) := []
  pictures : List (List Byte) := []
  flags    : List Nat := []
  /-- R351: an encode stream's picture buffer, the newest picture first; empty at reset. -/
  buffer   : List BufPic := []
  /-- R365: pictures that a decode stream has output; reset 0. -/
  shown    : Nat := 0
  /-- R367: digests of the access units written, and R359 their sizes. -/
  digests  : List (List Byte) := []
  sizes    : List Nat := []
  /-- R357, R358: pictures since the last key picture; none before the first. -/
  sinceKey : Option Nat := none
  /-- R367: plans whose outputs its jobs have waited for. -/
  plans    : List PlanKey := []
  /-- R365: later units are discarded until a key picture. -/
  broken   : Bool := false
  /-- R351: the host has accessed its picture buffer, and its later output is unspecified; reset 0. -/
  spoiled  : Bool := false
  /-- R366: a STREAM_CLOSE in progress, by its tag; none while open. -/
  closing  : Option Nat := none
deriving DecidableEq, Repr

/-! ## Key-value tables (R233 to R261) -/

/-- R236: the state of a table entry. -/
inductive KvEntry
  | empty
  | page (frame fill : Nat) (droppable : Bool)
  | dropped (fill tick : Nat)
deriving DecidableEq, Repr

/-- A device edit pending for the next generation (R238). -/
structure KvEdit where
  index : Nat
  entry : KvEntry
deriving DecidableEq, Repr

/-- A candidate session (R259, R260): the tree record's parents, and each candidate's overlay. -/
structure KvSession where
  key      : PlanKey
  room     : Nat
  tree     : List Byte
  parents  : List (Option Nat)
  overlays : List (List (Nat × KvEntry))
deriving DecidableEq, Repr

structure KvTable where
  ctx      : Nat
  handle   : Nat
  /-- R111: 14 to 18. -/
  pageLog2 : Nat
  /-- R236: 1 to 16,777,216 entries. -/
  size     : Nat
  /-- R238: number of the current generation, 32 bits; 0 when new. -/
  gen      : Word := 0
  /-- R238: entries of the current generation, absent ones EMPTY. -/
  cur      : List (Nat × KvEntry) := []
  /-- R238: the staging's written entries, as two words each. -/
  staging  : Option (List (Nat × DWord × DWord)) := none
  /-- R238: a PUBLISH is pending. -/
  pub      : Bool := false
  /-- R238: device edits pending, oldest first. -/
  edits    : List KvEdit := []
  /-- R238: older live generations. -/
  live     : List (Word × List (Nat × KvEntry)) := []
  /-- R259: the open session. -/
  session  : Option KvSession := none
deriving DecidableEq, Repr

/-- A frame record at its home slice (R233). -/
structure Frame where
  base  : Nat
  ctx   : Nat
  log2  : Nat
  /-- R239: reference count. -/
  count : Nat
  /-- R239: decrements pending at the home slice. -/
  pend  : Nat := 0
  /-- R233: local tick of the last touch. -/
  touch : Nat := 0
  /-- R240: number of the context's latest walk when the count reached zero. -/
  stamp : Option Nat := none
  /-- R48: in the reclaim set. -/
  reclaim : Bool := false
deriving DecidableEq, Repr

/-! ## Contexts -/

structure Ctx where
  /-- R446: FUNC, 7 bits; reset 0 for context 0, 0x7F otherwise. -/
  func     : BitVec 7 := 0x7F
  /-- R446: LOCAL, 10 bits; reset 0. -/
  loc      : BitVec 10 := 0
  /-- R446: PASID and PASID_EN; reset 0. -/
  pasid    : BitVec 20 := 0
  pasidEn  : Bool := false
  /-- R446: QUOTA, 20 bits; reset 0. -/
  quota    : BitVec 20 := 0
  /-- R93: reset CLOSED. -/
  state    : CtxState := .closed
  /-- R94, R114: ring bases, sizes and vector; reset 0. -/
  sqBase   : DWord := 0
  cqBase   : DWord := 0
  sqLog2   : Nat := 0
  cqLog2   : Nat := 0
  vector   : Nat := 0
  /-- R94 to R97: SQ tail published, SQ head; reset 0. -/
  sqTail   : Nat := 0
  sqHead   : Nat := 0
  /-- R52: submission slots that the host owns; reset 0. -/
  sqFree   : Nat := 0
  /-- R94, R98: completion ring tail, phase, head; reset tail 0, phase 1, head 0. -/
  cq       : RingTail := {}
  /-- R97: the fetch timer runs, 1 bit; reset 0. -/
  timer    : Bool := false
  /-- R98: entries that wait as host holds, oldest first. -/
  holds    : List CEntry := []
  /-- R88: entries are held because a write of theirs failed, 1 bit; reset 0. -/
  cqBad    : Bool := false
  /-- R88: the data access of the next descriptor that reads or writes host data and completes at once fails so; none at reset. -/
  dataFail : Option (HostErr × DWord) := none
  /-- R97, R103: the tag of a descriptor that has been fetched and that its fence keeps from starting; none at reset. -/
  fetched  : Option Nat := none
  /-- R364: plans whose END entry waits to be written: plan_id, and code of each output; none at reset. -/
  endings  : List (Nat × List (Nat × Nat)) := []
  /-- R98, R99: tags of the entries in the ring, oldest first. -/
  inRing   : List Nat := []
  /-- R103: fetched descriptors without their entry, oldest first. -/
  opens    : List OpenDesc := []
  /-- R284. -/
  addr     : AddrTable := {}
  /-- R110: MOVEs in progress, oldest first. -/
  moves    : List MoveJob := []
  /-- R240: walks started. -/
  walks    : Nat := 0
  /-- R77: deadline misses of the context. -/
  misses   : Nat := 0
  /-- R363: open streams. -/
  streams  : List Stream := []
deriving DecidableEq, Repr

/-! ## Plans (R54 to R82, R106 to R108, R470) -/

/-- A demand entry (R62). -/
structure Demand where
  book   : Nat
  index  : Nat
  amount : Nat
deriving DecidableEq, Repr

/-- A step record with its entry lists (R61). -/
structure StepRec where
  demands    : List Demand
  cheaper    : List Demand
  policy     : Nat
  bound      : Bool
  hasCheaper : Bool
deriving DecidableEq, Repr

/-- An output record (R63) and what has become of the output (R107). -/
structure OutStat where
  step     : Nat
  outId    : Nat
  promised : Nat := 0
  /-- completion code, once queued -/
  done     : Option Byte := none
  cause    : Byte := 0
  tick     : Nat := 0
  hold     : Bool := false
  notRep   : Bool := false
  /-- R74: its PROMISE_MISS has been raised -/
  missed   : Bool := false
  /-- R388: digest of its ranges -/
  digest   : List Byte := []
deriving DecidableEq, Repr

/-- A room record (R130). -/
structure RoomRec where
  room     : Nat
  image    : Nat
  spadBase : Nat
  spadLen  : Nat
  accBase  : Nat
  accLen   : Nat
  imemBase : Nat
  imemLen  : Nat
  tblBase  : Nat
  tblLen   : Nat
deriving DecidableEq, Repr

/-- A room program image: its place in the plan binary and its header (R129, R134), with its restore entry (R402). -/
structure ImageRec where
  offset    : Nat
  length    : Nat
  codeWords : Nat
  entry     : Nat
  descOff   : Nat
  descLen   : Nat
  constOff  : Nat
  constLen  : Nat
  restore   : Option (Nat × Nat) := none
deriving DecidableEq, Repr

/-- A shape operand (R188). -/
structure ShapeOp where
  src   : Nat
  limit : Nat
deriving DecidableEq, Repr

/-- A table record of the walker section (R242). -/
structure WalkTable where
  handle    : Nat
  write     : Bool
  recompute : Bool
  latent    : Bool
  fmtK : Nat
  fmtV : Nat
  scale : Nat
  dK : Nat
  dV : Nat
  nt : Nat
  nh : Nat
  nw : Nat
  expDk : Nat
  expDv : Nat
  statusAddr : Nat
deriving DecidableEq, Repr

/-- A group record (R328). -/
structure GroupRec where
  key      : Word
  members  : List Nat
  carriers : List Nat
deriving DecidableEq, Repr

/-- A collective record (R329). -/
structure CollRec where
  group : Nat
  op : Nat
  rop : Nat
  alg : Nat
  wireFmt : Nat
  resFmt : Nat
  vc : Nat
  bound : Bool
  stageBufs : Nat
  step : Nat
  order : Nat
  root : Nat
  elems : Nat
  chunk : Nat
deriving DecidableEq, Repr

/-- A pin record (R290). -/
structure PinRec where
  id : Nat
  slice : Nat
  granules : Nat
deriving DecidableEq, Repr

/-- A record of the weight section (R376). -/
structure WeightRec where
  imageId : Nat
  vaBase  : Nat
  digest  : List Byte
deriving DecidableEq, Repr

/-- A parameter record of the training section (R273). -/
structure ParamRec where
  paramId : Nat
  mode : Nat
  blocks : Bool
  rows : Nat
  cols : Nat
  wAddr : Nat
  wLen : Nat
  gAddr : Nat
  maskAddr : Nat
  tieGroup : Nat
  useIndex : Nat
deriving DecidableEq, Repr

/-- The training section (R272). -/
structure TrainSec where
  gradFmt : Nat
  wireFmt : Nat
  testMode : Bool
  updateCount : Nat
  hyperAddr : Nat
  params : List ParamRec
deriving DecidableEq, Repr

/-- The parsed plan binary (R470): one field group per section. -/
structure PlanBody where
  period      : Nat
  budget      : Nat
  defPolicy   : Nat
  startMode   : Nat
  startTick   : Nat
  steps       : List StepRec
  recompute   : Option StepRec
  outputs     : List (Nat × Nat)
  images      : List ImageRec
  rooms       : List RoomRec
  epoch       : Nat
  reference   : Bool
  shape       : List ShapeOp
  inputDigest : List Byte
  replayCount : Nat
  replayAddr  : Nat
  ranges      : List (Nat × Nat × Nat)
  tables      : List (List Byte)
  micros      : List (List Byte)
  preloads    : List (Nat × Nat × Nat)
  recompAddr  : Nat
  recompMax   : Nat
  walkTables  : List WalkTable
  pins        : List PinRec
  collTag     : Option DWord
  groups      : List GroupRec
  colls       : List CollRec
  training    : Option TrainSec
  weights     : List WeightRec
deriving DecidableEq, Repr

/-- The run of a tick step (R49, R75). -/
structure StepRun where
  /-- the step index; 0xFF_FFFF for the recompute step (R257) -/
  k         : Nat
  cheaper   : Bool
  tick      : Nat
  released  : Bool := false
  /-- rooms that have not executed the step's end -/
  rooms     : List Nat := []
  finished  : Bool := false
  /-- R80: running late under CONTINUE_LATE -/
  late      : Bool := false
  /-- cause of the first refusal or loss, 0 while none -/
  cause     : Byte := 0
  /-- R193: output tags of its NESTs and walks, with whether one was not empty -/
  tags      : List (Nat × Bool) := []
  /-- R258: outputs tagged by its PGATHERs, and whether a skipped page was delivered -/
  walkTags  : List Nat := []
  skipped   : Bool := false
  /-- R299: a transfer of the step was late -/
  lateFetch : Bool := false
  /-- R189: the latched operand values -/
  shapes    : List DWord := List.replicate 8 0
deriving DecidableEq, Repr

/-- What the plan does next. -/
inductive PlanPhase
  | waiting                        -- fetched, its admission undecided (R69)
  | admitted
deriving DecidableEq, Repr

/-- An item of the Mehrong record (R382, R383): type and body. -/
structure Item where
  type : Nat
  body : List Byte
deriving DecidableEq, Repr

structure Plan where
  key       : PlanKey
  desc      : Desc
  tag       : Nat
  phase     : PlanPhase := .waiting
  body      : Option PlanBody := none
  /-- R388: SHA-512 of the binary with the replay fields read as zero -/
  digest    : List Byte := []
  /-- R68: T0, local and system -/
  t0        : Nat := 0
  t0sys     : Tick := 0
  /-- R65: M -/
  margin    : Nat := 0
  /-- R71: slides of the plan's bookings, newest first: tick t, d, and whether the bookings of t itself moved -/
  slides    : List (Nat × Nat × Bool) := []
  /-- R73: recompute steps inserted -/
  inserted  : Nat := 0
  /-- the next step to release -/
  next      : Nat := 0
  run       : Option StepRun := none
  /-- R79: steps that run their cheaper step -/
  cheap     : List Nat := []
  /-- R79: steps whose outputs wait, with the step whose cheaper step completes them -/
  carry     : List (Nat × Nat) := []
  /-- R80: steps that missed their watch before their release and run late -/
  lateAgain : List Nat := []
  /-- R79: steps abandoned before their release -/
  skip      : List Nat := []
  /-- R107: a step missed its watch and ran late -/
  ranLate   : Bool := false
  /-- R189, R383: values latched for each step's shape operands that have a source -/
  latched   : List (Nat × List DWord) := []
  /-- R257: the recompute step runs at the coming release point -/
  insert    : Bool := false
  /-- R71: the step whose run a fault interrupted -/
  rerun     : Option Nat := none
  /-- R79: consecutive misses -/
  missRow   : Nat := 0
  outs      : List OutStat := []
  /-- R108: stops at the next boundary, with this cause for its outputs (0, or FAULT under R377) -/
  stopping  : Option Byte := none
  /-- R78, R108: code and cause of the outputs that its stop at this boundary completes -/
  stopAs    : Option (Byte × Byte) := none
  /-- R123, R440: writes none of its entries -/
  silent    : Bool := false
  /-- R123: its Mehrong record is discarded -/
  noRecord  : Bool := false
  /-- R78, R108: stopped; no step runs any more -/
  stopped   : Bool := false
  /-- last tick in which the plan ran -/
  lastTick  : Nat := 0
  /-- R389: the replay list's 32-byte entries -/
  replay    : List (List Byte) := []
  items     : List Item := []
  /-- R80: it ran past its last booked tick -/
  overran   : Bool := false
  /-- R106: the host has changed its binary since the PLAN descriptor -/
  changed   : Bool := false
  /-- R276: the host has changed a bitmap of it while it is admitted -/
  maskChanged : Bool := false
  /-- R270: parameter blocks whose contents a host may read: record and block, the newest update first -/
  readable  : List (Nat × Nat) := []
deriving DecidableEq, Repr

/-! ## Rooms and room programs (R125 to R158) -/

/-- A declared range (R126): bytes of the scratchpad, accumulator tiles, vector registers, masks, table banks. -/
inductive Space
  | spad | acc | vreg | mask | bank
  | ctx                            -- R72: context virtual addresses
  | ge                             -- R72: the same, as a FLAG_WAIT with the ≥ condition reads them
  | frame                          -- R78: device addresses of key-value frames
deriving DecidableEq, Repr

structure Range where
  space : Space
  lo    : Nat
  hi    : Nat                      -- first after the range
deriving DecidableEq, Repr

/-- How an outstanding instruction ends. -/
inductive OutEnd
  | unit                           -- by its unit alone (INSTRUCTION_COMPLETE, or a later hold)
  | chunk (slot : Nat)             -- by WALK_CHUNK_LAND
  | late                           -- by DMA_LATE or INSTRUCTION_COMPLETE of a DMA_IN with a late limit
  | alloc                          -- a STORE whose allocation waits (R252)
  | send (id : Nat)                -- a PORCH_SEND, once its last piece has been read
  | recv (id : Nat)                -- a PORCH_RECV, by its last PIECE
  | atom                           -- by PATOM_PERFORM
  | pred                           -- by PRED_CONTRIBUTION
  | wall (dir : Nat)               -- a WALL_PUT, by HALO_LAND at the neighbour in that direction
deriving DecidableEq, Repr

/-- An outstanding asynchronous instruction of a room (R125, R126). -/
structure Out where
  unit   : Nat
  reads  : List Range
  writes : List Range
  ends   : OutEnd
  /-- R205: of a NEST, the bytes that its MMAs read and what it writes (R187); empty for every other instruction -/
  nestR  : List Range := []
  nestW  : List Range := []
  /-- R152: a FENCE WRITES orders it before every later write that leaves the room -/
  fenced : Bool := false
deriving DecidableEq, Repr

/-- What the sequencer waits for. -/
inductive ThWait
  | flag (pa : Nat) (value : DWord) (eq : Bool)
  | halo (dir : Nat) (value : Word)
  | units (mask : Nat)
  | fence                          -- FENCE FULL
  | stepEnd
  | progEnd
  | atom (reg : Nat)
deriving DecidableEq, Repr

/-- R135, R156: the state of a room program. -/
inductive ThStat
  | barrier                        -- between steps
  | running
  | waiting (w : ThWait)
  | refused                        -- executes nothing further for the step (R156)
  | ended                          -- after PROG_END
deriving DecidableEq, Repr

/-- A REPEAT level (R137): the body's first index, its length, and the passes left. -/
structure Rep where
  start : Nat
  len   : Nat
  left  : Nat
deriving DecidableEq, Repr

/-- A halo under way (R196 to R198): its step number, its destination offset in the receiver's window, its bytes. -/
structure Halo where
  step  : Word
  dst   : Nat
  bytes : List Byte
deriving DecidableEq, Repr

/-- Wall state of a plan on a room (R196): step register, and F and C by direction. -/
structure Wall where
  step : Word := 1
  f    : List Word := [0, 0, 0, 0]
  c    : List Word := [0, 0, 0, 0]
deriving DecidableEq, Repr

/-- The kept sequencer state (R136, R199). -/
structure Kept where
  regs  : Vector DWord 32
  preds : Byte
  pc    : Nat
  calls : List Nat
  reps  : List Rep
  wall  : Wall
  active : List (Nat × Nat)
  /-- the step at whose release it was captured -/
  step   : Nat := 0
  /-- R472: that release was the plan's first on the room -/
  first  : Bool := false
deriving DecidableEq, Repr

/-- A walk in a slot (R247). -/
structure Walk where
  slot   : Nat
  number : Nat
  handle : Nat
  gen    : Word
  desc   : List Byte
  query  : DWord
  /-- requested chunks: chunk index, slot address, program counter -/
  chunks : List (Nat × Nat × Nat)
  /-- R247: it has delivered its list's last chunk, or a new walk has replaced it. -/
  ended  : Bool := false
deriving DecidableEq, Repr

/-- A DMA_IN with a late limit in progress (R299). -/
structure LateDma where
  desc : List Byte
  sa   : Nat
  sb   : Nat
  pc   : Nat
  occ  : Nat
deriving DecidableEq, Repr

/-- A STORE that waits for a frame (R252). -/
structure StoreWait where
  desc : List Byte
  sa   : Nat
  sb   : DWord
  /-- R292: its place in the order in which allocations began to wait -/
  ord  : Nat
deriving DecidableEq, Repr

/-- A pantry atomic on its way (R301). -/
structure Atom where
  pa   : Nat
  /-- R16: its context address -/
  va   : Nat
  aop  : Nat
  w32  : Bool
  ret  : Option Nat
  val  : DWord
  cmp  : DWord
deriving DecidableEq, Repr

/-- A PRED contribution on its way (R302): the descriptor, the leaf, the elements. -/
structure PredReq where
  desc : List Byte
  leaf : Nat
  vals : List Word
deriving DecidableEq, Repr

/-- A peer that an instance has named (R338): its announce has been sent, and theirs has matched. -/
structure PeerSt where
  rank    : Nat
  carr    : Nat
  sent    : Bool := false
  matched : Bool := false
deriving DecidableEq, Repr

/-- A collective instance open on a room (R337, R338). -/
structure Inst where
  /-- the model's own number of the instance on its room -/
  id      : Nat
  coll    : Nat
  group   : Nat
  bound   : Bool
  sysTick : Tick
  seq     : Word
  peers   : List PeerSt := []
deriving DecidableEq, Repr

/-- A PORCH_SEND or PORCH_RECV in progress (R334 to R339). -/
structure Xfer where
  id    : Nat
  /-- the number of its instance -/
  inst  : Nat
  send  : Bool
  coll  : Nat
  peer  : Nat
  carr  : Nat
  tag   : Word
  elems : Nat
  fp32  : Bool
  buf   : Nat
  addr  : Nat
  /-- SEND: the wire bytes -/
  bytes : List Byte
  /-- RECV: pieces landed -/
  got   : Nat := 0
  sysTick : Tick
  seq   : Word
  /-- its program counter -/
  pc    : Nat
  /-- R339: its match failed, and its pieces are discarded -/
  bad   : Bool := false
deriving DecidableEq, Repr

/-- R342: the state of a staging buffer. -/
inductive Stage | free | midReduction | holding
deriving DecidableEq, Repr

/-- Counts of a room's work for a plan in a tick (R419): array cycles of 4-, 8- and 16-bit formats, operations of the
vector, function and move units. -/
structure Meter where
  c4  : Nat := 0
  c8  : Nat := 0
  c16 : Nat := 0
  vec : Nat := 0
  fnu : Nat := 0
  mov : Nat := 0
deriving DecidableEq, Repr

structure Thread where
  tid     : Tid
  stat    : ThStat := .barrier
  /-- R472: the plan has not yet been released on the room. -/
  fresh   : Bool := true
  /-- R403: it runs its image's restore program. -/
  restore : Bool := false
  /-- R403: the sequencer state to which its restore program returns. -/
  back    : Option Kept := none
  /-- R403: its restore program was stopped: the coming release passes without it. -/
  noRun   : Bool := false
  /-- R137: s0 to s31; reset 0 (R472). -/
  regs    : Vector DWord 32 := Vector.replicate 32 0
  /-- R137: p0 to p7, bit i is p_i; reset false, p0 always true. -/
  preds   : Byte := 1
  /-- R137: v0 to v31, 64 lanes each; reset +0 (R472). -/
  vregs   : Vector (List Word) 32 := Vector.replicate 32 (List.replicate 64 0)
  /-- R137: m0 to m7; reset 0 but m0 all ones (R472). -/
  masks   : Vector DWord 8 := (Vector.replicate 8 0).setIfInBounds 0 0xFFFFFFFFFFFFFFFF
  /-- R137: call stack, newest first; reset empty. -/
  calls   : List Nat := []
  /-- R137: REPEAT stack, newest first; reset empty. -/
  reps    : List Rep := []
  /-- R137: program counter, 12 bits; at the image's entry. -/
  pc      : Nat := 0
  /-- R196. -/
  wall    : Wall := {}
  /-- R197: halos under way to this room, with the direction they come from, oldest first. -/
  inbound : List (Nat × Halo) := []
  /-- R205: halos that have landed since C was captured, with the direction they came from, oldest first; empty at first release. -/
  landed  : List (Nat × Halo) := []
  /-- R198: puts held at this room's wall port, with the direction they go, oldest first. -/
  held    : List (Nat × Halo) := []
  /-- R126: outstanding instructions, oldest first. -/
  outs    : List Out := []
  /-- R247: the walk slots in use. -/
  walks   : List Walk := []
  lates   : List LateDma := []
  stores  : List StoreWait := []
  atoms   : List Atom := []
  predq   : List PredReq := []
  insts   : List Inst := []
  xfers   : List Xfer := []
  /-- number of the next transfer -/
  ticket  : Nat := 0
  /-- R337: unbound instances opened, by group. -/
  opened  : List (Nat × Nat) := []
  /-- R340: bound instances closed: collective, system tick, order. -/
  closed  : List (Nat × Tick × Word) := []
  /-- R342: staging buffers (collective, buffer) with their states. -/
  stages  : List ((Nat × Nat) × Stage) := []
  /-- R136: the state captured at the last release point at which the program resumed. -/
  kept    : Option Kept := none
  /-- R224, R225: slots whose active bank, and whose inactive bank, holds a table of the plan, with the table's id. -/
  active  : List (Nat × Nat) := []
  filled  : List (Nat × Nat) := []
  meter   : Meter := {}
  /-- R299, R384: DMA_INs executed in the step by program counter (the occurrence of the LATE record). -/
  occs    : List (Nat × Nat) := []
  /-- R72, R78: the model's own record of the step's accesses on the room: locations read before the step wrote them,
  locations written, and those written after such a read. -/
  rds     : List Range := []
  wrs     : List Range := []
  dirty   : List Range := []
deriving DecidableEq, Repr

/-- A pantry reduction instance (R302). -/
structure PredInst where
  key    : PlanKey
  redId  : Nat
  step   : Nat
  desc   : List Byte
  leaves : List (Nat × List Word)
  bad    : Bool := false
deriving DecidableEq, Repr

/-! ## Faults (R390 to R414) -/

/-- A fault record (R119); the phase bit is the ring's. -/
structure FaultRec where
  code    : BitVec 16
  sev     : BitVec 4
  ctx     : Option Nat
  planId  : BitVec 16
  tick    : Tick
  sysTick : Tick
  step    : BitVec 24
  action  : Byte
  room    : BitVec 13
  slot    : BitVec 7
  d0      : DWord
  d1      : DWord
  seq     : DWord
  rep     : Word
  /-- rings that have not received it yet: the PF's, and a VF's -/
  needPf  : Bool
  needVf  : Option Nat
deriving DecidableEq, Repr

/-- R394: a source of CORRECTED events: its last record's tick and the events folded since. -/
structure CorrSrc where
  code   : BitVec 16
  src    : Nat
  tick   : Nat
  folded : Nat
deriving DecidableEq, Repr

structure FaultLog where
  /-- R393: records waiting, oldest first; reset empty. -/
  waiting  : List FaultRec := []
  /-- R451: the newest 4,096 records, newest first; reset empty. -/
  newest   : List FaultRec := []
  /-- R394: the records of the newest ticks, newest first, which further events of their tick fold into; reset empty. -/
  ofTick   : List FaultRec := []
  /-- R393: `seq` of the next record; reset 1. -/
  nextSeq  : DWord := 1
  /-- R451: `FLOG_OVERFLOW`, 32 bits, saturating; reset 0. -/
  overflow : Word := 0
  /-- R396: counters by fault code, 32 bits, saturating; reset 0. -/
  counts   : List (Nat × Word) := []
  /-- R451: `FLOG_SEL`; reset 0. -/
  sel      : Word := 0
  /-- R451: `FLOG_NEWEST_HI` as latched; reset 0. -/
  newHi    : Word := 0
  /-- R394. -/
  corr     : List CorrSrc := []
  /-- R77: deadline misses of the device; reset 0. -/
  misses   : Nat := 0
deriving DecidableEq, Repr

/-- R405: an entry of the repair map. -/
structure Repair where
  part      : Part
  permanent : Bool
deriving DecidableEq, Repr

/-- The hardware in service (R13, R14, R19, R20). -/
structure Hw where
  /-- R14: logical rooms not held by the physical slot of their own number, with the slot that holds them. -/
  bound     : List (Nat × Nat) := []
  /-- R404, R405: physical rooms and cores out of service. -/
  retired   : List Part := []
  /-- R19: the failed hall core whose duty H15 holds. -/
  duty      : Option Nat := none
  /-- R362: codec engines that have failed. -/
  engines   : List Nat := []
  /-- R304: tick-independent wear figures are records only; corrected errors by tier (R303), 7 counters. -/
  eccCounts : List Nat := List.replicate 7 0
deriving DecidableEq, Repr

/-- A recovery under way (R399). -/
structure Recov where
  tick    : Nat
  sysTick : Tick
  /-- a tick step lost work, so the device slides -/
  lost    : Bool
  /-- R325: ports that retrain -/
  ports   : List Nat := []
  /-- R400, R71: rooms whose work the recovery touches: a release point that it covers passes without them -/
  rooms   : List Nat := []
  /-- R400: rooms under substitution (their sequencers run nothing until service resumes) -/
  halted  : List Nat := []
  /-- R19: a hall duty is moving (H11 to H13: rings pause) -/
  hall    : Option Nat := none
  /-- R405: parts to enter into the repair map once service resumes -/
  repairs : List Repair := []
deriving DecidableEq, Repr

/-- A row of the latched books (R52): book 1 to 7, unit, the two sides of its equation. -/
structure BookRow where
  book : Nat
  unit : Nat
  lhs  : Int
  rhs  : Int
deriving DecidableEq, Repr

/-! ## Links (R306 to R326) -/

/-- The partner at the far end of a port (R309). -/
structure Partner where
  fabric  : Nat
  uid     : DWord
  product : Word
  proto   : Byte
  bundle  : Word
  port    : BitVec 16
  allot   : List Nat
deriving DecidableEq, Repr

/-- A DATA flit in the replay buffer or waiting to be sent (R313, R315). -/
structure TxFlit where
  seq     : BitVec 16
  vc      : Nat
  som     : Bool
  payload : List Byte
  tries   : Nat
deriving DecidableEq, Repr

structure Port where
  /-- R429: the port record of the configuration copy in use. -/
  mode    : PortMode := .off
  maxRate : Nat := 2
  vlan    : Bool := false
  vlanId  : BitVec 12 := 0
  weights : List Nat := List.replicate 8 1
  allot   : List Nat := List.replicate 8 256
  mac     : BitVec 48 := 0
  /-- R308; reset DOWN. -/
  state   : LinkState := .down
  /-- R306: lane rate 0, 1, 2 and full width; reset 0 and full. -/
  rate    : Nat := 0
  full    : Bool := true
  /-- R325: the half in use at half width. -/
  half    : Nat := 0
  lost    : List Nat := []
  /-- R314, R325: the training is a retrain, which keeps replay buffer and credits. -/
  retrain : Bool := false
  partner : Option Partner := none
  /-- R309: the partner's HELLO, and a HELLO_ACK, have arrived. -/
  gotHello : Bool := false
  gotAck  : Bool := false
  /-- R313: next sequence number to send, last received in order. -/
  txSeq   : BitVec 16 := 0
  rxSeq   : BitVec 16 := 0xFFFF
  replay  : List TxFlit := []
  queue   : List TxFlit := []
  /-- R316: credits available, by channel. -/
  credits : List Nat := List.replicate 8 0
  /-- R315: the channel that the arbiter serves, and the flits left in its turn. -/
  arbCur  : Nat := 0
  arbLeft : Nat := 0
  /-- R316: flits held in the receive buffer, by channel. -/
  rxHeld  : List Nat := List.replicate 8 0
  /-- R317: flits sent for the first time, credits returned, flits received, credits received, modulo 2³². -/
  sent    : List Word := List.replicate 8 0
  credited : List Word := List.replicate 8 0
  rcvd    : List Word := List.replicate 8 0
  credRx  : List Word := List.replicate 8 0
  /-- R316: credits freed and not yet sent, by channel. -/
  owed    : List Nat := List.replicate 8 0
  latOwed : List Nat := List.replicate 8 0
  /-- R318: the message under assembly, by channel; empty where none is. -/
  asm     : List (List Byte) := List.replicate 8 []
  /-- R318, R320: whole messages in the receive buffer that have not been taken, with their channels, oldest first. -/
  rxMsgs  : List (Nat × List Byte) := []
  /-- R317: the counts latched at B. -/
  latRcvd : List Word := List.replicate 8 0
  latCredRx : List Word := List.replicate 8 0
  latSent : List Word := List.replicate 8 0
  latCredited : List Word := List.replicate 8 0
  /-- R317: available credits and held flits as they stood at B. -/
  latCredits : List Nat := List.replicate 8 0
  latHeld    : List Nat := List.replicate 8 0
  /-- R317: the partner's counts in its last marker: flits sent, credits returned. -/
  markSent     : List Word := List.replicate 8 0
  markCredited : List Word := List.replicate 8 0
  /-- R317: the marker of the last boundary has arrived; boundaries without an audit. -/
  audited : Bool := true
  skips   : Nat := 0
  /-- R313: waiting for the expected flit after a NAK. -/
  naking  : Bool := false
  /-- R312: CRC errors, R314: replays. -/
  crcErrs : Nat := 0
  replays : Nat := 0
  /-- R324: time of the last ECHO sent, and the link delay in 0.625 ns units. -/
  echoAt  : Option Nat := none
  delay   : Nat := 0
  /-- R322: paused priorities. -/
  paused  : List Nat := []
  /-- R310: HELLOs of a partner that this side's manifest does not list, received without a HELLO_ACK. -/
  unlisted : Nat := 0
  /-- R322: the device's `fabric_id`, as the frames of the port carry it. -/
  self    : BitVec 12 := 0
  /-- the last NAK, TICK or CTRL flit that the port sent: the model's window on the wire -/
  ctrlOut : List Byte := []
  /-- what the port put on the wire, newest first, the last 64: flits (R312), or frames in ETHERNET mode (R322); the model's
  window -/
  wire    : List (List Byte) := []
deriving DecidableEq, Repr

/-- A destination of the routing table (R319). -/
structure Route where
  fabric : Nat
  uid    : DWord
  ports  : List Nat
  /-- the destination MAC address, where the ports are in ETHERNET mode; it is the partner's (`Config.partnerMac`) -/
  mac    : Option (BitVec 48) := none
  /-- the next-hop port of firmware messages (`Config.nextHop`) -/
  hop    : Nat := 0
deriving DecidableEq, Repr

/-- A porch transfer of a step not yet acknowledged (R75, R321). -/
structure Await where
  tid   : Tid
  dest  : Nat
  vc    : Nat
  mseq  : DWord
  /-- R321: the destination has departed -/
  lost  : Bool := false
deriving DecidableEq, Repr

/-- A received announce that is not yet matched, or that matched (R338). -/
structure Annc where
  room    : Nat
  src     : Nat
  rank    : Nat
  carr    : Nat
  group   : Word
  collTag : DWord
  coll    : Nat
  bound   : Bool
  sysTick : Tick
  seq     : Word
deriving DecidableEq, Repr

/-- The porch side of the device. -/
structure Links where
  ports   : List Port := List.replicate 18 {}
  /-- R319; reset empty. -/
  routes  : List Route := []
  /-- R318: next `mseq` to send by (destination, channel), and next to deliver by (source, channel). -/
  txSeq   : List ((Nat × Nat) × DWord) := []
  rxSeq   : List ((Nat × Nat) × DWord) := []
  /-- R321: first `mseq` not yet covered by a DELIVERED message, by (destination, channel). -/
  acked   : List ((Nat × Nat) × DWord) := []
  /-- R321: deliveries not yet answered with DELIVERED. -/
  deliv   : List (Nat × Nat × DWord) := []
  awaits  : List Await := []
  anncs   : List Annc := []
  /-- R338, R339: received messages that stay in the porch receive buffer, oldest first. -/
  pieces  : List Msg := []
  /-- R340: discards counted, and the instances (`coll_tag`, `sys_tick` with `bound`, `seq` with `coll`) and senders recorded. -/
  discards : Nat := 0
  discSeen : List ((DWord × Nat × Nat) × Nat) := []
  /-- R326, R406: firmware messages sent; the model's window on channel 0, newest first, kept to the last 64. -/
  fwOut   : List (Nat × List Byte) := []
deriving DecidableEq, Repr

/-! ## Attic (R368 to R378, R427 to R435) -/

/-- A port record (R429). -/
structure PortCfg where
  mode    : PortMode := .off
  maxRate : Nat := 2
  vlan    : Bool := false
  vlanId  : BitVec 12 := 0
  weights : List Nat := List.replicate 8 1
  allot   : List Nat := List.replicate 8 256
  mac     : BitVec 48 := 0
deriving DecidableEq, Repr

/-- A configuration copy (R428). -/
structure Cfg where
  seq      : DWord := 1
  bootSlot : Bool := false
  fabricId : BitVec 12 := 0
  minSvn   : Word := 0
  capCont  : BitVec 10 := 700
  capExc   : BitVec 10 := 850
  tickCtl  : BitVec 15 := 0
  tickPer  : BitVec 24 := 0x0186A0
  /-- 133 bytes of the owner key point; empty when unowned. -/
  owner    : List Byte := []
  /-- R373: digests with their `publisher_id`. -/
  allow    : List (List Byte × BitVec 16) := []
  ports    : List PortCfg := List.replicate 18 {}
  /-- SHA-512 of the whole copy (R381). -/
  digest   : List Byte := []
  /-- R430: `owner_sig` verifies under `owner_key`, or both are zero. -/
  selfSigned : Bool := true
deriving DecidableEq, Repr

/-- A firmware bundle (R432). -/
structure Bundle where
  ver      : Word := 1
  svn      : Word := 0
  epoch    : BitVec 16 := 1
  parlour  : BitVec 16 := 1
  digest   : List Byte := []
  partners : List (Word × Byte × Word) := []
deriving DecidableEq, Repr

/-- A stored Drubor image (R374). -/
structure StoredImage where
  fn         : Nat
  imageId    : Nat
  payloadLen : Nat
  serial     : DWord
  digest     : List Byte
  pubDigest  : List Byte
  bytes      : List Byte
  corrupt    : Bool := false
deriving DecidableEq, Repr

/-- An image resident or loading for a context (R375). -/
structure Loaded where
  ctx      : Nat
  fn       : Nat
  imageId  : Nat
  extents  : List Nat
  resident : Bool
  tag      : Option Nat
deriving DecidableEq, Repr

/-- An IMAGE descriptor in progress or waiting on another (R378). -/
structure ImageOp where
  desc    : Desc
  tag     : Nat
  fn      : Nat
  imageId : Nat
  /-- 0 store, 1 load, 2 delete -/
  kind    : Nat
  image   : List Byte
  started : Bool
deriving DecidableEq, Repr

/-- An FW_UPDATE or CONFIG_UPDATE in progress or waiting (R431, R435). -/
structure Update where
  ctx     : Nat
  tag     : Nat
  fw      : Bool
  slot    : Bool
  bytes   : List Byte
  started : Bool
deriving DecidableEq, Repr

/-- A copy of the repair map (R405, R427). -/
structure RepairCopy where
  /-- R427: its sequence number; reset 0 (DESIGN CHOICE 3). -/
  seq     : Nat := 0
  /-- R405: its entries; reset empty (DESIGN CHOICE 3). -/
  entries : List Repair := []
deriving DecidableEq, Repr

/-- A copy of the ledger and owner record (R427). -/
structure LedgerCopy where
  /-- R427: its sequence number; reset 0 (DESIGN CHOICE 3). -/
  seq      : Nat := 0
  /-- R386: the stored block end; reset 0. -/
  blockEnd : Nat := 0
  /-- R427: SHA-512 of the owner key point; empty when none; reset empty (DESIGN CHOICE 3). -/
  owner    : List Byte := []
deriving DecidableEq, Repr

/-- The attic (R374, R427). -/
structure Attic where
  /-- R427, R428: copies 0 and 1; reset: copy 0 as the defaults above, copy 1 none (DESIGN CHOICE 3). -/
  cfg0     : Option Cfg := some { digest := sha512 Config.deliveredConfig }
  cfg1     : Option Cfg := none
  /-- R431: which copy is active. -/
  active   : Bool := false
  /-- R432: bundle slots; reset: slot 0 holds a bundle of epoch 1 (DESIGN CHOICE 3). -/
  slot0    : Option Bundle := some { digest := sha512 Config.deliveredManifest }
  slot1    : Option Bundle := none
  /-- R405, R427: copies 0 and 1 of the repair map, none when not valid; reset: both as manufacture left them, empty (DESIGN CHOICE 3). -/
  rep0     : Option RepairCopy := some {}
  rep1     : Option RepairCopy := some {}
  /-- R405: entries not yet written; reset empty. -/
  repairDue : List Repair := []
  /-- R386, R427: copies 0 and 1 of the ledger and owner record, none when not valid; reset: both as manufacture left them. -/
  led0     : Option LedgerCopy := some {}
  led1     : Option LedgerCopy := some {}
  /-- R379, R427: the helper data, which both of its copies hold, written only at manufacture; reset as manufacture left it. -/
  helper   : List Byte := Config.helperData
  /-- R397: the saved fault log; reset empty (DESIGN CHOICE 3). -/
  saved    : List FaultRec := []
  /-- R374: stored images; reset empty (DESIGN CHOICE 3). -/
  images   : List StoredImage := []
  /-- R375. -/
  loaded   : List Loaded := []
  imageOps : List ImageOp := []
  updates  : List Update := []
  /-- R454: OP, SLOT, LAST_CODE of `FW_STAT`; reset 0. -/
  fwOp     : Nat := 0
  fwSlot   : Bool := false
  fwLast   : Byte := 0
  /-- R454: what `FW_SLOT0` and `FW_SLOT1` show, none when not VALID; reset none. -/
  fwSlot0  : Option Bundle := none
  fwSlot1  : Option Bundle := none
  /-- R454: `FW_MIN_SVN`; reset 0. -/
  fwMinSvn : Word := 0
  /-- R454: `FW_BOOT`; reset 0. -/
  fwBoot   : Bool := false
  /-- R386: the next ledger counter value; reset 1. -/
  ledgerNext : Nat := 1
deriving DecidableEq, Repr

/-! ## The device -/

structure Dev where
  /-- R445: `DEV_STAT.STATE`; reset BOOT. -/
  state     : DevState := .boot
  /-- R445: `DEV_STAT.FAILSTOP`; reset 0. -/
  failstop  : Bool := false
  /-- R411: the announcement is complete; reset 0. -/
  announced : Bool := false
  /-- R397: the fault log has been saved since fail-stop; reset 0. -/
  saved     : Bool := false
  /-- R445: `DEV_STAT.BOOT_FALLBACK`; reset 0. -/
  fallback  : Bool := false
  /-- R445: `DEV_STAT.BOOT_CAUSE`; reset 0. -/
  bootCause : BitVec 4 := 0
  /-- R445: `DEV_STAT.FAIL_CODE`; reset 0. -/
  failCode  : BitVec 16 := 0
  /-- R413: the system tick of the trigger of fail-stop; reset 0. -/
  failTick  : Tick := 0
  /-- R460: FAIL_N is driven low; reset 0. -/
  failLow   : Bool := false
  /-- R434: the running bundle and its slot; none at reset. -/
  bundle    : Option Bundle := none
  slot      : Bool := false
  /-- R444: `ID_FABRIC`; reset 0. -/
  fabric    : BitVec 12 := 0
  /-- R448: `ASSIGN_STAT.ASSIGN_ERR`, W1C; reset 0. -/
  assignErr : Flag := {}
  /-- R123: VFs enabled, 0 to 63; reset 0. -/
  numVfs    : Nat := 0
  /-- R30, R450, R451: what the last read with a side effect returned; the model's window, reset 0. -/
  readData  : Word := 0
  /-- R418: what the last PLDM sensor read returned; the model's window, reset 0. -/
  sensor    : Nat := 0
  /-- R379: what the last SPDM request returned; the model's window, reset empty. -/
  spdm      : List Byte := []
  /-- R467: the selected JTAG instruction; reset IDCODE (PRESUMED 7: IEEE 1149.1). -/
  jtag      : JtagIns := .idcode
  /-- R379: the secret that the security engine holds since power-up; reset empty (DESIGN CHOICE 2). -/
  secret    : List Byte := []
  /-- R461: SMBus address as sampled; reset 0x60 (DESIGN CHOICE 2). -/
  smbus     : BitVec 7 := 0x60
deriving DecidableEq, Repr

/-- A bound pantry pin (R290): the granules of its slice that hold it, in its order. -/
structure PinBind where
  ctx      : Nat
  id       : Nat
  slice    : Nat
  granules : Nat
  grans    : List Nat
deriving DecidableEq, Repr

/-- The whole block. -/
structure State where
  /-- the commands that wait, first in first out; reset empty -/
  pending : List Instr := []
  /-- the model's own counter of free values; reset 0 (DESIGN CHOICE 8) -/
  free    : Nat := 0
  /-- time of the timebase at the last command that carries one, in 0.625 ns units; reset 0 (DESIGN CHOICE 1) -/
  now     : Nat := 0
  dev     : Dev := {}
  tick    : TickGen := {}
  pwr     : Pwr := {}
  /-- R438: function pages by function, absent ones at reset -/
  fns     : List (Nat × FnPage) := []
  /-- R91, R446: contexts by number, absent ones at reset -/
  ctxs    : List (Nat × Ctx) := []
  /-- R52, R99: tags in use -/
  tags    : List TagUse := []
  /-- R68: plans, in the order of their admission, then those that wait -/
  plans   : List Plan := []
  /-- R135: room programs in flight -/
  threads : List Thread := []
  preds   : List PredInst := []
  tables  : List KvTable := []
  frames  : List Frame := []
  /-- R239: decrements on their way to their home slices, by frame -/
  decs    : List Nat := []
  pins    : List PinBind := []
  /-- R286: extents of images that have left and that wait for the latch, with the context that still holds them -/
  limbo   : List (Nat × Nat) := []
  flog    : FaultLog := {}
  hw      : Hw := {}
  recov   : Option Recov := none
  /-- R407: slide pending since this tick, with the partner awaited -/
  slideP  : Option (Nat × Nat) := none
  /-- R407, R409: slides applied or sent: origin, system tick, d -/
  slides  : List (Nat × Tick × Nat) := []
  /-- R71: the first tick in which tick steps run again after the last slide -/
  resumeAt : Nat := 0
  /-- R71, R407: slides that apply at the boundary that ends their tick: tick and d; reset empty -/
  slideDue : List (Nat × Nat) := []
  /-- R52: the books as latched at the last boundary -/
  books   : List BookRow := []
  /-- R53: books that failed the last audit -/
  badBooks : List (Nat × Nat) := []
  /-- R414: service has resumed, and the coming audit recounts every book; reset 0 -/
  fullAudit : Bool := false
  links   : Links := {}
  attic   : Attic := {}
  /-- R21, R22: device-physical memory: cellars, pantry window, room windows. An unlisted address reads 0 (R425). -/
  mem     : List Host.Cell := []
  /-- host memory as the device has written it. An unlisted address has not been written. -/
  host    : List Host.Cell := []
deriving DecidableEq, Repr

/-! ## Outcomes -/

/-- The model's faults. The block reports its own faults in its state (R391); no command stops the machine, so this type
has no constructor. -/
inductive Fault
deriving DecidableEq, Repr

/-- The model's refusals. -/
inductive Refusal
  /-- raised by an arm of exec whose command has no meaning yet; safe -/
  | notModelled (mnemonic : String)
deriving DecidableEq, Repr

/-- The block right after power-up with PERST# asserted (R425): every field at the value its docstring names; the PF
exists (R83) and context 0 belongs to it (R91). -/
def State.reset : State :=
  { fns := [(0, { present := true })], ctxs := [(0, { func := 0 })] }

end Sys2Proof.Machine
end

