-- ==== Sys2Proof/Machine/Bits.lean ====
section
/-! DEFINITION. Bit fields, little-endian byte strings (R3, R4), signed readings, checksums and association lists. -/
namespace Sys2Proof.Machine

/-- R4: the field of `len` bits of `n` whose lowest bit is `lo`. -/
def bits (n lo len : Nat) : Nat := n / 2 ^ lo % 2 ^ len

/-- Bit `i` of `n`. -/
def bitOf (n i : Nat) : Bool := n / 2 ^ i % 2 == 1

/-- `len` bits of a 32-bit register. -/
def wbits (w : Word) (lo len : Nat) : Nat := bits w.toNat lo len

/-- `len` bits of a 64-bit field. -/
def dbits (w : DWord) (lo len : Nat) : Nat := bits w.toNat lo len

/-- One bit of a 32-bit register. -/
def wbit (w : Word) (i : Nat) : Bool := bitOf w.toNat i

/-- A Bool as a number. -/
def b2n (b : Bool) : Nat := if b then 1 else 0

/-- A number of `len` bits read as two's complement. -/
def signed (n len : Nat) : Int := if n % 2 ^ len < 2 ^ (len - 1) then (n % 2 ^ len : Nat) else (n % 2 ^ len : Nat) - (2 ^ len : Nat)

/-- An integer reduced to `len` bits. -/
def unsigned (x : Int) (len : Nat) : Nat := (x % (2 ^ len : Nat)).toNat

/-- Ceiling of a quotient. -/
def cdiv (a b : Nat) : Nat := (a + b - 1) / b

/-- R3: the number that a little-endian byte string spells. -/
def leNat : List Byte → Nat
  | [] => 0
  | b :: bs => b.toNat + 256 * leNat bs

/-- R3: the `k` low bytes of `n`, least significant first. -/
def leBytes : Nat → Nat → List Byte
  | _, 0 => []
  | n, k + 1 => BitVec.ofNat 8 n :: leBytes (n / 256) k

/-- The big-endian number of a byte string. -/
def beNat (bs : List Byte) : Nat := leNat bs.reverse

/-- `k` big-endian bytes of `n`. -/
def beBytes (n k : Nat) : List Byte := (leBytes n k).reverse

/-- The bytes at `off` to `off + len - 1`; what lies past the end is missing. -/
def slice (bs : List Byte) (off len : Nat) : List Byte := (bs.drop off).take len

/-- The little-endian field of `len` bytes at `off`; bytes past the end read 0. -/
def getLE (bs : List Byte) (off len : Nat) : Nat := leNat (slice bs off len)

/-- A bit field at a byte offset: bits [lo + len - 1 : lo] of the word that starts at `off`. -/
def fieldAt (bs : List Byte) (off lo len : Nat) : Nat := bits (getLE bs off ((lo + len + 7) / 8)) lo len

/-- Is every byte zero? -/
def allZero (bs : List Byte) : Bool := bs.all (· == 0)

/-- Zero bytes. -/
def zeros (n : Nat) : List Byte := List.replicate n 0

/-- `bs` cut or padded with zeros to `n` bytes. -/
def padTo (bs : List Byte) (n : Nat) : List Byte := (bs ++ zeros (n - bs.length)).take n

/-- One byte of the reflected CRC-32 of IEEE 802.3. -/
def crcBit (c : Nat) : Nat := if c % 2 == 1 then (c / 2) ^^^ 0xEDB88320 else c / 2

/-- The register after one byte. -/
def crcByte (c : Nat) (b : Byte) : Nat := Nat.repeat crcBit 8 (c ^^^ b.toNat)

/-- CRC-32 of a byte string (R312). -/
def crc32 (bs : List Byte) : Nat := (bs.foldl crcByte 0xFFFFFFFF) ^^^ 0xFFFFFFFF

/-! ## Lists -/

/-- The value at a key. -/
def aGet {V : Type} (l : List (Nat × V)) (k : Nat) : Option V :=
  match l with
  | [] => none
  | (k', v) :: r => if k' == k then some v else aGet r k

/-- Insert or replace, keys rising. -/
def aSet {V : Type} (l : List (Nat × V)) (k : Nat) (v : V) : List (Nat × V) :=
  match l with
  | [] => [(k, v)]
  | (k', v') :: r => if k < k' then (k, v) :: (k', v') :: r else if k == k' then (k, v) :: r else (k', v') :: aSet r k v

/-- Remove a key. -/
def aDel {V : Type} (l : List (Nat × V)) (k : Nat) : List (Nat × V) := l.filter (fun p => p.1 != k)

/-- The value at a pair key. -/
def pGet {K V : Type} [DecidableEq K] (l : List (K × V)) (k : K) : Option V :=
  match l with
  | [] => none
  | (k', v) :: r => if k' = k then some v else pGet r k

/-- Replace or append. -/
def pSet {K V : Type} [DecidableEq K] (l : List (K × V)) (k : K) (v : V) : List (K × V) :=
  match l with
  | [] => [(k, v)]
  | (k', v') :: r => if k' = k then (k, v) :: r else (k', v') :: pSet r k v

/-- Element `i`, or the default. -/
def nth {A : Type} (l : List A) (i : Nat) (d : A) : A := l.getD i d

/-- Change element `i`. -/
def upd {A : Type} (l : List A) (i : Nat) (f : A → A) : List A :=
  match l, i with
  | [], _ => []
  | x :: r, 0 => f x :: r
  | x :: r, i + 1 => x :: upd r i f

/-- Change the first element that meets a test. -/
def updFirst {A : Type} (p : A → Bool) (f : A → A) : List A → List A
  | [] => []
  | x :: r => if p x then f x :: r else x :: updFirst p f r

/-- Remove the first element that meets a test. -/
def dropFirst {A : Type} (p : A → Bool) : List A → List A
  | [] => []
  | x :: r => if p x then r else x :: dropFirst p r

/-- Sum of a list. -/
def sumOf (l : List Nat) : Nat := l.foldl (· + ·) 0

/-- Sum of `f` over the list. -/
def sumBy {A : Type} (l : List A) (f : A → Nat) : Nat := l.foldl (fun n a => n + f a) 0

/-- Greatest of `f` over the list, 0 when empty. -/
def maxBy {A : Type} (l : List A) (f : A → Nat) : Nat := l.foldl (fun n a => max n (f a)) 0

/-- Elements with their positions. -/
def enum {A : Type} (l : List A) : List (Nat × A) := (List.range l.length).zip l

/-- No element twice. -/
def distinct {A : Type} [DecidableEq A] : List A → Bool
  | [] => true
  | x :: r => !r.contains x && distinct r

/-- Fixed-size pieces of a byte string, at most `k` of them. -/
def pieces (bs : List Byte) (n : Nat) : Nat → List (List Byte)
  | 0 => []
  | k + 1 => bs.take n :: pieces (bs.drop n) n k

/-- Insertion of an element into a sorted list. -/
def insertBy {A : Type} (before : A → A → Bool) (x : A) : List A → List A
  | [] => [x]
  | y :: r => if before y x then y :: insertBy before x r else x :: y :: r

/-- The list sorted by an order, equal elements in their order. -/
def sortBy {A : Type} (before : A → A → Bool) (l : List A) : List A := (l.reverse).foldl (fun acc x => insertBy before x acc) []

/-- A saturating 32-bit count. -/
def satInc (w : Word) : Word := if w = 0xFFFFFFFF then w else w + 1

/-- R8: hardware sets a flag, and its counter counts the event. -/
def hitFlag (f : Flag) : Flag := { set := true, count := satInc f.count }

/-- R7, R8: a write of `w` to the flag's bit; `hw` when hardware sets it in the same cycle. -/
def w1c (f : Flag) (w hw : Bool) : Flag :=
  if hw then { set := true, count := satInc f.count } else if w then { f with set := false } else f

end Sys2Proof.Machine
end

