-- ==== Sys2Proof/Machine/Floats.lean ====
section
/-! DEFINITION. Element formats, exact values, rounding, conversion and block scales (R139, R148, R159 to R167). A finite
value is a sign, a magnitude and a power of two: every operation is formed exactly and rounded once. -/
namespace Sys2Proof.Machine

/-- An exact value of any element format: −1^neg × m × 2^e, or an infinity, or NaN. -/
inductive Fl
  | nan
  | inf (neg : Bool)
  | fin (neg : Bool) (m : Nat) (e : Int)
deriving DecidableEq, Repr

/-- R159: how a floating format treats its greatest codes. -/
inductive Specials | ieee | nanOnly | none
deriving DecidableEq, Repr

/-- R159: a floating element format. -/
structure FmtSpec where
  exp  : Nat
  man  : Nat
  bias : Nat
  spec : Specials
deriving DecidableEq, Repr

/-- R139, R159: the floating formats by code. -/
def fmtSpec (f : Nat) : Option FmtSpec :=
  match f with
  | 0 => some ⟨8, 23, 127, .ieee⟩
  | 1 => some ⟨8, 7, 127, .ieee⟩
  | 2 => some ⟨5, 10, 15, .ieee⟩
  | 3 => some ⟨4, 3, 7, .nanOnly⟩
  | 4 => some ⟨5, 2, 15, .ieee⟩
  | 5 => some ⟨3, 2, 3, .none⟩
  | 6 => some ⟨2, 3, 1, .none⟩
  | 7 => some ⟨2, 1, 1, .none⟩
  | _ => Option.none

/-- R139: is the code reserved? -/
def fmtReserved (f : Nat) : Bool := f > 10

/-- R143: an integer format (INT8, INT4, TERN). -/
def fmtInt (f : Nat) : Bool := f = 8 || f = 9 || f = 10

/-- The code of the greatest finite value, without its sign. -/
def FmtSpec.maxCode (s : FmtSpec) : Nat :=
  match s.spec with
  | .ieee => (2 ^ s.exp - 1) * 2 ^ s.man - 1
  | .nanOnly => 2 ^ (s.exp + s.man) - 2
  | .none => 2 ^ (s.exp + s.man) - 1

/-- R159: the value of a code. -/
def FmtSpec.decode (s : FmtSpec) (c : Nat) : Fl :=
  let neg := bitOf c (s.exp + s.man)
  let x := c % 2 ^ (s.exp + s.man)
  let field := x / 2 ^ s.man
  let m := x % 2 ^ s.man
  if x > s.maxCode then
    (if s.spec == .ieee && m = 0 then .inf neg else .nan)
  else if field = 0 then .fin neg m (1 - (s.bias : Int) - s.man)
  else .fin neg (2 ^ s.man + m) ((field : Int) - s.bias - s.man)

/-- Round m × 2^-d to a whole number, ties to even. -/
def shiftRne (m d : Nat) : Nat :=
  let q := m / 2 ^ d
  let r := m % 2 ^ d
  if d = 0 then m
  else if 2 * r < 2 ^ d then q
  else if 2 * r > 2 ^ d then q + 1
  else q + q % 2

/-- Round m × 2^e to a whole multiple of 2^q, ties to even; the multiple. -/
def quantize (m : Nat) (e q : Int) : Nat := if e ≥ q then m * 2 ^ (e - q).toNat else shiftRne m (q - e).toNat

/-- R163: the code without sign that a finite magnitude rounds to, before the range is looked at. -/
def FmtSpec.roundCode (s : FmtSpec) (m : Nat) (e : Int) : Nat :=
  if m = 0 then 0
  else
    let qmin : Int := 1 - (s.bias : Int) - s.man
    let q : Int := max ((Nat.log2 m : Int) + e - s.man) qmin
    (q - qmin).toNat * 2 ^ s.man + quantize m e q

/-- R163: the infinity code of a format, or its greatest finite code. -/
def FmtSpec.overCode (s : FmtSpec) (toInf : Bool) : Nat :=
  if toInf && s.spec == .ieee then s.maxCode + 1 else s.maxCode

/-- R159: the canonical NaN. -/
def nanCode (f : Nat) : Nat :=
  match f with
  | 0 => 0x7FC00000
  | 1 => 0x7FC0
  | 2 => 0x7E00
  | 3 => 0x7F
  | 4 => 0x7E
  | _ => 0

/-- Bits of an element (R161). -/
def fmtBits (f : Nat) : Nat :=
  match f with
  | 0 => 32
  | 1 => 16
  | 2 => 16
  | 3 => 8
  | 4 => 8
  | 5 => 6
  | 6 => 6
  | 7 => 4
  | 8 => 8
  | 9 => 4
  | _ => 2

/-- R163: INT8 and INT4: nearest integer, ties to even, saturated. -/
def roundInt (neg : Bool) (m : Nat) (e : Int) (lo hi : Nat) : Int :=
  let n := quantize m e 0
  if neg then -(min n lo : Nat) else (min n hi : Nat)

/-- R163: conversion of an exact value into a format: its code. -/
def convert (f : Nat) (x : Fl) : Nat :=
  match fmtSpec f with
  | some s =>
    let sign := fun (neg : Bool) => b2n neg * 2 ^ (s.exp + s.man)
    match x with
    | .nan => nanCode f
    | .inf neg => sign neg + s.overCode true
    | .fin neg m e =>
      let c := s.roundCode m e
      sign neg + (if c > s.maxCode then s.overCode (f ≤ 2) else c)
  | none =>
    if f = 8 then (match x with
      | .nan => 0
      | .inf neg => if neg then 0x80 else 0x7F
      | .fin neg m e => unsigned (roundInt neg m e 128 127) 8)
    else if f = 9 then (match x with
      | .nan => 0
      | .inf neg => if neg then 8 else 7
      | .fin neg m e => unsigned (roundInt neg m e 8 7) 4)
    else (match x with
      | .nan => 0
      | .inf neg => if neg then 2 else 1
      | .fin neg m e => if (if e ≥ 0 then m = 0 else 2 * m ≤ 2 ^ (-e).toNat) then 0 else if neg then 2 else 1)

/-- R159, R160: the exact value of a code. -/
def decodeElem (f c : Nat) : Fl :=
  match fmtSpec f with
  | some s => s.decode c
  | none =>
    if f = 10 then (if c = 1 then .fin false 1 0 else if c = 2 then .fin true 1 0 else .fin false 0 0)
    else
      let v := signed c (fmtBits f)
      .fin (decide (v < 0)) v.natAbs 0

/-! ## FP32 arithmetic (R148) -/

/-- The value of FP32 bits. -/
def ofF32 (w : Word) : Fl := decodeElem 0 w.toNat

/-- One rounding to FP32. -/
def toF32 (x : Fl) : Word := BitVec.ofNat 32 (convert 0 x)

/-- Sign-magnitude of an exact integer multiple; an exact zero sum is +0. -/
def ofExact (v : Int) (e : Int) : Fl := .fin (decide (v < 0)) v.natAbs e

/-- A signed magnitude as an integer. -/
def sgn (neg : Bool) (m : Nat) : Int := if neg then -(m : Int) else m

/-- Exact sum, IEEE 754 special cases. -/
def Fl.add : Fl → Fl → Fl
  | .nan, _ => .nan
  | _, .nan => .nan
  | .inf a, .inf b => if a == b then .inf a else .nan
  | .inf a, _ => .inf a
  | _, .inf b => .inf b
  | .fin na ma ea, .fin nb mb eb =>
    if ma = 0 && mb = 0 then .fin (na && nb) 0 0
    else
      let e := min ea eb
      ofExact (sgn na (ma * 2 ^ (ea - e).toNat) + sgn nb (mb * 2 ^ (eb - e).toNat)) e

/-- Opposite sign. -/
def Fl.neg : Fl → Fl
  | .nan => .nan
  | .inf a => .inf (!a)
  | .fin n m e => .fin (!n) m e

/-- Exact product. -/
def Fl.mul : Fl → Fl → Fl
  | .nan, _ => .nan
  | _, .nan => .nan
  | .inf a, .inf b => .inf (a != b)
  | .inf a, .fin n m _ => if m = 0 then .nan else .inf (a != n)
  | .fin n m _, .inf b => if m = 0 then .nan else .inf (n != b)
  | .fin na ma ea, .fin nb mb eb => .fin (na != nb) (ma * mb) (ea + eb)

/-- Is it a zero? -/
def Fl.isZero : Fl → Bool
  | .fin _ m _ => m == 0
  | _ => false

/-- Is it NaN? -/
def Fl.isNan : Fl → Bool
  | .nan => true
  | _ => false

/-- Is the sign negative? -/
def Fl.isNeg : Fl → Bool
  | .nan => false
  | .inf n => n
  | .fin n _ _ => n

/-- Exact comparison of numbers: −1, 0 or 1; zeros are equal. NaN compares as 0 and is looked at first. -/
def Fl.cmp (a b : Fl) : Int :=
  match a, b with
  | .nan, _ => 0
  | _, .nan => 0
  | .inf x, .inf y => if x == y then 0 else if x then -1 else 1
  | .inf x, _ => if x then -1 else 1
  | _, .inf y => if y then 1 else -1
  | .fin na ma ea, .fin nb mb eb =>
    let e := min ea eb
    let d := sgn na (ma * 2 ^ (ea - e).toNat) - sgn nb (mb * 2 ^ (eb - e).toNat)
    if d < 0 then -1 else if d > 0 then 1 else 0

/-- R148: addition in FP32. -/
def f32Add (a b : Word) : Word := toF32 ((ofF32 a).add (ofF32 b))
/-- R148: subtraction in FP32. -/
def f32Sub (a b : Word) : Word := toF32 ((ofF32 a).add (ofF32 b).neg)
/-- R148: multiplication in FP32. -/
def f32Mul (a b : Word) : Word := toF32 ((ofF32 a).mul (ofF32 b))
/-- R148: a × b + c, one rounding. -/
def f32Fma (a b c : Word) : Word := toF32 (((ofF32 a).mul (ofF32 b)).add (ofF32 c))

/-- R148: maximum, −0 below +0, NaN canonical. -/
def f32Max (a b : Word) : Word :=
  let x := ofF32 a
  let y := ofF32 b
  if x.isNan || y.isNan then 0x7FC00000
  else if x.cmp y > 0 then a else if x.cmp y < 0 then b else if x.isNeg then b else a

/-- R148: minimum. -/
def f32Min (a b : Word) : Word :=
  let x := ofF32 a
  let y := ofF32 b
  if x.isNan || y.isNan then 0x7FC00000
  else if x.cmp y < 0 then a else if x.cmp y > 0 then b else if x.isNeg then a else b

/-- R163: FP32 to FP32: the value, any NaN canonical. -/
def f32Canon (a : Word) : Word := if (ofF32 a).isNan then 0x7FC00000 else a

/-! ## Elements in memory (R161, R162) -/

/-- Bytes of a group of 32 elements, which is also a slice of R144. -/
def groupBytes (f : Nat) : Nat :=
  match f with
  | 0 => 128
  | 1 => 64
  | 2 => 64
  | 3 => 32
  | 4 => 32
  | 5 => 24
  | 6 => 24
  | 7 => 16
  | 8 => 32
  | 9 => 16
  | _ => 8

/-- R161, R162: the code of element `i` of a group. -/
def elemCode (f : Nat) (g : List Byte) (i : Nat) : Nat :=
  if f = 10 then
    let b := (g.getD (i / 5) 0).toNat
    if b > 242 then 0 else b / 3 ^ (i % 5) % 3
  else bits (leNat g) (fmtBits f * i) (fmtBits f)

/-- The 32 codes of a group. -/
def groupCodes (f : Nat) (g : List Byte) : List Nat := (List.range 32).map (elemCode f g)

/-- Packs codes of `b` bits, first lowest. -/
def packBits (b : Nat) : List Nat → Nat
  | [] => 0
  | c :: cs => c % 2 ^ b + 2 ^ b * packBits b cs

/-- R161: five ternary digits of a byte. -/
def ternByte : List Nat → Nat
  | [] => 0
  | d :: ds => d + 3 * ternByte ds

/-- R161, R162: the bytes of a group of 32 codes. -/
def packGroup (f : Nat) (cs : List Nat) : List Byte :=
  if f = 10 then
    (List.range 7).map (fun i => BitVec.ofNat 8 (ternByte ((cs.drop (5 * i)).take 5))) ++ [0]
  else leBytes (packBits (fmtBits f) cs) (groupBytes f)

/-- VLD: `n` groups of 32 elements widened exactly to FP32. -/
def unpackF32 (f : Nat) (bs : List Byte) (n : Nat) : List Word :=
  ((pieces bs (groupBytes f) n).map (fun g => (groupCodes f g).map (fun c => toF32 (decodeElem f c)))).flatten

/-- VST: FP32 values, a multiple of 32 of them, converted and packed; `n` groups. -/
def packF32 (f : Nat) (ws : List Word) : Nat → List Byte
  | 0 => []
  | n + 1 => packGroup f ((ws.take 32).map (fun w => convert f (ofF32 w))) ++ packF32 f (ws.drop 32) n

/-! ## Block scales (R164 to R167) -/

/-- R164, R165: the value of a scale byte. -/
def scaleValue (mode c : Nat) : Fl :=
  if mode = 0 then .fin false 1 0
  else if mode = 1 then (if c = 255 then .nan else .fin false 1 ((c : Int) - 127))
  else decodeElem 3 c

/-- R164: the value of an element under a scale mode: INT8 under mode 1 is an MXINT8 element. -/
def scaledElem (mode f c : Nat) : Fl :=
  match decodeElem f c with
  | .fin n m e => if mode = 1 && f = 8 then .fin n m (e - 6) else .fin n m e
  | x => x

/-- R166: formats that a scale mode accepts for both operands of an MMA. -/
def scaleAccepts (mode f : Nat) : Bool :=
  match mode with
  | 0 => f ≤ 10
  | 1 => f = 3 || f = 4 || f = 5 || f = 6 || f = 7 || f = 8
  | 2 => f = 3 || f = 4 || f = 5 || f = 6 || f = 7 || f = 9 || f = 10
  | _ => false

/-- R167: Eₑ. -/
def scaleE (f : Nat) : Int :=
  match f with
  | 3 => 8
  | 4 => 15
  | 5 => 4
  | 6 => 2
  | 7 => 2
  | _ => 0

/-- R167: Mₑ. -/
def scaleM (f : Nat) : Fl :=
  match f with
  | 3 => .fin false 448 0
  | 4 => .fin false 57344 0
  | 5 => .fin false 28 0
  | 6 => .fin false 15 (-1)
  | 7 => .fin false 6 0
  | 9 => .fin false 7 0
  | _ => .fin false 1 0

/-- Magnitude. -/
def Fl.abs : Fl → Fl
  | .fin _ m e => .fin false m e
  | .inf _ => .inf false
  | .nan => .nan

/-- The greatest magnitude of a block of finite values. -/
def amaxOf (xs : List Fl) : Fl := xs.foldl (fun a x => if x.abs.cmp a > 0 then x.abs else a) (.fin false 0 0)

/-- Is a value of the block NaN or infinite? -/
def blockBad (xs : List Fl) : Bool := xs.any (fun x => match x with
  | .fin _ _ _ => false
  | _ => true)

/-- The smallest code from `c` on whose E4M3 value times `m` is at least `a`. -/
def fineSearch (a m : Fl) (c : Nat) : Nat → Nat
  | 0 => 0x7E
  | k + 1 => if ((decodeElem 3 c).mul m).cmp a ≥ 0 then c else fineSearch a m (c + 1) k

/-- R167: the scale byte of a block. -/
def chooseScale (mode f : Nat) (xs : List Fl) : Nat :=
  if blockBad xs then (if mode = 1 then 0xFF else 0x7F)
  else match amaxOf xs with
    | .fin _ 0 _ => 0
    | .fin n m e =>
      if mode = 1 then (max (-127) (min 127 ((Nat.log2 m : Int) + e - scaleE f)) + 127).toNat
      else fineSearch (.fin n m e) (scaleM f) 0 0x7E
    | _ => 0

/-- x ÷ s with a sticky last bit, so that one later rounding is the rounding of the exact quotient. -/
def Fl.div (x s : Fl) : Fl :=
  match x, s with
  | .fin n m e, .fin _ sm se =>
    let k := 80 + Nat.log2 (sm + 1)
    let q := m * 2 ^ k / sm
    let r := m * 2 ^ k % sm
    .fin n (2 * q + (if r = 0 then 0 else 1)) (e - se - k - 1)
  | _, _ => .nan

/-- R167: the code of an element of a block with a chosen scale. -/
def scaleElem (mode f sc : Nat) (x : Fl) : Nat :=
  match x with
  | .fin n m e =>
    if mode = 1 then
      (if sc = 255 then 0 else convert f (.fin n m (e - ((sc : Int) - 127) + (if f = 8 then 6 else 0))))
    else if sc = 0 || sc = 0x7F then 0
    else convert f ((Fl.fin n m e).div (decodeElem 3 sc))
  | _ => 0

/-- R167: a block of FP32 values as its scale and codes. -/
def scaleBlock (mode f : Nat) (ws : List Word) : Nat × List Nat :=
  let xs := ws.map ofF32
  let sc := chooseScale mode f xs
  if blockBad xs then (sc, ws.map (fun _ => 0)) else (sc, xs.map (scaleElem mode f sc))

/-! ## Accumulation in the arrays (R168 to R172) -/

/-- floor(log₂ |p|) of a nonzero finite product. -/
def Fl.exponent : Fl → Int
  | .fin _ m e => (Nat.log2 m : Int) + e
  | _ => 0

/-- R169: a product reduced to a whole multiple of 2^q, truncated toward zero. -/
def truncTo (q : Int) : Fl → Int
  | .fin n m e => sgn n (if e ≥ q then m * 2 ^ (e - q).toNat else m / 2 ^ (q - e).toNat)
  | _ => 0

/-- The least exponent of a list of finite values. -/
def minExp (ps : List Fl) : Int := ps.foldl (fun a p => match p with
  | .fin _ 0 _ => a
  | .fin _ _ e => min a e
  | _ => a) 0

/-- Sum of integers. -/
def sumInt (l : List Int) : Int := l.foldl (· + ·) 0

/-- R169, R172: the run sum of finite products; `exact` in reference mode or for integer products. -/
def runSum (exact : Bool) (ps : List Fl) : Fl :=
  let nz := ps.filter (fun p => !p.isZero)
  match nz with
  | [] => .fin false 0 0
  | p :: rest =>
    let emax := rest.foldl (fun a x => max a x.exponent) p.exponent
    let q := if exact then min (minExp nz) 0 else emax - 27
    ofExact (sumInt (nz.map (truncTo q))) q

/-- R170, R171: promotion of one run into a tile value. -/
def promote (exact : Bool) (t : Word) (ps : List Fl) : Word :=
  let pinf := ps.any (fun p => p == .inf false)
  let ninf := ps.any (fun p => p == .inf true)
  if ps.any Fl.isNan || (pinf && ninf) then 0x7FC00000
  else if pinf then toF32 ((ofF32 t).add (.inf false))
  else if ninf then toF32 ((ofF32 t).add (.inf true))
  else
    let s := runSum exact ps
    if s.isZero then t else toF32 ((ofF32 t).add s)

/-- The runs of a product list, `n` products each. -/
def promoteRuns (exact : Bool) (n : Nat) (t : Word) (ps : List Fl) : Nat → Word
  | 0 => t
  | k + 1 => promoteRuns exact n (promote exact t (ps.take n)) (ps.drop n) k

end Sys2Proof.Machine
end

