-- ==== Sys2Proof/Machine/Flags.lean ====
section
/-! DEFINITION. The conditions of the room's compares (R140: SCMP and VCMP) and the predicate and mask bits they write. -/
namespace Sys2Proof.Machine

/-- R140: the conditions of SCMP, by imm[2:0]. -/
def scmpCond (cond : Nat) (a b : DWord) : Bool :=
  match cond with
  | 0 => a == b
  | 1 => a != b
  | 2 => a.slt b
  | 3 => a.sle b
  | 4 => a.ult b
  | 5 => a.ule b
  | _ => false

/-- R140: the conditions of VCMP on one lane, by imm[2:0]; comparisons of IEEE 754, so a NaN is only unequal. -/
def vcmpCond (cond : Nat) (a b : Word) : Bool :=
  let x := ofF32 a
  let y := ofF32 b
  let c := x.cmp y
  if x.isNan || y.isNan then cond == 1
  else match cond with
    | 0 => c == 0
    | 1 => c != 0
    | 2 => decide (c < 0)
    | 3 => decide (c ≤ 0)
    | 4 => decide (c > 0)
    | 5 => decide (c ≥ 0)
    | _ => false

/-- The mask of a list of lane conditions, lane 0 lowest. -/
def maskOf : List Bool → Nat
  | [] => 0
  | b :: r => b2n b + 2 * maskOf r

/-- R137: a predicate bit set; p0 stays true. -/
def setPredBit (preds : Byte) (n : Nat) (v : Bool) : Byte :=
  if n = 0 then preds else if v then preds ||| ((1 : Byte) <<< n) else preds &&& ~~~((1 : Byte) <<< n)

/-- R137: a predicate read; p0 is always true. -/
def predBit (preds : Byte) (n : Nat) : Bool := n == 0 || bitOf preds.toNat n

end Sys2Proof.Machine
end

