-- ==== Sys2Proof/Machine/Mem.lean ====
section
/-! DEFINITION. The device-physical memory (R21, R22) and the host memory that the device writes, as lists of cells in one
canonical form. -/
namespace Sys2Proof.Machine

/-- What an address of device memory that is not listed reads as: zero (R425 fills the memories with zeros). -/
def blankByte : Byte := 0

/-- One byte of device memory. -/
def memByte (m : List Host.Cell) (a : Nat) : Byte :=
  match m with
  | [] => blankByte
  | (k, v) :: r => if k == a then v else memByte r a

/-- Write one byte of device memory; the value an unlisted address reads as is not listed. -/
def memPut (m : List Host.Cell) (a : Nat) (b : Byte) : List Host.Cell :=
  match m with
  | [] => if b = blankByte then [] else [(a, b)]
  | (k, v) :: r =>
    if a < k then (if b = blankByte then (k, v) :: r else (a, b) :: (k, v) :: r)
    else if a = k then (if b = blankByte then r else (a, b) :: r)
    else (k, v) :: memPut r a b

/-- R3: bytes from `a` on. -/
def memRead (m : List Host.Cell) (a : Nat) : Nat → List Byte
  | 0 => []
  | n + 1 => memByte m a :: memRead m (a + 1) n

/-- Write bytes from `a` on. -/
def memWrite (m : List Host.Cell) (a : Nat) : List Byte → List Host.Cell
  | [] => m
  | b :: bs => memWrite (memPut m a b) (a + 1) bs

/-- Keys strictly rising from a bound, no blank byte listed. -/
def cellsFrom (lo : Nat) : List Host.Cell → Bool
  | [] => true
  | (k, v) :: r => decide (lo ≤ k) && (v != blankByte) && cellsFrom (k + 1) r

/-- The canonical form of device memory. -/
def Memory.wf (m : List Host.Cell) : Bool := cellsFrom 0 m

/-- The byte of host memory that the device wrote, if it wrote one. -/
def hostByte (m : List Host.Cell) (a : Nat) : Option Byte := aGet m a

/-- The device writes bytes to host memory. -/
def hostWrite (m : List Host.Cell) (a : Nat) : List Byte → List Host.Cell
  | [] => m
  | b :: bs => hostWrite (aSet m a b) (a + 1) bs

/-- Keys strictly rising: the canonical form of host memory. -/
def hostFrom (lo : Nat) : List Host.Cell → Bool
  | [] => true
  | (k, _) :: r => decide (lo ≤ k) && hostFrom (k + 1) r

/-- The canonical form of host memory as the device has written it. -/
def HostMemory.wf (m : List Host.Cell) : Bool := hostFrom 0 m

/-! ## The address map (R21, R22) -/

/-- R21: cellar context space. -/
def inCellar (pa : Nat) : Bool := decide (pa < 0x00FF00000000)

/-- R21: pantry window. -/
def inPantry (pa : Nat) : Bool := decide (0x010000000000 ≤ pa) && decide (pa < 0x010080000000)

/-- R22: the window of a logical room. -/
def roomBase (room : Nat) : Nat := 0x020000000000 + (room / 768) * 2 ^ 30 + (room / 64 % 12) * 2 ^ 26 + (room % 64) * 2 ^ 20

/-- R22: the scratchpad of a room. -/
def spadAddr (room off : Nat) : Nat := roomBase room + off
/-- R22: the accumulator memory of a room. -/
def accAddr (room off : Nat) : Nat := roomBase room + 0xA0000 + off
/-- R22: the active-table store of a room. -/
def tblAddr (room off : Nat) : Nat := roomBase room + 0xC0000 + off
/-- R22: the instruction memory of a room. -/
def imemAddr (room off : Nat) : Nat := roomBase room + 0xC4000 + off

/-- R280: where a cellar byte lives. -/
structure CellarPlace where
  cellar  : Nat
  channel : Nat
  bank    : Nat
  bankRow : Nat
  byte    : Nat
deriving DecidableEq, Repr

/-- R280: the cellar, channel, bank, bank row and byte of an address of cellar space. -/
def cellarPlace (a : Nat) : CellarPlace :=
  let q := (bits a 32 8 * 2 ^ 28 + bits a 0 28) / 2 ^ 11
  let r := q / 96
  { cellar := bits a 36 4 ^^^ bits a 28 4, channel := q % 96, bank := r % 32, bankRow := r / 32, byte := bits a 0 11 }

/-- R15, R280: the home cellar and pantry slice of an address of cellar space, or the slice of a line of the pantry window. -/
def homeSlice (pa : Nat) : Nat :=
  if inPantry pa then (pa - 0x010000000000) / 2 ^ 27 % 16 else (cellarPlace pa).cellar

end Sys2Proof.Machine
end

