-- ==== Sys2Proof/Machine/Ops.lean ====
section
/-! DEFINITION. The named operations that the commands share: function pages, contexts, the offset in use, interrupts,
the fault log, fail-stop, command tags and completion entries. -/
namespace Sys2Proof.Machine

/-- The outcome type of every meaning. -/
abbrev Out1 := Host.Outcome State Fault Refusal

/-! ## Functions and contexts -/

def getFn (s : State) (f : Nat) : FnPage := (aGet s.fns f).getD {}
def setFn (s : State) (f : Nat) (p : FnPage) : State := { s with fns := aSet s.fns f p }
def modFn (s : State) (f : Nat) (g : FnPage → FnPage) : State := setFn s f (g (getFn s f))

def getCtx (s : State) (c : Nat) : Ctx := (aGet s.ctxs c).getD {}
def setCtx (s : State) (c : Nat) (x : Ctx) : State := { s with ctxs := aSet s.ctxs c x }
def modCtx (s : State) (c : Nat) (g : Ctx → Ctx) : State := setCtx s c (g (getCtx s c))

/-- R91: the function that owns a context; none when unassigned. -/
def ctxFn (s : State) (c : Nat) : Option Nat :=
  if (getCtx s c).func.toNat < 64 then some (getCtx s c).func.toNat else none

/-- R91: the context of a function with a local index. -/
def ctxOf (s : State) (f loc : Nat) : Option Nat :=
  if f = 0 then (if loc < 16384 && (getCtx s loc).func == 0 then some loc else none)
  else (s.ctxs.find? (fun p => p.2.func.toNat == f && p.2.loc.toNat == loc)).map (·.1)

/-- R92: is the context its function's control context? -/
def isControl (s : State) (c : Nat) : Bool :=
  match ctxFn s c with
  | none => false
  | some f => ctxOf s f 0 == some c

/-- The contexts of a function. -/
def ctxsOf (s : State) (f : Nat) : List Nat := (s.ctxs.filter (fun p => p.2.func.toNat == f)).map (·.1)

/-- R93: a context that is OPEN, in ERROR or CLOSING. -/
def ctxLive (x : Ctx) : Bool := x.state != .closed

/-- The plans that R39, R93, R123 and R440 call admitted. -/
def admittedPlans (s : State) : List Plan := s.plans.filter (fun p => p.phase == .admitted)

/-- Does a context hold an admitted plan? -/
def holdsPlan (s : State) (c : Nat) : Bool := (admittedPlans s).any (fun p => p.key.ctx == c)

/-- R39: does any context hold one? -/
def anyPlan (s : State) : Bool := !(admittedPlans s).isEmpty

def getPlan (s : State) (k : PlanKey) : Option Plan := s.plans.find? (fun p => p.key == k)
def modPlan (s : State) (k : PlanKey) (g : Plan → Plan) : State :=
  { s with plans := updFirst (fun p => p.key == k) g s.plans }
def delPlan (s : State) (k : PlanKey) : State := { s with plans := dropFirst (fun p => p.key == k) s.plans }

/-! ## Ticks -/

/-- R41: the source that SOURCE names. -/
def ctlSource (t : TickGen) : TickSrc :=
  match wbits t.ctl 1 2 with
  | 0 => .internal
  | 1 => .pin
  | _ => .porch

/-- R41: UP_PORT and ALT_PORT. -/
def upPort (t : TickGen) : Nat := wbits t.ctl 5 5
def altPort (t : TickGen) : Nat := wbits t.ctl 10 5

/-- R29: the offset that the source in use gives. -/
def srcOffset (t : TickGen) : TickSrc → Tick
  | .internal => 0
  | .pin => t.pinOffset
  | .porch => t.porchOffset

/-- R29: the offset of the source that SOURCE names, while none defines boundaries; under PORCH, of the last lock of the port
that UP_PORT names. -/
def namedOffset (t : TickGen) : TickSrc → Tick
  | .porch => (aGet t.porchLocks (upPort t)).getD 0
  | k => srcOffset t k

/-- R29: the offset in use. -/
def offsetInUse (t : TickGen) : Tick :=
  match t.state with
  | .stopped => namedOffset t (ctlSource t)
  | .acquiring => namedOffset t (ctlSource t)
  | _ => srcOffset t t.inUse

/-- R29: the system tick number. -/
def sysTick (s : State) : Tick := s.tick.num + offsetInUse s.tick

/-- R29: the local tick of a system tick number. -/
def sysToLocal (s : State) (n : Nat) : Nat := unsigned ((n : Int) - (offsetInUse s.tick).toNat) 48

/-- R38: do boundaries come? -/
def ticking (t : TickGen) : Bool :=
  match t.state with
  | .running => true
  | .holdover => true
  | .free => true
  | _ => false

/-- R27: the period in 10 ns units. -/
def periodOf (s : State) : Nat := s.tick.period.toNat

/-! ## Interrupts (R121, R122) -/

def getVec (p : FnPage) (v : Nat) : Vec := (aGet p.vecs v).getD {}

/-- R122: the vector's message: written to the host, or pending while the vector or the function is masked. -/
def sendVec (s : State) (f v : Nat) : State :=
  let p := getFn s f
  let x := getVec p v
  let x0 := { x with count := 0, before := 0, delayOn := false }
  if x.mask || p.fnMask then setFn s f { p with vecs := aSet p.vecs v { x0 with pending := true } }
  else
    { setFn s f { p with vecs := aSet p.vecs v { x0 with pending := false, sent := x.sent + 1 } } with
      host := hostWrite s.host x.addr.toNat (leBytes x.data.toNat 4) }

/-- R121, R122: an interrupt event on a vector. -/
def vecEvent (s : State) (f v : Nat) : State :=
  let p := getFn s f
  let x := getVec p v
  let s1 := setFn s f { p with vecs := aSet p.vecs v { x with count := x.count + 1 } }
  match wbits x.modr 0 2 with
  | 0 => sendVec s1 f v
  | 1 => if x.count + 1 ≥ wbits x.modr 4 8 then sendVec s1 f v
         else setFn s f { p with vecs := aSet p.vecs v { x with count := x.count + 1, delayOn := true } }
  | _ => s1

/-! ## Flits (R312) -/

/-- R312: a flit with its CRC. -/
def flit (kind vc : Nat) (som : Bool) (cvc ccount seq ack : Nat) (payload : List Byte) : List Byte :=
  let head := leBytes (kind + vc * 2 ^ 4 + b2n som * 2 ^ 7 + cvc * 2 ^ 8 + ccount * 2 ^ 11 + seq * 2 ^ 24 + ack * 2 ^ 40) 8
  let body := head ++ padTo payload 244
  body ++ leBytes (crc32 body) 4

/-- R316: the channel and number of the credits that the next flit of a port in UP returns, at most 4,095. -/
def creditDue (p : Port) : Nat × Nat :=
  if p.state != .up then (0, 0)
  else match (List.range 8).find? (fun v => p.owed.getD v 0 != 0) with
    | some v => (v, min 4095 (p.owed.getD v 0))
    | none => (0, 0)

/-- R312: the flit that a port sends now, with the acknowledgement and the credits it carries. -/
def nextFlit (p : Port) (kind vc : Nat) (som : Bool) (seq : Nat) (payload : List Byte) : List Byte :=
  flit kind vc som (creditDue p).1 (creditDue p).2 seq p.rxSeq.toNat payload

/-- R322: the group address of HELLO frames. -/
def helloGroup : BitVec 48 := 0x011FD7740000

/-- R322: the destination MAC address of a flit: the group address for a HELLO, the partner's for every other. -/
def frameDest (p : Port) (kind : Nat) (payload : List Byte) : BitVec 48 :=
  if kind = 4 && getLE payload 0 1 = 1 then helloGroup else p.partner.elim helloGroup (fun q => Config.partnerMac q.uid)

/-- R322: the frame in which a flit leaves an ETHERNET port; each frame holds one flit (DESIGN CHOICE 124). -/
def frame (p : Port) (dest : BitVec 48) (vc : Nat) (flit : List Byte) : List Byte :=
  let body := beBytes dest.toNat 6 ++ beBytes p.mac.toNat 6
    ++ (if p.vlan then beBytes 0x8100 2 ++ beBytes (vc * 2 ^ 13 + p.vlanId.toNat) 2 else []) ++ beBytes 0x8AF4 2
    ++ leBytes (1 + 2 ^ 8 + p.self.toNat * 2 ^ 12 + (p.partner.elim 0 (·.fabric)) * 2 ^ 24) 16 ++ flit
  body ++ leBytes (crc32 body) 4

/-- R312, R316, R322: a flit leaves a port: it takes credits with it, and an ETHERNET port frames it. -/
def sendFlit (p : Port) (kind vc : Nat) (som : Bool) (seq : Nat) (payload : List Byte) : Port :=
  let f := nextFlit p kind vc som seq payload
  let c := creditDue p
  { p with
    owed := upd p.owed c.1 (· - c.2), credited := upd p.credited c.1 (· + BitVec.ofNat 32 c.2),
    wire := ((if p.mode == .ethernet then frame p (frameDest p kind payload) vc f else f) :: p.wire).take 64,
    ctrlOut := if 2 ≤ kind then f else p.ctrlOut }

def getPort (s : State) (p : Nat) : Port := s.links.ports.getD p {}
def modPort (s : State) (p : Nat) (g : Port → Port) : State :=
  { s with links := { s.links with ports := upd s.links.ports p g } }

/-- R309, R326: a CTRL flit leaves a port. -/
def sendCtrlFlit (p : Port) (payload : List Byte) : Port := sendFlit p 4 0 false 0 payload

/-! ## Faults (R390 to R397) -/

/-- R391: the severity of a fault code. -/
def faultSev (code : Nat) : Nat :=
  if code < 0x0200 then 2
  else if code = 0x0207 then 2
  else if code < 0x0300 then 3
  else if code = 0x0302 then 0
  else if code < 0x0400 then 1
  else if code < 0x0500 then 0
  else if code < 0x0600 then 4
  else 5

/-- What an event gives its record (R119); `src` numbers the source of a CORRECTED event (R394). -/
structure FaultIn where
  code : Nat
  ctx  : Option Nat := none
  plan : Nat := 0
  step : Nat := 0xFFFFFF
  action : Nat := 0
  room : Option Nat := none
  slot : Option Nat := none
  d0   : Nat := 0
  d1   : Nat := 0
  src  : Nat := 0

/-- R14: the physical slot that holds a logical room. -/
def slotOf (s : State) (room : Nat) : Nat := (aGet s.hw.bound room).getD (room % 64)

/-- R393: the record of an event. -/
def mkRecord (s : State) (f : FaultIn) (rep : Nat) : FaultRec :=
  { code := f.code, sev := faultSev f.code, ctx := f.ctx, planId := f.plan, tick := s.tick.num, sysTick := sysTick s,
    step := f.step, action := f.action, room := (f.room.getD 0x1FFF), slot := (f.slot.getD 127), d0 := f.d0, d1 := f.d1,
    seq := s.flog.nextSeq, rep := rep, needPf := true,
    needVf := (f.ctx.bind (ctxFn s)).filter (· != 0) }

/-- R394: the same code, context, plan, logical room and detail0 in the same tick. -/
def sameEvent (a b : FaultRec) : Bool :=
  a.code == b.code && a.ctx == b.ctx && a.planId == b.planId && a.room == b.room && a.d0 == b.d0 && a.tick == b.tick

/-- R395: severity INFO or CORRECTED. -/
def minor (r : FaultRec) : Bool := r.sev == 0 || r.sev == 1

/-- R393, R394, R451: a record enters the log. -/
def enterRecord (l : FaultLog) (r : FaultRec) : FaultLog :=
  { l with waiting := l.waiting ++ [r], newest := (r :: l.newest).take 4096, nextSeq := l.nextSeq + 1,
           ofTick := r :: l.ofTick.filter (fun q => q.tick == r.tick || q.tick == r.tick - 1 || q.tick == r.tick + 1) }

/-- R393, R395, R451: the log keeps a record. -/
def keepRecord (l : FaultLog) (r : FaultRec) : FaultLog :=
  if l.waiting.length < 65536 then enterRecord l r
  else if l.waiting.any minor then enterRecord { l with waiting := dropFirst minor l.waiting, overflow := satInc l.overflow } r
  else if minor r then { l with overflow := satInc l.overflow }
  else enterRecord l r

/-- R396: a code's counter. -/
def countFault (l : FaultLog) (code : Nat) : FaultLog :=
  { l with counts := aSet l.counts code (satInc ((aGet l.counts code).getD 0)) }

/-- R394: one more event folds into a record. -/
def foldRec (r : FaultRec) : FaultRec := { r with rep := r.rep + 1 }

/-- R394: is this the source of a CORRECTED event? -/
def isSource (f : FaultIn) (c : CorrSrc) : Bool := c.code.toNat == f.code && c.src == f.src

/-- R394: a CORRECTED event, recorded at most once for each source in each 1,024 ticks. -/
def corrected (s : State) (l : FaultLog) (f : FaultIn) : FaultLog :=
  match l.corr.find? (isSource f) with
  | some c =>
    if s.tick.num.toNat - c.tick < 1024 then
      let corr := updFirst (isSource f) (fun c => { c with folded := c.folded + 1 }) l.corr
      { l with corr := corr }
    else
      let corr := updFirst (isSource f) (fun c => { c with folded := 0, tick := s.tick.num.toNat }) l.corr
      keepRecord { l with corr := corr } (mkRecord s f c.folded)
  | none =>
    let c : CorrSrc := { code := f.code, src := f.src, tick := s.tick.num.toNat, folded := 0 }
    keepRecord { l with corr := l.corr ++ [c] } (mkRecord s f 0)

/-- R393 to R396: the log after an event. -/
def logEvent (s : State) (f : FaultIn) : FaultLog :=
  let r := mkRecord s f 0
  let l := countFault s.flog f.code
  if faultSev f.code = 1 then corrected s l f
  else if l.ofTick.any (sameEvent r) then
    { l with waiting := updFirst (sameEvent r) foldRec l.waiting, newest := updFirst (sameEvent r) foldRec l.newest,
             ofTick := updFirst (sameEvent r) foldRec l.ofTick }
  else keepRecord l r

/-- R393 to R396: the device logs an event that has no further effect. -/
def logFault (s : State) (f : FaultIn) : State := { s with flog := logEvent s f }

/-! ## Regions of the attic with two copies (R427) -/

/-- R427: the valid copy with the higher sequence number. -/
def newerCopy {α : Type} (seq : α → Nat) : Option α → Option α → Option α
  | some x, some y => if seq x < seq y then some y else some x
  | some x, none => some x
  | none, y => y

/-- R427: a write goes to an invalid copy, else to the one with the lower sequence number, or to copy 1 when they are equal; the number
of what is written is one above the other copy's. -/
def writeCopy {α : Type} (seq : α → Nat) (make : Nat → α) : Option α × Option α → Option α × Option α
  | (some x, some y) => if seq x < seq y then (some (make (seq y + 1)), some y) else (some x, some (make (seq x + 1)))
  | (some x, none) => (some x, some (make (seq x + 1)))
  | (none, y) => (some (make (y.elim 0 seq + 1)), y)

/-- R405, R427: the entries of the repair map. -/
def repairMap (a : Attic) : List Repair := (newerCopy (·.seq) a.rep0 a.rep1).elim [] (·.entries)

/-- R405: the repair map is written to both copies, one after the other. -/
def storeRepairs (a : Attic) (l : List Repair) : Attic :=
  let w := writeCopy (·.seq) (fun n => { seq := n, entries := l })
  let c := w (w (a.rep0, a.rep1))
  { a with rep0 := c.1, rep1 := c.2 }

/-! ## Fail-stop (R411) -/

/-- R411, by 10 µs: FAIL_N low, DEV_STAT.FAILSTOP set, clocks stopped, a FAILSTOP flit on every UP port. The FATAL
record enters the log. Nothing happens in a device that has already failed stop. -/
def failStop (s : State) (f : FaultIn) : State :=
  if s.dev.failstop then s
  else
    let s1 := logFault s { f with action := 6 }
    { s1 with
      dev := { s1.dev with failstop := true, failLow := true, failCode := f.code, failTick := sysTick s },
      links := { s1.links with ports := s1.links.ports.map (fun p =>
        if p.state == .up then sendCtrlFlit p [5] else p) } }

/-- R393, R410: the device logs an event; a FATAL code makes it fail stop. -/
def raise (s : State) (f : FaultIn) : State := if faultSev f.code = 4 then failStop s f else logFault s f

/-- Does the device run: supply up, started, not failed stop? -/
def alive (s : State) : Bool := s.dev.state != .boot && !s.dev.failstop && s.pwr.supply && !s.pwr.perst

/-- Does the tick generator run? Fail-stop stops the array and parlour clocks, and no rule stops the generator (R411, R412; DEDUCED 13). -/
def tickOn (s : State) : Bool := s.dev.state != .boot && s.pwr.supply && !s.pwr.perst

/-- In service (R426). -/
def inService (s : State) : Bool := alive s && s.dev.state == .inService

/-- Does BAR0 of the function answer (R425, R456)? -/
def barOpen (s : State) (f : Nat) : Bool :=
  s.dev.state != .boot && s.pwr.supply && !s.pwr.perst && (getFn s f).present && !(getFn s f).d3hot

/-! ## Command tags (R99) -/

def tagFree (s : State) (t : Nat) : Bool := !s.tags.any (fun u => u.tag == t)

/-- The lowest free tag from `lo` to `lo + n - 1`. -/
def freeTag (s : State) (lo : Nat) : Nat → Option Nat
  | 0 => none
  | n + 1 => if tagFree s lo then some lo else freeTag s (lo + 1) n

/-- R99: a free tag of the 512 that serve no plan. -/
def descTag (s : State) : Option Nat := freeTag s 0 512

/-- R58, R67: the tags that a plan books at one offset come from its envelope; this is the greatest booked. -/
def demandOf (l : List Demand) (book index : Nat) : Nat :=
  (l.find? (fun d => d.book == book && d.index == index)).elim 0 (·.amount)

/-- R58: the greatest number of tags that a plan books in any tick; a plan that books none has the whole pool, for R99 names no other
source of its entries' tags (DESIGN CHOICE 130). -/
def planTags (b : PlanBody) : Nat :=
  let m := max (maxBy b.steps (fun r => max (demandOf r.demands 5 0) (demandOf r.cheaper 5 0)))
    (b.recompute.elim 0 (fun r => demandOf r.demands 5 0))
  if m = 0 then 3584 else m

/-- R99: the tags that a plan holds; those of an ended plan, whose END entry waits, are charged (R58). -/
def planTagsHeld (s : State) (k : PlanKey) : Nat :=
  let own : TagOwner := if (getPlan s k).isSome then .plan k else .charged k
  (s.tags.filter (fun u => u.owner == own)).length

/-- R99: a free tag of the `limit` that the plan booked. -/
def planTag (s : State) (k : PlanKey) (limit : Nat) : Option Nat := if planTagsHeld s k < limit then freeTag s 512 3584 else none

/-! ## Completion entries (R98 to R102) -/

/-- R99: the number of a tag on the wire. No two tags share a number; which tag has which the manual leaves open. -/
def tagNumber (t : Nat) : Nat := (t + Config.tagBase.toNat) % 4096

/-- R100: the 32 bytes of an entry. -/
def entryBytes (e : CEntry) (sqHead : Nat) (phase : Bool) : List Byte :=
  leBytes e.userId.toNat 8
  ++ leBytes (tagNumber e.tag + e.kind.toNat * 2 ^ 12 + e.code.toNat * 2 ^ 16 + e.cause.toNat * 2 ^ 24) 4
  ++ leBytes (e.aux.toNat + sqHead * 2 ^ 16 + b2n e.hold * 2 ^ 28 + b2n e.slid * 2 ^ 29 + b2n e.recomp * 2 ^ 30 + b2n e.notRep * 2 ^ 31) 4
  ++ leBytes (e.tickA.toNat + e.planId.toNat * 2 ^ 48) 8
  ++ leBytes (e.tickB.toNat + e.opcode.toNat * 2 ^ 48 + b2n phase * 2 ^ 63) 8

/-- R98: entries of a ring. -/
def cqSize (x : Ctx) : Nat := 2 ^ x.cqLog2
def sqSize (x : Ctx) : Nat := 2 ^ x.sqLog2

/-- R98: advance a device-written ring of `size` slots. -/
def ringNext (r : RingTail) (size : Nat) : RingTail :=
  if r.tail + 1 = size then { r with tail := 0, phase := !r.phase, used := r.used + 1 }
  else { r with tail := r.tail + 1, used := r.used + 1 }

/-- R98, R121: write an entry into the next slot of a ring, which is free, and count its interrupt event. -/
def writeEntry (s : State) (c : Nat) (e : CEntry) : State :=
  let x := getCtx s c
  let s1 := { s with
    host := hostWrite s.host (x.cqBase.toNat + 32 * x.cq.tail) (entryBytes e x.sqHead x.cq.phase),
    tags := s.tags.map (fun u => if u.tag = e.tag then { u with awaiting := some c } else u) }
  let s2 := setCtx s1 c { x with cq := ringNext x.cq (cqSize x), inRing := x.inRing ++ [e.tag] }
  if e.noIrq then s2 else vecEvent s2 ((ctxFn s c).getD 0) x.vector

/-- R98: can the ring of a context take an entry? After a failed write none can: R88 says no more than that the entry is held, and
the write is not tried again until the context is opened anew (DESIGN CHOICE 129). -/
def cqFree (s : State) (c : Nat) : Bool :=
  let x := getCtx s c
  ctxLive x && x.cq.used < cqSize x && !x.cqBad

/-- R19: do hall cores H11 to H13 rest while a duty moves? -/
def ringsPaused (s : State) : Bool := s.recov.any (fun r => r.hall.any (fun h => 11 ≤ h && h ≤ 13))

/-- The tag number that stands for "a tag of the plan, not yet taken". -/
def noTag : Nat := 4096

/-- R66, R98: an entry is queued: written at once, or held until a slot is free. A CLOSED context has no ring. -/
def postEntry (s : State) (c : Nat) (e : CEntry) : State :=
  let x := getCtx s c
  if !ctxLive x || s.dev.failstop then { s with tags := s.tags.filter (fun u => u.tag != e.tag) }
  else if x.holds.all (fun h => h.tag == noTag) && cqFree s c && !ringsPaused s then writeEntry s c e
  else setCtx s c { x with holds := x.holds ++ [{ e with hold := true }] }

/-- R100, R101: a DESC entry, with tick_a the local tick. -/
def descEntry (s : State) (d : Desc) (opc tag code aux : Nat) : CEntry :=
  { userId := d.userId, tag := tag, kind := 0, code := code, cause := 0, aux := aux, hold := false, slid := false,
    recomp := false, notRep := false, tickA := s.tick.num, planId := d.planId, tickB := 0, opcode := opc, noIrq := d.noIrq }

/-- The DESC entry of an open descriptor. -/
def openEntry (s : State) (o : OpenDesc) (code aux : Nat) : CEntry :=
  { userId := o.userId, tag := o.tag, kind := 0, code := code, cause := 0, aux := aux, hold := false, slid := false,
    recomp := false, notRep := false, tickA := s.tick.num, planId := o.planId, tickB := 0, opcode := o.opcode, noIrq := o.noIrq }

/-- R87: a request has completed: the invalidations that waited for it alone complete. -/
def ackAts (c tag : Nat) (p : FnPage) : FnPage :=
  let left := p.atsWait.map (fun l => l.filter (· != (c, tag)))
  { p with atsWait := left.filter (fun l => !l.isEmpty), atsDone := p.atsDone + (left.filter (·.isEmpty)).length }

/-- A descriptor leaves the list of open ones. -/
def dropOpen (s : State) (c tag : Nat) : State :=
  let s1 := modCtx s c (fun x => { x with opens := x.opens.filter (fun o => o.tag != tag) })
  { s1 with fns := s1.fns.map (fun p => (p.1, ackAts c tag p.2)) }

/-- R103: an open descriptor completes with a DESC entry. -/
def closeOpen (s : State) (c : Nat) (o : OpenDesc) (code aux : Nat) : State :=
  postEntry (dropOpen s c o.tag) c (openEntry s o code aux)

/-- R88, R93: a context enters ERROR. -/
def ctxError (s : State) (c : Nat) : State :=
  modCtx s c (fun x => if x.state == .opened then { x with state := .error, timer := false } else x)

/-- A fresh free value of `n` bits; the counter of free values advances. -/
def freshBits (s : State) (n : Nat) : BitVec n × State := (Config.freeBits n s.free, { s with free := s.free + 1 })

/-- `n` free bytes. -/
def freeBytes (s : State) (n : Nat) : List Byte × State :=
  let (v, s1) := freshBits s (8 * n)
  (leBytes v.toNat n, s1)

/-- One free bit. -/
def freeBit (s : State) : Bool × State :=
  let (v, s1) := freshBits s 1
  (v == 1, s1)

end Sys2Proof.Machine
end

