-- ==== Sys2Proof/Machine/Tick.lean ====
section
/-! DEFINITION. The tick generator (R27 to R43): sources, locks, takeover, its registers, and its part of a boundary.
Times are in units of 0.625 ns (R30): 16 of them are 10 ns. -/
namespace Sys2Proof.Machine

/-- The period in time units. -/
def periodUnits (t : TickGen) : Nat := t.period.toNat * 16

/-- R33: the acceptance window, 200 ns. -/
def refWindow : Nat := 320

/-- |a - b|. -/
def gap (a b : Nat) : Nat := (a - b) + (b - a)

/-- R33: clamp to ±10 ns. -/
def clamp16 (x : Int) : Int := max (-16) (min 16 x)

/-- R41: the alternate source; none for 0. -/
def altSource (t : TickGen) : Option TickSrc :=
  match wbits t.ctl 3 2 with
  | 1 => some .pin
  | 2 => some .porch
  | _ => none

/-- The tracker of the source that defines the boundaries (R29), when one is tracked. -/
def useTrack (t : TickGen) : SrcTrack :=
  match t.prev with
  | some x => x
  | none => if t.onAlt then t.alt else t.prim

def setUseTrack (t : TickGen) (x : SrcTrack) : TickGen :=
  match t.prev with
  | some _ => { t with prev := some x }
  | none => if t.onAlt then { t with alt := x } else { t with prim := x }

/-- The tracker of a role. -/
def roleTrack (t : TickGen) : SrcRole → SrcTrack
  | .primary => t.prim
  | .alternate => t.alt
  | .former => t.prev.getD {}

def setRoleTrack (t : TickGen) (x : SrcTrack) : SrcRole → TickGen
  | .primary => { t with prim := x }
  | .alternate => { t with alt := x }
  | .former => { t with prev := t.prev.map (fun _ => x) }

/-- Is this role the source in use? -/
def roleInUse (t : TickGen) : SrcRole → Bool
  | .primary => t.prev.isNone && !t.onAlt
  | .alternate => t.prev.isNone && t.onAlt
  | .former => t.prev.isSome

/-- R33: does the source of a role define the boundaries? -/
def defines (t : TickGen) (r : SrcRole) : Bool :=
  t.state == .running && roleInUse t r && (roleTrack t r).locked && t.inUse != .internal

/-- R35: ALIGNED while the state is RUNNING, from the tracker in use. -/
def trackAligned (t : TickGen) : Bool :=
  let x := useTrack t
  x.locked && x.good ≥ 4 && (t.inUse != .porch || (x.aligned && x.hop.toNat ≤ 7))

/-- R35: ALIGNED after an event; HOLDOVER keeps what held when the reference was lost. -/
def setAligned (t : TickGen) : TickGen :=
  match t.state with
  | .running => { t with aligned := t.inUse == .internal || trackAligned t }
  | .holdover => t
  | _ => { t with aligned := false }

def stateNum : TickState → Nat
  | .stopped => 0 | .acquiring => 1 | .running => 2 | .holdover => 3 | .free => 4

def srcNum : TickSrc → Nat
  | .internal => 0 | .pin => 1 | .porch => 2

/-- R29, R391: the source that a TICK_EVENT names: the one in use, or, where none defines boundaries, the one that SOURCE names, as
R29 takes its offset (DEDUCED 12). -/
def shownSource (t : TickGen) : TickSrc := if ticking t then t.inUse else ctlSource t

/-- R29: one TICK_EVENT record when the state, the source or the offset in use has changed since `old`. -/
def tickEvent (old : TickGen) (took : Bool) (s : State) : State :=
  if old.state != s.tick.state || took || offsetInUse old != offsetInUse s.tick then
    logFault s { code := 0x0405, d0 := stateNum s.tick.state + srcNum (shownSource s.tick) * 16 + b2n s.tick.onAlt * 256,
                 d1 := (offsetInUse s.tick).toNat }
  else s

/-- R43: a tick register write is ignored. -/
def tickRefuse (s : State) : State := { s with tick := { s.tick with wrRefused := hitFlag s.tick.wrRefused } }

/-! ## References (R33, R34) -/

/-- A reference: its boundary time and, for PORCH, what the marker carries. -/
structure RefIn where
  time    : Nat
  marker  : Bool := false
  sys     : Tick := 0
  period  : Nat := 0
  hop     : BitVec 8 := 0
  aligned : Bool := false
  root    : DWord := 0

/-- R33: the number of the device's own boundary nearest to a time. -/
def nearNum (t : TickGen) (time : Nat) : Tick :=
  match t.nextB with
  | some b => if t.begun && gap t.lastB time ≤ gap b time then t.num else if t.begun then t.num + 1 else 0
  | none => if t.begun then t.num + 1 else 0

/-- R33: the own boundary that a reference of the source in use meets, if it lies within the window of one. -/
def ownBoundary (t : TickGen) (x : SrcTrack) (time : Nat) : Option Nat :=
  match t.nextB with
  | none => none
  | some b =>
    if t.begun && gap t.lastB time ≤ refWindow && x.last.all (fun l => l + refWindow < t.lastB) then some t.lastB
    else if gap b time ≤ refWindow then some b
    else none

/-- R33: is the reference of a source that does not define the boundaries accepted? -/
def inWindow (t : TickGen) (x : SrcTrack) (time : Nat) : Bool :=
  match x.last with
  | none => true
  | some l => (!x.locked && x.missing > 0) || gap (l + (x.missing + 1) * periodUnits t) time ≤ refWindow

/-- R34: a missing reference: two in a row lose a locked source. -/
def missRef (x : SrcTrack) : SrcTrack :=
  if x.locked then
    if x.missing + 1 ≥ 2 then { x with locked := false, count := 0, missing := x.missing + 1, good := 0 }
    else { x with missing := x.missing + 1 }
  else { x with count := 0, missing := x.missing + 1 }

/-- R34: an accepted reference: its interval and the count toward lock. -/
def takeRef (t : TickGen) (x : SrcTrack) (r : RefIn) (mayLock : Bool) : SrcTrack :=
  let fresh := match x.last with
    | none => true
    | some _ => !x.locked && x.missing > 0
  let ok := match x.last with
    | none => false
    | some l => gap r.time l ≤ (x.missing + 1) * periodUnits t + 16 && (x.missing + 1) * periodUnits t ≤ gap r.time l + 16
  let n := if fresh || !ok then 1 else min 4 (x.count + 1)
  { x with last := some r.time, count := n, missing := 0, locked := mayLock && (x.locked || n ≥ 4),
           hop := r.hop, aligned := r.aligned, root := r.root }

/-- R38: a locked source of a role was lost: SRC_LOST, and HOLDOVER when it was in use and no other is locked. -/
def sourceLost (t : TickGen) (wasDefining : Bool) : TickGen :=
  let t1 := { t with srcLost := hitFlag t.srcLost }
  if !wasDefining then t1
  else
    let other := if t.prev.isSome then (ctlSource t == .internal || t.prim.locked || t.alt.locked)
                 else if t.onAlt then (ctlSource t == .internal || t.prim.locked) else t.alt.locked
    if other then t1 else { t1 with state := .holdover, slew := 0 }

/-- R33, R34: the window of a role closes without an accepted reference. -/
def missRole (t : TickGen) (r : SrcRole) : TickGen :=
  let x := roleTrack t r
  let y := missRef x
  let d := defines t r
  let t1 := setRoleTrack t y r
  if x.locked && !y.locked then setAligned (sourceLost t1 d) else t1

/-- R29: the offset that a PORCH lock sets. -/
def lockOffset (t : TickGen) (r : RefIn) : Tick := r.sys - nearNum t r.time

/-- R29: the upstream port of a role. -/
def rolePort (t : TickGen) : SrcRole → Nat
  | .primary => upPort t
  | .alternate => altPort t
  | .former => t.prevPort

/-- R29: a lock of a PORCH source sets its offset, whatever its role. -/
def noteLock (t : TickGen) (role : SrcRole) (r : RefIn) : TickGen :=
  if r.marker then
    let y := roleTrack t role
    let t1 := setRoleTrack t { y with offset := lockOffset t r } role
    { t1 with porchLocks := aSet t1.porchLocks (rolePort t role) (lockOffset t r) }
  else t

/-- R38: what a lock that has just come about does. -/
def onLock (t : TickGen) (role : SrcRole) (r : RefIn) : TickGen :=
  let t1 := noteLock t role r
  match t.state, role with
  | .acquiring, .primary =>
    let src := ctlSource t1
    { t1 with state := .running, inUse := src, onAlt := false, nextB := some r.time, slew := 0,
              porchOffset := if src == .porch then t1.prim.offset else t1.porchOffset }
  | .holdover, _ =>
    if roleInUse t1 role then { t1 with state := .running, porchOffset := if r.marker then (roleTrack t1 role).offset else t1.porchOffset }
    else t1
  | .free, _ =>
    if roleInUse t1 role then { t1 with state := .running, porchOffset := if r.marker then (roleTrack t1 role).offset else t1.porchOffset }
    else t1
  | _, _ => t1

/-- R33, R35: a phase error is at most 2 ns: one more good reference in a row. -/
def goodRef (e : Int) (n : Nat) : Nat := if e ≤ 3 && -3 ≤ e then min 4 (n + 1) else 0

/-- R33: the phase error of a reference of the source in use: it adjusts the next tick and counts toward ALIGNED. R27, R38: an
interval that keeps the period of R34 sets the frequency correction (DEDUCED 14). -/
def phaseError (t : TickGen) (role : SrcRole) (own : Nat) (r : RefIn) (x : SrcTrack) : TickGen :=
  let e : Int := (own : Int) - (r.time : Int)
  let late := own == t.lastB && t.begun
  let off : Int := match x.last with
    | none => 0
    | some l => (r.time : Int) - (l : Int) - (periodUnits t : Int)
  let y := roleTrack t role
  let t1 := setRoleTrack t { y with good := goodRef e y.good } role
  let t2 := { t1 with err := BitVec.ofInt 16 e, corr := if x.missing = 0 && off ≤ 16 && -16 ≤ off then off else t1.corr }
  if late then { t2 with nextB := t2.nextB.map (fun b => ((b : Int) + clamp16 (-e)).toNat) } else { t2 with slew := clamp16 (-e) }

/-- R33: the phase error against the device's own nearest boundary, where it has boundaries. -/
def nearError (t : TickGen) (time : Nat) : Option Int :=
  match t.nextB with
  | none => none
  | some b => if !ticking t then none else if t.begun && gap t.lastB time ≤ gap b time then some ((t.lastB : Int) - time) else some ((b : Int) - time)

/-- R33: the phase error of an accepted reference of a source that does not define the boundaries. -/
def sideError (t : TickGen) (role : SrcRole) (r : RefIn) : TickGen :=
  match nearError t r.time with
  | none => t
  | some e =>
    let y := roleTrack t role
    { setRoleTrack t { y with good := goodRef e y.good } role with err := BitVec.ofInt 16 e }

/-- R33, R34, R323: a reference that is not accepted breaks a run of accepted ones; it counts as missing once, when its window closes
without an accepted one (DEDUCED 15). -/
def breakRun (t : TickGen) (role : SrcRole) : TickGen :=
  let x := roleTrack t role
  setRoleTrack t (if x.locked then x else { x with count := 0 }) role

/-- R33: a reference outside the window is rejected. -/
def rejectRef (t : TickGen) (role : SrcRole) : TickGen := breakRun { t with edgeReject := hitFlag t.edgeReject } role

/-- R33 to R38: a reference of a role arrives. -/
def reference (t : TickGen) (role : SrcRole) (r : RefIn) (mayLock : Bool) : TickGen :=
  let x := roleTrack t role
  let bad := r.marker && r.period != t.period.toNat
  let t0 := if bad then { t with perMismatch := hitFlag t.perMismatch } else t
  if bad && x.locked then
    setAligned (sourceLost (setRoleTrack t0 { x with locked := false, count := 0, good := 0 } role) (defines t role))
  else if defines t role then
    match ownBoundary t x r.time with
    | none => rejectRef t0 role
    | some own => setAligned (phaseError (setRoleTrack t0 (takeRef t x r true) role) role own r x)
  else if inWindow t x r.time then
    let y := takeRef t x r (mayLock && !bad)
    let y1 := if bad then { y with count := 0 } else y
    let t1 := sideError (setRoleTrack t0 y1 role) role r
    setAligned (if y1.locked && !x.locked then onLock t1 role r else t1)
  else rejectRef t0 role

/-- The roles that a source of a kind (and port) feeds. -/
def rolesOf (t : TickGen) (k : TickSrc) (port : Nat) : List SrcRole :=
  (if ctlSource t == k && (k != .porch || upPort t == port) then [.primary] else [])
  ++ (if altSource t == some k && (k != .porch || altPort t == port) then [.alternate] else [])
  ++ (if t.prev.isSome && t.inUse == k && (k != .porch || t.prevPort == port) then [.former] else [])

/-- A reference reaches every role that its source feeds. -/
def feedReference (t : TickGen) (k : TickSrc) (port : Nat) (r : RefIn) (mayLock : Bool) : TickGen :=
  if t.state == .stopped then t else (rolesOf t k port).foldl (fun t role => reference t role r mayLock) t

/-! ## Registers (R41, R42, R449) -/

/-- Start of the generator (R38). -/
def startTick (t : TickGen) (time : Nat) : TickGen :=
  if ctlSource t == .internal then
    { t with state := .running, inUse := .internal, onAlt := false, nextB := some (time + 16000), corr := 0, slew := 0, aligned := true }
  else { t with state := .acquiring, onAlt := false, prim := {}, alt := {}, prev := none, nextB := none, aligned := false }

/-- Stop of the generator (R38, R39). No boundary and no release point follows, and an accepted period that waited for the next
boundary is the period from now on (DEDUCED 122). -/
def stopTick (t : TickGen) : TickGen :=
  { t with state := .stopped, nextB := none, tickOut := false, onAlt := false, prim := {}, alt := {}, prev := none,
           aligned := false, rewritten := false, slew := 0, corr := 0, released := true,
           period := t.newPeriod.getD t.period, newPeriod := none }

/-- What a role tracks: the kind of source and its port. -/
def roleSource (t : TickGen) : SrcRole → Option (TickSrc × Nat)
  | .primary => match ctlSource t with
    | .internal => none
    | .pin => some (.pin, 0)
    | .porch => some (.porch, upPort t)
  | .alternate => (altSource t).map (fun k => (k, if k == .porch then altPort t else 0))
  | .former => t.prev.map (fun _ => (t.inUse, if t.inUse == .porch then t.prevPort else 0))

/-- R36, R39: the tracker that a source has already; a source that no role names is tracked afresh. -/
def trackOf (t : TickGen) (k : Option (TickSrc × Nat)) : SrcTrack :=
  if k.isNone then {}
  else if roleSource t .primary == k then t.prim
  else if roleSource t .alternate == k then t.alt
  else if roleSource t .former == k then t.prev.getD {}
  else {}

/-- The time of the next reference of a source after `time`, one period after its last accepted one. -/
def nextRef (t : TickGen) (x : SrcTrack) (time : Nat) : Nat :=
  x.last.elim time (fun l => l + ((time - l) / periodUnits t + 1) * periodUnits t)

/-- R38, R39: a generator that is ACQUIRING leaves it when the source that SOURCE names is locked already: INTERNAL counts as
locked, with the first boundary 10 µs after the write; for another the first boundary is its next reference (DEDUCED 122). -/
def leaveAcquiring (t : TickGen) (time : Nat) : TickGen :=
  if t.state != .acquiring then t
  else if ctlSource t == .internal then
    { t with state := .running, inUse := .internal, nextB := some (time + 16000), prev := none, onAlt := false, aligned := true }
  else if t.prim.locked then
    { t with state := .running, inUse := ctlSource t, nextB := some (nextRef t t.prim time), prev := none, onAlt := false, slew := 0,
             porchOffset := if ctlSource t == .porch then t.prim.offset else t.porchOffset }
  else t

/-- R36, R39: what changes of source in an accepted TICK_CTL write do while the generator is not STOPPED: the new sources are
tracked, and the one in use goes on until the next takes over at a boundary. -/
def retarget (old t : TickGen) (time : Nat) : TickGen :=
  let role : SrcRole := if t.onAlt then .alternate else .primary
  let leaves := t.prev.isNone && t.inUse != .internal && ticking t && roleSource old role != roleSource t role
  let t1 := if leaves then { t with prev := some (roleTrack old role), prevPort := if t.onAlt then altPort old else upPort old } else t
  let t2 := { t1 with prim := trackOf old (roleSource t .primary), alt := trackOf old (roleSource t .alternate) }
  leaveAcquiring (if t.onAlt then { t2 with rewritten := true } else t2) time

/-- R456: tick register writes are refused in the recovery state. -/
def tickWritable (s : State) : Bool := s.dev.state == .inService

/-- R39, R41: a write of TICK_CTL, whatever field it changes. -/
def writeTickCtl (s : State) (time : Nat) (value : Word) : State :=
  if s.dev.failstop || s.dev.state == .boot then s
  else if !tickWritable s then tickRefuse s
  else if wbits value 1 2 = 3 || wbits value 3 2 = 3 || wbits value 5 5 > 17 || wbits value 10 5 > 17 then tickRefuse s
  else if !wbit value 0 && wbit s.tick.ctl 0 && anyPlan s then tickRefuse s
  else
    let old := s.tick
    let t := { old with ctl := BitVec.ofNat 32 (wbits value 0 16) }
    let t1 := if !wbit value 0 then (if old.state == .stopped then t else stopTick t)
              else if old.state == .stopped then startTick t time
              else retarget old t time
    let t2 := if wbit value 15 then t1 else { t1 with tickOut := false }
    tickEvent old false { s with tick := t2, now := time }

/-- R38, R41: TICK_CTL write that sets ENABLE. -/
def execTickEnable (time : Nat) (value : Word) (s : State) : Out1 := .next (if barOpen s 0 then writeTickCtl s time value else s)
/-- R39, R41: TICK_CTL write that clears ENABLE. -/
def execTickDisable (time : Nat) (value : Word) (s : State) : Out1 := .next (if barOpen s 0 then writeTickCtl s time value else s)
/-- R39, R41: TICK_CTL write that changes SOURCE or UP_PORT. -/
def execTickSourceChange (time : Nat) (value : Word) (s : State) : Out1 := .next (if barOpen s 0 then writeTickCtl s time value else s)
/-- R36, R41: TICK_CTL write that changes ALT_SOURCE or ALT_PORT. -/
def execTickAltSourceChange (time : Nat) (value : Word) (s : State) : Out1 := .next (if barOpen s 0 then writeTickCtl s time value else s)
/-- R31, R41: TICK_CTL write that changes OUT_EN. -/
def execTickOutEnable (time : Nat) (value : Word) (s : State) : Out1 := .next (if barOpen s 0 then writeTickCtl s time value else s)

/-- R39: the period register: an accepted period reads back at once. -/
def periodReg (t : TickGen) : BitVec 24 := t.newPeriod.getD t.period

/-- R361: is a `tick_bound` stream open? -/
def boundStream (s : State) : Bool := s.ctxs.any (fun p => p.2.streams.any (fun t => bitOf (getLE t.params 0 4) 10))

/-- R27, R39, R42, R361: a write of TICK_PERIOD. -/
def writeTickPeriod (s : State) (value : Word) : State :=
  let v := wbits value 0 24
  if s.dev.failstop || s.dev.state == .boot then s
  else if !tickWritable s then tickRefuse s
  else if v < 10000 || v > 10000000 then tickRefuse s
  else if v = (periodReg s.tick).toNat then s
  else if (s.tick.state != .stopped && anyPlan s) || boundStream s then tickRefuse s
  else if s.tick.state != .stopped then { s with tick := { s.tick with newPeriod := some (BitVec.ofNat 24 v) } }
  else { s with tick := { s.tick with period := BitVec.ofNat 24 v, newPeriod := none, prim := {}, alt := {} } }

/-- R39, R42: TICK_PERIOD write. -/
def execTickPeriodWrite (value : Word) (s : State) : Out1 := .next (if barOpen s 0 then writeTickPeriod s value else s)

/-- R29: may the PIN offset be written? -/
def offsetWritable (t : TickGen) : Bool :=
  (ctlSource t == .pin || altSource t == some .pin) && (t.state == .stopped || t.state == .acquiring)

/-- R449: a write of the low word is held. -/
def writeOffsetLo (s : State) (value : Word) : State :=
  if s.dev.failstop || s.dev.state == .boot then s
  else if !tickWritable s then tickRefuse s
  else { s with tick := { s.tick with heldLo := some value } }

/-- R449: a write of the high word takes effect with the held low word, or is refused with it. -/
def writeOffsetHi (s : State) (value : Word) : State :=
  if s.dev.failstop || s.dev.state == .boot then s
  else if !tickWritable s then tickRefuse s
  else if !offsetWritable s.tick then tickRefuse { s with tick := { s.tick with heldLo := none } }
  else
    let lo := (s.tick.heldLo.elim (bits s.tick.pinOffset.toNat 0 32) BitVec.toNat)
    let o := BitVec.ofNat 48 (lo + wbits value 0 16 * 2 ^ 32)
    tickEvent s.tick false { s with tick := { s.tick with heldLo := none, pinOffset := o } }

/-- R449: TICK_SYS_OFFSET_LO write. -/
def execTickSysOffsetLoWrite (value : Word) (s : State) : Out1 := .next (if barOpen s 0 then writeOffsetLo s value else s)
/-- R29, R449: TICK_SYS_OFFSET_HI write. -/
def execTickSysOffsetHiWrite (value : Word) (s : State) : Out1 := .next (if barOpen s 0 then writeOffsetHi s value else s)

/-- R30: a read of TICK_NOW_LO returns the low bits and latches the high ones. -/
def readNowLo (s : State) : State :=
  let n := if s.dev.state == .recovery then 0 else s.tick.num.toNat
  { s with tick := { s.tick with nowHi := BitVec.ofNat 16 (n / 2 ^ 32) }, dev := { s.dev with readData := BitVec.ofNat 32 n } }

/-- R30: TICK_NOW_LO read. -/
def execTickNowLoRead (s : State) : Out1 := .next (if barOpen s 0 then readNowLo s else s)

/-! ## Events of the generator -/

/-- R31: an edge on TICK_IN at a time. -/
def tickInEdge (s : State) (time : Nat) : State :=
  if !tickOn s then s
  else tickEvent s.tick false { s with tick := feedReference s.tick .pin 0 { time := time } true, now := time }

/-- R31, R33, R34: TICK_IN edge. -/
def execTickInEdge (time : Nat) (s : State) : Out1 := .next (tickInEdge s time)

/-- R33: is a reference of the role expected? Not where the one that met the device's own last boundary has been accepted. -/
def refExpected (t : TickGen) (r : SrcRole) : Bool :=
  t.state != .stopped && match (roleTrack t r).last with
    | none => false
    | some l => !(defines t r && t.begun && t.lastB ≤ l + refWindow)

/-- R33, R34: a window closes without an accepted reference. -/
def refMissing (s : State) (r : SrcRole) : State :=
  if tickOn s && refExpected s.tick r then tickEvent s.tick false { s with tick := missRole s.tick r } else s

/-- R33, R34: REFERENCE_MISSING. -/
def execReferenceMissing (role : SrcRole) (s : State) : Out1 := .next (refMissing s role)

/-- R38: 300 ms in HOLDOVER. -/
def holdoverTimeout (s : State) : State :=
  if tickOn s && s.tick.state == .holdover then
    tickEvent s.tick false { s with tick := { s.tick with state := .free, aligned := false, corr := 0 } }
  else s

/-- R38: HOLDOVER_TIMEOUT. -/
def execHoldoverTimeout (s : State) : Out1 := .next (holdoverTimeout s)

/-! ## The generator's part of a boundary (R28, R36, R39, R45) -/

/-- R32, R39: a source is tracked afresh; the root that it followed and its hop count stay known. -/
def freshTrack (x : SrcTrack) : SrcTrack := { offset := x.offset, hop := x.hop, root := x.root }

/-- R39: an accepted period takes effect; under PIN and PORCH the locks of every such source end. -/
def applyPeriod (t : TickGen) : TickGen :=
  match t.newPeriod with
  | none => t
  | some p =>
    let t1 := { t with period := p, newPeriod := none }
    if t.inUse == .internal then t1
    else
      { t1 with prim := freshTrack t.prim, alt := freshTrack t.alt, prev := t.prev.map freshTrack, slew := 0, corr := 0,
                srcLost := hitFlag t1.srcLost, aligned := false, state := if t.state == .running then .holdover else t.state }

/-- R36, R39: the role taken over at this boundary: primary (false) or alternate (true). A source that locks in HOLDOVER or FREE
and does not define the boundaries is taken over, and the state becomes RUNNING, at the next boundary (DEDUCED 122). -/
def nextRole (t : TickGen) : Option Bool :=
  let primOk := ctlSource t == .internal || t.prim.locked
  let altOk := (altSource t).isSome && t.alt.locked
  if t.state != .running then (if primOk then some false else if altOk then some true else none)
  else match t.prev with
    | some x =>
      if primOk && (!t.onAlt || t.rewritten) then some false
      else if altOk && (t.onAlt || !x.locked) then some true else none
    | none =>
      if t.onAlt then (if t.alt.locked && !t.rewritten then none else if primOk then some false else none)
      else if t.inUse == ctlSource t then (if primOk then none else if altOk then some true else none)
      else if primOk then some false else none

/-- R36: the source of a role defines the boundaries from now on. -/
def takeOver (t : TickGen) (alt : Bool) : TickGen :=
  let src := if alt then (altSource t).getD .internal else ctlSource t
  let x := if alt then t.alt else t.prim
  { t with inUse := src, onAlt := alt, prev := none, rewritten := false, state := .running,
            porchOffset := if src == .porch then x.offset else t.porchOffset,
            corr := if src == .internal then 0 else t.corr }

/-- R27, R33, R38: the length of the tick that begins. -/
def tickLength (t : TickGen) : Nat :=
  match t.state with
  | .running => if t.inUse == .internal then periodUnits t else ((periodUnits t : Int) + t.corr + t.slew).toNat
  | .holdover => ((periodUnits t : Int) + t.corr).toNat
  | _ => periodUnits t

/-- R28: the local tick number after a boundary. -/
def nextNum (t : TickGen) : Tick := if t.begun then t.num + 1 else t.num

/-- R28, R31, R36, R39: the generator at a boundary. -/
def genBoundary (t : TickGen) (b : Nat) : TickGen × Bool :=
  let t1 := applyPeriod t
  let role := nextRole t1
  let t2 := match role with
    | none => t1
    | some r => takeOver t1 r
  let t3 := setAligned t2
  ({ t3 with num := nextNum t, begun := true, lastB := b, nextB := some (b + tickLength t3), slew := 0,
             tickOut := wbit t.ctl 15, released := false, alignedB := t3.aligned }, role.isSome)

/-- R323: the payload of a tick marker (from flit offset 0x08). -/
def markerPayload (s : State) (p : Port) : List Byte :=
  let t := s.tick
  let follows := t.inUse == .porch && ticking t
  let x := useTrack t
  let hop := if follows then x.hop.toNat + 1 else 0
  leBytes (sysTick s).toNat 8 ++ leBytes t.period.toNat 4 ++ leBytes (bits hop 0 8 + b2n t.aligned * 2 ^ 8) 4
  ++ leBytes (if follows then x.root.toNat else Config.uid.toNat) 8
  ++ leBytes 0 8
  ++ (p.latSent.map (fun w => leBytes w.toNat 4)).flatten
  ++ (p.latCredited.map (fun w => leBytes w.toNat 4)).flatten

/-- R32: does a marker leave the port? -/
def markerPort (t : TickGen) (i : Nat) (p : Port) : Bool :=
  p.state == .up && !(ctlSource t == .porch && upPort t == i) && !(altSource t == some .porch && altPort t == i)

/-- R32, R317, R323: the counts are latched at B and the markers leave. -/
def sendMarkers (s : State) : State :=
  let latched := s.links.ports.map (fun p =>
    { p with latSent := p.sent, latCredited := p.credited, latRcvd := p.rcvd, latCredRx := p.credRx,
             latCredits := p.credits, latHeld := p.rxHeld, latOwed := p.owed })
  let out := (enum latched).map (fun ip =>
    if markerPort s.tick ip.1 ip.2 then sendFlit ip.2 3 0 false 0 (markerPayload s ip.2) else ip.2)
  { s with links := { s.links with ports := out } }

end Sys2Proof.Machine
end

