-- ==== Sys2Proof/Machine/Books.lean ====
section
/-! DEFINITION. The resource books (R50, R54 to R59, R67): envelopes, capacities, and what the committed plans book. -/
namespace Sys2Proof.Machine

/-! ## Envelopes (R67) -/

/-- R67: the demand of one entry in a step, normal and cheaper path together. -/
def stepDemand (r : StepRec) (book index : Nat) : Nat := max (demandOf r.demands book index) (demandOf r.cheaper book index)

/-- R67: the number of offsets of a plan. -/
def offsets (b : PlanBody) : Nat := b.steps.length + b.budget

/-- R67: steps that may run at offset `j`. -/
def stepsAt (b : PlanBody) (j : Nat) : List StepRec :=
  (b.steps.drop (j - b.budget)).take (min j (b.steps.length - 1) + 1 - (j - b.budget))

/-- R290: the granules of a plan's pins on a slice, booked at every offset. -/
def pinGranules (b : PlanBody) (slice : Nat) : Nat := sumBy (b.pins.filter (fun p => p.slice == slice)) (·.granules)

/-- R67, R290: the envelope of an entry at an offset; with Br zero, the step's normal path. -/
def envelope (b : PlanBody) (j book index : Nat) : Nat :=
  (if b.budget = 0 then maxBy (stepsAt b j) (fun r => demandOf r.demands book index)
   else max (maxBy (stepsAt b j) (fun r => stepDemand r book index)) (b.recompute.elim 0 (fun r => demandOf r.demands book index)))
  + (if book = 4 then pinGranules b index else 0)

/-- The (book, index) pairs that a plan's envelope can hold at an offset. -/
def entriesAt (b : PlanBody) (j : Nat) : List (Nat × Nat) :=
  (((stepsAt b j) ++ b.recompute.toList).map (fun r => (r.demands ++ r.cheaper).map (fun d => (d.book, d.index)))).flatten

/-! ## Committed bookings (R68, R71) -/

/-- R71: the tick to which a slide (t, d, with t itself) moves a booking. -/
def slideTick (v : Nat × Nat × Bool) (u : Nat) : Nat := if v.1 < u || (u == v.1 && v.2.2) then u + v.2.1 else u

/-- R71: the tick that holds what was booked for a tick, after the plan's slides. -/
def movedTick (l : List (Nat × Nat × Bool)) (u : Nat) : Nat := l.reverse.foldl (fun u v => slideTick v u) u

/-- R71: what a tick holds came from this tick before a slide; none where the slide left a tick empty. -/
def unslide (v : Nat × Nat × Bool) (t : Nat) : Option Nat :=
  if t < v.1 || (t == v.1 && !v.2.2) then some t
  else if v.1 + v.2.1 < t || (t == v.1 + v.2.1 && v.2.2) then some (t - v.2.1)
  else none

/-- R71: the tick, before every slide, whose bookings a tick holds. -/
def originTick (l : List (Nat × Nat × Bool)) (t : Nat) : Option Nat := l.foldl (fun u v => u.bind (unslide v)) (some t)

/-- The first booked tick of a plan as slides have moved it. -/
def firstBooked (p : Plan) : Nat := movedTick p.slides p.t0

/-- The last booked tick of a plan (R67, R107). -/
def lastBooked (p : Plan) : Nat := movedTick p.slides (p.t0 + p.body.elim 0 offsets - 1)

/-- R67: the offset of the plan that a tick holds. -/
def offsetAt (p : Plan) (t : Nat) : Option Nat :=
  match originTick p.slides t, p.body with
  | some u, some b => if p.t0 ≤ u && u < p.t0 + offsets b then some (u - p.t0) else none
  | _, _ => none

/-- R55: room-µs of an amount in array cycles; other amounts as they are. -/
def bookUnit (book amount : Nat) : Nat := if book = 0 then cdiv amount 1400 else amount

/-- What one plan books of an entry in a tick. -/
def planBooked (p : Plan) (t book index : Nat) : Nat :=
  match p.body, offsetAt p t with
  | some b, some j => if p.phase == .admitted && !p.stopped then bookUnit book (envelope b j book index) else 0
  | _, _ => 0

/-- R82: tokens that an overrun took from a tick. -/
def debtAt (s : State) (t : Nat) : Nat := sumBy (s.pwr.debts.filter (fun d => d.1 == t)) (·.2)

/-- What all plans book of an entry in a tick. -/
def booked (s : State) (t book index : Nat) : Nat := sumBy s.plans (fun p => planBooked p t book index)

/-- R82: tokens of a tick that new bookings cannot have: booked, or taken by overruns. -/
def bookedEnergy (s : State) (t : Nat) : Nat := booked s t 6 0 + debtAt s t

/-- R58: tags left unconsumed after their plan's last booked tick count as booked in every tick. -/
def chargedTags (s : State) : Nat :=
  (s.tags.filter (fun u => match u.owner with
    | .charged _ => true
    | .plan k => u.awaiting.isSome && (match getPlan s k with
      | none => true
      | some p => lastBooked p < s.tick.num.toNat)
    | .desc _ => false)).length

/-! ## Capacities per tick -/

/-- R50: usable array cycles for a period in 10 ns units. -/
def usableAc (n : Nat) : Nat := n * 10 * 1393 / 1000 - 1400

/-- R55: room-µs of one room. -/
def roomCap (n : Nat) : Nat := usableAc n / 1400

/-- R56: slots of one cellar. -/
def cellarCap (n : Nat) : Nat := 6 * (21479424 * usableAc n / (14000 * 2048))

/-- R56: bytes of a corridor entry: 0 to 15 one floor's direction, 16 and 17 the bisection. -/
def corridorCap (n index : Nat) : Nat := if index < 16 then 76000 * usableAc n / 14 else 228000 * usableAc n / 14

/-- R306: payload rate of a port at full width, in bytes per second. -/
def payloadRate (p : Port) : Nat :=
  match p.mode, p.rate with
  | .native, 0 => 50000000000
  | .native, 1 => 100000000000
  | .native, _ => 200000000000
  | .ethernet, 0 => 45000000000
  | .ethernet, 1 => 90000000000
  | .ethernet, _ => 180000000000
  | .off, _ => 0

/-- R57: the sum of a port's weights. -/
def weightSum (p : Port) : Nat := max 1 (sumOf p.weights)

/-- R57: twice the capacity of a channel at full width, times `scale`, a multiple of the port's weight sum; in units of
1/10¹⁰ byte. -/
def fullCap2 (p : Port) (v n scale : Nat) : Nat := 2 * 95 * payloadRate p * n * (p.weights.getD v 0) * (scale / weightSum p)

/-- R57, R320: the same at the trained width. -/
def trainedCap2 (p : Port) (v n scale : Nat) : Nat :=
  if p.state != .up then 0 else if p.full then fullCap2 p v n scale else fullCap2 p v n scale / 2

/-- R57: the bundle of a port: the ports whose far ends reach the same partner. -/
def bundleOf (s : State) (port : Nat) : List Nat :=
  match s.links.routes.find? (fun r => r.ports.contains port) with
  | some r => r.ports
  | none => [port]

/-- R57: do `bytes` on a channel of a bundle stay within the bundle's capacity? -/
def bundleFits (s : State) (ports : List Nat) (v n bytes : Nat) : Bool :=
  let ps := ports.map (getPort s)
  let scale := ps.foldl (fun a p => Nat.lcm a (weightSum p)) 1
  let whole := sumBy ps (fun p => trainedCap2 p v n scale)
  let largest := maxBy ps (fun p => fullCap2 p v n scale)
  decide (2 * (bytes * 10000000000 * scale) + largest / 2 ≤ whole)

/-- R59: bookable tokens of a tick at a power of `w` watts. -/
def tokensAt (w n : Nat) : Nat := (w - 1100) * n / 100000

/-- R59: the continuous and the excursion energy of a tick. -/
def energyC (s : State) (n : Nat) : Nat := tokensAt s.pwr.capC n
def energyX (s : State) (n : Nat) : Nat := tokensAt s.pwr.capX n

/-- R59: the per-tick ceiling: above Ec only when the period is at most 10 ms. -/
def energyCeil (s : State) (n : Nat) : Nat := if n ≤ 1000000 then energyX s n else energyC s n

/-- R59: the longest run of ticks above Ec. -/
def runMax (n : Nat) : Nat := 1000000 / n

/-- R59: the length of a window. -/
def windowLen (n : Nat) : Nat := cdiv 10000000 n

/-- The run of consecutive ticks above `ec` that starts at `t`, counted upward with fuel. -/
def runUp (f : Nat → Nat) (ec t : Nat) : Nat → Nat
  | 0 => 0
  | k + 1 => if f t > ec then 1 + runUp f ec (t + 1) k else 0

/-- The run that ends at `t`, counted downward with fuel. -/
def runDown (f : Nat → Nat) (ec t : Nat) : Nat → Nat
  | 0 => 0
  | k + 1 => if f t > ec then 1 + (if t = 0 then 0 else runDown f ec (t - 1) k) else 0

/-- Sum of `f` over `k` ticks from `t`. -/
def sumFrom (f : Nat → Nat) (t : Nat) : Nat → Nat
  | 0 => 0
  | k + 1 => f t + sumFrom f (t + 1) k

/-- R59: do the run and every window that contain tick `t` hold for the bookings `f`? -/
def energyHolds (f : Nat → Nat) (ec n t : Nat) : Bool :=
  let r := runMax n
  let w := windowLen n
  (f t ≤ ec || runUp f ec t (r + 2) + runDown f ec t (r + 2) ≤ r + 1)
  && (List.range w).all (fun i => decide (sumFrom f (t + i + 1 - w) (min w (t + i + 1)) ≤ ec * w))

/-! ## The met tick (R81, R420) -/

/-- R59: the tokens booked in a tick; those of an ended tick stay as they were, whatever has become of their plans. -/
def energyAt (s : State) (t : Nat) : Nat := if t < s.tick.num.toNat then (aGet s.pwr.past t).getD 0 else booked s t 6 0

/-- R81: does the booking of tick `t` break any part of R59 under the caps in force? -/
def tickBreaks (s : State) (n t : Nat) : Bool :=
  let f := energyAt s
  decide (f t > energyCeil s n) || !energyHolds f (energyC s n) n t

/-- The last tick below `hi` that breaks R59, searched downward over `k` ticks. -/
def lastBreak (s : State) (n hi : Nat) : Nat → Option Nat
  | 0 => none
  | k + 1 => if tickBreaks s n (hi - 1) then some (hi - 1) else lastBreak s n (hi - 1) k

/-- R81, R420: the tick from which the caps in force are met; zero when no committed booking breaks R59. A window that holds the
last booked tick may end after it. -/
def metTick (s : State) : Nat :=
  let now := s.tick.num.toNat
  let hi := maxBy (admittedPlans s) (fun p => lastBooked p + windowLen (periodOf s))
  match lastBreak s (periodOf s) hi (hi - now) with
  | none => 0
  | some t => t + 1

/-! ## Caps (R420, R423) -/

/-- R423: the thermal ceiling for the hottest junction in 0.1 °C. -/
def thermalCap (t : Nat) : Nat := if t < 950 then 7000 else if t < 1050 then 1100 + 5900 * (1050 - t) / 100 else 1100

/-- R420: the least of the limits on C. -/
def limitC (p : Pwr) (t : Nat) : Nat :=
  min (min 7000 (10 * wbits p.cap 0 10)) (min (p.boardCont.getD 7000) (thermalCap t))

/-- R420: the least of the limits on X: the thermal limit is the least of the others less 7,000 W − C_th. -/
def limitX (p : Pwr) (t : Nat) : Nat :=
  min (min 8500 (10 * wbits p.cap 16 10)) (p.boardExc.getD 8500) - (7000 - thermalCap t)

/-- R420, R81: a lowered cap is in force at once, a raised one from the next boundary; the met tick follows. -/
def lowerCaps (s : State) : State :=
  let s1 := { s with pwr := { s.pwr with capC := min s.pwr.capC (limitC s.pwr s.pwr.thermMax.toNat), capX := min s.pwr.capX (limitX s.pwr s.pwr.thermMax.toNat) } }
  { s1 with pwr := { s1.pwr with met := BitVec.ofNat 48 (metTick s1) } }

/-- R420: the caps at a boundary. -/
def boundaryCaps (s : State) : State :=
  let s1 := { s with pwr := { s.pwr with capC := limitC s.pwr s.pwr.thermMax.toNat, capX := limitX s.pwr s.pwr.thermMax.toNat } }
  { s1 with pwr := { s1.pwr with met := BitVec.ofNat 48 (metTick s1) } }

/-- R422: THERM_HOT. -/
def thermHot (s : State) : Bool := s.pwr.temps.any (fun t => decide (1050 ≤ t))

end Sys2Proof.Machine
end

