-- ==== Sys2Proof/Machine/Contexts.lean ====
section
/-! DEFINITION. Contexts, their opening and closing (R91 to R94, R114, R440), extents held (R286), and the withdrawal of plans
(R108, R123). -/
namespace Sys2Proof.Machine

/-! ## Extents (R286 to R288) -/

/-- R286: the extents that a context holds: current and pending generations, loaded images, and those awaiting the latch. -/
def heldExtents (s : State) (c : Nat) : List Nat :=
  let a := (getCtx s c).addr
  let cur := (a.cur.map (fun p => p.2.extents)).flatten
  let next := ((a.next.getD []).map (fun p => p.2.extents)).flatten
  let images := ((s.attic.loaded.filter (fun l => l.ctx == c)).map (·.extents)).flatten
  cur ++ next.filter (fun e => !cur.contains e) ++ images ++ a.freeing ++ (s.limbo.filter (fun q => q.1 == c)).map (·.2)

/-- Every extent that is not in the free pool. -/
def usedExtents (s : State) : List Nat :=
  (s.ctxs.map (fun p => heldExtents s p.1)).flatten ++ s.limbo.map (·.2)

/-- R280, R287: cellar-c extents are numbered c × 32,640 + i; this is the physical address of extent `e`. -/
def extentPa (e : Nat) : Nat :=
  let c := e / 32640
  let i := e % 32640
  let h := i / 2048
  (h * 4096 + (i / 128 % 16) * 256 + (h ^^^ c) * 16) * 2 ^ 24 + (i % 128) * 2 ^ 21

/-- The lowest free extent of a cellar from local number `i` on. -/
def freeExtent (used : List Nat) (c i : Nat) : Nat → Option Nat
  | 0 => none
  | k + 1 => if used.contains (c * 32640 + i) then freeExtent used c (i + 1) k else some (c * 32640 + i)

/-- R288: freed extents are scrubbed to zero. -/
def scrub (m : List Host.Cell) (es : List Nat) : List Host.Cell :=
  m.filter (fun p => !es.any (fun e => decide (extentPa e ≤ p.1) && decide (p.1 < extentPa e + 2 ^ 21)))

/-! ## Plans leave (R108, R123, R440) -/

/-- R108: the plan stops at the next boundary, its outputs WITHDRAWN with a cause. -/
def withdrawPlan (s : State) (k : PlanKey) (cause : Byte) : State :=
  modPlan s k (fun p => if p.phase == .admitted && !p.stopped && p.stopping.isNone then { p with stopping := some cause } else p)

/-- R440, R123: plans of a context whose entries are no longer written; undecided ones are dropped. -/
def silencePlans (s : State) (c : Nat) (noRecord : Bool) : State :=
  { s with plans := (s.plans.filter (fun p => !(p.key.ctx == c && p.phase == .waiting))).map (fun p =>
      if p.key.ctx == c then
        { p with silent := true, noRecord := p.noRecord || noRecord, stopping := if p.stopped then p.stopping else some (p.stopping.getD 0) }
      else p) }

/-! ## Opening and closing -/

/-- R94: a context opens with its rings. -/
def openCtx (s : State) (c : Nat) (sqBase cqBase : DWord) (sqLog2 cqLog2 vector : Nat) : State :=
  modCtx s c (fun x => { x with
    state := .opened, sqBase := sqBase, cqBase := cqBase, sqLog2 := sqLog2, cqLog2 := cqLog2,
    vector := vector, sqTail := 0, sqHead := 0, sqFree := 2 ^ sqLog2, cq := {}, timer := false, holds := [], cqBad := false, inRing := [], opens := [], dataFail := none,
    fetched := none })

/-- R375: a context's images leave: their extents are freed at the latch. -/
def unloadImages (s : State) (p : Loaded → Bool) : State :=
  { s with limbo := s.limbo ++ ((s.attic.loaded.filter p).map (fun l => l.extents.map (fun e => (l.ctx, e)))).flatten,
           attic := { s.attic with loaded := s.attic.loaded.filter (fun l => !p l) } }

/-- R384: the STREAM items of a stream: at most 1,000 access units each. -/
def streamItems (t : Stream) : List Item :=
  (List.range (cdiv t.digests.length 1000)).map (fun i =>
    let part := (t.digests.drop (1000 * i)).take 1000
    { type := 11,
      body := leBytes (t.sid + part.length * 2 ^ 16) 4 ++ leBytes (1000 * i) 4 ++ padTo (sha512 t.params) 64
        ++ (part.map (fun d => padTo d 64)).flatten })

/-- R367, R383: a stream that closes leaves its items to the plans whose outputs its jobs have awaited. -/
def keepItems (s : State) (t : Stream) : State :=
  t.plans.foldl (fun s k => modPlan s k (fun p => { p with items := p.items ++ streamItems t })) s

/-! ## Jobs of streams end (R361, R364) -/

/-- The stream of a context. -/
def getStream (s : State) (c sid : Nat) : Option Stream := (getCtx s c).streams.find? (fun t => t.sid == sid)
def modStream (s : State) (c sid : Nat) (f : Stream → Stream) : State :=
  modCtx s c (fun x => { x with streams := updFirst (fun t => t.sid == sid) f x.streams })

/-- The jobs of a stream without one. -/
def dropJob (tag : Nat) (t : Stream) : Stream := { t with jobs := t.jobs.filter (fun j => j.tag != tag) }

/-- A job ends that codes nothing. -/
def voidJob (s : State) (c sid : Nat) (j : Job) (code : Nat) : State :=
  let s1 := modStream s c sid (dropJob j.tag)
  match (getCtx s1 c).opens.find? (fun o => o.tag == j.tag) with
  | none => s1
  | some o => closeOpen s1 c o code 0

/-- The jobs of a context that wait for an output, or for any output of a plan, with their streams. -/
def waitingJobs (s : State) (k : PlanKey) (out : Option Nat) : List (Nat × Job) :=
  ((getCtx s k.ctx).streams.map (fun t => (t.jobs.filter (fun j => match j.waits with
    | some (q, o) => j.ready.isNone && q == k && out.all (· == o)
    | none => false)).map (fun j => (t.sid, j)))).flatten

/-- R364, R367: a plan is refused or has written its END entry: jobs that still wait for it end with PLAN_UNKNOWN, and its streams
serve it no more. -/
def codecPlanGone (s : State) (k : PlanKey) : State :=
  let s1 := modCtx s k.ctx (fun x => { x with endings := x.endings.filter (fun q => q.1 != k.id),
                                              streams := x.streams.map (fun t => { t with plans := t.plans.filter (· != k) }) })
  (waitingJobs s k none).foldl (fun s q => voidJob s k.ctx q.1 q.2 0x19) s1

/-- R58: is the tag charged to the context? -/
def chargedTo (c : Nat) : TagOwner → Bool
  | .charged k => k.ctx == c
  | _ => false

/-- R93, R114: a context is CLOSED: its tags return, its images and streams are gone. -/
def closeNow (s : State) (c : Nat) : State :=
  let s0 := (getCtx s c).opens.foldl (fun s o => dropOpen s c o.tag) s
  let s1 := (getCtx s0 c).streams.foldl keepItems (unloadImages s0 (fun l => l.ctx == c))
  let s2 := modCtx s1 c (fun x => { x with
    state := .closed, timer := false, holds := [], cqBad := false, inRing := [], dataFail := none, fetched := none,
    opens := [], moves := [], streams := [], endings := [], cq := { x.cq with used := 0 } })
  { s2 with
    tags := s2.tags.filter (fun u => u.owner != .desc c && !chargedTo c u.owner && u.awaiting != some c),
    attic := { s2.attic with imageOps := s2.attic.imageOps.filter (fun o => o.desc.ctx != c),
                             updates := s2.attic.updates.filter (fun u => u.ctx != c) } }

def dropHeld (t : Stream) : Stream := { t with jobs := t.jobs.filter (fun j => !j.held) }

/-- R366: held RANDOM_ACCESS jobs complete WITHDRAWN when their stream closes and no other job of it is left. -/
def withdrawHeld (s : State) (c sid : Nat) : State :=
  match (getCtx s c).streams.find? (fun t => t.sid == sid) with
  | none => s
  | some st =>
    if st.jobs.any (fun j => !j.held) then s
    else
      let s1 := modCtx s c (fun x => { x with streams := updFirst (fun t => t.sid == sid) dropHeld x.streams })
      st.jobs.foldl (fun s j => match (getCtx s c).opens.find? (fun o => o.tag == j.tag) with
        | none => s
        | some o => closeOpen s c o 0x31 0) s1

/-- R366: a stream that closes, by STREAM_CLOSE or with its context, ends once its jobs have completed. -/
def settleStream (s : State) (c sid : Nat) : State :=
  match (getCtx s c).streams.find? (fun t => t.sid == sid) with
  | none => s
  | some st =>
    if st.closing.isNone && (getCtx s c).state != .closing then s
    else
      let s1 := withdrawHeld s c sid
      if st.jobs.any (fun j => !j.held) then s1
      else
        let s2 := modCtx (keepItems s1 st) c (fun x => { x with streams := x.streams.filter (fun t => t.sid != sid) })
        match st.closing.bind (fun tag => (getCtx s2 c).opens.find? (fun o => o.tag == tag)) with
        | none => s2
        | some o => closeOpen s2 c o 0x00 0

/-- Every stream of a context. -/
def settleStreams (s : State) (c : Nat) : State := ((getCtx s c).streams.map (·.sid)).foldl (fun s sid => settleStream s c sid) s

/-- R114, R366: a context passes to CLOSING: its plans are withdrawn, fetching stops, held jobs of its streams end. -/
def startClosing (s : State) (c : Nat) : State :=
  let s1 := (admittedPlans s).foldl (fun s p => if p.key.ctx == c then withdrawPlan s p.key 0 else s) s
  settleStreams (modCtx s1 c (fun x => { x with state := .closing, timer := false })) c

/-- R114: has the CLOSING context written every entry? -/
def closeDone (s : State) (c : Nat) : Bool :=
  let x := getCtx s c
  x.state == .closing && x.opens.isEmpty && x.fetched.isNone && x.holds.isEmpty && !s.plans.any (fun p => p.key.ctx == c)

/-- R107, R108: has the plan written its END entry? -/
def planOver (s : State) (k : PlanKey) : Bool :=
  (getPlan s k).isNone && !(getCtx s k.ctx).holds.any (fun e => e.kind == 3 && e.planId.toNat == k.id)

/-- R93: may CTX_CLOSE take the context to CLOSING: from OPEN, or with `force` from ERROR? -/
def closable (s : State) (t : Nat) (force : Bool) : Bool := (getCtx s t).state == .opened || ((getCtx s t).state == .error && force)

/-- R93, R108, R114: what an open CTX_CLOSE or PLAN_WITHDRAW does next. Its target's state is looked at again once the awaited
admissions have been decided. -/
def settleClose (s : State) (c : Nat) (o : OpenDesc) : State :=
  match o.wait with
  | .close t force waits false =>
    if waits.any (fun k => s.plans.any (fun p => p.key == k && p.phase == .waiting)) then s
    else if !closable s t force then closeOpen s c o 0x15 0
    else if holdsPlan s t && !force then closeOpen s c o 0x16 0
    else
      let s1 := modCtx s c (fun x => { x with opens := x.opens.map (fun q => if q.tag = o.tag then { q with wait := .close t force waits true } else q) })
      startClosing s1 t
  | .close t _ _ true => if (getCtx s t).state == .closed then closeOpen s c o 0x00 0 else s
  | .withdraw k => if planOver s k then closeOpen s c o 0x00 0 else s
  | _ => s

/-- One pass over the contexts: those that have finished CLOSING are CLOSED, and waiting CTX_CLOSEs go on. -/
def settlePass (s : State) : State :=
  let s0 := (s.ctxs.map (·.1)).foldl settleStreams s
  let s1 := (s0.ctxs.map (·.1)).foldl (fun s c => if closeDone s c then closeNow s c else s) s0
  (s1.ctxs.map (·.1)).foldl (fun s c => ((getCtx s c).opens).foldl (fun s o => settleClose s c o) s) s1

/-- Three passes: a CTX_CLOSE begins, its target closes, its own context closes. -/
def settle (s : State) : State := settlePass (settlePass (settlePass s))

/-! ## Control contexts (R440) -/

/-- R439: a write of a function page is ignored. -/
def pageRefuse (s : State) (f : Nat) : State := modFn s f (fun p => { p with wrRef := hitFlag p.wrRef })

/-- R440: does CR_CFG lie in range? -/
def crCfgOk (w : Word) : Bool := decide (6 ≤ wbits w 0 4 ∧ wbits w 0 4 ≤ 12 ∧ 6 ≤ wbits w 4 5 ∧ wbits w 4 5 ≤ 16)

/-- R440: more than one control bit set. -/
def manyBits (w : Word) : Bool := b2n (wbit w 0) + b2n (wbit w 1) + b2n (wbit w 2) > 1

/-- R124, R456: may the function use its control ring in this device state? -/
def crAllowed (s : State) (f : Nat) : Bool := alive s && (getFn s f).present && (s.dev.state == .inService || f == 0)

/-- R440: every other context of the function is CLOSED. -/
def othersClosed (s : State) (f c : Nat) : Bool := (ctxsOf s f).all (fun d => d == c || (getCtx s d).state == .closed)

/-- R440: OPEN. -/
def crOpen (s : State) (f : Nat) : State :=
  let p := getFn s f
  match ctxOf s f 0 with
  | none => pageRefuse s f
  | some c =>
    if (getCtx s c).state == .closed && crCfgOk p.crCfg && p.crSqBase != 0 && p.crCqBase != 0 then
      openCtx s c p.crSqBase p.crCqBase (wbits p.crCfg 0 4) (wbits p.crCfg 4 5) (wbits p.crCfg 9 5)
    else pageRefuse s f

/-- R440: CLOSE. -/
def crClose (s : State) (f : Nat) : State :=
  match ctxOf s f 0 with
  | none => pageRefuse s f
  | some c =>
    if (getCtx s c).state == .opened && !holdsPlan s c && (getCtx s c).streams.isEmpty && othersClosed s f c then
      settle (startClosing s c)
    else pageRefuse s f

/-- R440: RESET. -/
def crReset (s : State) (f : Nat) : State :=
  match ctxOf s f 0 with
  | none => pageRefuse s f
  | some c =>
    if (getCtx s c).state == .error && (f == 0 || othersClosed s f c) then settle (closeNow (silencePlans s c false) c)
    else pageRefuse s f

/-- R440: a write of CR_CTL. -/
def crCtl (s : State) (f : Nat) (w : Word) : State :=
  if !crAllowed s f then s
  else if manyBits w then pageRefuse s f
  else if wbit w 0 then crOpen s f
  else if wbit w 1 then crClose s f
  else if wbit w 2 then crReset s f
  else s

/-- R440: CR_CTL.OPEN. -/
def execCrOpen (fn : Nat) (value : Word) (s : State) : Out1 := .next (crCtl s fn value)
/-- R440: CR_CTL.CLOSE. -/
def execCrClose (fn : Nat) (value : Word) (s : State) : Out1 := .next (crCtl s fn value)
/-- R440: CR_CTL.RESET. -/
def execCrReset (fn : Nat) (value : Word) (s : State) : Out1 := .next (crCtl s fn value)

/-! ## Function level reset, VF Enable and power states (R123, R437) -/

/-- R437: a function page at its reset values; what the hall holds for the function stays. -/
def pageReset (p : FnPage) : FnPage :=
  { present := p.present, ledger := p.ledger, ide := p.ide, aerIde := p.aerIde, aerHost := p.aerHost, atc := p.atc, atsWait := p.atsWait,
    atsDone := p.atsDone }

/-- R123: the plans of a function that a reset withdraws; one whose admission is undecided goes with them, for its decision could
reach nobody (DESIGN CHOICE 131). -/
def fnPlans (s : State) (f : Nat) : List Plan := s.plans.filter (fun p => ctxFn s p.key.ctx == some f)

/-- R123: plans withdrawn without entries or records, contexts closed, the page reset. -/
def resetFn (s : State) (f : Nat) : State :=
  let s1 := (ctxsOf s f).foldl (fun s c => closeNow (silencePlans s c true) c) s
  modFn s1 f pageReset

/-- R123: the record of a function's reset. R391 calls its second detail "withdrawn plans" and gives no form: here their number
(DESIGN CHOICE 131). -/
def flrRecord (s : State) (f n : Nat) : State := if s.dev.failstop then s else logFault s { code := 0x0406, d0 := f, d1 := n }

/-- R123: function level reset of a VF. -/
def flrVf (s : State) (f : Nat) : State :=
  if s.dev.state == .boot || f == 0 || !(getFn s f).present then s
  else settle (flrRecord (resetFn s f) f (fnPlans s f).length)

/-- The VFs that exist. -/
def presentVfs (s : State) : List Nat := (s.fns.filter (fun p => p.1 != 0 && p.2.present)).map (·.1)

/-- R123: a VF is gone. -/
def removeVf (s : State) (f : Nat) : State := modFn s f (fun p => { p with present := false, vecs := [] })

/-- R123: a VF is reset, its record is logged, and it is gone. -/
def flrGone (s : State) (f : Nat) : State := removeVf (flrRecord (resetFn s f) f (fnPlans s f).length) f

/-- R123: function level reset of the PF, which is one of every VF too. -/
def flrPf (s : State) : State :=
  if s.dev.state == .boot then s
  else
    let s1 := (presentVfs s).foldl flrGone s
    let s2 := resetFn s1 0
    let s3 := flrRecord { s2 with dev := { s2.dev with numVfs := 0 } } 0 (fnPlans s1 0).length
    { s3 with ctxs := s3.ctxs.map (fun p => (p.1, { p.2 with state := .closed })) }

/-- R123: FLR of a VF. -/
def execFlrVf (fn : Nat) (s : State) : Out1 := .next (flrVf s fn)
/-- R123: FLR of the PF. -/
def execFlrPf (s : State) : Out1 := .next (flrPf s)

/-- R123: D3hot only when no context holds an admitted plan. -/
def powerState (s : State) (f : Nat) (d3 : Bool) : State :=
  if !(getFn s f).present || s.dev.state == .boot then s
  else if d3 && anyPlan s then s
  else modFn s f (fun p => { p with d3hot := d3 })

/-- R123: POWER_STATE_WRITE. -/
def execPowerStateWrite (fn : Nat) (d3hot : Bool) (s : State) : Out1 := .next (powerState s fn d3hot)

/-- R83, R123, R447: VF Enable with NumVFs; no VFs exist in the recovery state (R124). -/
def vfEnable (s : State) (enable : Bool) (n : Nat) : State :=
  if s.dev.state != .inService || n > 63 then s
  else if enable then
    if s.dev.numVfs ≠ 0 then s
    else
      let s1 := (List.range n).foldl (fun s i => setFn s (i + 1) { (getFn s (i + 1)) with present := true }) s
      { s1 with dev := { s1.dev with numVfs := n } }
  else
    let s1 := (presentVfs s).foldl (fun s f => removeVf (resetFn s f) f) s
    settle { s1 with dev := { s1.dev with numVfs := 0 } }

/-- R123: VF_ENABLE_WRITE. -/
def execVfEnableWrite (enable : Bool) (numVfs : Nat) (s : State) : Out1 := .next (vfEnable s enable numVfs)

end Sys2Proof.Machine
end

