-- ==== Sys2Proof/Machine/Registers.lean ====
section
/-! DEFINITION. BAR0 (R436 to R456): the write dispatcher and the registers with a behaviour of their own. -/
namespace Sys2Proof.Machine

/-! ## W1C flags (R7, R8, R439, R448, R43, R422) -/

/-- R439: `HOST_STAT`. -/
def w1cHost (p : FnPage) (v hw : Word) : FnPage :=
  { p with
    dbDrop := w1c p.dbDrop (wbit v 0) (wbit hw 0), frOff := w1c p.frOff (wbit v 1) (wbit hw 1),
    lrOff := w1c p.lrOff (wbit v 2) (wbit hw 2), wrRef := w1c p.wrRef (wbit v 3) (wbit hw 3) }

/-- R43: `TICK_STAT`. -/
def w1cTick (t : TickGen) (v hw : Word) : TickGen :=
  { t with
    srcLost := w1c t.srcLost (wbit v 8) (wbit hw 8), edgeReject := w1c t.edgeReject (wbit v 9) (wbit hw 9),
    perMismatch := w1c t.perMismatch (wbit v 10) (wbit hw 10), wrRefused := w1c t.wrRefused (wbit v 11) (wbit hw 11),
    auditFail := w1c t.auditFail (wbit v 12) (wbit hw 12) }

/-- R422: `PWR_STAT`. -/
def w1cPwr (p : Pwr) (v hw : Word) : Pwr :=
  { p with
    stretchOver := w1c p.stretchOver (wbit v 8) (wbit hw 8), tokOverrun := w1c p.tokOverrun (wbit v 9) (wbit hw 9),
    wrRefused := w1c p.wrRefused (wbit v 10) (wbit hw 10), thermEvent := w1c p.thermEvent (wbit v 11) (wbit hw 11) }

/-- R450: a power register write is ignored. -/
def pwrRefuse (s : State) : State := { s with pwr := { s.pwr with wrRefused := hitFlag s.pwr.wrRefused } }

/-- R447: a context-table write is ignored. -/
def assignRefuse (s : State) : State := { s with dev := { s.dev with assignErr := hitFlag s.dev.assignErr } }

/-- R8: a write to a register of W1C flags; `hw` names flags that hardware sets in the same cycle. After fail-stop the
clears still take effect (R456). In the recovery state tick and power writes are refused. -/
def w1cWrite (s : State) (f off : Nat) (v hw : Word) : State :=
  if off = 0x008 then modFn s f (fun p => w1cHost p v hw)
  else if f ≠ 0 then s
  else if off = 0x2000 then { s with dev := { s.dev with assignErr := w1c s.dev.assignErr (wbit v 0) (wbit hw 0) } }
  else if off = 0x3008 then (if s.dev.state == .recovery then tickRefuse s else { s with tick := w1cTick s.tick v hw })
  else if off = 0x3104 then (if s.dev.state == .recovery then pwrRefuse s else { s with pwr := w1cPwr s.pwr v hw })
  else s

/-- R8: W1C_FLAG_CLEAR. -/
def execW1cFlagClear (fn offset : Nat) (value sets : Word) (s : State) : Out1 :=
  .next (if barOpen s fn then w1cWrite s fn offset value sets else s)

/-! ## The function page -/

/-- The control context of a function is CLOSED, or there is none. -/
def controlClosed (s : State) (f : Nat) : Bool :=
  match ctxOf s f 0 with
  | none => true
  | some c => (getCtx s c).state == .closed

/-- Low or high half of a base register (R438): bits [11:0] of the low half read zero. -/
def putHalf (b : DWord) (high : Bool) (v : Word) : DWord :=
  if high then BitVec.ofNat 64 (dbits b 0 32 + v.toNat * 2 ^ 32)
  else BitVec.ofNat 64 (dbits b 32 32 * 2 ^ 32 + v.toNat / 4096 * 4096)

/-- R438, R440: a write of a control-ring base or of `CR_CFG` needs a CLOSED control context. -/
def crWrite (s : State) (f : Nat) (g : FnPage → FnPage) : State := if controlClosed s f then modFn s f g else pageRefuse s f

/-- R441: a write of `FR_CFG`: changes under ENABLE, an enable out of range, an enable, a disable. -/
def frCfgWrite (s : State) (f : Nat) (v : Word) : State :=
  let p := getFn s f
  let w := BitVec.ofNat 32 (wbits v 0 10 + b2n (wbit v 31) * 2 ^ 31)
  if wbit p.frCfg 31 then
    if wbits w 0 10 ≠ wbits p.frCfg 0 10 then pageRefuse s f else setFn s f { p with frCfg := w }
  else if wbit w 31 then
    if wbits w 0 5 < 6 || wbits w 0 5 > 16 || p.frBase == 0 then pageRefuse s f else setFn s f { p with frCfg := w, fr := {} }
  else setFn s f { p with frCfg := w }

/-- R441: a write of `LR_CFG`; in the recovery state the ledger ring is disabled (R124). -/
def lrCfgWrite (s : State) (f : Nat) (v : Word) : State :=
  let p := getFn s f
  let w := BitVec.ofNat 32 (wbits v 0 9 + b2n (wbit v 31) * 2 ^ 31)
  if wbit p.lrCfg 31 then
    if wbits w 0 9 ≠ wbits p.lrCfg 0 9 then pageRefuse s f else setFn s f { p with lrCfg := w }
  else if wbit w 31 then
    if wbits w 0 4 < 4 || wbits w 0 4 > 12 || p.lrBase == 0 || s.dev.state == .recovery then pageRefuse s f
    else setFn s f { p with lrCfg := w, lr := {} }
  else setFn s f { p with lrCfg := w }

/-- R441: a base register of an enabled ring is not written. -/
def frBaseWrite (s : State) (f : Nat) (high : Bool) (v : Word) : State :=
  if wbit (getFn s f).frCfg 31 then pageRefuse s f else modFn s f (fun p => { p with frBase := putHalf p.frBase high v })
def lrBaseWrite (s : State) (f : Nat) (high : Bool) (v : Word) : State :=
  if wbit (getFn s f).lrCfg 31 then pageRefuse s f else modFn s f (fun p => { p with lrBase := putHalf p.lrBase high v })

/-- R442: the writable bits of `MSIX_MOD`. -/
def modMask (v : Word) : Word := BitVec.ofNat 32 (wbits v 0 2 + wbits v 4 8 * 2 ^ 4 + wbits v 16 12 * 2 ^ 16)

/-- R442: a write of a vector's moderation. -/
def msixModWrite (s : State) (f n : Nat) (v : Word) : State :=
  if n > 31 then s
  else if wbits v 0 2 = 3 || wbits v 4 8 = 0 || wbits v 16 12 = 0 then pageRefuse s f
  else
    let x := getVec (getFn s f) n
    if modMask v = x.modr then s
    else
      let s1 := if x.count > 0 then sendVec s f n else s
      modFn s1 f (fun p => { p with vecs := aSet p.vecs n { (getVec p n) with modr := modMask v, count := 0, before := 0, delayOn := false } })

/-- R121: a pending message of an unmasked vector is written. -/
def firePending (s : State) (f n : Nat) : State :=
  let p := getFn s f
  let x := getVec p n
  if x.pending && !x.mask && !p.fnMask then
    { setFn s f { p with vecs := aSet p.vecs n { x with pending := false, sent := x.sent + 1 } } with
      host := hostWrite s.host x.addr.toNat (leBytes x.data.toNat 4) }
  else s

/-- R121: the mask of a vector, or of the function. -/
def vectorMask (s : State) (f : Nat) (v : Option Nat) (m : Bool) : State :=
  match v with
  | some n =>
    if n > 31 then s
    else firePending (modFn s f (fun p => { p with vecs := aSet p.vecs n { (getVec p n) with mask := m } })) f n
  | none =>
    (List.range 32).foldl (fun s n => firePending s f n) (modFn s f (fun p => { p with fnMask := m }))

/-- R438: a word of the MSI-X table: address low and high, data, vector control. -/
def tableWrite (s : State) (f n w : Nat) (v : Word) : State :=
  match w with
  | 0 => modFn s f (fun p => { p with vecs := aSet p.vecs n { (getVec p n) with addr := BitVec.ofNat 64 (dbits (getVec p n).addr 32 32 * 2 ^ 32 + v.toNat) } })
  | 1 => modFn s f (fun p => { p with vecs := aSet p.vecs n { (getVec p n) with addr := BitVec.ofNat 64 (dbits (getVec p n).addr 0 32 + v.toNat * 2 ^ 32) } })
  | 2 => modFn s f (fun p => { p with vecs := aSet p.vecs n { (getVec p n) with data := v } })
  | _ => vectorMask s f (some n) (wbit v 0)

/-- R438: a write inside the function page. -/
def pageWrite (s : State) (f off : Nat) (v : Word) : State :=
  match off with
  | 0x008 => w1cWrite s f off v 0
  | 0x040 => crWrite s f (fun p => { p with crSqBase := putHalf p.crSqBase false v })
  | 0x044 => crWrite s f (fun p => { p with crSqBase := putHalf p.crSqBase true v })
  | 0x048 => crWrite s f (fun p => { p with crCqBase := putHalf p.crCqBase false v })
  | 0x04C => crWrite s f (fun p => { p with crCqBase := putHalf p.crCqBase true v })
  | 0x050 => crWrite s f (fun p => { p with crCfg := BitVec.ofNat 32 (wbits v 0 14) })
  | 0x054 => crCtl s f v
  | 0x080 => frBaseWrite s f false v
  | 0x084 => frBaseWrite s f true v
  | 0x088 => frCfgWrite s f v
  | 0x090 => lrBaseWrite s f false v
  | 0x094 => lrBaseWrite s f true v
  | 0x098 => lrCfgWrite s f v
  | _ =>
    if 0x100 ≤ off && off < 0x180 then msixModWrite s f ((off - 0x100) / 4) v
    else if 0x800 ≤ off && off < 0xA00 then tableWrite s f ((off - 0x800) / 16) (off / 4 % 4) v
    else s

/-! ## Context assignment (R446, R447, R288) -/

/-- R288, R448: the sum of all quotas. -/
def quotaTotal (s : State) : Nat := sumBy s.ctxs (fun p => p.2.quota.toNat)

/-- R447: FUNC and LOCAL of a first word. -/
def assignOwner (s : State) (c : Nat) (v : Word) : State :=
  let x := getCtx s c
  let f := wbits v 0 7
  let l := if f = 0 then 0 else wbits v 16 10
  let same := x.func.toNat == f && x.loc.toNat == l
  let dup := 0 < f && f < 64 && s.ctxs.any (fun p => p.1 != c && p.2.func.toNat == f && p.2.loc.toNat == l)
  if same then s
  else if c == 0 || x.state != .closed || (64 ≤ f && f ≤ 126) || dup then assignRefuse s
  else setCtx s c { x with func := BitVec.ofNat 7 f, loc := BitVec.ofNat 10 l }

/-- R447: PASID and PASID_EN of a second word. -/
def assignPasid (s : State) (c : Nat) (v : Word) : State :=
  let x := getCtx s c
  if x.pasid.toNat == wbits v 0 20 && x.pasidEn == wbit v 31 then s
  else if x.state != .closed then assignRefuse s
  else setCtx s c { x with pasid := BitVec.ofNat 20 (wbits v 0 20), pasidEn := wbit v 31 }

/-- R288, R447: the quota of a third word. -/
def assignQuota (s : State) (c : Nat) (v : Word) : State :=
  let x := getCtx s c
  let q := wbits v 0 20
  if quotaTotal s - x.quota.toNat + q > 522240 || q < (heldExtents s c).length then assignRefuse s
  else setCtx s c { x with quota := BitVec.ofNat 20 q }

/-- R447: a write to the entry of a context; refused in the recovery state (R456). -/
def assignWrite (s : State) (c w : Nat) (v : Word) : State :=
  if c ≥ 16384 then s
  else if s.dev.state == .recovery then assignRefuse s
  else match w with
    | 0 => assignOwner s c v
    | 1 => assignPasid s c v
    | 2 => assignQuota s c v
    | _ => s

/-! ## Power and the fault log window -/

/-- R421: a write of `PWR_CAP`. -/
def pwrCapWrite (s : State) (v : Word) : State :=
  let c := wbits v 0 10
  let x := wbits v 16 10
  if s.dev.state == .recovery then pwrRefuse s
  else if c < 150 || c > 700 || x < c || x > 850 then pwrRefuse s
  else lowerCaps { s with pwr := { s.pwr with cap := BitVec.ofNat 32 (c + x * 2 ^ 16) } }

/-! ## The dispatcher -/

/-- R443: a write of one aligned word of BAR0. After fail-stop only clears of W1C flags take effect (R456). -/
def write32 (s : State) (f off time : Nat) (v : Word) : State :=
  if s.dev.failstop then w1cWrite s f off v 0
  else if off < 0x1000 then pageWrite s f off v
  else if f ≠ 0 then s
  else if 0x100000 ≤ off && off < 0x140000 then assignWrite s ((off - 0x100000) / 16) (off / 4 % 4) v
  else match off with
    | 0x2000 => w1cWrite s f off v 0
    | 0x3000 => writeTickCtl s time v
    | 0x3004 => writeTickPeriod s v
    | 0x3008 => w1cWrite s f off v 0
    | 0x3010 => writeOffsetLo s v
    | 0x3014 => writeOffsetHi s v
    | 0x3018 => if s.dev.state == .recovery then tickRefuse s else s
    | 0x301C => if s.dev.state == .recovery then tickRefuse s else s
    | 0x3020 => if s.dev.state == .recovery then tickRefuse s else s
    | 0x3024 => if s.dev.state == .recovery then tickRefuse s else s
    | 0x3100 => pwrCapWrite s v
    | 0x3104 => w1cWrite s f off v 0
    | 0x3108 => if s.dev.state == .recovery then pwrRefuse s else s
    | 0x310C => if s.dev.state == .recovery then pwrRefuse s else s
    | 0x3110 => if s.dev.state == .recovery then pwrRefuse s else s
    | 0x3114 => if s.dev.state == .recovery then pwrRefuse s else s
    | 0x3118 => if s.dev.state == .recovery then pwrRefuse s else s
    | 0x4010 => { s with flog := { s.flog with sel := v } }
    | _ => s

/-- R436: a BAR0 write: aligned 4 bytes, or aligned 8 bytes as two words, the lower address first; others are dropped. -/
def barWrite (s : State) (f off size time : Nat) (v : DWord) : State :=
  if !barOpen s f then s
  else if size = 4 && off % 4 = 0 then write32 s f off time (BitVec.ofNat 32 (dbits v 0 32))
  else if size = 8 && off % 8 = 0 then
    write32 (write32 s f off time (BitVec.ofNat 32 (dbits v 0 32))) f (off + 4) time (BitVec.ofNat 32 (dbits v 32 32))
  else s

/-- R436: REGISTER_WRITE. -/
def execRegisterWrite (fn offset size time : Nat) (value : DWord) (s : State) : Out1 := .next (barWrite s fn offset size time value)

/-- A write of one word of BAR0 by a command that names its register. -/
def regWrite (s : State) (f off : Nat) (v : Word) : State := if barOpen s f then write32 s f off s.now v else s

/-- R441: FR_CFG write. -/
def execFaultRingEnable (fn : Nat) (value : Word) (s : State) : Out1 := .next (regWrite s fn 0x088 value)
/-- R441: LR_CFG write. -/
def execLedgerRingEnable (fn : Nat) (value : Word) (s : State) : Out1 := .next (regWrite s fn 0x098 value)
/-- R442: MSIX_MOD write. -/
def execMsixModWrite (fn vector : Nat) (value : Word) (s : State) : Out1 :=
  .next (if vector < 32 then regWrite s fn (0x100 + 4 * vector) value else s)
/-- R447: context assignment write. -/
def execContextAssignWrite (ctx word : Nat) (value : Word) (s : State) : Out1 :=
  .next (if ctx < 16384 && word < 4 then regWrite s 0 (0x100000 + 16 * ctx + 4 * word) value else s)
/-- R421: PWR_CAP write. -/
def execPwrCapWrite (value : Word) (s : State) : Out1 := .next (regWrite s 0 0x3100 value)

/-- R450: a read of PWR_MET_LO latches PWR_MET_HI. -/
def readMetLo (s : State) : State :=
  let m := if s.dev.state == .recovery then 0 else s.pwr.met.toNat
  { s with pwr := { s.pwr with metHi := BitVec.ofNat 16 (m / 2 ^ 32) }, dev := { s.dev with readData := BitVec.ofNat 32 m } }

/-- R450: PWR_MET_LO read. -/
def execPwrMetLoRead (s : State) : Out1 := .next (if barOpen s 0 then readMetLo s else s)

/-- R451: a read of FLOG_NEWEST_LO latches FLOG_NEWEST_HI. -/
def readNewestLo (s : State) : State :=
  let n := (s.flog.newest.head?.elim 0 (fun r => r.seq.toNat))
  { s with flog := { s.flog with newHi := BitVec.ofNat 32 (n / 2 ^ 32) }, dev := { s.dev with readData := BitVec.ofNat 32 n } }

/-- R451: FLOG_NEWEST_LO read. -/
def execFlogNewestLoRead (s : State) : Out1 := .next (if barOpen s 0 then readNewestLo s else s)

/-- R121: MSI-X mask write. -/
def execMsixVectorMaskWrite (fn : Nat) (vector : Option Nat) (mask : Bool) (s : State) : Out1 :=
  .next (if barOpen s fn && !s.dev.failstop then vectorMask s fn vector mask else s)

end Sys2Proof.Machine
end

