-- ==== Sys2Proof/Machine/Rings.lean ====
section
/-! DEFINITION. Doorbells, descriptor fetch, completion entries that wait, fault and ledger rings, host access failures, IDE and
MSI-X events (R83 to R104, R119 to R122). -/
namespace Sys2Proof.Machine

/-! ## Doorbells (R95, R96, R455) -/

/-- R95: a dropped BAR2 write. -/
def dbDrop (s : State) (f : Nat) : State := modFn s f (fun p => { p with dbDrop := hitFlag p.dbDrop })

/-- R95: aligned 4-byte writes, or 8-byte writes at a multiple of 8 whose upper half is zero. -/
def dbSizeOk (off size : Nat) (v : DWord) : Bool := size = 4 || (size = 8 && off % 8 = 0 && dbits v 32 32 = 0)

/-- R99: the tags of the consumed entries return. -/
def returnTags (s : State) (c : Nat) (tags : List Nat) : State :=
  { s with tags := s.tags.filter (fun u => !(u.awaiting == some c && tags.contains u.tag)) }

/-- R95, R98: how many slots of a ring a new head consumes: those between the heads, or every slot of a full ring when the head
comes round to where it stood (DEDUCED 11: the host writes a head to show slots consumed). -/
def consumedBy (r : RingTail) (head size : Nat) : Nat :=
  let n := (head + size - r.head) % size
  min r.used (if n = 0 && r.used = size then size else n)

/-- R95, R98: the host's completion head moves. -/
def takeCqHead (s : State) (c head : Nat) : State :=
  let x := getCtx s c
  let n := consumedBy x.cq head (cqSize x)
  returnTags (setCtx s c { x with cq := { x.cq with head := head, used := x.cq.used - n }, inRing := x.inRing.drop n }) c (x.inRing.take n)

/-- R52, R95, R97: a new submission tail: the published slots are the device's, and the fetch timer runs. -/
def takeSqTail (s : State) (c tail : Nat) : State :=
  modCtx s c (fun x => { x with
    sqTail := tail, timer := x.timer || tail != x.sqHead,
    sqFree := let n := (tail + sqSize x - x.sqTail) % sqSize x
      if n ≤ x.sqFree then x.sqFree - n else sqSize x - (tail + sqSize x - x.sqHead) % sqSize x })

/-- R95, R96: a doorbell write at offset 0x00 of a line. -/
def doorbell0 (s : State) (f line size : Nat) (v : DWord) : State :=
  if !(getFn s f).present || s.dev.state == .boot || (getFn s f).d3hot then s
  else if s.dev.failstop || !dbSizeOk 0 size v then dbDrop s f
  else match ctxOf s f line with
    | none => dbDrop s f
    | some c =>
      let x := getCtx s c
      let tail := dbits v 0 12
      let head := dbits v 16 16
      let sqV := bitOf v.toNat 12
      let cqV := bitOf v.toNat 15
      if x.state == .closed then dbDrop s f
      else if (cqV && head ≥ cqSize x) || (sqV && x.state == .opened && tail ≥ sqSize x) then dbDrop s f
      else
        let s1 := if cqV then takeCqHead s c head else s
        if sqV && x.state == .opened then takeSqTail s1 c tail else s1

/-- R95: is the line that of the function's assigned control context? -/
def controlLine (s : State) (f line : Nat) : Bool := line == 0 && (ctxOf s f 0).isSome

/-- R98: a host head of a device-written ring of `size` slots. -/
def ringHead (r : RingTail) (head size : Nat) : RingTail :=
  { r with head := head, used := r.used - consumedBy r head size }

/-- R95: a new fault ring head. -/
def doorbellFault (s : State) (f line size : Nat) (v : DWord) : State :=
  let p := getFn s f
  let n := 2 ^ wbits p.frCfg 0 5
  if !p.present || s.dev.state == .boot || p.d3hot then s
  else if s.dev.failstop || !dbSizeOk 8 size v || !controlLine s f line || dbits v 0 16 ≥ n then dbDrop s f
  else setFn s f { p with fr := ringHead p.fr (dbits v 0 16) n }

/-- R95: a new ledger ring head. -/
def doorbellLedger (s : State) (f line size : Nat) (v : DWord) : State :=
  let p := getFn s f
  let n := 2 ^ wbits p.lrCfg 0 4
  if !p.present || s.dev.state == .boot || p.d3hot then s
  else if s.dev.failstop || !dbSizeOk 0xC size v || !controlLine s f line || dbits v 0 12 ≥ n then dbDrop s f
  else setFn s f { p with lr := ringHead p.lr (dbits v 0 12) n }

/-- R95: DOORBELL_FAULT_HEAD. -/
def execDoorbellFaultHead (fn line size : Nat) (value : DWord) (s : State) : Out1 := .next (doorbellFault s fn line size value)
/-- R95: DOORBELL_LEDGER_HEAD. -/
def execDoorbellLedgerHead (fn line size : Nat) (value : DWord) (s : State) : Out1 := .next (doorbellLedger s fn line size value)

/-- R95, R455: a BAR2 write, by its offset in its line; one at an offset that is none of the three is dropped. -/
def bar2Write (s : State) (f off size : Nat) (v : DWord) : State :=
  match off % 64 with
  | 0x00 => doorbell0 s f (off / 64) size v
  | 0x08 => doorbellFault s f (off / 64) size v
  | 0x0C => doorbellLedger s f (off / 64) size v
  | _ => if !(getFn s f).present || s.dev.state == .boot || (getFn s f).d3hot then s else dbDrop s f

/-- R95: DOORBELL_SQ_CQ: a BAR2 write, at offset 0x00 of a line or where no line has a field. -/
def execDoorbellSqCq (fn offset size : Nat) (value : DWord) (s : State) : Out1 := .next (bar2Write s fn offset size value)

/-! ## Descriptors (R97, R99, R103 to R105) -/

/-- R103: a fence waits for every earlier DESC and ADMIT entry. -/
def fenceOk (x : Ctx) (d : Desc) : Bool := !d.fence || (x.opens.isEmpty && !x.holds.any (fun e => e.kind == 0 || e.kind == 1))

/-- R97, R99: may the context fetch: is a descriptor published, and does nothing pause its fetching? -/
def mayFetch (s : State) (c : Nat) : Bool :=
  let x := getCtx s c
  alive s && x.state == .opened && x.sqHead != x.sqTail && !ringsPaused s && !(getFn s ((ctxFn s c).getD 0)).d3hot

/-- R97, R99: a descriptor is fetched: the head advances, its slot is the host's again, a tag is taken; `kept` when its fence keeps
it from starting. -/
def takeDesc (s : State) (c t : Nat) (kept : Option Nat) : State :=
  let x := getCtx s c
  let head := (x.sqHead + 1) % sqSize x
  { setCtx s c { x with sqHead := head, timer := x.timer && head != x.sqTail, sqFree := x.sqFree + 1, fetched := kept } with
    tags := s.tags ++ [{ tag := t, owner := .desc c, awaiting := none }] }

/-- R97, R99, R103: the next descriptor of a context starts, which has been fetched before or is fetched now. None when none is
published, none may be fetched, no tag is free, or a fence holds it. -/
def fetchDesc (s : State) (d : Desc) : Option (State × Nat) :=
  let x := getCtx s d.ctx
  match x.fetched with
  | some t =>
    if alive s && ctxLive x && !ringsPaused s && fenceOk x d && !(getFn s ((ctxFn s d.ctx).getD 0)).d3hot then
      some (setCtx s d.ctx { x with fetched := none }, t)
    else none
  | none => if mayFetch s d.ctx && fenceOk x d then (descTag s).map (fun t => (takeDesc s d.ctx t none, t)) else none

/-- R97, R103: a descriptor that its fence keeps from starting is fetched, and waits. -/
def holdDesc (s : State) (d : Desc) : State :=
  if (getCtx s d.ctx).fetched.isNone && mayFetch s d.ctx && !fenceOk (getCtx s d.ctx) d then
    (descTag s).elim s (fun t => takeDesc s d.ctx t (some t))
  else s

/-- R105: is the opcode listed? -/
def opcodeListed (o : Nat) : Bool :=
  [0x00, 0x01, 0x02, 0x03, 0x04, 0x05, 0x08, 0x09, 0x10, 0x11, 0x12, 0x18, 0x19, 0x1A, 0x30, 0x31, 0x32].contains o

/-- R105: may the opcode be issued in the recovery state? -/
def opcodeRecovery (o : Nat) : Bool := o == 0x00 || o == 0x18 || o == 0x19

/-- R105: the "Issued on" column. -/
def opcodePermitted (s : State) (o c : Nat) : Bool :=
  if o == 0x08 || o == 0x09 || o == 0x10 || o == 0x12 then isControl s c
  else if o == 0x18 || o == 0x19 then c == 0
  else true

/-- R6, R104, R105: the refusal of a descriptor before its own checks; `rsv` when a reserved body field is nonzero. -/
def descRefusal (s : State) (d : Desc) (o : Nat) (rsv : Bool) : Option Nat :=
  if !opcodeListed o then some 0x10
  else if s.dev.state == .recovery && !opcodeRecovery o then some 0x1B
  else if !opcodePermitted s o d.ctx then some 0x14
  else if d.rsvA != 0 || d.rsvB != 0 || rsv then some 0x11
  else if (o == 0x01 || o == 0x02) == (d.planId == 0) then some 0x13
  else none

/-- R100, R105: the entry that completes a descriptor at once: an ADMIT entry for PLAN, a DESC entry otherwise. -/
def finishDesc (s : State) (d : Desc) (o tag code aux : Nat) : State :=
  let e := descEntry s d o tag code aux
  postEntry s d.ctx (if o == 0x01 then { e with kind := 1 } else e)

/-- R87: the PASID that a context's host requests carry. -/
def ctxPasid (s : State) (c : Nat) : Option (BitVec 20) := if (getCtx s c).pasidEn then some (getCtx s c).pasid else none

/-- R87: the function caches translations for the context's requests. -/
def cacheXlat (s : State) (c : Nat) : State :=
  modFn s ((ctxFn s c).getD 0) (fun p => { p with atc := if p.atc.contains (ctxPasid s c) then p.atc else p.atc ++ [ctxPasid s c] })

/-- A descriptor that will complete later. -/
def openDesc (s : State) (d : Desc) (o tag : Nat) (w : WaitKind) : State :=
  modCtx (cacheXlat s d.ctx) d.ctx (fun x => { x with
    opens := x.opens ++ [{ tag := tag, userId := d.userId, noIrq := d.noIrq, opcode := o, planId := d.planId, wait := w }] })

/-- R97, R105: fetch a descriptor, refuse it or run its body; the contexts then settle. One that its fence holds is fetched and waits:
its command comes again once it may start. -/
def runDesc (s : State) (d : Desc) (o : Nat) (rsv : Bool) (body : State → Nat → State) : State :=
  match fetchDesc s d with
  | none => holdDesc s d
  | some (s1, t) =>
    match descRefusal s1 d o rsv with
    | some code => settle (finishDesc s1 d o t code 0)
    | none => settle (body s1 t)

/-- Are all six body words zero but those named? -/
def bodyZero (ws : List DWord) : Bool := ws.all (· == 0)

/-- R105: NOP. -/
def execNop (desc : Desc) (s : State) : Out1 :=
  .next (runDesc s desc 0x00 (!bodyZero [desc.w10, desc.w18, desc.w20, desc.w28, desc.w30, desc.w38])
    (fun s t => finishDesc s desc 0x00 t 0x00 0))

/-- R105: an unlisted opcode completes BAD_OPCODE. -/
def execBadOpcode (opcode : Byte) (desc : Desc) (s : State) : Out1 :=
  .next (if opcodeListed opcode.toNat then s else runDesc s desc opcode.toNat false (fun s t => finishDesc s desc opcode.toNat t 0x10 0))

/-- R97: the fetch timer expires while a published descriptor has not arrived. -/
def fetchTimeout (s : State) (c : Nat) : State :=
  let x := getCtx s c
  if alive s && x.state == .opened && x.timer && x.sqHead != x.sqTail && (descTag s).isSome then ctxError s c else s

/-- R97: DESCRIPTOR_FETCH_TIMEOUT. -/
def execDescriptorFetchTimeout (ctx : Nat) (s : State) : Out1 := .next (fetchTimeout s ctx)

/-! ## Entries that wait (R98, R99) -/

/-- R99: the plan whose tag an entry takes. -/
def entryPlan (c : Nat) (e : CEntry) : PlanKey := { ctx := c, id := e.planId.toNat }

/-- R98, R99: the tag with which an entry can be written now. -/
def entryTag (s : State) (c : Nat) (e : CEntry) : Option Nat := if e.tag = noTag then planTag s (entryPlan c e) e.limit else some e.tag

/-- R99: an entry that takes a plan tag holds it from its writing on. -/
def writeWithTag (s : State) (c : Nat) (e : CEntry) (t : Nat) : State :=
  if e.tag = noTag then
    let k := entryPlan c e
    let owner := if (getPlan s k).isSome then TagOwner.plan k else .charged k
    writeEntry { s with tags := s.tags ++ [{ tag := t, owner := owner, awaiting := none }] } c { e with tag := t }
  else writeEntry s c e

/-- Is an earlier entry of the same plan held? Entries of a plan are written in order (R107). -/
def planHeld (l : List CEntry) (e : CEntry) : Bool := l.any (fun h => h.planId == e.planId && e.kind != 0 && h.kind != 0)

/-- R66, R99: an OUTPUT or END entry is queued: written at once when a slot and a plan tag are free, or held. -/
def postPlanEntry (s : State) (c : Nat) (e : CEntry) : State :=
  let x := getCtx s c
  if !ctxLive x || s.dev.failstop then s
  else if cqFree s c && x.holds.all (fun h => h.tag == noTag) && !planHeld x.holds e && !ringsPaused s then
    match planTag s (entryPlan c e) e.limit with
    | some t => writeWithTag s c e t
    | none => setCtx s c { x with holds := x.holds ++ [{ e with hold := true }] }
  else setCtx s c { x with holds := x.holds ++ [{ e with hold := true }] }

/-- R98, R99: the oldest entry that can be written, and those before and after it. -/
def pickHeld (s : State) (c : Nat) : List CEntry → List CEntry → Option (CEntry × Nat × List CEntry)
  | _, [] => none
  | seen, e :: rest =>
    match entryTag s c e with
    | some t => if planHeld seen e then pickHeld s c (seen ++ [e]) rest else some (e, t, seen ++ rest)
    | none => pickHeld s c (seen ++ [e]) rest

/-- R98, R99: COMPLETION_WRITE: a waiting entry is written once a slot and a tag are free. -/
def completionWrite (s : State) (c : Nat) : State :=
  if !alive s || ringsPaused s || !cqFree s c then s
  else match pickHeld s c [] (getCtx s c).holds with
    | none => s
    | some (e, t, rest) =>
      let s1 := writeWithTag (modCtx s c (fun x => { x with holds := rest })) c e t
      settle (if e.kind = 3 then codecPlanGone s1 { ctx := c, id := e.planId.toNat } else s1)

/-- R98: COMPLETION_WRITE. -/
def execCompletionWrite (ctx : Nat) (s : State) : Out1 := .next (completionWrite s ctx)

/-! ## Fault and ledger rings (R119, R120, R393) -/

/-- R119: the 64 bytes of a fault record. -/
def recordBytes (r : FaultRec) (phase : Bool) : List Byte :=
  leBytes (r.code.toNat + r.sev.toNat * 2 ^ 16) 4
  ++ leBytes ((r.ctx.elim (2 ^ 14) id) + r.planId.toNat * 2 ^ 16) 4
  ++ leBytes r.tick.toNat 8 ++ leBytes r.sysTick.toNat 8
  ++ leBytes (r.step.toNat + r.action.toNat * 2 ^ 24) 4 ++ leBytes (r.room.toNat + r.slot.toNat * 2 ^ 13) 4
  ++ leBytes r.d0.toNat 8 ++ leBytes r.d1.toNat 8 ++ leBytes r.seq.toNat 8
  ++ leBytes r.rep.toNat 4 ++ leBytes (b2n phase * 2 ^ 31) 4

/-- R119: does the record still wait for the ring of a function? -/
def needsRing (f : Nat) (r : FaultRec) : Bool := if f = 0 then r.needPf else r.needVf == some f

/-- R393: the record has reached a ring. -/
def reached (f : Nat) (r : FaultRec) : FaultRec := if f = 0 then { r with needPf := false } else { r with needVf := none }

/-- R393: FAULT_RECORD_WRITE: the oldest record that waits for a function's ring is written to it. -/
def faultWrite (s : State) (f : Nat) : State :=
  let p := getFn s f
  let n := 2 ^ wbits p.frCfg 0 5
  if s.dev.state == .boot || !s.pwr.supply || s.pwr.perst || !wbit p.frCfg 31 || p.fr.used ≥ n then s
  else match s.flog.waiting.find? (needsRing f) with
    | none => s
    | some r =>
      let s1 := { s with
        host := hostWrite s.host (p.frBase.toNat + 64 * p.fr.tail) (recordBytes r p.fr.phase),
        flog := { s.flog with waiting := (updFirst (needsRing f) (reached f) s.flog.waiting).filter (fun r => r.needPf || r.needVf.isSome) } }
      vecEvent (setFn s1 f { p with fr := ringNext p.fr n }) f (wbits p.frCfg 5 5)

/-- R393: FAULT_RECORD_WRITE. -/
def execFaultRecordWrite (fn : Nat) (s : State) : Out1 := .next (faultWrite s fn)

/-- R120: one 4 KiB slot of a record. -/
def ledgerSlot (r : LedgerRec) (i n : Nat) (phase : Bool) : List Byte :=
  let frag := slice r.bytes (4080 * i) 4080
  padTo frag 4080 ++ leBytes (r.ctx + i * 2 ^ 16 + n * 2 ^ 24) 4 ++ leBytes frag.length 4
  ++ leBytes (r.seq.toNat + b2n phase * 2 ^ 63) 8

/-- R120: the slots of a record, written one after the other with wrap. -/
def writeSlots (h : List Host.Cell) (base : Nat) (r : LedgerRec) (n size : Nat) (q : RingTail) : Nat → List Host.Cell × RingTail
  | 0 => (h, q)
  | k + 1 =>
    writeSlots (hostWrite h (base + 4096 * q.tail) (ledgerSlot r (n - (k + 1)) n q.phase)) base r n size (ringNext q size) k

/-- R26: does the completion entry of an output of the record's plan, or its END entry, still wait for the completion ring? -/
def entryWaits (s : State) (r : LedgerRec) : Bool := (getCtx s r.ctx).holds.any (fun e => (e.kind == 2 || e.kind == 3) && e.planId.toNat == r.plan)

/-- R26, R120: the next record of a function once all its slots are free, and after the completion entry of the last output. -/
def ledgerWrite (s : State) (f : Nat) : State :=
  let p := getFn s f
  let size := 2 ^ wbits p.lrCfg 0 4
  if !alive s || !wbit p.lrCfg 31 then s
  else match p.ledger with
    | [] => s
    | r :: rest =>
      let n := cdiv r.bytes.length 4080
      if p.lr.used + n > size || entryWaits s r then s
      else
        let (h, q) := writeSlots s.host p.lrBase.toNat r n size p.lr n
        vecEvent (setFn { s with host := h } f { p with lr := q, ledger := rest }) f (wbits p.lrCfg 4 5)

/-- R26, R120: LEDGER_RECORD_WRITE. -/
def execLedgerRecordWrite (fn : Nat) (s : State) : Out1 := .next (ledgerWrite s fn)

/-! ## Host access failures, ATS, IDE, SPDM (R83, R86 to R88) -/

/-- R88, R118: the completion and fault code of a failure. -/
def hostErrCode : HostErr → Nat
  | .translation => 0x42
  | .poison => 0x41
  | _ => 0x40

/-- R88: does the descriptor read or write host data while it is open? A descriptor whose host data comes or goes at its start
(PAGE WRITE, STREAM_OPEN, ATTEST) completes or waits with that done, and a failure of it is announced before (`Ctx.dataFail`). -/
def hasHostData (o : OpenDesc) : Bool :=
  match o.wait with
  | .move => true
  | .image => o.opcode == 0x10
  | .update => true
  | .job _ => true
  | _ => false

/-- A data access of an open descriptor failed: its work ends and it completes with the code. -/
def failOpen (s : State) (c : Nat) (o : OpenDesc) (code : Nat) : State :=
  let s1 := modCtx s c (fun x => { x with
    moves := x.moves.filter (fun m => m.tag != o.tag),
    streams := x.streams.map (fun t => { t with jobs := t.jobs.filter (fun j => j.tag != o.tag) }) })
  let s2 := { s1 with attic := { s1.attic with
    imageOps := s1.attic.imageOps.filter (fun i => !(i.desc.ctx == c && i.tag == o.tag)),
    updates := s1.attic.updates.filter (fun u => !(u.ctx == c && u.tag == o.tag)) } }
  closeOpen s2 c o code 0

/-- R88: a function whose access failed is reported through AER. -/
def aerHost (s : State) (f : Nat) : State := modFn s f (fun p => { p with aerHost := p.aerHost + 1 })

/-- R88: the announced failure of the host data of a descriptor that reads or writes it at its start: it completes with the code. -/
def failNow (s : State) (d : Desc) (o t : Nat) (e : HostErr) (addr : DWord) : State :=
  let s1 := modCtx s d.ctx (fun x => { x with dataFail := none })
  let s2 := logFault s1 { code := hostErrCode e, ctx := some d.ctx, plan := d.planId.toNat, d0 := addr.toNat, d1 := d.userId.toNat }
  finishDesc (aerHost s2 ((ctxFn s d.ctx).getD 0)) d o t (hostErrCode e) 0

/-- R88: a descriptor that reads or writes host data at its start. -/
def withHostData (s : State) (d : Desc) (o t : Nat) (body : State) : State :=
  match (getCtx s d.ctx).dataFail with
  | none => body
  | some (e, addr) => failNow s d o t e addr

/-- R88: the effect of a failed access. The write of an entry that fails is the context's next one, which is held with those after
it (DESIGN CHOICE 129). -/
def accessFail (s : State) (a : HostAccess) (e : HostErr) (addr : DWord) : State :=
  let code := hostErrCode e
  if !alive s then s
  else match a with
    | .sqRead c =>
      if (getCtx s c).state == .opened then
        aerHost (logFault (ctxError s c) { code := code, ctx := some c, d0 := addr.toNat }) ((ctxFn s c).getD 0)
      else s
    | .entryWrite c =>
      if ctxLive (getCtx s c) then
        aerHost (logFault (modCtx (ctxError s c) c (fun x => { x with cqBad := true })) { code := code, ctx := some c, d0 := addr.toNat }) ((ctxFn s c).getD 0)
      else s
    | .data c k =>
      match ((getCtx s c).opens.filter hasHostData)[k]? with
      | none => if ctxLive (getCtx s c) then modCtx s c (fun x => { x with dataFail := some (e, addr) }) else s
      | some o =>
        let s1 := logFault s { code := code, ctx := some c, plan := o.planId.toNat, d0 := addr.toNat, d1 := o.userId.toNat }
        settle (aerHost (failOpen s1 c o code) ((ctxFn s c).getD 0))
    | .faultRing f =>
      let p := getFn s f
      if wbit p.frCfg 31 then
        aerHost (logFault (setFn s f { p with frCfg := BitVec.ofNat 32 (wbits p.frCfg 0 31), frOff := hitFlag p.frOff })
          { code := code, d0 := addr.toNat }) f
      else s
    | .ledgerRing f =>
      let p := getFn s f
      if wbit p.lrCfg 31 then
        aerHost (logFault (setFn s f { p with lrCfg := BitVec.ofNat 32 (wbits p.lrCfg 0 31), lrOff := hitFlag p.lrOff })
          { code := code, d0 := addr.toNat }) f
      else s

/-- R87: the requests (context, tag) of the function that use a translation with this PASID. -/
def usesXlat (s : State) (f : Nat) (pasid : Option (BitVec 20)) : List (Nat × Nat) :=
  ((s.ctxs.filter (fun p => p.2.func.toNat == f && (if p.2.pasidEn then some p.2.pasid else none) == pasid)).map (fun p =>
    (p.2.opens.filter hasHostData).map (fun o => (p.1, o.tag)))).flatten

/-- R87: an invalidation: the cached translations go, and it completes once no request that used them is left. -/
def atsInvalidate (s : State) (f : Nat) (pasid : Option (BitVec 20)) : State :=
  if !(getFn s f).present then s
  else
    let u := usesXlat s f pasid
    modFn s f (fun p =>
      let q := { p with atc := p.atc.filter (· != pasid) }
      if u.isEmpty then { q with atsDone := q.atsDone + 1 } else { q with atsWait := q.atsWait ++ [u] })

/-- R87: ATS_INVALIDATION. -/
def execAtsInvalidation (fn : Nat) (pasid : Option (BitVec 20)) (s : State) : Out1 := .next (atsInvalidate s fn pasid)

/-- R86: a TLP outside the stream is dropped and reported. -/
def ideOutside (s : State) (f : Nat) : State :=
  if (getFn s f).ide > 0 then modFn s f (fun p => { p with aerIde := p.aerIde + 1 }) else s

/-- R86: IDE_TLP_OUTSIDE_STREAM. -/
def execIdeTlpOutsideStream (fn : Nat) (s : State) : Out1 := .next (ideOutside s fn)

/-- R86: losing a stream puts every open context of the function into ERROR. -/
def ideLoss (s : State) (f : Nat) : State :=
  if (getFn s f).ide > 0 then (ctxsOf s f).foldl ctxError (modFn s f (fun p => { p with ide := p.ide - 1 })) else s

/-- R86: IDE_STREAM_LOSS. -/
def execIdeStreamLoss (fn : Nat) (s : State) : Out1 := .next (ideLoss s fn)

/-- R83: selective IDE streams set up, of at most 4. -/
def ideStreams (s : State) : Nat := sumBy s.fns (fun p => p.2.ide)

/-- R83, R379: an SPDM request on the PF's DOE mailbox. -/
def spdm (s : State) (r : SpdmReq) : State :=
  if !alive s then s
  else match r with
    | .getCertificate slot => { s with dev := { s.dev with spdm := if slot = 0 then Config.certChain else [] } }
    | .setIdeKeys f _ =>
      if ideStreams s < 4 && (getFn s f).present then modFn s f (fun p => { p with ide := p.ide + 1 }) else s
    | .other q => { s with dev := { s.dev with spdm := Config.spdmReply q } }

/-- R379: DOE_SPDM_REQUEST. -/
def execDoeSpdmRequest (request : SpdmReq) (s : State) : Out1 := .next (spdm s request)

/-! ## MSI-X timers (R122) -/

/-- R122: the delay of a vector in COUNT_DELAY expires. -/
def delayExpiry (s : State) (f v : Nat) : State :=
  let x := getVec (getFn s f) v
  if wbits x.modr 0 2 = 1 && x.delayOn then sendVec s f v else s

/-- R122: MSIX_DELAY_EXPIRY. -/
def execMsixDelayExpiry (fn vector : Nat) (s : State) : Out1 := .next (delayExpiry s fn vector)

/-- R122: the message of a PER_TICK vector covers the events queued before B. -/
def tickVec (s : State) (f v : Nat) : State :=
  let x := getVec (getFn s f) v
  if wbits x.modr 0 2 = 2 && x.before > 0 then
    modFn (sendVec s f v) f (fun p => { p with vecs := aSet p.vecs v { (getVec p v) with count := x.count - x.before } })
  else s

/-- R122: B + 2 µs. -/
def perTick (s : State) : State :=
  (s.fns.map (·.1)).foldl (fun s f => ((getFn s f).vecs.map (·.1)).foldl (fun s v => tickVec s f v) s) s

/-- R122: MSIX_PER_TICK. -/
def execMsixPerTick (s : State) : Out1 := .next (perTick s)

/-- R122: at B, the events of PER_TICK vectors counted so far are those queued before B. -/
def markVecs (s : State) : State :=
  { s with fns := s.fns.map (fun p => (p.1, { p.2 with vecs := p.2.vecs.map (fun q => (q.1, { q.2 with before := q.2.count })) })) }

end Sys2Proof.Machine
end

