-- ==== Sys2Proof/Machine/Memory.lean ====
section
/-! DEFINITION. The context address table, translation, placements and pins (R284 to R291, R376), and reads and writes of
context virtual memory. -/
namespace Sys2Proof.Machine

/-! ## Segments (R285) -/

def segForm (g : Seg) : Nat := dbits g.lo 0 3
def segPlace (g : Seg) : Nat := dbits g.lo 3 2
def segFloor (g : Seg) : Nat := dbits g.lo 5 3
def segCellar (g : Seg) : Nat := dbits g.lo 8 4
def segReadOnly (g : Seg) : Bool := bitOf g.lo.toNat 13
def segBase (g : Seg) : Nat := dbits g.lo 32 27
def segLength (g : Seg) : Nat := dbits g.hi 0 20
def segReserve (g : Seg) : Nat := dbits g.hi 20 12
def segMask (g : Seg) : Nat := dbits g.hi 32 16

/-- R287: the allowed set, ascending. -/
def allowedSet (g : Seg) : List Nat :=
  match segPlace g with
  | 0 => List.range 16
  | 1 => [2 * segFloor g, 2 * segFloor g + 1]
  | 2 => [segCellar g]
  | _ => (List.range 16).filter (fun c => bitOf (segMask g) c)

/-- R287: the home cellar of an extent. -/
def extentCellar (e : Nat) : Nat := e / 32640

/-- R376: the placements that admitted plans of a context bind, each once: first extent of virtual space, the image, its extents, and the
length of its payload. -/
def placements (s : State) (c : Nat) : List (Nat × Nat × List Nat × Nat) :=
  (((admittedPlans s).filter (fun p => p.key.ctx == c)).map (fun p =>
    (p.body.elim [] (·.weights)).map (fun w =>
      match s.attic.loaded.find? (fun l => l.ctx == c && l.imageId == w.imageId) with
      | none => (w.vaBase, w.imageId, [], 0)
      | some l => (w.vaBase, w.imageId, l.extents,
          (s.attic.images.find? (fun i => i.fn == l.fn && i.imageId == l.imageId)).elim 0 (·.payloadLen))))).flatten.eraseDups

/-- The device address of a granule of a slice, in the pantry window. -/
def granulePa (slice g : Nat) : Nat := 0x010000000000 + slice * 2 ^ 27 + g * 4096

/-- What a context address leads to (R284, R289, R290, R376). -/
inductive Xlat
  | unmapped
  | mapped (pa : Nat) (readOnly : Bool) (placement : Bool)
deriving DecidableEq, Repr

/-- Address within an extent list. -/
def extentAddr (es : List Nat) (off : Nat) : Option Nat := (es[off / 2 ^ 21]?).map (fun e => extentPa e + off % 2 ^ 21)

/-- R284, R290: translation through one segment. -/
def segXlat (s : State) (c : Nat) (g : Seg) (va : Nat) : Xlat :=
  let base := segBase g * 2 ^ 21
  match segForm g with
  | 1 =>
    if base ≤ va && va < base + segLength g * 2 ^ 21 then
      match extentAddr g.extents (va - base) with
      | some pa => .mapped pa (segReadOnly g) false
      | none => .unmapped
    else .unmapped
  | 3 =>
    if base ≤ va && va < base + 2 ^ 21 then
      match s.pins.find? (fun p => p.ctx == c && p.id == segMask g) with
      | some p => (p.grans[(va - base) / 4096]?).elim .unmapped (fun g => .mapped (granulePa p.slice g + (va - base) % 4096) false false)
      | none => .unmapped
    else .unmapped
  | _ => .unmapped

/-- R376: translation through a placement: the bytes of the payload. -/
def placeXlat (pl : Nat × Nat × List Nat × Nat) (va : Nat) : Xlat :=
  let base := pl.1 * 2 ^ 21
  if base ≤ va && va < base + pl.2.2.2 then
    match extentAddr pl.2.2.1 (va - base) with
    | some pa => .mapped pa true true
    | none => .unmapped
  else .unmapped

/-- The first translation that is not unmapped. -/
def firstXlat : List Xlat → Xlat
  | [] => .unmapped
  | .unmapped :: r => firstXlat r
  | x :: _ => x

/-- R284: translation of a context virtual address. -/
def translate (s : State) (c va : Nat) : Xlat :=
  if va ≥ 2 ^ 48 then .unmapped
  else firstXlat (((getCtx s c).addr.cur.map (fun p => segXlat s c p.2 va)) ++ ((placements s c).map (fun pl => placeXlat pl va)))

/-- Is a byte mapped, and writable where asked? -/
def byteOk (s : State) (c va : Nat) (write : Bool) : Bool :=
  match translate s c va with
  | .unmapped => false
  | .mapped _ ro _ => !(write && ro)

/-- R284, R289: may `n` bytes at a context address be accessed? Of every 4 KiB granule a segment or a placement maps a first part,
so each granule's start and the last byte accessed in it decide. -/
def rangeOk (s : State) (c va n : Nat) (write : Bool) : Bool :=
  n == 0 || (List.range ((va + n - 1) / 4096 - va / 4096 + 1)).all (fun i =>
    let g := (va / 4096 + i) * 4096
    byteOk s c g write && byteOk s c (min (va + n - 1) (g + 4095)) write)

/-- R376: does the range meet a placement of an image that the plan does not name? -/
def strangePlacement (s : State) (k : PlanKey) (va n : Nat) : Bool :=
  (placements s k.ctx).any (fun pl => decide (va < pl.1 * 2 ^ 21 + pl.2.2.2) && decide (pl.1 * 2 ^ 21 < va + n)
    && !(getPlan s k).any (fun p => p.body.any (fun b => b.weights.any (fun w => w.imageId == pl.2.1))))

/-- R284, R289, R376: may the plan's rooms, wing DMA engines and walkers access the range? Placements translate for the plans that
name their image. -/
def planRangeOk (s : State) (k : PlanKey) (va n : Nat) (write : Bool) : Bool := rangeOk s k.ctx va n write && !strangePlacement s k va n

/-- The device-physical address of a mapped byte. -/
def paOf (s : State) (c va : Nat) : Option Nat :=
  match translate s c va with
  | .unmapped => none
  | .mapped pa _ _ => some pa

/-- Bytes at a context address; unmapped ones are not read and count as zero. -/
def readVa (s : State) (c va : Nat) : Nat → List Byte
  | 0 => []
  | n + 1 => (match paOf s c va with
      | some pa => memByte s.mem pa
      | none => 0) :: readVa s c (va + 1) n

/-- Writes bytes at a context address; unmapped bytes are not written. The address map is that of `s`. -/
def writeVaMem (s : State) (c va : Nat) (m : List Host.Cell) : List Byte → List Host.Cell
  | [] => m
  | b :: bs => writeVaMem s c (va + 1) (match paOf s c va with
      | some pa => memPut m pa b
      | none => m) bs

def writeVa (s : State) (c va : Nat) (bs : List Byte) : State := { s with mem := writeVaMem s c va s.mem bs }

/-- R5: does a 64-bit field hold a context virtual address? -/
def vaField (w : DWord) : Bool := w.toNat < 2 ^ 48

/-! ## Staging and PUBLISH of the address table (R112, R285 to R287, R291) -/

/-- R285: a field that the entry's form or place does not use is nonzero. -/
def segReserved (lo hi : DWord) : Bool :=
  let form := dbits lo 0 3
  let place := dbits lo 3 2
  let alloc := form == 1
  let pool := form == 2
  let pin := form == 3
  dbits lo 14 18 != 0 || dbits lo 59 5 != 0 || dbits hi 48 16 != 0
  || (!(alloc || pool) && place != 0)
  || (!((alloc || pool) && place == 1) && dbits lo 5 3 != 0)
  || (!((alloc || pool) && place == 2) && dbits lo 8 4 != 0)
  || (!alloc && dbits lo 12 2 != 0)
  || (!(alloc || pin) && dbits lo 32 27 != 0)
  || (!(alloc || pool || pin) && dbits hi 0 20 != 0)
  || (!pool && dbits hi 20 12 != 0)
  || (!(((alloc || pool) && place == 3) || pin) && dbits hi 32 16 != 0)

/-- The entries of a WRITE's array, as (index, two words). -/
def entryWords (bs : List Byte) (first : Nat) : Nat → List (Nat × DWord × DWord)
  | 0 => []
  | n + 1 => (first, BitVec.ofNat 64 (getLE bs 0 8), BitVec.ofNat 64 (getLE bs 8 8)) :: entryWords (bs.drop 16) (first + 1) n

/-- Later entries for an index replace earlier ones. -/
def stage (old new : List (Nat × DWord × DWord)) : List (Nat × DWord × DWord) := new.foldl (fun l e => aSet l e.1 e.2) old

/-- R285: ranges that a PUBLISH checks. -/
def segRangeBad (g : Seg) : Bool :=
  match segForm g with
  | 1 => segLength g < 1 || segLength g > 522240 || segBase g + segLength g > 2 ^ 27 || (allowedSet g).isEmpty
  | 2 => segLength g < 1 || segLength g > 522240 || (allowedSet g).isEmpty
  | 3 => segLength g != 1 || segBase g + 1 > 2 ^ 27
  | _ => false

/-- R287: extents for a segment: extent e in member e mod n, the lowest free one of that cellar. -/
def allocSpread (used cs : List Nat) (e : Nat) : Nat → Option (List Nat)
  | 0 => some []
  | k + 1 =>
    match cs[e % cs.length]? with
    | none => none
    | some c =>
      match freeExtent used c 0 32640 with
      | none => none
      | some x => (allocSpread (x :: used) cs (e + 1) k).map (x :: ·)

/-- R291: does an extent hold a frame? -/
def extentHasFrame (s : State) (e : Nat) : Bool :=
  s.frames.any (fun f => decide (extentPa e ≤ f.base) && decide (f.base < extentPa e + 2 ^ 21))

/-- R291: extents sorted by cellar, in the pool's order within one. -/
def byCellar (es : List Nat) : List Nat := ((List.range 16).map (fun c => es.filter (fun e => extentCellar e == c))).flatten

/-- R291, steps 1 and 2: the extents of a pool that a replacement keeps. -/
def poolKept (s : State) (old : List Nat) (g : Seg) : List Nat :=
  let k1 := old.filter (extentHasFrame s)
  let k2 := (byCellar (old.filter (fun e => !extentHasFrame s e && (allowedSet g).contains (extentCellar e)))).take (segLength g - k1.length)
  k1 ++ k2

/-- The pool's extents in a cellar. -/
def poolIn (pool : List Nat) (c : Nat) : Nat := (pool.filter (fun e => extentCellar e == c)).length

/-- R291, step 4: the allowed members in turn: by the extents that they hold of the pool, the lowest cellar first on ties (the rule
names the first; DESIGN CHOICE 136). -/
def growOrder (pool cs : List Nat) : List Nat := sortBy (fun a b => decide (poolIn pool a < poolIn pool b)) cs

/-- R291, step 4: the shortfall of `n` extents, one to each member in turn. -/
def poolGrow (used pool cs : List Nat) (n : Nat) : Option (List Nat) := allocSpread used (growOrder pool cs) 0 n

/-- R286: two ALLOC entries that differ only in `no_cache` or `read_only`. -/
def sameAlloc (a b : Seg) : Bool :=
  segForm a == 1 && segForm b == 1 && segPlace a == segPlace b && segFloor a == segFloor b && segCellar a == segCellar b
  && segBase a == segBase b && segLength a == segLength b && segMask a == segMask b

/-- R286: one staged entry takes effect on the table being formed: the used extents and the table after it. -/
def applySeg (s : State) (acc : Option (List Nat × List (Nat × Seg))) (e : Nat × DWord × DWord) : Option (List Nat × List (Nat × Seg)) :=
  match acc with
  | none => none
  | some (used, tab) =>
    let g : Seg := { lo := e.2.1, hi := e.2.2, extents := [] }
    let old := aGet tab e.1
    if segRangeBad g then none
    else match segForm g with
      | 0 =>
        match old with
        | none => some (used, tab)
        | some o => if segForm o == 2 && o.extents.any (extentHasFrame s) then none else some (used, aDel tab e.1)
      | 1 =>
        match old.filter (fun o => sameAlloc o g) with
        | some o => some (used, aSet tab e.1 { g with extents := o.extents })
        | none =>
          if old.any (fun o => segForm o == 2 && o.extents.any (extentHasFrame s)) then none
          else (allocSpread used (allowedSet g) 0 (segLength g)).map (fun es => (es ++ used, aSet tab e.1 { g with extents := es }))
      | 2 =>
        match old.filter (fun o => segForm o == 2) with
        | some o =>
          let kept := poolKept s o.extents g
          if (o.extents.filter (extentHasFrame s)).length > segLength g then none
          else (poolGrow used kept (allowedSet g) (segLength g - kept.length)).map (fun es =>
            (es ++ used, aSet tab e.1 { g with extents := kept ++ es }))
        | none =>
          (allocSpread used (allowedSet g) 0 (segLength g)).map (fun es => (es ++ used, aSet tab e.1 { g with extents := es }))
      | 3 =>
        if old.any (fun o => segForm o == 2 && o.extents.any (extentHasFrame s)) then none else some (used, aSet tab e.1 g)
      | 4 => some (used, tab)
      | _ => none

/-- The virtual extents of a segment: first and length. -/
def segSpan (g : Seg) : Option (Nat × Nat) :=
  match segForm g with
  | 1 => some (segBase g, segLength g)
  | 3 => some (segBase g, 1)
  | _ => none

/-- Do two spans overlap? -/
def spansMeet (a b : Nat × Nat) : Bool := a.1 < b.1 + b.2 && b.1 < a.1 + a.2

/-- Do any two spans of a list overlap? -/
def anyMeet : List (Nat × Nat) → Bool
  | [] => false
  | a :: r => r.any (spansMeet a) || anyMeet r

/-- R286: the table that a PUBLISH would make current, or none when it completes BAD_FIELD. -/
def formTable (s : State) (c : Nat) : Option (List (Nat × Seg)) :=
  let x := getCtx s c
  let used := usedExtents s
  match (x.addr.staging.getD []).foldl (applySeg s) (some (used, x.addr.cur)) with
  | none => none
  | some (used1, tab) =>
    let spans := (tab.map (fun p => (segSpan p.2).toList)).flatten ++ (placements s c).map (fun pl => (pl.1, pl.2.2.1.length))
    if anyMeet spans then none
    else if (tab.filter (fun p => segForm p.2 == 2)).length > 1 then none
    else if (heldExtents s c).length + (used1.length - used.length) > x.quota.toNat then none
    else some tab

/-- R112: WRITE on the address table. -/
def addrWrite (s : State) (c first count : Nat) (entries : List Byte) : State × Nat :=
  let es := entryWords entries first count
  if count < 1 || count > 65536 || first + count > 4096 then (s, 0x13)
  else if es.any (fun e => segReserved e.2.1 e.2.2) then (s, 0x11)
  else if es.any (fun e => dbits e.2.1 0 3 > 4) then (s, 0x13)
  else (modCtx s c (fun x => { x with addr := { x.addr with staging := some (stage (x.addr.staging.getD []) es) } }), 0x00)

/-- R286: the pool of a table that takes effect, settled with the frames of that moment (R291). Extents reserved when the PUBLISH was
accepted come first; a shortfall of this moment is allocated where its cellars still have free extents. -/
def settlePool (s : State) (old : List (Nat × Seg)) (p : Nat × Seg) : Nat × Seg :=
  if segForm p.2 == 2 then
    match (aGet old p.1).filter (fun o => segForm o == 2) with
    | none => p
    | some o =>
      let kept := poolKept s o.extents p.2
      let new := (p.2.extents.filter (fun e => !o.extents.contains e)).take (segLength p.2 - kept.length)
      let pool := kept ++ new
      (p.1, { p.2 with extents := pool ++ (poolGrow (usedExtents s) pool (allowedSet p.2) (segLength p.2 - pool.length)).getD [] })
  else p

/-- R286: the accepted table becomes current at the release point; what it drops awaits the latch. -/
def addrRelease (s : State) (c : Nat) : State :=
  let x := getCtx s c
  match x.addr.next with
  | none => s
  | some t =>
    let tab := t.map (settlePool s x.addr.cur)
    let held := ((tab.map (fun p => p.2.extents)).flatten)
    let before := (x.addr.cur.map (fun p => p.2.extents)).flatten ++ (t.map (fun p => p.2.extents)).flatten
    let dropped := (before.filter (fun e => !held.contains e)).eraseDups
    let s1 := setCtx s c { x with addr := { cur := tab, gen := x.addr.gen + 1, staging := none, next := none, freeing := x.addr.freeing ++ dropped } }
    ((getCtx s1 c).opens.filter (fun o => o.wait == .publish 0)).foldl (fun s o => closeOpen s c o 0x00 0) s1

/-- R286, R288: at the latch, freed extents are scrubbed and return to the free pool. -/
def latchExtents (s : State) : State :=
  let gone := s.limbo.map (·.2) ++ (s.ctxs.map (fun p => p.2.addr.freeing)).flatten
  { s with mem := scrub s.mem gone, limbo := [],
           ctxs := s.ctxs.map (fun p => (p.1, { p.2 with addr := { p.2.addr with freeing := [] } })) }

/-! ## Pins (R290) -/

/-- The granules of a slice that bindings hold. -/
def usedGranules (s : State) (slice : Nat) : List Nat := ((s.pins.filter (fun p => p.slice == slice)).map (·.grans)).flatten

/-- The lowest granules of a slice, from `g` on, that no binding holds: `n` of them, or fewer when the slice ends. -/
def takeGranules (used : List Nat) (g n : Nat) : Nat → List Nat
  | 0 => []
  | k + 1 => if n = 0 then [] else if used.contains g then takeGranules used (g + 1) n k else g :: takeGranules used (g + 1) (n - 1) k

/-- R290: bind the pins of a plan that no binding holds yet; their bytes are zero. A pin's granules may lie anywhere in its slice. -/
def bindPins (s : State) (c : Nat) (pins : List PinRec) : State :=
  pins.foldl (fun s p =>
    if s.pins.any (fun b => b.ctx == c && b.id == p.id) then s
    else { s with pins := s.pins ++ [{ ctx := c, id := p.id, slice := p.slice, granules := p.granules,
                                       grans := takeGranules (usedGranules s p.slice) 0 p.granules 32768 }] }) s

/-- R290: bindings that no plan names end, and their contents are lost. -/
def endPins (s : State) : State :=
  let named := fun (b : PinBind) => (admittedPlans s).any (fun p => p.key.ctx == b.ctx && p.body.any (fun y => y.pins.any (fun q => q.id == b.id)))
  let gone := s.pins.filter (fun b => !named b)
  { s with pins := s.pins.filter named,
           mem := s.mem.filter (fun m => !gone.any (fun b => b.grans.any (fun g => decide (granulePa b.slice g ≤ m.1) && decide (m.1 < granulePa b.slice g + 4096)))) }

end Sys2Proof.Machine
end

