-- ==== Sys2Proof/Machine/Kv.lean ====
section
/-! DEFINITION. Key-value page tables, frames and generations (R233 to R241, R252 to R261, R291, R292), and the room programs
in flight that they ask about. -/
namespace Sys2Proof.Machine

/-! ## Threads -/

def getTh (s : State) (t : Tid) : Option Thread := s.threads.find? (fun x => x.tid == t)
/-- The room programs of a plan. -/
def planTh (s : State) (key : PlanKey) : List Thread := s.threads.filter (fun x => x.tid.key == key)
def modTh (s : State) (t : Tid) (g : Thread → Thread) : State :=
  { s with threads := updFirst (fun x => x.tid == t) g s.threads }

/-- R383: an item of a plan's Mehrong record. -/
def addItem (s : State) (k : PlanKey) (ty : Nat) (body : List Byte) : State :=
  modPlan s k (fun p => { p with items := p.items ++ [{ type := ty, body := body }] })

/-- R384: the body of a CHOICE item of kind 1 to 3. -/
def choiceBody (kind step w8 wC w10 : Nat) : List Byte :=
  leBytes kind 4 ++ leBytes step 4 ++ leBytes w8 4 ++ leBytes wC 4 ++ leBytes w10 8

/-! ## Tables -/

def getKv (s : State) (c h : Nat) : Option KvTable := s.tables.find? (fun t => t.ctx == c && t.handle == h)
def modKv (s : State) (c h : Nat) (g : KvTable → KvTable) : State :=
  { s with tables := updFirst (fun t => t.ctx == c && t.handle == h) g s.tables }

/-- R236: an entry of a generation. -/
def kvEntry (g : List (Nat × KvEntry)) (i : Nat) : KvEntry := (aGet g i).getD .empty

/-- An entry is stored; EMPTY is not listed. -/
def kvPut (g : List (Nat × KvEntry)) (i : Nat) (e : KvEntry) : List (Nat × KvEntry) :=
  if e = .empty then aDel g i else aSet g i e

/-- R238, R239: the newest generation: the current one with the pending device edits. -/
def kvNewest (t : KvTable) : List (Nat × KvEntry) := t.edits.foldl (fun g e => kvPut g e.index e.entry) t.cur

/-- The frame that an entry names. -/
def frameOf : KvEntry → Option Nat
  | .page f _ _ => some f
  | _ => none

/-- R238: the walks active on a table's generation. -/
def walkedGens (s : State) (c h : Nat) : List Word :=
  (s.threads.map (fun x => if x.tid.key.ctx = c then (x.walks.filter (fun w => w.handle == h)).map (·.gen) else [])).flatten

/-- The entries of a generation that a walk latched. -/
def genEntries (t : KvTable) (g : Word) : List (Nat × KvEntry) :=
  if g = t.gen then t.cur else (pGet t.live g).getD []

/-- R238: live generations without a walk retire. -/
def retireGens (s : State) : State :=
  { s with tables := s.tables.map (fun t => { t with live := t.live.filter (fun g => (walkedGens s t.ctx t.handle).contains g.1) }) }

/-! ## Frames (R233, R239, R240, R291) -/

def getFrame (s : State) (b : Nat) : Option Frame := s.frames.find? (fun f => f.base == b)
def modFrame (s : State) (b : Nat) (g : Frame → Frame) : State := { s with frames := updFirst (fun f => f.base == b) g s.frames }

/-- R239: one more entry names the frame; a frame that is named is not reclaimed. -/
def incFrame (s : State) (b : Nat) : State := modFrame s b (fun f => { f with count := f.count + 1, stamp := none, reclaim := false })

/-- R239, R240: one entry fewer names the frame; at zero it takes the stamp. -/
def decFrame (s : State) (b : Nat) : State :=
  modFrame s b (fun f =>
    { f with count := f.count - 1,
             stamp := if f.count ≤ 1 then some (getCtx s f.ctx).walks else f.stamp })

/-- R239: a pending decrement applies, whether it waits at the home slice or is still on its way. -/
def applyDec (s : State) (b : Nat) : State :=
  let s1 := match getFrame s b with
    | some f => if f.pend > 0 then modFrame s b (fun f => { f with pend := f.pend - 1 }) else { s with decs := dropFirst (· == b) s.decs }
    | none => { s with decs := dropFirst (· == b) s.decs }
  decFrame s1 b

/-- R239: a decrement sets out for its home slice. -/
def sendDec (s : State) (b : Nat) : State := { s with decs := s.decs ++ [b] }

/-- R239: FRAME_DECREMENT_ARRIVE. -/
def decArrive (s : State) (b : Nat) : State :=
  if s.decs.contains b then modFrame { s with decs := dropFirst (· == b) s.decs } b (fun f => { f with pend := f.pend + 1 }) else s

/-- R239: a decrement reaches its home slice and is pending there. -/
def execFrameDecrementArrive (frame : Nat) (s : State) : Out1 := .next (decArrive s frame)

/-- R233: a frame is touched. -/
def touchFrame (s : State) (b : Nat) : State := modFrame s b (fun f => { f with touch := s.tick.num.toNat })

/-- R240: walks of a context that are active. -/
def ctxWalks (s : State) (c : Nat) : List Walk :=
  (s.threads.map (fun x => if x.tid.key.ctx = c then x.walks else [])).flatten

/-- R48, R240: may the frame enter the reclaim set at the latch? -/
def reclaimable (s : State) (f : Frame) : Bool :=
  f.count == 0 && f.pend == 0 && !s.decs.contains f.base
  && (ctxWalks s f.ctx).all (fun w => f.stamp.elim true (fun n => decide (n < w.number)))

/-- R48: every slice fixes its reclaim set. -/
def fixReclaim (s : State) : State := { s with frames := s.frames.map (fun f => { f with reclaim := f.reclaim || reclaimable s f }) }

/-- R45, R48: B + 100 ns. -/
def execReclaimSetFix (s : State) : Out1 := .next (if ticking s.tick && !s.dev.failstop && !s.tick.released then fixReclaim s else s)

/-- R45: the reclaimed frames have returned to their pools. -/
def returnFrames (s : State) : State := { s with frames := s.frames.filter (fun f => !f.reclaim) }

/-- R291: the pool of a context, its extents in the order it allocated them. -/
def poolExtents (s : State) (c : Nat) : List Nat :=
  ((((getCtx s c).addr.cur.map (·.2)).filter (fun g => segForm g == 2)).map (·.extents)).flatten

/-- R292: the pool's `reserve`. -/
def poolReserve (s : State) (c : Nat) : Nat :=
  sumBy (((getCtx s c).addr.cur.map (·.2)).filter (fun g => segForm g == 2)) segReserve

/-- Frames in an extent. -/
def extentFrames (s : State) (e : Nat) : List Frame :=
  s.frames.filter (fun f => decide (extentPa e ≤ f.base) && decide (f.base < extentPa e + 2 ^ 21))

/-- The lowest free frame of an extent, from frame number `i` on. -/
def freeFrame (s : State) (e log2 i : Nat) : Nat → Option Nat
  | 0 => none
  | k + 1 =>
    let b := extentPa e + i * 2 ^ log2
    if s.frames.any (fun f => f.base == b) then freeFrame s e log2 (i + 1) k else some b

/-- The lower of two extents by address. -/
def lowerExtent (a b : Nat) : Bool := extentPa a < extentPa b

/-- R291: is extent `a` the better choice for a frame: more frames in use, then lower? -/
def betterExtent (s : State) (a b : Nat) : Bool :=
  let na := (extentFrames s a).length
  let nb := (extentFrames s b).length
  na > nb || (na == nb && lowerExtent a b)

/-- The best of a list. -/
def bestBy {A : Type} (better : A → A → Bool) : List A → Option A
  | [] => none
  | x :: r => some (r.foldl (fun a b => if better b a then b else a) x)

/-- R291: the address of the frame that an allocation takes. -/
def pickFrame (s : State) (c log2 : Nat) : Option Nat :=
  let n := 2 ^ (21 - log2)
  let es := poolExtents s c
  let part := es.filter (fun e =>
    let fs := extentFrames s e
    !fs.isEmpty && fs.all (fun f => f.log2 == log2) && fs.length < n)
  match bestBy (betterExtent s) part with
  | some e => freeFrame s e log2 0 n
  | none => (bestBy lowerExtent (es.filter (fun e => (extentFrames s e).isEmpty))).map extentPa

/-- R233: the device's records are not all in use. -/
def recordFree (s : State) : Bool := s.frames.length < 12582912

/-- R233, R252: allocate a frame with count 1, its bytes zero. -/
def allocFrame (s : State) (c log2 : Nat) : Option (State × Nat) :=
  if !recordFree s then none
  else match pickFrame s c log2 with
    | none => none
    | some b =>
      some ({ s with
        frames := s.frames ++ [{ base := b, ctx := c, log2 := log2, count := 1, touch := s.tick.num.toNat }],
        mem := s.mem.filter (fun m => !(decide (b ≤ m.1) && decide (m.1 < b + 2 ^ log2))) }, b)

/-! ## PAGE WRITE and CREATE and DESTROY for key-value tables (R111, R112, R236, R237) -/

/-- R237: `form` of an entry. -/
def kvForm (lo : DWord) : Nat := dbits lo 0 2

/-- R237: a reserved or unused field is nonzero. -/
def kvReserved (lo hi : DWord) : Bool :=
  let form := kvForm lo
  dbits lo 3 13 != 0 || dbits hi 16 48 != 0
  || ((form == 0 || form == 3) && bitOf lo.toNat 2)
  || (form != 1 && (dbits lo 16 48 != 0 || dbits hi 0 16 != 0))

/-- R237: a LINK whose source is not an entry of a table of the context. -/
def kvLinkBad (s : State) (c : Nat) (lo : DWord) : Bool :=
  kvForm lo == 1 && (match getKv s c (dbits lo 16 16) with
    | none => true
    | some t => decide (dbits lo 32 32 ≥ t.size))

/-- R112, R237: WRITE on a key-value table: the state and the completion code. -/
def kvWrite (s : State) (c h first count : Nat) (entries : List Byte) : State × Nat :=
  match getKv s c h with
  | none => (s, 0x13)
  | some t =>
    let es := entryWords entries first count
    if count < 1 || count > 65536 || first + count > t.size then (s, 0x13)
    else if es.any (fun e => kvReserved e.2.1 e.2.2) then (s, 0x11)
    else if es.any (fun e => kvLinkBad s c e.2.1) then (s, 0x13)
    else (modKv s c h (fun t => { t with staging := some (stage (t.staging.getD []) es) }), 0x00)

/-- R111, R112, R236: the handle of a new table: the first candidate that is nonzero and unused; after the last candidate, any unused
one (the lowest). None is left only when all 65,535 are in use. -/
def freeHandle (s : State) (n : Nat) : Nat → Option Nat
  | 0 => (List.range 65536).find? (fun h => h ≠ 0 && !s.tables.any (fun t => t.handle == h))
  | k + 1 =>
    let h := (Config.handleNumber n).toNat
    if h ≠ 0 && !s.tables.any (fun t => t.handle == h) then some h else freeHandle s (n + 1) k

/-- Does an admitted plan of the context name the table (R112)? -/
def kvNamed (s : State) (c h : Nat) : Bool :=
  (admittedPlans s).any (fun p => p.key.ctx == c && p.body.any (fun b => b.walkTables.any (fun w => w.handle == h)))

/-- The frames that a table's newest generation and its overlays name, once for each entry. -/
def kvFrames (t : KvTable) : List Nat :=
  ((kvNewest t).filterMap (fun p => frameOf p.2)) ++
  (t.session.elim [] (fun q => (q.overlays.flatten).filterMap (fun p => frameOf p.2)))

/-- R112: a table and its entries are gone. -/
def kvDestroy (s : State) (c h : Nat) : State :=
  match getKv s c h with
  | none => s
  | some t =>
    let s1 := { s with tables := s.tables.filter (fun u => !(u.ctx == c && u.handle == h)) }
    (kvFrames t).foldl decFrame s1

/-! ## New generations (R237 to R239, R241) -/

/-- R237: the entry that a staged word gives, over the newest entry `e`; LINK sources are read in `s0`. -/
def stagedEntry (s0 : State) (c : Nat) (lo hi : DWord) (e : KvEntry) : KvEntry :=
  match kvForm lo with
  | 0 => .empty
  | 1 =>
    match (getKv s0 c (dbits lo 16 16)).map (fun t => kvEntry t.cur (dbits lo 32 32)) with
    | some (.page f fill _) => .page f (if dbits hi 0 16 = 0 then fill else min fill (dbits hi 0 16)) (bitOf lo.toNat 2)
    | _ => .empty
  | 2 =>
    match e with
    | .page f fill _ => .page f fill (bitOf lo.toNat 2)
    | _ => e
  | _ => e

/-- R239: one pending device edit becomes current: the frame it replaces loses its reference. -/
def settleEdit (acc : State × List (Nat × KvEntry)) (e : KvEdit) : State × List (Nat × KvEntry) :=
  let (s, g) := acc
  let s1 := match kvEntry g e.index, e.entry with
    | .page f _ _, .page f' _ _ => if f = f' then s else applyDec s f
    | _, _ => s
  (s1, kvPut g e.index e.entry)

/-- R237, R239: one staged entry becomes current: EMPTY and LINK take the entry from the frame it named. The increment of a LINK
is registered before (`registerPublishes`). -/
def settleStaged (s0 : State) (c : Nat) (acc : State × List (Nat × KvEntry)) (w : Nat × DWord × DWord) : State × List (Nat × KvEntry) :=
  let (s, g) := acc
  let old := kvEntry g w.1
  let s1 := if kvForm w.2.1 ≥ 2 then s else (frameOf old).elim s (decFrame s)
  (s1, kvPut g w.1 (stagedEntry s0 c w.2.1 w.2.2 old))

/-- R238: do walks hold the current generation, so that it stays live when the next one replaces it? -/
def curWalked (s : State) (t : KvTable) : Bool := (walkedGens s t.ctx t.handle).contains t.gen

/-- R238: does the table gain a generation at this release point? It then has the new one and each older one that a walk holds, at
most 16 in all. -/
def genDue (s : State) (t : KvTable) : Bool := (t.pub || !t.edits.isEmpty) && t.live.length + b2n (curWalked s t) < 16

/-- R237: the frames that the LINKs of a PUBLISH name, once for each entry. -/
def linkFrames (s : State) (t : KvTable) : List Nat :=
  if t.pub && genDue s t then
    (t.staging.getD []).filterMap (fun w => if kvForm w.2.1 = 1 then frameOf (stagedEntry s t.ctx w.2.1 w.2.2 .empty) else none)
  else []

/-- R239: every PUBLISH that takes effect at this release point registers its increments; the guard interval ends here, before the
reclaimed frames return to their pools. -/
def registerPublishes (s : State) : State := s.tables.foldl (fun x t => (linkFrames s t).foldl incFrame x) s

/-- R238: the older generations that stay live when the current one is replaced. -/
def nextLive (s : State) (t : KvTable) : List (Word × List (Nat × KvEntry)) :=
  if curWalked s t then t.live ++ [(t.gen, t.cur)] else t.live

/-- R241: DROPPED entries of a generation. -/
def droppedCount (g : List (Nat × KvEntry)) : Nat :=
  (g.filter (fun p => match p.2 with
    | .dropped _ _ => true
    | _ => false)).length

/-- R241: the 64 bytes of a status line. -/
def statusLine (s : State) (t : KvTable) : List Byte :=
  leBytes t.gen.toNat 4 ++ leBytes (t.live.length + 1) 4 ++ leBytes (droppedCount t.cur) 8 ++ leBytes s.tick.num.toNat 8 ++ zeros 40

/-- R241: the status lines that admitted plans declare for a table. -/
def writeStatus (s : State) (t : KvTable) : State :=
  (admittedPlans s).foldl (fun s p =>
    if p.key.ctx = t.ctx then
      (p.body.elim [] (·.walkTables)).foldl (fun s w =>
        if w.handle = t.handle && w.statusAddr ≠ 0 then writeVa s t.ctx w.statusAddr (statusLine s t) else s) s
    else s) s

/-- R112: PUBLISH descriptors of a table complete at the release point. -/
def finishPublish (s : State) (c h : Nat) : State :=
  ((getCtx s c).opens.filter (fun o => o.wait == .publish h)).foldl (fun s o => closeOpen s c o 0x00 0) s

/-- R238: a table's new generation becomes current; LINK sources as in `s0`. -/
def kvRelease (s0 s : State) (c h : Nat) : State :=
  match getKv s c h with
  | none => s
  | some t =>
    if !genDue s t then s
    else
      let (s1, g1) := t.edits.foldl settleEdit (s, t.cur)
      let (s2, g2) := (if t.pub then t.staging.getD [] else []).foldl (settleStaged s0 c) (s1, g1)
      let t' := { t with
        gen := t.gen + 1, cur := g2, live := nextLive s t, edits := [],
        staging := if t.pub then none else t.staging, pub := false }
      let s3 := writeStatus (modKv s2 c h (fun _ => t')) t'
      if t.pub then finishPublish s3 c h else s3

/-- R238: every table at the release point. -/
def kvReleaseAll (s : State) : State := s.tables.foldl (fun x t => kvRelease s x t.ctx t.handle) s

/-! ## Stores (R252, R253, R260, R261) -/

/-- R253: the frame that a pending device edit of the coming generation placed in the entry, if any. -/
def freshFrame (t : KvTable) (i : Nat) : Bool :=
  match frameOf (kvEntry (kvNewest t) i) with
  | none => false
  | some f => frameOf (kvEntry t.cur i) != some f && t.edits.any (fun e => e.index == i && frameOf e.entry == some f)

/-- R260: a candidate's path, deepest first. -/
def candPath (q : KvSession) (k : Nat) : Nat → List Nat
  | 0 => []
  | n + 1 => k :: ((q.parents[k]?).bind id).elim [] (fun j => candPath q j n)

/-- R260: the entry that a path's overlays give an index. -/
def overlayEntry (q : KvSession) (path : List Nat) (i : Nat) : Option (Nat × KvEntry) :=
  match path with
  | [] => none
  | k :: r =>
    match (q.overlays[k]?).bind (fun o => aGet o i) with
    | some e => some (k, e)
    | none => overlayEntry q r i

/-- R252: tokens after a STORE. -/
def storeFill (old p k last : Nat) : Nat := max old (32 * (p + k - 1) + last)

/-- The fill of an entry. -/
def fillOf : KvEntry → Nat
  | .empty => 0
  | .page _ f _ => f
  | .dropped f _ => f

/-- A store as its operands give it (R245, R252). -/
structure StoreReq where
  ctx    : Nat
  handle : Nat
  index  : Nat
  block  : Nat
  count  : Nat
  last   : Nat
  cand   : Nat
  bb     : Nat
  data   : List Byte
deriving DecidableEq, Repr

/-- The data lands in a frame. -/
def storeData (s : State) (b : Nat) (r : StoreReq) : State :=
  touchFrame { s with mem := memWrite s.mem (b + r.block * r.bb) r.data } b

/-- R252: a device edit. -/
def addEdit (s : State) (r : StoreReq) (e : KvEntry) : State :=
  modKv s r.ctx r.handle (fun t => { t with edits := t.edits ++ [{ index := r.index, entry := e }] })

/-- A page is copied into a new frame. -/
def copyPage (s : State) (src dst log2 : Nat) : State := { s with mem := memWrite s.mem dst (memRead s.mem src (2 ^ log2)) }

/-- R252: a new page's `droppable`, which the manual does not state, is a free value. -/
def freshDroppable (s : State) : Bool × State :=
  let (b, s1) := freshBits s 1
  (b == 1, s1)

/-- R252, R253: a STORE into the committed table; none while its allocation waits. -/
def storeCommitted (s : State) (t : KvTable) (r : StoreReq) : Option State :=
  let e := kvEntry (kvNewest t) r.index
  let fill := storeFill (fillOf e) r.block r.count r.last
  match e with
  | .page f old dr =>
    let count := (getFrame s f).elim 0 (·.count)
    if freshFrame t r.index || (count = 1 && r.block ≥ cdiv old 32) then
      some (storeData (addEdit s r (.page f fill dr)) f r)
    else
      (allocFrame s r.ctx t.pageLog2).map (fun a =>
        storeData (addEdit (sendDec (copyPage a.1 f a.2 t.pageLog2) f) r (.page a.2 fill dr)) a.2 r)
  | _ =>
    (allocFrame s r.ctx t.pageLog2).map (fun a =>
      let (dr, s1) := freshDroppable a.1
      storeData (addEdit s1 r (.page a.2 fill dr)) a.2 r)

/-- R260: an overlay entry of a candidate. -/
def setOverlay (s : State) (r : StoreReq) (k : Nat) (e : KvEntry) : State :=
  modKv s r.ctx r.handle (fun t =>
    { t with session := t.session.map (fun q => { q with overlays := upd q.overlays k (fun o => aSet o r.index e) }) })

/-- R260: a STORE into candidate `k`'s overlay. -/
def storeOverlay (s : State) (t : KvTable) (q : KvSession) (r : StoreReq) (k : Nat) : Option State :=
  match (q.overlays[k]?).bind (fun o => aGet o r.index) with
  | some (.page f old dr) => some (storeData (setOverlay s r k (.page f (storeFill old r.block r.count r.last) dr)) f r)
  | _ =>
    let e := ((overlayEntry q (candPath q k 9) r.index).map (·.2)).getD (kvEntry (kvNewest t) r.index)
    let fill := storeFill (fillOf e) r.block r.count r.last
    (allocFrame s r.ctx t.pageLog2).map (fun a =>
      match e with
      | .page f _ dr => storeData (setOverlay (copyPage a.1 f a.2 t.pageLog2) r k (.page a.2 fill dr)) a.2 r
      | _ =>
        let (dr, s1) := freshDroppable a.1
        storeData (setOverlay s1 r k (.page a.2 fill dr)) a.2 r)

/-- R252, R260: a STORE; none while its allocation waits. A count of 0 writes nothing. -/
def kvStore (s : State) (r : StoreReq) : Option State :=
  if r.count = 0 then some s
  else match getKv s r.ctx r.handle with
    | none => some s
    | some t =>
      if r.cand = 0 then storeCommitted s t r
      else match t.session with
        | none => some s
        | some q => storeOverlay s t q r (r.cand - 1)

/-- R261: the entries that a commit keeps: for each index of the path's overlays the deepest. -/
def keptOverlay (q : KvSession) (path : List Nat) : List (Nat × KvEntry) :=
  path.foldl (fun acc k => ((q.overlays[k]?).getD []).foldl (fun acc p => if (aGet acc p.1).isSome then acc else aSet acc p.1 p.2) acc) []

/-- R261: one kept entry becomes a device edit; the frame it replaces takes a pending decrement. -/
def commitEntry (s : State) (c h : Nat) (p : Nat × KvEntry) : State :=
  match getKv s c h with
  | none => s
  | some t =>
    let s1 := (frameOf (kvEntry (kvNewest t) p.1)).elim s (sendDec s)
    modKv s1 c h (fun t => { t with edits := t.edits ++ [{ index := p.1, entry := p.2 }] })

/-- R261, R383: COMMIT closes the session with a leaf (0: none) and lists it in the record of its plan at a step. -/
def kvCommit (s : State) (c h leaf step : Nat) : State :=
  match (getKv s c h).bind (·.session) with
  | none => s
  | some q =>
    let kept := if leaf = 0 then [] else keptOverlay q (candPath q (leaf - 1) 9)
    let frames := kept.filterMap (fun p => frameOf p.2)
    let lost := ((q.overlays.flatten).filterMap (fun p => frameOf p.2)).filter (fun f => !frames.contains f)
    let s1 := modKv s c h (fun t => { t with session := none })
    let s2 := kept.foldl (fun s p => commitEntry s c h p) s1
    addItem (lost.foldl decFrame s2) q.key 9 (leBytes step 4 ++ leBytes h 4 ++ padTo q.tree 16 ++ leBytes leaf 8)

/-- R259: sessions that a room's step opened close with no leaf. -/
def closeSessions (s : State) (key : PlanKey) (room : Option Nat) (step : Nat) : State :=
  s.tables.foldl (fun x t =>
    if t.session.any (fun q => q.key == key && (room.isNone || room == some q.room)) then kvCommit x t.ctx t.handle 0 step else x) s

/-! ## Drops under pressure (R256, R292) -/

/-- An entry that may be dropped, with its place in the order. -/
structure DropCand where
  touch  : Nat
  handle : Nat
  index  : Nat
  frame  : Nat
  fill   : Nat
deriving DecidableEq, Repr

/-- R389: does a plan with a replay list name the table? -/
def replayNamed (s : State) (c h : Nat) : Bool :=
  (admittedPlans s).any (fun p => p.key.ctx == c && p.body.any (fun b => b.replayCount != 0 && b.walkTables.any (fun w => w.handle == h)))

/-- R256: may the entry be dropped at the latch that ends tick `n`? -/
def dropCand (s : State) (n : Nat) (t : KvTable) (p : Nat × KvEntry) : Option DropCand :=
  match p.2 with
  | .page f fill true =>
    match getFrame s f with
    | none => none
    | some fr =>
      if fr.count = 1 && fr.pend = 0 && !s.decs.contains f && fr.touch ≠ n
          && !(t.session.any (fun q => q.overlays.any (fun o => (aGet o p.1).isSome))) then
        some { touch := fr.touch, handle := t.handle, index := p.1, frame := f, fill := fill }
      else none
  | _ => none

/-- The order of R292. -/
def dropBefore (a b : DropCand) : Bool :=
  a.touch < b.touch || (a.touch == b.touch && (a.handle < b.handle || (a.handle == b.handle && a.index < b.index)))

/-- The candidates of a context. -/
def dropCands (s : State) (c n : Nat) : List DropCand :=
  if !(ctxWalks s c).isEmpty then []
  else ((s.tables.filter (fun t => t.ctx == c && !replayNamed s c t.handle)).map (fun t =>
    (kvNewest t).filterMap (dropCand s n t))).flatten

/-- R256: one entry is dropped; its frame falls to count 0. -/
def dropOne (s : State) (c : Nat) (d : DropCand) : State :=
  let e : KvEdit := { index := d.index, entry := .dropped d.fill s.tick.num.toNat }
  decFrame (modKv s c d.handle (fun t => { t with edits := t.edits ++ [e] })) d.frame

/-- R292: waiting stores of a context, oldest first, each with its thread. -/
def waitingStores (s : State) (c : Nat) : List (Tid × StoreWait) :=
  let l := (s.threads.map (fun x => if x.tid.key.ctx = c then x.stores.map (fun w => (x.tid, w)) else [])).flatten
  sortBy (fun a b => decide (a.2.ord < b.2.ord)) l

/-- The page size of the table that a waiting STORE names. -/
def waitLog2 (s : State) (w : Tid × StoreWait) : Nat :=
  let rec0 := ((getPlan s w.1.key).bind (·.body)).bind (fun b => b.walkTables[fieldAt w.2.desc 0 11 6]?)
  (rec0.bind (fun r => getKv s w.1.key.ctx r.handle)).elim 16 (·.pageLog2)

/-- The pool as it will be once the dropped frames have returned. -/
def afterReturn (s : State) : State := { s with frames := s.frames.filter (fun f => !(f.count == 0 && f.pend == 0 && reclaimable s f)) }

/-- Can every waiting allocation be served? -/
def allServed (s : State) (c : Nat) : List Nat → Bool
  | [] => true
  | l :: r =>
    match allocFrame s c l with
    | none => false
    | some (s1, _) => allServed s1 c r

/-- R292: free extents of the pool. -/
def freeExtents (s : State) (c : Nat) : Nat := ((poolExtents s c).filter (fun e => (extentFrames s e).isEmpty)).length

/-- R292: are the aims of the drops met? -/
def relieved (s : State) (c : Nat) : Bool :=
  let s1 := afterReturn s
  allServed s1 c ((waitingStores s c).map (waitLog2 s)) && decide (poolReserve s c ≤ freeExtents s1 c)

/-- R292: drops until relieved, or no candidate or budget is left. -/
def dropLoop (s : State) (c : Nat) : List DropCand → State
  | [] => s
  | d :: r => if relieved s c then s else dropLoop (dropOne s c d) c r

/-- R292: a context's pool under pressure at the latch that ends tick `n`. -/
def poolPressure (s : State) (n c : Nat) : State :=
  if !(waitingStores s c).isEmpty || freeExtents s c < poolReserve s c then
    dropLoop s c ((sortBy dropBefore (dropCands s c n)).take 65536)
  else s

/-- R292: every pool at the latch. -/
def dropPages (s : State) (n : Nat) : State := (s.ctxs.map (·.1)).foldl (fun s c => poolPressure s n c) s

end Sys2Proof.Machine
end

