-- ==== Sys2Proof/Machine/Operands.lean ====
section
/-! DEFINITION. A room program's operands and windows (R129 to R138, R140), its refusals (R156), and how an instruction issues
(R125 to R127). -/
namespace Sys2Proof.Machine

/-! ## Registers (R137) -/

/-- R137: a scalar register; s0 reads as zero. -/
def sReg (x : Thread) (n : Nat) : DWord := if n = 0 then 0 else x.regs[n]?.getD 0
/-- R137: a write of a scalar register; s0 discards it. -/
def setS (x : Thread) (n : Nat) (v : DWord) : Thread := if n = 0 then x else { x with regs := x.regs.setIfInBounds n v }
/-- R137: a vector register's 64 lanes. -/
def vReg (x : Thread) (n : Nat) : List Word := x.vregs[n]?.getD []
/-- R137: a write of a vector register. -/
def setV (x : Thread) (n : Nat) (v : List Word) : Thread := { x with vregs := x.vregs.setIfInBounds n v }
/-- R137, R138: a mask, named by the low 3 bits; m0 is all ones. -/
def mReg (x : Thread) (n : Nat) : DWord := if n % 8 = 0 then 0xFFFFFFFFFFFFFFFF else x.masks[n % 8]?.getD 0
/-- R137: a write of a mask; m0 discards it. -/
def setM (x : Thread) (n : Nat) (v : DWord) : Thread := if n % 8 = 0 then x else { x with masks := x.masks.setIfInBounds (n % 8) v }

/-- R140: the immediate, sign-extended. -/
def immInt (i : RoomIns) : Int := i.imm.toInt
/-- R140: the immediate, sign-extended to 64 bits. -/
def immX (i : RoomIns) : DWord := i.imm.signExtend 64
/-- R140: x of SADD: sb when c is 0, the immediate otherwise. -/
def opX (x : Thread) (i : RoomIns) : DWord := if i.c = 0 then sReg x i.b.toNat else immX i
/-- R140: a scratchpad address: register a plus the immediate. -/
def spadOff (x : Thread) (i : RoomIns) : Nat := (sReg x i.a.toNat + immX i).toNat
/-- A field of the immediate. -/
def immF (i : RoomIns) (lo len : Nat) : Nat := wbits i.imm lo len

/-- R138: is the instruction's predicate condition met? -/
def predMet (x : Thread) (i : RoomIns) : Bool := predBit x.preds i.pred.toNat != i.pneg

/-! ## The context of an issue -/

/-- A room program about to issue: the block, the thread, its plan, room record, image and running step. -/
structure RC where
  s  : State
  th : Thread
  p  : Plan
  b  : PlanBody
  r  : RoomRec
  im : ImageRec
  k  : Nat
deriving Repr

/-- R130: the room record of a plan. -/
def roomRec (b : PlanBody) (room : Nat) : Option RoomRec := b.rooms.find? (fun r => r.room == room)

/-- R399, R400: does a recovery hold the room's sequencer? -/
def roomHeld (s : State) (x : Thread) : Bool :=
  match s.recov with
  | none => false
  | some r => !x.restore && r.halted.contains x.tid.room

/-- R45, R71, R80: do tick steps run: the release point of the tick has passed, and no slide leaves the tick empty? -/
def stepsRun (s : State) : Bool := s.tick.released && decide (s.resumeAt ≤ s.tick.num.toNat)

/-- R80, R403: has the plan unfinished released work of the step on the room, which the release point did not pass over? -/
def holdsRoom (s : State) (room : Nat) (p : Plan) : Bool :=
  p.run.any (fun r => r.released && !r.finished && r.rooms.contains room)
  && (getTh s { key := p.key, room := room }).any (fun x => x.stat != .barrier)

/-- R51, R156: does that work still run there? A refused room executes nothing further. -/
def keepsRoom (s : State) (room : Nat) (p : Plan) : Bool :=
  holdsRoom s room p && (getTh s { key := p.key, room := room }).any (fun x => x.stat != .refused)

/-- R80: does the plan run late? -/
def runsLate (p : Plan) : Bool := p.run.any (·.late)

/-- R51, R80: is it the plan's turn on the room? Plans run there in the order of their admission; late work waits until every
step released there has finished or missed. -/
def roomTurn (s : State) (t : Tid) : Bool :=
  let before := s.plans.takeWhile (fun p => p.key != t.key)
  let after := (s.plans.dropWhile (fun p => p.key != t.key)).drop 1
  if (getPlan s t.key).any runsLate then
    !before.any (fun p => runsLate p && keepsRoom s t.room p) && !(before ++ after).any (fun p => holdsRoom s t.room p && !runsLate p)
  else !before.any (fun p => keepsRoom s t.room p && !runsLate p)

/-- R51, R135, R156, R399: may the thread issue an instruction? -/
def issues (s : State) (x : Thread) : Bool :=
  alive s && x.stat == .running && !roomHeld s x && (x.restore || (stepsRun s && roomTurn s x.tid))

/-- R141, R403: the step for which a room program runs; a restore program runs for the one that runs again, or that was captured. -/
def runStep (p : Plan) (x : Thread) : Nat := p.run.elim (p.rerun.getD (x.kept.elim 0 (·.step))) (·.k)

/-- The context in which a room program issues; none when it does not run. -/
def enter (s : State) (t : Tid) : Option RC :=
  match getTh s t, getPlan s t.key with
  | some x, some p =>
    match p.body with
    | none => none
    | some b =>
      match roomRec b t.room with
      | none => none
      | some r =>
        match b.images[r.image]? with
        | none => none
        | some im => if issues s x then some { s := s, th := x, p := p, b := b, r := r, im := im, k := runStep p x } else none
  | _, _ => none

def RC.t (c : RC) : Tid := c.th.tid
/-- The context of the plan. -/
def RC.ctx (c : RC) : Nat := c.th.tid.key.ctx
/-- R189: the operands of a step: the limit of a constant, the latched values of the others in order. -/
def shapeList : List ShapeOp → List DWord → List (Option DWord)
  | [], _ => []
  | o :: r, vs => if o.src = 0 then some (BitVec.ofNat 64 o.limit) :: shapeList r vs else vs.head? :: shapeList r (vs.drop 1)

/-- R189: the values latched for a step before. -/
def latchedFor (p : Plan) (k : Nat) : Option (List DWord) := (p.latched.find? (fun q => q.1 == k)).map (·.2)

/-- R189: the shape operands that a room program sees: those of the step that runs, and for a restore program those of the step
that it serves. -/
def RC.shapes (c : RC) : List DWord :=
  c.p.run.elim ((shapeList c.b.shape ((latchedFor c.p c.k).getD [])).map (·.getD 0)) (·.shapes)

/-- R176: number mode REFERENCE. -/
def RC.exact (c : RC) : Bool := c.b.reference

/-- The thread replaced. -/
def putTh (s : State) (x : Thread) : State := modTh s x.tid (fun _ => x)

/-! ## Program counter (R137, R140) -/

/-- R140: after the last instruction of a REPEAT body falls through, the innermost level counts down. -/
def repAdvance (last nxt : Nat) : List Rep → Nat × List Rep
  | [] => (nxt, [])
  | r :: rest =>
    if last + 1 = r.start + r.len && nxt = last + 1 then
      (if r.left > 1 then (r.start, { r with left := r.left - 1 } :: rest) else repAdvance last nxt rest)
    else (nxt, r :: rest)

/-- The thread goes on at `nxt`, `last` being the instruction that has executed. -/
def advance (x : Thread) (last nxt : Nat) : Thread :=
  let (pc, reps) := repAdvance last nxt x.reps
  { x with pc := pc, reps := reps }

/-- The thread goes on at the next instruction. -/
def advance1 (x : Thread) : Thread := advance x x.pc (x.pc + 1)

/-! ## Refusal (R156) -/

/-- R77: the code as the `cause` of a miss. -/
def faultCause (code : Nat) : Byte :=
  if code = 0x0039 || code = 0x003A || code = 0x003B then BitVec.ofNat 8 code else 0x3D

/-- R384: a FAULT item. -/
def faultItem (r : FaultRec) (spare : Nat) : Item :=
  { type := 6,
    body := leBytes r.seq.toNat 8 ++ leBytes (r.code.toNat + r.action.toNat * 2 ^ 16) 4
      ++ leBytes (r.room.toNat + r.slot.toNat * 2 ^ 13 + spare * 2 ^ 20) 4 ++ leBytes r.tick.toNat 8 }

/-- R383, R393: the device logs an event of a plan, which its Mehrong record lists. -/
def raisePlan (s : State) (k : PlanKey) (f : FaultIn) (spare : Nat) : State :=
  let s1 := raise s { f with ctx := some k.ctx, plan := k.id }
  if s1.flog.nextSeq != s.flog.nextSeq then
    match s1.flog.newest with
    | [] => s1
    | r :: _ => modPlan s1 k (fun p => { p with items := p.items ++ [faultItem r spare] })
  else s1

/-- R77: the step's first refusal gives its miss the cause. -/
def setCause (s : State) (k : PlanKey) (c : Byte) : State :=
  modPlan s k (fun p => { p with run := p.run.map (fun r => if r.cause = 0 then { r with cause := c } else r) })

/-- R156: the refused room leaves the plan's step unfinished, also where it had ended its own work (R198). -/
def reopen (room : Nat) (p : Plan) : Plan :=
  { p with run := p.run.map (fun r =>
      if r.released && !r.finished && !r.rooms.contains room then { r with rooms := r.rooms ++ [room] } else r) }

/-- R156: a room program that was refused; one that has ended, or that runs in no open step, stays as it is. -/
def refuseThread (open_ : Bool) (x : Thread) : Thread :=
  if x.stat == .ended || (x.stat == .barrier && !open_) then x else { x with stat := .refused }

/-- R156: a room executes nothing further for the step, which will miss with this `cause`; the fault is logged. -/
def refuseFor (s : State) (t : Tid) (k code pc d1 : Nat) (cause : Byte) : State :=
  let s1 := raisePlan s t.key { code := code, step := k, room := some t.room, slot := some (slotOf s t.room), d0 := pc, d1 := d1 } 127
  let open_ := (getPlan s t.key).any (fun p => p.run.any (fun r => r.released && !r.finished))
  setCause (modPlan (modTh s1 t (refuseThread open_)) t.key (reopen t.room)) t.key cause

/-- R156: the same, with the `cause` that R156 gives the code. -/
def refuseRoom (s : State) (t : Tid) (k code pc d1 : Nat) : State := refuseFor s t k code pc d1 (faultCause code)

/-- R156: the instruction is refused at issue. -/
def RC.refuse (c : RC) (code d1 : Nat) : State := refuseRoom c.s c.t c.k code c.th.pc d1

/-! ## Windows (R133) -/

/-- Bytes of the scratchpad window. -/
def RC.spadLen (c : RC) : Nat := c.r.spadLen * 16384

/-- R133: do `n` bytes at an offset lie in the window, aligned? -/
def RC.inSpad (c : RC) (off n align : Nat) : Bool := off + n ≤ c.spadLen && off % align = 0

/-- The device address of a window offset. -/
def spadPa (r : RoomRec) (off : Nat) : Nat := spadAddr r.room (r.spadBase * 16384 + off)

/-- Scratchpad bytes of the window. -/
def RC.spad (c : RC) (off n : Nat) : List Byte := memRead c.s.mem (spadPa c.r off) n

/-- The device address of a word of a tile (R147). -/
def tilePa (r : RoomRec) (tile word : Nat) : Nat := accAddr r.room ((r.accBase + tile) * 4096 + word * 4)

/-- `n` FP32 words from an address. -/
def readWords (m : List Host.Cell) (a : Nat) : Nat → List Word
  | 0 => []
  | n + 1 => BitVec.ofNat 32 (leNat (memRead m a 4)) :: readWords m (a + 4) n

/-- The bytes of FP32 words. -/
def wordBytes (ws : List Word) : List Byte := (ws.map (fun w => leBytes w.toNat 4)).flatten

/-- A tile's 1,024 values, row-major. -/
def readTile (m : List Host.Cell) (r : RoomRec) (tile : Nat) : List Word := readWords m (tilePa r tile 0) 1024

/-- A tile written. -/
def writeTile (m : List Host.Cell) (r : RoomRec) (tile : Nat) (ws : List Word) : List Host.Cell :=
  memWrite m (tilePa r tile 0) (wordBytes ws)

/-- R134: bytes of the image as loaded in the instruction-memory window. -/
def RC.image (c : RC) (off n : Nat) : List Byte := memRead c.s.mem (imemAddr c.r.room (c.r.imemBase * 4096 + off)) n

/-- R134: `n` bytes of the descriptor area at an offset. -/
def RC.desc (c : RC) (off n : Nat) : List Byte := c.image (c.im.descOff + off) n

/-- R225 (DESIGN CHOICE 20): the active bank of a slot lies in the lower half of the active-table store. -/
def activePa (r : RoomRec) (slot : Nat) : Nat := tblAddr r.room ((r.tblBase + slot) * 1024)
/-- R225 (DESIGN CHOICE 20): the inactive bank of a slot lies in the upper half. -/
def inactivePa (r : RoomRec) (slot : Nat) : Nat := tblAddr r.room (8192 + (r.tblBase + slot) * 1024)

/-! ## Issue (R125, R126) -/

/-- R126: do two ranges overlap? -/
def rangeMeet (a b : Range) : Bool := a.space == b.space && a.lo < b.hi && b.lo < a.hi

/-! ## Accesses of a step (R72, R78) -/

/-- Does an earlier write of the step cover a range? -/
def covered (l : List Range) (r : Range) : Bool := l.any (fun w => w.space == r.space && decide (w.lo ≤ r.lo) && decide (r.hi ≤ w.hi))

/-- R72: a location is read. -/
def noteRead (x : Thread) (r : Range) : Thread := if x.restore || covered x.wrs r then x else { x with rds := x.rds ++ [r] }

/-- R72, R78: a location is written. -/
def noteWrite (x : Thread) (w : Range) : Thread :=
  if x.restore then x else { x with wrs := x.wrs ++ [w], dirty := if x.rds.any (rangeMeet w) then x.dirty ++ [w] else x.dirty }

/-- Context addresses and frames are one for all rooms of a plan: another room of its step. -/
def otherRooms (s : State) (x : Thread) : List Thread := s.threads.filter (fun y => y.tid.key == x.tid.key && y.tid != x.tid)

/-- R72: a context address or a frame is read; one that the step wrote before, in any room, a rerun writes again. -/
def noteCtxRead (s : State) (x : Thread) (r : Range) : Thread := if (otherRooms s x).any (fun y => covered y.wrs r) then x else noteRead x r

/-- R72: a context address or a frame is written, after any room of the step has read it or not. -/
def noteCtxWrite (s : State) (x : Thread) (w : Range) : Thread :=
  let y := noteWrite x w
  if !x.restore && !x.rds.any (rangeMeet w) && (otherRooms s x).any (fun z => z.rds.any (rangeMeet w)) then { y with dirty := y.dirty ++ [w] } else y

/-- R72: reads, then writes, of context addresses or frames. -/
def noteCtx (s : State) (x : Thread) (reads writes : List Range) : Thread := writes.foldl (noteCtxWrite s) (reads.foldl (noteCtxRead s) x)

/-- Reads, then writes. -/
def noteAll (x : Thread) (reads writes : List Range) : Thread := writes.foldl noteWrite (reads.foldl noteRead x)

/-- The ranges of windows; registers and table banks are not locations that a rerun finds changed (R136, R225). -/
def windowRanges (l : List Range) : List Range := l.filter (fun r => r.space == .spad || r.space == .acc)

/-- Context addresses, in a space. -/
def vaRanges (sp : Space) (l : List (Nat × Nat)) : List Range := l.map (fun p => { space := sp, lo := p.1, hi := p.1 + p.2 })

/-- R72: ordinary reads and writes of context addresses. -/
def noteVa (s : State) (x : Thread) (reads writes : List (Nat × Nat)) : Thread :=
  noteCtx s x (vaRanges .ctx reads) (vaRanges .ctx writes ++ vaRanges .ge writes)

/-- R126: must an instruction with these ranges wait for an outstanding one? -/
def conflicts (o : Out) (reads writes : List Range) : Bool :=
  o.writes.any (fun w => (reads ++ writes).any (rangeMeet w)) || o.reads.any (fun r => writes.any (rangeMeet r))

/-- The oldest instruction that ends by its unit alone leaves the list. -/
def retireUnit (u : Nat) (l : List Out) : List Out := dropFirst (fun o => o.unit == u && o.ends == .unit) l

/-- R125: the issue queue of a unit holds 8; the move unit's requests leave its queue. -/
def queueRoom (u : Nat) (l : List Out) : List Out :=
  if u < 6 && (l.filter (fun o => o.unit == u)).length ≥ 8 then retireUnit u l else l

/-- R126: at most 32 outstanding. -/
def outRoom (l : List Out) : List Out := if l.length ≥ 32 then dropFirst (fun o => o.ends == .unit) l else l

/-- R125, R126: the outstanding instructions once the sequencer may issue one with these ranges: what conflicts has
completed. None while an instruction that waits for another part still holds it. -/
def holdFor (l : List Out) (u : Nat) (reads writes : List Range) : Option (List Out) :=
  if l.any (fun o => conflicts o reads writes && o.ends != .unit) then none
  else
    let l1 := outRoom (queueRoom u (l.filter (fun o => !conflicts o reads writes)))
    if l1.length ≥ 32 then none else some l1

/-- The thread with one more outstanding instruction and the program counter moved on; the effects are in `c.s`. -/
def RC.issue (c : RC) (u : Nat) (reads writes : List Range) (ends : OutEnd) (g : State → Thread → State × Thread) : State :=
  match holdFor c.th.outs u reads writes with
  | none => c.s
  | some l =>
    let x0 := noteAll c.th (windowRanges reads) (windowRanges writes)
    let (s1, x1) := g c.s { x0 with outs := l ++ [{ unit := u, reads := reads, writes := writes, ends := ends }] }
    putTh s1 (advance1 x1)

/-- R126: the outstanding instructions once a sequencer instruction may execute: conflicting ones have completed. The limit of 32
is one on asynchronous instructions and does not hold it. -/
def holdSeq (l : List Out) (reads writes : List Range) : Option (List Out) :=
  if l.any (fun o => conflicts o reads writes && o.ends != .unit) then none else some (l.filter (fun o => !conflicts o reads writes))

/-- A sequencer instruction of no unit: conflicting unit instructions complete first. -/
def RC.seq (c : RC) (reads writes : List Range) (g : State → Thread → State × Thread) : State :=
  match holdSeq c.th.outs reads writes with
  | none => c.s
  | some l =>
    let (s1, x1) := g c.s { (noteAll c.th (windowRanges reads) (windowRanges writes)) with outs := l }
    putTh s1 (advance1 x1)

/-- R134, R138, R156: the common part of every instruction: a thread that runs, a program counter inside the code, the
predicate. -/
def runIns (s : State) (t : Tid) (i : RoomIns) (body : RC → State) : State :=
  match enter s t with
  | none => s
  | some c =>
    if c.th.pc ≥ c.im.codeWords then c.refuse 0x0100 c.th.pc
    else if !predMet c.th i then putTh s (advance1 c.th)
    else body c

/-! ## Unspecified contents (R78, R205) -/

/-- A range of a room's windows holds free values. -/
def freeWindow (r : RoomRec) (s : State) (q : Range) : State :=
  match q.space with
  | .spad =>
    let (bs, s1) := freeBytes s (q.hi - q.lo)
    { s1 with mem := memWrite s1.mem (spadPa r q.lo) bs }
  | .acc =>
    let (bs, s1) := freeBytes s (4096 * (q.hi - q.lo))
    { s1 with mem := memWrite s1.mem (tilePa r q.lo 0) bs }
  | _ => s

/-! ## Ranges -/

def rSpad (off n : Nat) : Range := { space := .spad, lo := off, hi := off + n }
def rTile (t n : Nat) : Range := { space := .acc, lo := t, hi := t + n }
def rV (v : Nat) : Range := { space := .vreg, lo := v, hi := v + 1 }
def rM (m : Nat) : Range := { space := .mask, lo := m % 8, hi := m % 8 + 1 }

/-! ## Halo blocks (R196, R205) -/

/-- R196: C of a direction. -/
def wallC (x : Thread) (dir : Nat) : Nat := (x.wall.c.getD dir 0).toNat
/-- R196: F of a direction. -/
def wallF (x : Thread) (dir : Nat) : Nat := (x.wall.f.getD dir 0).toNat

/-- The place of a halo in its receiver's window. -/
def haloRange (h : Halo) : Range := rSpad h.dst h.bytes.length

/-- R205: halos that no HALO_WAIT has delivered: under way, or landed beyond C. -/
def openHalos (x : Thread) : List Halo := (x.inbound ++ x.landed.filter (fun p => decide (wallC x p.1 < p.2.step.toNat))).map (·.2)

/-- R205: does an instruction that reads these ranges read a halo block too soon? -/
def readsOpenHalo (x : Thread) (reads : List Range) : Bool := (openHalos x).any (fun h => reads.any (rangeMeet (haloRange h)))

/-! ## Room counts (R419) -/

/-- R419: the array class of a format. -/
def addCycles (m : Meter) (fmt n : Nat) : Meter :=
  if fmt = 1 || fmt = 2 then { m with c16 := m.c16 + n }
  else if fmt = 7 || fmt = 9 || fmt = 10 then { m with c4 := m.c4 + n }
  else { m with c8 := m.c8 + n }

def addVec (x : Thread) : Thread := { x with meter := { x.meter with vec := x.meter.vec + 1 } }
def addFnu (x : Thread) : Thread := { x with meter := { x.meter with fnu := x.meter.fnu + 1 } }
def addMov (x : Thread) : Thread := { x with meter := { x.meter with mov := x.meter.mov + 1 } }

end Sys2Proof.Machine
end

