-- ==== Sys2Proof/Machine/Rooms.lean ====
section
/-! DEFINITION. Control and scalar instructions of a room program, and its scratchpad words (R140, R141, R156). -/
namespace Sys2Proof.Machine

/-! ## Control -/

/-- R140: NOP. -/
def execRoomNop (t : Tid) (i : RoomIns) (s : State) : Out1 := .next (runIns s t i (fun c => putTh c.s (advance1 c.th)))

/-- R140: the target pc + 1 + imm. -/
def jumpTarget (x : Thread) (i : RoomIns) : Nat := ((x.pc : Int) + 1 + immInt i).toNat

/-- R140: a jump goes on at its target. -/
def jumpTo (x : Thread) (n : Nat) : Thread := advance x x.pc n

/-- R140: JUMP. -/
def execJump (t : Tid) (i : RoomIns) (s : State) : Out1 := .next (runIns s t i (fun c => putTh c.s (jumpTo c.th (jumpTarget c.th i))))

/-- R140, R158: CALL pushes pc + 1; beyond depth 8 it is refused. -/
def execCall (t : Tid) (i : RoomIns) (s : State) : Out1 :=
  .next (runIns s t i (fun c =>
    if c.th.calls.length ≥ 8 then c.refuse 0x0101 0
    else putTh c.s (jumpTo { c.th with calls := (c.th.pc + 1) :: c.th.calls } (jumpTarget c.th i))))

/-- R140, R156: RET pops; with the stack empty it is refused. -/
def execRet (t : Tid) (i : RoomIns) (s : State) : Out1 :=
  .next (runIns s t i (fun c =>
    match c.th.calls with
    | [] => c.refuse 0x0101 0
    | n :: r => putTh c.s (jumpTo { c.th with calls := r } n)))

/-- R140: the number of passes, sa[31:0]. -/
def repeatCount (x : Thread) (i : RoomIns) : Nat := dbits (sReg x i.a.toNat) 0 32

/-- R140, R158: REPEAT; a count of zero skips the body, and a fifth level is refused. -/
def execRepeatLoop (t : Tid) (i : RoomIns) (s : State) : Out1 :=
  .next (runIns s t i (fun c =>
    let n := repeatCount c.th i
    let len := i.imm.toNat
    if n = 0 then putTh c.s (advance c.th (c.th.pc + len) (c.th.pc + len + 1))
    else if c.th.reps.length ≥ 4 then c.refuse 0x0101 0
    else putTh c.s { c.th with pc := c.th.pc + 1, reps := { start := c.th.pc + 1, len := len, left := n } :: c.th.reps }))

/-- R140, R156: TRAP. -/
def execTrap (t : Tid) (i : RoomIns) (s : State) : Out1 := .next (runIns s t i (fun c => c.refuse 0x0102 i.imm.toNat))

/-! ## Scalar arithmetic -/

/-- R140: a scalar instruction that writes sd and goes on. -/
def scalarOp (s : State) (t : Tid) (i : RoomIns) (f : Thread → DWord) : State :=
  runIns s t i (fun c => putTh c.s (advance1 (setS c.th i.d.toNat (f c.th))))

/-- R140: SADD and the rows like it: sd = f(sa, x). -/
def aluOp (s : State) (t : Tid) (i : RoomIns) (f : DWord → DWord → DWord) : State :=
  scalarOp s t i (fun x => f (sReg x i.a.toNat) (opX x i))

/-- R140: SADD. -/
def execSadd (t : Tid) (i : RoomIns) (s : State) : Out1 := .next (aluOp s t i (fun a x => a + x))
/-- R140: SSUB. -/
def execSsub (t : Tid) (i : RoomIns) (s : State) : Out1 := .next (aluOp s t i (fun a x => a - x))
/-- R140: SMUL. -/
def execSmul (t : Tid) (i : RoomIns) (s : State) : Out1 := .next (aluOp s t i (fun a x => a * x))
/-- R140: SAND. -/
def execSand (t : Tid) (i : RoomIns) (s : State) : Out1 := .next (aluOp s t i (fun a x => a &&& x))
/-- R140: SOR. -/
def execSor (t : Tid) (i : RoomIns) (s : State) : Out1 := .next (aluOp s t i (fun a x => a ||| x))
/-- R140: SXOR. -/
def execSxor (t : Tid) (i : RoomIns) (s : State) : Out1 := .next (aluOp s t i (fun a x => a ^^^ x))
/-- R140: SSHL by x[5:0]. -/
def execSshl (t : Tid) (i : RoomIns) (s : State) : Out1 := .next (aluOp s t i (fun a x => a <<< (dbits x 0 6)))
/-- R140: SSHR, arithmetic, by x[5:0]. -/
def execSshr (t : Tid) (i : RoomIns) (s : State) : Out1 := .next (aluOp s t i (fun a x => a.sshiftRight (dbits x 0 6)))
/-- R140: SMIN, signed. -/
def execSmin (t : Tid) (i : RoomIns) (s : State) : Out1 := .next (aluOp s t i (fun a x => if a.slt x then a else x))
/-- R140: SMAX, signed. -/
def execSmax (t : Tid) (i : RoomIns) (s : State) : Out1 := .next (aluOp s t i (fun a x => if a.slt x then x else a))
/-- R140: SLI. -/
def execSli (t : Tid) (i : RoomIns) (s : State) : Out1 := .next (scalarOp s t i (fun _ => immX i))

/-- R140: SCMP writes predicate d; p0 discards it. -/
def execScmp (t : Tid) (i : RoomIns) (s : State) : Out1 :=
  .next (runIns s t i (fun c =>
    let v := scmpCond (immF i 0 3) (sReg c.th i.a.toNat) (sReg c.th i.b.toNat)
    putTh c.s (advance1 { c.th with preds := setPredBit c.th.preds (i.d.toNat % 8) v })))

/-- R140: SLDC: constant-pool word imm of the image. -/
def execSldc (t : Tid) (i : RoomIns) (s : State) : Out1 :=
  .next (runIns s t i (fun c =>
    putTh c.s (advance1 (setS c.th i.d.toNat (BitVec.ofNat 64 (leNat (c.image (c.im.constOff + 8 * i.imm.toNat) 8)))))))

/-- R141: the value that SRD names. -/
def srdValue (c : RC) (n : Nat) : DWord :=
  let room := c.r.room
  match n with
  | 0 => BitVec.ofNat 64 room
  | 1 => BitVec.ofNat 64 (room / 768)
  | 2 => BitVec.ofNat 64 (room / 64 % 12)
  | 3 => BitVec.ofNat 64 (room % 64)
  | 4 => BitVec.ofNat 64 c.k
  | 5 => c.s.tick.num.setWidth 64
  | 6 => (sysTick c.s).setWidth 64
  | 7 => BitVec.ofNat 64 c.p.key.id
  | 8 => c.p.desc.w28
  | 9 => BitVec.ofNat 64 c.spadLen
  | 10 => BitVec.ofNat 64 c.r.accLen
  | _ => c.shapes.getD (n - 16) 0

/-- R141: SRD. -/
def execSrd (t : Tid) (i : RoomIns) (s : State) : Out1 :=
  .next (runIns s t i (fun c => putTh c.s (advance1 (setS c.th i.d.toNat (srdValue c i.imm.toNat)))))

/-- R140: SLD: 8 bytes, 8-byte aligned, inside the window. -/
def execSld (t : Tid) (i : RoomIns) (s : State) : Out1 :=
  .next (runIns s t i (fun c =>
    let a := spadOff c.th i
    if !c.inSpad a 8 8 then c.refuse 0x0100 a
    else c.seq [rSpad a 8] [] (fun s x => (s, setS x i.d.toNat (BitVec.ofNat 64 (leNat (memRead s.mem (spadPa c.r a) 8)))))))

/-- R140: SST: 8 bytes, 8-byte aligned, inside the window. -/
def execSst (t : Tid) (i : RoomIns) (s : State) : Out1 :=
  .next (runIns s t i (fun c =>
    let a := spadOff c.th i
    if !c.inSpad a 8 8 then c.refuse 0x0100 a
    else c.seq [] [rSpad a 8] (fun s x =>
      ({ s with mem := memWrite s.mem (spadPa c.r a) (leBytes (sReg x i.b.toNat).toNat 8) }, x))))

end Sys2Proof.Machine
end

