-- ==== Sys2Proof/Machine/Arrays.lean ====
section
/-! DEFINITION. The arrays, the accumulator port and the nest expander (R143 to R147, R168 to R172, R181 to R193). -/
namespace Sys2Proof.Machine

/-! ## MMA (R143 to R146) -/

/-- R143: the fields of an MMA immediate. -/
structure MmaImm where
  tile  : Nat
  fmtA  : Nat
  fmtB  : Nat
  scale : Nat
  zero  : Bool
  kb    : Nat
  run   : Nat
  trA   : Bool
  trB   : Bool
deriving DecidableEq, Repr

def mmaImm (w : Word) : MmaImm :=
  { tile := wbits w 0 5, fmtA := wbits w 5 4, fmtB := wbits w 9 4, scale := wbits w 13 2, zero := wbit w 15, kb := wbits w 16 8,
    run := 4 * 2 ^ wbits w 24 2, trA := wbit w 26, trB := wbit w 27 }

/-- R144, R186: bytes of an operand. -/
def operandBytes (fmt kb : Nat) : Nat := kb * 32 * groupBytes fmt
/-- R144, R186: bytes of an operand's scales. -/
def scaleBytes (scale kb : Nat) : Nat := if scale = 0 then 0 else if scale = 1 then kb * 32 else kb * 64

/-- R144: the 32 elements at each k of an operand, k ascending; transposed operands are stored by row. -/
def operandElems (scale fmt kb : Nat) (tr : Bool) (bs : List Byte) : List (List Fl) :=
  if tr then
    let rows := (pieces bs (kb * groupBytes fmt) 32).map (fun r =>
      ((pieces r (groupBytes fmt) kb).map (fun g => (groupCodes fmt g).map (scaledElem scale fmt))).flatten)
    (List.range (kb * 32)).map (fun k => rows.map (fun r => r.getD k .nan))
  else (pieces bs (groupBytes fmt) (kb * 32)).map (fun g => (groupCodes fmt g).map (scaledElem scale fmt))

/-- R144: the scale of each row at each block. -/
def operandScales (scale kb : Nat) (bs : List Byte) : List (List Fl) :=
  if scale = 0 then [] else (pieces bs 32 (kb * scale)).map (fun g => g.map (fun b => scaleValue scale b.toNat))

/-- R168: the scale of row `i` at index `k`. -/
def scaleAt (scale : Nat) (ss : List (List Fl)) (k i : Nat) : Fl :=
  if scale = 0 then .fin false 1 0 else (ss.getD (k / (32 / scale)) []).getD i .nan

/-- The elements of an operand with their scales, k ascending. -/
def scaledOperand (scale : Nat) (es ss : List (List Fl)) : List (List Fl) :=
  (enum es).map (fun p => (enum p.2).map (fun q => if scale = 0 then q.2 else q.2.mul (scaleAt scale ss p.1 q.1)))

/-- R145, R168 to R172: one tile after an MMA: the canonical accumulation of every element. -/
def mmaTile (exact : Bool) (m : MmaImm) (old : List Word) (a b : List (List Fl)) : List Word :=
  ((List.range 32).map (fun i =>
    let ai := a.map (fun s => s.getD i .nan)
    (List.range 32).map (fun j =>
      let ps := (ai.zip b).map (fun p => p.1.mul (p.2.getD j .nan))
      promoteRuns exact m.run (if m.zero then 0 else old.getD (32 * i + j) 0) ps (m.kb * 32 / m.run)))).flatten

/-- Where an MMA finds its operands, as window offsets. -/
structure MmaAddr where
  a  : Nat
  b  : Nat
  sa : Nat
  sb : Nat
deriving DecidableEq, Repr

/-- R145: the memory after an MMA. -/
def mmaMem (exact : Bool) (r : RoomRec) (m : MmaImm) (d : MmaAddr) (mem : List Host.Cell) : List Host.Cell :=
  let get := fun off n => memRead mem (spadPa r off) n
  let a := scaledOperand m.scale (operandElems m.scale m.fmtA m.kb m.trA (get d.a (operandBytes m.fmtA m.kb)))
    (operandScales m.scale m.kb (get d.sa (scaleBytes m.scale m.kb)))
  let b := scaledOperand m.scale (operandElems m.scale m.fmtB m.kb m.trB (get d.b (operandBytes m.fmtB m.kb)))
    (operandScales m.scale m.kb (get d.sb (scaleBytes m.scale m.kb)))
  writeTile mem r m.tile (mmaTile exact m (readTile mem r m.tile) a b)

/-- The wider of two formats by R146's classes. -/
def widerFmt (a b : Nat) : Nat :=
  if a = 1 || a = 2 then a else if b = 1 || b = 2 then b
  else if a = 7 || a = 9 || a = 10 then b else a

/-- R146: the array cycles that an MMA occupies its array for. -/
def mmaCycles (exact : Bool) (array : Nat) (m : MmaImm) : Nat :=
  let w := widerFmt m.fmtA m.fmtB
  let n := if array = 0 then (if w = 1 || w = 2 then m.kb * 64 else if w = 7 || w = 9 || w = 10 then m.kb * 16 else m.kb * 32)
    else if m.trA || m.trB then (m.kb + 1) * 32 else m.kb * 32
  if exact then 4 * n else n

/-- R144: is every byte that the MMA reads in the window, its addresses aligned? -/
def mmaLegal (c : RC) (m : MmaImm) (d : MmaAddr) : Bool :=
  c.inSpad d.a (operandBytes m.fmtA m.kb) 64 && c.inSpad d.b (operandBytes m.fmtB m.kb) 64 && m.tile < c.r.accLen
  && (m.scale = 0 || (c.inSpad d.sa (scaleBytes m.scale m.kb) 64 && c.inSpad d.sb (scaleBytes m.scale m.kb) 64))

/-- R126: the ranges an MMA reads. -/
def mmaReads (m : MmaImm) (d : MmaAddr) : List Range :=
  [rSpad d.a (operandBytes m.fmtA m.kb), rSpad d.b (operandBytes m.fmtB m.kb)]
  ++ (if m.scale = 0 then [] else [rSpad d.sa (scaleBytes m.scale m.kb), rSpad d.sb (scaleBytes m.scale m.kb)])
  ++ (if m.zero then [] else [rTile m.tile 1])

/-- R143 to R145: an MMA on array 0 (front), 1 or 2 (back). -/
def mmaIns (s : State) (t : Tid) (i : RoomIns) (array : Nat) : State :=
  runIns s t i (fun c =>
    let m := mmaImm i.imm
    let d : MmaAddr := { a := (sReg c.th i.a.toNat).toNat, b := (sReg c.th i.b.toNat).toNat,
                         sa := (sReg c.th i.c.toNat).toNat, sb := (sReg c.th i.d.toNat).toNat }
    if !mmaLegal c m d then c.refuse 0x003A 0
    else c.issue array (mmaReads m d) [rTile m.tile 1] .unit (fun s x =>
      ({ s with mem := mmaMem c.exact c.r m d s.mem },
       { x with meter := addCycles x.meter (widerFmt m.fmtA m.fmtB) (mmaCycles c.exact array m) })))

/-- R140, R143: MMA_F. -/
def execMmaF (t : Tid) (i : RoomIns) (s : State) : Out1 := .next (mmaIns s t i 0)
/-- R140, R143: MMA_B0. -/
def execMmaB0 (t : Tid) (i : RoomIns) (s : State) : Out1 := .next (mmaIns s t i 1)
/-- R140, R143: MMA_B1. -/
def execMmaB1 (t : Tid) (i : RoomIns) (s : State) : Out1 := .next (mmaIns s t i 2)

/-! ## The accumulator port (R147) -/

/-- Tiles `t` to `t + n - 1` set to +0. -/
def zeroTiles (r : RoomRec) (t : Nat) (mem : List Host.Cell) : Nat → List Host.Cell
  | 0 => mem
  | n + 1 => zeroTiles r (t + 1) (writeTile mem r t (List.replicate 1024 0)) n

/-- R140: ACC_ZERO. -/
def execAccZero (t : Tid) (i : RoomIns) (s : State) : Out1 :=
  .next (runIns s t i (fun c =>
    let lo := immF i 0 5
    let n := immF i 5 5 + 1
    if lo + n > c.r.accLen then c.refuse 0x003A 0
    else c.issue 3 [] [rTile lo n] .unit (fun s x => ({ s with mem := zeroTiles c.r lo s.mem n }, x))))

/-- R147: the fields of an ACC_OUT immediate. -/
structure AccImm where
  tile  : Nat
  fmt   : Nat
  scale : Nat
  col   : Bool
deriving DecidableEq, Repr

def accImm (w : Word) : AccImm := { tile := wbits w 0 5, fmt := wbits w 5 4, scale := wbits w 9 2, col := wbit w 11 }

/-- R186: bytes of a converted tile and of its scales. -/
def cTile (m : AccImm) : Nat := 32 * groupBytes m.fmt
def csTile (m : AccImm) : Nat := if m.scale = 0 then 0 else 32 * m.scale

/-- R147, R163: the codes of a row, and its scales. -/
def rowCodes (m : AccImm) (row : List Word) : List Nat × List Nat :=
  if m.scale = 0 then (row.map (fun w => convert m.fmt (ofF32 w)), [])
  else if m.scale = 1 then
    let b := scaleBlock 1 m.fmt row
    (b.2, [b.1])
  else
    let b0 := scaleBlock 2 m.fmt (row.take 16)
    let b1 := scaleBlock 2 m.fmt (row.drop 16)
    (b0.2 ++ b1.2, [b0.1, b1.1])

/-- R147: the bytes of a converted tile, row-major or column-major, and of its scales. -/
def accBytes (m : AccImm) (ws : List Word) : List Byte × List Byte :=
  let rows := ((List.range 32).map (fun i => rowCodes m ((ws.drop (32 * i)).take 32)))
  let data := if m.col then
      ((List.range 32).map (fun j => packGroup m.fmt (rows.map (fun r => r.1.getD j 0)))).flatten
    else (rows.map (fun r => packGroup m.fmt r.1)).flatten
  (data, ((List.range m.scale).map (fun b => rows.map (fun r => BitVec.ofNat 8 (r.2.getD b 0)))).flatten)

/-- R147: the memory after an ACC_OUT to window offsets. -/
def accOutMem (r : RoomRec) (m : AccImm) (dst sc : Nat) (mem : List Host.Cell) : List Host.Cell :=
  let b := accBytes m (readTile mem r m.tile)
  memWrite (memWrite mem (spadPa r dst) b.1) (spadPa r sc) b.2

/-- R147: ACC_OUT. -/
def execAccOut (t : Tid) (i : RoomIns) (s : State) : Out1 :=
  .next (runIns s t i (fun c =>
    let m := accImm i.imm
    let a := (sReg c.th i.a.toNat).toNat
    let b := (sReg c.th i.b.toNat).toNat
    if !(c.inSpad a (cTile m) 64 && (m.scale = 0 || c.inSpad b (csTile m) 64) && m.tile < c.r.accLen) then c.refuse 0x003A 0
    else c.issue 3 [rTile m.tile 1] ([rSpad a (cTile m)] ++ (if m.scale = 0 then [] else [rSpad b (csTile m)])) .unit
      (fun s x => ({ s with mem := accOutMem c.r m a b s.mem }, x))))

/-- R140, R147: ACC_IN. R171 makes every NaN that a computation brings to a tile 0x7FC0_0000, and R140 gives ACC_IN as a copy of
FP32 words: the payload bits of a NaN are copied as they are (DESIGN CHOICE 125). -/
def execAccIn (t : Tid) (i : RoomIns) (s : State) : Out1 :=
  .next (runIns s t i (fun c =>
    let a := (sReg c.th i.a.toNat).toNat
    let tile := immF i 0 5
    if !(c.inSpad a 4096 64 && tile < c.r.accLen) then c.refuse 0x003A 0
    else c.issue 3 [rSpad a 4096] [rTile tile 1] .unit (fun s x =>
      ({ s with mem := memWrite s.mem (tilePa c.r tile 0) (memRead s.mem (spadPa c.r a) 4096) }, x))))

/-! ## Loop nests (R183 to R193) -/

/-- R184: a level record. -/
structure NestLevel where
  bound : Nat
  dyn   : Bool
  oper  : Nat
  kRole : Bool
  acc   : Nat
  div   : Nat
  bias  : Int
  st    : List Nat              -- strides of A, B, SA, SB, C, CS
deriving DecidableEq, Repr

/-- R183: a descriptor. -/
structure Nest where
  array  : Nat
  levels : List NestLevel
  tm     : Nat
  tn     : Nat
  accum  : Bool
  out    : Bool
  mma    : MmaImm
  acc    : AccImm
  accB   : Nat
  hasOut : Bool
  outId  : Nat
  bufs   : List (Nat × Nat)     -- base and length of A, B, SA, SB, C, CS
deriving DecidableEq, Repr

def nestLevel (bs : List Byte) : NestLevel :=
  { bound := fieldAt bs 0 0 16, dyn := bitOf (getLE bs 0 4) 16, oper := fieldAt bs 0 17 3, kRole := bitOf (getLE bs 0 4) 20,
    acc := fieldAt bs 0 21 5, div := fieldAt bs 4 0 16, bias := signed (fieldAt bs 4 16 16) 16,
    st := (List.range 6).map (fun j => getLE bs (8 + 4 * j) 4) }

def nestOf (bs : List Byte) : Nest :=
  { array := fieldAt bs 0 8 2, levels := (List.range (fieldAt bs 0 10 3)).map (fun l => nestLevel (slice bs (64 + 32 * l) 32)),
    tm := fieldAt bs 0 13 2 + 1, tn := fieldAt bs 0 15 2 + 1, accum := bitOf (getLE bs 0 4) 17, out := bitOf (getLE bs 0 4) 18,
    mma := mmaImm (BitVec.ofNat 32 (getLE bs 4 4)), acc := accImm (BitVec.ofNat 32 (getLE bs 8 4)),
    accB := fieldAt bs 0xC 0 5, hasOut := bitOf (getLE bs 0xC 4) 5, outId := fieldAt bs 0xC 16 16,
    bufs := (List.range 6).map (fun j => (getLE bs (0x10 + 8 * j) 4, getLE bs (0x14 + 8 * j) 4)) }

/-- R183: bytes of a descriptor. -/
def nestBytes (levels : Nat) : Nat := 64 + 32 * levels

/-- R190: the resolved count of a level, or the latched value for which it is refused. -/
def levelCount (c : RC) (l : NestLevel) : Except Nat Nat :=
  if !l.dyn then .ok l.bound
  else
    let x := (c.shapes.getD l.oper 0).toNat
    let lim := (c.b.shape[l.oper]?).elim 0 (·.limit)
    let b := ((((x : Int) + l.bias) + (l.div : Int) - 1) / (l.div : Int)).toNat
    if x > lim || b > l.bound then .error x else .ok b

/-- R190: every level's count. -/
def levelCounts (c : RC) : List NestLevel → Except Nat (List Nat)
  | [] => .ok []
  | l :: r =>
    match levelCount c l, levelCounts c r with
    | .ok n, .ok ns => .ok (n :: ns)
    | .error x, _ => .error x
    | _, .error x => .error x

/-- R191: the span of buffer `j`, a zero count taken as 1 (R192). -/
def spanOf (ls : List (NestLevel × Nat)) (j : Nat) : Nat := sumBy ls (fun p => p.1.st.getD j 0 * (p.2 - 1))

/-- R191: does the buffer hold the span and `n` bytes? -/
def bufHolds (d : Nest) (ls : List (NestLevel × Nat)) (j n : Nat) : Bool := spanOf ls j + n ≤ (d.bufs.getD j (0, 0)).2

/-- R191: the accumulator tiles that the nest reaches. -/
def accReach (d : Nest) (ls : List (NestLevel × Nat)) : Nat := sumBy ls (fun p => p.1.acc * (p.2 - 1)) + d.tm * d.tn

/-- R191: the accumulator check. -/
def accHolds (c : RC) (d : Nest) (ls : List (NestLevel × Nat)) : Bool := d.accB + accReach d ls ≤ c.r.accLen

/-- R191: the checks of the output buffers. -/
def outHolds (d : Nest) (ls : List (NestLevel × Nat)) : Bool :=
  !d.out || (bufHolds d ls 4 (d.tm * d.tn * cTile d.acc) && bufHolds d ls 5 (d.tm * d.tn * csTile d.acc))

/-- R191: all checks of a nest that is not empty. -/
def nestLegal (c : RC) (d : Nest) (ls : List (NestLevel × Nat)) : Bool :=
  bufHolds d ls 0 (d.tm * operandBytes d.mma.fmtA d.mma.kb) && bufHolds d ls 1 (d.tn * operandBytes d.mma.fmtB d.mma.kb)
  && bufHolds d ls 2 (d.tm * scaleBytes d.mma.scale d.mma.kb) && bufHolds d ls 3 (d.tn * scaleBytes d.mma.scale d.mma.kb)
  && outHolds d ls && accHolds c d ls

/-- R187: the index vectors, level 0 first in each, in lexicographic order with the last level slowest. -/
def nestIndices : List Nat → List (List Nat)
  | [] => [[]]
  | n :: r => ((nestIndices r).map (fun t => (List.range n).map (fun i => i :: t))).flatten

/-- R187: off(X) for buffer `j`. -/
def nestOff (d : Nest) (ix : List Nat) (j : Nat) : Nat :=
  (d.bufs.getD j (0, 0)).1 + sumBy (d.levels.zip ix) (fun p => p.1.st.getD j 0 * p.2)

/-- R187: t0. -/
def nestTile (d : Nest) (ix : List Nat) : Nat := d.accB + sumBy (d.levels.zip ix) (fun p => p.1.acc * p.2)

/-- R187: is every K level at its first index? -/
def kFirst (d : Nest) (ix : List Nat) : Bool := (d.levels.zip ix).all (fun p => !p.1.kRole || p.2 == 0)

/-- R187: is every K level at its last index? -/
def kLast (d : Nest) (ns ix : List Nat) : Bool := (d.levels.zip (ns.zip ix)).all (fun p => !p.1.kRole || p.2.2 + 1 == p.2.1)

/-- The (u, v) pairs of the body. -/
def bodyPairs (d : Nest) : List (Nat × Nat) := ((List.range d.tm).map (fun u => (List.range d.tn).map (fun v => (u, v)))).flatten

/-- R187: the MMAs of one iteration. -/
def nestMmas (exact : Bool) (r : RoomRec) (d : Nest) (ix : List Nat) (mem : List Host.Cell) : List Host.Cell :=
  (bodyPairs d).foldl (fun mem p =>
    mmaMem exact r { d.mma with tile := nestTile d ix + p.1 * d.tn + p.2, zero := kFirst d ix && !d.accum }
      { a := nestOff d ix 0 + p.1 * operandBytes d.mma.fmtA d.mma.kb, b := nestOff d ix 1 + p.2 * operandBytes d.mma.fmtB d.mma.kb,
        sa := nestOff d ix 2 + p.1 * scaleBytes d.mma.scale d.mma.kb, sb := nestOff d ix 3 + p.2 * scaleBytes d.mma.scale d.mma.kb } mem) mem

/-- R187: the ACC_OUTs of one iteration. -/
def nestOuts (r : RoomRec) (d : Nest) (ix : List Nat) (mem : List Host.Cell) : List Host.Cell :=
  (bodyPairs d).foldl (fun mem p =>
    let n := p.1 * d.tn + p.2
    accOutMem r { d.acc with tile := nestTile d ix + n } (nestOff d ix 4 + n * cTile d.acc) (nestOff d ix 5 + n * csTile d.acc) mem) mem

/-- R187: the whole nest. -/
def nestRun (exact : Bool) (r : RoomRec) (d : Nest) (ns : List Nat) (mem : List Host.Cell) : List Host.Cell :=
  (nestIndices ns).foldl (fun mem ix =>
    let m1 := nestMmas exact r d ix mem
    if kLast d ns ix && d.out then nestOuts r d ix m1 else m1) mem

/-- R192: the counts of the FREE levels, every K level run once. -/
def freeCounts (d : Nest) (ns : List Nat) : List Nat := (d.levels.zip ns).map (fun p => if p.1.kRole then 1 else p.2)

/-- R192: an empty nest whose zero counts are all on K levels. -/
def nestEmpty (r : RoomRec) (d : Nest) (ns : List Nat) (mem : List Host.Cell) : List Host.Cell :=
  (nestIndices (freeCounts d ns)).foldl (fun mem ix =>
    let m1 := if d.accum then mem else zeroTiles r (nestTile d ix) mem (d.tm * d.tn)
    if d.out then nestOuts r d ix m1 else m1) mem

/-- R192: is some FREE level's count zero? -/
def freeZero (d : Nest) (ns : List Nat) : Bool := (d.levels.zip ns).any (fun p => !p.1.kRole && p.2 == 0)

/-- R187: the tile offsets t0 − acc_base that the levels' counts reach, each once. -/
def accOffs : List (NestLevel × Nat) → List Nat
  | [] => [0]
  | p :: r => if p.1.acc = 0 && p.2 != 0 then accOffs r else (((List.range p.2).map (fun i => (accOffs r).map (· + p.1.acc * i))).flatten).eraseDups

/-- R181: the accumulator tiles that a NEST's resolved bounds reach; none with a zero count. -/
def nestTiles (d : Nest) (ls : List (NestLevel × Nat)) : List Range := (accOffs ls).map (fun o => rTile (d.accB + o) (d.tm * d.tn))

/-- R181: the ranges that a NEST declares as reads: A, B, SA and SB in full, and the tiles. -/
def nestReads (d : Nest) (ls : List (NestLevel × Nat)) : List Range :=
  ((d.bufs.take 4).filter (fun b => b.2 != 0)).map (fun b => rSpad b.1 b.2) ++ nestTiles d ls

/-- R181: the ranges that a NEST declares as writes: C and CS in full, and the tiles. -/
def nestWrites (d : Nest) (ls : List (NestLevel × Nat)) : List Range :=
  ((d.bufs.drop 4).filter (fun b => b.2 != 0)).map (fun b => rSpad b.1 b.2) ++ nestTiles d ls

/-- `n` blocks of `len` bytes from an offset; none of zero bytes. -/
def rBlocks (off len n : Nat) : List Range := if len * n = 0 then [] else [rSpad off (len * n)]

/-- R187: the scratchpad bytes that the MMAs of a NEST read. -/
def nestRead (d : Nest) (ns : List Nat) : List Range :=
  ((nestIndices ns).map (fun ix =>
    rBlocks (nestOff d ix 0) (operandBytes d.mma.fmtA d.mma.kb) d.tm ++ rBlocks (nestOff d ix 1) (operandBytes d.mma.fmtB d.mma.kb) d.tn
    ++ rBlocks (nestOff d ix 2) (scaleBytes d.mma.scale d.mma.kb) d.tm ++ rBlocks (nestOff d ix 3) (scaleBytes d.mma.scale d.mma.kb) d.tn)).flatten

/-- R187: what a NEST writes: its tiles, and the bytes of its ACC_OUTs. -/
def nestWrote (d : Nest) (ns : List Nat) : List Range :=
  nestTiles d (d.levels.zip ns)
  ++ ((nestIndices ns).map (fun ix =>
      if kLast d ns ix && d.out then
        rBlocks (nestOff d ix 4) (cTile d.acc) (d.tm * d.tn) ++ rBlocks (nestOff d ix 5) (csTile d.acc) (d.tm * d.tn)
      else [])).flatten

/-- R193: an output tag of the running step; `live` when the operation was not empty. -/
def tagOutput (s : State) (k : PlanKey) (outId : Nat) (live : Bool) : State :=
  modPlan s k (fun p => { p with run := p.run.map (fun r => { r with tags := r.tags ++ [(outId, live)] }) })

/-- The state with an output tag, when there is one. -/
def tagIf (s : State) (k : PlanKey) (has : Bool) (outId : Nat) (live : Bool) : State := if has then tagOutput s k outId live else s

/-- R205: the results of a NEST that reads a halo block too soon are unspecified. -/
def nestResult (r : RoomRec) (soon : Bool) (writes : List Range) (s : State) : State := if soon then writes.foldl (freeWindow r) s else s

/-- The NEST that an issue has listed last, with the bytes that it reads and what it writes. -/
def markNest (d : Nest) (ns : List Nat) (x : Thread) : Thread :=
  match x.outs.reverse with
  | [] => x
  | o :: l => { x with outs := ({ o with nestR := nestRead d ns, nestW := nestWrote d ns } :: l).reverse }

/-- R181 to R193, R205: NEST. -/
def execNest (t : Tid) (i : RoomIns) (s : State) : Out1 :=
  .next (runIns s t i (fun c =>
    let hd := c.desc i.imm.toNat 64
    let d := nestOf (c.desc i.imm.toNat (nestBytes (fieldAt hd 0 10 3)))
    match levelCounts c d.levels with
    | .error x => c.refuse 0x0039 x
    | .ok ns =>
      let ls := d.levels.zip ns
      let unit := min d.array 2
      if ns.all (· != 0) then
        if !nestLegal c d ls then c.refuse 0x003A 0
        else
          let n := ns.foldl (· * ·) 1 * d.tm * d.tn * mmaCycles c.exact d.array d.mma
          c.issue unit (nestReads d ls) (nestWrites d ls) .unit (fun s x =>
            (tagIf (nestResult c.r (readsOpenHalo c.th (nestRead d ns)) (nestWrote d ns)
                { s with mem := nestRun c.exact c.r d ns s.mem }) t.key d.hasOut d.outId true,
             markNest d ns { x with meter := addCycles x.meter (widerFmt d.mma.fmtA d.mma.fmtB) n }))
      else if freeZero d ns then
        c.issue unit (nestReads d ls) (nestWrites d ls) .unit (fun s x => (tagIf s t.key d.hasOut d.outId false, x))
      else if !(accHolds c d ls && outHolds d ls) then c.refuse 0x003A 0
      else c.issue unit (nestReads d (d.levels.zip (freeCounts d ns))) (nestWrites d (d.levels.zip (freeCounts d ns))) .unit (fun s x =>
        (tagIf { s with mem := nestEmpty c.r d ns s.mem } t.key d.hasOut d.outId false, x))))

end Sys2Proof.Machine
end

