-- ==== Sys2Proof/Machine/Vector.lean ====
section
/-! DEFINITION. The vector and function units (R140, R148, R149, R217 to R229). -/
namespace Sys2Proof.Machine

/-! ## Vector arithmetic (R140, R148) -/

/-- A vector instruction that reads registers only: vd = f over the thread. -/
def vecOp (s : State) (t : Tid) (i : RoomIns) (reads : List Range) (f : Thread → List Word) : State :=
  runIns s t i (fun c => c.issue 4 reads [rV i.d.toNat] .unit (fun s x => (s, setV (addVec x) i.d.toNat (f x))))

/-- Lane by lane over va and vb. -/
def lanes2 (x : Thread) (i : RoomIns) (f : Word → Word → Word) : List Word :=
  ((vReg x i.a.toNat).zip (vReg x i.b.toNat)).map (fun p => f p.1 p.2)

/-- R140: vd lane = f(va lane, vb lane). -/
def vec2 (s : State) (t : Tid) (i : RoomIns) (f : Word → Word → Word) : State :=
  vecOp s t i [rV i.a.toNat, rV i.b.toNat] (fun x => lanes2 x i f)

/-- R140, R148: VADD. -/
def execVadd (t : Tid) (i : RoomIns) (s : State) : Out1 := .next (vec2 s t i f32Add)
/-- R140, R148: VSUB. -/
def execVsub (t : Tid) (i : RoomIns) (s : State) : Out1 := .next (vec2 s t i f32Sub)
/-- R140, R148: VMUL. -/
def execVmul (t : Tid) (i : RoomIns) (s : State) : Out1 := .next (vec2 s t i f32Mul)
/-- R140, R148: VMAX. -/
def execVmax (t : Tid) (i : RoomIns) (s : State) : Out1 := .next (vec2 s t i f32Max)
/-- R140, R148: VMIN. -/
def execVmin (t : Tid) (i : RoomIns) (s : State) : Out1 := .next (vec2 s t i f32Min)

/-- R140, R148: VFMA: va × vb + vc, one rounding. -/
def execVfma (t : Tid) (i : RoomIns) (s : State) : Out1 :=
  .next (vecOp s t i [rV i.a.toNat, rV i.b.toNat, rV i.c.toNat] (fun x =>
    ((vReg x i.a.toNat).zip ((vReg x i.b.toNat).zip (vReg x i.c.toNat))).map (fun p => f32Fma p.1 p.2.1 p.2.2)))

/-- R140: VSEL: md lane chooses va or vb. -/
def execVsel (t : Tid) (i : RoomIns) (s : State) : Out1 :=
  .next (vecOp s t i [rV i.a.toNat, rV i.b.toNat, rM i.c.toNat] (fun x =>
    (enum (lanes2 x i (fun a _ => a))).map (fun p =>
      if bitOf (mReg x i.c.toNat).toNat p.1 then p.2 else (vReg x i.b.toNat).getD p.1 0)))

/-- R140: VBC: every lane takes sa[31:0]. -/
def execVbc (t : Tid) (i : RoomIns) (s : State) : Out1 :=
  .next (vecOp s t i [] (fun x => List.replicate 64 ((sReg x i.a.toNat).setWidth 32)))

/-- R140: VIDX: sa + lane, formed exactly and rounded once. -/
def execVidx (t : Tid) (i : RoomIns) (s : State) : Out1 :=
  .next (vecOp s t i [] (fun x => (List.range 64).map (fun (l : Nat) => toF32 (ofExact ((sReg x i.a.toNat).toInt + (l : Int)) 0))))

/-- R149: mix, modulo 2⁶⁴. -/
def mix64 (z : DWord) : DWord :=
  let z := z + 0x9E3779B97F4A7C15
  let z := (z ^^^ (z >>> 30)) * 0xBF58476D1CE4E5B9
  let z := (z ^^^ (z >>> 27)) * 0x94D049BB133111EB
  z ^^^ (z >>> 31)

/-- R149: a lane of VRNG. -/
def rngLane (seed : DWord) (room stream : Nat) (counter : DWord) (lane : Nat) : Word :=
  let x := mix64 (seed ^^^ mix64 (BitVec.ofNat 64 (room * 2 ^ 32 + stream)) ^^^ (counter * 64 + BitVec.ofNat 64 lane))
  toF32 (.fin false (x.toNat / 2 ^ 40) (-24))

/-- R149: VRNG. -/
def execVrng (t : Tid) (i : RoomIns) (s : State) : Out1 :=
  .next (runIns s t i (fun c => c.issue 4 [] [rV i.d.toNat] .unit (fun s x =>
    (s, setV (addVec x) i.d.toNat ((List.range 64).map (rngLane c.p.desc.w28 c.r.room (immF i 0 16) (sReg x i.a.toNat)))))))

/-- R140: VCMP writes mask d; m0 discards it. -/
def execVcmp (t : Tid) (i : RoomIns) (s : State) : Out1 :=
  .next (runIns s t i (fun c => c.issue 4 [rV i.a.toNat, rV i.b.toNat] [rM i.d.toNat] .unit (fun s x =>
    (s, setM (addVec x) i.d.toNat (BitVec.ofNat 64 (maskOf
      (((vReg x i.a.toNat).zip (vReg x i.b.toNat)).map (fun p => vcmpCond (immF i 0 3) p.1 p.2))))))))

/-- R148: one level of the pairwise tree. -/
def pairUp (f : Word → Word → Word) : List Word → List Word
  | a :: b :: r => f a b :: pairUp f r
  | l => l

/-- R148: the fixed pairwise tree over 64 lanes. -/
def redTree (f : Word → Word → Word) (w : List Word) : Word := ((Nat.repeat (pairUp f) 6 w).getD 0 0)

/-- R140: the operation of a VRED. -/
def redOp (n : Nat) : Word → Word → Word := if n = 0 then f32Add else if n = 1 then f32Max else f32Min

/-- R148: VRED: sd = the reduction's bits, zero-extended. -/
def execVred (t : Tid) (i : RoomIns) (s : State) : Out1 :=
  .next (runIns s t i (fun c => c.seq [rV i.a.toNat] [] (fun s x =>
    (s, setS (addVec x) i.d.toNat ((redTree (redOp (immF i 0 2)) (vReg x i.a.toNat)).setWidth 64)))))

/-! ## Vector loads and stores (R140, R161) -/

/-- R140, R161: VLD: 64 elements of format c, widened. -/
def execVld (t : Tid) (i : RoomIns) (s : State) : Out1 :=
  .next (runIns s t i (fun c =>
    let a := spadOff c.th i
    let f := i.c.toNat
    let n := 2 * groupBytes f
    if !c.inSpad a n 8 then c.refuse 0x0100 a
    else c.issue 4 [rSpad a n] [rV i.d.toNat] .unit (fun s x =>
      (s, setV (addVec x) i.d.toNat (unpackF32 f (memRead s.mem (spadPa c.r a) n) 2)))))

/-- R140, R161, R163: VST: 64 elements of vd converted to format c. -/
def execVst (t : Tid) (i : RoomIns) (s : State) : Out1 :=
  .next (runIns s t i (fun c =>
    let a := spadOff c.th i
    let f := i.c.toNat
    let n := 2 * groupBytes f
    if !c.inSpad a n 8 then c.refuse 0x0100 a
    else c.issue 4 [rV i.d.toNat] [rSpad a n] .unit (fun s x =>
      ({ s with mem := memWrite s.mem (spadPa c.r a) (packF32 f (vReg x i.d.toNat) 2) }, addVec x))))

/-- R140: VLDA: rows 2i and 2i + 1 of a tile. -/
def execVlda (t : Tid) (i : RoomIns) (s : State) : Out1 :=
  .next (runIns s t i (fun c =>
    let tile := immF i 0 5
    if tile ≥ c.r.accLen then c.refuse 0x003A 0
    else c.issue 4 [rTile tile 1] [rV i.d.toNat] .unit (fun s x =>
      (s, setV (addVec x) i.d.toNat (readWords s.mem (tilePa c.r tile (64 * immF i 5 4)) 64)))))

/-- R140: VSTA: rows 2i and 2i + 1 of a tile = vd. -/
def execVsta (t : Tid) (i : RoomIns) (s : State) : Out1 :=
  .next (runIns s t i (fun c =>
    let tile := immF i 0 5
    if tile ≥ c.r.accLen then c.refuse 0x003A 0
    else c.issue 4 [rV i.d.toNat] [rTile tile 1] .unit (fun s x =>
      ({ s with mem := memWrite s.mem (tilePa c.r tile (64 * immF i 5 4)) (wordBytes (vReg x i.d.toNat)) }, addVec x))))

/-! ## Function tables (R219 to R226) -/

/-- A function table: its breakpoints as exact values, n + 1 of them, and its segments. -/
structure FnTab where
  quad   : Bool
  mono   : Nat
  reduce : Nat
  loMode : Nat
  hiMode : Nat
  inS    : Word
  outS   : Word
  yLo    : Word
  yHi    : Word
  brk    : List Fl
  seg    : List (Word × Word × Word)
deriving DecidableEq, Repr

/-- The FP32 word at an offset. -/
def wordAt (bs : List Byte) (off : Nat) : Word := BitVec.ofNat 32 (getLE bs off 4)

/-- R219, R220: the table of an image. -/
def fnTab (bs : List Byte) : FnTab :=
  let h := getLE bs 0 4
  let g := getLE bs 4 4
  let n := bits g 0 7
  let pwl := bits h 16 2 = 1
  let quad := bitOf h 18
  let w := signed (bits g 8 8) 8
  let xlo := ofF32 (wordAt bs 8)
  { quad := quad, mono := bits h 19 2, reduce := bits h 21 3, loMode := bits g 16 2, hiMode := bits g 18 2,
    inS := wordAt bs 0xC, outS := wordAt bs 0x10, yLo := wordAt bs 0x14, yHi := wordAt bs 0x18,
    brk := if pwl then xlo :: (List.range n).map (fun i => ofF32 (wordAt bs (0x40 + 4 * i)))
      else (List.range (n + 1)).map (fun i => xlo.add (.fin false i w)),
    seg := (List.range n).map (fun i =>
      if pwl then (wordAt bs (0x80 + 8 * i), wordAt bs (0x84 + 8 * i), 0)
      else if quad then (wordAt bs (0x40 + 12 * i), wordAt bs (0x44 + 12 * i), wordAt bs (0x48 + 12 * i))
      else (wordAt bs (0x40 + 8 * i), wordAt bs (0x44 + 8 * i), 0)) }

/-- R220: b_i. -/
def FnTab.b (f : FnTab) (i : Nat) : Fl := f.brk.getD i .nan

/-- R222: the segment's polynomial at t. -/
def FnTab.poly (f : FnTab) (i : Nat) (t : Word) : Word :=
  let g := f.seg.getD i (0, 0, 0)
  if f.quad then f32Fma (f32Fma g.2.2 t g.2.1) t g.1 else f32Fma g.2.1 t g.1

/-- R221: w_i = RNE32(b_{i+1} − b_i). -/
def FnTab.w (f : FnTab) (i : Nat) : Word := toF32 ((f.b (i + 1)).add (f.b i).neg)

/-- R223: the clamp against the end value of the segment before. -/
def seamWith (mono : Nat) (y e : Word) : Word := if mono = 1 then f32Max y e else if mono = 2 then f32Min y e else y

/-- R221: the end value e_i, in ascending i. -/
def FnTab.endValue (f : FnTab) : Nat → Word
  | 0 => f.poly 0 (f.w 0)
  | i + 1 => seamWith f.mono (f.poly (i + 1) (f.w (i + 1))) (f.endValue i)

/-- R223: the seam clamp. -/
def FnTab.seam (f : FnTab) (i : Nat) (y : Word) : Word :=
  match i with
  | 0 => y
  | j + 1 => seamWith f.mono y (f.endValue j)

/-- R222: the reduction of an input: a special result, or r and k. -/
inductive Reduced
  | special (w : Word)
  | at (r : Fl) (k : Int)
deriving DecidableEq, Repr

/-- floor of an exact finite value. -/
def floorOf (neg : Bool) (m : Nat) (e : Int) : Int :=
  let v := sgn neg m
  if e ≥ 0 then v * (2 ^ e.toNat : Nat) else v / (2 ^ (-e).toNat : Nat)

def negInf : Word := 0xFF800000
def posInf : Word := 0x7F800000
def qNan : Word := 0x7FC00000

/-- R222: EXP2's row. -/
def reduceExp2 : Fl → Reduced
  | .nan => .special qNan
  | .inf neg => .special (if neg then 0 else posInf)
  | .fin neg m e =>
    let x := Fl.fin neg m e
    if x.cmp (.fin false 128 0) ≥ 0 then .special posInf
    else if x.cmp (.fin true 150 0) < 0 then .special 0
    else
      let k := floorOf neg m e
      .at (x.add (ofExact (-k) 0)) k

/-- R222: LOG2's row. -/
def reduceLog2 : Fl → Reduced
  | .nan => .special qNan
  | .inf neg => .special (if neg then qNan else posInf)
  | .fin _ 0 _ => .special negInf
  | .fin neg m e => if neg then .special qNan else .at (.fin false m (-(Nat.log2 m : Int))) ((Nat.log2 m : Int) + e)

/-- R222: RSQRT's row. -/
def reduceRsqrt : Fl → Reduced
  | .nan => .special qNan
  | .inf neg => .special (if neg then qNan else 0)
  | .fin neg 0 _ => .special (if neg then negInf else posInf)
  | .fin neg m e =>
    let k := ((Nat.log2 m : Int) + e) / 2
    if neg then .special qNan else .at (.fin false m (e - 2 * k)) k

/-- R222: RECIP's row. -/
def reduceRecip : Fl → Reduced
  | .nan => .special qNan
  | .inf neg => .special (if neg then 0x80000000 else 0)
  | .fin neg 0 _ => .special (if neg then negInf else posInf)
  | .fin _ m e => .at (.fin false m (-(Nat.log2 m : Int))) ((Nat.log2 m : Int) + e)

/-- R222: the reduction that a table names. -/
def reduceOf (n : Nat) (x : Fl) : Reduced :=
  match n with
  | 1 => reduceExp2 x
  | 2 => reduceLog2 x
  | 3 => reduceRsqrt x
  | 4 => reduceRecip x
  | _ => .at x 0

/-- A value times 2^k. -/
def scale2 (x : Fl) (k : Int) : Fl :=
  match x with
  | .fin n m e => .fin n m (e + k)
  | y => y

/-- R222: post. -/
def postOf (n : Nat) (y : Word) (k : Int) (x : Fl) : Word :=
  match n with
  | 1 => toF32 (scale2 (ofF32 y) k)
  | 2 => toF32 ((ofF32 y).add (ofExact k 0))
  | 3 => toF32 (scale2 (ofF32 y) (-k))
  | 4 =>
    let z := toF32 (scale2 (ofF32 y) (-k))
    if x.isNeg then z ^^^ 0x80000000 else z
  | _ => y

/-- The greatest index below `n` whose breakpoint is at most r. -/
def segIndex (f : FnTab) (r : Fl) : Nat → Nat
  | 0 => 0
  | i + 1 => if (f.b i).cmp r ≤ 0 then i else segIndex f r i

/-- Is the value finite? -/
def Fl.isFin : Fl → Bool
  | .fin _ _ _ => true
  | _ => false

/-- R222: the segment and t of a reduced input, or a constant result. -/
def FnTab.place (f : FnTab) (r : Fl) : Except Word (Nat × Word) :=
  let n := f.seg.length
  if r.cmp (f.b 0) < 0 then
    (if f.loMode = 1 then .error f.yLo
     else .ok (0, if f.loMode = 2 && r.isFin then toF32 (r.add (f.b 0).neg) else 0))
  else if r.cmp (f.b n) ≥ 0 then
    (if f.hiMode = 1 then .error f.yHi
     else .ok (n - 1, if f.hiMode = 2 && r.isFin then toF32 (r.add (f.b (n - 1)).neg) else f.w (n - 1)))
  else
    let i := segIndex f r n
    .ok (i, toF32 (r.add (f.b i).neg))

/-- R222: fn_eval. -/
def FnTab.eval (f : FnTab) (x0 : Word) : Word :=
  if (ofF32 x0).isNan then qNan
  else
    let x := if f.inS = 0x3F800000 then x0 else f32Mul x0 f.inS
    match reduceOf f.reduce (ofF32 x) with
    | .special w => w
    | .at r k =>
      match f.place r with
      | .error w => w
      | .ok (i, t) =>
        let y := postOf f.reduce (f.seam i (f.poly i t)) k (ofF32 x)
        if f.outS = 0x3F800000 then y else f32Mul y f.outS

/-- R219, R226: the header of a built-in table's image: reduce, mono, segments, w_log2, x_lo, in_scale, out_scale. -/
def builtinHeader (reduce mono n w : Nat) (xlo inS outS : Nat) : List Byte :=
  padTo (leBytes (1 + 2 ^ 18 + mono * 2 ^ 19 + reduce * 2 ^ 21) 4 ++ leBytes (n + w * 2 ^ 8) 4 ++ leBytes xlo 4 ++ leBytes inS 4
    ++ leBytes outS 4) 64

/-- Finite FP32 words. -/
def wordFinite (w : Word) : Bool := (ofF32 w).isFin

/-- R221: a segment of width `w`: finite coefficients, and slopes at both its ends that fit `mono`, computed exactly. -/
def segOk (mono : Nat) (w : Fl) (g : Word × Word × Word) : Bool :=
  let c1 := ofF32 g.2.1
  let c := c1.add (((Fl.fin false 2 0).mul (ofF32 g.2.2)).mul w)
  let z := Fl.fin false 0 0
  wordFinite g.1 && wordFinite g.2.1 && wordFinite g.2.2
  && (if mono = 1 then decide (0 ≤ c1.cmp z) && decide (0 ≤ c.cmp z)
      else if mono = 2 then decide (c1.cmp z ≤ 0) && decide (c.cmp z ≤ 0) else true)

/-- R226: a segment of a built-in table. Its coefficients are free (Config.builtinCoef) but for what the rules say of them: a bundle
is verified only with tables that pass R221, so a segment that would not pass is none of a bundle's, and EXP2 and EXP return
exactly 1.0 for ±0, so segment 0 of table 0 starts at 1.0 (DESIGN CHOICE 143). -/
def builtinSeg (t mono i : Nat) (w : Fl) : Word × Word × Word :=
  let c0 := if t = 0 ∧ i = 0 then 0x3F800000 else Config.builtinCoef t i 0
  let g := (c0, Config.builtinCoef t i 1, Config.builtinCoef t i 2)
  if segOk mono w g then g else (if wordFinite c0 then c0 else 0, 0, 0)

/-- R226: the quadratic segments of a built-in table, `n` of them, of width 2 to the `w`. -/
def builtinSegs (t mono n : Nat) (w : Int) : List Byte :=
  ((List.range n).map (fun i =>
    let g := builtinSeg t mono i (.fin false 1 w)
    leBytes g.1.toNat 4 ++ leBytes g.2.1.toNat 4 ++ leBytes g.2.2.toNat 4)).flatten

/-- R226: the 1 KiB image of a built-in table. Tables 1 and 3 are tables 0 and 2 with a scale. -/
def builtinImage (t : Nat) : List Byte :=
  padTo (match t with
    | 0 => builtinHeader 1 1 64 250 0 0x3F800000 0x3F800000 ++ builtinSegs 0 1 64 (-6)
    | 1 => builtinHeader 1 1 64 250 0 0x3FB8AA3B 0x3F800000 ++ builtinSegs 0 1 64 (-6)
    | 2 => builtinHeader 2 1 64 250 0x3F800000 0x3F800000 0x3F800000 ++ builtinSegs 2 1 64 (-6)
    | 3 => builtinHeader 2 1 64 250 0x3F800000 0x3F800000 0x3F317218 ++ builtinSegs 2 1 64 (-6)
    | 4 => builtinHeader 3 2 48 252 0x3F800000 0x3F800000 0x3F800000 ++ builtinSegs 4 2 48 (-4)
    | _ => builtinHeader 4 2 64 250 0x3F800000 0x3F800000 0x3F800000 ++ builtinSegs 5 2 64 (-6)) 1024

/-- Strictly ascending. -/
def ascending : List Fl → Bool
  | [] => true
  | [_] => true
  | a :: b :: r => decide (a.cmp b < 0) && ascending (b :: r)

/-- R220: the domain that a reduction needs. -/
def domainOk (f : FnTab) : Bool :=
  let n := f.seg.length
  let lo := f.b 0
  let hi := f.b n
  let is := fun (x : Fl) (v : Nat) => x.cmp (.fin false v 0) == 0
  f.reduce == 0 || (f.loMode == 0 && f.hiMode == 0
    && (if f.reduce = 1 then is lo 0 && is hi 1 else if f.reduce = 3 then is lo 1 && is hi 4 else is lo 1 && is hi 2))

/-- R221: a segment's coefficients and slopes. -/
def monoOk (f : FnTab) (i : Nat) : Bool := segOk f.mono ((f.b (i + 1)).add (f.b i).neg) (f.seg.getD i (0, 0, 0))

/-- R219 to R221: a table's fields, values and slopes: the check of a plan's tables, and of a bundle's built-in ones. -/
def planTableOk (t : List Byte) : Bool :=
  let f := fnTab t
  let kind := fieldAt t 0 16 2
  let n := fieldAt t 4 0 7
  let w := signed (fieldAt t 4 8 8) 8
  getLE t 0 2 == 1 && decide (kind ≤ 1) && (kind == 0 || !f.quad) && f.mono != 3 && decide (f.reduce ≤ 4) && f.loMode != 3 && f.hiMode != 3
  && (if kind = 1 then decide (2 ≤ n ∧ n ≤ 16) else decide (1 ≤ n ∧ n ≤ 64) && decide (-40 ≤ w ∧ w ≤ 40))
  && [wordAt t 8, f.inS, f.outS, f.yLo, f.yHi].all wordFinite && f.brk.all (·.isFin)
  && ascending f.brk && domainOk f && (List.range n).all (monoOk f)

/-- R221: the built-in tables 0 to 5 pass the checks of a plan's tables. -/
def builtinsOk : Bool := (List.range 6).all (fun t => planTableOk (builtinImage t))

/-- R222, R226: a built-in table on a lane. -/
def builtinEval (t : Nat) (x : Word) : Word := (fnTab (builtinImage t)).eval x

/-- R217, R218: the image of a table id, as the wing table store holds it. -/
def tableImage (b : PlanBody) (id : Nat) : List Byte := if id < 128 then builtinImage id else padTo (b.tables.getD (id - 128) []) 1024

/-- R222, R224: FN. A slot without a table of the plan gives NaN. -/
def execFnTable (t : Tid) (i : RoomIns) (s : State) : Out1 :=
  .next (runIns s t i (fun c =>
    let slot := immF i 0 3
    c.issue 5 [rV i.a.toNat, { space := .bank, lo := slot, hi := slot + 1 }] [rV i.d.toNat] .unit (fun s x =>
      let f := fnTab (memRead s.mem (activePa c.r slot) 1024)
      (s, setV (addFnu x) i.d.toNat ((vReg x i.a.toNat).map (fun w => if (aGet x.active slot).isSome then f.eval w else qNan))))))

/-! ## Micro-programs (R226 to R228) -/

/-- A micro-program: its constants, its operations and the temporary that holds the result. -/
structure Micro where
  consts : List Word
  ops    : List Word
  result : Nat
deriving DecidableEq, Repr

/-- R228: the word of a micro-operation. -/
def microWord (op dst a b c : Nat) : Word := BitVec.ofNat 32 (op + dst * 2 ^ 4 + a * 2 ^ 7 + b * 2 ^ 12 + c * 2 ^ 17)

/-- R226: the built-in micro-programs. Sources 0 to 7 are temporaries, 8 on are constants. -/
def builtinMicro (id : Nat) : Micro :=
  match id with
  | 0 => ⟨[0xBFB8AA3B, 0x3F800000], [microWord 2 1 0 8 0, microWord 6 1 1 0 0, microWord 0 1 1 9 0, microWord 8 1 1 0 0], 1⟩
  | 1 => ⟨[0x4038AA3B, 0x3F800000, 0xC0000000],
      [microWord 2 1 0 8 0, microWord 6 1 1 0 0, microWord 0 1 1 9 0, microWord 8 1 1 0 0, microWord 3 1 10 1 9], 1⟩
  | 2 => ⟨[0xBFB8AA3B, 0x3F800000],
      [microWord 2 1 0 8 0, microWord 6 1 1 0 0, microWord 0 1 1 9 0, microWord 8 1 1 0 0, microWord 2 1 0 1 0], 1⟩
  | 3 => ⟨[0xBDD2D3E8, 0xC0135761, 0x3F800000],
      [microWord 2 1 0 0 0, microWord 3 1 1 8 9, microWord 2 1 0 1 0, microWord 6 1 1 0 0, microWord 0 1 1 10 0,
       microWord 8 1 1 0 0, microWord 2 1 0 1 0], 1⟩
  | 4 => ⟨[0x3FB8AA3B, 0x3F800000, 0x3F317218, 0x41A00000],
      [microWord 2 1 0 8 0, microWord 6 1 1 0 0, microWord 0 1 1 9 0, microWord 7 1 1 0 0, microWord 2 1 1 10 0,
       microWord 10 1 11 0 0], 1⟩
  | _ => ⟨[0], [microWord 9 1 0 0 0, microWord 2 1 0 1 0, microWord 11 1 0 8 0], 1⟩

/-- R227: the micro-program of a record. -/
def microOf (bs : List Byte) : Micro :=
  { consts := (List.range 16).map (fun j => wordAt bs (8 + 4 * j)), result := fieldAt bs 0 20 3,
    ops := (List.range (fieldAt bs 0 16 4)).map (fun j => wordAt bs (0x48 + 4 * j)) }

/-- R227: the micro-program of an id. -/
def microProg (b : PlanBody) (id : Nat) : Micro := if id < 32 then builtinMicro id else microOf (b.micros.getD (id - 32) [])

/-- R228: the value of a source. -/
def microSrc (k ts : List Word) (n : Nat) : Word := if n < 8 then ts.getD n 0 else k.getD (n - 8) 0

/-- R228: one micro-operation on the temporaries. -/
def microStep (k : List Word) (ts : List Word) (w : Word) : List Word :=
  let dst := wbits w 4 3
  let a := microSrc k ts (wbits w 7 5)
  let b := microSrc k ts (wbits w 12 5)
  let c := microSrc k ts (wbits w 17 5)
  let v := match wbits w 0 4 with
    | 0 => f32Add a b
    | 1 => f32Sub a b
    | 2 => f32Mul a b
    | 3 => f32Fma a b c
    | 4 => f32Max a b
    | 5 => f32Min a b
    | 6 => builtinEval 0 a
    | 7 => builtinEval 2 a
    | 8 => builtinEval 5 a
    | 9 => builtinEval 4 a
    | 10 => if vcmpCond 2 a b then c else ts.getD dst 0
    | 11 => if vcmpCond 0 a b then c else ts.getD dst 0
    | _ => if (ofF32 a).isNan then qNan else BitVec.ofNat 32 (wbits a 0 31)
  upd ts dst (fun _ => v)

/-- R227: a micro-program on one lane. -/
def Micro.eval (m : Micro) (x : Word) : Word := (m.ops.foldl (microStep m.consts) (x :: List.replicate 7 0)).getD m.result 0

/-- R227: FNM. -/
def execFnMicro (t : Tid) (i : RoomIns) (s : State) : Out1 :=
  .next (runIns s t i (fun c =>
    let m := microProg c.b (immF i 0 6)
    c.issue 5 [rV i.a.toNat] [rV i.d.toNat] .unit (fun s x => (s, setV (addFnu x) i.d.toNat ((vReg x i.a.toNat).map m.eval)))))

/-! ## Row statistics (R229) -/

/-- R229: a fold. -/
def foldHalves (on : Bool) (v : List Word) : List Word :=
  if on then
    let h := ((v.take 32).zip (v.drop 32)).map (fun p => f32Add p.1 p.2)
    h ++ h
  else v

/-- R229: RNE32(1 / n). -/
def recipNat (n : Nat) : Word := toF32 ((Fl.fin false 1 0).div (.fin false n 0))

/-- R229: vd and v(d + 1) after modes 2 to 5 with n nonzero. -/
def rstatEnd (mode n : Nat) (halves : Bool) (eps : Word) (u w : List Word) : List Word × List Word :=
  let rn := recipNat n
  let zero := List.replicate 64 (0 : Word)
  let rs := builtinEval 4
  match mode with
  | 2 => ((foldHalves halves u).map (fun x => f32Mul x rn), zero)
  | 3 =>
    let m := (foldHalves halves u).map (fun x => f32Mul x rn)
    let v := (m.zip (foldHalves halves w)).map (fun p => f32Max 0 (f32Fma (p.1 ^^^ 0x80000000) p.1 (f32Mul p.2 rn)))
    (m, v.map (fun x => rs (f32Add x eps)))
  | 4 => (u, (foldHalves halves w).map (fun x => rs (f32Fma x rn eps)))
  | _ => (zero, (foldHalves halves w).map (fun x => rs (f32Fma x rn eps)))

/-- R229: RSTAT. -/
def execRstat (t : Tid) (i : RoomIns) (s : State) : Out1 :=
  .next (runIns s t i (fun c =>
    let mode := immF i 0 3
    let d := i.d.toNat
    let eps : Word := BitVec.ofNat 32 (immF i 16 16 * 65536)
    c.issue 5 ([rV d, rV (d + 1)] ++ (if mode < 2 then [rV i.a.toNat] else [])) [rV d, rV (d + 1)] .unit (fun s x =>
      let u := vReg x d
      let w := vReg x (d + 1)
      let va := vReg x i.a.toNat
      let n := (sReg x i.a.toNat).toNat
      let (u', w') :=
        if mode = 0 then ((u.zip va).map (fun p => f32Add p.1 p.2), (va.zip w).map (fun p => f32Fma p.1 p.1 p.2))
        else if mode = 1 then
          let dv := (va.zip u).map (fun p => f32Sub p.1 p.2)
          (u, (dv.zip w).map (fun p => f32Fma p.1 p.1 p.2))
        else if n = 0 then (List.replicate 64 0, List.replicate 64 0)
        else rstatEnd mode n (bitOf i.imm.toNat 3) eps u w
      (s, setV (setV (addFnu x) d u') (d + 1) w'))))

/-! ## Table loads (R225) -/

/-- R225: TBL_LOAD fills the inactive bank of a slot. -/
def execTblLoad (t : Tid) (i : RoomIns) (s : State) : Out1 :=
  .next (runIns s t i (fun c =>
    let slot := immF i 0 3
    let id := immF i 8 10
    c.issue 5 [] [{ space := .bank, lo := 8 + slot, hi := 9 + slot }] .unit (fun s x =>
      ({ s with mem := memWrite s.mem (inactivePa c.r slot) (tableImage c.b id) },
       { (addFnu x) with filled := aSet x.filled slot id }))))

end Sys2Proof.Machine
end

