-- ==== Sys2Proof/Machine/Move.lean ====
section
/-! DEFINITION. The move unit's transfers: wing DMA with the lossy format (R212 to R214, R293 to R299), the wall (R154, R195 to
R198), pantry flags, atomics and reductions (R152, R153, R301, R302). -/
namespace Sys2Proof.Machine

/-! ## The lossy feature-map format (R212 to R214) -/

/-- R212: F and M, and the element bits, of a rate (1 for 2:1, 2 for 4:1). -/
def lossyF (rate : Nat) : Int := if rate = 1 then 5 else 1
def lossyM (rate : Nat) : Nat := if rate = 1 then 63 else 3
def lossyBits (rate : Nat) : Nat := if rate = 1 then 7 else 3
/-- R212: bytes of an encoded block. -/
def lossyBlock (rate : Nat) : Nat := if rate = 1 then 32 else 16

/-- R213: the shift of a group of four. -/
def lossyShift (x : Int) (vs : List Fl) : Nat :=
  match amaxOf vs with
  | .fin _ 0 _ => 7
  | a => min 7 (x - a.exponent).toNat

/-- R213: a 64-byte slice of the 16-bit format encoded. -/
def lossyEncode (rate fmt : Nat) (bs : List Byte) : List Byte :=
  let xs := (groupCodes fmt bs).map (decodeElem fmt)
  let eb := lossyBits rate
  if blockBad xs then leBytes 0xFF (lossyBlock rate)
  else
    let a := amaxOf xs
    let x : Int := if a.isZero then -120 else max (-120) a.exponent
    let shs := (List.range 8).map (fun j => lossyShift x ((xs.drop (4 * j)).take 4))
    let es := (enum xs).map (fun p => match p.2 with
      | .fin n m e =>
        let q := x - ((shs.getD (p.1 / 4) 0 : Nat) : Int) - lossyF rate
        min (lossyM rate) (quantize m e q) + b2n n * 2 ^ (eb - 1)
      | _ => 0)
    leBytes ((x + 127).toNat + 2 ^ 8 * packBits 3 shs + 2 ^ 32 * packBits eb es) (lossyBlock rate)

/-- R214: a block decoded into a 64-byte slice of the 16-bit format. -/
def lossyDecode (rate fmt : Nat) (bs : List Byte) : List Byte :=
  let n := leNat bs
  let eb := lossyBits rate
  let e := bits n 0 8
  packGroup fmt ((List.range 32).map (fun i =>
    if e = 0xFF then nanCode fmt
    else
      let c := bits n (32 + eb * i) eb
      convert fmt (.fin (bitOf c (eb - 1)) (c % 2 ^ (eb - 1)) ((e : Int) - 127 - (bits n (8 + 3 * (i / 4)) 3 : Nat) - lossyF rate))))

/-! ## DMA descriptors (R293) -/

structure Dma where
  shift : Bool
  lossy : Nat
  fmt   : Nat
  piece : Nat
  n1    : Nat
  n2    : Nat
  s1c   : Nat
  s1s   : Nat
  s2c   : Nat
  s2s   : Nat
  p0    : Int
  step  : Nat
  pLen  : Nat
  late  : Nat
  stat  : Nat
deriving DecidableEq, Repr

def dmaOf (bs : List Byte) : Dma :=
  { shift := fieldAt bs 0 8 2 = 1, lossy := fieldAt bs 0 10 2, fmt := fieldAt bs 0 12 4, piece := getLE bs 4 4,
    n1 := getLE bs 8 2, n2 := getLE bs 10 2, s1c := getLE bs 0xC 4, s1s := getLE bs 0x10 4, s2c := getLE bs 0x14 4,
    s2s := getLE bs 0x18 4, p0 := signed (getLE bs 0x1C 4) 32, step := getLE bs 0x20 1, pLen := getLE bs 0x24 4,
    late := getLE bs 0x28 4, stat := getLE bs 0x2C 4 }

/-- Bytes of one inner item on the scratchpad side: a piece, or a position block. -/
def Dma.item (d : Dma) : Nat := if d.shift then d.piece * groupBytes d.fmt else d.piece

/-- R294, R295: the (i2, i1) pairs, i2 slowest. -/
def Dma.pairs (d : Dma) : List (Nat × Nat) := ((List.range d.n2).map (fun i2 => (List.range d.n1).map (fun i1 => (i2, i1)))).flatten

/-- Bytes from the lowest to the highest of the scratchpad side. -/
def Dma.span (d : Dma) : Nat := (d.n2 - 1) * d.s2s + (d.n1 - 1) * d.s1s + d.item

/-- Context bytes of a STRIDED piece. -/
def Dma.ctxPiece (d : Dma) : Nat := if d.lossy = 0 then d.piece else d.piece / 64 * lossyBlock d.lossy

/-- R295: the position that row `r` of block `j` holds; none outside the row axis. -/
def Dma.position (d : Dma) (j r : Nat) : Option Nat :=
  let p := d.p0 + (d.step : Int) * (32 * j + r : Nat)
  if 0 ≤ p ∧ p < d.pLen then some p.toNat else none

/-- R295: the context address of the slice of channel `c` that holds position `p`. -/
def Dma.sliceVa (d : Dma) (sb i2 p c : Nat) : Nat := sb + i2 * d.s2c + p / 32 * d.s1c + c * groupBytes d.fmt

/-- The context ranges that a transfer touches. -/
def Dma.ctxRanges (d : Dma) (sb : Nat) : List (Nat × Nat) :=
  if d.shift then
    (d.pairs.map (fun q => ((List.range 32).map (fun r =>
      match d.position q.2 r with
      | none => []
      | some p => [(d.sliceVa sb q.1 p 0, d.piece * groupBytes d.fmt)])).flatten)).flatten
  else d.pairs.map (fun q => (sb + q.1 * d.s2c + q.2 * d.s1c, d.ctxPiece))

/-- R294, R296: alignment of the addresses. -/
def Dma.aligned (d : Dma) (sa sb : Nat) : Bool :=
  if d.shift then true
  else if d.lossy = 0 then sa % 8 = 0 && sb % 8 = 0 else sa % 8 = 0 && sb % lossyBlock d.lossy = 0

/-- The bytes of one item of a DMA_IN. -/
def Dma.inItem (d : Dma) (s : State) (ctx sb : Nat) (q : Nat × Nat) : List Byte :=
  if d.shift then
    ((List.range d.piece).map (fun c => packGroup d.fmt ((List.range 32).map (fun r =>
      match d.position q.2 r with
      | none => 0
      | some p => elemCode d.fmt (readVa s ctx (d.sliceVa sb q.1 p c) (groupBytes d.fmt)) (p % 32))))).flatten
  else
    let bs := readVa s ctx (sb + q.1 * d.s2c + q.2 * d.s1c) d.ctxPiece
    if d.lossy = 0 then bs else ((pieces bs (lossyBlock d.lossy) (d.piece / 64)).map (lossyDecode d.lossy d.fmt)).flatten

/-- R294 to R296: the memory after a DMA_IN. -/
def Dma.runIn (d : Dma) (s : State) (ctx : Nat) (r : RoomRec) (sa sb : Nat) : List Host.Cell :=
  d.pairs.foldl (fun m q => memWrite m (spadPa r (sa + q.1 * d.s2s + q.2 * d.s1s)) (d.inItem s ctx sb q)) s.mem

/-- The writes of one item of a DMA_OUT: context addresses with their bytes. -/
def Dma.outItem (d : Dma) (s : State) (r : RoomRec) (sa sb : Nat) (q : Nat × Nat) : List (Nat × List Byte) :=
  let bs := memRead s.mem (spadPa r (sa + q.1 * d.s2s + q.2 * d.s1s)) d.item
  if d.shift then
    let eb := fmtBits d.fmt / 8
    ((enum (pieces bs (groupBytes d.fmt) d.piece)).map (fun g => (List.range 32).filterMap (fun w =>
      (d.position q.2 w).map (fun p => (d.sliceVa sb q.1 p g.1 + p % 32 * eb, slice g.2 (w * eb) eb))))).flatten
  else
    [(sb + q.1 * d.s2c + q.2 * d.s1c,
      if d.lossy = 0 then bs else ((pieces bs 64 (d.piece / 64)).map (lossyEncode d.lossy d.fmt)).flatten)]

/-- R294 to R296: the memory after a DMA_OUT. -/
def Dma.runOut (d : Dma) (s : State) (ctx : Nat) (r : RoomRec) (sa sb : Nat) : List Host.Cell :=
  ((d.pairs.map (d.outItem s r sa sb)).flatten).foldl (fun m w => writeVaMem s ctx w.1 m w.2) s.mem

/-! ## A room's accesses to one context address keep their order (R16, R127, R152) -/

/-- Do two runs of context bytes overlap? -/
def ctxMeet (a b : Nat × Nat) : Bool := decide (a.1 < b.1 + b.2) && decide (b.1 < a.1 + a.2)

/-- R302: bytes of an element of a reduction's result. -/
def predOut (bs : List Byte) : Nat := if fieldAt bs 0 10 2 = 0 then 4 else 2

/-- R302: the context bytes that a reduction writes: its result and its flag. -/
def predCtx (bs : List Byte) : List (Nat × Nat) := [(getLE bs 0x10 8, getLE bs 8 4 * predOut bs), (getLE bs 0x18 8, 8)]

/-- Context bytes that issued DMA_INs with a late limit have still to read. -/
def pendingReads (x : Thread) : List (Nat × Nat) := (x.lates.map (fun l => (dmaOf l.desc).ctxRanges l.sb)).flatten

/-- Context bytes that issued reductions, and atomics where they count, have still to reach. -/
def pendingWrites (x : Thread) (atoms : Bool) : List (Nat × Nat) :=
  (x.predq.map (fun q => predCtx q.desc)).flatten ++ (if atoms then x.atoms.map (fun a => (a.va, if a.w32 then 4 else 8)) else [])

/-- R16, R127: must an access wait for an issued one of the room to the same context address? Atomics among themselves keep their
order in their queue. -/
def ctxBusy (x : Thread) (atoms : Bool) (reads writes : List (Nat × Nat)) : Bool :=
  (pendingWrites x atoms).any (fun w => (reads ++ writes).any (ctxMeet w)) || (pendingReads x).any (fun r => writes.any (ctxMeet r))

/-- R152: is a write of the room that an earlier FENCE WRITES orders before later ones not yet performed? -/
def fencedOff (x : Thread) : Bool := x.outs.any (·.fenced)

/-- R297: the checks at issue; the address of the failure, if any. -/
def Dma.bad (d : Dma) (c : RC) (sa sb : Nat) (out : Bool) : Option Nat :=
  if !(c.inSpad sa d.span 1) then some sa
  else if d.late ≠ 0 && !(c.inSpad d.stat 64 64) then some d.stat
  else if !d.aligned sa sb then some sb
  else ((d.ctxRanges sb).find? (fun r => r.1 ≥ 2 ^ 48 || !planRangeOk c.s c.t.key r.1 r.2 out)).map (·.1)

/-- R297: the scratchpad range from the lowest to the highest byte, the status line included. -/
def Dma.range (d : Dma) (sa : Nat) : Range :=
  if d.late = 0 then rSpad sa d.span
  else { space := .spad, lo := min sa d.stat, hi := max (sa + d.span) (d.stat + 64) }

/-! ## Replayed choices (R389) -/

/-- R389: is an entry in the plan's replay list? -/
def replayHas (p : Plan) (kind step w8 wC w10 : Nat) : Bool :=
  p.replay.any (fun e => getLE e 0 1 == kind && fieldAt e 4 0 24 == step && fieldAt e 8 0 16 == w8 && getLE e 0xC 4 == wC && getLE e 0x10 4 == w10)

/-- R389: does the plan run with a replay list? -/
def replaying (p : Plan) : Bool := p.body.any (fun b => b.replayCount != 0)

/-! ## DMA_IN and DMA_OUT -/

/-- R299: the occurrence of the DMA_IN at this program counter within the step. -/
def occOf (x : Thread) : Nat := (aGet x.occs x.pc).getD 0

/-- R299: the status line. -/
def statusWrite (m : List Host.Cell) (r : RoomRec) (d : Dma) (late : Bool) : List Host.Cell :=
  if d.late = 0 then m else memWrite m (spadPa r d.stat) (BitVec.ofNat 8 (b2n late) :: zeros 63)

/-- R299: a late transfer writes zero over its whole destination. -/
def lateZero (m : List Host.Cell) (r : RoomRec) (d : Dma) (sa : Nat) : List Host.Cell :=
  d.pairs.foldl (fun m q => memWrite m (spadPa r (sa + q.1 * d.s2s + q.2 * d.s1s)) (zeros d.item)) m

/-- R299: the fault record, the record's choice and the degraded outputs of a late transfer. -/
def lateFetch (s : State) (t : Tid) (k pc occ : Nat) : State :=
  let s1 := raisePlan s t.key { code := 0x0106, step := k, room := some t.room, slot := some (slotOf s t.room), d0 := pc, d1 := occ } 127
  let s2 := addItem s1 t.key 8 (choiceBody 3 k t.room pc occ)
  modPlan s2 t.key (fun p => { p with run := p.run.map (fun r => { r with lateFetch := true }) })

/-- R140, R293 to R299: DMA_IN. A transfer with a late limit stays in progress until it completes or expires. -/
def execDmaIn (t : Tid) (i : RoomIns) (s : State) : Out1 :=
  .next (runIns s t i (fun c =>
    let bs := c.desc i.imm.toNat 64
    let d := dmaOf bs
    let sa := (sReg c.th i.a.toNat).toNat
    let sb := (sReg c.th i.b.toNat).toNat
    let occ := occOf c.th
    let forced := replaying c.p && d.late ≠ 0 && replayHas c.p 3 c.k c.r.room c.th.pc occ
    let limited := d.late ≠ 0 && !replaying c.p
    match d.bad c sa sb false with
    | some a => c.refuse 0x0100 a
    | none =>
      if ctxBusy c.th true (d.ctxRanges sb) [] then c.s
      else c.issue 6 [] [d.range sa] (if limited then .late else .unit) (fun s x =>
        let x1 := addMov (noteVa s { x with occs := aSet x.occs x.pc (occ + 1) } (if forced then [] else d.ctxRanges sb) [])
        if forced then
          (lateFetch { s with mem := statusWrite (lateZero s.mem c.r d sa) c.r d true } t c.k x.pc occ, x1)
        else if limited then
          (s, { x1 with lates := x1.lates ++ [{ desc := bs, sa := sa, sb := sb, pc := x.pc, occ := occ }] })
        else ({ s with mem := statusWrite (d.runIn s c.ctx c.r sa sb) c.r d false }, x1))))

/-- R140, R293 to R298: DMA_OUT. -/
def execDmaOut (t : Tid) (i : RoomIns) (s : State) : Out1 :=
  .next (runIns s t i (fun c =>
    let d := dmaOf (c.desc i.imm.toNat 64)
    let sa := (sReg c.th i.a.toNat).toNat
    let sb := (sReg c.th i.b.toNat).toNat
    match d.bad c sa sb true with
    | some a => c.refuse 0x0100 a
    | none =>
      if ctxBusy c.th true [] (d.ctxRanges sb) || fencedOff c.th then c.s
      else c.issue 6 [d.range sa] [] .unit (fun s x => ({ s with mem := d.runOut s c.ctx c.r sa sb }, addMov (noteVa s x [] (d.ctxRanges sb))))))

/-- The room record of a thread. -/
def thRec (s : State) (t : Tid) : Option RoomRec := ((getPlan s t.key).bind (·.body)).bind (fun b => roomRec b t.room)

/-- The step that a plan runs. -/
def stepOf (s : State) (k : PlanKey) : Nat := ((getPlan s k).bind (·.run)).elim 0xFFFFFF (·.k)

/-- R298, R299: the oldest limited DMA_IN of a room ends, on time or late. -/
def lateEnd (s : State) (t : Tid) (late : Bool) : State :=
  match getTh s t, thRec s t with
  | some x, some r =>
    match x.lates with
    | [] => s
    | l :: rest =>
      let d := dmaOf l.desc
      let m := if late then lateZero s.mem r d l.sa else d.runIn s t.key.ctx r l.sa l.sb
      let s1 := modTh { s with mem := statusWrite m r d late } t (fun x =>
        { x with lates := rest, outs := dropFirst (fun o => o.ends == .late) x.outs })
      if late then lateFetch s1 t (stepOf s t.key) l.pc l.occ else s1
  | _, _ => s

/-! ## The wall (R154, R195 to R200) -/

/-- R195: the neighbour of a logical room in a direction; none at a wing's edge. -/
def neighbour (room dir : Nat) : Option Nat :=
  let p := room % 64
  match dir with
  | 0 => if p < 8 then none else some (room - 8)
  | 1 => if p ≥ 56 then none else some (room + 8)
  | 2 => if p % 8 = 7 then none else some (room + 1)
  | _ => if p % 8 = 0 then none else some (room - 1)

/-- R195: the opposite direction. -/
def opposite (dir : Nat) : Nat := match dir with
  | 0 => 1
  | 1 => 0
  | 2 => 3
  | _ => 2

/-- R198: a put toward `dir` whose halo has left, or has not left. A put still to leave declares its source bytes. -/
def putSent (dir : Nat) (o : Out) : Bool := o.ends == .wall dir && o.reads.isEmpty
def putWaits (dir : Nat) (o : Out) : Bool := o.ends == .wall dir && !o.reads.isEmpty

/-- R198: the oldest put of a sender toward `dir` that has left, or that has not, is outstanding no more. -/
def dropWall (s : State) (t : Tid) (f : Out → Bool) : State := modTh s t (fun x => { x with outs := dropFirst f x.outs })

/-- R198: the oldest halo toward `dir` leaves, and its source bytes are free. -/
def leaveWall (s : State) (t : Tid) (dir : Nat) : State :=
  modTh s t (fun x => { x with outs := updFirst (putWaits dir) (fun o => { o with reads := [] }) x.outs })

/-- R198: the wall port of a sender compares a halo with the receiver's C: sent, held or stale. -/
def sendHalo (s : State) (sender receiver : Tid) (dir : Nat) (h : Halo) : State :=
  match getTh s receiver with
  | none => s
  | some y =>
    let c := wallC y (opposite dir)
    if h.step.toNat = c + 1 then modTh (leaveWall s sender dir) receiver (fun y => { y with inbound := y.inbound ++ [(opposite dir, h)] })
    else if h.step.toNat > c + 1 then modTh s sender (fun x => { x with held := x.held ++ [(dir, h)] })
    else
      refuseRoom (dropWall s sender (putWaits dir)) receiver (stepOf s receiver.key) 0x0103 y.pc (sender.room + h.step.toNat * 2 ^ 32)

/-- R198: held puts toward `dir`, oldest first, meet a changed C. -/
def flushHeld (s : State) (sender receiver : Tid) (dir : Nat) : State :=
  match getTh s sender with
  | none => s
  | some x =>
    let mine := x.held.filter (fun p => p.1 == dir)
    let s1 := modTh s sender (fun x => { x with held := x.held.filter (fun p => p.1 != dir) })
    mine.foldl (fun s p =>
      if (getTh s sender).any (fun x => x.held.any (fun q => q.1 == dir)) then modTh s sender (fun x => { x with held := x.held ++ [p] })
      else sendHalo s sender receiver dir p.2) s1

/-- R154, R196, R198: WALL_PUT. The refusals of R154 hold for a step mark too; they come before that of the step register
(DESIGN CHOICE 125). -/
def execWallPut (t : Tid) (i : RoomIns) (s : State) : Out1 :=
  .next (runIns s t i (fun c =>
    let dir := immF i 0 2
    let n := (sReg c.th i.b.toNat).toNat
    let sa := (sReg c.th i.a.toNat).toNat
    let dst := immF i 2 30 * 4
    match (neighbour c.r.room dir).bind (fun q => roomRec c.b q) with
      | none => c.refuse 0x0100 dst
      | some q =>
        if n != 0 && !c.inSpad sa n 1 then c.refuse 0x0100 sa
        else if dst + n > q.spadLen * 16384 then c.refuse 0x0100 dst
        else if n = 0 then
          (if c.th.wall.step = 0xFFFFFFFF then c.refuse 0x0103 (c.r.room + 0xFFFFFFFF * 2 ^ 32)
           else c.issue 6 [] [] .unit (fun s x => (s, addMov { x with wall := { x.wall with step := x.wall.step + 1 } })))
        else if fencedOff c.th then c.s
        else
          let h : Halo := { step := c.th.wall.step, dst := dst, bytes := c.spad sa n }
          match holdFor c.th.outs 6 [rSpad sa n] [] with
          | none => c.s
          | some l =>
            let o : Out := { unit := 6, reads := [rSpad sa n], writes := [], ends := .wall dir }
            let s1 := putTh c.s (advance1 (addMov { c.th with outs := l ++ [o] }))
            if c.th.held.any (fun p => p.1 == dir) then modTh s1 t (fun x => { x with held := x.held ++ [(dir, h)] })
            else sendHalo s1 t { key := t.key, room := q.room } dir h))

/-- The thread goes on after a wait. -/
def resume (x : Thread) : Thread := advance1 { x with stat := .running }

/-- R197: a HALO_WAIT completes: C takes the value, and the neighbour's held puts move. -/
def haloDone (s : State) (t : Tid) (dir : Nat) (v : Word) : State :=
  let s1 := modTh s t (fun x => resume { x with wall := { x.wall with c := upd x.wall.c dir (fun c => if v.ult c then c else v) } })
  match neighbour t.room dir with
  | none => s1
  | some q => flushHeld s1 { key := t.key, room := q } t (opposite dir)

/-- R197: HALO_WAIT. -/
def execHaloWait (t : Tid) (i : RoomIns) (s : State) : Out1 :=
  .next (runIns s t i (fun c =>
    let dir := immF i 0 2
    let v := (sReg c.th i.a.toNat).setWidth 32
    if v.toNat ≤ wallF c.th dir then haloDone c.s t dir v
    else putTh c.s { c.th with stat := .waiting (.halo dir v) }))

/-- The first inbound halo from a direction. -/
def firstInbound (l : List (Nat × Halo)) (dir : Nat) : Option Halo := (l.find? (fun p => p.1 == dir)).map (·.2)

/-- R205: what the NESTs write that run while a halo overwrites a block that they read. -/
def spoiledNests (x : Thread) (h : Halo) : List Range :=
  ((x.outs.filter (fun o => o.nestR.any (rangeMeet (haloRange h)))).map (·.nestW)).flatten

/-- R197: the oldest halo under way from a direction lands: its bytes, F, and a HALO_WAIT that it
satisfies; a NEST that reads its place while it lands has unspecified results (R205). -/
def haloLand (s : State) (t : Tid) (dir : Nat) : State :=
  match getTh s t, thRec s t with
  | some x, some r =>
    match firstInbound x.inbound dir with
    | none => s
    | some h =>
      let s0 := (spoiledNests x h).foldl (freeWindow r) s
      let s1 := modTh { s0 with mem := memWrite s0.mem (spadPa r h.dst) h.bytes } t (fun x =>
        { x with inbound := dropFirst (fun p => p.1 == dir) x.inbound, landed := x.landed ++ [(dir, h)],
                 wall := { x.wall with f := upd x.wall.f dir (fun _ => h.step) } })
      let s2 := (neighbour t.room dir).elim s1 (fun q => dropWall s1 { key := t.key, room := q } (putSent (opposite dir)))
      match x.stat with
      | .waiting (.halo d v) => if d = dir && v.toNat ≤ h.step.toNat then haloDone s2 t dir v else s2
      | _ => s2
  | _, _ => s

/-! ## Pantry flags (R152, R153) -/

/-- R152: the device address of a flag; none when misaligned, unmapped, or not writable for a store. -/
def flagPa (s : State) (k : PlanKey) (va : Nat) (write : Bool) : Option Nat :=
  if va % 8 = 0 && va < 2 ^ 48 && planRangeOk s k va 8 write then paOf s k.ctx va else none

/-- R72: a flag store; one that lowers the flag counts as an ordinary write. -/
def noteFlag (s : State) (x : Thread) (va : Nat) (lowers : Bool) : Thread :=
  if lowers then noteVa s x [] [(va, 8)] else noteCtx s x [] (vaRanges .ctx [(va, 8)])

/-- R152, R153: FLAG_SET. -/
def execFlagSet (t : Tid) (i : RoomIns) (s : State) : Out1 :=
  .next (runIns s t i (fun c =>
    let va := (sReg c.th i.a.toNat).toNat
    match flagPa c.s c.t.key va true with
    | none => c.refuse 0x0100 va
    | some pa =>
      if ctxBusy c.th true [] [(va, 8)] || fencedOff c.th then c.s
      else
      let v := (sReg c.th i.b.toNat).toNat
      let x := noteFlag c.s c.th va (decide (v < leNat (memRead c.s.mem pa 8)))
      putTh { c.s with mem := memWrite c.s.mem pa (leBytes v 8) } (advance1 x)))

/-- R140: a flag's condition: at least the value, or equal to it, unsigned. -/
def flagMet (m : List Host.Cell) (pa : Nat) (v : DWord) (eq : Bool) : Bool :=
  let x := leNat (memRead m pa 8)
  if eq then x == v.toNat else decide (v.toNat ≤ x)

/-- R152, R153: FLAG_WAIT blocks the sequencer. -/
def execFlagWait (t : Tid) (i : RoomIns) (s : State) : Out1 :=
  .next (runIns s t i (fun c =>
    let va := (sReg c.th i.a.toNat).toNat
    match flagPa c.s c.t.key va false with
    | none => c.refuse 0x0100 va
    | some pa =>
      let eq := bitOf i.imm.toNat 0
      if ctxBusy c.th true [(va, 8)] [] then c.s
      else putTh c.s { (noteCtx c.s c.th (vaRanges (if eq then .ctx else .ge) [(va, 8)]) []) with
        stat := .waiting (.flag pa (sReg c.th i.b.toNat) eq) }))

/-- R153: the home slice shows the flag of the room's FLAG_WAIT. -/
def flagWaitComplete (s : State) (t : Tid) : State :=
  match getTh s t with
  | some x =>
    match x.stat with
    | .waiting (.flag pa v eq) => if alive s && !roomHeld s x && flagMet s.mem pa v eq then putTh s (resume x) else s
    | _ => s
  | none => s

/-- R153: FLAG_WAIT_COMPLETE. -/
def execFlagWaitComplete (t : Tid) (s : State) : Out1 := .next (flagWaitComplete s t)

/-! ## Pantry atomics (R301) -/

/-- R301: the new value of an atomic on a word of `n` bits. -/
def atomNew (aop n old val cmp : Nat) : Nat :=
  let lt := fun (a b : Nat) => decide (signed a n < signed b n)
  match aop with
  | 0 => (old + val) % 2 ^ n
  | 1 => old &&& val
  | 2 => old ||| val
  | 3 => old ^^^ val
  | 4 => min old val
  | 5 => max old val
  | 6 => if lt val old then val else old
  | 7 => if lt old val then val else old
  | 8 => val
  | 9 => if old = cmp then val else old
  | _ => (f32Add (BitVec.ofNat 32 old) (BitVec.ofNat 32 val)).toNat

/-- R301: PATOM. With `ret` the sequencer waits for the old value. -/
def execPatom (t : Tid) (i : RoomIns) (s : State) : Out1 :=
  .next (runIns s t i (fun c =>
    let va := (sReg c.th i.a.toNat).toNat
    let w32 := bitOf i.imm.toNat 4
    let ret := bitOf i.imm.toNat 5
    if !(va % (if w32 then 4 else 8) = 0 && va < 2 ^ 48 && planRangeOk c.s c.t.key va (if w32 then 4 else 8) true) then c.refuse 0x0100 va
    else match paOf c.s c.ctx va with
      | none => c.refuse 0x0100 va
      | some pa =>
        let a : Atom := { pa := pa, va := va, aop := immF i 0 4, w32 := w32, ret := if ret then some i.d.toNat else none,
                          val := sReg c.th i.b.toNat, cmp := sReg c.th i.d.toNat }
        let acc := [(va, if w32 then 4 else 8)]
        if ctxBusy c.th false acc acc || fencedOff c.th then c.s
        else if ret then putTh c.s (addMov { (noteVa c.s c.th acc acc) with stat := .waiting (.atom i.d.toNat), atoms := c.th.atoms ++ [a] })
        else c.issue 6 [] [] .atom (fun s x => (s, addMov { (noteVa s x acc acc) with atoms := x.atoms ++ [a] }))))

/-- R301: the slice performs the oldest atomic of a room. -/
def patomPerform (s : State) (t : Tid) : State :=
  match getTh s t with
  | none => s
  | some x =>
    match x.atoms with
    | [] => s
    | a :: rest =>
      let n := if a.w32 then 32 else 64
      let old := leNat (memRead s.mem a.pa (n / 8))
      let s1 := { s with mem := memWrite s.mem a.pa (leBytes (atomNew a.aop n old (a.val.toNat % 2 ^ n) (a.cmp.toNat % 2 ^ n)) (n / 8)) }
      match a.ret with
      | some d => putTh s1 (setS (resume { x with atoms := rest }) d (BitVec.ofNat 64 old))
      | none => putTh s1 { x with atoms := rest, outs := dropFirst (fun o => o.ends == .atom) x.outs }

/-! ## Pantry tile reductions (R173, R174, R302) -/

/-- R302: the checks of a PRED's addresses; the address that fails. -/
def predBad (c : RC) (bs : List Byte) (sa : Nat) : Option Nat :=
  let n := getLE bs 8 4
  let dst := getLE bs 0x10 8
  let fl := getLE bs 0x18 8
  if !c.inSpad sa (4 * n) 1 then some sa
  else if dst ≥ 2 ^ 48 || !planRangeOk c.s c.t.key dst (n * predOut bs) true then some dst
  else if (flagPa c.s c.t.key fl true).isNone then some fl
  else none

/-- R302: PRED. -/
def execPred (t : Tid) (i : RoomIns) (s : State) : Out1 :=
  .next (runIns s t i (fun c =>
    let bs := c.desc i.imm.toNat 64
    let sa := (sReg c.th i.a.toNat).toNat
    match predBad c bs sa with
    | some a => c.refuse 0x0100 a
    | none =>
      let n := getLE bs 8 4
      if ctxBusy c.th true [] (predCtx bs) || fencedOff c.th then c.s
      else c.issue 6 [rSpad sa (4 * n)] [] .pred (fun s x =>
        (s, addMov { (noteFlag s (noteVa s x [] [(getLE bs 0x10 8, n * predOut bs)]) (getLE bs 0x18 8) false) with predq := x.predq ++ [{ desc := bs, leaf := dbits (sReg x i.b.toNat) 0 9, vals := readWords s.mem (spadPa c.r sa) n }] }))))

/-- R302: elementwise combination of two nodes. -/
def predNode (rop : Nat) (a b : List Word) : List Word := (a.zip b).map (fun p => redOp rop p.1 p.2)

/-- R173: one level of the canonical tree. -/
def treeLevel {A : Type} (f : A → A → A) : List A → List A
  | a :: b :: r => f a b :: treeLevel f r
  | l => l

/-- R173: the canonical tree over the partials, in leaf order; `k` levels are enough. -/
def treeSum {A : Type} (f : A → A → A) (l : List A) : Nat → Option A
  | 0 => l.head?
  | k + 1 => treeSum f (treeLevel f l) k

/-- R302: the root of an instance whose leaves are all present, in leaf order. -/
def predRoot (q : PredInst) : List Word :=
  (treeSum (predNode (fieldAt q.desc 0 8 2)) ((sortBy (fun a b => decide (a.1 < b.1)) q.leaves).map (·.2)) 9).getD []

/-- R163, R302: the bytes of the result. -/
def predBytes (q : PredInst) : List Byte :=
  let f := fieldAt q.desc 0 10 2
  ((predRoot q).map (fun w => leBytes (convert f (ofF32 w)) (if f = 0 then 4 else 2))).flatten

/-- R302: does a contribution agree with its instance? -/
def predAgrees (q : PredInst) (r : PredReq) : Bool :=
  !q.bad && q.desc == r.desc && r.leaf < fieldAt q.desc 4 0 9 && !q.leaves.any (fun l => l.1 == r.leaf)

/-- R302: the result and then the flag are written once every leaf is present; R72: a flag store that lowers the flag is an
ordinary write of the step, listed with the room whose contribution came last. -/
def predFinish (s : State) (t : Tid) (q : PredInst) : State :=
  if q.leaves.length = fieldAt q.desc 4 0 9 then
    let fl := getLE q.desc 0x18 8
    let s := if getLE q.desc 0x20 8 < leNat (readVa s q.key.ctx fl 8) then modTh s t (fun x => noteFlag s x fl true) else s
    writeVa (writeVa s q.key.ctx (getLE q.desc 0x10 8) (predBytes q)) q.key.ctx (getLE q.desc 0x18 8) (leBytes (getLE q.desc 0x20 8) 8)
  else s

/-- The instance that a contribution names. -/
def samePred (k : PlanKey) (red step : Nat) (q : PredInst) : Bool := q.key == k && q.redId == red && q.step == step

/-- R302: the granules that an instance of a descriptor's reduction occupies. -/
def predGranules (bs : List Byte) : Nat := cdiv (fieldAt bs 4 0 9 * getLE bs 8 4 * 4) 4096

/-- R302: the home slice of a descriptor's destination. -/
def predSlice (s : State) (k : PlanKey) (bs : List Byte) : Nat := (paOf s k.ctx (getLE bs 0x10 8)).elim 0 homeSlice

/-- R302: the granules of a slice in which a plan may stage reductions: those it books in the tick, less its pins; a step that runs
late has those that no plan books as well (R80). -/
def predRoom (s : State) (p : Plan) (slice : Nat) : Nat :=
  let n := s.tick.num.toNat
  planBooked p n 4 slice - p.body.elim 0 (fun b => pinGranules b slice) + (if p.run.any (·.late) then 30720 - booked s n 4 slice else 0)

/-- R302: does a contribution find no staging space, so that it waits at the wing switch? An instance holds its granules from its first
contribution until its root is formed. -/
def predWaits (s : State) (k : PlanKey) (red step : Nat) (bs : List Byte) : Bool :=
  let slice := predSlice s k bs
  let staged := (s.preds.filter (fun q => q.key == k && !q.bad && q.leaves.length < fieldAt q.desc 4 0 9 && predSlice s k q.desc == slice))
  !s.preds.any (fun q => q.key == k && q.redId == red && q.step == step)
  && (getPlan s k).any (fun p => decide (predRoom s p slice < sumBy staged (fun q => predGranules q.desc) + predGranules bs))

/-- R302: the oldest contribution of a room reaches its home slice, once there is staging space. -/
def predContribution (s : State) (t : Tid) : State :=
  match getTh s t with
  | none => s
  | some x =>
    match x.predq with
    | [] => s
    | r :: rest =>
      let red := getLE r.desc 2 2
      let k := stepOf s t.key
      if predWaits s t.key red k r.desc then s
      else
      let q0 := (s.preds.find? (samePred t.key red k)).getD { key := t.key, redId := red, step := k, desc := r.desc, leaves := [] }
      let s1 := modTh s t (fun x => { x with predq := rest })
      let put := fun (s : State) (q : PredInst) => { s with preds := s.preds.filter (fun p => !samePred t.key red k p) ++ [q] }
      if predAgrees q0 r then
        let q := { q0 with leaves := q0.leaves ++ [(r.leaf, r.vals)] }
        predFinish (modTh (put s1 q) t (fun x => { x with outs := dropFirst (fun o => o.ends == .pred) x.outs })) t q
      else
        raisePlan (put s1 { q0 with bad := true }) t.key
          { code := 0x0105, step := k, room := some t.room, slot := some (slotOf s t.room), d0 := red, d1 := r.leaf } 127

end Sys2Proof.Machine
end

