-- ==== Sys2Proof/Machine/Sync.lean ====
section
/-! DEFINITION. Waits of a room's sequencer and what ends them (R126, R136, R140, R152, R155): UNIT_WAIT, FENCE, the end of a
step, and the completions of outstanding instructions. -/
namespace Sys2Proof.Machine

/-- R152: is it a write that leaves the room and is not yet performed? -/
def leavingWrite (o : Out) : Bool :=
  match o.ends with
  | .atom => true
  | .pred => true
  | .wall _ => true
  | _ => false

/-- R140, R152, R155: has the wait of a sequencer come to its end? -/
def waitMet (x : Thread) : ThWait → Bool
  | .units mask => !x.outs.any (fun o => bitOf mask o.unit)
  | .fence => x.outs.isEmpty
  | .stepEnd => x.outs.isEmpty
  | .progEnd => x.outs.isEmpty
  | _ => false

/-- R340: the keys of the bound instances that are open on a room. -/
def openKeys (x : Thread) : List (Nat × Tick × Word) := (x.insts.filter (·.bound)).map (fun i => (i.coll, i.sysTick, i.seq))

/-- R342: every staging buffer of a room is FREE. -/
def freeStages (l : List ((Nat × Nat) × Stage)) : List ((Nat × Nat) × Stage) := l.map (fun q => (q.1, Stage.free))

/-- R247, R340, R342: what ends with a step on a room: walks, instances, staging states. -/
def endWork (x : Thread) : Thread :=
  { x with walks := [], insts := [], xfers := [], stages := freeStages x.stages, closed := x.closed ++ openKeys x, outs := [], lates := [], stores := [], atoms := [], predq := [],
           occs := [] }

/-- R136, R199: the kept sequencer state. -/
def keptOf (x : Thread) : Kept :=
  { regs := x.regs, preds := x.preds, pc := x.pc, calls := x.calls, reps := x.reps, wall := x.wall, active := x.active }

/-- The sequencer takes a captured state. -/
def takeKept (x : Thread) (k : Kept) : Thread :=
  { x with regs := k.regs, preds := k.preds, pc := k.pc, calls := k.calls, reps := k.reps, wall := k.wall, active := k.active,
           inbound := [], held := [],
           landed := x.landed.filter (fun p => decide (p.2.step.toNat ≤ (k.wall.f.getD p.1 0).toNat)) }

/-- R136: the sequencer returns to the state captured at the last release point. -/
def backToKept (x : Thread) : Thread := x.kept.elim x (takeKept x)

/-- R403: a restore program ends, and the sequencer is as before it. -/
def restoreEnds (x : Thread) : Thread :=
  let y := endWork x
  { (x.back.elim y (takeKept y)) with stat := .barrier, restore := false, back := none }

/-- R75: the room has executed the end of the step. -/
def roomDone (s : State) (t : Tid) : State :=
  modPlan s t.key (fun p => { p with run := p.run.map (fun r => { r with rooms := r.rooms.filter (· != t.room) }) })

/-- R155, R259, R340, R403: STEP_END or PROG_END executes; a restore program returns to the captured state. -/
def stepEnded (s : State) (x : Thread) (last : Bool) : State :=
  if x.restore then putTh s (restoreEnds x)
  else
    let s1 := putTh s (endWork (advance1 { x with stat := if last then .ended else .barrier }))
    roomDone (closeSessions s1 x.tid.key (some x.tid.room) (stepOf s x.tid.key)) x.tid

/-- The wait of a thread ends if its condition holds. -/
def settleWait (s : State) (t : Tid) : State :=
  match getTh s t with
  | none => s
  | some x =>
    match x.stat with
    | .waiting w =>
      if !alive s || roomHeld s x || !waitMet x w then s
      else match w with
        | .stepEnd => stepEnded s x false
        | .progEnd => stepEnded s x true
        | _ => putTh s (resume x)
    | _ => s

/-- The sequencer begins to wait, which may end at once. -/
def beginWait (c : RC) (w : ThWait) : State := settleWait (putTh c.s { c.th with stat := .waiting w }) c.t

/-- R140: UNIT_WAIT. -/
def execUnitWait (t : Tid) (i : RoomIns) (s : State) : Out1 := .next (runIns s t i (fun c => beginWait c (.units (immF i 0 7))))

/-- R152: FENCE WRITES: the room's writes on their way come before every later one; nothing else is held. -/
def fenceWrites (x : Thread) : Thread := { x with outs := x.outs.map (fun o => if leavingWrite o then { o with fenced := true } else o) }

/-- R152: FENCE. -/
def execFence (t : Tid) (i : RoomIns) (s : State) : Out1 :=
  .next (runIns s t i (fun c => if bitOf i.imm.toNat 0 then putTh c.s (advance1 (fenceWrites c.th)) else beginWait c .fence))

/-! ## Completions -/

/-- R126: can the instruction complete by its unit alone? -/
def unitEnds (u : Nat) (o : Out) : Bool := o.unit == u && (o.ends == .unit || o.ends == .late)

/-- R126, R298: the oldest instruction of a unit completes. -/
def completeOldest (s : State) (t : Tid) (u : Nat) : State :=
  match (getTh s t).bind (fun x => x.outs.find? (unitEnds u)) with
  | none => s
  | some o => if o.ends = .late then lateEnd s t false else modTh s t (fun x => { x with outs := dropFirst (unitEnds u) x.outs })

/-- R126: INSTRUCTION_COMPLETE. -/
def execInstructionComplete (t : Tid) (unit : Nat) (s : State) : Out1 :=
  .next (if alive s then settleWait (completeOldest s t unit) t else s)

/-- R299: DMA_LATE. -/
def execDmaLate (t : Tid) (s : State) : Out1 := .next (if alive s then settleWait (lateEnd s t true) t else s)

/-- R197, R198: HALO_LAND; the sender's put is complete. -/
def execHaloLand (t : Tid) (dir : Nat) (s : State) : Out1 :=
  .next (if alive s then
    let s1 := settleWait (haloLand s t dir) t
    (neighbour t.room dir).elim s1 (fun q => settleWait s1 { key := t.key, room := q })
  else s)

/-- R301: PATOM_PERFORM. -/
def execPatomPerform (t : Tid) (s : State) : Out1 := .next (if alive s then settleWait (patomPerform s t) t else s)

/-- R302: PRED_CONTRIBUTION. -/
def execPredContribution (t : Tid) (s : State) : Out1 := .next (if alive s then settleWait (predContribution s t) t else s)

end Sys2Proof.Machine
end

