-- ==== Sys2Proof/Machine/Links.lean ====
section
/-! DEFINITION. Porches and the Vrelak link (R306 to R326): ports, HELLO, flits, replay, credits, messages, the routing table,
markers, echoes and lost lanes. -/
namespace Sys2Proof.Machine

/-! ## Flits (R312) -/

/-- A flit as read. -/
structure FlitIn where
  kind    : Nat
  vc      : Nat
  som     : Bool
  cvc     : Nat
  ccount  : Nat
  seq     : BitVec 16
  ack     : BitVec 16
  payload : List Byte

/-- R312: a good flit; none when the CRC fails or the kind is reserved. -/
def parseFlit (bs : List Byte) : Option FlitIn :=
  let h := getLE bs 0 8
  if bs.length = 256 && crc32 (bs.take 252) = getLE bs 252 4 && bits h 0 4 ≤ 4 then
    some { kind := bits h 0 4, vc := bits h 4 3, som := bitOf h 7, cvc := bits h 8 3, ccount := bits h 11 12,
           seq := BitVec.ofNat 16 (bits h 24 16), ack := BitVec.ofNat 16 (bits h 40 16), payload := slice bs 8 244 }
  else none

/-- R313: the flits that an acknowledgement covers leave the replay buffer. -/
def takeAck (p : Port) (ack : BitVec 16) : Port :=
  match p.replay.findIdx? (fun f => f.seq == ack) with
  | some i => { p with replay := p.replay.drop (i + 1) }
  | none => p

/-- R316, R317: returned credits. -/
def takeCredits (p : Port) (f : FlitIn) : Port :=
  { p with credits := upd p.credits f.cvc (· + f.ccount), credRx := upd p.credRx f.cvc (· + BitVec.ofNat 32 f.ccount) }

/-- What every good flit brings. -/
def takeHead (p : Port) (f : FlitIn) : Port := takeCredits (takeAck p f.ack) f

/-- R313: a NAK leaves, and the port waits for the expected flit. -/
def sendNak (p : Port) : Port := sendFlit { p with naking := true } 2 0 false 0 []

/-- R312, R313: a discarded flit. -/
def crcError (p : Port) : Port := sendNak { p with crcErrs := p.crcErrs + 1 }

/-! ## Sending (R313 to R316, R320) -/

/-- R313: flits of the replay buffer. -/
def replayCap (m : PortMode) : Nat := if m == .ethernet then 8192 else 2048

/-- R322: does priority flow control hold a channel? A frame without a tag has priority 0 (PRESUMED 21). -/
def chanPaused (p : Port) (v : Nat) : Bool := p.mode == .ethernet && p.paused.contains (if p.vlan then v else 0)

/-- R315, R316: has a channel a flit that may leave? -/
def vcReady (p : Port) (v : Nat) : Bool :=
  p.queue.any (fun f => f.vc == v) && p.credits.getD v 0 > 0 && !chanPaused p v

/-- R315: the channel that the weighted round robin serves next, and what is left of its turn after one flit. -/
def pickVc (p : Port) : Option (Nat × Nat) :=
  if p.arbLeft > 0 && vcReady p p.arbCur then some (p.arbCur, p.arbLeft - 1)
  else
    (((List.range 8).map (fun i => (p.arbCur + 1 + i) % 8)).find? (fun v => vcReady p v)).map (fun v => (v, p.weights.getD v 1 - 1))

/-- R313: one new DATA flit leaves; none when the port cannot send. -/
def sendOne (p : Port) : Option Port :=
  if p.state != .up || p.replay.length ≥ replayCap p.mode then none
  else match pickVc p with
    | none => none
    | some (v, left) =>
      match p.queue.find? (fun f => f.vc == v) with
      | none => none
      | some f =>
        some { (sendFlit p 1 v f.som p.txSeq.toNat f.payload) with
          queue := dropFirst (fun f => f.vc == v) p.queue, replay := p.replay ++ [{ f with seq := p.txSeq, tries := 0 }],
          txSeq := p.txSeq + 1, credits := upd p.credits v (· - 1), sent := upd p.sent v (· + 1), arbCur := v, arbLeft := left }

/-- A port sends while it can. -/
def pumpPort (p : Port) : Nat → Port
  | 0 => p
  | k + 1 =>
    match sendOne p with
    | none => p
    | some q => pumpPort q k

/-- The port sends what it may. -/
def pump (p : Port) : Port := pumpPort p p.queue.length

/-- R312: an IDLE flit leaves. -/
def sendIdle (p : Port) : Port := sendFlit p 0 0 false 0 []

/-- R312, R316: while freed credits wait and nothing else is to be sent, IDLE flits return them. -/
def idleCredits (p : Port) : Nat → Port
  | 0 => p
  | k + 1 => if p.state == .up && p.owed.any (· != 0) then idleCredits (sendIdle p) k else p

/-- R312: the port answers what it received: with DATA where it may send some, else with an IDLE flit. -/
def answer (p : Port) : Port := if (sendOne p).isSome then pump p else sendIdle p

/-- R318: the payloads of a message's flits. -/
def msgFlits (vc : Nat) (bs : List Byte) : List TxFlit :=
  (enum (pieces bs 244 (cdiv bs.length 244))).map (fun q => { seq := 0, vc := vc, som := q.1 = 0, payload := padTo q.2 244, tries := 0 })

/-- R318: the header of a message. -/
def msgHeader (dest src mtype len : Nat) (mseq : DWord) : List Byte :=
  leBytes (dest % 2 ^ 12 + src % 2 ^ 12 * 2 ^ 12 + mtype * 2 ^ 24) 4 ++ leBytes len 4 ++ leBytes mseq.toNat 8

/-- R319: the direct ports of a destination. -/
def directPorts (s : State) (dest : Nat) : List Nat := (s.links.routes.find? (fun r => r.fabric == dest)).elim [] (·.ports)

/-- R320: fewer flits waiting on the channel, then the lower number. -/
def betterPort (s : State) (vc a b : Nat) : Bool :=
  let n := fun i => ((getPort s i).queue.filter (fun f => f.vc == vc)).length
  n a < n b || (n a == n b && a < b)

/-- R318: the next `mseq` toward a destination on a channel. -/
def nextMseq (s : State) (dest vc : Nat) : DWord := (pGet s.links.txSeq (dest, vc)).getD 0

/-- The bytes of a message leave through a port of the bundle (R320). -/
def putMsg (s : State) (dest vc : Nat) (bs : List Byte) : State :=
  match bestBy (betterPort s vc) (directPorts s dest) with
  | none => s
  | some i => modPort s i (fun p => pump { p with queue := p.queue ++ msgFlits vc bs })

/-- R318, R320: a message is sent to a destination with a direct port. -/
def sendMsg (s : State) (dest vc mtype : Nat) (data : List Byte) : State :=
  if (directPorts s dest).isEmpty then s
  else
    let q := nextMseq s dest vc
    let s1 := putMsg s dest vc (msgHeader dest s.dev.fabric.toNat mtype data.length q ++ data)
    { s1 with links := { s1.links with txSeq := pSet s1.links.txSeq (dest, vc) (q + 1) } }

/-- R326, R406: a firmware message on channel 0. -/
def sendFw (s : State) (dest mtype : Nat) (data : List Byte) : State :=
  let s1 := sendMsg s dest 0 mtype data
  { s1 with links := { s1.links with fwOut := ((dest, data) :: s1.links.fwOut).take 64 } }

/-! ## Received messages (R318, R320) -/

def msgDest (m : Msg) : Nat := fieldAt m.bytes 0 0 12
def msgSrc (m : Msg) : Nat := fieldAt m.bytes 0 12 12
def msgType (m : Msg) : Nat := getLE m.bytes 3 1
def msgLen (m : Msg) : Nat := fieldAt m.bytes 4 0 13
def msgSeq (m : Msg) : DWord := BitVec.ofNat 64 (getLE m.bytes 8 8)
def msgData (m : Msg) : List Byte := slice m.bytes 16 (msgLen m)

/-- R316: flits leave the receive buffer, and their credits return in the flits that leave now. -/
def releaseRx (p : Port) (v n : Nat) : Port :=
  let k := min n (p.rxHeld.getD v 0)
  idleCredits (pump { p with rxHeld := upd p.rxHeld v (· - k), owed := upd p.owed v (· + k) }) 32

/-- R316, R318: a message leaves the receive buffer of its port. -/
def releaseMsg (s : State) (m : Msg) : State := modPort s m.port (fun p => releaseRx p m.vc (cdiv (16 + msgLen m) 244))

/-- R318: is it a whole message that stands in the receive buffer of its port, which is UP? -/
def arrived (s : State) (m : Msg) : Bool :=
  (getPort s m.port).state == .up && (getPort s m.port).rxMsgs.contains (m.vc, m.bytes)

/-- R318: a message is taken up. -/
def takeMsg (s : State) (m : Msg) : State :=
  modPort s m.port (fun p => { p with rxMsgs := dropFirst (fun q => q == (m.vc, m.bytes)) p.rxMsgs })

/-- R318, R320: may the message be delivered next: it has arrived, it is for this device, and it is next in its sequence? One that
is ahead of its sequence stays in the receive buffer until its turn. -/
def msgNext (s : State) (m : Msg) : Bool :=
  arrived s m && msgDest m == s.dev.fabric.toNat
  && (pGet s.links.rxSeq (msgSrc m, m.vc)).getD 0 == msgSeq m

/-- R318: the message is taken up, and the sequence of its source and channel moves on. -/
def bumpRx (s : State) (m : Msg) : State :=
  { (takeMsg s m) with links := { (takeMsg s m).links with rxSeq := pSet s.links.rxSeq (msgSrc m, m.vc) (msgSeq m + 1) } }

/-! ## The routing table (R319) -/

/-- A set of ports as a bitmap. -/
def portMap (ps : List Nat) : Nat := sumBy ps (fun i => 2 ^ i)

/-- R320: the ports of a bundle train at its lowest common rate. -/
def levelRates (s : State) (ports : List Nat) : State :=
  let r := ports.foldl (fun r i => min r (getPort s i).rate) 2
  ports.foldl (fun s i => modPort s i (fun p => { p with rate := r })) s

/-- R319: a partner reaches HELLO on a port: the port joins its destination. -/
def joinRoute (s : State) (i : Nat) (q : Partner) : State :=
  let old := directPorts s q.fabric
  let ports := (List.range 18).filter (fun j => j == i || old.contains j)
  let routes := s.links.routes.filter (fun r => r.fabric != q.fabric) ++ [{
    fabric := q.fabric, uid := q.uid, ports := ports, hop := Config.nextHop q.fabric,
    mac := if ports.any (fun j => (getPort s j).mode == .ethernet) then some (Config.partnerMac q.uid) else none }]
  let s1 := levelRates { s with links := { s.links with routes := routes } } ports
  logFault s1 { code := 0x0400, d0 := q.fabric, d1 := portMap ports }

/-- R321: undelivered messages to a destination. -/
def undelivered (s : State) (dest : Nat) : Nat :=
  sumBy s.links.txSeq (fun q => if q.1.1 = dest then q.2.toNat - ((pGet s.links.acked q.1).getD 0).toNat else 0)

/-- R321: transfers toward a departed destination are lost. -/
def loseAwait (dest : Nat) (a : Await) : Await := if a.dest = dest then { a with lost := true } else a

/-- R319, R321: a destination departs: its undelivered messages are abandoned, and steps that wait on them will miss with
`cause` FAULT. Its message sequences start anew (DESIGN CHOICE 22). -/
def depart (s : State) (dest ports : Nat) : State :=
  let waits := (s.links.awaits.filter (fun a => a.dest == dest)).map (·.tid.key)
  let n := undelivered s dest
  let s1 := { s with links := { s.links with
    routes := s.links.routes.filter (fun r => r.fabric != dest),
    awaits := s.links.awaits.map (loseAwait dest),
    txSeq := s.links.txSeq.filter (fun q => q.1.1 != dest),
    rxSeq := s.links.rxSeq.filter (fun q => q.1.1 != dest),
    acked := s.links.acked.filter (fun q => q.1.1 != dest),
    deliv := s.links.deliv.filter (fun q => q.1 != dest) } }
  let s2 := waits.foldl (fun s k => setCause s k 0x3D) s1
  logFault (logFault s2 { code := 0x0401, d0 := dest, d1 := ports }) { code := 0x010B, d0 := dest, d1 := n }

/-- R314, R325: does a port retrain toward the destination? -/
def retrainsTo (s : State) (dest : Nat) : Bool :=
  s.links.ports.any (fun p => p.retrain && (p.state == .training || p.state == .hello) && p.partner.any (fun q => q.fabric == dest))

/-- A route without a port. -/
def dropPort (i : Nat) (r : Route) : Route := { r with ports := r.ports.filter (· != i) }

/-- R319: a port is no longer a direct port; destinations left without one depart, but for those whose port retrains (DEDUCED
23). -/
def leaveRoutes (s : State) (i : Nat) : State :=
  let s1 := { s with links := { s.links with routes := s.links.routes.map (dropPort i) } }
  let orphans := s1.links.routes.filter (fun r => r.ports.isEmpty && !retrainsTo s1 r.fabric)
  orphans.foldl (fun s r => depart s r.fabric (2 ^ i)) s1

/-- R34: the sources that a port feeds are lost; a port that leaves UP for TRAINING counts as one that goes down (DEDUCED 122). -/
def losePorch (s : State) (i : Nat) : State :=
  let t := (rolesOf s.tick .porch i).foldl (fun t role =>
    let x := roleTrack t role
    if x.locked then
      let d := defines t role
      setAligned (sourceLost (setRoleTrack t { x with locked := false, count := 0, good := 0 } role) d)
    else t) s.tick
  tickEvent s.tick false { s with tick := t }

/-- R313, R316: what a port that does not retrain keeps of its link layer: nothing. -/
def clearLink (p : Port) : Port :=
  { p with
    replay := [], queue := [], txSeq := 0, rxSeq := 0xFFFF, naking := false, partner := none, credits := List.replicate 8 0,
    rxHeld := List.replicate 8 0, owed := List.replicate 8 0, asm := List.replicate 8 [], rxMsgs := [], unlisted := 0, paused := [], retrain := false, gotHello := false, gotAck := false, echoAt := none }

/-- R308: a port leaves UP for TRAINING, keeping replay buffer and credits (R314), or for another state. -/
def leaveUp (s : State) (i : Nat) (st : LinkState) : State :=
  let s1 := modPort s i (fun p =>
    if st == .training then { p with state := st, retrain := true, gotHello := false, gotAck := false, naking := false }
    else { clearLink p with state := st })
  losePorch (leaveRoutes s1 i) i

/-- R399: a fault found in tick t starts a recovery, or joins the one under way. -/
def joinRecov (s : State) (f : Recov → Recov) : State :=
  { s with recov := some (f (s.recov.getD { tick := s.tick.num.toNat, sysTick := sysTick s, lost := false })) }

/-! ## Bringing a port up (R308 to R311) -/

/-- The half of a port that a lane belongs to. -/
def laneHalf (lane : Nat) : Nat := lane / 4

/-- R325: the half that holds no lost lane, the lower one when both do; none when each holds one, and then no width is achieved. -/
def keptHalf (lost : List Nat) : Option Nat := [0, 1].find? (fun h => !lost.any (fun l => laneHalf l == h))

/-- R308, R325: the width at which a port may train: half where a lane is lost. -/
def trainedFull (p : Port) (full : Bool) : Bool := full && p.lost.isEmpty
/-- R325: the half in use. -/
def trainedHalf (p : Port) (half : Nat) : Nat :=
  if p.lost.any (· < 4) then 1 else if p.lost.any (4 ≤ ·) then 0 else half % 2

/-- R306, R308: lanes locked at a width and rate. -/
def trained (s : State) (i : Nat) (full : Bool) (rate half : Nat) : State :=
  if (getPort s i).state == .training && rate ≤ (getPort s i).maxRate && (keptHalf (getPort s i).lost).isSome then
    modPort s i (fun p => { p with state := .hello, full := trainedFull p full, half := trainedHalf p half, rate := rate,
                                   gotHello := false, gotAck := false, unlisted := 0 })
  else s

/-- R308: TRAINING_COMPLETE. -/
def execTrainingComplete (port : Nat) (full : Bool) (rate half : Nat) (s : State) : Out1 :=
  .next (if alive s then trained s port full rate half else s)

/-- R308: a port in DOWN trains again. -/
def execTrainingRetry (port : Nat) (s : State) : Out1 :=
  .next (if alive s && (getPort s port).state == .down && (getPort s port).mode != .off then
    modPort s port (fun p => { p with state := .training }) else s)

/-- R308: no width and rate achieved: the port is DOWN, and a retrain is given up. -/
def trainFail (s : State) (i : Nat) : State :=
  if (getPort s i).state == .training then leaveRoutes (modPort s i (fun p => { clearLink p with state := .down })) i else s

/-- R308: TRAINING_FAILED. -/
def execTrainingFailed (port : Nat) (s : State) : Out1 := .next (if alive s then trainFail s port else s)

/-- R309: this device's product and protocol. -/
def ownProduct : Nat := 0x0740000A
def ownProto : Nat := 3

/-- R309: the payload of HELLO and HELLO_ACK. -/
def helloPayload (s : State) (i ctrl : Nat) : List Byte :=
  leBytes (ctrl + ownProto * 2 ^ 8 + 3 * 2 ^ 16 + s.dev.fabric.toNat * 2 ^ 20) 4 ++ leBytes ownProduct 4
  ++ leBytes Config.uid.toNat 8 ++ leBytes (s.dev.bundle.elim 0 (·.ver.toNat)) 4 ++ leBytes i 4
  ++ ((getPort s i).allot.map (fun n => leBytes n 2)).flatten

/-- A CTRL flit leaves a port. -/
def sendCtrl (s : State) (i : Nat) (payload : List Byte) : State := modPort s i (fun p => sendCtrlFlit p payload)

/-- R309: the HELLO of every 10 µs. -/
def execHelloSend (port : Nat) (s : State) : Out1 :=
  .next (if alive s && (getPort s port).state == .hello then sendCtrl s port (helloPayload s port 1) else s)

/-- R309: the partner that a HELLO describes. -/
def partnerOf (payload : List Byte) : Partner :=
  { fabric := fieldAt payload 0 20 12, uid := BitVec.ofNat 64 (getLE payload 8 8), product := BitVec.ofNat 32 (getLE payload 4 4),
    proto := BitVec.ofNat 8 (getLE payload 1 1), bundle := BitVec.ofNat 32 (getLE payload 0x10 4),
    port := BitVec.ofNat 16 (getLE payload 0x14 2), allot := (List.range 8).map (fun v => getLE payload (0x18 + 2 * v) 2) }

/-- R310: is the pair tested as far as this side can see? A HELLO_ACK tells that the partner accepts (DEDUCED 24). -/
def testedPair (s : State) (p : Port) (q : Partner) : Bool :=
  p.gotAck || (q.product.toNat == ownProduct && q.proto.toNat == ownProto && s.dev.bundle.any (fun b => b.ver == q.bundle))
  || s.dev.bundle.any (fun b => b.partners.contains (q.product, q.proto, q.bundle))

/-- R311: the partner's `fabric_id` is this device's own, or held by another device. -/
def idConflict (s : State) (q : Partner) : Bool :=
  q.fabric == s.dev.fabric.toNat || s.links.routes.any (fun r => r.fabric == q.fabric && r.uid != q.uid)

/-- R317: counts of a link that comes up anew (DEDUCED 33: they start at zero, or the book could not balance). -/
def zeroCounts : List Word := List.replicate 8 0

/-- R314, R315: a flit of the replay buffer is sent again; it neither spends credits nor counts as sent. -/
def resendFlit (p : Port) (f : TxFlit) : Port := sendFlit p 1 f.vc f.som f.seq.toNat f.payload

/-- R313, R314: every unacknowledged flit is sent again, in the original order. -/
def resendAll (p : Port) : Port :=
  { (p.replay.foldl resendFlit p) with replay := p.replay.map (fun f => { f with tries := f.tries + 1 }) }

/-- R308, R314, R316, R325: both HELLO and HELLO_ACK have arrived: the port is UP. A port that retrained replays from its buffer,
whose replays count anew (DEDUCED 25). -/
def tryUp (s : State) (i : Nat) : State :=
  let p := getPort s i
  match p.partner with
  | none => s
  | some q =>
    if p.state == .hello && p.gotHello && p.gotAck then
      let s1 := modPort s i (fun p =>
        if p.retrain then resendAll { p with state := .up, retrain := false, replay := p.replay.map (fun f => { f with tries := 0 }) }
        else { p with state := .up, credits := q.allot, skips := 0, sent := zeroCounts, credited := zeroCounts, rcvd := zeroCounts,
                      credRx := zeroCounts })
      modPort s1 i pump
    else s

/-- R310, R311: a port is quarantined. -/
def quarantine (s : State) (i : Nat) (f : FaultIn) : State :=
  leaveRoutes (logFault (modPort s i (fun p => { clearLink p with state := .quarantined, lost := [], full := true })) f) i

/-- R309, R310: HELLOs, one every 10 µs, that may come before the 50 µs of R308 have passed without a HELLO_ACK (DEDUCED 24). -/
def helloLimit : Nat := 5

/-- R309 to R311, R319: a HELLO arrives in HELLO, or in UP from a partner that has not seen the acknowledgement. A pair that this
side's manifest does not list waits for the partner's HELLO_ACK. An accepted partner enters the routing table. -/
def helloIn (s : State) (i : Nat) (f : FlitIn) : State :=
  let p := getPort s i
  let q := partnerOf f.payload
  if getLE f.payload 0 1 != 1 then s
  else if p.state == .up then sendCtrl s i (helloPayload s i 2)
  else if p.state != .hello then s
  else if !testedPair s p q then
    if p.unlisted + 1 < helloLimit then modPort s i (fun p => { p with unlisted := p.unlisted + 1 })
    else quarantine s i { code := 0x0402, d0 := i, d1 := q.product.toNat + q.proto.toNat * 2 ^ 32 }
  else if idConflict s q then quarantine s i { code := 0x0403, d0 := i, d1 := q.fabric }
  else
    let s1 := sendCtrl (modPort s i (fun p => { p with gotHello := true, partner := some q })) i (helloPayload s i 2)
    tryUp (if (directPorts s q.fabric).contains i then s1 else joinRoute s1 i q) i

/-- A flit arrives at a port that carries CTRL flits: a bad one counts, a good one is handled. -/
def rxFlit (s : State) (i : Nat) (bs : List Byte) (kind : Nat) (g : State → FlitIn → State) : State :=
  if !alive s || !((getPort s i).state == .hello || (getPort s i).state == .up) then s
  else match parseFlit bs with
    | none => if (getPort s i).state == .up then modPort s i crcError else modPort s i (fun p => { p with crcErrs := p.crcErrs + 1 })
    | some f =>
      if f.kind != kind then s
      else if (getPort s i).state == .up then modPort (g (modPort s i (fun p => takeHead p f)) f) i pump
      else g s f

/-- R309: a HELLO_ACK arrives. -/
def helloAckIn (s : State) (i : Nat) (f : FlitIn) : State :=
  if getLE f.payload 0 1 = 2 && (getPort s i).state == .hello then tryUp (modPort s i (fun p => { p with gotAck := true })) i else s

/-! ## DATA, NAK and IDLE flits, replay (R312 to R314) -/

/-- R318: the bytes of the message under assembly on a channel, with a flit's payload. -/
def asmBytes (p : Port) (f : FlitIn) : List Byte := (if f.som then [] else p.asm.getD f.vc []) ++ f.payload

/-- R318: header and data of the message that starts with these bytes. -/
def msgSpan (bs : List Byte) : Nat := 16 + fieldAt bs 4 0 13

/-- R318: a flit's payload joins its message, which is whole with its last flit. -/
def assemble (p : Port) (f : FlitIn) : Port :=
  let bs := asmBytes p f
  if msgSpan bs ≤ bs.length then
    { p with asm := p.asm.set f.vc [], rxMsgs := p.rxMsgs ++ [(f.vc, bs.take (msgSpan bs))] }
  else { p with asm := p.asm.set f.vc bs }

/-- R313, R316 to R318: a DATA flit in order is taken and acknowledged; another is discarded, with a NAK unless the port waits for
the expected flit already. -/
def dataIn (p : Port) (f : FlitIn) : Port :=
  if f.seq = p.rxSeq + 1 then
    answer (assemble { p with rxSeq := f.seq, naking := false, rxHeld := upd p.rxHeld f.vc (· + 1), rcvd := upd p.rcvd f.vc (· + 1) } f)
  else if p.naking then p else sendNak p

/-- R313: DATA_FLIT_RECEIVE. DATA flits travel in UP only. -/
def execDataFlitReceive (port : Nat) (flit : List Byte) (s : State) : Out1 :=
  .next (rxFlit s port flit 1 (fun s f => if (getPort s port).state == .up then modPort s port (fun p => dataIn p f) else s))

/-- R312: IDLE_FLIT_RECEIVE. -/
def execIdleFlitReceive (port : Nat) (flit : List Byte) (s : State) : Out1 := .next (rxFlit s port flit 0 (fun s _ => s))

/-- R314: the port replays every unacknowledged flit; a flit that 8 replays have not brought an acknowledgement takes the port
to TRAINING (DEDUCED 25: found at the next NAK or expiry). -/
def replayAll (s : State) (i : Nat) : State :=
  let p := getPort s i
  if p.replay.isEmpty then s
  else if p.replay.any (fun f => f.tries ≥ 8) then
    joinRecov (leaveUp s i .training) (fun r => { r with ports := r.ports ++ [i] })
  else
    let s1 := modPort s i (fun p => { (resendAll p) with replays := p.replays + 1 })
    logFault s1 { code := 0x0301, d0 := i, d1 := p.replays + 1, src := i }

/-- R313: NAK. -/
def execNak (port : Nat) (flit : List Byte) (s : State) : Out1 :=
  .next (rxFlit s port flit 2 (fun s _ => if (getPort s port).state == .up then replayAll s port else s))

/-- R314, R9: the timer expires; an acknowledgement in the same cycle cancels the replay. -/
def timerExpiry (s : State) (i : Nat) (ack : Option (BitVec 16)) : State :=
  if !alive s || (getPort s i).state != .up then s
  else match ack with
    | some a => modPort s i (fun p => pump (takeAck p a))
    | none => replayAll s i

/-- R314: REPLAY_TIMER_EXPIRY. -/
def execReplayTimerExpiry (port : Nat) (ackNow : Option (BitVec 16)) (s : State) : Out1 := .next (timerExpiry s port ackNow)

/-! ## Link delay (R324) -/

/-- R324: an ECHO leaves. -/
def execEchoSend (port time : Nat) (s : State) : Out1 :=
  .next (if alive s && (getPort s port).state == .up then
    modPort (sendCtrl s port [3]) port (fun p => { p with echoAt := some time }) else s)

/-- R324: the reply reports its turnaround, at payload offset 0x08 (DESIGN CHOICE 26); the time it takes is a free value. -/
def echoIn (s : State) (i : Nat) (f : FlitIn) : State :=
  if getLE f.payload 0 1 = 3 && (getPort s i).state == .up then
    let (t, s1) := freshBits s 32
    sendCtrl s1 i (leBytes 4 8 ++ leBytes t.toNat 4)
  else s

/-- R324: ECHO. -/
def execEcho (port : Nat) (_time : Nat) (flit : List Byte) (s : State) : Out1 := .next (rxFlit s port flit 4 (fun s f => echoIn s port f))

/-- R324: half the round trip, less the turnaround. -/
def echoBack (p : Port) (time : Nat) (f : FlitIn) : Port :=
  match p.echoAt with
  | none => p
  | some t => { p with echoAt := none, delay := (time - t - getLE f.payload 8 4) / 2 }

/-- R324: ECHO_REPLY. -/
def execEchoReply (port time : Nat) (flit : List Byte) (s : State) : Out1 :=
  .next (rxFlit s port flit 4 (fun s f => if getLE f.payload 0 1 = 4 then modPort s port (fun p => echoBack p time f) else s))

/-! ## Tick markers (R32, R323, R324) -/

/-- R323: the reference that a marker gives. -/
def markerRef (p : Port) (time : Nat) (f : FlitIn) : RefIn :=
  { time := time - getLE f.payload 0x18 2 - p.delay, marker := true, sys := BitVec.ofNat 48 (getLE f.payload 0 6),
    period := getLE f.payload 8 3, hop := BitVec.ofNat 8 (getLE f.payload 0xC 1), aligned := fieldAt f.payload 0xC 8 1 = 1,
    root := BitVec.ofNat 64 (getLE f.payload 0x10 8) }

/-- Eight counts of a marker, from flit offset `off`. -/
def markerWords (f : FlitIn) (off : Nat) : List Word := (List.range 8).map (fun v => BitVec.ofNat 32 (getLE f.payload (off - 8 + 4 * v) 4))

/-- R317: the marker's counts make the port's credit book auditable. -/
def markerCounts (f : FlitIn) (p : Port) : Port :=
  { p with audited := true, markSent := markerWords f 0x28, markCredited := markerWords f 0x48 }

/-- R323: a marker that fails its CRC is discarded: the reference is missing (DEDUCED 15). -/
def badMarker (s : State) (i : Nat) : State :=
  let t := (rolesOf s.tick .porch i).foldl breakRun s.tick
  { (modPort s i crcError) with tick := if s.tick.state == .stopped then s.tick else t }

/-- R32, R323, R324: a TICK flit arrives. An ETHERNET port never locks. -/
def tickFlit (s : State) (i time : Nat) (bs : List Byte) : State :=
  if !alive s || (getPort s i).state != .up then s
  else match parseFlit bs with
    | none => badMarker s i
    | some f =>
      if f.kind != 3 then s
      else
        let s1 := modPort s i (fun p => pump (markerCounts f (takeHead p f)))
        let p := getPort s1 i
        tickEvent s1.tick false { s1 with tick := feedReference s1.tick .porch i (markerRef p time f) (p.mode == .native), now := time }

/-- R32, R323: TICK_FLIT_RECEIVE. -/
def execTickFlitReceive (port time : Nat) (flit : List Byte) (s : State) : Out1 := .next (tickFlit s port time flit)

/-! ## Priority flow control (R322) -/

/-- R322: a pause of a priority. -/
def execPriorityFlowControl (port priority : Nat) (s : State) : Out1 :=
  .next (if alive s && (getPort s port).state == .up && (getPort s port).mode == .ethernet then
    modPort s port (fun p => { p with paused := if p.paused.contains priority then p.paused else p.paused ++ [priority] }) else s)

/-- R322: the pause ends. -/
def execPfcPauseExpiry (port priority : Nat) (s : State) : Out1 :=
  .next (modPort s port (fun p => pump { p with paused := p.paused.filter (· != priority) }))

/-! ## DELIVERED (R321) -/

/-- R321: one DELIVERED message for each (source, channel) with a direct port; its data names the channel (DESIGN CHOICE 27). -/
def deliveredSend (s : State) : State :=
  let due := s.links.deliv.filter (fun d => !(directPorts s d.1).isEmpty)
  let s1 := { s with links := { s.links with deliv := s.links.deliv.filter (fun d => (directPorts s d.1).isEmpty) } }
  due.foldl (fun s d => putMsg s d.1 0 (msgHeader d.1 s.dev.fabric.toNat 1 1 d.2.2 ++ [BitVec.ofNat 8 d.2.1])) s1

/-- R321: DELIVERED_SEND. -/
def execDeliveredSend (s : State) : Out1 := .next (if alive s then deliveredSend s else s)

/-- R321: a DELIVERED message covers every transfer whose last message it reaches. -/
def deliveredIn (s : State) (m : Msg) : State :=
  if alive s && arrived s m && msgDest m == s.dev.fabric.toNat && msgType m = 1 then
    let v := getLE (msgData m) 0 1
    let s1 := releaseMsg (takeMsg s m) m
    { s1 with links := { s1.links with
      awaits := s1.links.awaits.filter (fun a => a.lost || a.dest != msgSrc m || a.vc != v || a.mseq.toNat > (msgSeq m).toNat),
      acked := pSet s1.links.acked (msgSrc m, v) (msgSeq m + 1) } }
  else s

/-- R321: DELIVERED. -/
def execDelivered (msg : Msg) (s : State) : Out1 := .next (deliveredIn s msg)

end Sys2Proof.Machine
end

