-- ==== Sys2Proof/Machine/Collect.lean ====
section
/-! DEFINITION. Collective operations (R327 to R342): porch instructions, instances and their announces, pieces on the wire, and
staging buffers. -/
namespace Sys2Proof.Machine

/-! ## Formats on the wire (R331, R335) -/

/-- R335: results (phases GATHER, BCAST and ROOT) travel in `res_fmt`, everything else in `wire_fmt` (DEDUCED 28). -/
def tagFmt (r : CollRec) (tag : Word) : Nat :=
  let ph := wbits tag 28 4
  if ph = 1 || ph = 3 || ph = 4 then r.resFmt else r.wireFmt

/-- R331: elements, or bytes, of a full piece. -/
def fullPiece (fmt : Nat) : Nat :=
  match fmt with
  | 0 => 960
  | 1 => 1920
  | 2 => 1920
  | 15 => 3840
  | _ => 3712

/-- Bytes of an element on the wire; RAW counts bytes. -/
def wireElem (fmt : Nat) : Nat :=
  match fmt with
  | 0 => 4
  | 1 => 2
  | 2 => 2
  | _ => 1

/-- R331: does the format carry block scales? -/
def wireScaled (fmt : Nat) : Bool := fmt = 3 || fmt = 4

/-- Scale bytes of `n` elements. -/
def wireScales (fmt n : Nat) : Nat := if wireScaled fmt then cdiv n 32 else 0

/-- R331, R335: bytes of a transfer of `n` elements in wire layout. -/
def wireLen (fmt n : Nat) : Nat := n * wireElem fmt + wireScales fmt n

/-- R331: pieces of a transfer. -/
def pieceCount (fmt n : Nat) : Nat := cdiv n (fullPiece fmt)

/-- R167, R335: blocks of 32 FP32 values, each with its scale; `k` blocks. -/
def wireBlocks (fmt : Nat) (ws : List Word) : Nat → List (Nat × List Nat)
  | 0 => []
  | k + 1 => scaleBlock 1 fmt (ws.take 32) :: wireBlocks fmt (ws.drop 32) k

/-- R335: FP32 values in the wire format: all elements, then all scales. -/
def toWire (fmt : Nat) (ws : List Word) : List Byte :=
  if wireScaled fmt then
    let bs := wireBlocks fmt ws (cdiv ws.length 32)
    ((bs.map (fun b => b.2.map (BitVec.ofNat 8))).flatten) ++ bs.map (fun b => BitVec.ofNat 8 b.1)
  else (ws.map (fun w => leBytes (convert fmt (ofF32 w)) (wireElem fmt))).flatten

/-- R335: an element of a block widened to FP32. -/
def widen (fmt sc c : Nat) : Word :=
  if wireScaled fmt then toF32 ((scaledElem 1 fmt c).mul (scaleValue 1 sc)) else toF32 (decodeElem fmt c)

/-- R335: the elements of a piece widened to FP32. -/
def fromWire (fmt n : Nat) (els scs : List Byte) : List Word :=
  (List.range n).map (fun i => widen fmt (getLE scs (i / 32) 1) (getLE els (i * wireElem fmt) (wireElem fmt)))

/-! ## The collective header (R332) -/

/-- R332: what a header says. -/
structure CollHead where
  ckind   : Nat
  rank    : Nat
  carr    : Nat
  dstCarr : Nat
  wfmt    : Nat
  key     : Word
  collTag : DWord
  sysTick : Tick
  bound   : Bool
  seq     : Word
  coll    : Nat
  tag     : Word
  elems   : Nat
  piece   : Nat
  pieces  : Nat
deriving DecidableEq, Repr

def CollHead.bytes (h : CollHead) : List Byte :=
  leBytes (h.ckind + h.rank * 2 ^ 4 + h.carr * 2 ^ 16 + h.dstCarr * 2 ^ 22 + h.wfmt * 2 ^ 28) 4 ++ leBytes h.key.toNat 4
  ++ leBytes h.collTag.toNat 8 ++ leBytes (h.sysTick.toNat + b2n h.bound * 2 ^ 48) 8 ++ leBytes h.seq.toNat 4
  ++ leBytes h.coll 4 ++ leBytes h.tag.toNat 4 ++ leBytes h.elems 4 ++ leBytes (h.piece + h.pieces * 2 ^ 16) 4 ++ zeros 4

def collHead (bs : List Byte) : CollHead :=
  { ckind := fieldAt bs 0 0 4, rank := fieldAt bs 0 4 12, carr := fieldAt bs 0 16 6, dstCarr := fieldAt bs 0 22 6,
    wfmt := fieldAt bs 0 28 4, key := BitVec.ofNat 32 (getLE bs 4 4), collTag := BitVec.ofNat 64 (getLE bs 8 8),
    sysTick := BitVec.ofNat 48 (getLE bs 0x10 6), bound := fieldAt bs 0x10 48 1 = 1, seq := BitVec.ofNat 32 (getLE bs 0x18 4),
    coll := fieldAt bs 0x1C 0 12, tag := BitVec.ofNat 32 (getLE bs 0x20 4), elems := getLE bs 0x24 4,
    piece := getLE bs 0x28 2, pieces := getLE bs 0x2A 2 }

/-! ## Groups and instances (R328, R337) -/

/-- What a room needs to know of a collective of its plan. -/
structure CollCtx where
  coll : Nat
  r    : CollRec
  g    : GroupRec
  tag  : DWord
  rank : Nat
  carr : Nat

/-- R328: a record with its group and the device's rank and carrier there. -/
def collCtx (s : State) (b : PlanBody) (room coll : Nat) : Option CollCtx :=
  match b.colls[coll]?, b.collTag with
  | some r, some tag =>
    match b.groups[r.group]? with
    | none => none
    | some g =>
      match g.members.findIdx? (· == s.dev.fabric.toNat), g.carriers.findIdx? (· == room) with
      | some rank, some carr => some { coll := coll, r := r, g := g, tag := tag, rank := rank, carr := carr }
      | _, _ => none
  | _, _ => none

/-- The collective of a thread's plan. -/
def thColl (s : State) (t : Tid) (coll : Nat) : Option CollCtx :=
  ((getPlan s t.key).bind (·.body)).bind (fun b => collCtx s b t.room coll)

/-- The instance of a transfer. -/
def instOf (x : Thread) (q : Xfer) : Option Inst := x.insts.find? (fun i => i.id == q.inst)

/-- The room's most recent instance of a record. -/
def lastInst (x : Thread) (coll : Nat) : Option Inst := (x.insts.reverse).find? (fun i => i.coll == coll)

def sameInst (a b : Inst) : Bool := a.id == b.id

def modInst (s : State) (t : Tid) (i : Inst) (f : Inst → Inst) : State :=
  modTh s t (fun x => { x with insts := updFirst (sameInst i) f x.insts })

/-- The peer of an instance. -/
def peerOf (i : Inst) (rank carr : Nat) : Option PeerSt := i.peers.find? (fun p => p.rank == rank && p.carr == carr)

def modPeer (s : State) (t : Tid) (i : Inst) (rank carr : Nat) (f : PeerSt → PeerSt) : State :=
  modInst s t i (fun i => { i with peers := updFirst (fun p => p.rank == rank && p.carr == carr) f i.peers })

/-- R337: key order of bound instances: system tick, `order`, `group_key`. -/
def keyBefore (a b : Tick × Word × Word) : Bool :=
  a.1.toNat < b.1.toNat || (a.1 == b.1 && (a.2.1.toNat < b.2.1.toNat || (a.2.1 == b.2.1 && a.2.2.toNat < b.2.2.toNat)))

/-- R337: the key of an instance. -/
def instKey (s : State) (t : Tid) (i : Inst) : Tick × Word × Word :=
  (i.sysTick, i.seq, (thColl s t i.coll).elim 0 (fun c => c.g.key))

/-- R341: is it held behind an open instance of a lower key that still has transfers? -/
def heldByOpen (s : State) (t : Tid) (x : Thread) (i : Inst) : Bool :=
  x.insts.any (fun j => j.bound && keyBefore (instKey s t j) (instKey s t i) && x.xfers.any (fun q => q.inst == j.id))

/-- R341: the bound records of a step in which a room is a carrier, by index. -/
def boundRecs (s : State) (t : Tid) (k : Nat) : List Nat :=
  ((getPlan s t.key).bind (·.body)).elim [] (fun b =>
    (List.range b.colls.length).filter (fun n => (collCtx s b t.room n).any (fun c => c.r.bound && c.r.step == k)))

/-- R341: may the program open further instances in the step? Not once it waits at the step's end. -/
def mayOpen (x : Thread) : Bool :=
  match x.stat with
  | .running => true
  | .waiting .stepEnd => false
  | .waiting .progEnd => false
  | .waiting _ => true
  | _ => false

/-- R341: is it held behind a record of its step with a lower key that the program has yet to open (DEDUCED 123)? -/
def heldByRecord (s : State) (t : Tid) (x : Thread) (i : Inst) : Bool :=
  mayOpen x && (thColl s t i.coll).any (fun c => (boundRecs s t c.r.step).any (fun n =>
    !x.insts.any (fun j => j.bound && j.coll == n)
    && (thColl s t n).any (fun d => keyBefore (i.sysTick, BitVec.ofNat 32 d.r.order, d.g.key) (instKey s t i))))

/-- R341: bound instances run in key order, whatever order the program opens them in. -/
def orderHeld (s : State) (t : Tid) (x : Thread) (i : Inst) : Bool := i.bound && (heldByOpen s t x i || heldByRecord s t x i)

/-! ## Announces (R338) -/

/-- R338: the header that announces an instance to a peer. -/
def announceHead (c : CollCtx) (i : Inst) (carr : Nat) (tag : Word) (elems : Nat) : CollHead :=
  { ckind := 0, rank := c.rank, carr := c.carr, dstCarr := carr, wfmt := tagFmt c.r tag, key := c.g.key, collTag := c.tag,
    sysTick := i.sysTick, bound := i.bound, seq := i.seq, coll := c.coll, tag := tag, elems := elems, piece := 0, pieces := 0 }

/-- R338: the announce leaves once the peer has a direct port. -/
def tryAnnounce (s : State) (t : Tid) (c : CollCtx) (i : Inst) (q : Xfer) : State :=
  let dest := c.g.members.getD q.peer 4096
  if (peerOf i q.peer q.carr).all (·.sent) || (directPorts s dest).isEmpty then s
  else
    sendMsg (modPeer s t i q.peer q.carr (fun p => { p with sent := true })) dest c.r.vc 0
      (announceHead c i q.carr q.tag q.elems).bytes

/-- R338: does an arrived announce wait for this peer of this room's record? -/
def anncFor (c : CollCtx) (room rank carr : Nat) (a : Annc) : Bool :=
  a.room == room && a.collTag == c.tag && a.coll == c.coll && a.rank == rank && a.carr == carr && c.g.members[rank]? == some a.src

/-- R338: the two announces match. -/
def anncMatch (c : CollCtx) (i : Inst) (a : Annc) : Bool :=
  a.group == c.g.key && a.bound == i.bound && a.sysTick == i.sysTick && a.seq == i.seq

/-- An out of a transfer. -/
def outOf (id : Nat) (o : Out) : Bool := o.ends == .send id || o.ends == .recv id

/-- R338: a mismatch: the instruction is refused, and no piece of the instance leaves the room. -/
def mismatch (s : State) (t : Tid) (i : Inst) (pc own theirs : Nat) : State :=
  let s1 := refuseRoom s t (stepOf s t.key) 0x003B pc (own + theirs * 2 ^ 32)
  modTh s1 t (fun x =>
    let gone := x.xfers.filter (fun q => q.inst == i.id)
    { x with xfers := x.xfers.filter (fun q => !gone.contains q), outs := x.outs.filter (fun o => !gone.any (fun q => outOf q.id o)) })

/-- R338: the peer's announce, if it has arrived. -/
def tryMatch (s : State) (t : Tid) (c : CollCtx) (i : Inst) (q : Xfer) : State :=
  match peerOf i q.peer q.carr, s.links.anncs.find? (anncFor c t.room q.peer q.carr) with
  | some p, some a =>
    if p.matched || !p.sent then s
    else
      let s1 := { s with links := { s.links with anncs := dropFirst (anncFor c t.room q.peer q.carr) s.links.anncs } }
      if anncMatch c i a then modPeer s1 t i q.peer q.carr (fun p => { p with matched := true })
      else mismatch s1 t i q.pc i.seq.toNat a.seq.toNat
  | _, _ => s

/-! ## Transfers (R331, R336, R339) -/

/-- R331: the header of a piece. -/
def pieceHead (c : CollCtx) (q : Xfer) (k : Nat) : CollHead :=
  { ckind := 1, rank := c.rank, carr := c.carr, dstCarr := q.carr, wfmt := tagFmt c.r q.tag, key := c.g.key, collTag := c.tag,
    sysTick := q.sysTick, bound := c.r.bound, seq := q.seq, coll := c.coll, tag := q.tag, elems := q.elems, piece := k,
    pieces := pieceCount (tagFmt c.r q.tag) q.elems }

/-- R331: elements of piece `k`. -/
def pieceElems (fmt n k : Nat) : Nat := min (fullPiece fmt) (n - k * fullPiece fmt)

/-- R331: the payload of piece `k` of wire bytes: its elements, then its scales. -/
def piecePayload (fmt n k : Nat) (bs : List Byte) : List Byte :=
  let m := pieceElems fmt n k
  slice bs (k * fullPiece fmt * wireElem fmt) (m * wireElem fmt)
  ++ slice bs (n * wireElem fmt + k * fullPiece fmt / 32) (wireScales fmt m)

/-- The end of a transfer: its instruction completes. -/
def endXfer (s : State) (t : Tid) (id : Nat) : State :=
  modTh s t (fun x => { x with xfers := x.xfers.filter (fun q => q.id != id), outs := x.outs.filter (fun o => !outOf id o) })

/-- R331, R321, R336: a SEND proceeds: its pieces leave, and the step awaits their delivery. -/
def runSend (s : State) (t : Tid) (c : CollCtx) (q : Xfer) : State :=
  let dest := c.g.members.getD q.peer 4096
  let fmt := tagFmt c.r q.tag
  let n := pieceCount fmt q.elems
  let s1 := (List.range n).foldl (fun s k => sendMsg s dest c.r.vc 0 ((pieceHead c q k).bytes ++ piecePayload fmt q.elems k q.bytes)) s
  let s2 := if n = 0 then s1 else
    { s1 with links := { s1.links with
      awaits := s1.links.awaits ++ [{ tid := t, dest := dest, vc := c.r.vc, mseq := nextMseq s1 dest c.r.vc - 1 }] } }
  settleWait (endXfer s2 t q.id) t

/-- R342: a staging buffer of the room changes state. -/
def setStage (x : Thread) (coll buf : Nat) (v : Stage) : Thread := { x with stages := pSet x.stages (coll, buf) v }

/-- R336, R342: a RECV completes. -/
def recvDone (s : State) (t : Tid) (q : Xfer) : State :=
  settleWait (modTh (endXfer s t q.id) t (fun x => setStage x q.coll q.buf .holding)) t

/-- One transfer goes on as far as it can. -/
def stepXfer (s : State) (t : Tid) (id : Nat) : State :=
  match (getTh s t).bind (fun x => x.xfers.find? (fun q => q.id == id)) with
  | none => s
  | some q =>
    match thColl s t q.coll, (getTh s t).bind (fun x => instOf x q) with
    | some c, some i =>
      let s1 := tryAnnounce s t c i q
      let i1 := ((getTh s1 t).bind (fun x => instOf x q)).getD i
      let s2 := tryMatch s1 t c i1 q
      match getTh s2 t with
      | none => s2
      | some x =>
        let ok := (instOf x q).any (fun i => (peerOf i q.peer q.carr).any (·.matched) && !orderHeld s2 t x i)
        if !ok || !x.xfers.any (fun r => r.id == id) then s2
        else if q.send then
          (if q.elems ≠ 0 && (directPorts s2 (c.g.members.getD q.peer 4096)).isEmpty then s2 else runSend s2 t c q)
        else if q.elems = 0 then recvDone s2 t q else s2
    | _, _ => s

/-- Every transfer of a room, in issue order. -/
def stepXfers (s : State) (t : Tid) : State := (((getTh s t).elim [] (·.xfers)).map (·.id)).foldl (fun s id => stepXfer s t id) s

/-! ## Received messages (R338 to R340) -/

/-- R340: the plan that holds a `coll_tag`. -/
def tagPlan (s : State) (tag : DWord) : Option Plan :=
  (admittedPlans s).find? (fun p => p.body.any (fun b => b.collTag == some tag))

/-- The carrier room that a header names, with what it needs to know. -/
def headRoom (s : State) (h : CollHead) : Option (Tid × CollCtx) :=
  match tagPlan s h.collTag with
  | none => none
  | some p =>
    match p.body.bind (fun b => (b.colls[h.coll]?).bind (fun r => (b.groups[r.group]?).bind (fun g => g.carriers[h.dstCarr]?))) with
    | none => none
    | some room => (p.body.bind (fun b => collCtx s b room h.coll)).map (fun c => ({ key := p.key, room := room }, c))

/-- R340: has the receiver already closed the instance that a header names? One that it has never opened is not closed. -/
def headClosed (s : State) (t : Tid) (c : CollCtx) (h : CollHead) : Bool :=
  match getTh s t with
  | none => true
  | some x =>
    if x.insts.any (fun i => i.coll == h.coll && i.sysTick == h.sysTick && i.seq == h.seq) then false
    else if h.bound then x.closed.contains (h.coll, h.sysTick, h.seq)
    else h.seq.toNat < (aGet x.opened c.r.group).getD 0
      && !x.insts.any (fun i => !i.bound && i.group == c.r.group && i.seq == h.seq)

/-- R340: a message is discarded; one record for each instance and sender. -/
def discard (s : State) (m : Msg) (h : CollHead) : State :=
  let id := (h.collTag, h.sysTick.toNat + b2n h.bound * 2 ^ 48, h.seq.toNat + h.coll * 2 ^ 32)
  let seen := s.links.discSeen.contains (id, msgSrc m)
  let s1 := releaseMsg s m
  let s2 := { s1 with links := { s1.links with
    discards := s1.links.discards + 1, discSeen := if seen then s1.links.discSeen else s1.links.discSeen ++ [(id, msgSrc m)] } }
  if seen then s2 else logFault s2 { code := 0x0404, d0 := dbits h.collTag 0 32, d1 := msgSrc m }

/-- R321: a message has become visible at its destination. -/
def visible (s : State) (m : Msg) : State :=
  let s1 := releaseMsg s m
  { s1 with links := { s1.links with
    deliv := s1.links.deliv.filter (fun d => !(d.1 == msgSrc m && d.2.1 == m.vc)) ++ [(msgSrc m, m.vc, msgSeq m)] } }

/-- R338: an announce enters the room's store of unmatched ones, which holds 4,096. -/
def takeAnnounce (s : State) (m : Msg) (t : Tid) (h : CollHead) : Option State :=
  if (s.links.anncs.filter (fun a => a.room == t.room)).length ≥ 4096 then none
  else
    let a : Annc := { room := t.room, src := msgSrc m, rank := h.rank, carr := h.carr, group := h.key, collTag := h.collTag,
                      coll := h.coll, bound := h.bound, sysTick := h.sysTick, seq := h.seq }
    let s1 := visible s m
    some (stepXfers { s1 with links := { s1.links with anncs := s1.links.anncs ++ [a] } } t)

/-- R335, R339: where a piece lands, and its bytes. -/
def landPiece (s : State) (r : RoomRec) (c : CollCtx) (q : Xfer) (k : Nat) (payload : List Byte) : State :=
  let fmt := tagFmt c.r q.tag
  let n := pieceElems fmt q.elems k
  let off := k * fullPiece fmt
  let els := slice payload 0 (n * wireElem fmt)
  let scs := slice payload (n * wireElem fmt) (wireScales fmt n)
  if q.fp32 then { s with mem := memWrite s.mem (spadPa r (q.addr + 4 * off)) (wordBytes (fromWire fmt n els scs)) }
  else
    let m1 := memWrite s.mem (spadPa r (q.addr + off * wireElem fmt)) els
    { s with mem := memWrite m1 (spadPa r (q.addr + q.elems * wireElem fmt + off / 32)) scs }

/-- R339: the oldest receive of an instance from a peer that is not complete and may take data. -/
def recvFor (s : State) (t : Tid) (h : CollHead) : Option Xfer :=
  (getTh s t).bind (fun x => (x.xfers.find? (fun q => !q.send && q.coll == h.coll && q.sysTick == h.sysTick && q.seq == h.seq
      && q.peer == h.rank && q.carr == h.carr)).filter (fun q =>
    (instOf x q).any (fun i => (peerOf i q.peer q.carr).any (·.matched) && !orderHeld s t x i)))

def modXfer (s : State) (t : Tid) (id : Nat) (f : Xfer → Xfer) : State :=
  modTh s t (fun x => { x with xfers := updFirst (fun q => q.id == id) f x.xfers })

/-- R339: a piece lands, or its match fails and its pieces are discarded; none while it waits for its receive. -/
def takePiece (s : State) (m : Msg) (t : Tid) (c : CollCtx) (h : CollHead) : Option State :=
  match recvFor s t h, thRec s t with
  | some q, some r =>
    if q.bad || h.tag != q.tag || h.elems ≠ q.elems then
      let s1 := if q.bad then s else refuseRoom s t (stepOf s t.key) 0x003B q.pc (q.seq.toNat + h.seq.toNat * 2 ^ 32)
      let s2 := releaseMsg s1 m
      some (if h.piece + 1 ≥ h.pieces then endXfer s2 t q.id else modXfer s2 t q.id (fun q => { q with bad := true }))
    else
      let s1 := visible (landPiece s r c q h.piece ((msgData m).drop 48)) m
      some (if q.got + 1 ≥ h.pieces then recvDone s1 t q else modXfer s1 t q.id (fun q => { q with got := q.got + 1 }))
  | _, _ => none

/-- R338 to R340: a message of the collectives is delivered; none while it stays in the receive buffer. -/
def collMsg (s : State) (m : Msg) : Option State :=
  let h := collHead (msgData m)
  match headRoom s h with
  | none => some (discard s m h)
  | some (t, c) =>
    if headClosed s t c h then some (discard s m h)
    else if h.ckind = 0 then takeAnnounce s m t h
    else takePiece s m t c h

/-- Are two messages of one source and channel? -/
def sameFlow (a b : Msg) : Bool := msgSrc a == msgSrc b && a.vc == b.vc

/-- R320: messages held in the receive buffer are tried, each source and channel in order. -/
def tryHeld : List Msg → State → List Msg → State × List Msg
  | [], s, kept => (s, kept)
  | m :: r, s, kept =>
    if kept.any (sameFlow m) then tryHeld r s (kept ++ [m])
    else match collMsg s m with
      | some s1 => tryHeld r s1 kept
      | none => tryHeld r s (kept ++ [m])

/-- One round: every transfer, then every held message. -/
def driveOnce (s : State) : State :=
  let s1 := ((s.threads.filter (fun x => !x.xfers.isEmpty)).map (·.tid)).foldl stepXfers s
  let (s2, kept) := tryHeld s1.links.pieces s1 []
  { s2 with links := { s2.links with pieces := kept } }

/-- The porch side goes on until nothing more can move. -/
def drive (s : State) : State :=
  Nat.repeat driveOnce (sumBy s.threads (fun x => x.xfers.length) + s.links.pieces.length + 1) s

/-- R338 to R340: a received message of a kind, in the order of its source and channel. -/
def collIn (s : State) (m : Msg) (kind : Nat) : State :=
  if !alive s || !msgNext s m || msgType m ≠ 0 || (collHead (msgData m)).ckind ≠ kind || msgLen m < 48 then s
  else
    let s1 := bumpRx s m
    drive { s1 with links := { s1.links with pieces := s1.links.pieces ++ [m] } }

/-- R338: ANNOUNCE. -/
def execAnnounce (msg : Msg) (s : State) : Out1 := .next (collIn s msg 0)
/-- R339: PIECE. -/
def execPiece (msg : Msg) (s : State) : Out1 := .next (collIn s msg 1)

/-! ## PORCH_SEND and PORCH_RECV (R334 to R342) -/

/-- R334: a porch descriptor. -/
structure PorchDesc where
  coll  : Nat
  opens : Bool
  fp32  : Bool
  buf   : Nat
  elems : Nat
deriving DecidableEq, Repr

def porchDesc (bs : List Byte) : PorchDesc :=
  { coll := fieldAt bs 0 8 12, opens := fieldAt bs 0 20 1 = 1, fp32 := fieldAt bs 0 21 1 = 1, buf := fieldAt bs 0 22 3,
    elems := getLE bs 4 4 }

/-- R337: the instance that a PORCH instruction belongs to, opened where `open` asks; none when it is refused. -/
def porchInst (c : RC) (k : CollCtx) (d : PorchDesc) : Option (Thread × Inst) :=
  if d.opens then
    let n := (aGet c.th.opened k.r.group).getD 0
    let id := c.th.ticket
    if k.r.bound && k.r.step ≠ c.k then none
    else
      let i : Inst := if k.r.bound then { id := id, coll := k.coll, group := k.r.group, bound := true, sysTick := sysTick c.s, seq := BitVec.ofNat 32 k.r.order }
                      else { id := id, coll := k.coll, group := k.r.group, bound := false, sysTick := 0, seq := BitVec.ofNat 32 n }
      let x := if k.r.bound then c.th else { c.th with opened := aSet c.th.opened k.r.group (n + 1) }
      some ({ x with insts := x.insts ++ [i], ticket := id + 1 }, i)
  else (lastInst c.th k.coll).map (fun i => (c.th, i))

/-- R338: the instance names a peer. -/
def namePeer (x : Thread) (i : Inst) (rank carr : Nat) : Thread :=
  if (peerOf i rank carr).isSome then x
  else { x with insts := updFirst (sameInst i) (fun i => { i with peers := i.peers ++ [{ rank := rank, carr := carr }] }) x.insts }

/-- R37, R341: is a bound instance refused because ALIGNED fell in an earlier tick? -/
def unaligned (s : State) (k : CollCtx) (d : PorchDesc) : Bool :=
  d.opens && k.r.bound && !s.tick.aligned && !s.tick.alignedB

/-- R37: the collective is refused with TICK_UNALIGNED: the fault table has no code for it, so the miss carries it (DEDUCED
29). -/
def refuseUnaligned (c : RC) : State :=
  setCause (modTh c.s c.t (fun x => { x with stat := .refused })) c.t.key 0x24

/-- R334: bytes of a transfer in the scratchpad. -/
def porchBytes (d : PorchDesc) (fmt : Nat) : Nat := if d.fp32 then 4 * d.elems else wireLen fmt d.elems

/-- R334 to R342: PORCH_SEND and PORCH_RECV. -/
def porch (s : State) (t : Tid) (i : RoomIns) (send : Bool) : State :=
  runIns s t i (fun c =>
    let d := porchDesc (c.desc i.imm.toNat 32)
    let b := sReg c.th i.b.toNat
    let addr := (sReg c.th i.a.toNat).toNat
    let tag := BitVec.ofNat 32 (dbits b 0 32)
    let rank := dbits b 32 12
    let carr := dbits b 44 6
    match collCtx c.s c.b c.r.room d.coll with
    | none => c.refuse 0x003B 0
    | some k =>
      let fmt := tagFmt k.r tag
      let n := porchBytes d fmt
      if !c.inSpad addr n 64 then c.refuse 0x0100 addr
      else if rank ≥ k.g.members.length || rank = k.rank then c.refuse 0x003B 0
      else if unaligned c.s k d then refuseUnaligned c
      else match porchInst c k d with
        | none => c.refuse 0x003B 0
        | some (x, inst) =>
          if !send && pGet c.th.stages (d.coll, d.buf) == some .midReduction then c.s
          else
            let reads := if send then [rSpad addr n] else []
            let writes := if send then [] else [rSpad addr n]
            match holdFor c.th.outs 6 reads writes with
            | none => c.s
            | some l =>
              let id := x.ticket
              let wire := if !send then [] else
                if d.fp32 then toWire fmt (readWords c.s.mem (spadPa c.r addr) d.elems) else c.spad addr n
              let q : Xfer := { id := id, inst := inst.id, send := send, coll := d.coll, peer := rank, carr := carr, tag := tag, elems := d.elems,
                                fp32 := d.fp32, buf := d.buf, addr := addr, bytes := wire, sysTick := inst.sysTick,
                                seq := inst.seq, pc := x.pc }
              let o : Out := { unit := 6, reads := reads, writes := writes, ends := if send then .send id else .recv id }
              let x1 := namePeer { x with ticket := id + 1, xfers := x.xfers ++ [q], outs := l ++ [o] } inst rank carr
              let x2 := if send then x1 else setStage x1 d.coll d.buf .midReduction
              drive (putTh c.s (advance1 (addMov x2))))

/-- R334 to R341: PORCH_SEND. -/
def execPorchSend (t : Tid) (i : RoomIns) (s : State) : Out1 := .next (porch s t i true)
/-- R334 to R342: PORCH_RECV. -/
def execPorchRecv (t : Tid) (i : RoomIns) (s : State) : Out1 := .next (porch s t i false)

/-! ## What a step's end and a joining partner let go on -/

/-- R136, R155, R340: STEP_END. -/
def execStepEnd (t : Tid) (i : RoomIns) (s : State) : Out1 := .next (runIns s t i (fun c => drive (beginWait c .stepEnd)))
/-- R135, R155, R340: PROG_END. -/
def execProgEnd (t : Tid) (i : RoomIns) (s : State) : Out1 := .next (runIns s t i (fun c => drive (beginWait c .progEnd)))

/-- R309 to R311: HELLO. -/
def execHello (port : Nat) (flit : List Byte) (s : State) : Out1 :=
  .next (drive (rxFlit s port flit 4 (fun s f => helloIn s port f)))
/-- R309: HELLO_ACK. -/
def execHelloAck (port : Nat) (flit : List Byte) (s : State) : Out1 :=
  .next (drive (rxFlit s port flit 4 (fun s f => helloAckIn s port f)))

end Sys2Proof.Machine
end

