-- ==== Sys2Proof/Machine/Walker.lean ====
section
/-! DEFINITION. The page walker (R234, R242 to R252, R258 to R261): walks, chunks, latent expansion, stores, sessions. -/
namespace Sys2Proof.Machine

/-! ## Page layout (R234, R235) -/

/-- Padded to the next multiple of 64. -/
def pad64 (n : Nat) : Nat := cdiv n 64 * 64

/-- R234: bytes of a block. -/
def blockBytes (w : WalkTable) : Nat :=
  if w.latent then pad64 (w.dK * groupBytes w.fmtK)
  else pad64 (w.dK * groupBytes w.fmtK) + pad64 (w.dK * w.scale) + pad64 (w.dV * groupBytes w.fmtV)
    + pad64 (if w.scale = 0 then 0 else 64 * (w.dV / 32))

/-- R235: blocks of a page. -/
def pageBlocks (w : WalkTable) (log2 : Nat) : Nat := 2 ^ log2 / blockBytes w

/-! ## Walker descriptors (R244) -/

structure Band where
  dtLo : Int
  dtHi : Int
  tStep : Nat
  rh : Nat
  rw : Nat
  sStep : Nat
  diag : Bool
deriving DecidableEq, Repr

structure WalkDesc where
  op : Nat
  table : Nat
  slot : Nat
  expand : Bool
  hasOut : Bool
  outId : Nat
  chunk : Nat
  indexBase : Nat
  prefixFirst : Nat
  prefixCount : Nat
  wk : Nat
  wv : Nat
  tile : Nat
  run : Nat
  fmtK : Nat
  fmtV : Nat
  bands : List Band
deriving DecidableEq, Repr

def bandOf (bs : List Byte) : Band :=
  let n := getLE bs 0 8
  { dtLo := signed (bits n 0 8) 8, dtHi := signed (bits n 8 8) 8, tStep := bits n 16 8, rh := bits n 24 8, rw := bits n 32 8,
    sStep := bits n 40 8, diag := bitOf n 48 }

def walkDesc (bs : List Byte) : WalkDesc :=
  { op := fieldAt bs 0 8 3, table := fieldAt bs 0 11 6, slot := fieldAt bs 0 17 2, expand := fieldAt bs 0 19 1 = 1,
    hasOut := fieldAt bs 0 20 1 = 1, outId := getLE bs 4 2, chunk := fieldAt bs 4 16 7, indexBase := getLE bs 8 4,
    prefixFirst := getLE bs 0x10 4, prefixCount := getLE bs 0x14 2, wk := getLE bs 0x18 4, wv := getLE bs 0x1C 4,
    tile := fieldAt bs 0x20 0 5, run := fieldAt bs 0x20 5 2, fmtK := fieldAt bs 0x20 7 4, fmtV := fieldAt bs 0x20 11 4,
    bands := (List.range (fieldAt bs 0xC 0 3)).map (fun b => bandOf (slice bs (0x28 + 8 * b) 8)) }

/-- R244: a lattice from `lo` to `hi`. -/
def lattice (lo hi : Int) (step : Nat) : List Int :=
  if hi < lo then [] else (List.range ((hi - lo).toNat / max 1 step + 1)).map (fun (m : Nat) => lo + (m : Int) * (step : Int))

/-! ## The walk list (R246) -/

/-- A page position of a walk list: its entry and offsets. -/
structure Spot where
  index : Nat
  band  : Nat
  dt    : Int := 0
  dh    : Int := 0
  dw    : Int := 0
  diag  : Bool := false
deriving DecidableEq, Repr

/-- R246: a grid position; none off the grid. -/
def inGrid (x : Int) (n : Nat) : Option Nat := if 0 ≤ x ∧ x < n then some x.toNat else none

/-- R246: one offset of a band. -/
def bandSpot (d : WalkDesc) (w : WalkTable) (q : DWord) (b : Nat) (diag : Bool) (dt dh dw : Int) : Option Spot :=
  match inGrid ((dbits q 0 16 : Nat) + dt) w.nt, inGrid ((dbits q 16 16 : Nat) + dh) w.nh, inGrid ((dbits q 32 16 : Nat) + dw) w.nw with
  | some t, some h, some x =>
    let i := d.indexBase + (t * w.nh + h) * w.nw + x
    if d.prefixFirst ≤ i ∧ i < d.prefixFirst + d.prefixCount then none
    else some { index := i, band := b, dt := dt, dh := dh, dw := dw, diag := diag && dt == 0 && dh == 0 && dw == 0 }
  | _, _, _ => none

/-- R246: the pages of one band: ascending dt, then dh, then dw. -/
def bandSpots (d : WalkDesc) (w : WalkTable) (q : DWord) (b : Nat) (x : Band) : List Spot :=
  ((lattice x.dtLo x.dtHi x.tStep).map (fun dt =>
    ((lattice (-(x.rh : Int)) x.rh x.sStep).map (fun dh =>
      (lattice (-(x.rw : Int)) x.rw x.sStep).filterMap (fun dw => bandSpot d w q b x.diag dt dh dw))).flatten)).flatten

/-- R246: the pages of a walk list. -/
def walkSpots (d : WalkDesc) (w : WalkTable) (q : DWord) : List Spot :=
  (List.range d.prefixCount).map (fun i => { index := d.prefixFirst + i, band := 4 })
  ++ ((enum d.bands).map (fun p => bandSpots d w q p.1 p.2)).flatten

/-- R260: an entry as a walk sees it, with the candidate of its overlay. -/
def seenEntry (t : KvTable) (gen : Word) (cand i : Nat) : KvEntry × Option Nat :=
  let o := if cand = 0 then none else t.session.bind (fun q => overlayEntry q (candPath q (cand - 1) 9) i)
  match o with
  | some (k, e) => (e, some k)
  | none => (kvEntry (genEntries t gen) i, none)

/-- A block of a walk list. -/
structure Blk where
  spot  : Spot
  entry : KvEntry
  skip  : Bool
  cand  : Option Nat
  block : Nat
deriving DecidableEq, Repr

/-- R236, R246, R258, R389: the blocks of one page; `forced` when the replay list skips it, whatever its state: of an
EMPTY entry neither the list nor the table gives the number of blocks, which is free (DESIGN CHOICE 139). -/
def spotBlocks (t : KvTable) (gen : Word) (cand : Nat) (forced : Nat → Bool) (p : Spot) : List Blk :=
  let (e, k) := seenEntry t gen cand p.index
  let skip := match e with
    | .dropped _ _ => true
    | _ => forced p.index
  let n := if skip && e == .empty then Config.skippedBlocks t.handle p.index % 4096 else cdiv (fillOf e) 32
  (List.range n).map (fun b => { spot := p, entry := e, skip := skip, cand := k, block := b })

/-! ## Issue of a GATHER (R245, R247, R248, R251) -/

/-- The table record of a descriptor. -/
def walkRec (b : PlanBody) (d : WalkDesc) : Option WalkTable := b.walkTables[d.table]?

/-- R248: bytes of a data area. -/
def areaBytes (d : WalkDesc) (w : WalkTable) : Nat :=
  if d.expand then w.expDk * groupBytes d.fmtK + w.expDv * groupBytes d.fmtV else blockBytes w

/-- R248: where the data areas of a chunk slot start. -/
def areaStart (d : WalkDesc) : Nat := 64 + pad64 (16 * d.chunk)

/-- R248: bytes of a chunk slot. -/
def slotBytes (d : WalkDesc) (w : WalkTable) : Nat :=
  areaStart d + d.chunk * areaBytes d w + (if d.expand then d.chunk * blockBytes w else 0)

/-- R251: does `cand` name a candidate of an open session? -/
def candOk (t : KvTable) (cand : Nat) : Bool := cand = 0 || t.session.any (fun q => decide (cand ≤ q.overlays.length))

/-- R249: the weights that an expansion reads, as window ranges. -/
def weightRanges (d : WalkDesc) (w : WalkTable) : List (Nat × Nat) :=
  [(d.wk, w.expDk / 32 * (w.dK * groupBytes w.fmtK)), (d.wv, w.expDv / 32 * (w.dK * groupBytes w.fmtK))].filter (fun p => p.2 != 0)

/-- R249, R251: tiles and weights of an expansion inside the windows, aligned as an MMA needs them. -/
def expandOk (c : RC) (d : WalkDesc) (w : WalkTable) : Bool :=
  d.tile + 2 ≤ c.r.accLen && (weightRanges d w).all (fun p => c.inSpad p.1 p.2 64)

/-- The next number of a walk of the context (R240). -/
def startWalk (s : State) (ctx : Nat) : State := modCtx s ctx (fun x => { x with walks := x.walks + 1 })

/-- R247: is the slot's walk the one that this GATHER continues? -/
def sameWalk (bs : List Byte) (q : DWord) (w : Walk) : Bool := w.desc == bs && w.query == q

/-- R247: the walk that runs in the slot. -/
def slotWalk (x : Thread) (slot : Nat) : Option Walk := x.walks.find? (fun w => w.slot == slot && !w.ended)

/-- R247: an ended walk keeps its generation for the chunks it still has outstanding (DESIGN CHOICE 134), and is gone with the last. -/
def sweepWalks (l : List Walk) : List Walk := l.filter (fun w => !(w.ended && w.chunks.isEmpty))

/-- R247: a new walk ends the one that ran in its slot. -/
def replaceWalk (x : Thread) (w : Walk) : Thread :=
  { x with walks := sweepWalks (x.walks.map (fun v => if v.slot == w.slot then { v with ended := true } else v)) ++ [w] }

/-- R247: a chunk is requested of the walk that runs in the slot. -/
def addChunk (slot : Nat) (ch : Nat × Nat × Nat) (l : List Walk) : List Walk :=
  updFirst (fun w => w.slot == slot && !w.ended) (fun w => { w with chunks := w.chunks ++ [ch] }) l

/-- The operand of a GATHER without its chunk index. -/
def queryOf (b : DWord) : DWord := BitVec.ofNat 64 (dbits b 0 48 + dbits b 60 4 * 2 ^ 60)

/-- R193, R258: the tags of a PGATHER. -/
def walkTag (s : State) (k : PlanKey) (d : WalkDesc) (live : Bool) : State :=
  if d.hasOut then
    modPlan (tagOutput s k d.outId live) k (fun p => { p with run := p.run.map (fun r => { r with walkTags := r.walkTags ++ [d.outId] }) })
  else s

/-- R245 to R251: GATHER. -/
def gather (c : RC) (bs : List Byte) (i : RoomIns) : State :=
  let d := walkDesc bs
  let a := sReg c.th i.a.toNat
  let b := sReg c.th i.b.toNat
  let addr := dbits a 0 32
  let chunk := dbits b 48 12 + dbits a 32 20 * 2 ^ 12
  let cand := dbits b 60 4
  match (walkRec c.b d).bind (fun w => (getKv c.s c.ctx w.handle).map (fun t => (w, t))) with
  | none => c.refuse 0x0104 0
  | some (w, t) =>
    let n := slotBytes d w
    let spots := walkSpots d w (queryOf b)
    if dbits a 52 12 ≠ 0 then c.refuse 0x0100 a.toNat
    else if !c.inSpad addr n 64 then c.refuse 0x0100 addr
    else match spots.find? (fun p => p.index ≥ t.size) with
      | some p => c.refuse 0x0100 p.index
      | none =>
        if d.expand && !expandOk c d w then refuseFor c.s c.t c.k 0x003A c.th.pc 0 0x3D
        else if !candOk t cand then c.refuse 0x0104 w.handle
        else
          let reads := if d.expand then (weightRanges d w).map (fun p => rSpad p.1 p.2) else []
          let writes := rSpad addr n :: (if d.expand then [rTile d.tile 2] else [])
          let live := spots.any (fun p => fillOf (seenEntry t t.gen cand p.index).1 != 0)
          c.issue 6 reads writes (.chunk d.slot) (fun s x =>
            let old := (slotWalk x d.slot).filter (sameWalk bs (queryOf b))
            let s1 := walkTag (if old.isNone then startWalk s c.ctx else s) c.t.key d live
            let x1 := if old.isSome then x else replaceWalk x
              { slot := d.slot, number := (getCtx s1 c.ctx).walks, handle := w.handle, gen := t.gen, desc := bs, query := queryOf b,
                chunks := [] }
            (s1, addMov { x1 with walks := addChunk d.slot (chunk, addr, x.pc) x1.walks }))

/-! ## A chunk lands (R248, R249, R258) -/

/-- R248: tokens of a block that hold data. -/
def blkValid (b : Blk) : Nat := if b.skip then 0 else min 32 (fillOf b.entry - 32 * b.block)

/-- R248: a block record; candidates are numbered as in the tree record (DEDUCED 30). -/
def blkRecord (b : Blk) : List Byte :=
  leBytes b.spot.index 4
  ++ leBytes (b.block + blkValid b * 2 ^ 12 + b.spot.band * 2 ^ 18 + b2n b.spot.diag * 2 ^ 21 + b2n b.skip * 2 ^ 22
      + b2n b.cand.isSome * 2 ^ 23 + b.cand.getD 0 * 2 ^ 24) 4
  ++ leBytes (unsigned b.spot.dt 16 + unsigned b.spot.dh 16 * 2 ^ 16) 4 ++ leBytes (unsigned b.spot.dw 16) 4

/-- R248: the header of a chunk. -/
def chunkHeader (blocks : List Blk) (chunk first total : Nat) (gen : Word) : List Byte :=
  padTo (leBytes (blocks.length + b2n (decide (total ≤ first + chunk)) * 2 ^ 7 + b2n (blocks.any (·.skip)) * 2 ^ 8
      + b2n (blocks.any (·.cand.isSome)) * 2 ^ 9) 4 ++ leBytes total 4 ++ leBytes gen.toNat 4) 64

/-- The bytes of a block of a page. -/
def blkBytes (s : State) (w : WalkTable) (b : Blk) : List Byte :=
  match b.skip, frameOf b.entry with
  | false, some f => memRead s.mem (f + b.block * blockBytes w) (blockBytes w)
  | _, _ => zeros (blockBytes w)

/-- R249: the MMA of one group of an expansion. -/
def expandMma (d : WalkDesc) (w : WalkTable) (n : Nat) : MmaImm :=
  { tile := d.tile + n % 2, fmtA := w.fmtK, fmtB := w.fmtK, scale := 0, zero := true, kb := w.dK / 32, run := 4 * 2 ^ d.run,
    trA := false, trB := false }

/-- R249: one group of an expansion: the MMA on back array 1, and its ACC_OUT. -/
def expandGroup (exact : Bool) (r : RoomRec) (d : WalkDesc) (w : WalkTable) (stage dst wts fmt : Nat) (col : Bool) (n : Nat)
    (m : List Host.Cell) : List Host.Cell :=
  let mma := expandMma d w n
  accOutMem r { tile := mma.tile, fmt := fmt, scale := 0, col := col } dst 0 (mmaMem exact r mma { a := stage, b := wts, sa := 0, sb := 0 } m)

/-- R249, R419: the array cycles of `n` expansion MMAs, which count as the room's own. -/
def expandCycles (exact : Bool) (d : WalkDesc) (w : WalkTable) (n : Nat) (m : Meter) : Meter :=
  addCycles m w.fmtK (n * mmaCycles exact 2 (expandMma d w 0))

/-- R249: the expansion of one block; `n` counts the chunk's expansion MMAs so far. -/
def expandBlock (exact : Bool) (r : RoomRec) (d : WalkDesc) (w : WalkTable) (stage dst n : Nat) (m : List Host.Cell) : List Host.Cell :=
  let wb := w.dK * groupBytes w.fmtK
  let gk := w.expDk / 32
  let m1 := (List.range gk).foldl (fun m g =>
    expandGroup exact r d w stage (dst + g * 32 * groupBytes d.fmtK) (d.wk + g * wb) d.fmtK true (n + g) m) m
  (List.range (w.expDv / 32)).foldl (fun m g =>
    expandGroup exact r d w stage (dst + w.expDk * groupBytes d.fmtK + g * 32 * groupBytes d.fmtV) (d.wv + g * wb) d.fmtV false
      (n + gk + g) m) m1

/-- R248, R249: one block lands at place `k` of the slot: its memory, and the expansion MMAs so far. -/
def landBlock (exact : Bool) (s : State) (r : RoomRec) (d : WalkDesc) (w : WalkTable) (addr : Nat)
    (acc : List Host.Cell × Nat) (kb : Nat × Blk) : List Host.Cell × Nat :=
  let dst := addr + areaStart d + kb.1 * areaBytes d w
  let bytes := blkBytes s w kb.2
  if !d.expand then (memWrite acc.1 (spadPa r dst) bytes, acc.2)
  else
    let stage := addr + areaStart d + d.chunk * areaBytes d w + kb.1 * blockBytes w
    let m1 := memWrite acc.1 (spadPa r stage) bytes
    if kb.2.skip then (memWrite m1 (spadPa r dst) (zeros (areaBytes d w)), acc.2)
    else (expandBlock exact r d w stage dst acc.2 m1, acc.2 + w.expDk / 32 + w.expDv / 32)

/-- R258, R383: a skipped entry is reported and listed. -/
def reportSkip (s : State) (t : Tid) (k handle index : Nat) : State :=
  let body := choiceBody 2 k handle index 0
  let s1 := raisePlan s t.key { code := 0x0107, step := k, room := some t.room, slot := some (slotOf s t.room), d0 := handle, d1 := index } 127
  let listed := (getPlan s t.key).any (fun p => p.items.any (fun i => i.type == 8 && i.body == body))
  modPlan (if listed then s1 else addItem s1 t.key 8 body) t.key (fun p => { p with run := p.run.map (fun r => { r with skipped := true }) })

/-- R233: the pages whose blocks a chunk delivers are touched. -/
def touchBlocks (s : State) (bs : List Blk) : State :=
  bs.foldl (fun s b => if b.skip then s else (frameOf b.entry).elim s (touchFrame s)) s

/-- The first chunk that a walk has outstanding. -/
def takeChunk (slot : Nat) : List Walk → Option (Walk × (Nat × Nat × Nat))
  | [] => none
  | w :: r =>
    match w.slot == slot, w.chunks with
    | true, c :: _ => some (w, c)
    | _, _ => takeChunk slot r

/-- R247: the oldest chunk outstanding in the slot has landed; its walk ends with the list's last chunk. -/
def walkLanded (slot : Nat) (ended : Bool) (l : List Walk) : List Walk :=
  sweepWalks (updFirst (fun w => w.slot == slot && !w.chunks.isEmpty)
    (fun w => { w with chunks := w.chunks.drop 1, ended := w.ended || ended }) l)

/-- R248: the oldest requested chunk of a walk slot lands. -/
def chunkLand (s : State) (t : Tid) (slot : Nat) : State :=
  match getTh s t, getPlan s t.key, thRec s t with
  | some x, some p, some r =>
    match takeChunk slot x.walks, p.body with
    | some (wk, chunk, addr, _), some b =>
      let d := walkDesc wk.desc
      match (walkRec b d).bind (fun w => (getKv s t.key.ctx w.handle).map (fun kt => (w, kt))) with
      | none => s
      | some (w, kt) =>
        let k := stepOf s t.key
        let forced := fun i => replaying p && replayHas p 2 k w.handle i 0
        let all := ((walkSpots d w wk.query).map (spotBlocks kt wk.gen (dbits wk.query 60 4) forced)).flatten
        let first := chunk * d.chunk
        let blocks := (all.drop first).take d.chunk
        let ended := decide (all.length ≤ first + d.chunk)
        let m1 := memWrite s.mem (spadPa r addr) (chunkHeader blocks d.chunk first all.length wk.gen)
        let m2 := memWrite m1 (spadPa r (addr + 64)) (padTo ((blocks.map blkRecord).flatten) (areaStart d - 64))
        let (m3, n) := (enum blocks).foldl (landBlock b.reference s r d w addr) (m2, 0)
        let s1 := modTh { s with mem := m3 } t (fun x =>
          { x with walks := walkLanded slot ended x.walks, meter := expandCycles b.reference d w n x.meter, outs := dropFirst (fun o => o.ends == .chunk slot) x.outs })
        let skips := ((blocks.filter (·.skip)).map (·.spot.index)).eraseDups
        skips.foldl (fun s i => reportSkip s t k w.handle i) (touchBlocks s1 blocks)
    | _, _ => s
  | _, _, _ => s

/-- R248: WALK_CHUNK_LAND. -/
def execWalkChunkLand (t : Tid) (slot : Nat) (s : State) : Out1 := .next (if alive s then settleWait (chunkLand s t slot) t else s)

/-! ## STORE (R245, R252) -/

/-- R245: a STORE as its operands give it. -/
def storeReq (ctx : Nat) (w : WalkTable) (b : DWord) (data : List Byte) : StoreReq :=
  { ctx := ctx, handle := w.handle, index := dbits b 0 32, block := dbits b 32 12, count := dbits b 44 8,
    last := if dbits b 52 5 = 0 then 32 else dbits b 52 5, cand := dbits b 60 4, bb := blockBytes w, data := data }

/-- R292: the next place in the order of waiting allocations. -/
def nextOrd (s : State) : Nat := maxBy s.threads (fun x => maxBy x.stores (fun w => w.ord + 1))

/-- R78: where the data of a STORE has landed. -/
def storedRanges (s : State) (q : StoreReq) : List Range :=
  match getKv s q.ctx q.handle with
  | none => []
  | some t =>
    let ovl := if q.cand = 0 then none else t.session.bind (fun v => overlayEntry v (candPath v (q.cand - 1) 9) q.index)
    match frameOf (ovl.elim (kvEntry (kvNewest t) q.index) (·.2)) with
    | none => []
    | some f => if q.count = 0 then [] else [{ space := .frame, lo := f + q.block * q.bb, hi := f + q.block * q.bb + q.data.length }]

/-- R252: STORE. -/
def walkStore (c : RC) (bs : List Byte) (i : RoomIns) : State :=
  let d := walkDesc bs
  let a := sReg c.th i.a.toNat
  let b := sReg c.th i.b.toNat
  let addr := dbits a 0 32
  match (walkRec c.b d).bind (fun w => (getKv c.s c.ctx w.handle).map (fun t => (w, t))) with
  | none => c.refuse 0x0104 0
  | some (w, t) =>
    let n := dbits b 44 8 * blockBytes w
    if dbits a 32 32 ≠ 0 then c.refuse 0x0100 a.toNat
    else if !c.inSpad addr n 64 then c.refuse 0x0100 addr
    else if dbits b 0 32 ≥ t.size then c.refuse 0x0100 (dbits b 0 32)
    else if dbits b 32 12 + dbits b 44 8 > pageBlocks w t.pageLog2 then c.refuse 0x0100 (dbits b 32 12)
    else if !candOk t (dbits b 60 4) then c.refuse 0x0104 w.handle
    else
      let q := storeReq c.ctx w b (c.spad addr n)
      let s0 := walkTag c.s c.t.key d (q.count != 0)
      match kvStore s0 q with
      | some _ => c.issue 6 [rSpad addr n] [] .unit (fun s x =>
          let s1 := (kvStore (walkTag s c.t.key d (q.count != 0)) q).getD s
          (s1, addMov (noteCtx s1 x [] (storedRanges s1 q))))
      | none =>
        c.issue 6 [rSpad addr n] [] .alloc (fun s x =>
          (walkTag s c.t.key d true, addMov { x with stores := x.stores ++ [{ desc := bs, sa := addr, sb := b, ord := nextOrd s }] }))

/-- R252: a STORE that waits tries its allocation again. -/
def retryStore (s : State) (t : Tid) (q : StoreWait) : State :=
  match ((getPlan s t.key).bind (·.body)).bind (fun b => walkRec b (walkDesc q.desc)), thRec s t with
  | some w, some r =>
    let n := dbits q.sb 44 8 * blockBytes w
    match kvStore s (storeReq t.key.ctx w q.sb (memRead s.mem (spadPa r q.sa) n)) with
    | none => s
    | some s1 =>
      settleWait (modTh s1 t (fun x =>
        { (noteCtx s1 x [] (storedRanges s1 (storeReq t.key.ctx w q.sb (memRead s.mem (spadPa r q.sa) n)))) with
          stores := x.stores.filter (fun v => v.ord != q.ord), outs := dropFirst (fun o => o.ends == .alloc) x.outs })) t
  | _, _ => s

/-- R252, R292: waiting STOREs of every context try again, in the order in which they began to wait. -/
def retryStores (s : State) : State :=
  (s.ctxs.map (·.1)).foldl (fun s c => (waitingStores s c).foldl (fun s w => retryStore s w.1 w.2) s) s

/-! ## Sessions (R245, R259, R261) -/

/-- R259: the parents of a tree record; none when it is malformed. -/
def treeParents (bs : List Byte) : Option (List (Option Nat)) :=
  let n := getLE bs 0 1
  let ps := (List.range n).map (fun i => getLE bs (8 + i) 1)
  if 1 ≤ n ∧ n ≤ 8 ∧ allZero (slice bs 1 7) ∧ allZero (bs.drop (8 + n)) ∧ (enum ps).all (fun p => p.2 = 255 || p.2 < p.1) then
    some (ps.map (fun p => if p = 255 then none else some p))
  else none

/-- R259: a session opens. -/
def openSession (s : State) (t : Tid) (w : WalkTable) (tree : List Byte) (ps : List (Option Nat)) : State :=
  modKv s t.key.ctx w.handle (fun kt =>
    { kt with session := some { key := t.key, room := t.room, tree := tree, parents := ps, overlays := ps.map (fun _ => []) } })

/-- R259: VERIFY_OPEN. -/
def verifyOpen (c : RC) (bs : List Byte) (i : RoomIns) : State :=
  let d := walkDesc bs
  let a := sReg c.th i.a.toNat
  let addr := dbits a 0 32
  match (walkRec c.b d).bind (fun w => (getKv c.s c.ctx w.handle).map (fun t => (w, t))) with
  | none => c.refuse 0x0104 0
  | some (w, t) =>
    if dbits a 32 32 ≠ 0 then c.refuse 0x0100 a.toNat
    else if !c.inSpad addr 16 64 then c.refuse 0x0100 addr
    else if t.session.isSome then c.refuse 0x0104 w.handle
    else
      let tree := c.spad addr 16
      match treeParents tree with
      | none => c.refuse 0x0104 w.handle
      | some ps => c.issue 6 [rSpad addr 16] [] .unit (fun s x => (walkTag (openSession s c.t w tree ps) c.t.key d true, addMov x))

/-- R389: the leaf that a replay list forces: the first COMMIT of a table in a step takes the first of their entries, and so on. -/
def forcedLeaf (p : Plan) (k handle : Nat) : Option Nat :=
  if replaying p then
    let done := (p.items.filter (fun i => i.type == 9 && fieldAt i.body 0 0 24 == k && getLE i.body 4 2 == handle)).length
    (p.replay.filter (fun e => getLE e 0 1 == 5 && fieldAt e 4 0 24 == k && getLE e 8 2 == handle))[done]?.map (fun e => fieldAt e 0xC 0 4)
  else none

/-- R261: COMMIT. -/
def walkCommit (c : RC) (bs : List Byte) (i : RoomIns) : State :=
  let d := walkDesc bs
  let a := sReg c.th i.a.toNat
  match (walkRec c.b d).bind (fun w => (getKv c.s c.ctx w.handle).map (fun t => (w, t))) with
  | none => c.refuse 0x0104 0
  | some (w, t) =>
    let leaf := (forcedLeaf c.p c.k w.handle).getD (dbits (sReg c.th i.b.toNat) 0 4)
    if dbits a 32 32 ≠ 0 then c.refuse 0x0100 a.toNat
    else if t.session.isNone || !candOk t leaf then c.refuse 0x0104 w.handle
    else c.issue 6 [] [] .unit (fun s x => (walkTag (kvCommit s c.ctx w.handle leaf c.k) c.t.key d true, addMov x))

/-! ## PGATHER -/

/-- R140, R244: PGATHER does what its descriptor's `op` selects; 4 to 7 are refused at admission. -/
def pgather (s : State) (t : Tid) (i : RoomIns) : State :=
  runIns s t i (fun c =>
    let bs := c.desc i.imm.toNat 128
    match (walkDesc bs).op with
    | 0 => gather c bs i
    | 1 => walkStore c bs i
    | 2 => verifyOpen c bs i
    | 3 => walkCommit c bs i
    | _ => c.refuse 0x0104 0)

/-- R246: PGATHER, `op` GATHER. -/
def execGather (t : Tid) (i : RoomIns) (s : State) : Out1 := .next (pgather s t i)
/-- R252: PGATHER, `op` STORE. -/
def execStore (t : Tid) (i : RoomIns) (s : State) : Out1 := .next (pgather s t i)
/-- R259: PGATHER, `op` VERIFY_OPEN. -/
def execVerifyOpen (t : Tid) (i : RoomIns) (s : State) : Out1 := .next (pgather s t i)
/-- R261: PGATHER, `op` COMMIT. -/
def execCommit (t : Tid) (i : RoomIns) (s : State) : Out1 := .next (pgather s t i)

end Sys2Proof.Machine
end

