-- ==== Sys2Proof/Machine/Descs.lean ====
section
/-! DEFINITION. Descriptor bodies (R108 to R114): MOVE, PAGE, TICK_WAIT, CTX_OPEN, CTX_CLOSE and PLAN_WITHDRAW. -/
namespace Sys2Proof.Machine

/-! ## MOVE (R109, R110) -/

def moveDir (d : Desc) : Nat := dbits d.w20 48 2
def moveLen (d : Desc) : Nat := dbits d.w20 0 32
def moveRows (d : Desc) : Nat := dbits d.w20 32 16 + 1
/-- R109: a stride, ignored for a single row. -/
def srcStride (d : Desc) : Nat := if moveRows d = 1 then 0 else dbits d.w28 0 32
def dstStride (d : Desc) : Nat := if moveRows d = 1 then 0 else dbits d.w28 32 32

/-- Row starts. -/
def srcRows (d : Desc) : List Nat := (List.range (moveRows d)).map (fun i => d.w10.toNat + i * srcStride d)
def dstRows (d : Desc) : List Nat := (List.range (moveRows d)).map (fun i => d.w18.toNat + i * dstStride d)

/-- Do any source and destination rows of a length meet? -/
def rowsMeet (n : Nat) (a b : List Nat) : Bool := a.any (fun x => b.any (fun y => decide (x < y + n) && decide (y < x + n)))

/-- R376: does a range of context addresses touch a placement? -/
def inPlacement (s : State) (c a n : Nat) : Bool :=
  n != 0 && (List.range ((a + n - 1) / 4096 - a / 4096 + 1)).any (fun i => match translate s c ((a / 4096 + i) * 4096) with
    | .mapped _ _ pl => pl
    | .unmapped => false)

/-- R5, R284, R289, R376: device ranges of a descriptor: the completion code, 0 when they are good. -/
def vaCode (s : State) (c n : Nat) (write : Bool) (l : List Nat) : Nat :=
  if l.any (fun a => a + n > 2 ^ 48 || !rangeOk s c a n false) then 0x12
  else if write && l.any (fun a => !rangeOk s c a n true) then 0x13
  else if l.any (fun a => inPlacement s c a n) then 0x13
  else 0

/-- The first code that is not 0. -/
def firstCode : List Nat → Nat
  | [] => 0
  | x :: r => if x = 0 then firstCode r else x

/-- R109, R110: the refusal of a MOVE, 0 when it starts. -/
def moveCode (s : State) (d : Desc) : Nat :=
  let n := moveLen d
  let dir := moveDir d
  let fl := d.w30.toNat
  firstCode [
    if dir = 3 then 0x13 else 0,
    if fl ≥ 2 ^ 48 || (dir ≠ 0 && d.w10.toNat ≥ 2 ^ 48) || (dir ≠ 1 && d.w18.toNat ≥ 2 ^ 48) then 0x12 else 0,
    if moveRows d > 1 && dstStride d < n then 0x13 else 0,
    if dir = 2 && n ≠ 0 && rowsMeet n (srcRows d) (dstRows d) then 0x13 else 0,
    if fl % 8 ≠ 0 then 0x13 else 0,
    if fl = 0 then 0 else vaCode s d.ctx 8 true [fl],
    if n = 0 || dir = 0 then 0 else vaCode s d.ctx n false (srcRows d),
    if n = 0 || dir = 1 then 0 else vaCode s d.ctx n true (dstRows d)]

/-- R109: a MOVE starts; its bytes land at MOVE_COMPLETE. -/
def moveStart (s : State) (d : Desc) (data : List Byte) (t : Nat) : State :=
  match moveCode s d with
  | 0 => modCtx (openDesc s d 0x03 t .move) d.ctx (fun x => { x with moves := x.moves ++ [{ desc := d, tag := t, data := data }] })
  | c => finishDesc s d 0x03 t c 0

/-- R109: MOVE. -/
def execMove (desc : Desc) (data : List Byte) (s : State) : Out1 :=
  .next (runDesc s desc 0x03 (dbits desc.w20 50 14 != 0) (fun s t => moveStart s desc data t))

/-- R273: the parameter blocks of a plan that its updates write: record, block, start and length. -/
def paramBlocks (b : PlanBody) : List (Nat × Nat × Nat × Nat) :=
  (b.training.elim [] (fun t => (enum t.params).map (fun q =>
    if q.2.mode = 1 then [] else [(q.1, 0, q.2.wAddr, q.2.wLen), (q.1, 1, q.2.wAddr + q.2.wLen, q.2.wLen)]))).flatten

/-- R270, R351: the ranges of a context whose contents are unspecified to the host: picture buffers of open streams, and parameter blocks of admitted plans, but those between
the OUTPUT entry of their update and the release of the step that may write them again. -/
def unsettledBlocks (s : State) (c : Nat) : List (Nat × Nat) :=
  ((admittedPlans s).map (fun p =>
    if p.key.ctx = c then
      ((p.body.elim [] paramBlocks).filter (fun q => !p.readable.contains (q.1, q.2.1))).map (fun q => q.2.2)
    else [])).flatten
  ++ (getCtx s c).streams.map (fun t => (getLE t.params 0x30 8, getLE t.params 0x38 8))

/-- R270, R351: what a MOVE reads of a context: free bytes where the contents are unspecified. -/
def readMove (s : State) (c a n : Nat) : List Byte × State :=
  let l := (unsettledBlocks s c).filter (fun q => decide (a < q.1 + q.2) && decide (q.1 < a + n))
  if l.isEmpty then (readVa s c a n, s)
  else
    let (f, s1) := freeBytes s n
    ((enum ((readVa s c a n).zip f)).map (fun q =>
      if l.any (fun r => decide (r.1 ≤ a + q.1) && decide (a + q.1 < r.1 + r.2)) then q.2.2 else q.2.1), s1)

/-- One row of a MOVE: host to device, device to host, device to device. -/
def moveRow (m : MoveJob) (s : State) (i : Nat × Nat × Nat) : State :=
  let n := moveLen m.desc
  match moveDir m.desc with
  | 0 => writeVa s m.desc.ctx i.2.2 (slice m.data (i.1 * n) n)
  | 1 =>
    let (bs, s1) := readMove s m.desc.ctx i.2.1 n
    { s1 with host := hostWrite s1.host i.2.2 bs }
  | _ =>
    let (bs, s1) := readMove s m.desc.ctx i.2.1 n
    writeVa s1 m.desc.ctx i.2.2 bs

/-- R106: where the binary of a PLAN descriptor lies. -/
def planAddr (d : Desc) : Nat := d.w10.toNat
def planLen (d : Desc) : Nat := dbits d.w18 0 32

/-- Do rows of `n` bytes meet a range? -/
def rowsTouch (n : Nat) (rows : List Nat) (a len : Nat) : Bool := rows.any (fun x => decide (x < a + len) && decide (a < x + n))

/-- R276: bytes of a bitmap. -/
def maskBytes (q : ParamRec) : Nat := cdiv (if q.blocks then q.rows / 32 * (q.cols / 32) else q.rows) 8

/-- R276: the bitmaps of a plan: start and length. -/
def maskSpans (b : PlanBody) : List (Nat × Nat) :=
  b.training.elim [] (fun t => (t.params.filter (fun q => q.mode == 3)).map (fun q =>
    (q.maskAddr, maskBytes q)))

/-- R106, R276: a plan whose binary, or, once it is admitted, whose bitmap the host changes. -/
def markChanged (d : Desc) (p : Plan) : Plan :=
  if p.key.ctx = d.ctx && moveDir d != 1 then
    { p with
      changed := p.changed || rowsTouch (moveLen d) (dstRows d) (planAddr p.desc) (planLen p.desc)
      maskChanged := p.maskChanged || p.phase == .admitted
        && (p.body.elim [] maskSpans).any (fun q => rowsTouch (moveLen d) (dstRows d) q.1 q.2) }
  else p

/-- R351: a stream whose picture buffer the host accesses. -/
def markSpoiled (d : Desc) (t : Stream) : Stream :=
  let rows := (if moveDir d = 1 then [] else dstRows d) ++ (if moveDir d = 0 then [] else srcRows d)
  if rowsTouch (moveLen d) rows (getLE t.params 0x30 8) (getLE t.params 0x38 8) then { t with spoiled := true } else t

/-- R106, R351: the host accesses device memory by a MOVE. -/
def hostTouch (s : State) (d : Desc) : State :=
  if moveLen d = 0 then s
  else modCtx { s with plans := s.plans.map (markChanged d) } d.ctx (fun x => { x with streams := x.streams.map (markSpoiled d) })

/-- R110: every row, then the flag. -/
def moveData (s : State) (m : MoveJob) : State :=
  let s1 := if moveLen m.desc = 0 then s else
    ((List.range (moveRows m.desc)).zip ((srcRows m.desc).zip (dstRows m.desc))).foldl (moveRow m) s
  if m.desc.w30 = 0 then s1 else writeVa s1 m.desc.ctx m.desc.w30.toNat (leBytes m.desc.w38.toNat 8)

/-- R110, R286: a MOVE completes; a segment removed meanwhile fails it. -/
def moveComplete (s : State) (c k : Nat) : State :=
  match (getCtx s c).moves[k]? with
  | none => s
  | some m =>
    match (getCtx s c).opens.find? (fun o => o.tag == m.tag) with
    | none => s
    | some o =>
      let s1 := modCtx s c (fun x => { x with moves := x.moves.filter (fun q => q.tag != m.tag) })
      match moveCode s1 m.desc with
      | 0 => settle (closeOpen (hostTouch (moveData s1 m) m.desc) c o (if moveLen m.desc = 0 then 0x01 else 0x00) 0)
      | code => settle (closeOpen s1 c o code 0)

/-- R110: MOVE_COMPLETE. -/
def execMoveComplete (ctx k : Nat) (s : State) : Out1 := .next (if alive s then moveComplete s ctx k else s)

/-! ## PAGE (R111, R112) -/

def pageTable (d : Desc) : Nat := dbits d.w10 0 16
def pageOp (d : Desc) : Nat := dbits d.w10 32 3
def pageFirst (d : Desc) : Nat := dbits d.w20 0 32
def pageCount (d : Desc) : Nat := dbits d.w20 32 32
def pageGen (d : Desc) : Nat := dbits d.w28 0 32
def pageLog (d : Desc) : Nat := dbits d.w28 32 8

/-- R6, R111: reserved bits, and fields that the op does not use. -/
def pageReserved (d : Desc) : Bool :=
  let op := pageOp d
  dbits d.w10 16 16 != 0 || dbits d.w10 35 29 != 0 || dbits d.w28 40 24 != 0 || d.w30 != 0 || d.w38 != 0
  || (op < 4 && ((op != 0 && (d.w18 != 0 || pageFirst d != 0)) || (op != 0 && op != 2 && pageCount d != 0)
      || (op != 1 && pageGen d != 0) || (op != 2 && pageLog d != 0) || (op == 2 && pageTable d != 0)))

/-- R112: is a PUBLISH of the table pending? -/
def publishPending (s : State) (c h : Nat) : Bool :=
  if h = 0 then (getCtx s c).addr.next.isSome else (getKv s c h).any (·.pub)

/-- R112: does the context own the handle? -/
def ownsTable (s : State) (c h : Nat) : Bool := h == 0 || (getKv s c h).isSome

/-- R112: the WRITE itself. -/
def pageWriteNow (s : State) (d : Desc) (entries : List Byte) : State × Nat :=
  if pageTable d = 0 then addrWrite s d.ctx (pageFirst d) (pageCount d) entries
  else kvWrite s d.ctx (pageTable d) (pageFirst d) (pageCount d) entries

/-- R112: WRITE; while a PUBLISH of the table is pending it waits. -/
def pageEdit (s : State) (d : Desc) (entries : List Byte) (t : Nat) : State :=
  if !ownsTable s d.ctx (pageTable d) then finishDesc s d 0x04 t 0x13 0
  else if publishPending s d.ctx (pageTable d) then openDesc s d 0x04 t (.pageWrite d entries)
  else
    let (s1, code) := pageWriteNow s d entries
    finishDesc s1 d 0x04 t code 0

/-- R112, R238, R286: PUBLISH. -/
def pagePublish (s : State) (d : Desc) (t : Nat) : State :=
  let h := pageTable d
  if !ownsTable s d.ctx h then finishDesc s d 0x04 t 0x13 0
  else if h = 0 then
    if pageGen d ≠ (getCtx s d.ctx).addr.gen.toNat then finishDesc s d 0x04 t 0x1A 0
    else if publishPending s d.ctx 0 then openDesc s d 0x04 t (.publish 0)
    else match formTable s d.ctx with
      | none => finishDesc s d 0x04 t 0x13 0
      | some tab => openDesc (modCtx s d.ctx (fun x => { x with addr := { x.addr with next := some tab } })) d 0x04 t (.publish 0)
  else match getKv s d.ctx h with
    | none => finishDesc s d 0x04 t 0x13 0
    | some kt =>
      if pageGen d ≠ kt.gen.toNat then finishDesc s d 0x04 t 0x1A 0
      else openDesc (modKv s d.ctx h (fun kt => { kt with pub := true })) d 0x04 t (.publish h)

/-- R112, R236: CREATE. -/
def pageCreate (s : State) (d : Desc) (t : Nat) : State :=
  if pageCount d < 1 || pageCount d > 16777216 || pageLog d < 14 || pageLog d > 18 then finishDesc s d 0x04 t 0x13 0
  else match freeHandle s s.free 65536 with
    | none => finishDesc s d 0x04 t 0x13 0
    | some h =>
      finishDesc { s with
        free := s.free + 1,
        tables := s.tables ++ [{ ctx := d.ctx, handle := h, pageLog2 := pageLog d, size := pageCount d }] } d 0x04 t 0x00 h

/-- R112: descriptors that wait on a destroyed table complete BAD_FIELD: R112 names no code for a pending PUBLISH or a WRITE that
waits (DESIGN CHOICE 132). -/
def failTableWaits (s : State) (c h : Nat) : State :=
  ((getCtx s c).opens.filter (fun o => match o.wait with
    | .publish g => g == h
    | .pageWrite d _ => pageTable d == h
    | _ => false)).foldl (fun s o => closeOpen s c o 0x13 0) s

/-- R112: DESTROY. -/
def pageDestroy (s : State) (d : Desc) (t : Nat) : State :=
  let h := pageTable d
  if h = 0 || !ownsTable s d.ctx h then finishDesc s d 0x04 t 0x13 0
  else if kvNamed s d.ctx h then finishDesc s d 0x04 t 0x16 0
  else finishDesc (failTableWaits (kvDestroy s d.ctx h) d.ctx h) d 0x04 t 0x00 0

/-- R111: what the descriptor's `op` selects. -/
def pageRun (s : State) (d : Desc) (entries : List Byte) (t : Nat) : State :=
  match pageOp d with
  | 0 => pageEdit s d entries t
  | 1 => pagePublish s d t
  | 2 => pageCreate s d t
  | 3 => pageDestroy s d t
  | _ => finishDesc s d 0x04 t 0x13 0

/-- R111: PAGE, `op` WRITE. -/
def execPageWrite (desc : Desc) (entries : List Byte) (s : State) : Out1 :=
  .next (runDesc s desc 0x04 (pageReserved desc) (fun s t =>
    if pageOp desc = 0 then withHostData s desc 0x04 t (pageRun s desc entries t) else pageRun s desc entries t))
/-- R111: PAGE, `op` PUBLISH. -/
def execPagePublish (desc : Desc) (s : State) : Out1 := .next (runDesc s desc 0x04 (pageReserved desc) (fun s t => pageRun s desc [] t))
/-- R111: PAGE, `op` CREATE. -/
def execPageCreate (desc : Desc) (s : State) : Out1 := .next (runDesc s desc 0x04 (pageReserved desc) (fun s t => pageRun s desc [] t))
/-- R111: PAGE, `op` DESTROY. -/
def execPageDestroy (desc : Desc) (s : State) : Out1 := .next (runDesc s desc 0x04 (pageReserved desc) (fun s t => pageRun s desc [] t))

/-- R112, R238: WRITEs that waited for a PUBLISH which has completed. -/
def pageWriteWaits (s : State) (c : Nat) : State :=
  ((getCtx s c).opens).foldl (fun s o => match o.wait with
    | .pageWrite d es =>
      if publishPending s c (pageTable d) then s
      else
        let (s1, code) := pageWriteNow s d es
        closeOpen s1 c o code 0
    | _ => s) s

/-! ## TICK_WAIT (R113) -/

/-- R113: the local tick whose release point the descriptor waits for. A system tick number is turned into a local one at the fetch,
once: R113 does not say what a later change of the offset in use does (DESIGN CHOICE 132). -/
def waitTick (s : State) (d : Desc) : Nat := if bitOf d.w10.toNat 48 then sysToLocal s (dbits d.w10 0 48) else dbits d.w10 0 48

/-- R113: has the release point of a tick passed? -/
def releasePassed (s : State) (n : Nat) : Bool :=
  s.tick.begun && (decide (n < s.tick.num.toNat) || (n == s.tick.num.toNat && s.tick.released))

/-- R113: TICK_WAIT. -/
def tickWait (s : State) (d : Desc) (t : Nat) : State :=
  let n := waitTick s d
  if releasePassed s n then finishDesc s d 0x05 t 0x00 0 else openDesc s d 0x05 t (.tick n)

/-- R113: TICK_WAIT. -/
def execTickWait (desc : Desc) (s : State) : Out1 :=
  .next (runDesc s desc 0x05 (dbits desc.w10 49 15 != 0 || !bodyZero [desc.w18, desc.w20, desc.w28, desc.w30, desc.w38])
    (fun s t => tickWait s desc t))

/-- R113: TICK_WAITs whose release point has come complete. -/
def tickWaits (s : State) (c : Nat) : State :=
  ((getCtx s c).opens).foldl (fun s o => match o.wait with
    | .tick n => if releasePassed s n then closeOpen s c o 0x00 0 else s
    | _ => s) s

/-! ## CTX_OPEN and CTX_CLOSE (R93, R114) -/

/-- R114: the context that a descriptor of a function's control context names. -/
def targetCtx (s : State) (d : Desc) : Option Nat := (ctxFn s d.ctx).bind (fun f => ctxOf s f (dbits d.w10 0 14))

/-- R114: field ranges of CTX_OPEN. -/
def ctxOpenBad (d : Desc) : Bool :=
  dbits d.w10 0 14 = 0 || dbits d.w10 32 4 < 6 || dbits d.w10 32 4 > 12 || dbits d.w10 36 5 < 6 || dbits d.w10 36 5 > 16
  || d.w18.toNat % 4096 ≠ 0 || d.w20.toNat % 4096 ≠ 0

/-- R114: a VF names a local index up to 1,023. -/
def vfRange (s : State) (d : Desc) : Bool := (ctxFn s d.ctx).any (fun f => f != 0 && decide (1023 < dbits d.w10 0 14))

/-- R114: CTX_OPEN. -/
def ctxOpen (s : State) (d : Desc) (t : Nat) : State :=
  if ctxOpenBad d || vfRange s d then finishDesc s d 0x08 t 0x13 0
  else match targetCtx s d with
    | none => finishDesc s d 0x08 t 0x15 0
    | some c =>
      if (getCtx s c).state == .closed then
        finishDesc (openCtx s c d.w18 d.w20 (dbits d.w10 32 4) (dbits d.w10 36 5) (dbits d.w10 41 5)) d 0x08 t 0x00 0
      else finishDesc s d 0x08 t 0x15 0

/-- R114: CTX_OPEN. -/
def execCtxOpen (desc : Desc) (s : State) : Out1 :=
  .next (runDesc s desc 0x08 (dbits desc.w10 14 18 != 0 || dbits desc.w10 46 18 != 0 || !bodyZero [desc.w28, desc.w30, desc.w38])
    (fun s t => ctxOpen s desc t))

/-- R69: the plans of a context whose admission is undecided. -/
def undecided (s : State) (c : Nat) : List PlanKey := (s.plans.filter (fun p => p.key.ctx == c && p.phase == .waiting)).map (·.key)

/-- R93, R114: CTX_CLOSE: an OPEN context, or with `force` one in ERROR. -/
def ctxClose (s : State) (d : Desc) (t : Nat) : State :=
  let force := bitOf d.w10.toNat 14
  if dbits d.w10 0 14 = 0 || vfRange s d then finishDesc s d 0x09 t 0x13 0
  else match targetCtx s d with
    | none => finishDesc s d 0x09 t 0x15 0
    | some c =>
      if closable s c force then openDesc s d 0x09 t (.close c force (undecided s c) false)
      else finishDesc s d 0x09 t 0x15 0

/-- R114: CTX_CLOSE. -/
def execCtxClose (desc : Desc) (s : State) : Out1 :=
  .next (runDesc s desc 0x09 (dbits desc.w10 15 49 != 0 || !bodyZero [desc.w18, desc.w20, desc.w28, desc.w30, desc.w38])
    (fun s t => ctxClose s desc t))

/-! ## PLAN_WITHDRAW (R108) -/

/-- R108: the withdrawal starts, or waits for the admission to decide. -/
def withdraw (s : State) (d : Desc) (t : Nat) : State :=
  let k : PlanKey := { ctx := d.ctx, id := d.planId.toNat }
  match getPlan s k with
  | none => if planOver s k then finishDesc s d 0x02 t 0x19 0 else openDesc s d 0x02 t (.withdraw k)
  | some p =>
    let s1 := openDesc s d 0x02 t (.withdraw k)
    if p.phase == .admitted then withdrawPlan s1 k 0 else s1

/-- R108: PLAN_WITHDRAW. -/
def execPlanWithdraw (desc : Desc) (s : State) : Out1 :=
  .next (runDesc s desc 0x02 (!bodyZero [desc.w10, desc.w18, desc.w20, desc.w28, desc.w30, desc.w38]) (fun s t => withdraw s desc t))

/-- R108: what waiting PLAN_WITHDRAWs of a plan do once its admission is decided. -/
def withdrawDecided (s : State) (k : PlanKey) (admitted : Bool) : State :=
  ((getCtx s k.ctx).opens.filter (fun o => o.wait == .withdraw k)).foldl (fun s o =>
    if admitted then withdrawPlan s k 0 else closeOpen s k.ctx o 0x19 0) s

end Sys2Proof.Machine
end

