-- ==== Sys2Proof/Machine/Attic.lean ====
section
/-! DEFINITION. The attic (R368 to R381, R427 to R435): Drubor images, firmware bundles, configuration copies and attestation. -/
namespace Sys2Proof.Machine

/-! ## The device's keys (R379) -/

/-- R379: a P-521 private key that HKDF-SHA-512 derives from the secret: the derived number is brought into the range of private keys. -/
def deviceKey (s : State) (info : List Byte) : Nat := numBE (hkdf512 s.dev.secret [] info 66) % (p521N - 1) + 1

/-- R379, R381, R382: the signature that the identity key makes over a digest. -/
def identitySign (s : State) (digest : List Byte) : List Byte :=
  ecdsaSign (deviceKey s Config.identityInfo) (Config.signNumber digest % (p521N - 1) + 1) digest

/-! ## The ledger and owner record (R386, R427) -/

/-- R427: the valid copy with the higher sequence number. -/
def ledgerCopy (a : Attic) : LedgerCopy := (newerCopy (·.seq) a.led0 a.led1).getD {}

/-- R427: a write of the ledger and owner record. -/
def writeLedger (a : Attic) (f : LedgerCopy → LedgerCopy) : Attic :=
  let w := writeCopy (·.seq) (fun n => { f (ledgerCopy a) with seq := n }) (a.led0, a.led1)
  { a with led0 := w.1, led1 := w.2 }

/-- R386: a block's end is written to both copies. -/
def reserveBlock (a : Attic) (blockEnd : Nat) : Attic :=
  let w := fun (l : LedgerCopy) => { l with blockEnd := blockEnd }
  writeLedger (writeLedger a w) w

/-- R386: the next value of the ledger counter: those whose bits [47:0] are zero are skipped. -/
def nextSeq (a : Attic) : Nat := if a.ledgerNext % 2 ^ 48 = 0 then a.ledgerNext + 1 else a.ledgerNext

/-- R386: the end of the block of 65,536 that holds a value. -/
def blockEndOf (v : Nat) : Nat := (v / 65536 + 1) * 65536

/-- R386: the reservation of the next value cannot be written: the value is the first of a block, and the write fails, or the 63 bits
are used up. -/
def cannotReserve (a : Attic) : Bool :=
  decide ((ledgerCopy a).blockEnd ≤ nextSeq a) && (decide (2 ^ 63 ≤ nextSeq a) || Config.reserveFails (blockEndOf (nextSeq a)))

/-! ## Configuration copies (R428 to R430) -/

/-- R428, R431: the active copy. -/
def activeCfg (s : State) : Option Cfg := if s.attic.active then s.attic.cfg1 else s.attic.cfg0

/-- R373: the allow-list entry of a publisher key. -/
def allowEntry (s : State) (key : List Byte) : Option (List Byte × BitVec 16) :=
  (activeCfg s).bind (fun c => c.allow.find? (fun e => e.1 == sha512 key))

/-- R429: a port record. -/
def parsePort (bs : List Byte) : PortCfg :=
  { mode := match fieldAt bs 0 0 2 with
      | 1 => .native
      | 2 => .ethernet
      | _ => .off,
    maxRate := fieldAt bs 0 2 2, vlan := fieldAt bs 0 4 1 = 1, vlanId := BitVec.ofNat 12 (fieldAt bs 0 5 12),
    weights := (List.range 8).map (fun v => fieldAt bs 4 (4 * v) 4), allot := (List.range 8).map (fun v => getLE bs (8 + 2 * v) 2),
    mac := BitVec.ofNat 48 (getLE bs 0x18 6) }

/-- R316: flits of a port's receive buffer. -/
def rxBuffer (m : PortMode) : Nat := if m == .native then 2048 else 8192

/-- R429: does the record lie in its ranges? -/
def portRecOk (bs : List Byte) : Bool :=
  let p := parsePort bs
  fieldAt bs 0 0 2 != 3 && fieldAt bs 0 2 2 != 3 && p.weights.all (1 ≤ ·) && p.allot.all (32 ≤ ·)
  && decide (sumOf p.allot ≤ rxBuffer p.mode)

/-- The record of port `i`. -/
def portRec (bs : List Byte) (i : Nat) : List Byte := slice bs (0x00C0 + 32 * i) 32

/-- R428: the owner key point; empty when the field is zero. -/
def cfgOwner (bs : List Byte) : List Byte := if allZero (slice bs 0x30 136) then [] else slice bs 0x30 133

/-- R428: the copy that 5,632 bytes hold. A copy that names no owner has an empty allow-list (R380). -/
def parseCfg (bs : List Byte) : Cfg :=
  let owner := cfgOwner bs
  { seq := BitVec.ofNat 64 (getLE bs 8 8), bootSlot := fieldAt bs 0x14 0 1 = 1, fabricId := BitVec.ofNat 12 (fieldAt bs 0x14 16 12),
    minSvn := BitVec.ofNat 32 (getLE bs 0x18 4), capCont := BitVec.ofNat 10 (fieldAt bs 0x1C 0 10),
    capExc := BitVec.ofNat 10 (fieldAt bs 0x1C 16 10), tickCtl := BitVec.ofNat 15 (fieldAt bs 0x20 1 15),
    tickPer := BitVec.ofNat 24 (getLE bs 0x24 3), owner := owner,
    allow := if owner.isEmpty then [] else (List.range (fieldAt bs 0xB8 0 7)).map (fun i =>
      (slice bs (0x300 + 72 * i) 64, BitVec.ofNat 16 (getLE bs (0x340 + 72 * i) 2))),
    ports := (List.range 18).map (fun i => parsePort (portRec bs i)), digest := sha512 bs,
    selfSigned := if owner.isEmpty then allZero (slice bs 0x1540 132)
      else ecdsaVerify owner (slice bs 0x1500 64) (slice bs 0x1540 132) }

/-- R430: valid apart from its signature and from who owns the device. -/
def cfgFormOk (bs : List Byte) : Bool :=
  getLE bs 0 4 == 0xD7C00740 && getLE bs 4 2 == 1 && getLE bs 0x10 4 == 0x0740000A
  && slice bs 0x1500 64 == sha512 (slice bs 0 0x1500)
  && getLE bs 8 8 != 0
  && decide (150 ≤ fieldAt bs 0x1C 0 10 ∧ fieldAt bs 0x1C 0 10 ≤ 700)
  && decide (fieldAt bs 0x1C 0 10 ≤ fieldAt bs 0x1C 16 10 ∧ fieldAt bs 0x1C 16 10 ≤ 850)
  && fieldAt bs 0x20 1 2 != 3 && fieldAt bs 0x20 3 2 != 3 && decide (fieldAt bs 0x20 5 5 ≤ 17) && decide (fieldAt bs 0x20 10 5 ≤ 17)
  && decide (10000 ≤ getLE bs 0x24 3 ∧ getLE bs 0x24 3 ≤ 10000000)
  && allZero (slice bs (0x30 + 133) 3) && decide (fieldAt bs 0xB8 0 7 ≤ 64)
  && (List.range 18).all (fun i => portRecOk (portRec bs i))

/-- R430: is this the owner of the owner record, or does that name none? -/
def ownerMatches (s : State) (owner : List Byte) : Bool :=
  (ledgerCopy s.attic).owner.isEmpty || (ledgerCopy s.attic).owner == sha512 owner

/-- R430: is a stored copy valid? -/
def cfgValid (s : State) (c : Cfg) : Bool := c.selfSigned && ownerMatches s c.owner

/-- R380, R430: may a configuration update with this signature change the copy? -/
def ownerSigned (s : State) (bs : List Byte) : Bool :=
  let c := parseCfg bs
  match activeCfg s with
  | some a => if a.owner.isEmpty then c.selfSigned else ecdsaVerify a.owner (slice bs 0x1500 64) (slice bs 0x1540 132)
  | none => c.selfSigned && ownerMatches s c.owner

/-! ## Firmware bundles (R432 to R434) -/

/-- R432: an image record of the manifest: kind, version, offset, length, digest (their places: DESIGN CHOICE 31). -/
def fwRec (bs : List Byte) (i : Nat) : Nat × Nat × Nat × List Byte :=
  let r := slice bs (getLE bs 0x28 4 + 96 * i) 96
  (getLE r 0 4, getLE r 8 8, getLE r 0x10 8, slice r 0x18 64)

/-- R432: the bundle that bytes hold. -/
def parseBundle (bs : List Byte) : Bundle :=
  { ver := BitVec.ofNat 32 (getLE bs 8 4), svn := BitVec.ofNat 32 (getLE bs 0xC 4), epoch := BitVec.ofNat 16 (getLE bs 0x10 2),
    parlour := BitVec.ofNat 16 (getLE bs 0x18 2), digest := sha512 (bs.take (getLE bs 0x34 4)),
    partners := (List.range (getLE bs 0x24 2)).map (fun i =>
      let r := slice bs (getLE bs 0x2C 4 + 12 * i) 12
      (BitVec.ofNat 32 (getLE r 0 4), BitVec.ofNat 8 (getLE r 4 4), BitVec.ofNat 32 (getLE r 8 4))) }

/-- R432: does the mask ROM accept this firmware key point? -/
def romAccepts (key : List Byte) : Bool := sha512 key == Config.romKey0 || sha512 key == Config.romKey1

/-- R432, R433: the manifest's signature verifies under a key that the mask ROM accepts. -/
def bundleSigned (bs : List Byte) : Bool :=
  let n := getLE bs 0x34 4
  let key := slice bs (n + 132) 133
  romAccepts key && ecdsaVerify key (sha512 (bs.take n)) (slice bs n 132)

/-- R432, R433, R221: everything of a valid bundle but its signature and its security version; its built-in tables are those of the
epoch (R226). -/
def bundleFormOk (bs : List Byte) : Bool :=
  let recs := (List.range 5).map (fwRec bs)
  getLE bs 0 4 == 0xD7B10740 && getLE bs 4 2 == 1 && getLE bs 0x14 4 == 0x0740000A && fieldAt bs 0x20 0 4 == 5
  && decide (getLE bs 0x24 2 ≤ 1024) && getLE bs 0x38 4 == bs.length && decide (bs.length ≤ 2 ^ 30) && builtinsOk
  && (List.range 5).all (fun k => (recs.filter (fun r => r.1 == k)).length == 1)
  && recs.all (fun r => decide (r.2.1 + r.2.2.1 ≤ bs.length) && sha512 (slice bs r.2.1 r.2.2.1) == r.2.2.2)

/-- R433: is a stored bundle valid under the active copy's `min_svn`? -/
def bundleOk (s : State) (b : Bundle) : Bool := decide (((activeCfg s).elim 0 (·.minSvn.toNat)) ≤ b.svn.toNat)

/-- R454: what the slot registers show. -/
def fillSlots (s : State) : State :=
  { s with attic := { s.attic with fwSlot0 := s.attic.slot0.filter (bundleOk s), fwSlot1 := s.attic.slot1.filter (bundleOk s) } }

/-- R454: what `FW_MIN_SVN` and `FW_BOOT` show. -/
def fillBoot (s : State) : State :=
  { s with attic := { s.attic with fwMinSvn := (activeCfg s).elim 0 (·.minSvn), fwBoot := (activeCfg s).any (·.bootSlot) } }

def slotOfBundle (s : State) (b : Bool) : Option Bundle := if b then s.attic.slot1 else s.attic.slot0

def setSlot (s : State) (b : Bool) (x : Option Bundle) : State :=
  if b then { s with attic := { s.attic with slot1 := x } } else { s with attic := { s.attic with slot0 := x } }

/-! ## Updates (R116, R431, R435) -/

/-- R454: an update has completed with a code. -/
def endUpdate (s : State) (u : Update) (code : Nat) : State :=
  let s1 := { s with attic := { s.attic with
    updates := s.attic.updates.filter (fun v => !(v.ctx == u.ctx && v.tag == u.tag)), fwOp := 0, fwSlot := false, fwLast := code } }
  match (getCtx s1 u.ctx).opens.find? (fun o => o.tag == u.tag) with
  | none => s1
  | some o => closeOpen s1 u.ctx o code 0

/-- R431: the refusal of a configuration copy, 0 when it is written. -/
def cfgCode (s : State) (bs : List Byte) : Nat :=
  if !cfgFormOk bs then 0x54
  else if getLE bs 8 8 ≤ (activeCfg s).elim 0 (·.seq.toNat) then 0x54
  else if !ownerSigned s bs then 0x50
  else 0

def beginUpdate (u : Update) : Update := { u with started := true }

/-- R431, R435: an update starts: a configuration copy is checked, a slot is emptied. -/
def startUpdate (s : State) (u : Update) : State :=
  let same := fun (v : Update) => v.ctx == u.ctx && v.tag == u.tag
  let started := fun (s : State) (op : Nat) =>
    { s with attic := { s.attic with updates := s.attic.updates.map (fun v => if same v then beginUpdate v else v), fwOp := op, fwSlot := u.slot } }
  if u.fw then
    if s.dev.bundle.isSome && s.dev.slot == u.slot then endUpdate s u 0x13 else started (setSlot s u.slot none) 1
  else
    match cfgCode s u.bytes with
    | 0 => started s 2
    | c => endUpdate s u c

/-- R431: the oldest waiting update starts once none is writing. -/
def nextUpdate (s : State) : Nat → State
  | 0 => s
  | k + 1 =>
    if s.attic.updates.any (·.started) then s
    else match s.attic.updates with
      | [] => s
      | u :: _ => nextUpdate (startUpdate s u) k

/-- R454: with no update writing, OP is 0. -/
def idleUpdates (s : State) : State :=
  if s.attic.updates.any (·.started) then s else { s with attic := { s.attic with fwOp := 0, fwSlot := false } }

def nextUpdates (s : State) : State := nextUpdate (idleUpdates s) (s.attic.updates.length + 1)

/-- R116: an update descriptor: its length, then its slot, then its turn; `length` bytes are read. -/
def update (s : State) (d : Desc) (o : Nat) (bytes : List Byte) (t : Nat) : State :=
  if o == 0x19 && (d.w18.toNat ≠ 5632 || d.w20 != 0) then finishDesc s d o t 0x13 0
  else
    let u : Update := { ctx := d.ctx, tag := t, fw := o == 0x18, slot := bitOf d.w20.toNat 0, bytes := bytes.take d.w18.toNat, started := false }
    let s1 := openDesc s d o t .update
    nextUpdates { s1 with attic := { s1.attic with updates := s1.attic.updates ++ [u] } }

/-- R116: nonzero reserved body fields. -/
def updateReserved (d : Desc) : Bool := dbits d.w20 1 63 != 0 || !bodyZero [d.w28, d.w30, d.w38]

/-- R435: FW_UPDATE. R116 does not say whether `src` is a host address or a context virtual address: here, as for the images of R115, a
host address, to which the bits of R5 do not apply (DESIGN CHOICE 140). -/
def execFwUpdate (desc : Desc) (bundle : List Byte) (s : State) : Out1 :=
  .next (runDesc s desc 0x18 (updateReserved desc) (fun s t => update s desc 0x18 bundle t))

/-- R431: CONFIG_UPDATE; `src` as in FW_UPDATE (DESIGN CHOICE 140). -/
def execConfigUpdate (desc : Desc) (config : List Byte) (s : State) : Out1 :=
  .next (runDesc s desc 0x19 (updateReserved desc) (fun s t => update s desc 0x19 config t))

/-- R308: a port that a bundle or configuration update takes out of QUARANTINED. -/
def requalify (p : Port) : Port := if p.state == .quarantined then { p with state := .down } else p

/-- R308: a bundle or configuration update takes every QUARANTINED port to DOWN (DEDUCED 36: an update that is written). -/
def requalifyPorts (s : State) : State := { s with links := { s.links with ports := s.links.ports.map requalify } }

/-- R433, R435: the written bundle is checked, and the slot holds it or is empty. -/
def fwWritten (s : State) (u : Update) (ok : Bool) : State :=
  let b := parseBundle u.bytes
  let code := if !bundleSigned u.bytes then 0x50 else if !ok || !bundleFormOk u.bytes || !bundleOk s b then 0x54 else 0
  let s1 := if code = 0 then requalifyPorts s else s
  fillSlots (endUpdate (setSlot s1 u.slot (if code = 0 then some b else none)) u code)

/-- R435: FW_UPDATE_COMPLETE. -/
def fwComplete (s : State) (ok : Bool) : State :=
  match s.attic.updates.find? (fun u => u.started && u.fw) with
  | none => s
  | some u => settle (nextUpdates (fwWritten s u ok))

/-- R435: FW_UPDATE_COMPLETE. -/
def execFwUpdateComplete (readBackOk : Bool) (s : State) : Out1 := .next (if alive s then fwComplete s readBackOk else s)

/-- R431: the owner record is written when the owner changes. -/
def setOwner (a : Attic) (owner : List Byte) : Attic :=
  if (ledgerCopy a).owner == owner then a else writeLedger a (fun l => { l with owner := owner })

/-- R431: the inactive copy holds the new copy and is active; a copy that fails its read-back is not valid (R427). -/
def cfgWritten (s : State) (u : Update) (ok : Bool) : State :=
  let c := parseCfg u.bytes
  let b := !s.attic.active
  let x := if ok then some c else none
  let a := if b then { s.attic with cfg1 := x } else { s.attic with cfg0 := x }
  if !ok then fillBoot (endUpdate { s with attic := a } u 0x54)
  else
    let s1 := { s with
      attic := { setOwner a (if c.owner.isEmpty then [] else sha512 c.owner) with active := b },
      pwr := { s.pwr with cap := BitVec.ofNat 32 (c.capCont.toNat + c.capExc.toNat * 2 ^ 16) } }
    fillBoot (endUpdate (lowerCaps (requalifyPorts s1)) u 0x00)

/-- R431: CONFIG_UPDATE_COMPLETE. -/
def cfgComplete (s : State) (ok : Bool) : State :=
  match s.attic.updates.find? (fun u => u.started && !u.fw) with
  | none => s
  | some u => settle (nextUpdates (cfgWritten s u ok))

/-- R431: CONFIG_UPDATE_COMPLETE. -/
def execConfigUpdateComplete (readBackOk : Bool) (s : State) : Out1 := .next (if alive s then cfgComplete s readBackOk else s)

/-! ## Drubor images (R368 to R372) -/

/-- R368: fields of the header. -/
def imgPayloadLen (b : List Byte) : Nat := getLE b 0x008 8
def imgTensors (b : List Byte) : Nat := fieldAt b 0x010 0 17
def imgSerial (b : List Byte) : Nat := getLE b 0x018 8
def imgTable (b : List Byte) : Nat := getLE b 0x020 8
def imgRecip (b : List Byte) : Nat := getLE b 0x028 8
def imgRecips (b : List Byte) : Nat := fieldAt b 0x030 0 13
def imgTags (b : List Byte) : Nat := getLE b 0x038 8
def imgPayload (b : List Byte) : Nat := getLE b 0x040 8
def imgSig (b : List Byte) : Nat := getLE b 0x048 8
def imgKey (b : List Byte) : List Byte := slice b 0x050 133
def imgDigest (b : List Byte) : List Byte := slice b 0x0D8 64

/-- R370: chunks of 1 MiB. -/
def imgChunks (b : List Byte) : Nat := cdiv (imgPayloadLen b) (2 ^ 20)

/-- R368: the regions, as (start, length). -/
def imgRegions (b : List Byte) : List (Nat × Nat) :=
  [(0, 512), (imgTable b, 64 * imgTensors b), (imgRecip b, 256 * imgRecips b), (imgTags b, 16 * imgChunks b),
   (imgPayload b, imgPayloadLen b), (imgSig b, 132)]

/-- R368, R6: the header. -/
def imgHeaderOk (b : List Byte) : Bool :=
  getLE b 0 4 == 0xD7B00740 && getLE b 4 2 == 1 && getLE b 6 2 == 0
  && decide (0 < imgPayloadLen b ∧ imgPayloadLen b % 2048 = 0 ∧ imgPayloadLen b ≤ 2 ^ 39)
  && decide (1 ≤ imgTensors b ∧ imgTensors b ≤ 65536) && getLE b 0x10 8 == imgTensors b
  && imgTable b % 64 == 0 && imgRecip b % 64 == 0
  && decide (1 ≤ imgRecips b ∧ imgRecips b ≤ 4096) && getLE b 0x30 8 == imgRecips b
  && imgPayload b % 4096 == 0 && allZero (slice b (0x050 + 133) 3) && allZero (slice b 0x118 0xE8)

/-- R369: tensor record `i`. -/
def tensorRec (b : List Byte) (i : Nat) : List Byte := slice b (imgTable b + 64 * i) 64

/-- R369: one record. -/
def tensorOk (b r : List Byte) : Bool :=
  getLE r 8 8 % 2048 == 0 && decide (getLE r 8 8 + getLE r 0x10 8 ≤ imgPayloadLen b)
  && decide (fieldAt r 0x18 0 4 ≤ 10) && fieldAt r 0x18 4 2 != 3 && getLE r 0x18 8 == fieldAt r 0x18 0 8 && allZero (slice r 0x28 24)

/-- R368, R369: the layout of a whole image of `len` bytes. -/
def imgLayoutOk (b : List Byte) (len : Nat) : Bool :=
  let ts := (List.range (imgTensors b)).map (tensorRec b)
  imgHeaderOk b && !anyMeet ((imgRegions b).filter (fun r => r.2 != 0)) && (imgRegions b).all (fun r => decide (r.1 + r.2 ≤ len))
  && imgSig b + 132 == len && b.length == len
  && ts.all (tensorOk b) && !anyMeet ((ts.map (fun r => (getLE r 8 8, getLE r 0x10 8))).filter (fun r => r.2 != 0))

/-- R371: the publisher's signature. -/
def imgSigned (b : List Byte) : Bool :=
  ecdsaVerify (imgKey b) (sha512 (b.take 512 ++ slice b (imgTable b) (64 * imgTensors b))) (slice b (imgSig b) 132)

/-- R372: this device's recipient entry. -/
def imgEntry (b : List Byte) : Option (List Byte) :=
  ((List.range (imgRecips b)).map (fun i => slice b (imgRecip b + 256 * i) 256)).find? (fun e => getLE e 0 8 == Config.uid.toNat)

/-- R372: the info of the key-encryption key: DRUBOR-KEK in ASCII, then the device identifier. -/
def kekInfo : List Byte := [0x44, 0x52, 0x55, 0x42, 0x4F, 0x52, 0x2D, 0x4B, 0x45, 0x4B] ++ leBytes Config.uid.toNat 8

/-- R372: the content key that a recipient entry wraps for this device; none when its tag fails. -/
def unwrapKey (s : State) (entry digest : List Byte) : Option (List Byte) :=
  (ecdh (deviceKey s Config.wrapInfo) (slice entry 0x08 133)).bind (fun x =>
    gcmDecrypt (hkdf512 x digest kekInfo 32) (zeros 12) [] (slice entry 0x90 32) (slice entry 0xB0 16))

/-- R370: chunk `i` in plain. -/
def imgChunk (b key : List Byte) (i : Nat) : Option (List Byte) :=
  gcmDecrypt key (leBytes i 4 ++ leBytes (imgSerial b) 8) (imgDigest b)
    (slice b (imgPayload b + i * 2 ^ 20) (min (2 ^ 20) (imgPayloadLen b - i * 2 ^ 20))) (slice b (imgTags b + 16 * i) 16)

/-- The plain payload, or none when the entry, a tag or the digest fails (R374). -/
def imgPlain (s : State) (b : List Byte) : Option (List Byte) :=
  match (imgEntry b).bind (fun e => unwrapKey s e (imgDigest b)) with
  | none => none
  | some key =>
    let cs := (List.range (imgChunks b)).map (imgChunk b key)
    if cs.all Option.isSome then
      let p := (cs.map (fun c => c.getD [])).flatten
      if sha512 p == imgDigest b then some p else none
    else none

/-- R374: bytes that an image takes in the attic: all but the entries of other recipients. -/
def storedSize (b : List Byte) : Nat := b.length - 256 * (imgRecips b - 1)

/-- R374: the entries of other recipients are not kept. -/
def stripEntries (b : List Byte) : List Byte :=
  (List.range (imgRecips b)).foldl (fun acc i =>
    let o := imgRecip b + 256 * i
    if getLE acc o 8 = Config.uid.toNat then acc else acc.take o ++ zeros 256 ++ acc.drop (o + 256)) b

/-! ## IMAGE_STORE, IMAGE_LOAD, IMAGE_DELETE (R374 to R378) -/

def findImage (s : State) (f id : Nat) : Option StoredImage := s.attic.images.find? (fun i => i.fn == f && i.imageId == id)

/-- Images held or being stored, and their bytes. -/
def atticUse (s : State) : Nat :=
  sumBy s.attic.images (fun i => storedSize i.bytes) + sumBy (s.attic.imageOps.filter (·.started)) (fun o => storedSize o.image)
def atticCount (s : State) : Nat := s.attic.images.length + (s.attic.imageOps.filter (·.started)).length

/-- R374: the refusal of an image, 0 when it is stored. -/
def storeCode (s : State) (o : ImageOp) : Nat :=
  let b := o.image
  let n := o.desc.w18.toNat
  if (findImage s o.fn o.imageId).isSome || n < 1024 then 0x13
  else if !imgLayoutOk b n then 0x13
  else if (allowEntry s (imgKey b)).isNone then 0x51
  else if atticUse s + storedSize b > 3968 * 2 ^ 30 || atticCount s ≥ 65536 then 0x52
  else if !imgSigned b || (imgPlain s b).isNone then 0x50
  else 0

def beginOp (o : ImageOp) : ImageOp := { o with started := true }

def sameOp (a b : ImageOp) : Bool := a.desc.ctx == b.desc.ctx && a.tag == b.tag

/-- An IMAGE descriptor completes. -/
def endImage (s : State) (o : ImageOp) (code : Nat) : State :=
  let s1 := { s with attic := { s.attic with imageOps := s.attic.imageOps.filter (fun q => !sameOp o q) } }
  match (getCtx s1 o.desc.ctx).opens.find? (fun q => q.tag == o.tag) with
  | none => s1
  | some q => closeOpen s1 o.desc.ctx q code 0

/-- R374: a store starts. -/
def startStore (s : State) (o : ImageOp) : State :=
  match storeCode s o with
  | 0 => { s with attic := { s.attic with imageOps := s.attic.imageOps.map (fun q => if sameOp o q then beginOp q else q) } }
  | c => endImage s o c

/-- R375: extents of an image. -/
def imgExtents (i : StoredImage) : Nat := cdiv i.payloadLen (2 ^ 21)

/-- R375: a load starts; it leaves the list of waiting operations and its descriptor stays open. -/
def startLoad (s : State) (o : ImageOp) : State :=
  match findImage s o.fn o.imageId with
  | none => endImage s o 0x53
  | some i =>
    if s.attic.loaded.any (fun l => l.ctx == o.desc.ctx && l.imageId == o.imageId) then endImage s o 0x00
    else if (allowEntry s (imgKey i.bytes)).isNone then endImage s o 0x51
    else if i.corrupt then endImage s o 0x50
    else if (heldExtents s o.desc.ctx).length + imgExtents i > (getCtx s o.desc.ctx).quota.toNat then endImage s o 0x13
    else match allocSpread (usedExtents s) (List.range 16) 0 (imgExtents i) with
      | none => endImage s o 0x13
      | some es =>
        { s with attic := { s.attic with
          imageOps := s.attic.imageOps.filter (fun q => !sameOp o q),
          loaded := s.attic.loaded ++ [{ ctx := o.desc.ctx, fn := o.fn, imageId := o.imageId, extents := es, resident := false, tag := some o.tag }] } }

/-- R378: does an admitted plan of the function name the image? -/
def imageNamed (s : State) (f id : Nat) : Bool :=
  (admittedPlans s).any (fun p => ctxFn s p.key.ctx == some f && p.body.any (fun b => b.weights.any (fun w => w.imageId == id)))

/-- R378: a delete. -/
def runDelete (s : State) (o : ImageOp) : State :=
  match findImage s o.fn o.imageId with
  | none => endImage s o 0x53
  | some _ =>
    if s.attic.loaded.any (fun l => l.fn == o.fn && l.imageId == o.imageId && !l.resident) || imageNamed s o.fn o.imageId then endImage s o 0x16
    else
      let s1 := unloadImages s (fun l => l.fn == o.fn && l.imageId == o.imageId)
      endImage { s1 with attic := { s1.attic with images := s1.attic.images.filter (fun i => !(i.fn == o.fn && i.imageId == o.imageId)) } } o 0x00

/-- R378: is the image being stored by another descriptor of the function? -/
def imageBusy (s : State) (o : ImageOp) : Bool := s.attic.imageOps.any (fun q => q.started && q.fn == o.fn && q.imageId == o.imageId)

/-- The operation starts unless it waits. -/
def startImage (s : State) (o : ImageOp) : State :=
  if imageBusy s o then s
  else match o.kind with
    | 0 => startStore s o
    | 1 => startLoad s o
    | _ => runDelete s o

/-- R378: every waiting operation that may start, oldest first. -/
def nextImages (s : State) : State := (s.attic.imageOps.filter (fun o => !o.started)).foldl startImage s

/-- R115: an IMAGE descriptor. -/
def imageDesc (s : State) (d : Desc) (o kind : Nat) (image : List Byte) (t : Nat) : State :=
  let op : ImageOp := { desc := d, tag := t, fn := (ctxFn s d.ctx).getD 0, imageId := dbits d.w20 0 32, kind := kind, image := image, started := false }
  let s1 := openDesc s d o t .image
  startImage { s1 with attic := { s1.attic with imageOps := s1.attic.imageOps ++ [op] } } op

/-- R115, R6: nonzero reserved body fields; `src` and `length` are for IMAGE_STORE only. -/
def imageReserved (d : Desc) (store : Bool) : Bool :=
  dbits d.w20 32 32 != 0 || !bodyZero [d.w28, d.w30, d.w38] || (!store && !bodyZero [d.w10, d.w18])

/-- R374: IMAGE_STORE. -/
def execImageStore (desc : Desc) (image : List Byte) (s : State) : Out1 :=
  .next (runDesc s desc 0x10 (imageReserved desc true) (fun s t => imageDesc s desc 0x10 0 image t))
/-- R375: IMAGE_LOAD. -/
def execImageLoad (desc : Desc) (s : State) : Out1 :=
  .next (runDesc s desc 0x11 (imageReserved desc false) (fun s t => imageDesc s desc 0x11 1 [] t))
/-- R378: IMAGE_DELETE. -/
def execImageDelete (desc : Desc) (s : State) : Out1 :=
  .next (runDesc s desc 0x12 (imageReserved desc false) (fun s t => imageDesc s desc 0x12 2 [] t))

/-- R374: the record of a stored image. -/
def storedImage (o : ImageOp) : StoredImage :=
  { fn := o.fn, imageId := o.imageId, payloadLen := imgPayloadLen o.image, serial := BitVec.ofNat 64 (imgSerial o.image),
    digest := imgDigest o.image, pubDigest := sha512 (imgKey o.image), bytes := stripEntries o.image }

/-- R374: a store completes after the last attic write. -/
def storeComplete (s : State) (f id : Nat) : State :=
  match s.attic.imageOps.find? (fun o => o.started && o.fn == f && o.imageId == id) with
  | none => s
  | some o => settle (nextImages (endImage { s with attic := { s.attic with images := s.attic.images ++ [storedImage o] } } o 0x00))

/-- R374: IMAGE_STORE_COMPLETE. -/
def execImageStoreComplete (fn : Nat) (imageId : Nat) (s : State) : Out1 := .next (if alive s then storeComplete s fn imageId else s)

/-- Is this the load of an image by a context? -/
def sameLoad (c id : Nat) (l : Loaded) : Bool := l.ctx == c && l.imageId == id && !l.resident

def markResident (l : Loaded) : Loaded := { l with resident := true, tag := none }
def markCorrupt (i : StoredImage) : StoredImage := { i with corrupt := true }

/-- R375: the plain payload lands in the extents. -/
def landImage (m : List Host.Cell) (es : List Nat) (p : List Byte) : List Host.Cell :=
  match es with
  | [] => m
  | e :: r => landImage (memWrite m (extentPa e) (p.take (2 ^ 21))) r (p.drop (2 ^ 21))

/-- R377: plans of a function that name the image are withdrawn at the next boundary with `cause` FAULT. -/
def withdrawImage (s : State) (f id : Nat) : State :=
  ((admittedPlans s).filter (fun p => ctxFn s p.key.ctx == some f && p.body.any (fun b => b.weights.any (fun w => w.imageId == id)))).foldl
    (fun s p => withdrawPlan s p.key 0x3D) s

/-- The descriptor of a load completes. -/
def endLoad (s : State) (l : Loaded) (code : Nat) : State :=
  match (getCtx s l.ctx).opens.find? (fun o => l.tag == some o.tag) with
  | none => s
  | some o => closeOpen s l.ctx o code 0

/-- R375, R377: a load ends; a chunk whose tag fails makes the image unusable. -/
def loadComplete (s : State) (c id : Nat) (bad : Option Nat) : State :=
  match s.attic.loaded.find? (sameLoad c id) with
  | none => s
  | some l =>
    match findImage s l.fn id, bad with
    | some i, none =>
      let s1 := { s with
        mem := landImage s.mem l.extents ((imgPlain s i.bytes).getD []),
        attic := { s.attic with loaded := updFirst (sameLoad c id) markResident s.attic.loaded } }
      settle (endLoad s1 l 0x00)
    | _, _ =>
      let s1 := unloadImages s (sameLoad c id)
      let s2 := { s1 with attic := { s1.attic with images := updFirst (fun i => i.fn == l.fn && i.imageId == id) markCorrupt s1.attic.images } }
      let s3 := logFault s2 { code := 0x010A, ctx := some c, d0 := id, d1 := bad.getD 0 }
      settle (endLoad (withdrawImage s3 l.fn id) l 0x50)

/-- R375, R377: IMAGE_LOAD_COMPLETE. -/
def execImageLoadComplete (ctx : Nat) (imageId : Nat) (bad : Option Nat) (s : State) : Out1 :=
  .next (if alive s then loadComplete s ctx imageId bad else s)

/-- R88: HOST_ACCESS_FAIL; attic operations that waited for a failed one go on. -/
def execHostAccessFail (access : HostAccess) (err : HostErr) (addr : DWord) (s : State) : Out1 :=
  .next (nextUpdates (nextImages (accessFail s access err addr)))

/-! ## Attestation (R381) -/

/-- R381: SHA-512 of the allow-list: its entries as the copy holds them. -/
def allowBytes (c : Cfg) : List Byte := (c.allow.map (fun e => padTo e.1 64 ++ leBytes e.2.toNat 8)).flatten

/-- R381: bytes 0x000 to 0x1FF. -/
def attestHead (s : State) (d : Desc) : List Byte :=
  let c := (activeCfg s).getD {}
  let b := s.dev.bundle.getD {}
  padTo (leBytes 0xD7A70740 4 ++ leBytes 1 4
    ++ leBytes d.w20.toNat 8 ++ leBytes d.w28.toNat 8 ++ leBytes d.w30.toNat 8 ++ leBytes d.w38.toNat 8
    ++ leBytes Config.uid.toNat 8 ++ leBytes b.ver.toNat 4 ++ leBytes b.epoch.toNat 2 ++ leBytes (b2n s.dev.slot) 2 ++ zeros 8
    ++ padTo b.digest 64 ++ padTo c.digest 64 ++ leBytes c.seq.toNat 8
    ++ (if c.owner.isEmpty then zeros 64 else padTo (sha512 c.owner) 64) ++ padTo (sha512 (allowBytes c)) 64
    ++ leBytes s.attic.ledgerNext 8 ++ leBytes s.tick.num.toNat 8 ++ leBytes (sysTick s).toNat 8 ++ leBytes (stateNum s.tick.state) 4) 512

/-- R381: the report. -/
def attestReport (s : State) (d : Desc) : List Byte :=
  let head := attestHead s d
  let a := Config.identityCert
  let b := Config.deviceCaCert
  head ++ padTo (identitySign s (sha512 head)) 256 ++ padTo (leBytes a.length 2 ++ leBytes b.length 2 ++ a ++ b) 3328

/-- R117, R381: ATTEST. -/
def attest (s : State) (d : Desc) (t : Nat) : State :=
  if dbits d.w18 0 32 < 4096 then finishDesc s d 0x1A t 0x13 0
  else finishDesc { s with host := hostWrite s.host d.w10.toNat (attestReport s d) } d 0x1A t 0x00 0

/-- R381: ATTEST. -/
def execAttest (desc : Desc) (s : State) : Out1 :=
  .next (runDesc s desc 0x1A (dbits desc.w18 32 32 != 0) (fun s t => withHostData s desc 0x1A t (attest s desc t)))

end Sys2Proof.Machine
end

