-- ==== Sys2Proof/Machine/Encoder.lean ====
section
/-! DEFINITION. What a parlour stream is and how its pictures are coded (R349 to R351, R354 to R360, R363): the parameter block,
pictures, motion search, rate control, and the encoder's choices for each picture. Bits that a codec's own standard or the encoder's
design decides are free values of Config. -/
namespace Sys2Proof.Machine

/-! ## Stream parameters (R349 to R354, R363) -/

/-- R363: the parameter block as read. -/
structure StreamPar where
  dir     : Nat
  codec   : Nat
  bit10   : Bool
  engines : Nat
  bound   : Bool
  gop     : Nat
  rc      : Nat
  wpp     : Bool
  refs    : Nat
  mg      : Nat
  width   : Nat
  height  : Nat
  cols    : Nat
  rows    : Nat
  level   : Nat
  tier    : Bool
  fpsNum  : Nat
  fpsDen  : Nat
  rate    : Nat
  maxRate : Nat
  vbv     : Nat
  qpMin   : Nat
  qpMax   : Nat
  gir     : Nat
  idr     : Nat
  cap     : Nat
  dpb     : Nat
  dpbLen  : Nat
  ring    : Nat
  ringLog : Nat
  head    : Nat
deriving DecidableEq, Repr

/-- R363. -/
def streamPar (b : List Byte) : StreamPar :=
  { dir := fieldAt b 0 0 2, codec := fieldAt b 0 2 2, bit10 := fieldAt b 0 4 1 = 1, engines := fieldAt b 0 5 5,
    bound := fieldAt b 0 10 1 = 1, gop := fieldAt b 0 11 2, rc := fieldAt b 0 13 2, wpp := fieldAt b 0 15 1 = 1,
    refs := fieldAt b 0 16 3, mg := fieldAt b 0 19 2, width := getLE b 4 2, height := getLE b 6 2, cols := getLE b 8 1,
    rows := getLE b 9 1, level := getLE b 0xA 1, tier := fieldAt b 8 24 1 = 1, fpsNum := getLE b 0xC 2, fpsDen := getLE b 0xE 2,
    rate := getLE b 0x10 4, maxRate := getLE b 0x14 4, vbv := getLE b 0x18 4,
    qpMin := getLE b 0x1F 1, qpMax := getLE b 0x20 1, gir := fieldAt b 0x20 16 11, idr := getLE b 0x24 4, cap := getLE b 0x28 4,
    dpb := getLE b 0x30 8, dpbLen := getLE b 0x38 8, ring := getLE b 0x40 8, ringLog := fieldAt b 0x48 0 5, head := getLE b 0x50 8 }

def StreamPar.decodes (p : StreamPar) : Bool := p.dir == 1

/-- R350: unit columns and rows of 64 × 64 samples. -/
def StreamPar.unitCols (p : StreamPar) : Nat := cdiv p.width 64
def StreamPar.unitRows (p : StreamPar) : Nat := cdiv p.height 64

/-- R350: bytes per sample, and the picture size P. -/
def StreamPar.sample (p : StreamPar) : Nat := if p.bit10 then 2 else 1
def StreamPar.picture (p : StreamPar) : Nat := p.unitCols * 64 * (p.unitRows * 64) * 3 / 2 * p.sample

/-- R359: the largest access unit, A. -/
def StreamPar.largest (p : StreamPar) : Nat := if p.cap = 0 then p.picture else p.cap

/-- R351: the smallest picture buffer. -/
def StreamPar.dpbMin (p : StreamPar) : Nat :=
  if p.decodes then 18 * p.picture
  else match p.gop with
    | 0 => 2 * p.picture
    | 1 => (p.refs + 2) * p.picture * 5 / 4
    | _ => (p.refs + 2 + 2 ^ p.mg) * p.picture * 5 / 4

/-- R363: a bit that R363 does not list is set. -/
def paramsReserved (b : List Byte) : Bool :=
  fieldAt b 0 21 11 != 0 || fieldAt b 8 25 7 != 0 || fieldAt b 0x20 8 8 != 0 || fieldAt b 0x20 27 5 != 0 || getLE b 0x2C 4 != 0
  || fieldAt b 0x48 5 59 != 0 || !allZero (slice b 0x58 40)

/-- R363: a field that the direction or mode does not use is nonzero; under CQP the quantisers of picture types that the GOP structure
has none of are such fields too (R357, R359). -/
def paramsUnused (b : List Byte) (p : StreamPar) : Bool :=
  let rates := [getLE b 0x10 4, getLE b 0x14 4, getLE b 0x18 4]
  let qps := [getLE b 0x1C 1, getLE b 0x1D 1, getLE b 0x1E 1]
  if p.decodes then
    [p.gop, p.rc, p.refs, p.mg, p.qpMin, p.qpMax, p.gir, p.idr, p.cap, p.ring, p.ringLog, p.head].any (· != 0)
    || (rates ++ qps).any (· != 0)
  else
    (p.gop == 0 && p.refs != 0) || (p.gop != 2 && p.mg != 0)
    || (match p.rc with
        | 0 => rates.any (· != 0) || p.qpMin != 0 || p.qpMax != 0
            || (p.gop == 0 && getLE b 0x1D 1 != 0) || (p.gop != 2 && getLE b 0x1E 1 != 0)
        | 1 => rates[1]? != some 0 || qps.any (· != 0)
        | _ => qps.any (· != 0))

/-- R359: greatest quantiser of a codec. -/
def qpTop (codec : Nat) : Nat := if codec = 0 then 255 else 51

/-- R349, R357 to R359, R363: fields within their ranges. -/
def paramsRange (b : List Byte) (p : StreamPar) : Bool :=
  p.dir ≤ 1 && p.codec ≤ 2 && !(p.codec == 2 && p.bit10) && 1 ≤ p.engines && p.engines ≤ 16
  && p.width % 2 == 0 && 128 ≤ p.width && p.width ≤ 8192 && p.height % 2 == 0 && 128 ≤ p.height && p.height ≤ 4320
  && 1 ≤ p.cols && p.cols ≤ 64 && 1 ≤ p.rows && p.rows ≤ 64 && p.level ≤ 62 && !(p.tier && p.codec != 1)
  && p.fpsNum != 0 && p.fpsDen != 0 && !(p.wpp && p.codec != 1)
  && Config.meetsLevel [p.codec, p.level, b2n p.tier, p.width, p.height, p.fpsNum, p.fpsDen, p.cols, p.rows]
  && (p.decodes ||
      (p.gop ≤ 2 && p.rc ≤ 2 && (p.gop == 0 || (1 ≤ p.refs && p.refs ≤ 4)) && (p.gop != 2 || p.mg == 2 || p.mg == 3)
        && p.gir != 1 && p.gir ≤ 1024 && p.qpMin ≤ p.qpMax
        && [getLE b 0x1C 1, getLE b 0x1D 1, getLE b 0x1E 1, p.qpMin, p.qpMax].all (fun q => decide (q ≤ qpTop p.codec))
        && p.ring % 4096 == 0 && p.head % 8 == 0 && 16 ≤ p.ringLog && p.ringLog ≤ 30 && p.largest + 32 ≤ 2 ^ p.ringLog))

/-! ## Engines and their loads (R353, R354, R360) -/

/-- R354: the parts of `n` in `k` uniform pieces (DESIGN CHOICE 32: piece i runs from floor(i × n / k)). -/
def uniform (n k : Nat) : List Nat := (List.range k).map (fun i => (i + 1) * n / k - i * n / k)

/-- R354: `k` pieces of `n`, the upper ones taller. -/
def slices (n k : Nat) : List Nat := (List.range k).map (fun i => n / k + b2n (decide (i < n % k)))

/-- R354: units of each tile or slice, in raster order. -/
def StreamPar.parts (p : StreamPar) : List Nat :=
  if p.codec = 2 then (slices p.unitRows p.rows).map (· * p.unitCols)
  else ((uniform p.unitRows p.rows).map (fun h => (uniform p.unitCols p.cols).map (· * h))).flatten

/-- R354: tiles, wavefront rows or slices. -/
def StreamPar.pieces (p : StreamPar) : Nat := if p.wpp then p.unitRows else p.parts.length

/-- R354: L for `m` engines. -/
def StreamPar.load (p : StreamPar) (m : Nat) : Nat :=
  if p.wpp then p.unitCols * cdiv p.unitRows m + 2 * (m - 1)
  else maxBy (List.range m) (fun e => sumBy ((enum p.parts).filter (fun q => q.1 % m == e)) (·.2))

/-- R360: W in microseconds. -/
def StreamPar.frameTime (p : StreamPar) (m : Nat) : Nat := 20 + p.load m * (if p.decodes then 4 else 8)

/-! ## Pictures (R350) -/

/-- R350: does byte `i` of a picture hold a sample inside it, and which of its bits? -/
def sampleMask (p : StreamPar) (i : Nat) : Byte :=
  let w := p.unitCols * 64
  let n := i / p.sample
  let luma := w * (p.unitRows * 64)
  let inside := if n < luma then decide (n / w < p.height ∧ n % w < p.width)
                else decide ((n - luma) / w < p.height / 2 ∧ (n - luma) % w < p.width)
  if !inside then 0 else if p.bit10 && i % 2 == 1 then 0x03 else 0xFF

/-- R350: a picture without what the format ignores: as the encoder takes it, and as the decoder writes it. -/
def cleanPicture (p : StreamPar) (bs : List Byte) : List Byte :=
  (enum (padTo bs p.picture)).map (fun q => q.2 &&& sampleMask p q.1)

/-- R350: the luma plane of a picture, within its width and height. -/
def lumaPlane (p : StreamPar) (bs : List Byte) : Plane :=
  { w := p.width, h := p.height,
    px := ((List.range p.height).map (fun y => (List.range p.width).map (fun x =>
      getLE bs ((y * (p.unitCols * 64) + x) * p.sample) p.sample))).flatten }

/-! ## Motion search (R356) -/

/-- A sample, the nearest one of the plane for a place outside it. -/
def Plane.at (q : Plane) (x y : Int) : Nat :=
  q.px.getD ((min y.toNat (q.h - 1)) * q.w + min x.toNat (q.w - 1)) 0

/-- R356, step 1: the next level of the pyramid, at half the linear size. How four samples make one is free. -/
def Plane.half (q : Plane) : Plane :=
  { w := q.w / 2, h := q.h / 2,
    px := ((List.range (q.h / 2)).map (fun (y : Nat) => (List.range (q.w / 2)).map (fun (x : Nat) =>
      Config.pyramidSample [q.at (2 * x) (2 * y), q.at (2 * x + 1) (2 * y), q.at (2 * x) (2 * y + 1), q.at (2 * x + 1) (2 * y + 1)]))).flatten }

/-- The `n` by `n` samples of a plane from a place on. -/
def Plane.block (q : Plane) (x y : Int) (n : Nat) : List Nat :=
  ((List.range n).map (fun (j : Nat) => (List.range n).map (fun (i : Nat) => q.at (x + i) (y + j)))).flatten

/-- The block at a quarter-sample place: each sample from the 8 by 8 around it, by the codec's own filter. -/
def Plane.subBlock (q : Plane) (codec : Nat) (x y : Int) (n : Nat) (v : Mv) : List Nat :=
  ((List.range n).map (fun (j : Nat) => (List.range n).map (fun (i : Nat) =>
    Config.interpolate codec (v.x % 4).toNat (v.y % 4).toNat (q.block (x + i + v.x / 4 - 3) (y + j + v.y / 4 - 3) 8)))).flatten

/-- The displacements around one, `rx` to the left and right and `ry` up and down, in steps of `st`, row by row. -/
def mvWindow (c : Mv) (rx ry st : Nat) : List Mv :=
  ((List.range (2 * ry + 1)).map (fun (j : Nat) => (List.range (2 * rx + 1)).map (fun (i : Nat) =>
    ({ x := c.x + ((i : Int) - rx) * st, y := c.y + ((j : Int) - ry) * st } : Mv)))).flatten

/-- The displacements by their cost, the first of equal ones first. -/
def mvSort (cost : Mv → Nat) (l : List Mv) : List Mv := sortBy (fun a b => decide (cost a < cost b)) l

/-- A displacement times a number, or divided by one. -/
def Mv.scale (v : Mv) (n : Int) : Mv := { x := v.x * n, y := v.y * n }
def Mv.shrink (v : Mv) (n : Int) : Mv := { x := v.x / n, y := v.y / n }

/-- R356: does a 64 by 64 block displaced by `v` quarter samples stay within 64 samples of the picture? -/
def mvInside (w h : Nat) (x y : Int) (v : Mv) : Bool :=
  decide (-256 ≤ x * 4 + v.x) && decide ((x + 64) * 4 + v.x ≤ ((w : Int) + 64) * 4)
  && decide (-256 ≤ y * 4 + v.y) && decide ((y + 64) * 4 + v.y ≤ ((h : Int) + 64) * 4)

/-- R358: do all samples that a displaced block reads lie in these columns of units? A fractional displacement reads four more on each
side. -/
def mvColumns (cols : List Nat) (x : Int) (v : Mv) : Bool :=
  let m : Int := if v.x % 4 = 0 then 0 else 4
  let lo := x + v.x / 4 - m
  let hi := x + v.x / 4 + 63 + m
  decide (0 ≤ lo) && (List.range (hi / 64 - lo / 64 + 1).toNat).all (fun i => cols.contains ((lo / 64).toNat + i))

/-- R356, step 2: the two best displacements of the smallest level, for the 16 by 16 block there of a unit. -/
def searchSmall (cur ref : Plane) (x y : Int) : List Mv :=
  let b := cur.block (x / 4) (y / 4) 16
  (mvSort (fun v => Config.blockCost b (ref.block (x / 4 + v.x) (y / 4 + v.y) 16)) (mvWindow { x := 0, y := 0 } 64 32 1)).take 2

/-- R356, step 3: the best displacement of the middle level, around the candidates and the motion predictor. -/
def searchMiddle (cur ref : Plane) (x y : Int) (cands : List Mv) : Mv :=
  let b := cur.block (x / 2) (y / 2) 32
  ((mvSort (fun v => Config.blockCost b (ref.block (x / 2 + v.x) (y / 2 + v.y) 32))
    ((cands.map (fun c => mvWindow c 4 4 1)).flatten)).head?).getD { x := 0, y := 0 }

/-- R356, step 4: one refinement at full size in quarter samples, among the displacements that `ok` allows. -/
def searchFull (codec : Nat) (cur ref : Plane) (x y : Int) (ok : Mv → Bool) (c : Mv) (r st : Nat) : Mv :=
  let b := cur.block x y 64
  ((mvSort (fun v => Config.blockCost b (ref.subBlock codec x y 64 v)) ((mvWindow c r r st).filter ok)).head?).getD
    (if ok c then c else { x := 0, y := 0 })

/-- R356: the displacement of a unit against one reference picture, in quarter samples: `pred` is its motion predictor. -/
def motionSearch (p : StreamPar) (cur : BufPic) (ref : BufPic) (x y : Int) (ok : Mv → Bool) (pred : Mv) : Mv :=
  let small := searchSmall cur.quarter ref.quarter x y
  let mid := searchMiddle cur.half ref.half x y (small.map (·.scale 2) ++ [pred.shrink 8])
  let full := searchFull p.codec (lumaPlane p cur.bytes) (lumaPlane p ref.bytes) x y ok (mid.scale 8) 2 4
  let half := searchFull p.codec (lumaPlane p cur.bytes) (lumaPlane p ref.bytes) x y ok full 1 2
  searchFull p.codec (lumaPlane p cur.bytes) (lumaPlane p ref.bytes) x y ok half 1 1

/-- R356, step 1: a picture as it enters the picture buffer, with its pyramid. -/
def bufPic (p : StreamPar) (frame : Nat) (bytes : List Byte) : BufPic :=
  let l := lumaPlane p bytes
  { frame := frame, bytes := bytes, half := l.half, quarter := l.half.half, motion := [] }

/-! ## GOP structure and intra refresh (R357, R358) -/

/-- R357: the coding order within a mini-GOP: the last picture, then the pictures before it by halves. -/
def innerOrder {A : Type} : Nat → List A → List A
  | 0, l => l
  | k + 1, l =>
    match l.drop (l.length / 2) with
    | [] => []
    | m :: r => m :: (innerOrder k (l.take (l.length / 2)) ++ innerOrder k r)

/-- R357: a mini-GOP in coding order. -/
def pyramid {A : Type} (l : List A) : List A :=
  match l.reverse with
  | [] => []
  | x :: r => x :: innerOrder 4 r.reverse

/-- R357: a mini-GOP's anchor is predicted from earlier pictures, the others from both sides. -/
def pyramidJobs (l : List Job) : List Job :=
  match pyramid l with
  | [] => []
  | a :: r => a :: r.map (fun j => { j with bi := true })

/-- R357: the pictures of a mini-GOP in coding order, a hierarchical pyramid. A key picture is predicted from none, and none before it
in display order follows it in coding order, so it parts the mini-GOP (DESIGN CHOICE 137). -/
def codeOrder : List Job → List Job → List Job
  | acc, [] => pyramidJobs acc
  | acc, j :: r => if j.idr then pyramidJobs acc ++ j :: codeOrder [] r else codeOrder (acc ++ [j]) r

/-- R358: does the stream refresh its pictures gradually? -/
def StreamPar.refreshes (p : StreamPar) : Bool := p.gop == 1 && p.gir != 0

/-- R358: the columns of units that picture `n` after the last key picture codes as intra. -/
def intraCols (p : StreamPar) (n : Nat) : List Nat :=
  if p.refreshes then (List.range p.unitCols).filter (fun j => j * p.gir / p.unitCols == n % p.gir) else []

/-- R358: the columns refreshed in the cycle of picture `n`, up to picture `m`. A cycle ends with a clean picture, whose number
`gir_period` divides. -/
def refreshedCols (p : StreamPar) (n m : Nat) : List Nat :=
  let start := n - (n - 1) % p.gir
  ((List.range (m + 1 - start)).map (fun i => intraCols p (start + i))).flatten

/-- R357: the reference pictures of a picture: the nearest in display order of those coded since the last key picture, the earlier one
first, at most `refs` (DESIGN CHOICE 137). -/
def refPics (p : StreamPar) (buf : List BufPic) (j : Job) : List BufPic :=
  if j.idr then []
  else
    let far := fun (q : BufPic) => (q.frame - j.frame) + (j.frame - q.frame)
    (sortBy (fun a b => decide (far a < far b)) (buf.filter (fun q => decide (q.frame < j.frame)) ++ buf.filter (fun q => decide (j.frame < q.frame)))).take p.refs

/-- R351: pictures that the buffer holds. -/
def StreamPar.bufLen (p : StreamPar) : Nat := if p.gop = 2 then p.refs + 2 + 2 ^ p.mg else p.refs + 2

/-- R351, R357: the buffer after a picture is coded, the newest first; a key picture starts it anew. -/
def bufAfter (p : StreamPar) (buf : List BufPic) (j : Job) (q : BufPic) : List BufPic :=
  (if j.idr then [q] else q :: buf).take p.bufLen

/-! ## Rate control (R359) -/

/-- R359: bits that the hypothetical decoder buffer gains in one picture time. -/
def StreamPar.fill (p : StreamPar) : Nat := (if p.rc = 2 then p.maxRate else p.rate) * 1000 * p.fpsDen / p.fpsNum

/-- R359: fullness in bits of the hypothetical decoder buffer before the next access unit: full at the start (DESIGN CHOICE 137),
each unit of `sizes` bytes taken from it, then a picture time's bits added. -/
def fullness (p : StreamPar) (sizes : List Nat) : Nat :=
  sizes.foldl (fun f n => min (p.vbv * 1000) (f - 8 * n + p.fill)) (p.vbv * 1000)

/-- R359: the most bytes of the next access unit: A, and under CBR and VBR what the buffer holds, so that it never underflows. -/
def unitLimit (p : StreamPar) (sizes : List Nat) : Nat := if p.rc = 0 then p.largest else min p.largest (fullness p sizes / 8)

/-- R359: the quantiser of a picture: by its type or the job's own under CQP, else chosen within the bounds from the buffer's fullness. -/
def pictureQp (p : StreamPar) (params : List Byte) (sizes : List Nat) (j : Job) : Nat :=
  if p.rc = 0 then
    if bitOf j.desc.w30.toNat 8 then dbits j.desc.w30 0 8
    else if p.gop = 0 || j.idr then getLE params 0x1C 1
    else if j.bi then getLE params 0x1E 1 else getLE params 0x1D 1
  else max p.qpMin (min p.qpMax (Config.rateQuantiser params (fullness p sizes) sizes))

/-- R359: the quantiser of the next unit: under a frame cap it only rises, unit by unit, with the picture's running size. -/
def unitQp (p : StreamPar) (running qp : Nat) : Nat :=
  if p.cap = 0 then qp else max qp (min (qpTop p.codec) (Config.capQuantiser p.cap running qp))

/-! ## Coding (R355 to R359) -/

/-- What a picture's headers signal. -/
structure PicHead where
  frame     : Nat
  key       : Bool
  recovery  : Bool
  qp        : Nat
  refs      : List Nat
  /-- R349: never signalled -/
  filmGrain      : Bool := false
  superres       : Bool := false
  intraBlockCopy : Bool := false
  /-- R356: `allow_high_precision_mv` -/
  highPrecision  : Bool := false
deriving DecidableEq, Repr

/-- The header's values in order. -/
def PicHead.values (h : PicHead) : List Nat :=
  [h.frame, b2n h.key, b2n h.recovery, h.qp, b2n h.filmGrain, b2n h.superres, b2n h.intraBlockCopy, b2n h.highPrecision] ++ h.refs

/-- What an encoder brings to a picture: the parlour image version, the parameters without the engines, and what it has coded. -/
structure EncoderIn where
  ver    : Half
  params : List Byte
  /-- R355: the pictures coded before, in coding order, with their jobs' flags -/
  coded  : List (List Byte)
  flags  : List Nat
  buf    : List BufPic
  sizes  : List Nat
deriving DecidableEq, Repr

/-- A picture being coded: its bytes so far, its running quantiser, and the motion of its units, each with the reference's place. -/
structure Coding where
  bytes  : List Byte
  qp     : Nat
  motion : List (List (Nat × Mv))
deriving DecidableEq, Repr

/-- R358: may a unit of picture `n` in gradual refresh be displaced so against picture `m`? Units of columns refreshed in the cycle
reference only columns refreshed in it. -/
def refreshOk (p : StreamPar) (n m ux : Nat) (v : Mv) : Bool :=
  !p.refreshes || !(refreshedCols p n (n - 1)).contains ux || mvColumns (refreshedCols p n m) (64 * ux) v

/-- R354, R356 to R359: one unit, in raster order: its quantiser, its motion against every reference, its bytes. -/
def codeUnit (p : StreamPar) (e : EncoderIn) (h : PicHead) (j : Job) (cur : BufPic) (refs : List BufPic) (acc : Coding) (u : Nat) : Coding :=
  let ux := u % p.unitCols
  let uy := u / p.unitCols
  let qp := unitQp p acc.bytes.length acc.qp
  let intra := h.key || refs.isEmpty || (intraCols p j.gpos).contains ux
  let ok := fun (q : BufPic) (v : Mv) => mvInside p.width p.height (64 * ux) (64 * uy) v && refreshOk p j.gpos (j.gpos - (j.frame - q.frame)) ux v
  let usable := (enum refs).filter (fun q => ok q.2 { x := 0, y := 0 })
  let done := acc.motion.map (fun l => l.map (fun m => (m.1, m.2.x, m.2.y)))
  let pred : Mv := { x := Config.motionPredictorX done u, y := Config.motionPredictorY done u }
  let motion := if intra then [] else usable.map (fun q =>
    (q.1, motionSearch p cur q.2 (64 * ux) (64 * uy) (ok q.2) pred))
  { bytes := acc.bytes ++ Config.codeUnit e.ver e.params (e.coded ++ [cur.bytes]) [e.flags, h.values, [u, qp]] (motion.map (fun m => (m.1, m.2.x, m.2.y)))
      (refs.map (·.bytes)) acc.bytes,
    qp := qp, motion := acc.motion ++ [motion] }

/-- R355 to R359: the access unit of a job, at most A bytes and at most what the decoder buffer holds, and the picture as it enters the
picture buffer. -/
def codePicture (p : StreamPar) (e : EncoderIn) (j : Job) : List Byte × BufPic :=
  let refs := refPics p e.buf j
  let h : PicHead := { frame := j.frame, key := j.idr, recovery := j.clean, qp := pictureQp p e.params e.sizes j, refs := refs.map (·.frame) }
  let cur := bufPic p j.frame j.input
  let c := (List.range (p.unitCols * p.unitRows)).foldl (codeUnit p e h j cur refs)
    { bytes := Config.codeHead e.ver e.params e.coded e.flags h.values, qp := h.qp, motion := [] }
  let au := c.bytes.take (unitLimit p e.sizes)
  (au, { bufPic p j.frame (cleanPicture p (Config.reconstruct e.params (refs.map (·.bytes)) au)) with motion := c.motion })

end Sys2Proof.Machine
end

