-- ==== Sys2Proof/Machine/Codec.lean ====
section
/-! DEFINITION. The parlour's streams (R349 to R367): their opening, engines, jobs and output rings. -/
namespace Sys2Proof.Machine

/-! ## Engines (R353) -/

/-- R353: engines that work and that no stream holds, lowest first. -/
def freeEngines (s : State) : List Nat :=
  (List.range 16).filter (fun e => !s.hw.engines.contains e && !s.ctxs.any (fun c => c.2.streams.any (fun t => t.engines.contains e)))

/-! ## STREAM_OPEN -/

/-- R351: does the picture buffer lie in one ALLOC segment placed SPREAD that may be written? -/
def dpbPlaced (s : State) (c a n : Nat) : Bool :=
  (getCtx s c).addr.cur.any (fun q => segForm q.2 == 1 && segPlace q.2 == 0 && !segReadOnly q.2
    && decide (segBase q.2 * 2 ^ 21 ≤ a) && decide (a + n ≤ (segBase q.2 + segLength q.2) * 2 ^ 21))

/-- R351, R354, R361, R363: the refusal of a STREAM_OPEN, 0 when the stream opens. `dpb_addr` lies in the parameter block, not in the
descriptor, so a value at or above 2⁴⁸ is one that R351 refuses, with BAD_FIELD (DESIGN CHOICE 41). -/
def streamCode (s : State) (d : Desc) (b : List Byte) : Nat :=
  let p := streamPar b
  let sid := dbits d.w18 0 8
  firstCode [
    if sid = 0 || (getStream s d.ctx sid).isSome || d.w10.toNat % 64 != 0 then 0x13 else 0,
    if paramsReserved b then 0x11 else 0,
    if !paramsRange b p || paramsUnused b p then 0x13 else 0,
    if p.engines > p.pieces || (p.wpp && (p.cols != 1 || p.rows != 1)) || (p.codec == 2 && p.cols != 1) then 0x13 else 0,
    if p.dpb % 64 != 0 || p.dpbLen < p.dpbMin || !dpbPlaced s d.ctx p.dpb p.dpbLen then 0x13 else 0,
    if p.bound && (p.gop == 2 || periodOf s < 100 * p.frameTime p.engines) then 0x13 else 0,
    if (freeEngines s).length < p.engines then 0x27 else 0]

/-- R351: a picture buffer is set up: from here on what its bytes hold is the parlour's own, in a form that no rule gives. -/
def setUpBuffer (s : State) (c : Nat) (p : StreamPar) : State :=
  let (bs, s1) := freeBytes s p.dpbLen
  writeVa s1 c p.dpb bs

/-- R353, R363: a stream opens with the lowest unreserved engines. -/
def streamStart (s : State) (d : Desc) (b : List Byte) (t : Nat) : State :=
  match streamCode s d b with
  | 0 =>
    let st : Stream := { sid := dbits d.w18 0 8, params := b, engines := (freeEngines s).take (streamPar b).engines }
    finishDesc (modCtx (setUpBuffer s d.ctx (streamPar b)) d.ctx (fun x => { x with streams := x.streams ++ [st] })) d 0x30 t 0x00 0
  | c => finishDesc s d 0x30 t c 0

/-- R363: STREAM_OPEN. -/
def execStreamOpen (desc : Desc) (params : List Byte) (s : State) : Out1 :=
  .next (runDesc s desc 0x30 (dbits desc.w18 8 56 != 0 || !bodyZero [desc.w20, desc.w28, desc.w30, desc.w38])
    (fun s t => withHostData s desc 0x30 t (streamStart s desc (padTo params 128) t)))

/-! ## CODEC_JOB (R364) -/

def jobStream (d : Desc) : Nat := dbits d.w10 0 8
def jobForce (d : Desc) : Bool := bitOf d.w10.toNat 8
def jobEos (d : Desc) : Bool := bitOf d.w10.toNat 9
def jobPlan (d : Desc) : Nat := dbits d.w10 16 16
def jobOut (d : Desc) : Nat := dbits d.w10 32 16
def jobLen (d : Desc) : Nat := dbits d.w20 0 32

/-- R364: nonzero reserved body fields. -/
def jobReserved (d : Desc) : Bool := dbits d.w10 10 6 != 0 || dbits d.w10 48 16 != 0 || dbits d.w20 32 32 != 0 || dbits d.w30 9 55 != 0

/-- R364: bytes in mapped segments, outside placements. -/
def inSegments (s : State) (c a n : Nat) : Bool := rangeOk s c a n false && !inPlacement s c a n

/-- R364: may a picture be written at an address: in ALLOC segments placed SPREAD that are not `read_only`? -/
def spreadOk (s : State) (c a n : Nat) : Bool :=
  n == 0 || (List.range ((a + n - 1) / 4096 - a / 4096 + 1)).all (fun i =>
    (getCtx s c).addr.cur.any (fun q => segForm q.2 == 1 && segPlace q.2 == 0 && !segReadOnly q.2
      && segXlat s c q.2 ((a / 4096 + i) * 4096) != .unmapped))

/-- R5, R364: the refusal of a CODEC_JOB on a stream, 0 when there is none. -/
def jobCode (s : State) (d : Desc) (p : StreamPar) : Nat :=
  let src := d.w18.toNat
  let dst := d.w28.toNat
  let fl := d.w38.toNat
  firstCode [
    if src ≥ 2 ^ 48 || dst ≥ 2 ^ 48 || fl ≥ 2 ^ 48 then 0x12 else 0,
    if src % 64 != 0 || dst % 64 != 0 || fl % 8 != 0 then 0x13 else 0,
    if p.decodes then
      (if (jobLen d = 0 && !jobEos d) || !spreadOk s d.ctx dst p.picture || (fl ≠ 0 && (!inSegments s d.ctx fl 8 || !rangeOk s d.ctx fl 8 true))
       then 0x13 else 0)
    else (if jobLen d ≠ p.picture || dst ≠ 0 then 0x13 else 0),
    if !inSegments s d.ctx src (jobLen d) then 0x13 else 0]

/-- R364: what the wait condition says at fetch: met, refused with a code, or to be awaited. -/
inductive JobWait
  | met
  | code (c : Nat)
  | await (k : PlanKey) (out : Nat)

/-- R364: the code of an output of a plan that has not written its END entry, once its own entry is queued; none for a plan that is
unknown or over. -/
def outputState (s : State) (k : PlanKey) (out : Nat) : Option (Option Nat) :=
  match getPlan s k with
  | some p => some (((p.outs.find? (fun o => o.outId == out)).bind (·.done)).map (·.toNat))
  | none => (pGet (getCtx s k.ctx).endings k.id).map (fun l => pGet l out)

/-- R364: the wait condition at fetch. -/
def jobWait (s : State) (d : Desc) : JobWait :=
  if jobPlan d = 0 then .met
  else
    let k : PlanKey := { ctx := d.ctx, id := jobPlan d }
    match outputState s k (jobOut d) with
    | none => .code 0x19
    | some none => .await k (jobOut d)
    | some (some c) => if c = 0x30 || c = 0x31 then .code 0x31 else .met

/-- R364: a plan that has queued its END entry: jobs that wait for it end once that entry is written. -/
def planEnding (s : State) (p : Plan) : State :=
  if planOver s p.key then codecPlanGone s p.key
  else modCtx s p.key.ctx (fun x => { x with endings := x.endings ++ [(p.key.id, p.outs.filterMap (fun o => o.done.map (fun c => (o.outId, c.toNat))))] })

/-- A plan that jobs of the stream wait for. -/
def addServed (t : Stream) (d : Desc) : List PlanKey :=
  if jobPlan d = 0 || t.plans.contains { ctx := d.ctx, id := jobPlan d } then t.plans else t.plans ++ [{ ctx := d.ctx, id := jobPlan d }]

/-- R364: a job joins its stream. -/
def queueJob (s : State) (d : Desc) (t : Nat) (ready : Option Nat) (waits : Option (PlanKey × Nat)) : State :=
  modStream (openDesc s d 0x32 t (.job (jobStream d))) d.ctx (jobStream d) (fun st =>
    { st with
      plans := addServed st d,
      jobs := st.jobs ++ [{ desc := d, tag := t, ready := ready, waits := waits, started := false, held := false }] })

/-- R364, R366: a CODEC_JOB. -/
def jobStart (s : State) (d : Desc) (t : Nat) : State :=
  match (getStream s d.ctx (jobStream d)).filter (fun st => st.closing.isNone) with
  | none => finishDesc s d 0x32 t 0x13 0
  | some st =>
    match jobCode s d (streamPar st.params) with
    | 0 =>
      (match jobWait s d with
       | .met => queueJob s d t (some s.tick.num.toNat) none
       | .code c => finishDesc s d 0x32 t c 0
       | .await k o => queueJob s d t none (some (k, o)))
    | c => finishDesc s d 0x32 t c 0

/-- R364: CODEC_JOB. -/
def execCodecJob (desc : Desc) (s : State) : Out1 := .next (runDesc s desc 0x32 (jobReserved desc) (fun s t => jobStart s desc t))

/-! ## Jobs start and end (R357 to R361, R365) -/

/-- R361: was a job of a `tick_bound` stream too late? It was ready when its record first did not fit. -/
def jobLate (s : State) (p : StreamPar) (j : Job) : Bool :=
  p.bound && j.ready.any (fun t => decide (t + 1 < j.blocked.getD s.tick.num.toNat))

/-- R361: a job completes with a code; a late one, whatever its code would be, with DEADLINE_LATE and its fault record (DESIGN CHOICE
138). -/
def endJob (s : State) (c sid : Nat) (p : StreamPar) (j : Job) (code : Nat) : State :=
  let s1 := modStream s c sid (dropJob j.tag)
  match (getCtx s1 c).opens.find? (fun o => o.tag == j.tag) with
  | none => s1
  | some o =>
    let late := jobLate s p j
    let s2 := if late then logFault s1 { code := 0x0109, ctx := some c, d0 := sid, d1 := j.desc.userId.toNat } else s1
    postEntry (dropOpen s2 c o.tag) c
      { openEntry s2 o (if late then 0x03 else code) 0 with cause := if late then 0x38 else 0, hold := j.waited }

def readyJob (tag n : Nat) (t : Stream) : Stream :=
  { t with jobs := t.jobs.map (fun j => if j.tag = tag then { j with ready := some n } else j) }

/-- R364: the OUTPUT entry of a plan is queued with a code. -/
def codecOutput (s : State) (k : PlanKey) (out code : Nat) : State :=
  (waitingJobs s k (some out)).foldl (fun s q =>
    if code = 0x30 || code = 0x31 then voidJob s k.ctx q.1 q.2 0x31
    else modStream s k.ctx q.1 (readyJob q.2.tag s.tick.num.toNat)) s

/-- R357, R358: is the next picture a key picture? Gradual refresh takes the place of key pictures after the first that no job forces. -/
def isKey (p : StreamPar) (t : Stream) (d : Desc) : Bool :=
  p.gop == 0 || jobForce d || (match t.sinceKey with
    | none => true
    | some n => !p.refreshes && p.idr != 0 && decide (p.idr ≤ n + 1))

/-- R358: does the picture carry a recovery point? -/
def isClean (p : StreamPar) (t : Stream) : Bool := p.refreshes && t.sinceKey.any (fun n => (n + 1) % p.gir == 0)

/-- R357: does the picture end its mini-GOP? -/
def gopEnds (p : StreamPar) (t : Stream) (d : Desc) : Bool :=
  p.gop != 2 || jobEos d || jobForce d || decide (2 ^ p.mg ≤ (t.jobs.filter (·.held)).length + 1)

def startJob (j : Job) : Job := { j with started := true, held := false }

/-- R357, R360: a picture enters the encoder, which holds it or goes on with its mini-GOP. -/
def encodeIn (p : StreamPar) (t : Stream) (j : Job) (input : List Byte) : Stream :=
  let key := isKey p t j.desc
  let q := { j with
    input := cleanPicture p input, frame := t.frames, idr := key, clean := !key && isClean p t, gpos := t.sinceKey.elim 0 (· + 1) }
  let t1 := { t with frames := t.frames + 1, sinceKey := if key then some 0 else t.sinceKey.map (· + 1) }
  let rest := t.jobs.filter (fun i => !i.held && i.tag != j.tag)
  let group := t.jobs.filter (·.held) ++ [q]
  if gopEnds p t j.desc then { t1 with jobs := (codeOrder [] group).map startJob ++ rest }
  else { t1 with jobs := t.jobs.filter (·.held) ++ [{ q with held := true }] ++ rest }

/-- The next job that may start, when no job is in progress. -/
def nextJob (t : Stream) : Option Job :=
  if t.jobs.any (·.started) then none
  else ((t.jobs.filter (fun j => !j.held)).head?).filter (fun j => j.ready.isSome)

/-- R360: the stream's next job starts. -/
def codecStart (s : State) (c sid : Nat) : State :=
  match getStream s c sid with
  | none => s
  | some t =>
    match nextJob t with
    | none => s
    | some j =>
      let p := streamPar t.params
      let input := readVa s c j.desc.w18.toNat (jobLen j.desc)
      let f : Stream → Stream := fun t =>
        if p.decodes then { t with jobs := t.jobs.map (fun i => if i.tag = j.tag then { i with started := true, input := input } else i) }
        else encodeIn p t j input
      settle (modStream s c sid f)

/-- R360: CODEC_JOB_START. -/
def execCodecJobStart (ctx stream : Nat) (s : State) : Out1 := .next (if alive s then codecStart s ctx stream else s)

/-! ## The output ring (R367) -/

/-- R367: a record header with the phase of its place. -/
def recordHead (p : StreamPar) (at_ length sid : Nat) (key pad : Bool) (user : DWord) (tick : Tick) (frame : Nat) : List Byte :=
  leBytes length 4 ++ leBytes (sid + b2n key * 2 ^ 8 + b2n pad * 2 ^ 9) 4 ++ leBytes user.toNat 8 ++ leBytes tick.toNat 8
  ++ leBytes frame 4 ++ leBytes (b2n (at_ / 2 ^ p.ringLog % 2 == 0) * 2 ^ 31) 4

/-- R367: bytes at a place of the ring. -/
def ringPut (s : State) (p : StreamPar) (at_ : Nat) (bs : List Byte) : State :=
  { s with host := hostWrite s.host (p.ring + at_ % 2 ^ p.ringLog) bs }

/-- R367: have the `n` bytes after those written a place, by the last reading? -/
def ringHas (p : StreamPar) (t : Stream) (n : Nat) : Bool := decide (t.written + n ≤ t.consumed + 2 ^ p.ringLog)

/-- R367: the PAD record, when the record does not fit before the ring's end. None while it has no room. -/
def ringPad (s : State) (c : Nat) (p : StreamPar) (t : Stream) (n : Nat) : Option State :=
  let left := 2 ^ p.ringLog - t.written % 2 ^ p.ringLog
  if n ≤ left then some s
  else if ringHas p t left then
    some (modStream (ringPut s p t.written (recordHead p t.written (left - 32) t.sid false true 0 s.tick.num 0 ++ zeros (left - 32)))
      c t.sid (fun t => { t with written := t.written + left }))
  else none

/-- R367: the access unit of a job as a record: its data, then its header. None while it has no room. -/
def ringRecord (s : State) (c : Nat) (p : StreamPar) (t : Stream) (j : Job) (au : List Byte) : Option State :=
  let n := cdiv (32 + au.length) 64 * 64
  if ringHas p t n then
    let s1 := ringPut s p (t.written + 32) (padTo au (n - 32))
    let s2 := ringPut s1 p t.written (recordHead p t.written au.length t.sid (j.idr || j.clean) false j.desc.userId s.tick.num j.frame)
    some (modStream s2 c t.sid (fun t => { t with written := t.written + n, digests := t.digests ++ [sha512 au], sizes := t.sizes ++ [au.length] }))
  else none

/-! ## Coding (R355, R359, R365) -/

/-- R355: the parameters that the bitstream depends on: all but the number of engines. -/
def codingParams (b : List Byte) : List Byte :=
  leBytes (getLE b 0 4 - fieldAt b 0 5 5 * 2 ^ 5) 4 ++ b.drop 4

/-- R355: a job's flags with the display number of its picture. -/
def jobFlags (j : Job) : Nat := b2n (jobForce j.desc) + b2n (jobEos j.desc) * 2 + dbits j.desc.w30 0 9 * 4 + j.frame * 2 ^ 11

/-- R355, R359: the access unit of a job and the picture that enters the buffer. -/
def accessUnit (s : State) (p : StreamPar) (t : Stream) (j : Job) : List Byte × BufPic :=
  codePicture p { ver := s.dev.bundle.elim 0 (·.parlour), params := codingParams t.params, coded := t.pictures, flags := t.flags ++ [jobFlags j],
                  buf := t.buffer, sizes := t.sizes } j

/-- R351, R355: the access unit that leaves the encoder; free once the host has accessed the picture buffer. -/
def outUnit (s : State) (p : StreamPar) (t : Stream) (j : Job) : List Byte × State :=
  if t.spoiled then
    let (n, s1) := freshBits s 32
    freeBytes s1 (n.toNat % (p.largest + 1))
  else ((accessUnit s p t j).1, s)

/-- R367: the record does not fit: by the last reading, and then by a new one as well, which leaves the job waiting. -/
def blockJob (tag n : Nat) (t : Stream) : Stream :=
  { t with jobs := t.jobs.map (fun j =>
      if j.tag = tag then { j with blocked := some (j.blocked.getD n), waited := j.waited || j.blocked.isSome } else j) }

/-- R357, R367: an encode job writes its record and completes; where the record does not fit by the last reading, the count is read
(STREAM_RING_POLL), and the job waits while it does not fit by that either. -/
def encodeOut (s0 : State) (c : Nat) (p : StreamPar) (t : Stream) (j : Job) : State :=
  let (au, s) := outUnit s0 p t j
  let wait := fun (s : State) => modStream s c t.sid (blockJob j.tag s.tick.num.toNat)
  match ringPad s c p t (cdiv (32 + au.length) 64 * 64) with
  | none => wait s
  | some s1 =>
    match (getStream s1 c t.sid).bind (fun t1 => ringRecord s1 c p t1 j au) with
    | none => wait s1
    | some s2 =>
      let coded : Stream → Stream := fun t => { t with pictures := t.pictures ++ [j.input], flags := t.flags ++ [jobFlags j], buffer := bufAfter p t.buffer j (accessUnit s0 p t j).2 }
      endJob (modStream s2 c t.sid coded) c t.sid p j 0x00

/-- R365: the picture that leaves the decoder is written, then the flag. -/
def showPicture (s : State) (c : Nat) (p : StreamPar) (j : Job) (pic : List Byte) : State :=
  let s1 := writeVa s c j.desc.w28.toNat (cleanPicture p pic)
  if j.desc.w38 = 0 then s1 else writeVa s1 c j.desc.w38.toNat (leBytes j.desc.userId.toNat 8)

/-- R349, R351, R365: a picture as it leaves the decoder; free once the host has accessed the picture buffer. -/
def outPicture (s : State) (p : StreamPar) (t : Stream) (pic : List Byte) : List Byte × State :=
  if t.spoiled then freeBytes s p.picture
  else (if p.codec = 0 then Config.filmGrain t.params t.units t.shown pic else pic, s)

/-- R365: the next picture that the output process gives for the units decoded so far: one that it has released, or at a flush one that
is still pending. -/
def nextPicture (t : Stream) (flush : Bool) : Option (List Byte) :=
  if flush || t.shown < Config.releasedPictures t.params t.units then (Config.decodedPictures t.params t.units)[t.shown]? else none

/-- R365: a decode job completes. -/
def decodeOut (s : State) (c : Nat) (p : StreamPar) (t : Stream) (j : Job) : State :=
  let flush := jobLen j.desc = 0
  let key := !flush && Config.unitIsKey t.params j.input
  if !flush && t.broken && !key then endJob s c t.sid p j 0x13
  else if !flush && !Config.unitConforms t.params t.units j.input then
    endJob (modStream s c t.sid (fun t => { t with broken := true })) c t.sid p j 0x13
  else
    let t1 := if flush then t else { t with units := t.units ++ [j.input], broken := t.broken && !key }
    let s1 := modStream s c t.sid (fun t => { t with units := t1.units, broken := t1.broken })
    match nextPicture t1 flush with
    | none => endJob s1 c t.sid p j 0x01
    | some pic =>
      let (bs, s2) := outPicture s1 p t1 pic
      endJob (modStream (showPicture s2 c p j bs) c t.sid (fun t => { t with shown := t.shown + 1 })) c t.sid p j 0x00

/-- The job in progress. -/
def codecRun (s : State) (c sid : Nat) (again : Bool) : State :=
  match getStream s c sid with
  | none => s
  | some t =>
    match t.jobs.find? (·.started) with
    | none => s
    | some j =>
      if j.blocked.isSome != again then s
      else
        let p := streamPar t.params
        settle (if p.decodes then decodeOut s c p t j else encodeOut s c p t j)

/-- R361, R365: CODEC_JOB_COMPLETE: the job in progress ends, or waits for ring space. -/
def execCodecJobComplete (ctx stream : Nat) (s : State) : Out1 := .next (if alive s then codecRun s ctx stream false else s)

/-- R367: the count is read when a record does not fit, and while it waits. -/
def ringPoll (s : State) (c sid : Nat) (v : DWord) : State :=
  if (getStream s c sid).any (fun t => t.jobs.any (fun j => j.started && j.blocked.isSome)) then
    codecRun (modStream s c sid (fun t => { t with consumed := v.toNat })) c sid true
  else s

/-- R367: STREAM_RING_POLL. -/
def execStreamRingPoll (ctx stream : Nat) (consumed : DWord) (s : State) : Out1 :=
  .next (if alive s then ringPoll s ctx stream consumed else s)

/-! ## STREAM_CLOSE (R366) and failed engines (R362) -/

/-- R366: STREAM_CLOSE. -/
def streamEnd (s : State) (d : Desc) (t : Nat) : State :=
  let sid := dbits d.w10 0 8
  match (getStream s d.ctx sid).filter (fun st => st.closing.isNone) with
  | none => finishDesc s d 0x31 t 0x13 0
  | some _ => modStream (openDesc s d 0x31 t (.streamClose sid)) d.ctx sid (fun st => { st with closing := some t })

/-- R366: STREAM_CLOSE; the contexts then settle. -/
def execStreamClose (desc : Desc) (s : State) : Out1 :=
  .next (runDesc s desc 0x31 (dbits desc.w10 8 56 != 0 || !bodyZero [desc.w18, desc.w20, desc.w28, desc.w30, desc.w38])
    (fun s t => streamEnd s desc t))

/-- R362: a stream without its failed engine, with a replacement if there is one. -/
def swapEngine (e : Nat) (new : Option Nat) (t : Stream) : Stream :=
  if t.engines.contains e then { t with engines := t.engines.filter (· != e) ++ new.toList } else t

/-- R362: a stream left without an engine closes, its jobs WITHDRAWN. -/
def dropStream (s : State) (c : Nat) (t : Stream) : State :=
  let s1 := t.jobs.foldl (fun s j => voidJob s c t.sid j 0x31) s
  let s2 := modCtx (keepItems s1 t) c (fun x => { x with streams := x.streams.filter (fun u => u.sid != t.sid) })
  match t.closing.bind (fun tag => (getCtx s2 c).opens.find? (fun o => o.tag == tag)) with
  | none => s2
  | some o => closeOpen s2 c o 0x00 0

/-- R362: an engine fails. -/
def engineFail (s : State) (e : Nat) : State :=
  if e ≥ 16 || s.hw.engines.contains e then s
  else
    let used := s.ctxs.any (fun c => c.2.streams.any (fun t => t.engines.contains e))
    let s1 := { s with hw := { s.hw with engines := s.hw.engines ++ [e] } }
    let new := if used then (freeEngines s1).head? else none
    let s2 := { s1 with ctxs := s1.ctxs.map (fun c => (c.1, { c.2 with streams := c.2.streams.map (swapEngine e new) })) }
    let s3 := logFault s2 { code := 0x0203, d0 := e, d1 := new.getD 0xFF }
    settle (s3.ctxs.foldl (fun s c => (c.2.streams.filter (fun t => t.engines.isEmpty)).foldl (fun s t => dropStream s c.1 t) s) s3)

/-- R362: CODEC_ENGINE. -/
def execCodecEngine (engine : Nat) (s : State) : Out1 := .next (if alive s then engineFail s engine else s)

end Sys2Proof.Machine
end

