-- ==== Sys2Proof/Machine/PlanRead.lean ====
section
/-! DEFINITION. The plan binary (R470) and what its sections hold (R60 to R63, R129, R130, R134, R176, R188, R217, R242, R272,
R290, R327 to R329, R376, R388, R402), read without checks. -/
namespace Sys2Proof.Machine

/-! ## The directory (R470) -/

/-- R470: number of directory entries. -/
def dirCount (bin : List Byte) : Nat := fieldAt bin 8 0 5
def dirEntry (bin : List Byte) (i : Nat) : List Byte := slice bin (16 + 16 * i) 16
def dirEntries (bin : List Byte) : List (List Byte) := (List.range (dirCount bin)).map (dirEntry bin)
def entKind (e : List Byte) : Nat := getLE e 0 1
def entOff (e : List Byte) : Nat := getLE e 4 4
def entLen (e : List Byte) : Nat := getLE e 8 4

/-- R470: the bytes of the part of a kind. -/
def partOf (bin : List Byte) (kind : Nat) : Option (List Byte) :=
  ((dirEntries bin).find? (fun e => entKind e == kind)).map (fun e => slice bin (entOff e) (entLen e))

/-- The bytes of a part, empty when absent. -/
def partBytes (bin : List Byte) (kind : Nat) : List Byte := (partOf bin kind).getD []

/-- `n` records of `size` bytes from an offset of a part; those past its end are missing. -/
def recsAt (p : List Byte) (off size n : Nat) : List (List Byte) :=
  (List.range (min n ((p.length - off) / max 1 size))).map (fun i => slice p (off + size * i) size)

/-- Do `n` records of `size` bytes lie within the part? -/
def tableIn (p : List Byte) (off size n : Nat) : Bool := n == 0 || decide (off + n * size ≤ p.length)

/-! ## Admission (R60 to R63) -/

def admSteps (p : List Byte) : Nat := getLE p 4 3
def admBudget (p : List Byte) : Nat := getLE p 0xC 1
def admDefault (p : List Byte) : Nat := fieldAt p 0xC 8 2
def admOutputs (p : List Byte) : Nat := getLE p 0x1C 2

/-- R61: the bytes of the step records. -/
def stepRecs (p : List Byte) : List (List Byte) := recsAt p (getLE p 0x18 4) 16 (admSteps p)
/-- R61: the record of the recompute step, when Br is nonzero. -/
def recompRec (p : List Byte) : Option (List Byte) := if admBudget p = 0 then none else some (slice p (getLE p 0x24 4) 16)
def outRecs (p : List Byte) : List (List Byte) := recsAt p (getLE p 0x20 4) 8 (admOutputs p)

/-- R62: an entry list. -/
def entryRecs (p : List Byte) (off n : Nat) : List (List Byte) := recsAt p off 8 n
def demandRec (e : List Byte) : Demand := { book := fieldAt e 0 0 4, index := fieldAt e 0 4 16, amount := fieldAt e 0 24 40 }

/-- R61: the two lists of a step record. -/
def normalRecs (p r : List Byte) : List (List Byte) := entryRecs p (getLE r 0 4) (getLE r 4 3)
def cheaperRecs (p r : List Byte) : List (List Byte) := if fieldAt r 0xC 24 1 = 1 then entryRecs p (getLE r 8 4) (getLE r 0xC 3) else []

/-- R61: a step record, its policy resolved. -/
def stepOfRec (p r : List Byte) : StepRec :=
  { demands := (normalRecs p r).map demandRec, cheaper := (cheaperRecs p r).map demandRec,
    policy := if fieldAt r 4 24 2 = 3 then admDefault p else fieldAt r 4 24 2, bound := fieldAt r 4 26 1 = 1,
    hasCheaper := fieldAt r 0xC 24 1 = 1 }

/-! ## Rooms and images (R129, R130, R134, R402) -/

def imageRecs (p : List Byte) : List (List Byte) := recsAt p (getLE p 8 4) 8 (fieldAt p 4 0 13)
def roomRecs (p : List Byte) : List (List Byte) := recsAt p (getLE p 0x10 4) 16 (fieldAt p 0xC 0 13)
/-- R129: the bytes of an image. -/
def imageBytes (p r : List Byte) : List Byte := slice p (getLE r 0 4) (getLE r 4 4)

/-- R402: the restore entry of image `i`. -/
def restoreOf (rec : List Byte) (i : Nat) : Option (Nat × Nat) :=
  let r := slice rec (8 + 8 * i) 8
  if rec.isEmpty || getLE r 0 2 = 0xFFFF then none else some (getLE r 0 2, getLE r 2 4)

/-- R134: an image. -/
def imageOfRec (p rec : List Byte) (i : Nat) (r : List Byte) : ImageRec :=
  let b := imageBytes p r
  { offset := getLE r 0 4, length := getLE r 4 4, codeWords := getLE b 8 2, entry := getLE b 0xA 2, descOff := getLE b 0xC 2,
    descLen := getLE b 0xE 2, constOff := getLE b 0x10 2, constLen := getLE b 0x12 2, restore := restoreOf rec i }

/-- R130: a room record. -/
def roomOfRec (r : List Byte) : RoomRec :=
  { room := fieldAt r 0 0 13, image := fieldAt r 0 16 16, spadBase := fieldAt r 4 0 6, spadLen := fieldAt r 4 6 6,
    accBase := fieldAt r 4 12 5, accLen := fieldAt r 4 17 6, imemBase := fieldAt r 4 23 3, imemLen := fieldAt r 4 26 4,
    tblBase := fieldAt r 8 0 3, tblLen := fieldAt r 8 3 4 }

/-! ## The other parts -/

/-- R188. -/
def shapeRecs (p : List Byte) : List ShapeOp :=
  (recsAt p 8 16 (fieldAt p 4 0 4)).map (fun r => { src := getLE r 0 8, limit := getLE r 8 8 })

/-- R388: range records: output, address, length. -/
def rangeRecs (p : List Byte) : List (List Byte) := recsAt p 0x58 24 (getLE p 4 1)

/-- R217. -/
def fnTables (p : List Byte) : List (List Byte) := recsAt p (getLE p 0xC 4) 1024 (fieldAt p 4 0 10)
def fnMicros (p : List Byte) : List (List Byte) := recsAt p (getLE p 0x10 4) 128 (fieldAt p 8 0 6)
def fnPreloads (p : List Byte) : List (List Byte) := recsAt p (getLE p 0x18 4) 4 (getLE p 0x14 2)

/-- R242: table records. -/
def walkRecs (p : List Byte) : List (List Byte) := recsAt p 0x18 32 (fieldAt p 4 0 7)
def walkTableOf (r : List Byte) : WalkTable :=
  { handle := getLE r 0 2, write := fieldAt r 0 16 1 = 1, recompute := fieldAt r 0 17 1 = 1, latent := fieldAt r 0 18 1 = 1,
    fmtK := fieldAt r 4 0 4, fmtV := fieldAt r 4 4 4, scale := fieldAt r 4 8 2, dK := getLE r 8 2, dV := getLE r 0xA 2,
    nt := getLE r 0xC 2, nh := getLE r 0xE 2, nw := getLE r 0x10 2, expDk := getLE r 0x14 2, expDv := getLE r 0x16 2,
    statusAddr := getLE r 0x18 8 }

/-- R290. -/
def pinRecs (p : List Byte) : List (List Byte) := recsAt p 8 4 (fieldAt p 4 0 9)
def pinOf (r : List Byte) : PinRec := { id := getLE r 0 2, slice := fieldAt r 0 16 4, granules := fieldAt r 0 20 10 }

/-- R328. -/
def groupRecs (p : List Byte) : List (List Byte) := recsAt p (getLE p 0x10 4) 16 (fieldAt p 4 0 7)
def memberRecs (p r : List Byte) : List (List Byte) := recsAt p (getLE r 8 4) 2 (fieldAt r 4 0 13)
def carrierRecs (p r : List Byte) : List (List Byte) := recsAt p (getLE r 0xC 4) 2 (fieldAt r 4 16 7)
def groupOf (p r : List Byte) : GroupRec :=
  { key := BitVec.ofNat 32 (getLE r 0 4), members := (memberRecs p r).map (fun m => fieldAt m 0 0 12),
    carriers := (carrierRecs p r).map (fun m => fieldAt m 0 0 13) }

/-- R329. -/
def collRecs (p : List Byte) : List (List Byte) := recsAt p (getLE p 0x14 4) 32 (fieldAt p 4 16 12)
def collOf (r : List Byte) : CollRec :=
  { group := fieldAt r 0 0 6, op := fieldAt r 0 6 3, rop := fieldAt r 0 9 2, alg := fieldAt r 0 11 2, wireFmt := fieldAt r 0 13 4,
    resFmt := fieldAt r 0 17 4, vc := fieldAt r 0 21 3, bound := fieldAt r 0 24 1 = 1, stageBufs := fieldAt r 0 25 3 + 1,
    step := getLE r 4 3, order := getLE r 8 2, root := fieldAt r 8 16 12, elems := getLE r 0xC 4, chunk := getLE r 0x10 4 }

/-- R273. -/
def paramRecs (p : List Byte) : List (List Byte) := recsAt p (getLE p 0x10 4) 64 (fieldAt p 0xC 0 13)
def paramOf (r : List Byte) : ParamRec :=
  { paramId := getLE r 0 2, mode := fieldAt r 0 16 2, blocks := fieldAt r 0 18 1 = 1, rows := getLE r 4 2, cols := getLE r 6 2,
    wAddr := getLE r 8 8, wLen := getLE r 0x10 4, gAddr := getLE r 0x18 8, maskAddr := getLE r 0x20 8, tieGroup := getLE r 0x28 2,
    useIndex := getLE r 0x2A 1 }
/-- R272. -/
def trainOf (p : List Byte) : TrainSec :=
  { gradFmt := fieldAt p 4 0 4, wireFmt := fieldAt p 4 4 4, testMode := fieldAt p 4 8 1 = 1, updateCount := getLE p 0x14 2,
    hyperAddr := getLE p 0x18 8, params := (paramRecs p).map paramOf }

/-- R376. -/
def weightRecs (p : List Byte) : List (List Byte) := recsAt p 8 80 (fieldAt p 4 0 9)
def weightOf (r : List Byte) : WeightRec := { imageId := getLE r 0 4, vaBase := fieldAt r 4 0 27, digest := slice r 0x10 64 }

/-- R470: the plan that a binary holds. -/
def readPlan (bin : List Byte) : PlanBody :=
  let a := partBytes bin 1
  let r := partBytes bin 2
  let n := partBytes bin 3
  let l := partBytes bin 5
  let f := partBytes bin 6
  let w := partBytes bin 7
  let c := partBytes bin 9
  let rec_ := partBytes bin 12
  { period := getLE a 8 3, budget := admBudget a, defPolicy := admDefault a, startMode := fieldAt a 0xC 10 2,
    startTick := getLE a 0x10 6, steps := (stepRecs a).map (stepOfRec a), recompute := (recompRec a).map (stepOfRec a),
    outputs := (outRecs a).map (fun o => (getLE o 0 3, getLE o 4 2)),
    images := (enum (imageRecs r)).map (fun q => imageOfRec r rec_ q.1 q.2), rooms := (roomRecs r).map roomOfRec,
    epoch := getLE n 4 2, reference := fieldAt n 4 16 2 = 1, shape := shapeRecs (partBytes bin 4),
    inputDigest := slice l 8 64, replayCount := getLE l 0x48 2, replayAddr := getLE l 0x50 8,
    ranges := (rangeRecs l).map (fun q => (getLE q 0 2, getLE q 8 8, getLE q 0x10 8)),
    tables := fnTables f, micros := fnMicros f,
    preloads := (fnPreloads f).map (fun q => (fieldAt q 0 0 13, fieldAt q 0 13 3, fieldAt q 0 16 10)),
    recompAddr := getLE w 8 8, recompMax := fieldAt w 0x10 0 13, walkTables := (walkRecs w).map walkTableOf,
    pins := (pinRecs (partBytes bin 8)).map pinOf,
    collTag := (partOf bin 9).map (fun c => BitVec.ofNat 64 (getLE c 8 8)), groups := (groupRecs c).map (groupOf c),
    colls := (collRecs c).map collOf, training := (partOf bin 10).map trainOf,
    weights := (weightRecs (partBytes bin 11)).map weightOf }

/-- R388: the plan digest: the binary with `replay_count` and `replay_addr` read as zero. -/
def planDigest (bin : List Byte) : List Byte :=
  match (dirEntries bin).find? (fun e => entKind e == 5) with
  | none => sha512 bin
  | some e =>
    let o := entOff e
    sha512 (bin.take (o + 0x48) ++ zeros 2 ++ slice bin (o + 0x4A) 6 ++ zeros 8 ++ bin.drop (o + 0x58))

end Sys2Proof.Machine
end

