-- ==== Sys2Proof/Machine/PlanCheck.lean ====
section
/-! DEFINITION. The checks of a plan binary (R64, R131, R142, R143, R183 to R185, R217 to R221, R227, R228, R242 to R244, R272 to
R277, R293 to R297, R327 to R330, R334, R376, R388, R402, R470, R471). -/
namespace Sys2Proof.Machine

/-- Is any of the fields (offset, lowest bit, bits) of a record nonzero? -/
def anyField (bs : List Byte) (fs : List (Nat × Nat × Nat)) : Bool := fs.any (fun f => fieldAt bs f.1 f.2.1 f.2.2 != 0)

/-! ## Header and directory (R470) -/

/-- R470: the header and the directory. -/
def directoryOk (bin : List Byte) : Bool :=
  let n := dirCount bin
  let es := dirEntries bin
  decide (16 ≤ bin.length) && getLE bin 0 4 == 0x07409AB1 && getLE bin 4 2 == 1 && decide (5 ≤ n ∧ n ≤ 12)
  && decide (16 + 16 * n ≤ bin.length)
  && es.all (fun e => decide (1 ≤ entKind e ∧ entKind e ≤ 12) && entOff e % 64 == 0 && entLen e != 0
    && decide (entOff e + entLen e ≤ bin.length))
  && distinct (es.map entKind) && !anyMeet ((0, 16 + 16 * n) :: es.map (fun e => (entOff e, entLen e)))
  && [1, 2, 3, 4, 5].all (fun k => es.any (fun e => entKind e == k))

/-- R470, R6: reserved fields of the header and the directory. -/
def directoryRsv (bin : List Byte) : Bool :=
  anyField bin [(4, 16, 16), (8, 5, 27), (0xC, 0, 32)] || (dirEntries bin).any (fun e => anyField e [(0, 8, 24), (0xC, 0, 32)])

/-! ## Admission (R60 to R64) -/

/-- Every step record, the recompute step's last. -/
def everyStep (p : List Byte) : List (List Byte) := stepRecs p ++ (recompRec p).toList

/-- R60 to R63, R6: reserved fields. -/
def admRsv (p : List Byte) : Bool :=
  anyField p [(0, 16, 16), (4, 24, 8), (8, 24, 8), (0xC, 12, 20), (0x10, 48, 16), (0x1C, 16, 16)]
  || (everyStep p).any (fun r => anyField r [(4, 27, 5), (0xC, 25, 7)]
    || (normalRecs p r ++ cheaperRecs p r).any (fun e => anyField e [(0, 20, 4)]))
  || (outRecs p).any (fun r => anyField r [(0, 24, 8), (4, 16, 16)])

/-- R62: the greatest index of a book. -/
def indexMax (book : Nat) : Nat :=
  match book with
  | 0 => 6143
  | 1 => 15
  | 2 => 17
  | 3 => 143
  | 4 => 15
  | _ => 0

/-- R62: an entry list. -/
def entriesOk (es : List (List Byte)) : Bool :=
  let ds := es.map demandRec
  ds.all (fun d => decide (d.book ≤ 6 ∧ d.index ≤ indexMax d.book)) && distinct (ds.map (fun d => (d.book, d.index)))

/-- R61, R64: a step record. -/
def stepOk (p r : List Byte) : Bool :=
  let hc := fieldAt r 0xC 24 1 = 1
  tableIn p (getLE r 0 4) 8 (getLE r 4 3) && entriesOk (normalRecs p r)
  && (if hc then tableIn p (getLE r 8 4) 8 (getLE r 0xC 3) && entriesOk (cheaperRecs p r) else getLE r 8 4 == 0 && getLE r 0xC 3 == 0)

/-- R60, R61, R63, R64: the part. -/
def admOk (p : List Byte) : Bool :=
  let off := getLE p 0x24 4
  decide (0x28 ≤ p.length) && getLE p 0 2 == 1 && decide (1 ≤ admSteps p)
  && decide (10000 ≤ getLE p 8 3 ∧ getLE p 8 3 ≤ 10000000) && admDefault p != 3 && fieldAt p 0xC 10 2 != 3
  && (fieldAt p 0xC 10 2 != 0 || getLE p 0x10 6 == 0) && decide (1 ≤ admOutputs p ∧ admOutputs p ≤ 4096)
  && tableIn p (getLE p 0x18 4) 16 (admSteps p) && tableIn p (getLE p 0x20 4) 8 (admOutputs p)
  && (if admBudget p = 0 then off == 0 else decide (0x28 ≤ off ∧ off + 16 ≤ p.length) && fieldAt (slice p off 16) 4 24 2 == 3)
  && (everyStep p).all (stepOk p) && (outRecs p).all (fun r => decide (getLE r 0 3 < admSteps p))

/-- R64: CHEAPER_OVER. -/
def cheaperOver (b : PlanBody) : Bool :=
  (b.steps ++ b.recompute.toList).any (fun r => r.cheaper.any (fun d => d.amount > demandOf r.demands d.book d.index))

/-- R64: POLICY_INVALID. -/
def policyInvalid (b : PlanBody) : Bool :=
  (enum b.steps).any (fun q => q.2.policy == 1 && !(b.steps[q.1 + 1]?).any (·.hasCheaper))

/-! ## Immediates (R143, R147, R166, R229, R301) -/

/-- R143: an MMA immediate on an array (0 front). -/
def mmaOk (m : MmaImm) (array : Nat) (w : Word) : Bool :=
  m.kb != 0 && m.scale != 3 && m.fmtA != 0 && m.fmtB != 0 && !fmtReserved m.fmtA && !fmtReserved m.fmtB
  && fmtInt m.fmtA == fmtInt m.fmtB && (array != 0 || (!m.trA && !m.trB))
  && (m.scale == 0 || (scaleAccepts m.scale m.fmtA && scaleAccepts m.scale m.fmtB)) && wbits w 28 4 == 0

/-- R147: an ACC_OUT immediate. -/
def accOk (m : AccImm) : Bool := m.scale != 3 && !fmtReserved m.fmt && (m.scale == 0 || scaleAccepts m.scale m.fmt)

/-- R229: an RSTAT immediate. -/
def rstatOk (d imm : Nat) : Bool :=
  let mode := bits imm 0 3
  let eps := bits imm 16 16
  d % 2 == 0 && decide (mode ≤ 5)
  && (if mode ≤ 2 then eps == 0 else decide (eps < 0x7F80) || eps == 0x8000)

/-- R301: a PATOM immediate. -/
def atomOk (imm : Nat) : Bool :=
  let aop := bits imm 0 4
  decide (aop ≤ 10) && (aop != 9 || bitOf imm 5) && (aop != 10 || bitOf imm 4)

/-! ## Instructions (R138, R140) -/

/-- R138, R140: the bits of d, a, b, c and imm that an opcode's row names; none for an unlisted opcode. `c1` is c = 1. -/
def insBits (op : Nat) (c1 : Bool) : Option (Nat × Nat × Nat × Nat × Nat) :=
  let f := 2 ^ 32 - 1
  if op = 0x00 || op = 0x01 || op = 0x02 || op = 0x05 then some (0, 0, 0, 0, 0)
  else if op = 0x03 || op = 0x04 || op = 0x07 || op = 0x28 then some (0, 0, 0, 0, f)
  else if op = 0x06 then some (0, 31, 0, 0, f)
  else if 0x10 ≤ op && op ≤ 0x19 then some (31, 31, if c1 then 0 else 31, 31, if c1 then f else 0)
  else if op = 0x1A || op = 0x1C || op = 0x1D then some (31, 0, 0, 0, f)
  else if op = 0x1B || op = 0x3A then some (7, 31, 31, 0, 7)
  else if op = 0x1E then some (31, 31, 0, 0, f)
  else if op = 0x1F || (0x50 ≤ op && op ≤ 0x55) || op = 0x57 then some (0, 31, 31, 0, f)
  else if 0x20 ≤ op && op ≤ 0x22 then some (31, 31, 31, 31, 2 ^ 28 - 1)
  else if op = 0x24 then some (0, 0, 0, 0, 0x3FF)
  else if op = 0x25 then some (0, 31, 31, 0, 0xFFF)
  else if op = 0x26 then some (0, 31, 0, 0, 31)
  else if op = 0x30 || op = 0x31 then some (31, 31, 0, 31, f)
  else if op = 0x32 || op = 0x33 then some (31, 0, 0, 0, 0x1FF)
  else if op = 0x34 || op = 0x35 || op = 0x36 || op = 0x38 || op = 0x39 then some (31, 31, 31, 0, 0)
  else if op = 0x37 then some (31, 31, 31, 31, 0)
  else if op = 0x3B then some (31, 31, 31, 7, 0)
  else if op = 0x3C || op = 0x3E then some (31, 31, 0, 0, 0)
  else if op = 0x3D then some (31, 31, 0, 0, 3)
  else if op = 0x3F then some (31, 31, 0, 0, 0xFFFF)
  else if op = 0x40 then some (31, 31, 0, 0, 7)
  else if op = 0x41 then some (31, 31, 0, 0, 63)
  else if op = 0x42 then some (31, 31, 0, 0, 0xFFFF000F)
  else if op = 0x43 then some (0, 0, 0, 0, 0x3FF07)
  else if op = 0x56 then some (31, 31, 31, 0, 63)
  else if op = 0x60 then some (0, 31, 31, 0, 0)
  else if op = 0x61 then some (0, 31, 31, 0, 1)
  else if op = 0x62 then some (0, 0, 0, 0, 1)
  else if op = 0x63 then some (0, 31, 0, 0, 3)
  else if op = 0x64 then some (0, 0, 0, 0, 0x7F)
  else none

/-- R138: the fields of an instruction word. -/
structure Ins where
  op  : Nat
  d   : Nat
  a   : Nat
  b   : Nat
  c   : Nat
  imm : Nat
deriving DecidableEq, Repr

def insOf (w : Nat) : Ins := { op := bits w 0 8, d := bits w 12 5, a := bits w 17 5, b := bits w 22 5, c := bits w 27 5, imm := bits w 32 32 }

/-- Are bits outside a mask set? -/
def outside (n mask : Nat) : Bool := n &&& mask != n

/-- R138: a nonzero reserved field. -/
def insRsv (i : Ins) : Bool :=
  match insBits i.op (i.c = 1) with
  | none => false
  | some (d, a, b, c, m) => outside i.d d || outside i.a a || outside i.b b || outside i.c c || outside i.imm m

/-! ## Descriptors in an image (R183, R184, R244, R293, R302, R334) -/

/-- The size and alignment of the descriptor that an opcode names. -/
def descShape (op : Nat) : Option (Nat × Nat) :=
  match op with
  | 0x28 => some (64, 64)
  | 0x50 => some (64, 64)
  | 0x51 => some (64, 64)
  | 0x53 => some (128, 64)
  | 0x54 => some (32, 32)
  | 0x55 => some (32, 32)
  | 0x57 => some (64, 64)
  | _ => none

/-- The bytes of a descriptor that `op` names at an offset of the descriptor area. -/
def descBytes (area : List Byte) (op off : Nat) : List Byte :=
  if op = 0x28 then slice area off (nestBytes (fieldAt (slice area off 64) 0 10 3))
  else slice area off ((descShape op).elim 0 (·.1))

/-- R6, R183, R184: reserved fields of a nest. -/
def nestRsv (b : List Byte) : Bool :=
  anyField b [(0, 19, 13), (4, 28, 4), (8, 12, 20), (0xC, 6, 10)]
  || (List.range (fieldAt b 0 10 3)).any (fun l => anyField b [(64 + 32 * l, 26, 6)])

/-- R6, R244: reserved fields of a walker descriptor. -/
def walkRsv (b : List Byte) : Bool :=
  anyField b [(0, 21, 11), (4, 23, 9), (0xC, 3, 29), (0x14, 16, 16), (0x20, 15, 17), (0x24, 0, 32)]
  || (List.range 4).any (fun k => anyField b [(0x28 + 8 * k, 49, 15)]) || !allZero (slice b 0x48 56)

/-- R6: reserved fields of the descriptor of an opcode. -/
def descRsv (op : Nat) (b : List Byte) : Bool :=
  if op = 0x28 then nestRsv b
  else if op = 0x50 || op = 0x51 then anyField b [(0, 16, 16), (0x20, 8, 24), (0x30, 0, 64), (0x38, 0, 64)]
  else if op = 0x53 then walkRsv b
  else if op = 0x54 || op = 0x55 then anyField b [(0, 25, 7)] || !allZero (slice b 8 24)
  else if op = 0x57 then anyField b [(0, 12, 4), (4, 9, 23), (0xC, 0, 32)] || !allZero (slice b 0x28 24)
  else false

/-- R184, R185: a level. -/
def levelOk (shapes : Nat) (r : List Byte) (l : NestLevel) : Bool :=
  decide (1 ≤ l.bound) && (if l.dyn then decide (l.oper < shapes ∧ 1 ≤ l.div) else getLE r 4 4 == 0)
  && (!l.kRole || l.acc == 0) && l.st.all (· % 64 == 0)

/-- R183 to R185: a nest descriptor against a room record. -/
def nestOk (b : PlanBody) (r : RoomRec) (bs : List Byte) : Bool :=
  let n := nestOf bs
  let lv := fieldAt bs 0 10 3
  let mw := BitVec.ofNat 32 (getLE bs 4 4)
  getLE bs 0 1 == 1 && n.array != 3 && decide (1 ≤ lv ∧ lv ≤ 6) && mmaOk n.mma n.array mw && n.mma.tile == 0 && !n.mma.zero
  && (if n.out then accOk n.acc && n.acc.tile == 0 else getLE bs 8 4 == 0)
  && (if n.hasOut then b.outputs.any (fun o => o.2 == n.outId) else n.outId == 0)
  && n.bufs.all (fun q => q.1 % 64 == 0 && (q.2 == 0 || decide (q.1 + q.2 ≤ 16384 * r.spadLen)))
  && (enum n.levels).all (fun q => levelOk b.shape.length (slice bs (64 + 32 * q.1) 32) q.2)

/-- R293 to R297: a DMA descriptor. -/
def dmaOk (out : Bool) (bs : List Byte) : Bool :=
  let d := dmaOf bs
  getLE bs 0 1 == 1 && decide (fieldAt bs 0 8 2 ≤ 1) && decide (d.lossy ≤ 2) && decide (1 ≤ d.n1) && decide (1 ≤ d.n2)
  && (d.late == 0 || (!out && d.stat % 64 == 0))
  && (if d.shift then
      d.lossy == 0 && !fmtReserved d.fmt && decide (32 ≤ d.piece ∧ d.piece ≤ 65504) && d.piece % 32 == 0 && decide (1 ≤ d.step)
      && (!out || decide (8 ≤ fmtBits d.fmt))
    else
      getLE bs 0x1C 4 == 0 && d.step == 0 && d.pLen == 0 && d.piece % 8 == 0
      && [d.s1c, d.s1s, d.s2c, d.s2s].all (· % 8 == 0)
      && (if d.lossy = 0 then d.fmt == 0
          else (d.fmt == 1 || d.fmt == 2) && d.piece % 64 == 0 && d.s1c % lossyBlock d.lossy == 0 && d.s2c % lossyBlock d.lossy == 0))

/-- R244: the offsets of a band. -/
def bandOffsets (x : Band) : List (Int × Int × Int) :=
  ((lattice x.dtLo x.dtHi x.tStep).map (fun t => ((lattice (-(x.rh : Int)) x.rh x.sStep).map (fun h =>
    (lattice (-(x.rw : Int)) x.rw x.sStep).map (fun w => (t, h, w)))).flatten)).flatten

/-- R243, R244: a walker descriptor. -/
def walkOk (b : PlanBody) (bs : List Byte) : Bool :=
  let d := walkDesc bs
  match b.walkTables[d.table]? with
  | none => false
  | some t =>
    getLE bs 0 1 == 1 && decide (d.op ≤ 3) && (d.op == 0 || t.write)
    && (if d.hasOut then b.outputs.any (fun o => o.2 == d.outId) else d.outId == 0)
    && (d.op != 0 || (decide (1 ≤ d.chunk ∧ d.chunk ≤ 64) && decide (fieldAt bs 0xC 0 3 ≤ 4)
      && d.bands.all (fun x => decide (x.dtLo ≤ x.dtHi) && decide (1 ≤ x.tStep) && decide (1 ≤ x.sStep))
      && distinct ((d.bands.map (fun x => (bandOffsets x).eraseDups)).flatten)
      && (!d.expand || (t.latent && [1, 2, 3, 4].contains d.fmtK && [1, 2, 3, 4].contains d.fmtV))))

/-- R334: a porch descriptor issued from a room; `buf` belongs to a RECV. -/
def porchOk (b : PlanBody) (room : Nat) (recv : Bool) (bs : List Byte) : Bool :=
  let d := porchDesc bs
  match b.colls[d.coll]? with
  | none => false
  | some r =>
    getLE bs 0 1 == 1 && (!recv || decide (d.buf < r.stageBufs)) && decide (d.elems ≤ 16777216) && (!d.fp32 || r.wireFmt != 15)
    && (b.groups[r.group]?).any (fun g => g.carriers.contains room)

/-- R302: a PRED descriptor. -/
def predOk (bs : List Byte) : Bool :=
  getLE bs 0 1 == 1 && fieldAt bs 0 8 2 != 3 && fieldAt bs 0 10 2 != 3 && decide (1 ≤ fieldAt bs 4 0 9 ∧ fieldAt bs 4 0 9 ≤ 256)
  && decide (32 ≤ getLE bs 8 4 ∧ getLE bs 8 4 ≤ 65536) && getLE bs 8 4 % 32 == 0 && getLE bs 0x10 8 % 64 == 0
  && getLE bs 0x18 8 % 8 == 0 && getLE bs 0x18 8 != 0

/-- R142, R185, R297, R334: the descriptor that an instruction names. -/
def namedOk (b : PlanBody) (r : RoomRec) (area : List Byte) (i : Ins) : Bool :=
  match descShape i.op with
  | none => true
  | some (size, align) =>
    let bs := descBytes area i.op i.imm
    i.imm % align == 0 && decide (i.imm + max size bs.length ≤ area.length)
    && (if i.op = 0x28 then decide (i.imm + nestBytes (fieldAt bs 0 10 3) ≤ area.length) && nestOk b r bs
        else if i.op = 0x50 then dmaOk false bs
        else if i.op = 0x51 then dmaOk true bs
        else if i.op = 0x53 then walkOk b bs
        else if i.op = 0x57 then predOk bs
        else porchOk b r.room (i.op == 0x55) bs)

/-! ## Images (R131, R134, R142) -/

/-- The instructions of an image. -/
def codeOf (bs : List Byte) : List Ins := (recsAt bs 0x20 8 (getLE bs 8 2)).map (fun w => insOf (leNat w))

/-- R134: the descriptor area of an image. -/
def areaOf (bs : List Byte) : List Byte := slice bs (getLE bs 0xC 2) (getLE bs 0xE 2)

/-- R6, R142: reserved fields of an image, of its instructions and of the descriptors they name. -/
def imageRsv (bs : List Byte) : Bool :=
  anyField bs [(0x14, 0, 32), (0x18, 0, 64)] || (codeOf bs).any insRsv
  || (codeOf bs).any (fun i => (descShape i.op).any (fun q => i.imm % q.2 == 0 && decide (i.imm + q.1 ≤ (areaOf bs).length)
    && descRsv i.op (descBytes (areaOf bs) i.op i.imm)))

/-- R134, R142: the header of an image. -/
def imageHeaderOk (epoch : Nat) (bs : List Byte) : Bool :=
  let cw := getLE bs 8 2
  let code := 0x20 + 8 * cw
  let d := getLE bs 0xC 2
  let dl := getLE bs 0xE 2
  let k := getLE bs 0x10 2
  let kl := getLE bs 0x12 2
  decide (0x20 ≤ bs.length) && getLE bs 0 4 == 0x0740AC01 && getLE bs 4 2 == 1 && getLE bs 6 2 == epoch
  && decide (1 ≤ cw ∧ cw ≤ 4092) && decide (code ≤ bs.length) && decide (getLE bs 0xA 2 < cw) && kl % 8 == 0
  && (dl == 0 || (d % 64 == 0 && decide (code ≤ d) && decide (d + dl ≤ bs.length)))
  && (kl == 0 || (k % 8 == 0 && decide (code ≤ k) && decide (k + kl ≤ bs.length)))
  && (dl == 0 || kl == 0 || !spansMeet (d, dl) (k, kl))

/-- R142: an instruction at `pc` of an image against a room record. -/
def insOk (b : PlanBody) (r : RoomRec) (bs : List Byte) (pc : Nat) (i : Ins) : Bool :=
  let cw := getLE bs 8 2
  let w := BitVec.ofNat 32 i.imm
  let op := i.op
  if (insBits op false).isNone then false
  else if op = 0x03 || op = 0x04 then
    let t := (pc : Int) + 1 + signed i.imm 32
    decide (0 ≤ t ∧ t < cw)
  else if op = 0x06 then decide (1 ≤ i.imm ∧ i.imm ≤ 256 ∧ pc + 1 + i.imm ≤ cw)
  else if 0x10 ≤ op && op ≤ 0x19 then decide (i.c ≤ 1)
  else if op = 0x1B || op = 0x3A then decide (bits i.imm 0 3 ≤ 5)
  else if op = 0x1C then decide (8 * i.imm + 8 ≤ getLE bs 0x12 2)
  else if op = 0x1D then decide (i.imm ≤ 10 ∨ (16 ≤ i.imm ∧ i.imm ≤ 23))
  else if 0x20 ≤ op && op ≤ 0x22 then mmaOk (mmaImm w) (op - 0x20) w && decide ((mmaImm w).tile < r.accLen)
  else if op = 0x24 then decide (bits i.imm 0 5 + bits i.imm 5 5 < r.accLen)
  else if op = 0x25 then accOk (accImm w) && decide ((accImm w).tile < r.accLen)
  else if op = 0x26 || op = 0x32 || op = 0x33 then decide (bits i.imm 0 5 < r.accLen)
  else if op = 0x30 || op = 0x31 then !fmtReserved i.c
  else if op = 0x3D then bits i.imm 0 2 != 3
  else if op = 0x40 then decide (bits i.imm 0 3 < r.tblLen)
  else if op = 0x41 then decide (bits i.imm 0 6 ≤ 5 ∨ (32 ≤ bits i.imm 0 6 ∧ bits i.imm 0 6 < 32 + b.micros.length))
  else if op = 0x42 then rstatOk i.d i.imm
  else if op = 0x43 then
    decide (bits i.imm 0 3 < r.tblLen)
    && decide (bits i.imm 8 10 ≤ 5 ∨ (128 ≤ bits i.imm 8 10 ∧ bits i.imm 8 10 < 128 + b.tables.length))
  else if op = 0x56 then atomOk i.imm
  else namedOk b r (areaOf bs) i

/-- R131, R142: an image against a room record that names it. -/
def imageFits (b : PlanBody) (r : RoomRec) (bs : List Byte) : Bool :=
  decide (bs.length ≤ 4096 * r.imemLen) && (enum (codeOf bs)).all (fun q => insOk b r bs q.1 q.2)

/-- R470: does an image issue one of these opcodes? -/
def issuesAny (bs : List Byte) (ops : List Nat) : Bool := (codeOf bs).any (fun i => ops.contains i.op)

/-- R129, R130, R6: reserved fields of the room part and its images. -/
def roomRsv (p : List Byte) : Bool :=
  anyField p [(0, 16, 16), (4, 13, 19), (0xC, 13, 19)]
  || (roomRecs p).any (fun r => anyField r [(0, 13, 3), (4, 30, 2), (8, 7, 25), (0xC, 0, 32)])
  || (imageRecs p).any (fun r => imageRsv (imageBytes p r))

/-- R130, R131: the windows of a room record. -/
def windowsOk (r : RoomRec) : Bool :=
  decide (r.room ≤ 6143) && decide (r.spadBase < 40 ∧ 1 ≤ r.spadLen ∧ r.spadBase + r.spadLen ≤ 40)
  && decide (r.accBase + r.accLen ≤ 32) && decide (1 ≤ r.imemLen ∧ r.imemBase + r.imemLen ≤ 8) && decide (r.tblBase + r.tblLen ≤ 8)

/-- R129 to R131, R134, R142, R470: the room part. -/
def roomOk (bin p : List Byte) (b : PlanBody) (epoch : Nat) : Bool :=
  let images := (imageRecs p).map (imageBytes p)
  decide (0x14 ≤ p.length) && getLE p 0 2 == 1 && decide (1 ≤ fieldAt p 4 0 13 ∧ fieldAt p 4 0 13 ≤ 6144)
  && decide (1 ≤ fieldAt p 0xC 0 13 ∧ fieldAt p 0xC 0 13 ≤ 6144)
  && tableIn p (getLE p 8 4) 8 (fieldAt p 4 0 13) && tableIn p (getLE p 0x10 4) 16 (fieldAt p 0xC 0 13)
  && (imageRecs p).all (fun r => getLE r 0 4 % 8 == 0 && decide (getLE r 0 4 + getLE r 4 4 ≤ p.length))
  && images.all (imageHeaderOk epoch)
  && b.rooms.all (fun r => windowsOk r && (images[r.image]?).any (imageFits b r))
  && distinct (b.rooms.map (·.room))
  && (b.steps ++ b.recompute.toList).all (fun r => (r.demands ++ r.cheaper).all (fun d =>
    d.book != 0 || b.rooms.any (fun q => q.room == d.index)))
  && ((partOf bin 7).isSome || !images.any (fun i => issuesAny i [0x53]))
  && ((partOf bin 9).isSome || !images.any (fun i => issuesAny i [0x54, 0x55]))

/-! ## Numeric, shape and ledger parts (R176, R188, R388) -/

def numericRsv (p : List Byte) : Bool := anyField p [(0, 16, 16), (4, 18, 14), (8, 0, 64)]
def numericOk (p : List Byte) (epoch : Nat) : Bool :=
  decide (16 ≤ p.length) && getLE p 0 2 == 1 && getLE p 4 2 == epoch && decide (fieldAt p 4 16 2 ≤ 1)

def shapeRsv (p : List Byte) : Bool := anyField p [(0, 16, 16), (4, 4, 28)]
def shapeOk (p : List Byte) : Bool :=
  decide (8 ≤ p.length) && getLE p 0 2 == 1 && decide (fieldAt p 4 0 4 ≤ 8) && tableIn p 8 16 (fieldAt p 4 0 4)
  && (shapeRecs p).all (fun r => r.src % 8 == 0)

def ledgerRsv (p : List Byte) : Bool :=
  anyField p [(0, 16, 16), (4, 8, 24), (0x48, 16, 48)] || (rangeRecs p).any (fun r => anyField r [(0, 16, 48)])

/-- R388: range bytes of all outputs that share a step. -/
def stepRangeBytes (b : PlanBody) (k : Nat) : Nat :=
  sumBy (b.outputs.filter (fun o => o.1 == k)) (fun o => sumBy (b.ranges.filter (fun r => r.1 == o.2)) (·.2.2))

def ledgerOk (p : List Byte) (b : PlanBody) : Bool :=
  decide (0x58 ≤ p.length) && getLE p 0 2 == 1 && tableIn p 0x58 24 (getLE p 4 1)
  && b.ranges.all (fun r => b.outputs.any (fun o => o.2 == r.1))
  && (b.outputs.map (·.1)).all (fun k => decide (stepRangeBytes b k ≤ 40 * b.period))

/-! ## Function part (R217 to R221, R227, R228) -/

/-- R220: bytes used by the header and segments of a table image. -/
def tableUsed (t : List Byte) : Nat :=
  let n := fieldAt t 4 0 7
  if fieldAt t 0 16 2 = 1 then 0x80 + 8 * n else 0x40 + (if fieldAt t 0 18 1 = 1 then 12 else 8) * n

def tableRsv (t : List Byte) : Bool :=
  anyField t [(0, 24, 8), (4, 7, 1), (4, 20, 12), (0x1C, 0, 32)] || !allZero (slice t 0x20 32)
  || (fieldAt t 0 16 2 == 1 && !allZero (slice t (0x40 + 4 * fieldAt t 4 0 7) (0x40 - 4 * fieldAt t 4 0 7)))
  || !allZero (t.drop (tableUsed t))

def microRsv (m : List Byte) : Bool :=
  anyField m [(0, 23, 9), (4, 0, 32)] || !allZero (m.drop (0x48 + 4 * fieldAt m 0 16 4))
  || (microOf m).ops.any (fun w => wbits w 22 10 != 0)

/-- R227, R228: a plan micro-program. -/
def microOk (m : List Byte) : Bool :=
  getLE m 0 2 == 1 && decide (1 ≤ fieldAt m 0 16 4 ∧ fieldAt m 0 16 4 ≤ 14)
  && (microOf m).ops.all (fun w => decide (wbits w 0 4 ≤ 12) && [wbits w 7 5, wbits w 12 5, wbits w 17 5].all (· ≤ 23))

def fnRsv (p : List Byte) : Bool :=
  anyField p [(0, 16, 16), (4, 10, 22), (8, 6, 26), (0x14, 16, 16)] || (fnTables p).any tableRsv || (fnMicros p).any microRsv
  || (fnPreloads p).any (fun q => anyField q [(0, 26, 6)])

/-- R217: a preload fits every room record that names its image, and names a table. -/
def preloadOk (b : PlanBody) (q : Nat × Nat × Nat) : Bool :=
  decide (q.1 < b.images.length) && b.rooms.all (fun r => r.image != q.1 || decide (q.2.1 < r.tblLen))
  && decide (q.2.2 ≤ 5 ∨ (128 ≤ q.2.2 ∧ q.2.2 < 128 + b.tables.length))

def fnOk (p : List Byte) (b : PlanBody) : Bool :=
  decide (0x1C ≤ p.length) && getLE p 0 2 == 1 && decide (fieldAt p 4 0 10 ≤ 896) && decide (fieldAt p 8 0 6 ≤ 32)
  && decide (getLE p 0x14 2 ≤ 49152) && getLE p 0xC 4 % 64 == 0 && getLE p 0x10 4 % 8 == 0
  && tableIn p (getLE p 0xC 4) 1024 (fieldAt p 4 0 10) && tableIn p (getLE p 0x10 4) 128 (fieldAt p 8 0 6)
  && tableIn p (getLE p 0x18 4) 4 (getLE p 0x14 2)
  && b.tables.all planTableOk && b.micros.all microOk && b.preloads.all (preloadOk b)

/-! ## Walker and memory parts (R235, R242, R243, R290) -/

def walkerRsv (p : List Byte) : Bool :=
  anyField p [(0, 16, 16), (4, 7, 25), (0x10, 13, 19), (0x14, 0, 32)]
  || (walkRecs p).any (fun r => anyField r [(0, 19, 13), (4, 10, 22), (0x10, 16, 16)])

/-- A feature count: `lo` to 1,024, a multiple of 32. -/
def featOk (lo n : Nat) : Bool := decide (lo ≤ n ∧ n ≤ 1024) && n % 32 == 0

/-- R242, R243: a table record. -/
def walkRecOk (s : State) (c : Nat) (b : PlanBody) (t : WalkTable) : Bool :=
  match getKv s c t.handle with
  | none => false
  | some k =>
    decide (t.scale ≤ 2) && t.fmtK != 0 && !fmtReserved t.fmtK
    && featOk 32 t.dK && featOk 0 t.dV && decide (1 ≤ t.nt) && decide (1 ≤ t.nh) && decide (1 ≤ t.nw) && t.statusAddr % 64 == 0
    && decide (blockBytes t ≤ 2 ^ k.pageLog2) && (!t.recompute || b.recompAddr != 0)
    && (t.scale == 0 || scaleAccepts t.scale t.fmtK)
    && (if t.latent then t.fmtV == 0 && t.dV == 0 && t.scale == 0 && featOk 32 t.expDk && featOk 0 t.expDv
        else t.fmtV != 0 && !fmtReserved t.fmtV && fmtInt t.fmtK == fmtInt t.fmtV && (t.scale == 0 || scaleAccepts t.scale t.fmtV)
          && t.expDk == 0 && t.expDv == 0)

def walkerOk (s : State) (c : Nat) (p : List Byte) (b : PlanBody) : Bool :=
  decide (0x18 ≤ p.length) && getLE p 0 2 == 1 && decide (1 ≤ fieldAt p 4 0 7 ∧ fieldAt p 4 0 7 ≤ 64)
  && tableIn p 0x18 32 (fieldAt p 4 0 7) && b.recompAddr % 64 == 0
  && (if b.walkTables.any (·.recompute) then decide (b.recompAddr ≠ 0 ∧ 1 ≤ b.recompMax ∧ b.recompMax ≤ 4096)
      else b.recompAddr == 0 && b.recompMax == 0)
  && b.walkTables.all (walkRecOk s c b)

def memRsv (p : List Byte) : Bool := anyField p [(0, 16, 16), (4, 9, 23)] || (pinRecs p).any (fun r => anyField r [(0, 30, 2)])

/-- R290: the memory part; a bound pin keeps its slice and size. -/
def memOk (s : State) (c : Nat) (p : List Byte) (b : PlanBody) : Bool :=
  decide (8 ≤ p.length) && getLE p 0 2 == 1 && decide (fieldAt p 4 0 9 ≤ 256) && tableIn p 8 4 (fieldAt p 4 0 9)
  && b.pins.all (fun q => decide (1 ≤ q.granules ∧ q.granules ≤ 512)
    && s.pins.all (fun k => k.ctx != c || k.id != q.id || (k.slice == q.slice && k.granules == q.granules)))

/-! ## Collective part (R327 to R330) -/

def collRsv (p : List Byte) : Bool :=
  anyField p [(0, 16, 16), (4, 7, 9), (4, 28, 4)]
  || (groupRecs p).any (fun r => anyField r [(4, 13, 3), (4, 23, 9)]
    || (memberRecs p r).any (fun m => anyField m [(0, 12, 4)]) || (carrierRecs p r).any (fun m => anyField m [(0, 13, 3)]))
  || (collRecs p).any (fun r => anyField r [(0, 28, 4), (4, 24, 8), (8, 28, 4), (0x14, 0, 32), (0x18, 0, 64)])

/-- R328: a group record. -/
def groupRecOk (s : State) (b : PlanBody) (p r : List Byte) : Bool :=
  let g := groupOf p r
  decide (1 ≤ fieldAt r 4 0 13 ∧ fieldAt r 4 0 13 ≤ 4096) && decide (1 ≤ fieldAt r 4 16 7 ∧ fieldAt r 4 16 7 ≤ 64)
  && tableIn p (getLE r 8 4) 2 (fieldAt r 4 0 13) && tableIn p (getLE r 0xC 4) 2 (fieldAt r 4 16 7)
  && distinct g.members && g.members.contains s.dev.fabric.toNat && distinct g.carriers
  && g.carriers.all (fun c => b.rooms.any (fun q => q.room == c))

/-- R330: the combinations. -/
def collCombo (n : Nat) (c : CollRec) : Bool :=
  let sums := decide (c.wireFmt ≤ 4) && decide (c.resFmt ≤ 4)
  let moves := (decide (c.wireFmt ≤ 4) || c.wireFmt == 15) && c.resFmt == c.wireFmt
  let sharded := c.alg == 2 && decide (n ≤ 64) && c.stageBufs == 8
  match c.op with
  | 0 => (decide (c.alg ≤ 1) || sharded) && sums
  | 1 => (c.alg == 0 || sharded) && sums
  | 2 => c.alg == 1 && sums
  | 3 => (c.alg == 0 || c.alg == 3) && moves
  | 4 => decide (c.alg ≤ 1) && moves
  | 5 => c.alg == 3 && moves
  | _ => false

/-- R329, R330: a collective record. -/
def collRecOk (b : PlanBody) (c : CollRec) : Bool :=
  match b.groups[c.group]? with
  | none => false
  | some g =>
    let unit := if c.wireFmt = 15 then 64 else 32
    collCombo g.members.length c && (if c.op ≤ 2 then c.rop != 3 else c.rop == 0)
    && decide (32 ≤ c.chunk ∧ c.chunk ≤ 1048576) && c.elems % unit == 0 && c.chunk % unit == 0
    && (if c.bound then (b.steps[c.step]?).any (·.bound) else c.step == 0 && c.order == 0)
    && (if c.op = 2 || c.op = 4 then decide (c.root < g.members.length) else c.root == 0)

def collOk (s : State) (p : List Byte) (b : PlanBody) : Bool :=
  let bound := (b.colls.filter (·.bound)).map (fun c => (c.step, c.order))
  decide (0x18 ≤ p.length) && getLE p 0 2 == 1 && decide (1 ≤ fieldAt p 4 0 7 ∧ fieldAt p 4 0 7 ≤ 64)
  && decide (1 ≤ fieldAt p 4 16 12) && tableIn p (getLE p 0x10 4) 16 (fieldAt p 4 0 7)
  && tableIn p (getLE p 0x14 4) 32 (fieldAt p 4 16 12)
  && (groupRecs p).all (groupRecOk s b p) && b.colls.all (collRecOk b) && distinct bound
  && !(admittedPlans s).any (fun q => q.body.any (fun y => y.collTag.isSome && y.collTag == b.collTag))

/-! ## Training part (R272 to R274, R277) -/

def trainRsv (p : List Byte) : Bool :=
  anyField p [(0, 16, 16), (4, 9, 23), (0xC, 13, 19), (0x14, 16, 16)]
  || (paramRecs p).any (fun r => anyField r [(0, 19, 13), (0x14, 0, 32), (0x28, 24, 8)] || !allZero (slice r 0x2C 20))

/-- R273: blocks of a parameter. -/
def blockSpan (q : ParamRec) : Nat × Nat := (q.wAddr, if q.mode = 1 then q.wLen else 2 * q.wLen)
/-- R273: its gradient buffers. -/
def gradSpan (q : ParamRec) : Option (Nat × Nat) := if q.mode = 1 then none else some (q.gAddr, 2 * (q.rows * q.cols * 4))

/-- R277: two uses of one tied block in test mode. -/
def tied (t : TrainSec) (a b : ParamRec) : Bool :=
  t.testMode && (gradSpan a).isSome && (gradSpan b).isSome && a.tieGroup != 0 && a.tieGroup == b.tieGroup && a.useIndex != b.useIndex && a.wAddr == b.wAddr && a.wLen == b.wLen
  && a.rows == b.rows && a.cols == b.cols && a.mode == b.mode

/-- R273, R274: a parameter record. -/
def paramOk (t : TrainSec) (q : ParamRec) : Bool :=
  decide (32 ≤ q.rows ∧ q.rows ≤ 65504) && q.rows % 32 == 0 && decide (32 ≤ q.cols ∧ q.cols ≤ 65504) && q.cols % 32 == 0
  && q.wAddr % 64 == 0 && (q.mode == 3 || q.maskAddr == 0) && (q.mode != 3 || (q.maskAddr != 0 && q.maskAddr % 64 == 0))
  && (q.mode != 1 || q.gAddr == 0) && (q.mode != 2 || decide (q.rows ≤ 256 ∨ q.cols ≤ 256))
  && (t.testMode || q.tieGroup == 0)

/-- R274, R277: no two ranges of the records overlap but the blocks of tied uses. -/
def paramRanges (t : TrainSec) : List ParamRec → Bool
  | [] => true
  | q :: r =>
    r.all (fun o => (!spansMeet (blockSpan q) (blockSpan o) || tied t q o)
      && (gradSpan q).all (fun g => (gradSpan o).all (fun h => !spansMeet g h) && !spansMeet g (blockSpan o))
      && (gradSpan o).all (fun h => !spansMeet h (blockSpan q)))
    && (gradSpan q).all (fun g => !spansMeet g (blockSpan q)) && paramRanges t r

/-- R267, R272: the loss scale: 1.0 under BF16, and under FP16 a power of two from 2⁰ to 2²⁴. -/
def lossOk (fmt : Nat) (w : Word) : Bool :=
  if fmt = 1 then w == 0x3F800000 else (List.range 25).any (fun k => w.toNat == (127 + k) * 2 ^ 23)

def trainOk (p : List Byte) (t : TrainSec) : Bool :=
  decide (0x20 ≤ p.length) && getLE p 0 2 == 1 && (t.gradFmt == 1 || t.gradFmt == 2) && (t.wireFmt == 0 || t.wireFmt == 4)
  && lossOk t.gradFmt (wordAt p 8) && decide (1 ≤ fieldAt p 0xC 0 13 ∧ fieldAt p 0xC 0 13 ≤ 4096)
  && tableIn p (getLE p 0x10 4) 64 (fieldAt p 0xC 0 13) && t.hyperAddr % 64 == 0
  && (t.updateCount == 0) == (t.hyperAddr == 0)
  && t.params.all (paramOk t) && distinct (t.params.map (·.paramId)) && decide ((t.params.filter (fun q => q.mode == 3)).length ≤ 16)
  && paramRanges t t.params

/-! ## Weight and recovery parts (R376, R402) -/

def weightRsv (p : List Byte) : Bool :=
  anyField p [(0, 16, 16), (4, 9, 23)] || (weightRecs p).any (fun r => anyField r [(4, 27, 5), (8, 0, 64)])

/-- R376: the span of a placement, in extents. -/
def placeSpan (s : State) (c : Nat) (w : WeightRec) : Nat × Nat :=
  (w.vaBase, (s.attic.loaded.find? (fun l => l.ctx == c && l.imageId == w.imageId)).elim 0 (·.extents.length))

/-- R376: placements overlap neither segments nor one another, and one image has one place. -/
def weightOk (s : State) (c : Nat) (p : List Byte) (b : PlanBody) : Bool :=
  let segs := ((getCtx s c).addr.cur.map (fun q => (segSpan q.2).toList)).flatten
  let mine := (b.weights.map (fun w => (w.imageId, w.vaBase))).eraseDups
  let held := ((placements s c).map (fun q => (q.2.1, q.1))).eraseDups
  let all := (mine ++ held).eraseDups
  decide (8 ≤ p.length) && getLE p 0 2 == 1 && decide (1 ≤ fieldAt p 4 0 9 ∧ fieldAt p 4 0 9 ≤ 256) && tableIn p 8 80 (fieldAt p 4 0 9)
  && distinct (all.map (·.1))
  && !anyMeet (segs ++ all.map (fun q => placeSpan s c { imageId := q.1, vaBase := q.2, digest := [] }))

/-- R376: IMAGE_UNKNOWN. -/
def imageUnknown (s : State) (c : Nat) (b : PlanBody) : Bool :=
  b.weights.any (fun w => !s.attic.loaded.any (fun l => l.ctx == c && l.imageId == w.imageId
    && (findImage s l.fn l.imageId).any (fun i => i.digest == w.digest)))

def recovRsv (p : List Byte) (n : Nat) : Bool :=
  anyField p [(0, 16, 16), (4, 13, 19)] || (recsAt p 8 8 n).any (fun r => anyField r [(0, 48, 16)])

def recovOk (p : List Byte) (b : PlanBody) : Bool :=
  decide (8 ≤ p.length) && getLE p 0 2 == 1 && fieldAt p 4 0 13 == b.images.length && tableIn p 8 8 b.images.length
  && (enum b.images).all (fun q =>
    let r := slice p (8 + 8 * q.1) 8
    if getLE r 0 2 = 0xFFFF then getLE r 2 4 == 0
    else decide (getLE r 0 2 < q.2.codeWords) && decide (1 ≤ getLE r 2 4 ∧ getLE r 2 4 ≤ 140000))

/-! ## The whole plan (R471) -/

/-- R471, item 2. -/
def planRsv (bin : List Byte) : Bool :=
  let p := partBytes bin
  directoryRsv bin || admRsv (p 1) || roomRsv (p 2) || numericRsv (p 3) || shapeRsv (p 4) || ledgerRsv (p 5) || fnRsv (p 6)
  || walkerRsv (p 7) || memRsv (p 8) || collRsv (p 9) || trainRsv (p 10) || weightRsv (p 11)
  || recovRsv (p 12) (imageRecs (p 2)).length

/-- A part that is present passes its check. -/
def partOk (bin : List Byte) (kind : Nat) (f : List Byte → Bool) : Bool := (partOf bin kind).all f

/-- R179: the running bundle's numeric epoch. -/
def runEpoch (s : State) : Nat := s.dev.bundle.elim 0 (·.epoch.toNat)

/-- R471, item 3. -/
def planFormOk (s : State) (c : Nat) (bin : List Byte) (b : PlanBody) : Bool :=
  partOk bin 1 admOk && partOk bin 2 (fun p => roomOk bin p b (runEpoch s)) && partOk bin 3 (fun p => numericOk p (runEpoch s))
  && partOk bin 4 shapeOk && partOk bin 5 (fun p => ledgerOk p b) && partOk bin 6 (fun p => fnOk p b)
  && partOk bin 7 (fun p => walkerOk s c p b) && partOk bin 8 (fun p => memOk s c p b) && partOk bin 9 (fun p => collOk s p b)
  && partOk bin 10 (fun p => b.training.all (trainOk p)) && partOk bin 11 (fun p => weightOk s c p b)
  && partOk bin 12 (fun p => recovOk p b)

/-- The addresses of a plan's sections and PRED descriptors. -/
def planAddrs (bin : List Byte) (b : PlanBody) : List Nat :=
  b.shape.map (·.src) ++ [b.replayAddr, b.recompAddr] ++ b.ranges.map (·.2.1) ++ b.walkTables.map (·.statusAddr)
  ++ (b.training.elim [] (fun t => t.hyperAddr :: (t.params.map (fun q => [q.wAddr, q.gAddr, q.maskAddr])).flatten))
  ++ ((imageRecs (partBytes bin 2)).map (fun r =>
    let bs := imageBytes (partBytes bin 2) r
    ((codeOf bs).filter (fun i => i.op == 0x57)).map (fun i => getLE (areaOf bs) (i.imm + 0x10) 8) ++
    ((codeOf bs).filter (fun i => i.op == 0x57)).map (fun i => getLE (areaOf bs) (i.imm + 0x18) 8))).flatten

/-- R471, item 4 (R5); a source that is 0 is a constant's. -/
def addrBad (bin : List Byte) (b : PlanBody) : Bool := (planAddrs bin b).any (fun a => decide (a ≥ 2 ^ 48))

/-- R471, items 1 to 7: the code of the first check that the plan breaks, 0 when it breaks none. -/
def planCode (s : State) (c : Nat) (bin : List Byte) : Nat :=
  let b := readPlan bin
  firstCode [
    if directoryOk bin then 0 else 0x20,
    if planRsv bin then 0x11 else 0,
    if planFormOk s c bin b then 0 else 0x20,
    if addrBad bin b then 0x12 else 0,
    if cheaperOver b then 0x23 else 0,
    if policyInvalid b then 0x22 else 0,
    if imageUnknown s c b then 0x53 else 0]

end Sys2Proof.Machine
end

