-- ==== Sys2Proof/Machine/Admit.lean ====
section
/-! DEFINITION. PLAN and its admission (R26, R54 to R59, R65, R67 to R70, R81, R106, R107, R132, R218, R376, R388, R395, R471, R472). -/
namespace Sys2Proof.Machine

/-! ## The descriptor (R106, R107) -/


/-- R107: `output_count` of the admission header; none when the header cannot be located. -/
def outputCount (bin : List Byte) : Option Nat :=
  if getLE bin 0 4 != 0x07409AB1 then none
  else (partOf bin 1).bind (fun a => if a.length < 0x1E then none else some (admOutputs a))

/-- R107: does the `plan_id` name a plan that has no END entry yet? -/
def planIdBusy (s : State) (k : PlanKey) : Bool := !planOver s k

/-- R107, R441: the ledger ring is not enabled, or 256 records wait for it. -/
def noLedger (s : State) (f : Nat) : Bool :=
  !wbit (getFn s f).lrCfg 31 || decide (256 ≤ (getFn s f).ledger.length) || cannotReserve s.attic

/-- R107: the completion ring has fewer than `output_count` + 2 entries. -/
def ringShort (s : State) (c : Nat) (bin : List Byte) : Bool :=
  (outputCount bin).any (fun n => decide (cqSize (getCtx s c) < n + 2))

/-- R107: the refusal of a PLAN before its admission, 0 when there is none. `plan_id` 0 is refused with the header. -/
def planRefusal (s : State) (d : Desc) : Nat :=
  let a := planAddr d
  let n := planLen d
  firstCode [
    if a % 64 != 0 || n == 0 || n % 64 != 0 || d.w20.toNat % 8 != 0 then 0x13 else 0,
    if a ≥ 2 ^ 48 || !rangeOk s d.ctx a n false || inPlacement s d.ctx a n then 0x12 else 0,
    if planIdBusy s { ctx := d.ctx, id := d.planId.toNat } then 0x18 else 0,
    if noLedger s ((ctxFn s d.ctx).getD 0) then 0x1C else 0,
    if ringShort s d.ctx (readVa s d.ctx a n) then 0x17 else 0]

/-- R106, R107: a PLAN waits for its admission, or is refused. -/
def planStart (s : State) (d : Desc) (t : Nat) : State :=
  match planRefusal s d with
  | 0 =>
    let p : Plan := { key := { ctx := d.ctx, id := d.planId.toNat }, desc := d, tag := t }
    let s1 := openDesc s d 0x01 t .admission
    { s1 with plans := s1.plans ++ [p] }
  | c => finishDesc s d 0x01 t c 0

/-- R106: PLAN. -/
def execPlan (desc : Desc) (s : State) : Out1 :=
  .next (runDesc s desc 0x01 (dbits desc.w18 32 32 != 0 || desc.w38 != 0) (fun s t => planStart s desc t))

/-! ## Windows and wing table store units (R132, R218) -/

/-- Do two nonempty spans of units overlap? -/
def unitsMeet (a n b m : Nat) : Bool := n != 0 && m != 0 && decide (a < b + m) && decide (b < a + n)

/-- R132: do the windows of two records overlap? -/
def windowsMeet (x y : RoomRec) : Bool :=
  x.room == y.room && (unitsMeet x.spadBase x.spadLen y.spadBase y.spadLen || unitsMeet x.accBase x.accLen y.accBase y.accLen
    || unitsMeet x.imemBase x.imemLen y.imemBase y.imemLen || unitsMeet x.tblBase x.tblLen y.tblBase y.tblLen)

/-- R132: does the plan hold its windows and units in a tick? -/
def holdsAt (p : Plan) (t : Nat) : Bool :=
  p.phase == .admitted && !p.stopped && (p.overran || (decide (firstBooked p ≤ t) && decide (t ≤ lastBooked p)))

/-- Do windows of a plan body meet a window that a plan holds in a tick? -/
def windowClash (s : State) (b : PlanBody) (t : Nat) : Bool :=
  s.plans.any (fun p => holdsAt p t && p.body.any (fun y => y.rooms.any (fun r => b.rooms.any (windowsMeet r))))

/-- R218: the wings in which a plan has a room record. -/
def wingsOf (b : PlanBody) : List Nat := (b.rooms.map (fun r => r.room / 64)).eraseDups

/-- R218: units of 1 KiB in each of them. -/
def tableUnits (b : PlanBody) : Nat := b.tables.length + cdiv b.micros.length 8

/-- R218: units of a wing that plans hold in a tick. -/
def unitsHeld (s : State) (wing t : Nat) : Nat :=
  sumBy (s.plans.filter (fun p => holdsAt p t)) (fun p => p.body.elim 0 (fun b => if (wingsOf b).contains wing then tableUnits b else 0))

/-- R218: would the plan's units pass 896 in a wing? -/
def unitsOver (s : State) (b : PlanBody) (t : Nat) : Bool :=
  (wingsOf b).any (fun w => decide (896 < unitsHeld s w t + tableUnits b))

/-! ## fits (R68) -/

/-- R68: room time of an offset in a tick. -/
def roomOver (s : State) (b : PlanBody) (n t j : Nat) (es : List (Nat × Nat)) : Bool :=
  es.any (fun e => e.1 == 0 && decide (roomCap n < booked s t 0 e.2 + bookUnit 0 (envelope b j 0 e.2)))
  || windowClash s b t || unitsOver s b t

/-- R56, R68: cellars and the corridor. -/
def cellarOver (s : State) (b : PlanBody) (n t j : Nat) (es : List (Nat × Nat)) : Bool :=
  es.any (fun e => (e.1 == 1 && decide (cellarCap n < booked s t 1 e.2 + envelope b j 1 e.2))
    || (e.1 == 2 && decide (corridorCap n e.2 < booked s t 2 e.2 + envelope b j 2 e.2)))

/-- R57, R68: bundles and channels on which the plan books bytes. -/
def porchOver (s : State) (b : PlanBody) (n t j : Nat) (es : List (Nat × Nat)) : Bool :=
  es.any (fun e => e.1 == 3 && envelope b j 3 e.2 != 0 &&
    (let ps := bundleOf s (e.2 / 8)
     let v := e.2 % 8
     !bundleFits s ps v n (sumBy ps (fun p => booked s t 3 (p * 8 + v) + envelope b j 3 (p * 8 + v)))))

/-- R58, R68: pantry granules. -/
def pantryOver (s : State) (b : PlanBody) (t j : Nat) : Bool :=
  (List.range 16).any (fun i => decide (30720 < booked s t 4 i + envelope b j 4 i))

/-- R59, R68: the per-tick ceiling. -/
def energyOver (s : State) (b : PlanBody) (n t j : Nat) : Bool :=
  envelope b j 6 0 != 0 && decide (energyCeil s n < bookedEnergy s t + envelope b j 6 0)

/-- R68: what an offset fails in a tick, 0 when nothing. -/
def fitsAt (s : State) (b : PlanBody) (t j : Nat) : Nat :=
  let n := periodOf s
  let es := entriesAt b j
  firstCode [
    if roomOver s b n t j es then 0x27 else 0,
    if cellarOver s b n t j es then 0x28 else 0,
    if porchOver s b n t j es then 0x29 else 0,
    if pantryOver s b t j then 0x2A else 0,
    if 3584 < booked s t 5 0 + chargedTags s + envelope b j 5 0 then 0x2B else 0,
    if energyOver s b n t j then 0x2C else 0]

/-- R59: energy booked in a tick once the plan is placed at `t0`. -/
def energyWith (s : State) (b : PlanBody) (t0 u : Nat) : Nat :=
  energyAt s u + (if t0 ≤ u ∧ u < t0 + offsets b then envelope b (u - t0) 6 0 else 0)

/-- R59, R68: the first offset with energy in a run or a window that breaks. -/
def energyFail (s : State) (b : PlanBody) (t0 : Nat) : Option Nat :=
  (List.range (offsets b)).find? (fun j => envelope b j 6 0 != 0 && !energyHolds (energyWith s b t0) (energyC s (periodOf s)) (periodOf s) (t0 + j))

/-- R68: does the plan fit at a start: none, or the code and the offset that failed first. -/
def fits (s : State) (b : PlanBody) (now t0 : Nat) : Option (Nat × Nat) :=
  if t0 + offsets b - 1 > now + 16777216 then some (0x26, 0)
  else match (List.range (offsets b)).find? (fun j => fitsAt s b (t0 + j) j != 0) with
    | some j => some (fitsAt s b (t0 + j) j, j)
    | none => (energyFail s b t0).map (fun j => (0x2C, j))

/-- R68: the first candidate that fits, or the first reason: its code, its start and its offset. -/
def searchStart (s : State) (b : PlanBody) (now : Nat) : Nat → Nat → Option (Nat × Nat × Nat) → Except (Nat × Nat × Nat) Nat
  | 0, t0, first => .error (first.getD (0x26, t0, 0))
  | k + 1, t0, first =>
    match fits s b now t0 with
    | none => .ok t0
    | some (c, j) => searchStart s b now k (t0 + 1) (some (first.getD (c, t0, j)))

/-! ## The decision (R68, R471) -/

/-- Images of the load queue up to the last that the plan waits for (R68), oldest first. -/
def loadQueue (s : State) (b : PlanBody) (c : Nat) : List Loaded :=
  let waits := fun (l : Loaded) => l.ctx == c && !l.resident && b.weights.any (fun w => w.imageId == l.imageId)
  ((s.attic.loaded.reverse.dropWhile (fun l => !waits l)).reverse).filter (fun l => !l.resident)

/-- R68: the tick by which every image of the plan is reckoned resident, at 48 GB/s; 0 when none is loading. -/
def weightsReady (s : State) (b : PlanBody) (c now : Nat) : Nat :=
  let bytes := sumBy (loadQueue s b c) (fun l => (s.attic.images.find? (fun i => i.fn == l.fn && i.imageId == l.imageId)).elim 0 (·.payloadLen))
  if bytes = 0 then 0 else now + cdiv bytes (480 * periodOf s)

/-- R388, R395: no digest lane is free, or the fault log is full of records that stay. -/
def storageFull (s : State) (b : PlanBody) : Bool :=
  (!b.ranges.isEmpty && decide (16 ≤ ((admittedPlans s).filter (fun p => p.body.any (fun y => !y.ranges.isEmpty))).length))
  || (decide (65536 ≤ s.flog.waiting.length) && !s.flog.waiting.any minor)

/-- R101: a refusal: its code, and for a book the first candidate start and the offset that failed. -/
abbrev AdmitFail := Nat × Option (Nat × Nat)

/-- A refusal of the search: HORIZON_FULL names no book. -/
def searchFail (e : Nat × Nat × Nat) : AdmitFail := if e.1 = 0x26 then (0x26, none) else (e.1, some (e.2.1, e.2.2))

/-- R68, R81: the choice of a start for a plan that passes its checks. -/
def placePlan (s : State) (b : PlanBody) (c : Nat) : Except AdmitFail Nat :=
  let now := s.tick.num.toNat
  if b.period != periodOf s then .error (0x21, none)
  else if b.steps.any (·.bound) && !s.tick.aligned then .error (0x24, none)
  else
    let earliest := max (now + 2) (weightsReady s b c now)
    let asked := sysToLocal s b.startTick
    let start := match b.startMode with
      | 0 => earliest
      | 1 => asked
      | _ => max earliest asked
    if b.startMode == 1 && decide (asked < earliest) then .error (0x25, none)
    else if storageFull s b then .error (0x26, none)
    else if thermHot s then .error (0x2C, some (start, 0))
    else match searchStart s b now (if b.startMode = 1 then 1 else 4096) start none with
      | .ok t0 => .ok t0
      | .error e => .error (searchFail e)

/-- R68, R471: the decision on a plan's binary. -/
def decidePlan (s : State) (c : Nat) (bin : List Byte) : Except AdmitFail (Nat × PlanBody) :=
  match planCode s c bin with
  | 0 =>
    let b := readPlan bin
    match placePlan s b c with
    | .ok t0 => .ok (t0, b)
    | .error e => .error e
  | code => .error (code, none)

/-! ## Commit (R65, R68, R290, R376, R472) -/

/-- R65: M. -/
def marginOf (b : PlanBody) : Nat := cdiv 100000 b.period + b.budget

/-- R63, R65: the outputs with their promises. -/
def planOutputs (b : PlanBody) (t0 : Nat) : List OutStat :=
  b.outputs.map (fun o => { step := o.1, outId := o.2, promised := t0 + o.1 + 1 + marginOf b })

/-- R384: the IMAGE items of a plan. -/
def imageItems (s : State) (b : PlanBody) (c : Nat) : List Item :=
  b.weights.map (fun w =>
    let i := (s.attic.loaded.find? (fun l => l.ctx == c && l.imageId == w.imageId)).bind (fun l =>
      s.attic.images.find? (fun i => i.fn == l.fn && i.imageId == l.imageId))
    let e := i.bind (fun i => allowEntry s (imgKey i.bytes))
    { type := 3,
      body := leBytes w.imageId 4 ++ leBytes (e.elim 0 (·.2.toNat)) 4 ++ leBytes w.vaBase 8 ++ padTo w.digest 64
        ++ padTo (i.elim [] (·.pubDigest)) 64 })

/-- R389: the replay list. -/
def replayList (s : State) (b : PlanBody) (c : Nat) : List (List Byte) :=
  (List.range b.replayCount).map (fun i => readVa s c (b.replayAddr + 32 * i) 32)

/-- R342: the staging buffers of a room, for every record in whose group it is a carrier; all FREE. -/
def roomStages (b : PlanBody) (room : Nat) : List ((Nat × Nat) × Stage) :=
  ((enum b.colls).filter (fun q => (b.groups[q.2.group]?).any (fun g => g.carriers.contains room))).flatMap
    (fun q => (List.range q.2.stageBufs).map (fun n => ((q.1, n), Stage.free)))

/-- R135, R342, R472: the room programs of a plan, none released yet. -/
def planThreads (k : PlanKey) (b : PlanBody) : List Thread :=
  b.rooms.map (fun r => { tid := { key := k, room := r.room }, pc := (b.images[r.image]?).elim 0 (·.entry), stages := roomStages b r.room })

/-- R107: the promise array. -/
def promiseBytes (l : List OutStat) : List Byte := (l.map (fun o => leBytes (o.promised % 2 ^ 48 + o.outId * 2 ^ 48) 8)).flatten

/-- The plan once it is admitted. Until a step of it runs, the last tick in which it ran is T0: R101 gives none for a plan withdrawn
before any (DESIGN CHOICE 133). -/
def admitted (s : State) (p : Plan) (b : PlanBody) (t0 : Nat) (bin : List Byte) : Plan :=
  { p with
    phase := .admitted, body := some b, digest := planDigest bin, t0 := t0, t0sys := BitVec.ofNat 48 t0 + offsetInUse s.tick,
    margin := marginOf b, outs := planOutputs b t0, lastTick := t0, replay := replayList s b p.key.ctx,
    items := imageItems s b p.key.ctx }

/-- R101: an ADMIT entry leaves for the completion ring. -/
def admitEntry (s : State) (c : Nat) (o : OpenDesc) (code aux : Nat) (a b : Tick) : State :=
  postEntry (dropOpen s c o.tag) c { openEntry s o code aux with kind := 1, tickA := a, tickB := b }

/-- R68, R107: the plan is committed; in a context that is CLOSING it is withdrawn at once (R93, R108). -/
def commitPlan (s : State) (p : Plan) (o : OpenDesc) (b : PlanBody) (t0 : Nat) (bin : List Byte) : State :=
  let q := admitted s p b t0 bin
  let others := s.plans.filter (fun x => x.key != p.key)
  let plans := others.filter (fun x => x.phase == .admitted) ++ [q] ++ others.filter (fun x => x.phase == .waiting)
  let host := if p.desc.w20 = 0 then s.host else hostWrite s.host p.desc.w20.toNat (promiseBytes q.outs)
  let s1 := bindPins { s with plans := plans, threads := s.threads ++ planThreads p.key b, host := host } p.key.ctx b.pins
  let s2 := { s1 with pwr := { s1.pwr with met := BitVec.ofNat 48 (metTick s1) } }
  let s3 := withdrawDecided (admitEntry s2 p.key.ctx o 0x00 q.margin (BitVec.ofNat 48 t0) q.t0sys) p.key true
  if (getCtx s p.key.ctx).state == .closing then withdrawPlan s3 p.key 0 else s3

/-- R70, R101: the plan is refused, and nothing of it stays. -/
def refusePlan (s : State) (p : Plan) (o : OpenDesc) (e : AdmitFail) : State :=
  let s1 := delPlan s p.key
  let a := e.2.elim s.tick.num (fun q => BitVec.ofNat 48 q.1)
  let b := e.2.elim (0 : Tick) (fun q => BitVec.ofNat 48 q.2)
  codecPlanGone (withdrawDecided (admitEntry s1 p.key.ctx o e.1 0 a b) p.key false) p.key

/-- R19, R398: does the admitting hall core of a context rest while its duty moves? -/
def admissionPaused (s : State) (c : Nat) : Bool := s.recov.any (fun r => r.hall == some (3 + c % 8))

/-- R68, R69: the hall decides on a plan. -/
def planAdmission (s : State) (k : PlanKey) : State :=
  if !inService s || !ticking s.tick || admissionPaused s k.ctx then s
  else match getPlan s k with
    | none => s
    | some p =>
      if p.phase == .admitted then s
      else match (getCtx s k.ctx).opens.find? (fun o => o.tag == p.tag) with
        | none => s
        | some o =>
          let bin := readVa s k.ctx (planAddr p.desc) (planLen p.desc)
          match decidePlan s k.ctx bin with
          | .ok (t0, b) => settle (commitPlan s p o b t0 bin)
          | .error e => settle (refusePlan s p o e)

/-- R68, R69: PLAN_ADMISSION. -/
def execPlanAdmission (key : PlanKey) (s : State) : Out1 := .next (planAdmission s key)

end Sys2Proof.Machine
end

