-- ==== Sys2Proof/Machine/Ledger.lean ====
section
/-! DEFINITION. Mehrong records (R26, R278, R382 to R387): their items, their parts, and the ledger counter. -/
namespace Sys2Proof.Machine

/-! ## Items (R383, R384) -/

/-- R384: TASK. -/
def taskItem (p : Plan) (b : PlanBody) : Item :=
  { type := 1,
    body := leBytes p.desc.w28.toNat 8 ++ leBytes p.desc.w30.toNat 8 ++ leBytes b.steps.length 4
      ++ leBytes (b.budget + b2n b.reference * 2 ^ 8 + b.epoch * 2 ^ 16) 4 ++ leBytes b.period 8
      ++ leBytes p.t0 8 ++ leBytes p.t0sys.toNat 8 ++ leBytes p.lastTick 8 }

/-- R384: BUNDLE. -/
def bundleItem (s : State) : Item :=
  let q := s.dev.bundle.getD {}
  { type := 2, body := leBytes q.ver.toNat 4 ++ leBytes q.parlour.toNat 4 ++ padTo q.digest 64 }

/-- R189, R384: the latched operand values in step order, then operand order. -/
def latchedBytes (p : Plan) : List Byte :=
  ((sortBy (fun a b => decide (a.1 < b.1)) p.latched).map (fun q => (q.2.map (fun v => leBytes v.toNat 8)).flatten)).flatten

/-- R384, R389: the INPUT items. -/
def inputItems (p : Plan) (b : PlanBody) : List Item :=
  [{ type := 4, body := leBytes 0 8 ++ padTo b.inputDigest 64 ++ padTo (sha512 (latchedBytes p)) 64 }]
  ++ (if b.replayCount = 0 then []
      else [{ type := 4, body := leBytes 1 8 ++ padTo (sha512 p.replay.flatten) 64 ++ leBytes b.replayCount 64 }])

/-- R384: OUTPUT. -/
def outputItem (o : OutStat) : Item :=
  { type := 5,
    body := leBytes (o.outId + (o.done.elim 0 BitVec.toNat) * 2 ^ 16 + o.cause.toNat * 2 ^ 24) 4
      ++ leBytes (b2n o.hold + b2n o.notRep * 2) 4 ++ leBytes o.tick 8 ++ leBytes o.promised 8 ++ padTo o.digest 64 }

/-- R384: the OUTPUT items by delivery tick. -/
def outputItems (p : Plan) : List Item :=
  (sortBy (fun a b => decide (a.tick < b.tick)) (p.outs.filter (fun o => o.done.isSome))).map outputItem

/-- R278, R384: TRAINING, its digests taken when the record is made. -/
def trainItem (s : State) (c : Nat) (t : TrainSec) : Item :=
  let masks := t.params.filter (fun q => q.mode == 3)
  let ties := t.params.filter (fun q => q.tieGroup != 0)
  let hyper := if t.updateCount = 0 then zeros 64 else padTo (sha512 (readVa s c t.hyperAddr (32 * t.updateCount))) 64
  { type := 10,
    body := leBytes (t.gradFmt + t.wireFmt * 2 ^ 4 + b2n t.testMode * 2 ^ 8) 4 ++ leBytes (masks.length + ties.length * 2 ^ 16) 4 ++ hyper
      ++ (masks.map (fun q => leBytes q.paramId 8 ++ padTo (sha512 (readVa s c q.maskAddr (maskBytes q))) 64)).flatten
      ++ (ties.map (fun q => leBytes (q.tieGroup + q.useIndex * 2 ^ 16 + q.paramId * 2 ^ 32) 8)).flatten }

/-- R367: the STREAM items of open streams whose jobs have awaited an output of the plan. -/
def openStreams (s : State) (p : Plan) : List Item :=
  (((getCtx s p.key.ctx).streams.filter (fun t => t.plans.contains p.key)).map streamItems).flatten

/-- R383: the items of a plan's record, in ascending type. -/
def recordItems (s : State) (p : Plan) (b : PlanBody) : List Item :=
  sortBy (fun a b => decide (a.type < b.type))
    (taskItem p b :: bundleItem s :: inputItems p b ++ outputItems p ++ (b.training.elim [] (fun t => [trainItem s p.key.ctx t]))
      ++ p.items ++ openStreams s p)

/-- R383: an item with its head and padding. -/
def itemBytes (i : Item) : List Byte :=
  leBytes (i.type + i.body.length * 2 ^ 16) 8 ++ padTo i.body (cdiv i.body.length 8 * 8)

/-! ## Parts (R382, R385) -/

/-- R382, R385: bytes of items that one part can hold. -/
def partRoom : Nat := 261120 - 0x68 - 132

/-- R385: items go into parts in order, none of them split. -/
def packItems : List (List Byte) → List (List Byte) → List (List (List Byte))
  | [], cur => [cur]
  | i :: r, cur =>
    if cur.flatten.length + i.length ≤ partRoom then packItems r (cur ++ [i]) else cur :: packItems r [i]

/-- R386: the next value of the ledger counter; the end of the block that holds it is written to both copies first. -/
def takeSeq (a : Attic) : Nat × Attic :=
  let v := nextSeq a
  (v, { (if v < (ledgerCopy a).blockEnd then a else reserveBlock a (blockEndOf v)) with ledgerNext := v + 1 })

/-- R382: a part with its signature. -/
def partBytesOf (s : State) (p : Plan) (seq i n : Nat) (items : List (List Byte)) : List Byte :=
  let head := leBytes 0xD7EE0740 4 ++ leBytes (0x68 + items.flatten.length + 132) 4 ++ leBytes seq 8 ++ leBytes Config.uid.toNat 8
    ++ leBytes (p.key.ctx + p.key.id * 2 ^ 16) 4 ++ leBytes (i + n * 2 ^ 8) 4 ++ padTo p.digest 64 ++ leBytes items.length 8
  let body := head ++ items.flatten
  body ++ padTo (identitySign s (sha512 body)) 132

/-- R385: the parts of a record are built in turn. -/
def buildParts (s : State) (p : Plan) (f n : Nat) : List (Nat × List (List Byte)) → State
  | [] => s
  | (i, items) :: r =>
    let (v, a) := takeSeq s.attic
    let lr : LedgerRec := { ctx := p.key.ctx, plan := p.key.id, seq := BitVec.ofNat 63 v, bytes := partBytesOf s p v i n items }
    buildParts (modFn { s with attic := a } f (fun q => { q with ledger := q.ledger ++ [lr] })) p f n r

/-- R385: consecutive counter values hold no skipped one between them: the parts start after it. -/
def clearSeq (a : Attic) (n : Nat) : Attic :=
  if a.ledgerNext / 2 ^ 48 = (a.ledgerNext + n - 1) / 2 ^ 48 then a else { a with ledgerNext := ((a.ledgerNext + n - 1) / 2 ^ 48) * 2 ^ 48 + 1 }

/-- R382, R387: the record of an ended plan; the counter value of its part 0, 0 when there is none. -/
def makeRecord (s : State) (p : Plan) : State × Nat :=
  match p.body with
  | none => (s, 0)
  | some b =>
    if p.noRecord then (s, 0)
    else
      let parts := packItems ((recordItems s p b).map itemBytes) []
      let s1 := { s with attic := clearSeq s.attic parts.length }
      (buildParts s1 p ((ctxFn s p.key.ctx).getD 0) parts.length (enum parts), (takeSeq s1.attic).1)

end Sys2Proof.Machine
end

