-- ==== Sys2Proof/Machine/Finish.lean ====
section
/-! DEFINITION. The steps of a plan: the path that runs, the step that is next, a step's finish (R75), its outputs (R107, R193,
R258, R299), and the plan's END entry with its Mehrong record. -/
namespace Sys2Proof.Machine

/-! ## Steps -/

/-- R257: the step number of a recompute step. -/
def recompStep : Nat := 0xFFFFFF

/-- R61, R257: the record of a step. -/
def stepRecOf (b : PlanBody) (k : Nat) : Option StepRec := if k = recompStep then b.recompute else b.steps[k]?

/-- R79, R389: does the step run its cheaper path? -/
def runsCheaper (p : Plan) (b : PlanBody) (k : Nat) : Bool :=
  (stepRecOf b k).any (·.hasCheaper)
  && (p.cheap.contains k || p.replay.any (fun e => getLE e 0 1 == 1 && fieldAt e 4 0 24 == k))

/-- R62, R135: the rooms in which a step's path books room time, ascending. -/
def pathRooms (b : PlanBody) (k : Nat) (cheaper : Bool) : List Nat :=
  let ds := (stepRecOf b k).elim [] (fun r => if cheaper then r.cheaper else r.demands)
  sortBy (fun a b => decide (a < b)) ((ds.filter (fun d => d.book == 0 && d.amount != 0)).map (·.index))

/-- The rooms of them whose program has not ended (R135). -/
def liveRooms (s : State) (key : PlanKey) (rooms : List Nat) : List Nat :=
  rooms.filter (fun m => (getTh s { key := key, room := m }).any (fun x => x.stat != .ended))

/-- The step that the plan runs next, those abandoned before their release passed over. -/
def firstStep (skip : List Nat) (k : Nat) : Nat → Nat
  | 0 => k
  | n + 1 => if skip.contains k then firstStep skip (k + 1) n else k

def nextStep (p : Plan) : Nat := firstStep p.skip p.next p.skip.length

/-- R49, R71, R73: the tick in which step `k` runs. -/
def stepTick (p : Plan) (k : Nat) : Nat := movedTick p.slides (p.t0 + k + p.inserted)

/-- Steps of the plan. -/
def stepCount (p : Plan) : Nat := p.body.elim 0 (·.steps.length)

/-- A released run that has not finished. -/
def openRun (p : Plan) : Option StepRun := p.run.filter (fun r => !r.finished)

/-! ## Outputs (R107, R193, R258, R299) -/

/-- R193, R258, R299: code and cause of an output of the finished step. -/
def ownCode (r : StepRun) (o : OutStat) : Byte × Byte :=
  let tags := r.tags.filter (fun q => q.1 == o.outId)
  if r.lateFetch || (r.skipped && r.walkTags.contains o.outId) then (0x02, 0x3D)
  else if !tags.isEmpty && tags.all (fun q => !q.2) then (0x01, 0)
  else (0x00, 0)

/-- R107: past its promise, an output completes with DEADLINE_LATE. -/
def lateCode (p : Plan) (o : OutStat) (n : Nat) (c : Byte × Byte) : Byte × Byte :=
  if n > o.promised then (0x03, if p.ranLate then 0x38 else 0x3D) else c

/-- R388: the digest of an output's ranges. -/
def rangeDigest (s : State) (c : Nat) (b : PlanBody) (out : Nat) : List Byte :=
  let rs := b.ranges.filter (fun r => r.1 == out)
  if rs.isEmpty then [] else sha512 ((rs.map (fun r => readVa s c r.2.1 r.2.2)).flatten)

/-- R99: how many tags the entries of a plan that are queued in tick `n` may hold: those booked for the tick, or for the last booked
tick once it is past; where the plan books none there, its greatest booking (DESIGN CHOICE 130). -/
def tagLimit (p : Plan) (n : Nat) : Nat :=
  match p.body with
  | none => 3584
  | some b =>
    let m := (offsetAt p (min n (lastBooked p))).elim 0 (fun j => envelope b j 5 0)
    if m = 0 then planTags b else m

/-- R100, R101: an OUTPUT entry. -/
def outEntry (p : Plan) (o : OutStat) (n : Nat) (c : Byte × Byte) : CEntry :=
  { userId := p.desc.userId, tag := noTag, kind := 2, code := c.1, cause := c.2, aux := BitVec.ofNat 16 o.outId, hold := false,
    slid := !p.slides.isEmpty, recomp := decide (0 < p.inserted), notRep := o.notRep, tickA := BitVec.ofNat 48 n,
    planId := BitVec.ofNat 16 p.key.id, tickB := BitVec.ofNat 48 o.promised, opcode := 0x01, noIrq := p.desc.noIrq, limit := tagLimit p n }

/-- Entries of a context that wait. -/
def holdCount (s : State) (c : Nat) : Nat := (getCtx s c).holds.length

/-- R66: an output record is known by its step and its output id; of records that share both, the first undelivered one. -/
def owed (step out : Nat) (o : OutStat) : Bool := o.step == step && o.outId == out && o.done.isNone

/-- R66, R107: the completion of an output is queued. -/
def queueOutput (s : State) (key : PlanKey) (step out : Nat) (c : Byte × Byte) : State :=
  match getPlan s key with
  | none => s
  | some p =>
    match p.outs.find? (owed step out), p.body with
    | some o, some b =>
      let n := s.tick.num.toNat
      let s1 := if p.silent then s else postPlanEntry s key.ctx (outEntry p o n c)
      let held := decide (holdCount s key.ctx < holdCount s1 key.ctx)
      let dg := rangeDigest s key.ctx b out
      let f : OutStat → OutStat := fun o =>
        { o with done := some c.1, cause := c.2, tick := n, hold := held, digest := dg }
      codecOutput (modPlan s1 key (fun p => { p with outs := updFirst (owed step out) f p.outs })) key out c.1.toNat
    | _, _ => s

/-- The undelivered outputs of a step, and those that its cheaper path completes (R79), in table order. R79 gives the outputs of the
missed step DEGRADED; the outputs of the cheaper step itself have the code of their own step (DESIGN CHOICE 126). -/
def stepOutputs (p : Plan) (r : StepRun) : List (OutStat × (Byte × Byte)) :=
  (p.outs.filter (fun o => o.done.isNone)).filterMap (fun o =>
    if o.step = r.k then some (o, ownCode r o)
    else if p.carry.contains (o.step, r.k) then some (o, (0x02, 0x38))
    else none)

/-- R107: the outputs of a finished step are queued. -/
def queueOutputs (s : State) (p : Plan) (r : StepRun) : State :=
  (stepOutputs p r).foldl (fun s q => queueOutput s p.key q.1.step q.1.outId (lateCode p q.1 s.tick.num.toNat q.2)) s

/-! ## The END entry (R107, R382, R387) -/

/-- R107: the rank of an output's code. -/
def codeRank (c : Byte) : Nat :=
  match c.toNat with
  | 0x00 => 0
  | 0x01 => 1
  | 0x02 => 2
  | 0x03 => 3
  | 0x30 => 4
  | _ => 5

/-- R107: the worst code with the cause of the first output that carries it. -/
def worstCode (l : List OutStat) : Byte × Byte :=
  let top := maxBy l (fun o => codeRank (o.done.getD 0))
  match l.find? (fun o => codeRank (o.done.getD 0) == top) with
  | none => (0, 0)
  | some o => (o.done.getD 0, o.cause)

/-- R101: outputs delivered on time. -/
def onTime (l : List OutStat) : Nat := (l.filter (fun o => o.done.any (fun c => decide (c.toNat ≤ 2)) && decide (o.tick ≤ o.promised))).length

/-- R100, R101: the END entry. -/
def endEntry (p : Plan) (seq : Nat) : CEntry :=
  let w := worstCode p.outs
  { userId := p.desc.userId, tag := noTag, kind := 3, code := w.1, cause := w.2, aux := BitVec.ofNat 16 (onTime p.outs), hold := false,
    slid := !p.slides.isEmpty, recomp := decide (0 < p.inserted), notRep := p.outs.any (·.notRep), tickA := BitVec.ofNat 48 p.lastTick,
    planId := BitVec.ofNat 16 p.key.id, tickB := BitVec.ofNat 48 seq, opcode := 0x01, noIrq := p.desc.noIrq, limit := tagLimit p (lastBooked p) }

/-- R107: may the plan write its END entry? -/
def endDue (s : State) (p : Plan) : Bool :=
  p.phase == .admitted && p.outs.all (fun o => o.done.isSome) && (openRun p).isNone
  && (p.stopped || (decide (stepCount p ≤ nextStep p) && p.rerun.isNone && decide (lastBooked p < s.tick.num.toNat)))

/-- R58: tags of a plan that wait in the ring outlive it. -/
def chargeTag (k : PlanKey) (u : TagUse) : TagUse := if u.owner = .plan k then { u with owner := .charged k } else u

/-! ## Use of power tokens (R419) -/

/-- R419: energy of a room's counts at the coefficients of the running bundle, in nanojoule. -/
def meterUse (v : Word) (m : Meter) : Nat :=
  m.c4 * Config.energyCoef v 0 + m.c8 * Config.energyCoef v 1 + m.c16 * Config.energyCoef v 2
  + m.vec * Config.energyCoef v 3 + m.fnu * Config.energyCoef v 4 + m.mov * Config.energyCoef v 5

/-- Tokens that a plan booked for a tick, stopped or not. -/
def tokensBooked (p : Plan) (n : Nat) : Nat :=
  match p.body, offsetAt p n with
  | some b, some j => envelope b j 6 0
  | _, _ => 0

/-- R419: a plan's use in the tick that ends or runs: step, tokens booked, tokens used (of 1 mJ, rounded up). -/
def planDue (s : State) (p : Plan) : List (PlanKey × Nat × Nat × Nat) :=
  let v := s.dev.bundle.elim 0 (·.ver)
  let used := cdiv (sumBy (s.threads.filter (fun x => x.tid.key == p.key)) (fun x => meterUse v x.meter)) 1000000
  if used = 0 then [] else [(p.key, p.run.elim 0xFFFFFF (·.k), tokensBooked p s.tick.num.toNat, used)]

/-- The plan leaves: its room programs, its reductions, its announces. -/
def dropPlan (s : State) (p : Plan) : State :=
  let tag := p.body.bind (·.collTag)
  { (delPlan s p.key) with
    threads := s.threads.filter (fun x => x.tid.key != p.key), preds := s.preds.filter (fun q => q.key != p.key),
    tags := s.tags.map (chargeTag p.key), pwr := { s.pwr with dues := s.pwr.dues ++ planDue s p },
    links := { s.links with anncs := s.links.anncs.filter (fun a => some a.collTag != tag),
                            awaits := s.links.awaits.filter (fun a => a.tid.key != p.key) } }

/-- R388: the outputs of a plan with free digests where their ranges have changed since. -/
def looseDigests (c : Nat) (b : PlanBody) : State → List OutStat → List OutStat × State
  | s, [] => ([], s)
  | s, o :: r =>
    if o.done.isSome && rangeDigest s c b o.outId != o.digest then
      let (bs, s1) := freeBytes s 64
      let (l, s2) := looseDigests c b s1 r
      ({ o with digest := bs } :: l, s2)
    else
      let (l, s1) := looseDigests c b s r
      (o :: l, s1)

/-- R388: the plan as its record is made. -/
def recordPlan (s : State) (p : Plan) : Plan × State :=
  match p.body with
  | none => (p, s)
  | some b =>
    let (l, s1) := looseDigests p.key.ctx b s p.outs
    ({ p with outs := l }, s1)

/-- R107, R387: the record is made, the END entry is queued, and the plan is gone. -/
def endPlan (s : State) (p : Plan) : State :=
  let (q, s0) := recordPlan s p
  let (s1, seq) := makeRecord s0 q
  let s2 := if p.silent then s1 else postPlanEntry s1 p.key.ctx (endEntry p seq)
  drive (settle (planEnding (endPins (dropPlan s2 p)) p))

/-- A plan ends once it may. -/
def settleEnd (s : State) (key : PlanKey) : State :=
  match getPlan s key with
  | none => s
  | some p => if endDue s p then endPlan s p else s

/-! ## A step finishes (R75) -/

/-- R75, R76: has the step finished, in the tick that runs? -/
def stepDone (s : State) (key : PlanKey) (r : StepRun) : Bool :=
  r.released && !r.finished && r.rooms.isEmpty && !s.links.awaits.any (fun a => a.tid.key == key)
  && (r.late || r.tick == s.tick.num.toNat)

/-- The plan after its step has finished. -/
def markDone (n : Nat) (p : Plan) : Plan :=
  match p.run with
  | none => p
  | some r =>
    { p with
      run := some { r with finished := true }, next := if r.k = recompStep then p.next else r.k + 1,
      missRow := if r.late then p.missRow else 0, lastTick := n, carry := p.carry.filter (fun q => q.2 != r.k) }

/-- R276: the results of a plan whose bitmap the host has changed are unspecified: what its step wrote in the context is free
(DESIGN CHOICE 135). -/
def spoilResults (s : State) (p : Plan) : State :=
  if !p.maskChanged then s
  else (((planTh s p.key).map (·.wrs)).flatten.filter (fun w => w.space == .ctx)).foldl (fun s w =>
    let (bs, s1) := freeBytes s (w.hi - w.lo)
    writeVa s1 p.key.ctx w.lo bs) s

/-- R270: the parameter blocks that the plan's step wrote. -/
def wroteBlocks (s : State) (p : Plan) : List (Nat × Nat) :=
  let ws := ((planTh s p.key).map (·.wrs)).flatten.filter (fun w => w.space == .ctx)
  ((p.body.elim [] paramBlocks).filter (fun q => ws.any (fun w => decide (w.lo < q.2.2.1 + q.2.2.2) && decide (q.2.2.1 < w.hi)))).map
    (fun q => (q.1, q.2.1))

/-- R270: the OUTPUT entries of a step say that the parameter blocks it wrote are complete. -/
def noteUpdate (l : List (Nat × Nat)) (p : Plan) : Plan :=
  { p with readable := l ++ p.readable.filter (fun q => !l.contains q) }

/-- R75, R107: a step finishes, and its outputs are queued. -/
def finishStep (s : State) (key : PlanKey) : State :=
  match getPlan s key with
  | none => s
  | some p =>
    match p.run with
    | none => s
    | some r =>
      if stepDone s key r then
        let s1 := spoilResults s p
        let s2 := if (stepOutputs p r).isEmpty then s1 else modPlan s1 key (noteUpdate (wroteBlocks s p))
        settleEnd (modPlan (queueOutputs s2 p r) key (markDone s.tick.num.toNat)) key
      else s

/-- R75: STEP_FINISH. -/
def execStepFinish (key : PlanKey) (s : State) : Out1 := .next (if alive s then finishStep s key else s)

end Sys2Proof.Machine
end

