-- ==== Sys2Proof/Machine/Miss.lean ====
section
/-! DEFINITION. Work that is abandoned or that stops to run again (R71, R72, R76, R78, R79), deadline misses and their policies
(R76 to R80), withdrawals at a boundary (R108) and slides (R71). -/
namespace Sys2Proof.Machine

/-! ## Unspecified contents (R72, R78) -/

/-- R78: what the abandoned work wrote in a range holds free values. -/
def smear (s : State) (q : Tid × Range) : State :=
  match thRec s q.1 with
  | none => s
  | some r =>
    let n := q.2.hi - q.2.lo
    match q.2.space with
    | .spad => freeWindow r s q.2
    | .acc => freeWindow r s q.2
    | .ctx =>
      let (bs, s1) := freeBytes s n
      writeVa s1 q.1.key.ctx q.2.lo bs
    | .frame =>
      let (bs, s1) := freeBytes s n
      { s1 with mem := memWrite s1.mem q.2.lo bs }
    | _ => s

/-- The ranges that a plan's rooms have written in the step. -/
def stepWrites (s : State) (key : PlanKey) : List (Tid × Range) := ((planTh s key).map (fun x => x.wrs.map (fun w => (x.tid, w)))).flatten

/-! ## Work ends with its step (R78, R79, R108, R247, R259, R302, R340) -/

/-- R340: the keys of the bound instances of step `k`, run in tick `n`, on a room: those not yet opened close with the step too. -/
def stepKeys (s : State) (t : Tid) (k n : Nat) : List (Nat × Tick × Word) :=
  (boundRecs s t k).filterMap (fun c => (thColl s t c).map (fun q => (c, BitVec.ofNat 48 n + offsetInUse s.tick, BitVec.ofNat 32 q.r.order)))

/-- R340: a room's bound instances of an abandoned step close. -/
def closeKeys (s : State) (key : PlanKey) (k n : Nat) (x : Thread) : Thread :=
  if x.tid.key == key then { x with closed := x.closed ++ stepKeys s x.tid k n } else x

/-- R340: does a stored announce belong to an instance that its room has closed? -/
def anncClosed (s : State) (key : PlanKey) (a : Annc) : Bool :=
  a.bound && (s.threads.any (fun x => x.tid.key == key && x.tid.room == a.room && x.closed.contains (a.coll, a.sysTick, a.seq)))
  && ((getPlan s key).bind (·.body)).any (fun b => b.collTag == some a.collTag)

/-- R340: at B the instances of a plan's abandoned step close on every room, and their stored announces go. -/
def closeBound (s : State) (key : PlanKey) (k n : Nat) : State :=
  let s1 := { s with threads := s.threads.map (closeKeys s key k n) }
  { s1 with links := { s1.links with anncs := s1.links.anncs.filter (fun a => !anncClosed s1 key a) } }

/-- What a plan's step `k`, run in tick `n`, leaves open ends at B: sessions, instances, reductions, transfers. -/
def closeStep (s : State) (key : PlanKey) (k n : Nat) : State :=
  let s1 := closeBound (closeSessions s key none k) key k n
  { s1 with preds := s1.preds.filter (fun q => !(q.key == key && q.step == k)),
            links := { s1.links with awaits := s1.links.awaits.filter (fun a => a.tid.key != key) } }

/-- A room program whose work of the step is abandoned. -/
def quitThread (back : Bool) (x : Thread) : Thread :=
  { endWork (if back then backToKept x else x) with stat := .barrier, inbound := [], held := [], filled := [], rds := [], wrs := [], dirty := [] }

/-- Does a room program take part in the step? -/
def inStep (s : State) (t : Tid) (k : Nat) : Bool := (getTh s t).any (fun x => x.stat != .ended && x.kept.any (fun q => q.step == k))

/-- R78: one room abandons its work; the manual does not say from which sequencer state its program goes on, so a free bit
decides between the captured one and the one reached. -/
def quitRoom (s : State) (t : Tid) : State :=
  let (b, s1) := freeBit s
  modTh s1 t (quitThread b)

/-- R78, R79, R108: at B, the rooms of a plan abandon the step that runs. -/
def abandon (s : State) (key : PlanKey) : State :=
  match (getPlan s key).bind openRun with
  | none => s
  | some r =>
    let s1 := (stepWrites s key).foldl smear s
    let s2 := (r.rooms.filter (fun m => inStep s { key := key, room := m } r.k)).foldl (fun s m => quitRoom s { key := key, room := m }) s1
    modPlan (closeStep s2 key r.k r.tick) key (fun p => { p with run := none })

/-! ## A step that runs again (R71, R72, R136) -/

/-- R72: the ranges that the step read and then wrote: of a room's windows, and of context addresses and frames across its rooms. -/
def dirtyRanges (s : State) (key : PlanKey) : List (Tid × Range) := ((planTh s key).map (fun x => x.dirty.map (fun w => (x.tid, w)))).flatten

/-- R72: the undelivered outputs of a plan are marked not reproducible. -/
def markOuts (mark : Bool) (p : Plan) : Plan :=
  { p with outs := p.outs.map (fun o => if o.done.isNone then { o with notRep := o.notRep || mark } else o) }

/-- R72, R178: a step that wrote what it reads reruns over unspecified contents, and its outputs are not reproducible. -/
def spoil (s : State) (key : PlanKey) : State :=
  let d := dirtyRanges s key
  if d.isEmpty then s else modPlan (d.foldl smear s) key (markOuts true)

/-- R71, R136: a room program returns to the state captured at the step's release. -/
def rewindThread (key : PlanKey) (k : Nat) (x : Thread) : Thread :=
  if x.tid.key == key && x.kept.any (fun q => q.step == k) then
    { backToKept (endWork x) with stat := .barrier, filled := [], meter := {}, rds := [], wrs := [], dirty := [] }
  else x

/-- R71, R76: the step that runs stops, and reruns from its start. -/
def freeze (s : State) (key : PlanKey) : State :=
  match (getPlan s key).bind openRun with
  | none => s
  | some r =>
    let s1 := closeStep (spoil s key) key r.k r.tick
    let s2 := { s1 with threads := s1.threads.map (rewindThread key r.k) }
    modPlan s2 key (fun p => { p with run := none, rerun := some r.k })

/-! ## Slides (R71) -/

/-- R384: a SLIDE item. -/
def slideItem (s : State) (t d : Nat) : Item :=
  { type := 7, body := leBytes t 8 ++ leBytes (BitVec.ofNat 48 t + offsetInUse s.tick).toNat 8 ++ leBytes d 8 }

/-- R257: the tick of a recompute step that runs again: the one before the step that waits for it. -/
def recompTick (p : Plan) : Nat := movedTick p.slides (p.t0 + nextStep p + p.inserted - 1)

/-- The tick of a plan's earliest unfinished step that does not run late: the one that runs, or the next. -/
def dueTick (p : Plan) : Option Nat :=
  match openRun p with
  | some r =>
    if r.late then (if r.k + 1 < stepCount p then some (stepTick p (r.k + 1)) else none) else some r.tick
  | none =>
    if p.rerun = some recompStep then some (recompTick p)
    else if nextStep p < stepCount p then some (stepTick p (nextStep p)) else none

/-- R71, R384: a slide of a plan's bookings for a fault of tick `u0`: the step that runs in `t`, and all after it, or the bookings
left beyond `t`. -/
def slidePlan (s : State) (u0 t d : Nat) (p : Plan) : Plan :=
  let moved := fun (v : Nat × Nat × Bool) => { p with slides := v :: p.slides, items := p.items ++ [slideItem s u0 d] }
  if p.phase != .admitted || p.stopped then p
  else match dueTick p with
    | some u => if t ≤ u then moved (u, d, true) else moved (t, d, false)
    | none => if t < lastBooked p then moved (t, d, false) else p

/-- R71: unfinished steps of tick `t` and later stop, every later booking moves by `d`, and steps run again from `t + d` on; the
fault was in tick `u0`. -/
def slideBy (s : State) (u0 t d : Nat) : State :=
  if d = 0 then s
  else
    let stops := (admittedPlans s).filter (fun p => !p.stopped && (openRun p).any (fun r => !r.late && decide (t ≤ r.tick)))
    let s1 := stops.foldl (fun s p => freeze s p.key) s
    { s1 with plans := s1.plans.map (slidePlan s1 u0 t d), resumeAt := max s1.resumeAt (t + d) }

/-! ## Deadline misses (R76, R77, R391) -/

/-- R391: the records of a miss: one for each unfinished room, up to 64; `detail0` is their number. -/
def missRecords (s : State) (key : PlanKey) (k : Nat) (rooms : List Nat) (cause : Byte) (action : Nat) : State :=
  let n := rooms.length
  if n = 0 then raisePlan s key { code := 0x0038, step := k, action := action, d0 := 0, d1 := cause.toNat } 127
  else (enum (rooms.take 64)).foldl (fun s q =>
    raisePlan s key { code := 0x0038, step := k, action := action, room := some q.2, slot := some (slotOf s q.2), d0 := n,
                      d1 := cause.toNat + (if q.1 = 63 then (n - 64) * 2 ^ 32 else 0) } 127) s

/-- R77: the counters of a miss. -/
def countMiss (s : State) (c : Nat) : State :=
  { (modCtx s c (fun x => { x with misses := x.misses + 1 })) with flog := { s.flog with misses := s.flog.misses + 1 } }

/-- R340: does a room of the plan hold a transfer toward a member without a direct port? -/
def heldOut (s : State) (key : PlanKey) : Bool :=
  (planTh s key).any (fun x => x.xfers.any (fun q =>
    (thColl s x.tid q.coll).any (fun c => (directPorts s (c.g.members.getD q.peer 4096)).isEmpty)))

/-- R77, R189, R321, R340: the cause of a miss of the step that runs. -/
def runCause (s : State) (key : PlanKey) (r : StepRun) : Byte :=
  if r.cause ≠ 0 then r.cause
  else if s.links.awaits.any (fun a => a.tid.key == key && a.lost) || heldOut s key then 0x3D
  else 0x38

/-- R61: a policy by its number. -/
def policyOf (n : Nat) : Policy := if n = 0 then .abort else if n = 1 then .degrade else .continueLate

/-- R119: the action of a policy. -/
def policyAction : Policy → Nat
  | .abort => 1
  | .degrade => 2
  | .continueLate => 3

/-- The step after a missed one. -/
def stepAfter (p : Plan) (k : Nat) : Nat := if k = recompStep then p.next else k + 1

/-- R78 to R80, R389: the policy that applies when step `k` misses. -/
def missPolicy (p : Plan) (b : PlanBody) (k : Nat) : Policy :=
  let own := if replaying p then .continueLate else if p.cheap.contains k then .degrade else policyOf ((stepRecOf b k).elim 0 (·.policy))
  if own == .degrade && (decide (4 ≤ p.missRow + 1) || !(b.steps[stepAfter p k]?).any (·.hasCheaper)) then .abort else own

/-- R78, R108: no step of the plan runs any more. -/
def stopPlan (s : State) (key : PlanKey) (code cause : Byte) : State :=
  modPlan (abandon s key) key (fun p => { p with stopped := true, stopAs := some (code, cause), carry := [], rerun := none, insert := false })

/-- R79: the outputs of a missed step wait for the cheaper step after it. -/
def degradePlan (k j : Nat) (live : Bool) (p : Plan) : Plan :=
  let mine := (p.outs.filter (fun o => o.done.isNone && o.step == k)).map (fun o => (o.step, j))
  let moved := p.carry.map (fun q => if q.2 = k then (q.1, j) else q)
  { p with
    carry := if k = recompStep then moved else moved ++ mine.eraseDups,
    cheap := j :: p.cheap.filter (· != k),
    next := if live then (if k = recompStep then p.next else k + 1) else p.next,
    skip := if live then p.skip else p.skip ++ [k] }

/-- R80: the step goes on late; a step not yet released will. -/
def latePlan (k : Nat) (live : Bool) (p : Plan) : Plan :=
  if live && p.run.any (·.released) then { p with ranLate := true, run := p.run.map (fun r => { r with late := true }) }
  else if live then { p with ranLate := true, run := none, lateAgain := p.lateAgain ++ [k] }
  else { p with ranLate := true, lateAgain := p.lateAgain ++ [k] }

/-- R384: CHOICE of kind 1: the step that runs its cheaper path. -/
def degradeItem (s : State) (key : PlanKey) (j : Nat) : State := addItem s key 8 (choiceBody 1 j 0 0 0)

/-- R78 to R80: the policy of a missed step acts. -/
def applyPolicy (s : State) (p : Plan) (k : Nat) (live : Bool) (cause : Byte) (pol : Policy) : State :=
  match pol with
  | .abort => stopPlan s p.key 0x30 cause
  | .degrade =>
    let j := stepAfter p k
    modPlan (degradeItem (if live then abandon s p.key else s) p.key j) p.key (degradePlan k j live)
  | .continueLate => modPlan s p.key (latePlan k live)

/-- R76 to R80: a step of a plan has missed its watch. -/
def missStep (s : State) (key : PlanKey) (k : Nat) (live : Bool) (why : Option Byte) : State :=
  match getPlan s key with
  | none => s
  | some p =>
    match p.body with
    | none => s
    | some b =>
      if p.stopped then s
      else
        let rooms := match openRun p, live with
          | some r, true => r.rooms
          | _, _ => liveRooms s key (pathRooms b k (runsCheaper p b k))
        let cause := why.getD (match openRun p, live with
          | some r, true => runCause s key r
          | _, _ => 0x38)
        let pol := missPolicy p b k
        let s1 := missRecords (countMiss s key.ctx) key k rooms cause (policyAction pol)
        modPlan (applyPolicy s1 p k live cause pol) key (fun p => { p with missRow := p.missRow + 1 })

/-- R49, R76, R80: the steps of a plan whose watch expires with tick `n`: the one that runs, and those not yet released. -/
def missedSteps (p : Plan) (n : Nat) : List (Nat × Bool) :=
  let run := openRun p
  let first := match run with
    | some r => if r.k = recompStep then p.next else r.k + 1
    | none => p.next
  let live := run.elim [] (fun r => if !r.late && decide (r.tick ≤ n) then [(r.k, true)] else [])
  let rest := (List.range (stepCount p)).filter (fun m =>
    decide (first ≤ m) && decide (stepTick p m ≤ n) && !p.lateAgain.contains m && !p.skip.contains m)
  live ++ rest.map (fun m => (m, false))

/-- R76: the watches of a plan decide. -/
def watchPlan (s : State) (n : Nat) (key : PlanKey) (why : Option Byte) : State :=
  match getPlan s key with
  | none => s
  | some p => if p.stopped || p.phase != .admitted then s else (missedSteps p n).foldl (fun s q => missStep s key q.1 q.2 why) s

/-- R78, R108: the outputs of a plan that has stopped complete. -/
def stopOutputs (s : State) (p : Plan) : State :=
  match p.stopAs with
  | none => s
  | some c =>
    let s1 := (p.outs.filter (fun o => o.done.isNone)).foldl (fun s o => queueOutput s p.key o.step o.outId c) s
    modPlan s1 p.key (fun p => { p with stopAs := none })

/-- R78, R107, R108: the outputs of every plan that has stopped complete, and the plans that may end do. -/
def finishStops (s : State) : State :=
  let s1 := (admittedPlans s).foldl stopOutputs s
  ((admittedPlans s1).map (·.key)).foldl settleEnd s1

end Sys2Proof.Machine
end

