-- ==== Sys2Proof/Machine/Release.lean ====
section
/-! DEFINITION. The release point of a tick (R45, R46, R49, R135, R188, R189, R218, R238, R257, R286, R377, R399, R472), with the
deadline watches that decide there or at the boundary (R76, R108, R132, R407). -/
namespace Sys2Proof.Machine

/-! ## Deadline watches (R76, R108, R407) -/

/-- R407: what a room's unfinished work waits for. -/
inductive RoomWait | bound | maybe | other
deriving DecidableEq, Repr

/-- R407: is every outstanding instruction a transfer of a bound instance? -/
def boundOuts (x : Thread) : Bool :=
  !x.outs.isEmpty && x.outs.all (fun o => x.xfers.any (fun q => outOf q.id o && (instOf x q).any (·.bound)))

/-- R407: a room that waits for transfers of bound instances; one whose sequencer is not in a wait may have more to do. -/
def roomWait (s : State) (t : Tid) : RoomWait :=
  match getTh s t with
  | none => .other
  | some x =>
    if !boundOuts x then .other
    else match x.stat with
      | .waiting _ => .bound
      | .running => .maybe
      | _ => .other

/-- R407: is the plan's step unfinished only because transfers of bound instances are awaited? The free bit decides for a room
that is not in a wait of its own. -/
def awaitsPeer (s : State) (p : Plan) (b : Bool) : Bool :=
  match openRun p, p.body with
  | some r, some y =>
    (stepRecOf y r.k).any (·.bound) && r.released && !r.late && runCause s p.key r == 0x38
    && r.rooms.all (fun m => let w := roomWait s { key := p.key, room := m }
                             w == .bound || (w == .maybe && b))
    && (!r.rooms.isEmpty || s.links.awaits.any (fun a => a.tid.key == p.key))
  | _, _ => false

/-- R407: the partner that the step awaits. -/
def awaitedPeer (s : State) (p : Plan) : Nat :=
  let xs := ((planTh s p.key).map (fun x => x.xfers.map (fun q => (x.tid, q)))).flatten
  match xs with
  | q :: _ => (thColl s q.1 q.2.coll).elim 0xFFF (fun c => c.g.members.getD q.2.peer 0xFFF)
  | [] => (s.links.awaits.find? (fun a => a.tid.key == p.key)).elim 0xFFF (·.dest)

/-- R76, R108, R407: one plan at the end of tick `n`: it is withdrawn, or waits for a partner's slide, or its watches decide. -/
def decidePlanTick (s : State) (n : Nat) (key : PlanKey) : State :=
  match getPlan s key with
  | none => s
  | some p =>
    if p.phase != .admitted || p.stopped then s
    else match p.stopping with
      | some c => stopPlan s key 0x31 c
      | none =>
        let (b, s1) := freeBit s
        if awaitsPeer s p b && (openRun p).any (fun r => decide (r.tick ≤ n)) then
          freeze { s1 with slideP := some (s1.slideP.getD (n, awaitedPeer s p)) } key
        else watchPlan s n key none

/-- R76: every watch of tick `n` decides, in the order of admission. -/
def watch (s : State) (n : Nat) : State := ((admittedPlans s).map (·.key)).foldl (fun s k => decidePlanTick s n k) s

/-- Withdrawals alone, while a slide is pending or work is to run again. -/
def stopWithdrawn (s : State) : State :=
  (admittedPlans s).foldl (fun s p => match p.stopping with
    | some c => if p.stopped then s else stopPlan s p.key 0x31 c
    | none => s) s

/-! ## A room's first release (R134, R218, R472) -/

/-- Device memory with a range cleared. -/
def wipe (m : List Host.Cell) (lo n : Nat) : List Host.Cell := m.filter (fun c => !(decide (lo ≤ c.1) && decide (c.1 < lo + n)))

/-- R218: the preloads of a room: slot and table. -/
def roomPreloads (b : PlanBody) (r : RoomRec) : List (Nat × Nat) := (b.preloads.filter (fun q => q.1 == r.image)).map (·.2)

/-- R134: the bytes of a room's image in the plan binary. -/
def planImage (s : State) (p : Plan) (im : ImageRec) : List Byte :=
  slice (partBytes (readVa s p.key.ctx (planAddr p.desc) (planLen p.desc)) 2) im.offset im.length

/-- R106, R134: the bytes of a room's image as they are loaded; free where the host has changed the binary. -/
def loadImage (s : State) (p : Plan) (im : ImageRec) : List Byte × State :=
  if p.changed then freeBytes s im.length else (planImage s p im, s)

/-- R472: the windows of a room, clear of all data. -/
def clearWindows (m : List Host.Cell) (r : RoomRec) : List Host.Cell :=
  wipe (wipe (wipe (wipe (wipe m (spadPa r 0) (r.spadLen * 16384)) (tilePa r 0 0) (r.accLen * 4096))
    (imemAddr r.room (r.imemBase * 4096)) (r.imemLen * 4096)) (activePa r 0) (r.tblLen * 1024)) (inactivePa r 0) (r.tblLen * 1024)

/-- R134, R218, R472: the windows of a room at the plan's first release there. -/
def firstWindows (s : State) (b : PlanBody) (r : RoomRec) (image : List Byte) : List Host.Cell :=
  let m := memWrite (clearWindows s.mem r) (imemAddr r.room (r.imemBase * 4096)) image
  (roomPreloads b r).foldl (fun m q => memWrite m (activePa r q.1) (padTo (tableImage b q.2) 1024)) m

/-- R134, R472: the state as the image of a room is loaded. -/
def firstLoad (s : State) (p : Plan) (b : PlanBody) (r : RoomRec) (im : ImageRec) : State :=
  let (bs, s1) := loadImage s p im
  { s1 with mem := firstWindows s1 b r bs }

/-- R196, R218, R472: a room program at its first release; a halo that landed before leaves no trace. -/
def firstThread (b : PlanBody) (r : RoomRec) (x : Thread) : Thread :=
  { x with fresh := false, wall := {}, landed := [], active := (roomPreloads b r).foldl (fun l q => aSet l q.1 q.2) [] }

/-! ## Release of a step (R49, R135, R136, R189, R377) -/

/-- `n` words of a free value. -/
def wordsOf (v : Nat) : Nat → List Word
  | 0 => []
  | n + 1 => BitVec.ofNat 32 v :: wordsOf (v / 2 ^ 32) n

/-- R136: vector and mask registers are undefined when a program resumes. -/
def undefVectors (s : State) (t : Tid) : State :=
  let (v, s1) := freshBits s 65536
  let (m, s2) := freshBits s1 448
  modTh s2 t (fun x => { x with
    vregs := Vector.ofFn (fun j : Fin 32 => wordsOf (v.toNat / 2 ^ (2048 * j.val)) 64),
    masks := Vector.ofFn (fun j : Fin 8 => if j.val = 0 then 0xFFFFFFFFFFFFFFFF else BitVec.ofNat 64 (m.toNat / 2 ^ (64 * (j.val - 1)))) })

/-- R472: the vector and mask registers of a defined start. -/
def zeroVectors (x : Thread) : Thread :=
  { x with vregs := Vector.replicate 32 (List.replicate 64 0), masks := (Vector.replicate 8 0).setIfInBounds 0 0xFFFFFFFFFFFFFFFF }

/-- R135, R136: the sequencer starts or resumes; its state is captured. -/
def resumeThread (k : Nat) (first : Bool) (x : Thread) : Thread :=
  { x with
    landed := x.landed.filter (fun p => decide (wallC x p.1 < p.2.step.toNat)),
    stat := .running, kept := some { keptOf x with step := k, first := first }, rds := [], wrs := [], dirty := [], occs := [] }

/-- R403: the coming release passes on the room without the plan running there. -/
def passRoom (s : State) (key : PlanKey) (t : Tid) : State :=
  setCause (modTh s t (fun x => { x with noRun := false })) key 0x3D

/-- R135, R136, R403, R472: one room of a step is released; the plan's first step on the room runs again from the defined start. -/
def releaseRoom (s : State) (key : PlanKey) (k room : Nat) : State :=
  let t : Tid := { key := key, room := room }
  match getTh s t, thRec s t, getPlan s key with
  | some x, some r, some p =>
    match p.body with
    | none => s
    | some b =>
      if x.noRun then passRoom s key t
      else if x.fresh then
        let s1 := (b.images[r.image]?).elim s (firstLoad s p b r)
        modTh s1 t (fun x => resumeThread k true (firstThread b r x))
      else if x.kept.any (fun q => q.first && q.step == k) then modTh s t (fun x => resumeThread k true (zeroVectors x))
      else modTh (undefVectors s t) t (resumeThread k false)
  | _, _, _ => s

/-- R189: the latched value of an operand; none when its address is not mapped. A MOVE that completes between the boundary and the
release point may or may not be seen; here it always is (DESIGN CHOICE 127). -/
def latchOp (s : State) (c : Nat) (o : ShapeOp) : Option DWord :=
  if o.src = 0 then some (BitVec.ofNat 64 o.limit)
  else if rangeOk s c o.src 8 false then some (BitVec.ofNat 64 (leNat (readVa s c o.src 8))) else none

/-- R189: the operands of a step: as latched before its interruption, or latched now. -/
def latchOps (s : State) (p : Plan) (b : PlanBody) (k : Nat) : List (Option DWord) :=
  match latchedFor p k with
  | some vs => shapeList b.shape vs
  | none => b.shape.map (latchOp s p.key.ctx)

/-- R189: the record of an operand whose address is not mapped. -/
def shapeFault (s : State) (p : Plan) (b : PlanBody) (k : Nat) (l : List (Option DWord)) : State :=
  (enum l).foldl (fun s q => match q.2 with
    | some _ => s
    | none => raisePlan s p.key { code := 0x0100, step := k, d0 := 2 ^ 63 + q.1, d1 := (b.shape[q.1]?).elim 0 (·.src) } 127) s

/-- R383: the values that the Mehrong record digests. -/
def noteLatched (b : PlanBody) (k : Nat) (l : List (Option DWord)) (p : Plan) : Plan :=
  let vs := (l.zip b.shape).filterMap (fun q => if q.2.src = 0 then none else q.1)
  if vs.isEmpty || k == recompStep || p.latched.any (fun q => q.1 == k) then p else { p with latched := p.latched ++ [(k, vs)] }

/-- R377: is an image of the plan still loading? -/
def imageLoading (s : State) (p : Plan) (b : PlanBody) : Bool :=
  s.attic.loaded.any (fun l => l.ctx == p.key.ctx && !l.resident && b.weights.any (fun w => w.imageId == l.imageId))

/-- R270: of each parameter record the block of the newest update stays readable; the step released now may write the other one
(DESIGN CHOICE 119). -/
def newestBlocks (l : List (Nat × Nat)) : List (Nat × Nat) :=
  l.foldl (fun acc q => if acc.any (fun r => r.1 == q.1) then acc else acc ++ [q]) []

/-- R383, R389: a choice that the rerun of step `k` makes anew, so that what its abandoned run made is not listed: a leaf or a late
transfer (DESIGN CHOICE 139). -/
def madeAnew (k : Nat) (i : Item) : Bool :=
  (i.type == 9 && fieldAt i.body 0 0 24 == k) || (i.type == 8 && getLE i.body 0 1 == 3 && fieldAt i.body 4 0 24 == k)

/-- The plan as its step `k` is released, or held with a cause. -/
def beginRun (s : State) (k : Nat) (r : StepRun) (p : Plan) : Plan :=
  let again := p.rerun == some k
  { p with
    items := if again then p.items.filter (fun i => !madeAnew k i) else p.items,
    run := some r, rerun := none, readable := newestBlocks p.readable, lateAgain := p.lateAgain.filter (· != k), lastTick := s.tick.num.toNat,
    insert := if k = recompStep then false else p.insert,
    inserted := if k = recompStep && !again then p.inserted + 1 else p.inserted }

/-- R49, R135, R189, R377: step `k` of a plan is released. -/
def releaseStep (s : State) (p : Plan) (b : PlanBody) (k : Nat) : State :=
  let key := p.key
  let cheaper := runsCheaper p b k
  let rooms := liveRooms s key (pathRooms b k cheaper)
  let ops := latchOps s p b k
  let run : StepRun := { k := k, cheaper := cheaper, tick := s.tick.num.toNat, rooms := rooms, late := p.lateAgain.contains k }
  if imageLoading s p b then modPlan s key (beginRun s k { run with cause := 0x3D })
  else if ops.any (·.isNone) then
    modPlan (shapeFault s p b k ops) key (beginRun s k { run with cause := 0x3D })
  else
    let shapes := (ops.map (fun (v : Option DWord) => v.getD 0) ++ List.replicate 8 0).take 8
    let s1 := modPlan s key (fun p => noteLatched b k ops (beginRun s k { run with released := true, shapes := shapes } p))
    finishStep (rooms.foldl (fun s m => releaseRoom s key k m) s1) key

/-- R49, R71, R73, R80, R407: is a step of the plan due for release? -/
def stepDue (s : State) (p : Plan) : Bool :=
  let n := s.tick.num.toNat
  p.phase == .admitted && !p.stopped && (openRun p).isNone && s.slideP.isNone && decide (s.resumeAt ≤ n)
  && (if p.rerun = some recompStep then decide (recompTick p ≤ n)
      else decide (nextStep p < stepCount p) && decide (stepTick p (nextStep p) ≤ n))

/-- The step that is due: a recompute step comes first. -/
def dueStep (p : Plan) : Nat := if p.insert || p.rerun == some recompStep then recompStep else nextStep p

/-- R80: a plan whose step runs late runs in this tick too. -/
def runLate (s : State) (p : Plan) : Plan :=
  if p.phase == .admitted && !p.stopped && (openRun p).any (fun r => r.late && r.released) then { p with lastTick := s.tick.num.toNat } else p

/-- R49: one plan at the release point. -/
def releasePlan (s : State) (key : PlanKey) : State :=
  match getPlan s key with
  | none => s
  | some p => match p.body with
    | none => s
    | some b => if stepDue s p then releaseStep s p b (dueStep p) else s

/-! ## The release point (R45) -/

/-- R399, R400: does a due step book room time on a room that the recovery touches? -/
def missesRelease (s : State) (r : Recov) : Bool :=
  s.plans.any (fun p => stepDue s p && p.body.any (fun b => (pathRooms b (dueStep p) (runsCheaper p b (dueStep p))).any r.rooms.contains))

/-- R71, R76: the recovery stops every unfinished step of the tick. -/
def freezeAll (s : State) : State :=
  ((admittedPlans s).filter (fun p => !p.stopped && (openRun p).any (fun r => !r.late))).foldl (fun s p => freeze s p.key) s

/-- R71: work is lost: the device will slide from tick `t`. -/
def loseWork (t : Nat) (r : Recov) : Recov :=
  if r.lost then r else { r with lost := true, tick := max r.tick t, sysTick := r.sysTick + BitVec.ofNat 48 (max r.tick t - r.tick) }

/-- R46, R238, R286: what becomes current at a release point. -/
def releaseTables (s : State) : State :=
  let s1 := kvReleaseAll (returnFrames (registerPublishes s))
  let s2 := (s1.ctxs.map (·.1)).foldl addrRelease s1
  (s2.ctxs.map (·.1)).foldl pageWriteWaits s2

/-- R45, R49: the plans of the tick are released, in the order of admission; late work goes on. -/
def releasePlans (s : State) : State :=
  let s1 := { s with plans := s.plans.map (runLate s) }
  ((admittedPlans s1).map (·.key)).foldl releasePlan s1

/-- R71, R77: what a watch decides after B belongs to the ended tick. -/
def asOfEnd (f : State → State) (s : State) : State :=
  let s1 := f { s with tick := { s.tick with num := s.tick.num - 1 } }
  { s1 with tick := { s1.tick with num := s.tick.num } }

/-- R76: the watches of the ended tick that a recovery of rooms put off decide, and what they stop completes in this tick (R78). -/
def lateWatch (s : State) : State := finishStops (asOfEnd (fun s => watch s s.tick.num.toNat) s)

/-- R399: a recovery that lasts past the release point, or that does not, decides what the ended tick's unfinished steps do. -/
def settleRecovery (s : State) : State :=
  match s.recov with
  | none => s
  | some r =>
    if r.lost then s
    else if missesRelease s r then freezeAll { s with recov := some (loseWork (s.tick.num.toNat - 1) r) }
    else if s.slideP.isSome || r.rooms.isEmpty then s else lateWatch s

/-- R31, R45: TICK_OUT falls at the release point. -/
def passRelease (s : State) : State := { s with tick := { s.tick with released := true, tickOut := false } }

/-- R45: the release point, at B + 1 µs. -/
def releasePoint (s : State) : State :=
  if !tickOn s || !ticking s.tick || s.tick.released then s
  else if s.dev.failstop then passRelease s
  else
    let s2 := releaseTables (passRelease (settleRecovery s))
    let s3 := if s2.recov.any (·.lost) then s2 else releasePlans s2
    let s4 := (s3.ctxs.map (·.1)).foldl tickWaits (retryStores s3)
    drive (settle s4)

/-- R45: RELEASE_POINT. -/
def execReleasePoint (s : State) : Out1 := .next (releasePoint s)

end Sys2Proof.Machine
end

