-- ==== Sys2Proof/Machine/Boundary.lean ====
section
/-! DEFINITION. The boundary (R45, R47, R52, R74, R76, R132, R256, R257, R317, R323, R419, R420, R424), the settlement of power tokens
(R82, R419) and the audit of the books (R52, R53, R414). -/
namespace Sys2Proof.Machine

/-! ## The tick ends (R74, R76, R132) -/

/-- R74: the promised outputs of the ended tick that are not delivered. -/
def brokenPromises (p : Plan) (n : Nat) : List OutStat := p.outs.filter (fun o => o.done.isNone && o.promised == n && !o.missed)

/-- R74: the output's miss is recorded once. -/
def markMissed (step out : Nat) (p : Plan) : Plan :=
  let f : OutStat → OutStat := fun o => { o with missed := true }
  { p with outs := updFirst (fun o => owed step out o && !o.missed) f p.outs }

/-- R74: one PROMISE_MISS for each. -/
def promiseCheck (s : State) (n : Nat) (p : Plan) : State :=
  (brokenPromises p n).foldl (fun s o =>
    modPlan (raisePlan s p.key { code := 0x003C, d0 := o.outId, d1 := o.promised } 127) p.key (markMissed o.step o.outId)) s

/-- The partners of the ports that the recovery retrains. -/
def retrainPartners (s : State) (r : Recov) : List Nat := r.ports.filterMap (fun i => (getPort s i).partner.map (·.fabric))

/-- R325: does an unfinished step of the plan wait on a transfer to one of these partners? -/
def waitsOn (s : State) (fs : List Nat) (p : Plan) : Bool :=
  (openRun p).any (fun r => !r.late)
  && (s.links.awaits.any (fun a => a.tid.key == p.key && fs.contains a.dest)
      || (planTh s p.key).any (fun x => x.xfers.any (fun q =>
           (thColl s x.tid q.coll).any (fun c => fs.contains (c.g.members.getD q.peer 0xFFF)))))

/-- R71, R325: at B, a step that waits on a port that retrains has lost work. -/
def portLoss (s : State) (n : Nat) : State :=
  match s.recov with
  | none => s
  | some r => if (admittedPlans s).any (waitsOn s (retrainPartners s r)) then { s with recov := some (loseWork n r) } else s

/-- R71: a slide that applies at the boundary of its tick. -/
def applyDue (s : State) (v : Nat × Nat) : State := slideBy s v.1 v.1 v.2

/-- R71, R407: the slides that are due at the end of tick `n`. -/
def applySlides (s : State) (n : Nat) : State :=
  let due := s.slideDue.filter (fun v => decide (v.1 ≤ n))
  due.foldl applyDue { s with slideDue := s.slideDue.filter (fun v => !decide (v.1 ≤ n)) }

/-- R71, R76, R407: what decides on the steps of the ended tick: the watches, or a recovery in which work was lost, or a slide
pending. While a recovery that moves rooms may still last past the release point, the watches decide there (DEDUCED 142); the move of
a hall-core duty, which touches no room, puts nothing off (R40, R76). -/
def decideTick (s : State) (n : Nat) : State :=
  if s.slideP.isSome then stopWithdrawn s
  else match s.recov with
    | none => watch s n
    | some r => if r.lost then freezeAll (stopWithdrawn s) else if r.rooms.isEmpty then watch s n else stopWithdrawn s

/-- R80, R132: does the plan run late? -/
def runsOver (p : Plan) : Bool := (openRun p).any (·.late) || !p.lateAgain.isEmpty

/-- R132: a plan that is late at the end of its last booked tick goes on unless a booked window or unit is in its way. -/
def lastTickEnds (s : State) (n : Nat) (p : Plan) : State :=
  match p.body with
  | none => s
  | some b =>
    if p.phase != .admitted || p.stopped || p.overran || !runsOver p || n < lastBooked p then s
    else if windowClash s b (n + 1) || unitsOver s b (n + 1) then stopPlan s p.key 0x30 0x38
    else modPlan s p.key (fun p => { p with overran := true })

/-- R44: the steps that finish in the boundary cycle of tick `n`. -/
def finishSteps (s : State) : State := ((admittedPlans s).map (·.key)).foldl finishStep s

/-- R71, R74, R76, R132: what decides at B about the steps of the ended tick `n`. A tick includes its ending boundary (R71), so what
is found there is detected in the ended tick, and its records carry that tick (R119; DEDUCED 10). -/
def endTick (s : State) (n : Nat) : State :=
  let s1 := decideTick ((admittedPlans s).foldl (fun s p => promiseCheck s n p) s) n
  (admittedPlans s1).foldl (fun s p => lastTickEnds s n p) s1

/-! ## The books (R52) -/

/-- Book 1: the rings of an open context: slots owned by the host and by the device. -/
def ringRows (s : State) : List BookRow :=
  ((s.ctxs.filter (fun p => ctxLive p.2)).map (fun p =>
    let x := p.2
    let mine := (x.sqTail + sqSize x - x.sqHead) % sqSize x
    [{ book := 1, unit := p.1, lhs := x.sqFree + mine, rhs := sqSize x },
     { book := 1, unit := p.1, lhs := x.inRing.length + (cqSize x - x.cq.used), rhs := cqSize x }])).flatten

/-- Book 2: the tags: free, in flight, and awaiting consumption as read from the completion rings. -/
def tagRow (s : State) : BookRow :=
  { book := 2, unit := 0, rhs := 4096,
    lhs := (4096 - s.tags.length : Int) + ((s.tags.filter (fun u => u.awaiting.isNone)).length : Nat)
      + (sumBy s.ctxs (fun p => p.2.inRing.length) : Nat) }

/-- Book 3, R317: the two sides of a channel's credits, on the values latched at B and the counts of the partner's marker. This
end's available credits, the credits on the wire, and what the partner has not returned make the partner's allotment; what this
end holds, and the flits on the wire, make what it has not returned. -/
def creditRows (i v : Nat) (p : Port) : List BookRow :=
  let u := i * 8 + v
  let c := fun (l : List Word) => l.getD v 0
  [{ book := 3, unit := u, rhs := (p.partner.elim 0 (fun q => q.allot.getD v 0) : Nat),
     lhs := (p.latCredits.getD v 0 + (c p.markCredited - c p.latCredRx).toNat + (c p.latSent - c p.markCredited).toNat : Nat) },
   { book := 3, unit := u, rhs := ((c p.markSent - c p.latCredited).toNat : Nat),
     lhs := (p.latHeld.getD v 0 + (c p.markSent - c p.latRcvd).toNat : Nat) }]

/-- The credit books of every port that is UP and whose marker of the boundary has arrived. -/
def linkRows (s : State) : List BookRow :=
  ((enum s.links.ports).map (fun q =>
    if q.2.state == .up && q.2.audited then ((List.range 8).map (fun v => creditRows q.1 v q.2)).flatten else [])).flatten

/-- The staging buffers of a plan in a state. -/
def stageCount (s : State) (p : Plan) (g : Stage) : Nat := sumBy (planTh s p.key) (fun x => (x.stages.filter (fun q => q.2 == g)).length)

/-- R342: the staging allocation of a plan: `stage_bufs` over its records and the carriers of each. -/
def stageAlloc (b : PlanBody) : Nat := sumBy b.colls (fun c => c.stageBufs * (b.groups[c.group]?).elim 0 (·.carriers.length))

/-- Book 4: the staging buffers of a plan: free, holding, mid-reduction. -/
def stagingRow (s : State) (p : Plan) : BookRow :=
  { book := 4, unit := p.key.id, lhs := (stageCount s p .free + stageCount s p .holding + stageCount s p .midReduction : Nat),
    rhs := (p.body.elim 0 stageAlloc : Nat) }

/-- R52, R239: entries that name a frame: newest generations, open overlays, pending decrements. -/
def frameNames (s : State) (b : Nat) : Nat :=
  sumBy s.tables (fun t =>
    ((kvNewest t).filter (fun e => frameOf e.2 == some b)).length
    + t.session.elim 0 (fun q => sumBy q.overlays (fun o => (o.filter (fun e => frameOf e.2 == some b)).length)))
  + (s.decs.filter (· == b)).length + (getFrame s b).elim 0 (·.pend)

/-- Book 5: the reference count of a frame, at its home slice. -/
def frameRow (s : State) (f : Frame) : BookRow :=
  { book := 5, unit := homeSlice f.base, lhs := (f.count : Nat), rhs := (frameNames s f.base : Nat) }

/-- Book 6: room time of a wing in the tick: what its rooms hold reserved, and what each has left. -/
def roomRow (s : State) (n wing : Nat) : BookRow :=
  let cap := roomCap (periodOf s)
  let held := (List.range 64).map (fun r => booked s n 0 (wing * 64 + r))
  { book := 6, unit := wing, lhs := (sumOf held + sumBy held (fun h => cap - h) : Nat), rhs := (64 * cap : Nat) }

/-- R353: the codec engines, which the room-time book carries beside the 96 wings: reserved for streams, and free. -/
def engineRow (s : State) : BookRow :=
  { book := 6, unit := 96, rhs := (16 - s.hw.engines.length : Int),
    lhs := (sumBy s.ctxs (fun p => sumBy p.2.streams (fun t => t.engines.length)) + (freeEngines s).length : Nat) }

/-- The wings in which a plan has rooms. -/
def bookedWings (s : State) : List Nat := ((s.plans.map (fun p => p.body.elim [] wingsOf)).flatten).eraseDups

/-- Book 7: the power tokens of the ended tick. -/
def tokenRow (s : State) : BookRow :=
  { book := 7, unit := 0, lhs := (s.pwr.settled + min (cdiv s.pwr.awaiting 1000) s.pwr.granted + s.pwr.unused : Nat), rhs := (s.pwr.granted : Nat) }

/-- R52: the books as latched at the boundary that ends tick `n`. -/
def latchBooks (s : State) (n : Nat) : State :=
  let rows := ringRows s ++ [tagRow s] ++ (admittedPlans s).map (stagingRow s) ++ s.frames.map (frameRow s)
    ++ (bookedWings s).map (roomRow s n) ++ [engineRow s] ++ [tokenRow s]
  let f : Port → Port := fun p => { p with audited := false }
  { s with books := rows, links := { s.links with ports := s.links.ports.map f } }

/-! ## Power at a boundary (R419, R420, R422, R424, R450) -/

/-- A room program's counts start anew. -/
def clearMeter (x : Thread) : Thread := { x with meter := {} }

/-- R419: the use of every plan in the ended tick awaits settlement. -/
def takeDues (s : State) : State :=
  { s with pwr := { s.pwr with dues := s.pwr.dues ++ ((admittedPlans s).map (planDue s)).flatten }, threads := s.threads.map clearMeter }

/-- R52, R419, R450: the energy of the ended tick. -/
def closeEnergy (s : State) : State :=
  let g := energyC s (periodOf s)
  let p := s.pwr
  { s with pwr := { p with
      past := (s.tick.num.toNat, booked s s.tick.num.toNat 6 0) :: p.past.take 999,
      granted := g, settled := 0, awaiting := p.sampled, sampled := 0, unused := g - min (cdiv p.sampled 1000) g,
      input := BitVec.ofNat 14 (p.sampled * 100 / periodOf s) } }

/-- R423, R422: the hottest junction of the ended tick. -/
def closeHeat (s : State) : State :=
  { s with pwr := { s.pwr with thermMax := BitVec.ofNat 12 s.pwr.tickMax, tickMax := maxBy s.pwr.temps id } }

/-- R424: stretched time of a floor in the tick, the stretch under way included. -/
def floorStretch (p : Pwr) (b f : Nat) : Nat := p.stretched.getD f 0 + sumBy (p.droops.filter (fun d => d.1 == f)) (fun d => b - d.2)

/-- R424: one floor at a boundary. -/
def closeStretch (len b : Nat) (p : Pwr) (f : Nat) : Pwr :=
  if len < floorStretch p b f * 400 then
    { p with stretchOver := hitFlag p.stretchOver, setPoint := upd p.setPoint f (fun v => min 800 (v + 10)), quiet := upd p.quiet f (fun _ => 0) }
  else { p with quiet := upd p.quiet f (· + 1) }

/-- R424: the stretch of the ended tick, of nominal length `len`, at the boundary at time `b`. -/
def closeDroops (s : State) (len b : Nat) : State :=
  let p := (List.range 8).foldl (closeStretch len b) s.pwr
  { s with pwr := { p with stretched := List.replicate 8 0, droops := p.droops.map (fun d => (d.1, b)) } }

/-! ## Tables, pages and plans at a boundary (R47, R225, R256, R257) -/

/-- R47: the filled slots of a window switch banks. -/
def switchBanks (m : List Host.Cell) (r : RoomRec) (slots : List Nat) : List Host.Cell :=
  slots.foldl (fun m k =>
    let a := memRead m (activePa r k) 1024
    memWrite (memWrite m (activePa r k) (memRead m (inactivePa r k) 1024)) (inactivePa r k) a) m

/-- A room program whose filled slots have become active. -/
def bankSwitched (x : Thread) : Thread := { x with active := x.filled.foldl (fun l q => aSet l q.1 q.2) x.active, filled := [] }

/-- R47, R225: the fills of a finished step switch. -/
def switchThread (s : State) (x : Thread) : State :=
  match thRec s x.tid, getPlan s x.tid.key with
  | some r, some p =>
    if x.filled.isEmpty || (openRun p).isSome then s
    else modTh { s with mem := switchBanks s.mem r (x.filled.map (·.1)) } x.tid bankSwitched
  | _, _ => s

/-- R257: a dropped entry: tick of its drop, handle, index, fill. -/
structure Dropped where
  tick   : Nat
  handle : Nat
  index  : Nat
  fill   : Nat
deriving DecidableEq, Repr

/-- R257: the order of the recompute list. -/
def droppedBefore (a b : Dropped) : Bool :=
  decide (a.tick < b.tick) || (a.tick == b.tick && (decide (a.handle < b.handle) || (a.handle == b.handle && decide (a.index < b.index))))

/-- The DROPPED entries of a table. -/
def tableDrops (t : KvTable) : List Dropped :=
  (kvNewest t).filterMap (fun e => match e.2 with
    | .dropped fill tick => some { tick := tick, handle := t.handle, index := e.1, fill := fill }
    | _ => none)

/-- R257: the DROPPED entries of a table of the plan's context. -/
def dropsOf (s : State) (p : Plan) (h : Nat) : List Dropped := (getKv s p.key.ctx h).elim [] tableDrops

/-- R257: the tables that a plan could recompute. -/
def recompTables (s : State) (p : Plan) (b : PlanBody) : List Nat :=
  ((b.walkTables.filter (fun w => w.recompute && w.write)).map (·.handle)).eraseDups.filter (fun h => !(dropsOf s p h).isEmpty)

/-- R257: does the plan insert its recompute step? -/
def mayRecompute (s : State) (p : Plan) (b : PlanBody) : Bool :=
  b.recompute.isSome && stepDue s p && !s.recov.any (·.lost) && p.rerun != some recompStep && decide (p.inserted < b.budget)

/-- R257: the recompute list in memory. -/
def recompList (l : List Dropped) (total : Nat) : List Byte :=
  leBytes l.length 4 ++ leBytes (total - l.length) 4 ++ leBytes 0 8
  ++ (l.map (fun d => leBytes d.handle 4 ++ leBytes d.index 4 ++ leBytes d.fill 8)).flatten

/-- R384: CHOICE of kind 4. -/
def recompItem (n : Nat) (l : List Dropped) : List Byte :=
  leBytes 4 4 ++ leBytes l.length 4 ++ leBytes n 8 ++ (l.map (fun d => leBytes d.handle 4 ++ leBytes d.index 4)).flatten

/-- R257: one plan, with the tables that earlier plans recompute. -/
def insertOne (acc : State × List (Nat × Nat)) (key : PlanKey) : State × List (Nat × Nat) :=
  match getPlan acc.1 key with
  | none => acc
  | some p => match p.body with
    | none => acc
    | some b =>
      let hs := (recompTables acc.1 p b).filter (fun h => !acc.2.contains (key.ctx, h))
      if hs.isEmpty || !mayRecompute acc.1 p b then acc
      else
        let all := sortBy droppedBefore ((hs.map (dropsOf acc.1 p)).flatten)
        let l := all.take b.recompMax
        let s1 := writeVa acc.1 key.ctx b.recompAddr (recompList l all.length)
        (modPlan (addItem s1 key 8 (recompItem s1.tick.num.toNat l)) key (fun p => { p with insert := true }),
         acc.2 ++ hs.map (fun h => (key.ctx, h)))

/-- R257: the recompute steps of the coming release point. -/
def insertSteps (s : State) : State := (((admittedPlans s).map (·.key)).foldl insertOne (s, [])).1

/-! ## The boundary (R45) -/

/-- R28, R29, R31: the new tick begins at time `b`. -/
def beginTick (s : State) (b : Nat) : State :=
  let g := genBoundary s.tick b
  tickEvent s.tick g.2 { s with tick := g.1, now := b }

/-- R44, R71, R419: what belongs to the ending tick `n`: finished steps, its energy, the slides that apply at its end. -/
def closeTick (s : State) (n : Nat) : State := applySlides (portLoss (closeEnergy (takeDues (finishSteps s))) n) n

/-- R45: what happens at B once the new tick has begun; `n` is the ended tick and `len` its nominal length. A vector in PER_TICK mode
counts what was queued before B (R122), so before the entries of plans that B stops. -/
def newTick (s : State) (n len : Nat) : State :=
  let s1 := finishStops (markVecs s)
  let s2 := s1.threads.foldl switchThread s1
  let s3 := retireGens (latchExtents (insertSteps (dropPages s2 n)))
  let s4 := boundaryCaps (closeHeat (closeDroops s3 len s3.now))
  let s5 := nextUpdates (nextImages (sendMarkers s4))
  drive (settle (((admittedPlans s5).map (·.key)).foldl settleEnd s5))

/-- R45: a boundary. -/
def boundary (s : State) : State :=
  match s.tick.nextB with
  | none => s
  | some b =>
    if !tickOn s || !ticking s.tick || !s.tick.released then s
    else if s.dev.failstop then sendMarkers (beginTick s b)
    else
      let n := s.tick.num.toNat
      let len := periodUnits s.tick
      if s.tick.begun then newTick (latchBooks (beginTick (endTick (closeTick s n) n) b) n) n len
      else newTick (latchBooks (beginTick s b) n) n len

/-- R45: TICK_BOUNDARY. -/
def execTickBoundary (s : State) : Out1 := .next (boundary s)

/-! ## Settlement (R82, R419) -/

/-- R419: a boiler samples its rails. -/
def boilerSample (s : State) (boiler : Nat) (energies : List Nat) : State :=
  if alive s && boiler < 4 then { s with pwr := { s.pwr with sampled := s.pwr.sampled + sumOf energies } } else s

/-- R419: BOILER_SAMPLE. -/
def execBoilerSample (boiler : Nat) (energies : List Nat) (s : State) : Out1 := .next (boilerSample s boiler energies)

/-- R82: the excess is taken from the unbooked tokens of the ticks from `t` on, over at most the given number of them. -/
def takeUnbooked (s : State) (t excess : Nat) : Nat → List (Nat × Nat)
  | 0 => []
  | k + 1 =>
    if excess = 0 then []
    else
      let room := energyC s (periodOf s) - bookedEnergy s t
      let x := min room excess
      (if x = 0 then [] else [(t, x)]) ++ takeUnbooked s (t + 1) (excess - x) k

/-- R82: after the last booked tick every token is unbooked; the search needs no more ticks than these. -/
def debtSpan (s : State) (excess : Nat) : Nat :=
  (maxBy (admittedPlans s) (fun p => lastBooked p + 1)) - s.tick.num.toNat + maxBy s.pwr.debts (·.1) + excess + 2

/-- R82: a plan used more than it booked. -/
def tokenOverrun (s : State) (d : PlanKey × Nat × Nat × Nat) : State :=
  let f : FaultIn := { code := 0x0108, ctx := some d.1.ctx, plan := d.1.id, step := d.2.1, d0 := d.2.2.1, d1 := d.2.2.2 }
  let s1 := if (getPlan s d.1).isSome then raisePlan s d.1 f 127 else raise s f
  let excess := d.2.2.2 - d.2.2.1
  { s1 with pwr := { s1.pwr with
      tokOverrun := hitFlag s1.pwr.tokOverrun,
      debts := s1.pwr.debts ++ takeUnbooked s1 (s1.tick.num.toNat + 1) excess (debtSpan s1 excess) } }

/-- R419: the ended tick is settled. -/
def settleTokens (s : State) : State :=
  if !alive s || !s.tick.begun then s
  else
    let overs := s.pwr.dues.filter (fun d => decide (d.2.2.1 < d.2.2.2))
    let s1 := overs.foldl tokenOverrun s
    let used := sumBy s.pwr.dues (fun d => d.2.2.2)
    let spent := cdiv s.pwr.awaiting 1000
    { s1 with pwr := { s1.pwr with
        baseUse := spent - used, settled := s.pwr.settled + min spent s.pwr.granted, awaiting := 0, dues := [],
        debts := s1.pwr.debts.filter (fun d => decide (s.tick.num.toNat ≤ d.1)) } }

/-- R419: TOKEN_SETTLEMENT. -/
def execTokenSettlement (s : State) : Out1 := .next (settleTokens s)

/-! ## The audit (R53, R414) -/

/-- The books, by number and unit, that do not balance. -/
def failing (s : State) : List (Nat × Nat) :=
  (((s.books ++ linkRows s).filter (fun r => r.lhs != r.rhs)).map (fun r => (r.book, r.unit))).eraseDups

/-- R53: a failed audit is recorded. -/
def auditRecord (s : State) (q : Nat × Nat) : State :=
  let s1 := { s with tick := { s.tick with auditFail := hitFlag s.tick.auditFail } }
  if s.badBooks.contains q then failStop s1 { code := 0x0504, d0 := q.1, d1 := q.2 }
  else logFault s1 { code := 0x0208, d0 := q.1, d1 := q.2 }

/-- R53, R414: the books to recount: those that failed, or every one. -/
structure Recount where
  all : Bool
  bad : List (Nat × Nat)

/-- Is a book of a unit recounted? -/
def Recount.has (q : Recount) (book unit : Nat) : Bool := q.all || q.bad.contains (book, unit)

/-- R53, R414: the ring slots of a context, from the heads and tails of its rings. -/
def recountRings (q : Recount) (p : Nat × Ctx) : Nat × Ctx :=
  let x := p.2
  if q.has 1 p.1 && ctxLive x then
    (p.1, { x with sqFree := sqSize x - (x.sqTail + sqSize x - x.sqHead) % sqSize x, cq := { x.cq with used := x.inRing.length } })
  else p

/-- R53, R414: a tag is in use by a descriptor or a plan, or while its entry is unconsumed. -/
def tagStands (s : State) (u : TagUse) : Bool := u.awaiting.all (fun c => (getCtx s c).inRing.contains u.tag)

/-- R53, R342, R414: the staging buffers of a room, from its staging state: each buffer of its records once. -/
def recountStages (s : State) (q : Recount) (x : Thread) : Thread :=
  match (getPlan s x.tid.key).bind (·.body) with
  | none => x
  | some b =>
    if q.has 4 x.tid.key.id then
      { x with stages := (roomStages b x.tid.room).map (fun g => (g.1, ((x.stages.find? (fun h => h.1 == g.1)).map (·.2)).getD .free)) }
    else x

/-- R53, R414: the recount of a frame replaces its count. -/
def recountFrame (s : State) (q : Recount) (f : Frame) : Frame :=
  if q.has 5 (homeSlice f.base) then { f with count := frameNames s f.base } else f

/-- R53, R414: the tokens, from the samples and settlements. -/
def recountPower (q : Recount) (p : Pwr) : Pwr :=
  if q.has 7 0 then { p with unused := p.granted - (p.settled + min (cdiv p.awaiting 1000) p.granted) } else p

/-- R53, R317: the credit book of a port is recounted from its counts. -/
def recountPort (q : Recount) (i : Nat) (p : Port) : Port :=
  let f := fun (v c : Nat) => if q.has 3 (i * 8 + v) then c else p.credits.getD v 0
  let g := fun (v c : Nat) => if q.has 3 (i * 8 + v) then c else p.rxHeld.getD v 0
  { p with
    credits := (List.range 8).map (fun v => f v (p.partner.elim 0 (fun q => q.allot.getD v 0) - (p.sent.getD v 0 - p.credRx.getD v 0).toNat)),
    rxHeld := (List.range 8).map (fun v => g v ((p.rcvd.getD v 0 - p.credited.getD v 0).toNat - p.owed.getD v 0)) }

/-- R317: the boundaries whose marker was lost are counted. -/
def countSkip (p : Port) : Port := if p.state == .up && !p.audited then { p with skips := p.skips + 1 } else p

/-- R53, R414: the recounts. Room time (book 6) is the plans' bookings themselves, which hold no second count. -/
def recount (s : State) (q : Recount) : State :=
  { s with
    ctxs := s.ctxs.map (recountRings q), tags := if q.has 2 0 then s.tags.filter (tagStands s) else s.tags,
    threads := s.threads.map (recountStages s q), frames := s.frames.map (recountFrame s q), pwr := recountPower q s.pwr,
    links := { s.links with ports := (enum s.links.ports).map (fun p => if p.2.state == .up then recountPort q p.1 p.2 else p.2) } }

/-- R53, R414: the audit of the latched books; the first one after a recovery recounts every book. -/
def audit (s : State) : State :=
  if !alive s || s.books.isEmpty then s
  else
    let bad := failing s
    let s1 := recount (bad.foldl auditRecord s) { all := s.fullAudit, bad := bad }
    { s1 with books := [], badBooks := bad, fullAudit := false, links := { s1.links with ports := s1.links.ports.map countSkip } }

/-- R53: BOOK_AUDIT. -/
def execBookAudit (s : State) : Out1 := .next (audit s)

end Sys2Proof.Machine
end

