-- ==== Sys2Proof/Machine/Recover.lean ====
section
/-! DEFINITION. Faults that the device absorbs and its recovery: room substitution (R400 to R403), core failovers (R19, R20), lost
lanes (R325), errors of the memory tiers (R303 to R305), spares and the repair map (R404, R405), and the end of a recovery with
its slide (R71, R399, R406). -/
namespace Sys2Proof.Machine

/-! ## A recovery (R399) -/

/-- R405: the class of a failure: a second TRANSIENT failure of a part is PERMANENT. -/
def isPermanent (s : State) (q : Part) (permanent : Bool) : Bool :=
  permanent || (repairMap s.attic ++ s.attic.repairDue ++ s.recov.elim [] (·.repairs)).any (fun r => r.part == q)

/-- R405: a part goes out of service. -/
def retire (s : State) (q : Part) : State := { s with hw := { s.hw with retired := s.hw.retired ++ [q] } }

/-! ## Room substitution (R400, R401) -/

/-- R13, R404: is a spare slot of a wing free? -/
def spareFree (s : State) (wing slot : Nat) : Bool :=
  !s.hw.retired.contains (.room wing slot) && !s.hw.bound.any (fun q => q.1 / 64 == wing && q.2 == slot)

/-- R400: S0 of the wing when it is free, else S1. -/
def pickSpare (s : State) (wing : Nat) : Option Nat := [64, 65].find? (spareFree s wing)

/-- What of a room cannot be copied: all of it, or some words, by their offset in the room's device window. -/
structure Lost where
  all   : Bool
  words : List Nat

/-- The 8-byte words of a range of the room's window that cannot be copied. -/
def Lost.within (l : Lost) (lo n : Nat) : List Nat := (l.words.map (fun w => w / 8 * 8)).filter (fun w => decide (lo ≤ w) && decide (w < lo + n))

/-- Does the range hold a word that cannot be copied? -/
def Lost.hits (l : Lost) (lo n : Nat) : Bool := n != 0 && (l.all || !(l.within lo n).isEmpty)

/-- Words that are not copied hold free values. -/
def scrambleWords (s : State) (room : Nat) (ws : List Nat) : State :=
  ws.foldl (fun s w =>
    let (bs, s1) := freeBytes s 8
    { s1 with mem := memWrite s1.mem (roomBase room + w) bs }) s

/-- A range that is not copied holds free values. -/
def scramble (s : State) (l : Lost) (room lo n : Nat) : State :=
  if l.all then
    let (bs, s1) := freeBytes s n
    { s1 with mem := memWrite s1.mem (roomBase room + lo) bs }
  else scrambleWords s room (l.within lo n)

/-- R22: the windows of a room record as offset and length in the room's device window. -/
def spadWin (r : RoomRec) : Nat × Nat := (r.spadBase * 16384, r.spadLen * 16384)
def accWin (r : RoomRec) : Nat × Nat := (0xA0000 + r.accBase * 4096, r.accLen * 4096)
def tblWin (r : RoomRec) : Nat × Nat := (0xC0000 + r.tblBase * 1024, r.tblLen * 1024)
def fillWin (r : RoomRec) : Nat × Nat := (0xC2000 + r.tblBase * 1024, r.tblLen * 1024)
def imemWin (r : RoomRec) : Nat × Nat := (0xC4000 + r.imemBase * 4096, r.imemLen * 4096)

/-- R401: instruction memory with a lost word is loaded again from the plan. -/
def reloadImem (s : State) (l : Lost) (p : Plan) (im : ImageRec) (r : RoomRec) : State :=
  let w := imemWin r
  if l.hits w.1 w.2 then
    let (bs, s1) := loadImage s p im
    { s1 with mem := memWrite (wipe s1.mem (roomBase r.room + w.1) w.2) (roomBase r.room + w.1) (bs.take w.2) }
  else s

/-- R401: active banks with a lost word are filled again from the wing table store; a waiting fill is copied. -/
def refillTables (s : State) (l : Lost) (b : PlanBody) (r : RoomRec) (x : Thread) : State :=
  let w := tblWin r
  let s1 := if l.hits w.1 w.2 then
      { s with mem := x.active.foldl (fun m q => memWrite m (activePa r q.1) (padTo (tableImage b q.2) 1024)) s.mem }
    else s
  let v := fillWin r
  if l.hits v.1 v.2 then scramble s1 l r.room v.1 v.2 else s1

/-- R401: a scratchpad or accumulator window with a lost word: left to the restore program, or zero. -/
def dataWindow (s : State) (l : Lost) (restore : Bool) (room : Nat) (w : Nat × Nat) : State :=
  if !l.hits w.1 w.2 then s
  else if restore then scramble s l room w.1 w.2
  else { s with mem := wipe s.mem (roomBase room + w.1) w.2 }

/-- R401: does the plan's data on the room hold a lost word? -/
def dataLost (l : Lost) (r : RoomRec) : Bool := l.hits (spadWin r).1 (spadWin r).2 || l.hits (accWin r).1 (accWin r).2

/-- R400, R403: a restore program starts on the spare. -/
def startRestore (e : Nat) (x : Thread) : Thread :=
  { x with restore := true, back := some (keptOf x), pc := e, stat := .running }

/-- R400: the room's transfers are cancelled and the spare takes the captured state; work of a finished step stands. -/
def moveThread (open_ : Bool) (x : Thread) : Thread :=
  let y := if open_ then { backToKept (endWork x) with stat := .barrier, filled := [] } else x
  { y with inbound := [], held := [] }

/-- R400: wall transfers of a plan to or from a room are cancelled at the neighbours, whose puts are outstanding no more
(DEDUCED 128). -/
def cutWall (key : PlanKey) (room : Nat) (y : Thread) : Thread :=
  let mine := fun (dir : Nat) => neighbour y.tid.room dir == some room
  if y.tid.key != key then y
  else { y with
    inbound := y.inbound.filter (fun h => !mine h.1), held := y.held.filter (fun h => !mine h.1),
    outs := y.outs.filter (fun o => match o.ends with
      | .wall dir => !mine dir
      | _ => true) }

/-- R400, R401: one plan whose window lies on the room. -/
def movePlan (s : State) (l : Lost) (room : Nat) (p : Plan) : State :=
  let t : Tid := { key := p.key, room := room }
  let s := { s with threads := s.threads.map (cutWall p.key room) }
  match getTh s t, thRec s t, p.body with
  | some x, some r, some b =>
    match b.images[r.image]? with
    | none => s
    | some im =>
      if x.fresh then modTh s t (fun x => { x with inbound := [] })
      else
        let busy := (openRun p).any (fun q => q.released && q.rooms.contains room)
        let s1 := refillTables (reloadImem s l p im r) l b r x
        let s2 := dataWindow (dataWindow s1 l im.restore.isSome room (spadWin r)) l im.restore.isSome room (accWin r)
        let s3 := modTh s2 t (moveThread busy)
        match im.restore with
        | none => s3
        | some e => if dataLost l r && x.stat != .ended then modTh s3 t (startRestore e.1) else s3
  | _, _, _ => s

/-- The plans that hold a window on a room. -/
def plansOn (s : State) (room : Nat) : List Plan :=
  (admittedPlans s).filter (fun p => p.body.any (fun b => b.rooms.any (fun r => r.room == room)))

/-- R71: does a plan have unfinished step work on the room? -/
def worksOn (room : Nat) (p : Plan) : Bool := !p.stopped && (openRun p).any (fun r => r.released && r.rooms.contains room)

/-- R80: late work that loses its room runs again, late. -/
def rerunLate (s : State) (p : Plan) : State :=
  match openRun p with
  | some r => if r.late then modPlan (freeze s p.key) p.key (fun p => { p with lateAgain := p.lateAgain ++ [r.k] }) else s
  | none => s

/-- R384, R393: the new record of a substitution enters the Mehrong record of every plan that it touches. -/
def noteSub (logged : Bool) (s : State) (sp : Nat) (p : Plan) : State :=
  match s.flog.newest with
  | [] => s
  | r :: _ => if !logged then s else modPlan s p.key (fun p => { p with items := p.items ++ [faultItem r sp] })

/-- R157, R400 to R405: a hardware fault of a room. -/
def roomFault (s : State) (room unit : Nat) (permanent : Bool) (l : Lost) : State :=
  let wing := room / 64
  let old := slotOf s room
  match pickSpare s wing with
  | none => failStop s { code := 0x0502, room := some room, slot := some old, d0 := wing, d1 := old }
  | some sp =>
    let part : Part := .room wing old
    let perm := isPermanent s part permanent
    let ps := plansOn s room
    let hit := ps.filter (worksOn room)
    let s0 := s
    let s1 := logFault s { code := 0x0200, action := 5, room := some room, slot := some old, d0 := unit + b2n perm * 256, d1 := sp }
    let s2 := ps.foldl (fun s p => noteSub (s1.flog.nextSeq != s0.flog.nextSeq) s sp p) s1
    let s3 := joinRecov (retire s2 part) (fun r =>
      let r1 := { r with rooms := r.rooms ++ [room], halted := r.halted ++ [room], repairs := r.repairs ++ [{ part := part, permanent := perm }] }
      if hit.isEmpty then r1 else loseWork s.tick.num.toNat r1)
    let s4 := { s3 with hw := { s3.hw with bound := aSet s3.hw.bound room sp } }
    let s5 := ps.foldl (fun s p => movePlan s l room p) s4
    hit.foldl rerunLate s5

/-- The device serves rooms. -/
def roomServes (s : State) (room : Nat) : Bool := inService s && decide (room < 6144)

/-- R400: ROOM_HW. A room that stopped responding has no memory copied. -/
def execRoomHw (room unit : Nat) (permanent : Bool) (badWords : List Nat) (s : State) : Out1 :=
  .next (if roomServes s room && unit ≤ 11 then roomFault s room unit permanent { all := unit == 11, words := badWords } else s)

/-- R392: ROOM_WATCHDOG_TIMEOUT. -/
def execRoomWatchdogTimeout (room : Nat) (s : State) : Out1 :=
  .next (if roomServes s room then roomFault s room 11 false { all := true, words := [] } else s)

/-- R403: a restore program is stopped; the room sits out the next release. -/
def restoreTimeout (s : State) (t : Tid) : State :=
  if alive s && (getTh s t).any (·.restore) then modTh s t (fun x => { restoreEnds x with noRun := true }) else s

/-- R403: RESTORE_TIMEOUT. -/
def execRestoreTimeout (t : Tid) (s : State) : Out1 := .next (restoreTimeout s t)

/-! ## Spares and the repair map (R404, R405) -/

/-- R404: the hourly test of a free spare. -/
def spareTest (s : State) (wing spare : Nat) (pass : Bool) : State :=
  let slot := 64 + spare
  if !inService s || 96 ≤ wing || 2 ≤ spare || !spareFree s wing slot || pass then s
  else
    let part : Part := .room wing slot
    let s1 := logFault (retire s part) { code := 0x0209, d0 := wing, d1 := slot }
    { s1 with attic := { s1.attic with repairDue := s1.attic.repairDue ++ [{ part := part, permanent := true }] } }

/-- R404: SPARE_SELF_TEST. -/
def execSpareSelfTest (wing spare : Nat) (pass : Bool) (s : State) : Out1 := .next (spareTest s wing spare pass)

/-- R405: an entry of the repair map; a part has one. -/
def mapEntry (l : List Repair) (r : Repair) : List Repair := l.filter (fun q => q.part != r.part) ++ [r]

/-- R405, R427: the repair map is written to both copies. -/
def repairWrite (s : State) : State :=
  { s with attic := { storeRepairs s.attic (s.attic.repairDue.foldl mapEntry (repairMap s.attic)) with repairDue := [] } }

/-- R405: REPAIR_MAP_WRITE. -/
def execRepairMapWrite (s : State) : Out1 := .next (if alive s then repairWrite s else s)

/-! ## Core failures (R19, R20) -/

/-- R20: the rooms of the three wings that a floor core serves. -/
def servedRooms (floor core : Nat) : List Nat := (List.range 192).map (fun i => floor * 768 + core * 192 + i)

/-- R20, R71, R398: a core that failed before the release point of this tick released none of its steps on its wings; that work is
lost, and the rooms do not run. -/
def missedRelease (s : State) (rooms : List Nat) (r : Recov) : Recov :=
  let runs := (admittedPlans s).flatMap (fun p => if p.stopped then [] else (openRun p).toList)
  let out := (runs.filter (fun q => !q.late && q.released && q.tick == s.tick.num.toNat)).flatMap (fun q => q.rooms.filter rooms.contains)
  if !s.tick.released || out.isEmpty then r else loseWork s.tick.num.toNat { r with halted := r.halted ++ out }

/-- R20: a floor core fails; `missed` when the release point of the tick fell after its last heartbeat. -/
def floorCoreFail (s : State) (floor core : Nat) (missed : Bool) : State :=
  let part : Part := .floorCore floor core
  if !inService s || 8 ≤ floor || 4 ≤ core || s.hw.retired.contains part then s
  else if (List.range 4).any (fun n => s.hw.retired.contains (.floorCore floor n)) then
    failStop s { code := 0x0503, d0 := floor * 4 + core }
  else
    let perm := isPermanent s part false
    let rooms := servedRooms floor core
    let rec0 := missedRelease s rooms { tick := s.tick.num.toNat, sysTick := sysTick s, lost := false }
    let s1 := logFault (retire s part) { code := 0x0201, action := if missed && rec0.lost then 4 else 0, d0 := floor * 4 + core, d1 := floor * 4 + (core + 1) % 4 }
    joinRecov s1 (fun r =>
      let r1 := { r with rooms := r.rooms ++ rooms, repairs := r.repairs ++ [{ part := part, permanent := perm }] }
      if missed then missedRelease s1 rooms r1 else r1)

/-- R20: FLOOR_CORE_FAILURE. -/
def execFloorCoreFailure (floor core : Nat) (missed : Bool) (s : State) : Out1 := .next (floorCoreFail s floor core missed)

/-- R19: a hall core fails. -/
def hallCoreFail (s : State) (core : Nat) : State :=
  let part : Part := .hallCore core
  if !alive s || 16 ≤ core || s.hw.retired.contains part then s
  else if s.hw.duty.isSome || s.hw.retired.contains (.hallCore 15) then failStop s { code := 0x0503, d0 := core }
  else
    let perm := isPermanent s part false
    let fix : Repair := { part := part, permanent := perm }
    let s1 := logFault (retire s part) { code := 0x0202, d0 := core, d1 := if core = 15 then 0xFF else core }
    if core = 15 then { s1 with attic := { s1.attic with repairDue := s1.attic.repairDue ++ [fix] } }
    else joinRecov { s1 with hw := { s1.hw with duty := some core } } (fun r => { r with hall := some core, repairs := r.repairs ++ [fix] })

/-- R19: HALL_CORE_FAILURE. -/
def execHallCoreFailure (core : Nat) (s : State) : Out1 := .next (hallCoreFail s core)

/-- R392, R410: the fault manager is silent; the tick of its last heartbeat is not known to the model. -/
def hallSilent (s : State) : State :=
  if !alive s then s
  else
    let (v, s1) := freshBits s 48
    failStop s1 { code := 0x0507, d0 := v.toNat }

/-- R392: HALL_WATCHDOG. -/
def execHallWatchdog (s : State) : Out1 := .next (hallSilent s)

/-- R410: DIE_FAIL; the class in bits [15:8] of the detail and the index below (DESIGN CHOICE 34). -/
def execDieFail (cls index : Nat) (s : State) : Out1 :=
  .next (if alive s && cls ≤ 6 then failStop s { code := 0x0506, d0 := cls * 256 + index % 256 } else s)

/-! ## Memory errors (R303 to R305) -/

/-- R391: a cellar and a channel in one detail (DESIGN CHOICE 34). -/
def cellarDetail (cellar channel : Nat) : Nat := cellar * 256 + channel

/-- R303: the number of a tier: the rows of the table, in their order (DESIGN CHOICE 34). -/
def tierNum : EccTier → Nat
  | .roomMem _ _ => 0
  | .wall _ => 1
  | .pantryClean _ => 2
  | .pantryState _ => 3
  | .cellar => 4
  | .attic => 6

/-- R391, R394: the source of a corrected error at an address: one memory of one room, one slice, one channel (R280). -/
def tierSource (addr : Nat) : EccTier → Nat
  | .roomMem room unit => room * 16 + unit
  | .wall room => room * 16 + 10
  | .pantryClean slice => 2 ^ 20 + slice
  | .pantryState slice => 2 ^ 20 + slice
  | .cellar => 2 ^ 21 + (cellarPlace addr).cellar * 96 + (cellarPlace addr).channel
  | .attic => 2 ^ 22

/-- R391: the second detail of a corrected error: a room, or an address. -/
def tierDetail (addr : Nat) : EccTier → Nat
  | .roomMem room _ => room
  | _ => addr

/-- R119: the room whose memory holds the error. -/
def tierRoom : EccTier → Option Nat
  | .roomMem room _ => some room
  | _ => none

/-- R303, R394: a corrected error; wall transfers have parity only. -/
def eccFixed (s : State) (t : EccTier) (addr : Nat) : State :=
  match t with
  | .wall _ => s
  | _ =>
    let s1 := { s with hw := { s.hw with eccCounts := upd s.hw.eccCounts (tierNum t) (· + 1) } }
    let room := tierRoom t
    logFault s1 { code := 0x0300, room := room, slot := room.map (slotOf s), d0 := tierNum t, d1 := tierDetail addr t, src := tierSource addr t }

/-- R303: an uncorrectable error, by tier. -/
def eccBad (s : State) (t : EccTier) (addr : Nat) : State :=
  match t with
  | .roomMem room unit => if roomServes s room && 6 ≤ unit && unit ≤ 9 then roomFault s room unit false { all := false, words := [addr] } else s
  | .wall room => if roomServes s room then roomFault s room 10 false { all := false, words := [] } else s
  | .pantryClean slice => logFault s { code := 0x0205, d0 := slice, d1 := addr }
  | .pantryState slice => failStop s { code := 0x0501, d0 := slice, d1 := addr }
  | .cellar => failStop s { code := 0x0500, d0 := cellarDetail (cellarPlace addr).cellar (cellarPlace addr).channel }
  | .attic => s

/-- R303: MEMORY_ECC_EVENT. An attic error fails the descriptor that needs the data, which its own completion tells. -/
def execMemoryEccEvent (tier : EccTier) (addr : Nat) (correctable : Bool) (s : State) : Out1 :=
  .next (if !alive s then s else if correctable then eccFixed s tier addr else eccBad s tier addr)

/-- R304: PATROL_SCRUB. -/
def execPatrolScrub (cellar channel lines : Nat) (s : State) : Out1 :=
  .next (if alive s && 1024 < lines then logFault s { code := 0x0302, d0 := cellarDetail cellar channel, d1 := lines } else s)

/-- R305: CELLAR_LOSS. -/
def execCellarLoss (cellar channel : Nat) (s : State) : Out1 :=
  .next (if alive s then failStop s { code := 0x0500, d0 := cellarDetail cellar channel } else s)

/-! ## Lost lanes (R325) -/

/-- R325: a lane of a port in UP is lost. -/
def laneLost (s : State) (i lane : Nat) : State :=
  let p := getPort s i
  if !alive s || p.state != .up || 8 ≤ lane || p.lost.contains lane then s
  else
    let lost := p.lost ++ [lane]
    let used := p.full || laneHalf lane == p.half
    let s1 := modPort s i (fun p => { p with lost := lost })
    if !used then s1
    else match keptHalf lost with
      | none => leaveUp (logFault s1 { code := 0x0204, d0 := i * 8 + lane, d1 := 0xFF }) i .down
      | some h =>
        let s2 := logFault s1 { code := 0x0204, d0 := i * 8 + lane, d1 := h }
        joinRecov (leaveUp (modPort s2 i (fun p => { p with full := false, half := h })) i .training) (fun r => { r with ports := r.ports ++ [i] })

/-- R325: LANE_LOST. -/
def execLaneLost (port lane : Nat) (s : State) : Out1 := .next (laneLost s port lane)

/-! ## Slides across devices (R406 to R409) -/

/-- R406: the fabric ids that groups of bound collective records of admitted plans name. -/
def boundMembers (s : State) : List Nat :=
  ((admittedPlans s).map (fun p => p.body.elim [] (fun b =>
    ((b.colls.filter (·.bound)).map (fun c => (b.groups[c.group]?).elim [] (·.members))).flatten))).flatten.eraseDups

/-- R406: the direct partners to whom a SLIDE goes. -/
def slidePartners (s : State) : List Nat :=
  (boundMembers s).filter (fun f => f != s.dev.fabric.toNat && !(directPorts s f).isEmpty)

/-- R406: the data of a SLIDE message. -/
def slideData (origin t d : Nat) : List Byte := leBytes (1 + origin * 2 ^ 8) 8 ++ leBytes t 8 ++ leBytes d 8

/-- R406, R407: a SLIDE message goes to every partner. -/
def sendSlides (s : State) (data : List Byte) : State := (slidePartners s).foldl (fun s f => sendFw s f 2 data) s

/-- R409: the greatest slide known for a system tick. -/
def knownSlide (s : State) (t : Tick) : Nat := maxBy (s.slides.filter (fun v => v.2.1 == t)) (·.2.2)

/-- R407: a slide is applied once for an origin and a tick. -/
def noteSlide (s : State) (origin : Nat) (t : Tick) (d : Nat) : State := { s with slides := s.slides ++ [(origin, t, d)] }

/-- R71, R407, R409: a slide of `d` for local tick `t`: at the boundary that ends `t`, or at once; beyond a smaller slide for the
same tick only while no step has been released at that one. -/
def slideFor (s : State) (t old d : Nat) : State :=
  let n := s.tick.num.toNat
  if d ≤ old then s
  else if n ≤ t then { s with slideDue := s.slideDue.filter (fun v => v.1 != t) ++ [(t, d)] }
  else if old = 0 then slideBy s t t d
  else if n < t + old || (n == t + old && !s.tick.released) then slideBy s t (t + old) (d - old)
  else s

/-! ## Service resumes (R71, R399) -/

/-- R399: may service resume: no restore program runs, no port retrains? -/
def mayResume (s : State) (r : Recov) : Bool :=
  !s.threads.any (·.restore)
  && r.ports.all (fun i => !((getPort s i).retrain && ((getPort s i).state == .training || (getPort s i).state == .hello)))

/-- R71: the smallest d such that the release point of tick t + d falls at or after now. -/
def slideLength (s : State) (t : Nat) : Nat := (if s.tick.released then s.tick.num.toNat + 1 else s.tick.num.toNat) - t

/-- R71, R399, R406: the slide of a recovery in which a step lost work. -/
def slideNow (s : State) (r : Recov) : State :=
  let d := slideLength s r.tick
  if d = 0 then s
  else
    let old := knownSlide s r.sysTick
    let own := s.dev.fabric.toNat
    slideFor (noteSlide (sendSlides s (slideData own r.sysTick.toNat d)) own r.sysTick d) r.tick old d

/-- R399, R414: the recovery ends, and the coming audit recounts every book. -/
def endRecovery (s : State) (r : Recov) : State :=
  { s with recov := none, fullAudit := true, attic := { s.attic with repairDue := s.attic.repairDue ++ r.repairs } }

/-- R399: service resumes. Watches that the recovery put off decide now. -/
def serviceResume (s : State) (time : Nat) : State :=
  match s.recov with
  | none => s
  | some r =>
    if !alive s || !mayResume s r then s
    else
      let s1 := endRecovery { s with now := time } r
      let s2 := if r.lost then slideNow s1 r
        else if !s.tick.released && s.slideP.isNone && s.tick.begun && !r.rooms.isEmpty then lateWatch s1 else s1
      drive (settle s2)

/-- R399: SERVICE_RESUME. -/
def execServiceResume (time : Nat) (s : State) : Out1 := .next (serviceResume s time)

/-- R319: the next-hop port of a destination. -/
def hopOf (s : State) (dest : Nat) : Nat := (s.links.routes.find? (fun r => r.fabric == dest)).elim (Config.nextHop dest) (·.hop)

/-- R319: the bytes of a firmware message leave through the next-hop port, if it is UP. -/
def hopMsg (s : State) (dest : Nat) (bs : List Byte) : State :=
  if (getPort s (hopOf s dest)).state == .up then
    modPort s (hopOf s dest) (fun p => pump { p with queue := p.queue ++ msgFlits 0 bs })
  else s

/-- R318, R319: a firmware message for another device goes on toward it, by a direct port of it or by its next-hop port. -/
def passOn (s : State) (m : Msg) : State :=
  if (directPorts s (msgDest m)).isEmpty then hopMsg (releaseMsg (takeMsg s m) m) (msgDest m) m.bytes
  else putMsg (releaseMsg (takeMsg s m) m) (msgDest m) 0 m.bytes

/-- R407: a SLIDE for this device. -/
def takeSlide (s : State) (m : Msg) : State :=
  let data := msgData m
  let origin := fieldAt data 0 8 12
  let t := BitVec.ofNat 48 (getLE data 8 6)
  let d := getLE data 16 2
  if s.slides.any (fun v => v.1 == origin && v.2.1 == t) then s
  else
    let old := knownSlide s t
    let s1 := sendSlides (logFault s { code := 0x0206, d0 := origin, d1 := d }) data
    slideFor { (noteSlide s1 origin t d) with slideP := none } (sysToLocal s t.toNat) old d

/-- R318, R407: a SLIDE message arrives. -/
def slideIn (s : State) (m : Msg) : State :=
  if !alive s || !arrived s m || msgType m != 2 || getLE (msgData m) 0 1 != 1 then s
  else if msgDest m != s.dev.fabric.toNat then passOn s m
  else if !msgNext s m then s
  else drive (takeSlide (releaseMsg (bumpRx s m) m) m)

/-- R407: SLIDE. -/
def execSlide (msg : Msg) (s : State) : Out1 := .next (slideIn s msg)

/-! ## A silent or failed partner (R408, R413) -/

/-- R408: a plan whose step waits for the slide misses it. -/
def missWaiting (s : State) (p : Plan) : State :=
  match p.rerun, p.body with
  | some k, some b =>
    if (stepRecOf b k).any (·.bound) && !p.stopped then
      let s1 := missStep s p.key k false (some 0x3D)
      modPlan s1 p.key (fun p => { p with rerun := none })
    else s
  | _, _ => s

/-- R408: the ticks that slide pending has withheld. -/
def withheld (s : State) (t : Nat) : Nat := (if s.tick.released then s.tick.num.toNat else s.tick.num.toNat - 1) - t

/-- R408: slide pending ends without a slide: the waiting plans miss, and every plan slides by the ticks withheld. -/
def endPending (s : State) : State :=
  match s.slideP with
  | none => s
  | some q =>
    let s1 := (admittedPlans s).foldl missWaiting { s with slideP := none }
    finishStops (slideBy s1 q.1 (q.1 + 1) (withheld s q.1))

/-- R408: 2 ms of slide pending. -/
def peerSilent (s : State) : State :=
  match s.slideP with
  | none => s
  | some q => if !alive s then s else drive (settle (endPending (logFault s { code := 0x0207, d0 := q.2, d1 := withheld s q.1 })))

/-- R408: PEER_SILENT. -/
def execPeerSilent (s : State) : Out1 := .next (peerSilent s)

/-- R413: the waiting steps of plans whose groups name a failed device will miss with `cause` FAULT. -/
def blamePartner (f : Nat) (s : State) (p : Plan) : State :=
  if p.body.any (fun b => b.groups.any (fun g => g.members.contains f))
    && (s.links.awaits.any (fun a => a.tid.key == p.key && a.dest == f) || (planTh s p.key).any (fun x => x.xfers.any (fun q =>
         (thColl s x.tid q.coll).any (fun c => c.g.members.getD q.peer 0xFFF == f)))) then
    setCause s p.key 0x3D
  else s

/-- R326, R413: the ports toward a partner: its direct ports, those that retrain toward it, and the one its FAILSTOP came by. -/
def portsToward (s : State) (f port : Nat) : List Nat :=
  (List.range 18).filter (fun i => i == port || (directPorts s f).contains i
    || ((getPort s i).retrain && (getPort s i).partner.any (fun q => q.fabric == f)))

/-- R326, R413: a partner has failed stop: its ports go DOWN, and it leaves the routing table. -/
def partnerFailed (s : State) (f port : Nat) : State :=
  let s1 := (admittedPlans s).foldl (blamePartner f) s
  let ports := (portsToward s f port).filter (fun i => (getPort s i).state != .quarantined && (getPort s i).state != .down)
  drive (settle (endPending (ports.foldl (fun s i => leaveUp s i .down) s1)))

/-- R413: FAILSTOP_MESSAGE. -/
def failstopIn (s : State) (m : Msg) : State :=
  if !alive s || !arrived s m || msgType m != 3 then s
  else if msgDest m != s.dev.fabric.toNat then passOn s m
  else if !msgNext s m then s
  else partnerFailed (releaseMsg (bumpRx s m) m) (msgSrc m) m.port

def execFailstopMessage (msg : Msg) (s : State) : Out1 := .next (failstopIn s msg)

/-- R326: FAILSTOP_FLIT: a CTRL flit of this kind from a partner. -/
def execFailstopFlit (port : Nat) (flit : List Byte) (s : State) : Out1 :=
  .next (rxFlit s port flit 4 (fun s f =>
    if getLE f.payload 0 1 = 5 && (getPort s port).state == .up then
      partnerFailed s ((getPort s port).partner.elim 0xFFF (·.fabric)) port
    else s))

/-! ## Fail-stop (R397, R411) -/

/-- R326, R411, R413: the data of a FAILSTOP message: the system tick of the trigger. -/
def failstopData (s : State) : List Byte := leBytes (2 + s.dev.failCode.toNat * 2 ^ 16) 8 ++ leBytes s.dev.failTick.toNat 8

/-- R326, R411: every port goes DOWN after the announcement. -/
def portDown (p : Port) : Port := { (clearLink p) with state := .down }

/-- R326, R411: the announcement: the FAILSTOP message to every destination, then every port DOWN. -/
def announce (s : State) : State :=
  if !s.dev.failstop || s.dev.announced then s
  else
    let s1 := s.links.routes.foldl (fun s r => sendFw s r.fabric 3 (failstopData s)) s
    { s1 with dev := { s1.dev with announced := true }, links := { s1.links with ports := s1.links.ports.map portDown, routes := [] } }

/-- R411: FAILSTOP: a FATAL trigger, where the device has not failed yet, and its announcement. -/
def failstopNow (s : State) (code : BitVec 16) (d0 d1 : DWord) : State :=
  if s.dev.failstop then announce s
  else if alive s && faultSev code.toNat = 4 then announce (failStop s { code := code.toNat, d0 := d0.toNat, d1 := d1.toNat })
  else s

def execFailstop (code : BitVec 16) (detail0 detail1 : DWord) (s : State) : Out1 := .next (failstopNow s code detail0 detail1)

/-- R397: the newest records are saved once after fail-stop. -/
def saveLog (s : State) : State :=
  if s.dev.failstop && !s.dev.saved then
    { s with dev := { s.dev with saved := true }, attic := { s.attic with saved := s.flog.newest.take 4096 } }
  else s

/-- R397: FAULT_LOG_SAVE. -/
def execFaultLogSave (s : State) : Out1 := .next (if s.pwr.supply then saveLog s else s)

end Sys2Proof.Machine
end

