-- ==== Sys2Proof/Machine/Module.lean ====
section
/-! DEFINITION. Heat, droop, caps and sensors (R418, R420, R423, R424), the supply and the reference clock (R415, R416, R464), PERST#
and start-up (R425 to R434), and the test port (R467). -/
namespace Sys2Proof.Machine

/-! ## Heat and droop (R423, R424) -/

/-- R423: is THERM_N driven low: from 105 °C until every floor has fallen below 103 °C? -/
def thermDriven (p : Pwr) : Bool := p.temps.any (fun t => decide (1050 ≤ t)) || (p.thermLow && !p.temps.all (fun t => decide (t < 1030)))

/-- R422, R423: a sample of a floor's hottest junction. -/
def heatSample (s : State) (floor temp : Nat) : State :=
  let was := s.pwr.temps.getD floor 0
  let p := { s.pwr with temps := upd s.pwr.temps floor (fun _ => temp), tickMax := max s.pwr.tickMax temp }
  { s with pwr := { p with thermLow := thermDriven p, thermEvent := if was < 1050 && 1050 ≤ temp then hitFlag p.thermEvent else p.thermEvent } }

/-- R423: the device trips at 115 °C, and the boilers remove every ARRAY rail. -/
def heatTrip (s : State) (floor temp : Nat) : State :=
  if 1150 ≤ temp then
    let s1 := failStop s { code := 0x0505, d0 := floor, d1 := temp }
    { s1 with pwr := { s1.pwr with array := false } }
  else s

/-- R423: THERMAL_EVENT. -/
def execThermalEvent (floor temp : Nat) (s : State) : Out1 :=
  .next (if alive s && floor < 8 then heatTrip (heatSample s floor temp) floor temp else s)

/-- R424: a floor's array clock begins to stretch. -/
def droopBegin (s : State) (floor time : Nat) : State :=
  if alive s && s.pwr.array && floor < 8 && !s.pwr.droops.any (fun d => d.1 == floor) then
    { s with now := time, pwr := { s.pwr with droops := s.pwr.droops ++ [(floor, time)] } }
  else s

/-- R424: DROOP_DETECT. -/
def execDroopDetect (floor time : Nat) (s : State) : Out1 := .next (droopBegin s floor time)

/-- R424: the rail is back within 2 %, and the stretch ends. -/
def droopEnd (s : State) (floor time : Nat) : State :=
  match s.pwr.droops.find? (fun d => d.1 == floor) with
  | none => s
  | some d =>
    if alive s then
      { s with now := time, pwr := { s.pwr with
          droops := s.pwr.droops.filter (fun d => d.1 != floor), stretched := upd s.pwr.stretched floor (· + (time - d.2)) } }
    else s

/-- R424: DROOP_RECOVERY. -/
def execDroopRecovery (floor time : Nat) (s : State) : Out1 := .next (droopEnd s floor time)

/-- R424: 1,000 ticks without an excess; the set point goes back toward 0.70 V (DEDUCED 35). -/
def stepBack (s : State) (floor : Nat) : State :=
  if alive s && floor < 8 && 1000 ≤ s.pwr.quiet.getD floor 0 && 700 < s.pwr.setPoint.getD floor 700 then
    { s with pwr := { s.pwr with setPoint := upd s.pwr.setPoint floor (· - 10), quiet := upd s.pwr.quiet floor (fun _ => 0) } }
  else s

/-- R424: SETPOINT_STEP_BACK. -/
def execSetpointStepBack (floor : Nat) (s : State) : Out1 := .next (stepBack s floor)

/-! ## Board management (R418, R420, R467) -/

/-- R418, R420: an effecter is written; lowered caps are in force at once. -/
def boardCap (s : State) (exc : Bool) (watts : Nat) : State :=
  if !s.pwr.supply then s
  else
    let s1 := if exc then { s with pwr := { s.pwr with boardExc := some watts } } else { s with pwr := { s.pwr with boardCont := some watts } }
    if alive s then lowerCaps s1 else s1

/-- R420: BOARD_CAP_WRITE. -/
def execBoardCapWrite (exc : Bool) (watts : Nat) (s : State) : Out1 := .next (boardCap s exc watts)

/-- R418: the value of a sensor; what the input draws is not in the model's state, and is free. -/
def sensorValue (s : State) : Sensor → Nat × State
  | .inputPower => let (v, s1) := freshBits s 32; (v.toNat, s1)
  | .inputVoltage => let (v, s1) := freshBits s 32; (v.toNat, s1)
  | .junction floor => (s.pwr.temps.getD floor 0, s)
  | .metTick => (s.pwr.met.toNat, s)

/-- R418: a sensor is read over SMBus. -/
def sensorRead (s : State) (q : Sensor) : State :=
  if !s.pwr.supply then s
  else
    let (v, s1) := sensorValue s q
    { s1 with dev := { s1.dev with sensor := v } }

/-- R418: PLDM_SENSOR_READ. -/
def execPldmSensorRead (sensor : Sensor) (s : State) : Out1 := .next (sensorRead s sensor)

/-- R467: instructions other than IDCODE and BYPASS are taken only while PERST# is asserted. -/
def jtagTaken (s : State) (i : JtagIns) : JtagIns := if s.pwr.perst || i == .idcode then i else .bypass

/-- R467: JTAG_INSTRUCTION. -/
def execJtagInstruction (ins : JtagIns) (s : State) : Out1 :=
  .next (if s.pwr.supply then { s with dev := { s.dev with jtag := jtagTaken s ins } } else s)

/-! ## Supply, clock and reset (R412, R415, R416, R426, R464, R465) -/

/-- R427: the copy of a configuration whose write was torn is not valid. -/
def tornCfg (a : Attic) : Attic :=
  if a.updates.any (fun u => u.started && !u.fw) then (if a.active then { a with cfg0 := none } else { a with cfg1 := none }) else a

/-- R427: what the attic keeps without power. -/
def atticKept (a : Attic) : Attic :=
  let b := tornCfg a
  { cfg0 := b.cfg0, cfg1 := b.cfg1, slot0 := b.slot0, slot1 := b.slot1, rep0 := b.rep0, rep1 := b.rep1, led0 := b.led0, led1 := b.led1,
    helper := b.helper, saved := b.saved, images := b.images }

/-- R415, R416, R437: the block after loss of the supply, or at PERST#: as at reset, but for the attic and the world outside. -/
def coldState (s : State) : State :=
  { State.reset with pending := s.pending, free := s.free, now := s.now, attic := atticKept s.attic, host := s.host }

/-- R415: the supply is lost: the boilers shut down. -/
def supplyGone (s : State) : State :=
  if !s.pwr.supply then s
  else
    let c := coldState s
    { c with pwr := { c.pwr with supply := false } }

/-- R415: SUPPLY_LOSS. -/
def execSupplyLoss (s : State) : Out1 := .next (supplyGone s)

/-- R461: the SMBus address that the straps select. -/
def strapAddr (sel1 sel0 : Bool) : BitVec 7 := BitVec.ofNat 7 (0x60 + 2 * b2n sel1 + b2n sel0)

/-- R416, R461: the supply enters its range: SOC and AUX come up, and the straps are sampled. -/
def supplyUp (s : State) (sel1 sel0 : Bool) : State :=
  if s.pwr.supply then s else { s with pwr := { s.pwr with supply := true }, dev := { s.dev with smbus := strapAddr sel1 sel0 } }

/-- R416: SUPPLY_IN_RANGE. -/
def execSupplyInRange (sel1 sel0 : Bool) (s : State) : Out1 := .next (supplyUp s sel1 sel0)

/-- R464: the reference clock is lost: DIE_FAIL names the hall. -/
def clockLost (s : State) : State :=
  let s1 := { s with pwr := { s.pwr with refclk := false } }
  if alive s then failStop s1 { code := 0x0506, d0 := 4 * 256 } else s1

/-- R464: REFCLK_LOSS. -/
def execRefclkLoss (s : State) : Out1 := .next (clockLost s)

/-- R426, R437, R465: PERST# is asserted: a save of the fault log completes, and everything else starts anew. The SMBus endpoint
and the test port do not notice. -/
def perstDown (s : State) : State :=
  if !s.pwr.supply || s.pwr.perst then s
  else
    let c := coldState (saveLog s)
    { c with
      pwr := { c.pwr with boardCont := s.pwr.boardCont, boardExc := s.pwr.boardExc, refclk := s.pwr.refclk },
      dev := { c.dev with smbus := s.dev.smbus, jtag := s.dev.jtag, sensor := s.dev.sensor } }

/-- R426: PERST_ASSERT. -/
def execPerstAssert (s : State) : Out1 := .next (perstDown s)

/-! ## Start-up (R425 to R434) -/

/-- R431: which copy is active: the valid one with the higher `seq`; none when neither is valid. -/
def chooseCfg (a b : Option Cfg) : Option Bool :=
  match a, b with
  | some x, some y => some (decide (x.seq.toNat < y.seq.toNat))
  | some _, none => some false
  | none, some _ => some true
  | none, none => none

/-- R427, R431: both copies are read, the active one is chosen, and an invalid one is rewritten from it. -/
def bootCfg (s : State) : State × Bool :=
  let a := s.attic.cfg0.filter (cfgValid s)
  let b := s.attic.cfg1.filter (cfgValid s)
  match chooseCfg a b with
  | none => ({ s with attic := { s.attic with cfg0 := none, cfg1 := none } }, false)
  | some k => ({ s with attic := { s.attic with active := k, cfg0 := some (a.getD (b.getD {})), cfg1 := some (b.getD (a.getD {})) } }, true)

/-- R434: the slot that start-up runs: `boot_slot` first, then the other. -/
def bootSlot (s : State) : Option Bool :=
  let k := (activeCfg s).any (·.bootSlot)
  if (slotOfBundle s k).any (bundleOk s) then some k else if (slotOfBundle s !k).any (bundleOk s) then some !k else none

/-- R405: parts that stay out of service: PERMANENT ones, and those whose self test fails. -/
def bootRetired (s : State) (failed : List Part) : List Part :=
  (((repairMap s.attic).filter (·.permanent)).map (·.part) ++ failed).eraseDups

/-- R405: a part whose self test fails enters the repair map as PERMANENT. -/
def bootRepair (s : State) (failed : List Part) : List Repair :=
  (failed.map (fun q => ({ part := q, permanent := true } : Repair))).foldl mapEntry (repairMap s.attic)

/-- Is a part a room of the wing? -/
def roomOf (wing : Nat) : Part → Bool
  | .room w _ => w == wing
  | _ => false

/-- Is a part a core of the floor? -/
def coreOf (floor : Nat) : Part → Bool
  | .floorCore f _ => f == floor
  | _ => false

/-- Is a part a hall core? -/
def isHall : Part → Bool
  | .hallCore _ => true
  | _ => false

/-- R13, R405: usable rooms of a wing, of its 66. -/
def usableRooms (l : List Part) (wing : Nat) : Nat := 66 - (l.filter (roomOf wing)).length
/-- R405: usable floor cores of a floor. -/
def usableCores (l : List Part) (floor : Nat) : Nat := 4 - (l.filter (coreOf floor)).length
/-- R405: usable hall cores. -/
def usableHall (l : List Part) : Nat := 16 - (l.filter isHall).length

/-- R426: one record, and its cause for `BOOT_CAUSE`. -/
structure BootFault where
  cause  : Nat
  code   : Nat
  d0     : Nat
  d1     : Nat

/-- R426: what keeps the device out of service, found in the order of R425; a cause without a record has code 0. -/
def bootFaults (cfgOk slotOk : Bool) (l : List Part) (obs : BootObs) : List BootFault :=
  if !obs.identityOk then [{ cause := 2, code := 0x0600, d0 := 0, d1 := 0 }]
  else if !cfgOk then [{ cause := 5, code := 0, d0 := 0, d1 := 0 }]
  else if !slotOk then [{ cause := 1, code := 0, d0 := 0, d1 := 0 }]
  else if !obs.lostChannels.isEmpty then
    obs.lostChannels.map (fun q => { cause := 4, code := 0x0602, d0 := cellarDetail q.1 q.2, d1 := 0 })
  else
    ((List.range 96).filter (fun w => usableRooms l w < 64)).map (fun w => { cause := 3, code := 0x0601, d0 := w, d1 := usableRooms l w })
    ++ ((List.range 8).filter (fun f => usableCores l f < 3)).map (fun f => { cause := 6, code := 0x0603, d0 := f, d1 := usableCores l f })
    ++ (if usableHall l < 15 then [{ cause := 6, code := 0x0603, d0 := 8, d1 := usableHall l }] else [])

/-- R14, R405: the spare that holds logical position `n` of a wing, when slot `n` is out of service: S0, then S1. -/
def bootBound (l : List Part) : List (Nat × Nat) :=
  ((List.range 96).map (fun w =>
    let bad := (List.range 64).filter (fun n => l.contains (.room w n))
    let spares := [64, 65].filter (fun k => !l.contains (.room w k))
    (bad.zip spares).map (fun q => (w * 64 + q.1, q.2)))).flatten

/-- R19, R405: the retired hall core whose duty H15 holds at start. -/
def bootDuty (l : List Part) : Option Nat := (List.range 15).find? (fun c => l.contains (.hallCore c))

/-- R397: a saved record goes to the PF's ring again. -/
def carried (r : FaultRec) : FaultRec := { r with needPf := true, needVf := none }

/-- R397: PRIOR_BOOT and the saved records, before any other. -/
def bootLog (s : State) : State :=
  match s.attic.saved with
  | [] => s
  | r :: l =>
    let all := (r :: l).reverse
    let s1 := logFault s { code := 0x0407, d0 := all.length, d1 := r.seq.toNat }
    { s1 with flog := { s1.flog with waiting := s1.flog.waiting ++ all.map carried }, attic := { s1.attic with saved := [] } }

/-- R425: the latest time, after the release, at which ENABLE is set: 1,060 ms. -/
def bootEnable : Nat := 1696000000

/-- R429: a port as its record configures it: enabled ports train; `f` is the device's `fabric_id`. -/
def bootPort (f : BitVec 12) (c : PortCfg) : Port :=
  { self := f, mode := c.mode, maxRate := c.maxRate, vlan := c.vlan, vlanId := c.vlanId, weights := c.weights, allot := c.allot, mac := c.mac,
    state := if c.mode == .off then .down else .training }

/-- R421, R428, R444: what the active configuration copy sets at start. -/
def bootSettings (s : State) (c : Cfg) : State :=
  boundaryCaps { s with
    pwr := { s.pwr with cap := BitVec.ofNat 32 (c.capCont.toNat + c.capExc.toNat * 2 ^ 16) },
    dev := { s.dev with fabric := c.fabricId } }

/-- R434: the bundle that runs. -/
def bootBundle (s : State) (k : Bool) : State :=
  { s with dev := { s.dev with bundle := slotOfBundle s k, slot := k, fallback := (activeCfg s).any (fun c => c.bootSlot != k) } }

/-- R425, R429: into service: rails, ports, the tick generator. -/
def enterService (s : State) (c : Cfg) (time : Nat) : State :=
  let t := { s.tick with ctl := BitVec.ofNat 32 (1 + 2 * c.tickCtl.toNat), period := c.tickPer }
  let s1 := { s with
    dev := { s.dev with state := .inService }, pwr := { s.pwr with rails := true, array := true },
    links := { s.links with ports := c.ports.map (bootPort c.fabricId) }, now := time + bootEnable }
  tickEvent s.tick false { s1 with tick := startTick t (time + bootEnable) }

/-- R426: into the recovery state, with its cause and its records. -/
def enterRecovery (s : State) (l : List BootFault) : State :=
  let s1 := { s with dev := { s.dev with state := .recovery, bootCause := BitVec.ofNat 4 (l.head?.elim 0 (·.cause)) } }
  (l.filter (fun f => f.code != 0)).foldl (fun s f => logFault s { code := f.code, d0 := f.d0, d1 := f.d1 }) s1

/-- R427: a copy that is not valid is rewritten from the other at start. -/
def mendCopies (a : Attic) : Attic :=
  { a with rep0 := a.rep0.or a.rep1, rep1 := a.rep1.or a.rep0, led0 := a.led0.or a.led1, led1 := a.led1.or a.led0 }

/-- R405: the parts whose self test fails are written to the repair map. -/
def bootMap (s : State) (failed : List Part) : Attic :=
  let a := mendCopies s.attic
  if failed.isEmpty then a else storeRepairs a (bootRepair s failed)

/-- R405, R425, R427: the hardware as start-up finds it. -/
def bootHw (s : State) (l : List Part) (failed : List Part) : State :=
  { s with
    hw := { s.hw with retired := l, bound := bootBound l, duty := bootDuty l },
    attic := { bootMap s failed with ledgerNext := max 1 (ledgerCopy s.attic).blockEnd } }

/-- R425: start-up from the release of PERST#. -/
def startUp (s : State) (time : Nat) (obs : BootObs) : State :=
  let s0 := bootLog { s with
    pwr := { s.pwr with perst := false, refclk := true }, now := time, dev := { s.dev with secret := Config.pufSecret s.attic.helper } }
  let (s1, cfgOk) := bootCfg s0
  let k := if cfgOk then bootSlot s1 else none
  let l := bootRetired s1 obs.failedParts
  let bad := bootFaults cfgOk k.isSome l obs
  let s2 := (activeCfg s1).elim s1 (bootSettings s1)
  let s3 := k.elim s2 (bootBundle s2)
  let s4 := fillBoot (fillSlots (bootHw s3 l obs.failedParts))
  match bad, activeCfg s4 with
  | [], some c => enterService s4 c time
  | _, _ => enterRecovery s4 bad

/-- R425: PERST_RELEASE. -/
def execPerstRelease (time : Nat) (obs : BootObs) (s : State) : Out1 :=
  .next (if s.pwr.supply && s.pwr.perst then startUp s time obs else s)

end Sys2Proof.Machine
end

