-- ==== Sys2Proof/Machine/Dispatch.lean ====
section
/-! DEFINITION. exec: one arm per command, a direct call of its meaning, or a rejection by name. -/
namespace Sys2Proof.Machine

/-- The effect of a command on everything but the queue. -/
def exec (i : Instr) (s : State) : Host.Outcome State Fault Refusal :=
  match i with
  | .tickBoundary => Sys2Proof.Machine.execTickBoundary s
  | .reclaimSetFix => Sys2Proof.Machine.execReclaimSetFix s
  | .releasePoint => Sys2Proof.Machine.execReleasePoint s
  | .tokenSettlement => Sys2Proof.Machine.execTokenSettlement s
  | .bookAudit => Sys2Proof.Machine.execBookAudit s
  | .boilerSample boiler energies => Sys2Proof.Machine.execBoilerSample boiler energies s
  | .tickInEdge time => Sys2Proof.Machine.execTickInEdge time s
  | .tickFlitReceive port time flit => Sys2Proof.Machine.execTickFlitReceive port time flit s
  | .referenceMissing role => Sys2Proof.Machine.execReferenceMissing role s
  | .holdoverTimeout => Sys2Proof.Machine.execHoldoverTimeout s
  | .tickEnable time value => Sys2Proof.Machine.execTickEnable time value s
  | .tickDisable time value => Sys2Proof.Machine.execTickDisable time value s
  | .tickSourceChange time value => Sys2Proof.Machine.execTickSourceChange time value s
  | .tickAltSourceChange time value => Sys2Proof.Machine.execTickAltSourceChange time value s
  | .tickOutEnable time value => Sys2Proof.Machine.execTickOutEnable time value s
  | .tickPeriodWrite value => Sys2Proof.Machine.execTickPeriodWrite value s
  | .tickSysOffsetLoWrite value => Sys2Proof.Machine.execTickSysOffsetLoWrite value s
  | .tickSysOffsetHiWrite value => Sys2Proof.Machine.execTickSysOffsetHiWrite value s
  | .tickNowLoRead => Sys2Proof.Machine.execTickNowLoRead s
  | .pwrMetLoRead => Sys2Proof.Machine.execPwrMetLoRead s
  | .flogNewestLoRead => Sys2Proof.Machine.execFlogNewestLoRead s
  | .pwrCapWrite value => Sys2Proof.Machine.execPwrCapWrite value s
  | .w1cFlagClear fn offset value sets => Sys2Proof.Machine.execW1cFlagClear fn offset value sets s
  | .registerWrite fn offset size time value => Sys2Proof.Machine.execRegisterWrite fn offset size time value s
  | .crOpen fn value => Sys2Proof.Machine.execCrOpen fn value s
  | .crClose fn value => Sys2Proof.Machine.execCrClose fn value s
  | .crReset fn value => Sys2Proof.Machine.execCrReset fn value s
  | .faultRingEnable fn value => Sys2Proof.Machine.execFaultRingEnable fn value s
  | .ledgerRingEnable fn value => Sys2Proof.Machine.execLedgerRingEnable fn value s
  | .msixModWrite fn vector value => Sys2Proof.Machine.execMsixModWrite fn vector value s
  | .contextAssignWrite ctx word value => Sys2Proof.Machine.execContextAssignWrite ctx word value s
  | .doorbellSqCq fn offset size value => Sys2Proof.Machine.execDoorbellSqCq fn offset size value s
  | .doorbellFaultHead fn line size value => Sys2Proof.Machine.execDoorbellFaultHead fn line size value s
  | .doorbellLedgerHead fn line size value => Sys2Proof.Machine.execDoorbellLedgerHead fn line size value s
  | .descriptorFetchTimeout ctx => Sys2Proof.Machine.execDescriptorFetchTimeout ctx s
  | .completionWrite ctx => Sys2Proof.Machine.execCompletionWrite ctx s
  | .nop desc => Sys2Proof.Machine.execNop desc s
  | .badOpcode opcode desc => Sys2Proof.Machine.execBadOpcode opcode desc s
  | .plan desc => Sys2Proof.Machine.execPlan desc s
  | .planAdmission key => Sys2Proof.Machine.execPlanAdmission key s
  | .planWithdraw desc => Sys2Proof.Machine.execPlanWithdraw desc s
  | .move desc data => Sys2Proof.Machine.execMove desc data s
  | .pageWrite desc entries => Sys2Proof.Machine.execPageWrite desc entries s
  | .pagePublish desc => Sys2Proof.Machine.execPagePublish desc s
  | .pageCreate desc => Sys2Proof.Machine.execPageCreate desc s
  | .pageDestroy desc => Sys2Proof.Machine.execPageDestroy desc s
  | .tickWait desc => Sys2Proof.Machine.execTickWait desc s
  | .ctxOpen desc => Sys2Proof.Machine.execCtxOpen desc s
  | .ctxClose desc => Sys2Proof.Machine.execCtxClose desc s
  | .imageStore desc image => Sys2Proof.Machine.execImageStore desc image s
  | .imageLoad desc => Sys2Proof.Machine.execImageLoad desc s
  | .imageLoadComplete ctx imageId bad => Sys2Proof.Machine.execImageLoadComplete ctx imageId bad s
  | .imageDelete desc => Sys2Proof.Machine.execImageDelete desc s
  | .fwUpdate desc bundle => Sys2Proof.Machine.execFwUpdate desc bundle s
  | .configUpdate desc config => Sys2Proof.Machine.execConfigUpdate desc config s
  | .attest desc => Sys2Proof.Machine.execAttest desc s
  | .streamOpen desc params => Sys2Proof.Machine.execStreamOpen desc params s
  | .codecJob desc => Sys2Proof.Machine.execCodecJob desc s
  | .codecJobStart ctx stream => Sys2Proof.Machine.execCodecJobStart ctx stream s
  | .codecJobComplete ctx stream => Sys2Proof.Machine.execCodecJobComplete ctx stream s
  | .streamClose desc => Sys2Proof.Machine.execStreamClose desc s
  | .streamRingPoll ctx stream consumed => Sys2Proof.Machine.execStreamRingPoll ctx stream consumed s
  | .codecEngine engine => Sys2Proof.Machine.execCodecEngine engine s
  | .ledgerRecordWrite fn => Sys2Proof.Machine.execLedgerRecordWrite fn s
  | .faultRecordWrite fn => Sys2Proof.Machine.execFaultRecordWrite fn s
  | .hostAccessFail access err addr => Sys2Proof.Machine.execHostAccessFail access err addr s
  | .atsInvalidation fn pasid => Sys2Proof.Machine.execAtsInvalidation fn pasid s
  | .ideTlpOutsideStream fn => Sys2Proof.Machine.execIdeTlpOutsideStream fn s
  | .ideStreamLoss fn => Sys2Proof.Machine.execIdeStreamLoss fn s
  | .doeSpdmRequest request => Sys2Proof.Machine.execDoeSpdmRequest request s
  | .msixDelayExpiry fn vector => Sys2Proof.Machine.execMsixDelayExpiry fn vector s
  | .msixPerTick => Sys2Proof.Machine.execMsixPerTick s
  | .flrVf fn => Sys2Proof.Machine.execFlrVf fn s
  | .flrPf => Sys2Proof.Machine.execFlrPf s
  | .powerStateWrite fn d3hot => Sys2Proof.Machine.execPowerStateWrite fn d3hot s
  | .roomNop t ii => Sys2Proof.Machine.execRoomNop t ii s
  | .stepEnd t ii => Sys2Proof.Machine.execStepEnd t ii s
  | .progEnd t ii => Sys2Proof.Machine.execProgEnd t ii s
  | .jump t ii => Sys2Proof.Machine.execJump t ii s
  | .call t ii => Sys2Proof.Machine.execCall t ii s
  | .ret t ii => Sys2Proof.Machine.execRet t ii s
  | .repeatLoop t ii => Sys2Proof.Machine.execRepeatLoop t ii s
  | .trap t ii => Sys2Proof.Machine.execTrap t ii s
  | .sadd t ii => Sys2Proof.Machine.execSadd t ii s
  | .ssub t ii => Sys2Proof.Machine.execSsub t ii s
  | .smul t ii => Sys2Proof.Machine.execSmul t ii s
  | .sand t ii => Sys2Proof.Machine.execSand t ii s
  | .sor t ii => Sys2Proof.Machine.execSor t ii s
  | .sxor t ii => Sys2Proof.Machine.execSxor t ii s
  | .sshl t ii => Sys2Proof.Machine.execSshl t ii s
  | .sshr t ii => Sys2Proof.Machine.execSshr t ii s
  | .smin t ii => Sys2Proof.Machine.execSmin t ii s
  | .smax t ii => Sys2Proof.Machine.execSmax t ii s
  | .sli t ii => Sys2Proof.Machine.execSli t ii s
  | .scmp t ii => Sys2Proof.Machine.execScmp t ii s
  | .sldc t ii => Sys2Proof.Machine.execSldc t ii s
  | .srd t ii => Sys2Proof.Machine.execSrd t ii s
  | .sld t ii => Sys2Proof.Machine.execSld t ii s
  | .sst t ii => Sys2Proof.Machine.execSst t ii s
  | .mmaF t ii => Sys2Proof.Machine.execMmaF t ii s
  | .mmaB0 t ii => Sys2Proof.Machine.execMmaB0 t ii s
  | .mmaB1 t ii => Sys2Proof.Machine.execMmaB1 t ii s
  | .accZero t ii => Sys2Proof.Machine.execAccZero t ii s
  | .accOut t ii => Sys2Proof.Machine.execAccOut t ii s
  | .accIn t ii => Sys2Proof.Machine.execAccIn t ii s
  | .nest t ii => Sys2Proof.Machine.execNest t ii s
  | .vld t ii => Sys2Proof.Machine.execVld t ii s
  | .vst t ii => Sys2Proof.Machine.execVst t ii s
  | .vlda t ii => Sys2Proof.Machine.execVlda t ii s
  | .vsta t ii => Sys2Proof.Machine.execVsta t ii s
  | .vadd t ii => Sys2Proof.Machine.execVadd t ii s
  | .vsub t ii => Sys2Proof.Machine.execVsub t ii s
  | .vmul t ii => Sys2Proof.Machine.execVmul t ii s
  | .vfma t ii => Sys2Proof.Machine.execVfma t ii s
  | .vmax t ii => Sys2Proof.Machine.execVmax t ii s
  | .vmin t ii => Sys2Proof.Machine.execVmin t ii s
  | .vcmp t ii => Sys2Proof.Machine.execVcmp t ii s
  | .vsel t ii => Sys2Proof.Machine.execVsel t ii s
  | .vbc t ii => Sys2Proof.Machine.execVbc t ii s
  | .vred t ii => Sys2Proof.Machine.execVred t ii s
  | .vidx t ii => Sys2Proof.Machine.execVidx t ii s
  | .vrng t ii => Sys2Proof.Machine.execVrng t ii s
  | .fnTable t ii => Sys2Proof.Machine.execFnTable t ii s
  | .fnMicro t ii => Sys2Proof.Machine.execFnMicro t ii s
  | .rstat t ii => Sys2Proof.Machine.execRstat t ii s
  | .tblLoad t ii => Sys2Proof.Machine.execTblLoad t ii s
  | .dmaIn t ii => Sys2Proof.Machine.execDmaIn t ii s
  | .dmaOut t ii => Sys2Proof.Machine.execDmaOut t ii s
  | .dmaLate t => Sys2Proof.Machine.execDmaLate t s
  | .wallPut t ii => Sys2Proof.Machine.execWallPut t ii s
  | .haloLand t dir => Sys2Proof.Machine.execHaloLand t dir s
  | .haloWait t ii => Sys2Proof.Machine.execHaloWait t ii s
  | .gather t ii => Sys2Proof.Machine.execGather t ii s
  | .walkChunkLand t slot => Sys2Proof.Machine.execWalkChunkLand t slot s
  | .store t ii => Sys2Proof.Machine.execStore t ii s
  | .verifyOpen t ii => Sys2Proof.Machine.execVerifyOpen t ii s
  | .commit t ii => Sys2Proof.Machine.execCommit t ii s
  | .frameDecrementArrive frame => Sys2Proof.Machine.execFrameDecrementArrive frame s
  | .porchSend t ii => Sys2Proof.Machine.execPorchSend t ii s
  | .porchRecv t ii => Sys2Proof.Machine.execPorchRecv t ii s
  | .announce msg => Sys2Proof.Machine.execAnnounce msg s
  | .piece msg => Sys2Proof.Machine.execPiece msg s
  | .patom t ii => Sys2Proof.Machine.execPatom t ii s
  | .patomPerform t => Sys2Proof.Machine.execPatomPerform t s
  | .pred t ii => Sys2Proof.Machine.execPred t ii s
  | .predContribution t => Sys2Proof.Machine.execPredContribution t s
  | .flagSet t ii => Sys2Proof.Machine.execFlagSet t ii s
  | .flagWait t ii => Sys2Proof.Machine.execFlagWait t ii s
  | .flagWaitComplete t => Sys2Proof.Machine.execFlagWaitComplete t s
  | .fence t ii => Sys2Proof.Machine.execFence t ii s
  | .unitWait t ii => Sys2Proof.Machine.execUnitWait t ii s
  | .instructionComplete t unit => Sys2Proof.Machine.execInstructionComplete t unit s
  | .stepFinish key => Sys2Proof.Machine.execStepFinish key s
  | .roomHw room unit permanent badWords => Sys2Proof.Machine.execRoomHw room unit permanent badWords s
  | .roomWatchdogTimeout room => Sys2Proof.Machine.execRoomWatchdogTimeout room s
  | .restoreTimeout t => Sys2Proof.Machine.execRestoreTimeout t s
  | .serviceResume time => Sys2Proof.Machine.execServiceResume time s
  | .repairMapWrite => Sys2Proof.Machine.execRepairMapWrite s
  | .spareSelfTest wing spare pass => Sys2Proof.Machine.execSpareSelfTest wing spare pass s
  | .floorCoreFailure floor core missed => Sys2Proof.Machine.execFloorCoreFailure floor core missed s
  | .hallCoreFailure core => Sys2Proof.Machine.execHallCoreFailure core s
  | .hallWatchdog => Sys2Proof.Machine.execHallWatchdog s
  | .dieFail cls index => Sys2Proof.Machine.execDieFail cls index s
  | .memoryEccEvent tier addr correctable => Sys2Proof.Machine.execMemoryEccEvent tier addr correctable s
  | .patrolScrub cellar channel lines => Sys2Proof.Machine.execPatrolScrub cellar channel lines s
  | .cellarLoss cellar channel => Sys2Proof.Machine.execCellarLoss cellar channel s
  | .failstop code detail0 detail1 => Sys2Proof.Machine.execFailstop code detail0 detail1 s
  | .faultLogSave => Sys2Proof.Machine.execFaultLogSave s
  | .slide msg => Sys2Proof.Machine.execSlide msg s
  | .peerSilent => Sys2Proof.Machine.execPeerSilent s
  | .failstopMessage msg => Sys2Proof.Machine.execFailstopMessage msg s
  | .trainingComplete port full rate half => Sys2Proof.Machine.execTrainingComplete port full rate half s
  | .trainingRetry port => Sys2Proof.Machine.execTrainingRetry port s
  | .helloSend port => Sys2Proof.Machine.execHelloSend port s
  | .hello port flit => Sys2Proof.Machine.execHello port flit s
  | .helloAck port flit => Sys2Proof.Machine.execHelloAck port flit s
  | .dataFlitReceive port flit => Sys2Proof.Machine.execDataFlitReceive port flit s
  | .nak port flit => Sys2Proof.Machine.execNak port flit s
  | .idleFlitReceive port flit => Sys2Proof.Machine.execIdleFlitReceive port flit s
  | .replayTimerExpiry port ackNow => Sys2Proof.Machine.execReplayTimerExpiry port ackNow s
  | .echoSend port time => Sys2Proof.Machine.execEchoSend port time s
  | .echo port time flit => Sys2Proof.Machine.execEcho port time flit s
  | .echoReply port time flit => Sys2Proof.Machine.execEchoReply port time flit s
  | .failstopFlit port flit => Sys2Proof.Machine.execFailstopFlit port flit s
  | .laneLost port lane => Sys2Proof.Machine.execLaneLost port lane s
  | .deliveredSend => Sys2Proof.Machine.execDeliveredSend s
  | .delivered msg => Sys2Proof.Machine.execDelivered msg s
  | .priorityFlowControl port priority => Sys2Proof.Machine.execPriorityFlowControl port priority s
  | .thermalEvent floor temp => Sys2Proof.Machine.execThermalEvent floor temp s
  | .droopDetect floor time => Sys2Proof.Machine.execDroopDetect floor time s
  | .setpointStepBack floor => Sys2Proof.Machine.execSetpointStepBack floor s
  | .boardCapWrite exc watts => Sys2Proof.Machine.execBoardCapWrite exc watts s
  | .pldmSensorRead sensor => Sys2Proof.Machine.execPldmSensorRead sensor s
  | .jtagInstruction ins => Sys2Proof.Machine.execJtagInstruction ins s
  | .supplyInRange sel1 sel0 => Sys2Proof.Machine.execSupplyInRange sel1 sel0 s
  | .supplyLoss => Sys2Proof.Machine.execSupplyLoss s
  | .refclkLoss => Sys2Proof.Machine.execRefclkLoss s
  | .perstAssert => Sys2Proof.Machine.execPerstAssert s
  | .perstRelease time obs => Sys2Proof.Machine.execPerstRelease time obs s
  | .moveComplete ctx k => Sys2Proof.Machine.execMoveComplete ctx k s
  | .imageStoreComplete fn imageId => Sys2Proof.Machine.execImageStoreComplete fn imageId s
  | .fwUpdateComplete readBackOk => Sys2Proof.Machine.execFwUpdateComplete readBackOk s
  | .configUpdateComplete readBackOk => Sys2Proof.Machine.execConfigUpdateComplete readBackOk s
  | .trainingFailed port => Sys2Proof.Machine.execTrainingFailed port s
  | .droopRecovery floor time => Sys2Proof.Machine.execDroopRecovery floor time s
  | .vfEnableWrite enable numVfs => Sys2Proof.Machine.execVfEnableWrite enable numVfs s
  | .msixVectorMaskWrite fn vector mask => Sys2Proof.Machine.execMsixVectorMaskWrite fn vector mask s
  | .pfcPauseExpiry port priority => Sys2Proof.Machine.execPfcPauseExpiry port priority s

end Sys2Proof.Machine
end

