-- ==== Sys2Proof/Machine/ReadBack.lean ====
section
/-! DEFINITION. What the host reads of the device (R7, R83, R89, R90, R438 to R456): the identity with which a function enumerates, the
host link, and the value that a read of BAR0 or BAR2 returns. -/
namespace Sys2Proof.Machine

/-! ## The functions on the link (R83, R89, R90, R124) -/

/-- R89: what identifies a function. -/
structure Identity where
  vendor    : Half
  device    : Half
  classCode : BitVec 24
  subVendor : Half
  subsystem : Half
deriving DecidableEq, Repr

/-- R90: a memory BAR: its number, its size in bytes, and whether it is a 64-bit and a prefetchable one. -/
structure Bar where
  number : Nat
  size   : Nat
  wide   : Bool := true
  pref   : Bool := false
deriving DecidableEq, Repr

/-- R89, R124: the identity with which a function enumerates, in service and in the recovery state alike; none where there is no function. -/
def identityOf (s : State) (f : Nat) : Option Identity :=
  if (getFn s f).present then
    some { vendor := 0x1FD7, device := if f = 0 then 0x0740 else 0x0741, classCode := 0x120000, subVendor := 0x1FD7, subsystem := 0x0001 }
  else none

/-- R90: the BARs of a function; each takes two BAR registers, and BAR4 is not implemented. -/
def barsOf (f : Nat) : List Bar :=
  if f = 0 then [{ number := 0, size := 2 ^ 21 }, { number := 2, size := 2 ^ 20 }] else [{ number := 0, size := 2 ^ 12 }, { number := 2, size := 2 ^ 16 }]

/-- R83, R445: the trained generation of the host link, 1 to 7. -/
def linkGen : Nat := Config.hostLinkGen % 7 + 1
/-- R83, R445: its trained width: x4, x2 or x1. -/
def linkWidth : Nat := [4, 2, 1].getD (Config.hostLinkWidth % 3) 1
/-- R83, R445: FLIT mode at Gen6 and Gen7, non-FLIT below. -/
def linkFlit : Bool := decide (6 ≤ linkGen)
/-- R83: the max payload size in use, 128 to 512 bytes. -/
def maxPayload : Nat := 128 * 2 ^ (Config.maxPayload % 3)
/-- R83: the max read request size in use, 128 to 4,096 bytes. -/
def maxReadRequest : Nat := 128 * 2 ^ (Config.maxReadRequest % 6)

/-! ## The function page (R438 to R442) -/

/-- Low or high half of a 64-bit register. -/
def halfOf (b : DWord) (high : Bool) : Nat := if high then dbits b 32 32 else dbits b 0 32

/-- R8: flags as consecutive bits, the first at bit `lo`. -/
def flagBits (lo : Nat) (l : List Flag) : Nat := sumBy (enum l) (fun q => b2n q.2.set * 2 ^ (lo + q.1))

/-- R439: the flags of `HOST_STAT`, bit 0 first. -/
def hostFlags (p : FnPage) : List Flag := [p.dbDrop, p.frOff, p.lrOff, p.wrRef]

/-- R93, R440: the number of a context's state. -/
def ctxStateNum : CtxState → Nat
  | .closed => 0 | .opened => 1 | .error => 2 | .closing => 3

/-- R439: `CTX_COUNT`: the contexts assigned to a function. -/
def ctxCount (s : State) (f : Nat) : Nat := (ctxsOf s f).length

/-- R440: `CR_STAT` of a function's control context. -/
def crStat (s : State) (f : Nat) : Nat := (ctxOf s f 0).elim 0 (fun c => ctxStateNum (getCtx s c).state + (getCtx s c).sqHead * 2 ^ 16)

/-- R438: a word of the MSI-X table. -/
def tableWord (p : FnPage) (n w : Nat) : Nat :=
  let x := getVec p n
  match w with
  | 0 => halfOf x.addr false
  | 1 => halfOf x.addr true
  | 2 => x.data.toNat
  | _ => b2n x.mask

/-- R438 to R442: a word of a function's page. -/
def pageWord (s : State) (f off : Nat) : Nat :=
  let p := getFn s f
  match off with
  | 0x000 => f + ctxCount s f * 2 ^ 16
  | 0x004 => s.dev.bundle.elim 0 (·.epoch.toNat)
  | 0x008 => flagBits 0 (hostFlags p)
  | 0x040 => halfOf p.crSqBase false
  | 0x044 => halfOf p.crSqBase true
  | 0x048 => halfOf p.crCqBase false
  | 0x04C => halfOf p.crCqBase true
  | 0x050 => p.crCfg.toNat
  | 0x058 => crStat s f
  | 0x080 => halfOf p.frBase false
  | 0x084 => halfOf p.frBase true
  | 0x088 => p.frCfg.toNat
  | 0x08C => p.fr.tail + b2n p.fr.phase * 2 ^ 31
  | 0x090 => halfOf p.lrBase false
  | 0x094 => halfOf p.lrBase true
  | 0x098 => p.lrCfg.toNat
  | 0x09C => p.lr.tail + b2n p.lr.phase * 2 ^ 31
  | 0x0C0 => p.dbDrop.count.toNat
  | 0x0C4 => p.frOff.count.toNat
  | 0x0C8 => p.lrOff.count.toNat
  | 0x0CC => p.wrRef.count.toNat
  | 0xA00 => sumBy (List.range 32) (fun n => b2n (getVec p n).pending * 2 ^ n)
  | _ =>
    if 0x100 ≤ off && off < 0x180 then (getVec p ((off - 0x100) / 4)).modr.toNat
    else if 0x800 ≤ off && off < 0xA00 then tableWord p ((off - 0x800) / 16) (off / 4 % 4)
    else 0

/-! ## The PF blocks (R443 to R454) -/

/-- R444: the identity registers. -/
def idWord (s : State) (off : Nat) : Nat :=
  let b := s.dev.bundle
  match off with
  | 0x1000 => 0x0740000A
  | 0x1004 => Config.stepping.toNat
  | 0x1008 => halfOf Config.uid false
  | 0x100C => halfOf Config.uid true
  | 0x1010 => b.elim 0 (·.ver.toNat)
  | 0x1014 => b.elim 0 (·.svn.toNat)
  | 0x1018 => b.elim 0 (fun q => q.epoch.toNat + q.parlour.toNat * 2 ^ 16)
  | 0x101C => b2n s.dev.slot
  | 0x1020 => (activeCfg s).elim 0 (fun c => halfOf c.seq false)
  | 0x1024 => (activeCfg s).elim 0 (fun c => halfOf c.seq true)
  | 0x1028 => s.dev.fabric.toNat
  | 0x102C => b2n ((activeCfg s).any (fun c => !c.owner.isEmpty))
  | _ => 0

/-- R445: `DEV_STAT`. -/
def devStat (s : State) : Nat :=
  (match s.dev.state with
    | .boot => 0 | .inService => 1 | .recovery => 2)
  + b2n s.dev.failstop * 2 ^ 3 + b2n s.dev.fallback * 2 ^ 4 + s.dev.bootCause.toNat * 2 ^ 8
  + (if s.dev.failstop then s.dev.failCode.toNat else 0) * 2 ^ 16

/-- R86, R445: IDE streams established. -/
def ideEstablished (s : State) : Nat := sumBy s.fns (fun q => q.2.ide)

/-- R445: `HOST_LINK`. -/
def hostLink (s : State) : Nat := linkGen + linkWidth * 2 ^ 4 + b2n linkFlit * 2 ^ 8 + min 4 (ideEstablished s) * 2 ^ 9

/-- R446: a word of a context's entry; in the recovery state its reset value (R456). -/
def assignWord (s : State) (c w : Nat) : Nat :=
  if s.dev.state == .recovery then (if w = 0 && c ≠ 0 then 0x7F else 0)
  else
    let x := getCtx s c
    match w with
    | 0 => x.func.toNat + (if x.func.toNat = 0 then 0 else x.loc.toNat) * 2 ^ 16
    | 1 => x.pasid.toNat + b2n x.pasidEn * 2 ^ 31
    | 2 => x.quota.toNat
    | _ => ctxStateNum x.state + (heldExtents s c).length * 2 ^ 4

/-- R287, R288: free extents of a cellar: those of its 32,640 that nothing holds. -/
def cellarFree (s : State) (cellar : Nat) : Nat := 32640 - ((usedExtents s).eraseDups.filter (fun e => e / 32640 == cellar)).length

/-- R43: the flags of `TICK_STAT`, bit 8 first. -/
def tickFlags (t : TickGen) : List Flag := [t.srcLost, t.edgeReject, t.perMismatch, t.wrRefused, t.auditFail]

/-- R43: `TICK_STAT`. -/
def tickStat (t : TickGen) : Nat := stateNum t.state + b2n t.aligned * 2 ^ 3 + b2n t.onAlt * 2 ^ 4 + flagBits 8 (tickFlags t)

/-- R30, R449: `TICK_PHASE`: the time since the last boundary, in 10 ns units. -/
def tickPhase (t : TickGen) (time : Nat) : Nat := if t.begun then (time - t.lastB) / 16 else 0

/-- R41 to R43, R449: the tick block; in the recovery state its reset values (R456). -/
def tickWord (s : State) (off time : Nat) : Nat :=
  let t := if s.dev.state == .recovery then {} else s.tick
  match off with
  | 0x3000 => wbits t.ctl 0 16
  | 0x3004 => (t.newPeriod.getD t.period).toNat
  | 0x3008 => tickStat t
  | 0x3010 => bits (offsetInUse t).toNat 0 32
  | 0x3014 => bits (offsetInUse t).toNat 32 16
  | 0x3018 => bits t.num.toNat 0 32
  | 0x301C => t.nowHi.toNat
  | 0x3020 => bits (tickPhase t time) 0 24
  | 0x3024 => t.err.toNat
  | _ => 0

/-- R422: the flags of `PWR_STAT`, bit 8 first. -/
def pwrFlags (p : Pwr) : List Flag := [p.stretchOver, p.tokOverrun, p.wrRefused, p.thermEvent]

/-- R422: BOARD_CAP: an SMBus effecter is the least limit. -/
def boardLeast (p : Pwr) : Bool := p.boardCont.any (fun b => b == limitC p p.thermMax.toNat) || p.boardExc.any (fun b => b == limitX p p.thermMax.toNat)

/-- R422: `PWR_STAT`. -/
def pwrStat (p : Pwr) : Nat :=
  b2n (p.temps.any (fun t => decide (1050 ≤ t))) + b2n (decide (p.capC < 7000)) * 2 + b2n (boardLeast p) * 4 + flagBits 8 (pwrFlags p)

/-- R421, R422, R450: the power block; in the recovery state its reset values (R456). -/
def pwrWord (s : State) (off : Nat) : Nat :=
  let r := s.dev.state == .recovery
  let p := if r then { cap := s.pwr.cap } else s.pwr
  match off with
  | 0x3100 => p.cap.toNat
  | 0x3104 => pwrStat p
  | 0x3108 => p.capC / 10 + p.capX / 10 * 2 ^ 16
  | 0x310C => p.thermMax.toNat
  | 0x3110 => bits p.met.toNat 0 32
  | 0x3114 => p.metHi.toNat
  | 0x3118 => p.input.toNat
  | _ => 0

/-- R451: the newest held record whose `seq` the window selects. -/
def selected (l : FaultLog) : Option FaultRec := (l.newest ++ l.waiting.reverse).find? (fun r => dbits r.seq 0 32 == l.sel.toNat)

/-- R451: the fault log window. -/
def flogWord (s : State) (off : Nat) : Nat :=
  let l := s.flog
  match off with
  | 0x4000 => l.waiting.length
  | 0x4004 => l.overflow.toNat
  | 0x4008 => l.newest.head?.elim 0 (fun r => dbits r.seq 0 32)
  | 0x400C => l.newHi.toNat
  | 0x4010 => l.sel.toNat
  | _ => if 0x4040 ≤ off && off < 0x4080 then (selected l).elim 0 (fun r => getLE (recordBytes r false) (off - 0x4040) 4) else 0

/-- R452: the counter of a fault code. -/
def codeCount (s : State) (off : Nat) : Nat :=
  let n := (off - 0x5000) / 4
  ((aGet s.flog.counts (n / 128 * 256 + n % 128)).getD 0).toNat

/-- R453: companion counters of the PF blocks. -/
def pairCount (s : State) (off : Nat) : Nat :=
  let counts := fun (l : List Flag) (first : Nat) => (l[(off - first) / 4]?).elim 0 (fun (q : Flag) => q.count.toNat)
  if off = 0x6000 then s.dev.assignErr.count.toNat
  else if 0x6010 ≤ off && off < 0x6024 then counts (tickFlags s.tick) 0x6010
  else if 0x6030 ≤ off && off < 0x6040 then counts (pwrFlags s.pwr) 0x6030
  else 0

/-- R454: `FW_STAT`; how much an update has written so far is free, within the MiB of its bytes. -/
def fwStat (s : State) : Nat :=
  let u := s.attic.updates.find? (·.started)
  b2n u.isSome + s.attic.fwOp * 2 + b2n s.attic.fwSlot * 2 ^ 3
  + u.elim 0 (fun q => (Config.freeBits 11 s.free).toNat % (cdiv q.bytes.length (2 ^ 20) + 1)) * 2 ^ 8 + s.attic.fwLast.toNat * 2 ^ 24

/-- R454: a register of a slot. -/
def slotWord (b : Option Bundle) (w : Nat) : Nat :=
  b.elim 0 (fun q => match w with
    | 0 => 1 + q.epoch.toNat * 2 ^ 16
    | 1 => q.ver.toNat
    | 2 => q.svn.toNat
    | _ => q.parlour.toNat)

/-- R454: the firmware update window. -/
def fwWord (s : State) (off : Nat) : Nat :=
  if off = 0x7000 then fwStat s
  else if 0x7010 ≤ off && off < 0x7020 then slotWord s.attic.fwSlot0 (off / 4 % 4)
  else if 0x7020 ≤ off && off < 0x7030 then slotWord s.attic.fwSlot1 (off / 4 % 4)
  else if off = 0x7030 then s.attic.fwMinSvn.toNat
  else if off = 0x7034 then b2n s.attic.fwBoot
  else 0

/-! ## A read (R7, R436, R455) -/

/-- R7, R443: what a read of one aligned word of BAR0 returns: RO, RW, W1C and W1S bits their present state, RSV bits zero. What the read
of a low half latches is the effect of its own command (R30, R450, R451). -/
def read32 (s : State) (f off time : Nat) : Word :=
  BitVec.ofNat 32 (
    if off < 0x1000 then pageWord s f off
    else if f ≠ 0 then 0
    else if off < 0x1100 then idWord s off
    else if 0x100000 ≤ off && off < 0x140000 then assignWord s ((off - 0x100000) / 16) (off / 4 % 4)
    else match off with
      | 0x1100 => devStat s
      | 0x1104 => hostLink s
      | 0x2000 => b2n s.dev.assignErr.set
      | 0x2004 => quotaTotal s
      | _ =>
        if 0x2040 ≤ off && off < 0x2080 then cellarFree s ((off - 0x2040) / 4)
        else if 0x3000 ≤ off && off < 0x3100 then tickWord s off time
        else if 0x3100 ≤ off && off < 0x3200 then pwrWord s off
        else if 0x4000 ≤ off && off < 0x4100 then flogWord s off
        else if 0x5000 ≤ off && off < 0x5E00 then codeCount s off
        else if 0x6000 ≤ off && off < 0x6100 then pairCount s off
        else if 0x7000 ≤ off && off < 0x7040 then fwWord s off
        else 0)

/-- R436: a BAR0 read: aligned 4 bytes, or aligned 8 bytes as two words; of any other size or alignment it returns zero. -/
def barRead (s : State) (f off size time : Nat) : DWord :=
  if size = 4 && off % 4 = 0 then (read32 s f off time).setWidth 64
  else if size = 8 && off % 8 = 0 then BitVec.ofNat 64 ((read32 s f off time).toNat + (read32 s f (off + 4) time).toNat * 2 ^ 32)
  else 0

/-- R467: the JTAG identification code: version 1, part 0x0740, the manufacturer's code in bits [11:1]. -/
def jtagIdCode : Word := 0x107401EB

/-- R467: the data register between TDI and TDO, with its width: the identification code under IDCODE, the bypass bit under BYPASS
(PRESUMED 7: it captures 0), none of the device's state under the other instructions. -/
def jtagData (s : State) : Option (Nat × Word) :=
  match s.dev.jtag with
  | .idcode => some (32, jtagIdCode)
  | .bypass => some (1, 0)
  | _ => none

/-- R95: a BAR2 read returns zero. -/
def bar2Read (_s : State) (_f _off _size : Nat) : DWord := 0

/-! ## Room instruction words (R138, R140) -/

/-- R138: the operand fields of an instruction word. -/
def roomIns (w : Nat) : RoomIns :=
  { pred := BitVec.ofNat 3 (bits w 8 3), pneg := bitOf w 11, d := BitVec.ofNat 5 (bits w 12 5), a := BitVec.ofNat 5 (bits w 17 5),
    b := BitVec.ofNat 5 (bits w 22 5), c := BitVec.ofNat 5 (bits w 27 5), imm := BitVec.ofNat 32 (bits w 32 32) }

/-- R140: the command that a word's opcode gives; for PGATHER, by the `op` of the descriptor that the word names (R244). -/
def roomCommand (t : Tid) (w walkOp : Nat) : Option Instr :=
  let i := roomIns w
  match bits w 0 8 with
  | 0x00 => some (.roomNop t i)
  | 0x01 => some (.stepEnd t i)
  | 0x02 => some (.progEnd t i)
  | 0x03 => some (.jump t i)
  | 0x04 => some (.call t i)
  | 0x05 => some (.ret t i)
  | 0x06 => some (.repeatLoop t i)
  | 0x07 => some (.trap t i)
  | 0x10 => some (.sadd t i)
  | 0x11 => some (.ssub t i)
  | 0x12 => some (.smul t i)
  | 0x13 => some (.sand t i)
  | 0x14 => some (.sor t i)
  | 0x15 => some (.sxor t i)
  | 0x16 => some (.sshl t i)
  | 0x17 => some (.sshr t i)
  | 0x18 => some (.smin t i)
  | 0x19 => some (.smax t i)
  | 0x1A => some (.sli t i)
  | 0x1B => some (.scmp t i)
  | 0x1C => some (.sldc t i)
  | 0x1D => some (.srd t i)
  | 0x1E => some (.sld t i)
  | 0x1F => some (.sst t i)
  | 0x20 => some (.mmaF t i)
  | 0x21 => some (.mmaB0 t i)
  | 0x22 => some (.mmaB1 t i)
  | 0x24 => some (.accZero t i)
  | 0x25 => some (.accOut t i)
  | 0x26 => some (.accIn t i)
  | 0x28 => some (.nest t i)
  | 0x30 => some (.vld t i)
  | 0x31 => some (.vst t i)
  | 0x32 => some (.vlda t i)
  | 0x33 => some (.vsta t i)
  | 0x34 => some (.vadd t i)
  | 0x35 => some (.vsub t i)
  | 0x36 => some (.vmul t i)
  | 0x37 => some (.vfma t i)
  | 0x38 => some (.vmax t i)
  | 0x39 => some (.vmin t i)
  | 0x3A => some (.vcmp t i)
  | 0x3B => some (.vsel t i)
  | 0x3C => some (.vbc t i)
  | 0x3D => some (.vred t i)
  | 0x3E => some (.vidx t i)
  | 0x3F => some (.vrng t i)
  | 0x40 => some (.fnTable t i)
  | 0x41 => some (.fnMicro t i)
  | 0x42 => some (.rstat t i)
  | 0x43 => some (.tblLoad t i)
  | 0x50 => some (.dmaIn t i)
  | 0x51 => some (.dmaOut t i)
  | 0x52 => some (.wallPut t i)
  | 0x53 =>
    match walkOp with
    | 0 => some (.gather t i)
    | 1 => some (.store t i)
    | 2 => some (.verifyOpen t i)
    | 3 => some (.commit t i)
    | _ => none
  | 0x54 => some (.porchSend t i)
  | 0x55 => some (.porchRecv t i)
  | 0x56 => some (.patom t i)
  | 0x57 => some (.pred t i)
  | 0x60 => some (.flagSet t i)
  | 0x61 => some (.flagWait t i)
  | 0x62 => some (.fence t i)
  | 0x63 => some (.haloWait t i)
  | 0x64 => some (.unitWait t i)
  | _ => none

/-- R134, R138: the word of a room's code at its program counter, as loaded in instruction memory. -/
def RC.word (c : RC) : Nat := leNat (c.image (0x20 + 8 * c.th.pc) 8)

/-- R138, R140: the command that a room issues next: its sequencer gives the block the commands of its own program. -/
def nextCommand (s : State) (t : Tid) : Option Instr :=
  (enter s t).bind (fun c =>
    if c.th.pc ≥ c.im.codeWords then none else roomCommand t c.word (walkDesc (c.desc (roomIns c.word).imm.toNat 128)).op)

end Sys2Proof.Machine
end

