-- ==== Sys2Proof/Safety.lean ====
section
/-! DEFINITION. The terms in which the statements speak of a run: which parts of the state a command may change, the canonical
form of the memories, and when the block serves. -/
namespace Sys2Proof

open Sys2Proof.Machine

/-- The step answers a next state: no command stops the block. -/
def steps (s : State) : Prop := ∃ t, step s = .next t

/-- The block runs in service and has not failed stop (R410, R445). -/
def serving (s : State) : Bool := s.dev.state == .inService && !s.dev.failstop

/-- The canonical form of both memories: device memory and host memory as the device has written it. -/
def MemOk (s : State) : Bool := Memory.wf s.mem && HostMemory.wf s.host

/-- A choice of parts of the state, one for each field of `State`. -/
structure Touch where
  pending : Bool := false
  free : Bool := false
  now : Bool := false
  dev : Bool := false
  tick : Bool := false
  pwr : Bool := false
  fns : Bool := false
  ctxs : Bool := false
  tags : Bool := false
  plans : Bool := false
  threads : Bool := false
  preds : Bool := false
  tables : Bool := false
  frames : Bool := false
  decs : Bool := false
  pins : Bool := false
  limbo : Bool := false
  flog : Bool := false
  hw : Bool := false
  recov : Bool := false
  slideP : Bool := false
  slides : Bool := false
  resumeAt : Bool := false
  slideDue : Bool := false
  books : Bool := false
  badBooks : Bool := false
  fullAudit : Bool := false
  links : Bool := false
  attic : Bool := false
  mem : Bool := false
  host : Bool := false
deriving DecidableEq, Repr

/-- Is what the first says also said by the second? -/
def imp (a b : Bool) : Bool := !a || b

/-- Is every part of the first choice in the second? -/
def Touch.le (a b : Touch) : Bool :=
  imp a.pending b.pending && imp a.free b.free && imp a.now b.now && imp a.dev b.dev && imp a.tick b.tick &&
  imp a.pwr b.pwr && imp a.fns b.fns && imp a.ctxs b.ctxs && imp a.tags b.tags && imp a.plans b.plans &&
  imp a.threads b.threads && imp a.preds b.preds && imp a.tables b.tables && imp a.frames b.frames && imp a.decs b.decs &&
  imp a.pins b.pins && imp a.limbo b.limbo && imp a.flog b.flog && imp a.hw b.hw && imp a.recov b.recov &&
  imp a.slideP b.slideP && imp a.slides b.slides && imp a.resumeAt b.resumeAt && imp a.slideDue b.slideDue &&
  imp a.books b.books && imp a.badBooks b.badBooks && imp a.fullAudit b.fullAudit && imp a.links b.links && imp a.attic b.attic &&
  imp a.mem b.mem && imp a.host b.host

/-- The state with the chosen parts cleared: two states that agree here agree in every other part. -/
def blank (m : Touch) (s : State) : State :=
  { pending := if m.pending then [] else s.pending,
    free := if m.free then 0 else s.free,
    now := if m.now then 0 else s.now,
    dev := if m.dev then {} else s.dev,
    tick := if m.tick then {} else s.tick,
    pwr := if m.pwr then {} else s.pwr,
    fns := if m.fns then [] else s.fns,
    ctxs := if m.ctxs then [] else s.ctxs,
    tags := if m.tags then [] else s.tags,
    plans := if m.plans then [] else s.plans,
    threads := if m.threads then [] else s.threads,
    preds := if m.preds then [] else s.preds,
    tables := if m.tables then [] else s.tables,
    frames := if m.frames then [] else s.frames,
    decs := if m.decs then [] else s.decs,
    pins := if m.pins then [] else s.pins,
    limbo := if m.limbo then [] else s.limbo,
    flog := if m.flog then {} else s.flog,
    hw := if m.hw then {} else s.hw,
    recov := if m.recov then none else s.recov,
    slideP := if m.slideP then none else s.slideP,
    slides := if m.slides then [] else s.slides,
    resumeAt := if m.resumeAt then 0 else s.resumeAt,
    slideDue := if m.slideDue then [] else s.slideDue,
    books := if m.books then [] else s.books,
    badBooks := if m.badBooks then [] else s.badBooks,
    fullAudit := if m.fullAudit then false else s.fullAudit,
    links := if m.links then {} else s.links,
    attic := if m.attic then {} else s.attic,
    mem := if m.mem then [] else s.mem,
    host := if m.host then [] else s.host }

/-- What each command may change: every other part of the state is as before, whatever the command finds. -/
def touches (c : Instr) : Touch :=
  match c with
  | .tickBoundary .. =>
      { free := true, now := true, dev := true, tick := true, pwr := true, fns := true, ctxs := true, tags := true,
        plans := true, threads := true, preds := true, tables := true, frames := true, decs := true, pins := true, limbo := true,
        flog := true, recov := true, slideP := true, resumeAt := true, slideDue := true, books := true, links := true,
        attic := true, mem := true, host := true }
  | .reclaimSetFix .. =>
      { frames := true }
  | .releasePoint .. =>
      { free := true, dev := true, tick := true, pwr := true, fns := true, ctxs := true, tags := true, plans := true,
        threads := true, preds := true, tables := true, frames := true, decs := true, pins := true, limbo := true, flog := true,
        recov := true, slideP := true, links := true, attic := true, mem := true, host := true }
  | .tokenSettlement .. =>
      { dev := true, pwr := true, plans := true, flog := true, links := true }
  | .bookAudit .. =>
      { dev := true, tick := true, pwr := true, ctxs := true, tags := true, threads := true, frames := true, flog := true,
        books := true, badBooks := true, fullAudit := true, links := true }
  | .boilerSample .. | .setpointStepBack .. | .boardCapWrite .. =>
      { pwr := true }
  | .tickInEdge .. | .tickEnable .. | .tickDisable .. | .tickSourceChange .. | .tickAltSourceChange .. | .tickOutEnable .. =>
      { now := true, tick := true, flog := true }
  | .tickFlitReceive .. =>
      { now := true, tick := true, flog := true, links := true }
  | .referenceMissing .. | .holdoverTimeout .. | .tickSysOffsetHiWrite .. =>
      { tick := true, flog := true }
  | .tickPeriodWrite .. | .tickSysOffsetLoWrite .. =>
      { tick := true }
  | .tickNowLoRead .. =>
      { dev := true, tick := true }
  | .pwrMetLoRead .. | .supplyInRange .. =>
      { dev := true, pwr := true }
  | .flogNewestLoRead .. =>
      { dev := true, flog := true }
  | .pwrCapWrite .. | .registerWrite .. | .faultRingEnable .. | .ledgerRingEnable .. | .msixModWrite .. | .contextAssignWrite .. =>
      { now := true, dev := true, tick := true, pwr := true, fns := true, ctxs := true, tags := true, plans := true,
        limbo := true, flog := true, attic := true, host := true }
  | .w1cFlagClear .. =>
      { dev := true, tick := true, pwr := true, fns := true }
  | .crOpen .. | .crClose .. | .crReset .. | .completionWrite .. | .nop .. | .badOpcode .. | .plan .. | .planWithdraw .. |
  .move .. | .tickWait .. | .ctxOpen .. | .ctxClose .. | .imageStore .. | .imageLoad .. | .imageDelete .. | .fwUpdate .. |
  .configUpdate .. | .codecJob .. | .codecJobStart .. | .streamClose .. | .imageStoreComplete .. =>
      { fns := true, ctxs := true, tags := true, plans := true, limbo := true, attic := true, host := true }
  | .doorbellSqCq .. =>
      { fns := true, ctxs := true, tags := true }
  | .doorbellFaultHead .. | .doorbellLedgerHead .. | .atsInvalidation .. | .ideTlpOutsideStream .. | .powerStateWrite .. =>
      { fns := true }
  | .descriptorFetchTimeout .. =>
      { ctxs := true }
  | .planAdmission .. =>
      { pwr := true, fns := true, ctxs := true, tags := true, plans := true, threads := true, pins := true, limbo := true,
        attic := true, host := true }
  | .pageWrite .. =>
      { free := true, fns := true, ctxs := true, tags := true, plans := true, tables := true, frames := true, limbo := true,
        flog := true, attic := true, host := true }
  | .pagePublish .. | .pageCreate .. | .pageDestroy .. =>
      { free := true, fns := true, ctxs := true, tags := true, plans := true, tables := true, frames := true, limbo := true,
        attic := true, host := true }
  | .imageLoadComplete .. =>
      { fns := true, ctxs := true, tags := true, plans := true, limbo := true, flog := true, attic := true, mem := true,
        host := true }
  | .attest .. | .hostAccessFail .. | .flrVf .. =>
      { fns := true, ctxs := true, tags := true, plans := true, limbo := true, flog := true, attic := true, host := true }
  | .streamOpen .. | .codecJobComplete .. | .streamRingPoll .. =>
      { free := true, fns := true, ctxs := true, tags := true, plans := true, limbo := true, flog := true, attic := true,
        mem := true, host := true }
  | .codecEngine .. =>
      { fns := true, ctxs := true, tags := true, plans := true, limbo := true, flog := true, hw := true, attic := true,
        host := true }
  | .ledgerRecordWrite .. | .msixDelayExpiry .. | .msixPerTick .. | .msixVectorMaskWrite .. =>
      { fns := true, host := true }
  | .faultRecordWrite .. =>
      { fns := true, flog := true, host := true }
  | .ideStreamLoss .. =>
      { fns := true, ctxs := true }
  | .doeSpdmRequest .. =>
      { dev := true, fns := true }
  | .flrPf .. =>
      { dev := true, fns := true, ctxs := true, tags := true, plans := true, limbo := true, flog := true, attic := true }
  | .roomNop .. | .jump .. | .call .. | .ret .. | .repeatLoop .. | .trap .. | .sadd .. | .ssub .. | .smul .. | .sand .. |
  .sor .. | .sxor .. | .sshl .. | .sshr .. | .smin .. | .smax .. | .sli .. | .scmp .. | .sldc .. | .srd .. | .sld .. | .vld .. |
  .vlda .. | .vadd .. | .vsub .. | .vmul .. | .vfma .. | .vmax .. | .vmin .. | .vcmp .. | .vsel .. | .vbc .. | .vred .. |
  .vidx .. | .vrng .. | .fnTable .. | .fnMicro .. | .rstat .. | .wallPut .. | .haloWait .. | .patom .. | .pred .. | .flagWait .. =>
      { dev := true, plans := true, threads := true, flog := true, links := true }
  | .stepEnd .. | .progEnd .. | .dmaLate .. | .walkChunkLand .. | .porchSend .. | .porchRecv .. | .announce .. | .piece .. |
  .instructionComplete .. | .hello .. | .helloAck .. =>
      { dev := true, plans := true, threads := true, tables := true, frames := true, decs := true, flog := true, links := true,
        mem := true }
  | .sst .. | .mmaF .. | .mmaB0 .. | .mmaB1 .. | .accZero .. | .accOut .. | .accIn .. | .vst .. | .vsta .. | .tblLoad .. |
  .dmaIn .. | .dmaOut .. | .flagSet .. =>
      { dev := true, plans := true, threads := true, flog := true, links := true, mem := true }
  | .nest .. =>
      { free := true, dev := true, plans := true, threads := true, flog := true, links := true, mem := true }
  | .haloLand .. =>
      { free := true, dev := true, plans := true, threads := true, tables := true, frames := true, decs := true, flog := true,
        links := true, mem := true }
  | .gather .. | .store .. | .verifyOpen .. | .commit .. =>
      { free := true, dev := true, ctxs := true, plans := true, threads := true, tables := true, frames := true, decs := true,
        flog := true, links := true, mem := true }
  | .frameDecrementArrive .. =>
      { frames := true, decs := true }
  | .patomPerform .. =>
      { plans := true, threads := true, tables := true, frames := true, decs := true, mem := true }
  | .predContribution .. =>
      { dev := true, plans := true, threads := true, preds := true, tables := true, frames := true, decs := true, flog := true,
        links := true, mem := true }
  | .flagWaitComplete .. | .restoreTimeout .. =>
      { threads := true }
  | .fence .. | .unitWait .. =>
      { dev := true, plans := true, threads := true, tables := true, frames := true, decs := true, flog := true, links := true }
  | .stepFinish .. =>
      { free := true, dev := true, pwr := true, fns := true, ctxs := true, tags := true, plans := true, threads := true,
        preds := true, tables := true, frames := true, decs := true, pins := true, limbo := true, flog := true, links := true,
        attic := true, mem := true, host := true }
  | .roomHw .. | .roomWatchdogTimeout .. | .memoryEccEvent .. =>
      { free := true, dev := true, plans := true, threads := true, preds := true, tables := true, frames := true, decs := true,
        flog := true, hw := true, recov := true, links := true, mem := true }
  | .serviceResume .. =>
      { free := true, now := true, dev := true, tick := true, pwr := true, fns := true, ctxs := true, tags := true,
        plans := true, threads := true, preds := true, tables := true, frames := true, decs := true, pins := true, limbo := true,
        flog := true, recov := true, slideP := true, slides := true, resumeAt := true, slideDue := true, fullAudit := true,
        links := true, attic := true, mem := true, host := true }
  | .repairMapWrite .. =>
      { attic := true }
  | .spareSelfTest .. =>
      { flog := true, hw := true, attic := true }
  | .floorCoreFailure .. =>
      { dev := true, flog := true, hw := true, recov := true, links := true }
  | .hallCoreFailure .. =>
      { dev := true, flog := true, hw := true, recov := true, links := true, attic := true }
  | .hallWatchdog .. =>
      { free := true, dev := true, flog := true, links := true }
  | .dieFail .. | .cellarLoss .. | .failstop .. =>
      { dev := true, flog := true, links := true }
  | .patrolScrub .. =>
      { flog := true }
  | .faultLogSave .. =>
      { dev := true, attic := true }
  | .slide .. =>
      { free := true, dev := true, plans := true, threads := true, preds := true, tables := true, frames := true, decs := true,
        flog := true, slideP := true, slides := true, resumeAt := true, slideDue := true, links := true, mem := true }
  | .peerSilent .. =>
      { free := true, dev := true, pwr := true, fns := true, ctxs := true, tags := true, plans := true, threads := true,
        preds := true, tables := true, frames := true, decs := true, pins := true, limbo := true, flog := true, slideP := true,
        resumeAt := true, links := true, attic := true, mem := true, host := true }
  | .failstopMessage .. | .failstopFlit .. =>
      { free := true, dev := true, tick := true, pwr := true, fns := true, ctxs := true, tags := true, plans := true,
        threads := true, preds := true, tables := true, frames := true, decs := true, pins := true, limbo := true, flog := true,
        slideP := true, resumeAt := true, links := true, attic := true, mem := true, host := true }
  | .trainingComplete .. | .trainingRetry .. | .helloSend .. | .dataFlitReceive .. | .idleFlitReceive .. | .echoSend .. |
  .echoReply .. | .deliveredSend .. | .delivered .. | .priorityFlowControl .. | .pfcPauseExpiry .. =>
      { links := true }
  | .nak .. | .replayTimerExpiry .. | .laneLost .. =>
      { tick := true, plans := true, flog := true, recov := true, links := true }
  | .echo .. =>
      { free := true, links := true }
  | .thermalEvent .. | .refclkLoss .. =>
      { dev := true, pwr := true, flog := true, links := true }
  | .droopDetect .. | .droopRecovery .. =>
      { now := true, pwr := true }
  | .pldmSensorRead .. =>
      { free := true, dev := true }
  | .jtagInstruction .. =>
      { dev := true }
  | .supplyLoss .. | .perstAssert .. =>
      { dev := true, tick := true, pwr := true, fns := true, ctxs := true, tags := true, plans := true, threads := true,
        preds := true, tables := true, frames := true, decs := true, pins := true, limbo := true, flog := true, hw := true,
        recov := true, slideP := true, slides := true, resumeAt := true, slideDue := true, books := true, badBooks := true,
        fullAudit := true, links := true, attic := true, mem := true }
  | .perstRelease .. =>
      { now := true, dev := true, tick := true, pwr := true, flog := true, hw := true, links := true, attic := true }
  | .moveComplete .. =>
      { free := true, fns := true, ctxs := true, tags := true, plans := true, limbo := true, attic := true, mem := true,
        host := true }
  | .fwUpdateComplete .. =>
      { fns := true, ctxs := true, tags := true, plans := true, limbo := true, links := true, attic := true, host := true }
  | .configUpdateComplete .. =>
      { pwr := true, fns := true, ctxs := true, tags := true, plans := true, limbo := true, links := true, attic := true,
        host := true }
  | .trainingFailed .. =>
      { plans := true, flog := true, links := true }
  | .vfEnableWrite .. =>
      { dev := true, fns := true, ctxs := true, tags := true, plans := true, limbo := true, attic := true, host := true }

/-- No wait of this kind ends when contexts and plans settle (R108, R114). -/
def noCloseWait : WaitKind → Bool
  | .close _ _ _ _ => false
  | .withdraw _ => false
  | _ => true

/-- A context with nothing that a change elsewhere would end: not CLOSING, no CTX_CLOSE or PLAN_WITHDRAW waiting, no stream closing
(R108, R114, R366). -/
def quietCtx (x : Ctx) : Prop :=
  x.state ≠ .closing ∧ (∀ o ∈ x.opens, noCloseWait o.wait = true) ∧ ∀ t ∈ x.streams, t.closing = none

/-- No context has anything of that kind. -/
def idle (s : State) : Prop := ∀ p ∈ s.ctxs, quietCtx p.2

/-- The next descriptor of the context is fetched and starts, with tag t (R97, R99, R103). -/
def fetches (s : State) (d : Desc) (t : Nat) : Prop :=
  let x := getCtx s d.ctx
  inService s = true ∧ x.state = .opened ∧ x.sqHead ≠ x.sqTail ∧ x.fetched = none ∧ ringsPaused s = false ∧ fenceOk x d = true
  ∧ (getFn s ((ctxFn s d.ctx).getD 0)).d3hot = false ∧ descTag s = some t ∧ ∀ o ∈ x.opens, o.tag ≠ t

/-- An entry of a context is written at once: a slot is free and none waits (R98). -/
def entryFree (s : State) (c : Nat) : Prop := cqFree s c = true ∧ (getCtx s c).holds = []

/-- The next descriptor is fetched, and its entry, which it writes at once, carries a completion code; its tag awaits consumption
(R97 to R101). The entry is written as given, with the new head, the phase and the tag; the message follows unless it is waived. -/
def completesAs (s u : State) (d : Desc) (t : Nat) (e : CEntry) : Prop :=
  let x := getCtx s d.ctx
  let y := getCtx u d.ctx
  y.sqHead = (x.sqHead + 1) % sqSize x ∧ y.cq = ringNext x.cq (cqSize x) ∧ y.inRing = x.inRing ++ [t] ∧ y.opens = x.opens
  ∧ y.holds = [] ∧ y.state = .opened
  ∧ u.tags = s.tags ++ [{ tag := t, owner := .desc d.ctx, awaiting := some d.ctx }]
  ∧ (d.noIrq = true → u.host = hostWrite s.host (x.cqBase.toNat + 32 * x.cq.tail) (entryBytes e y.sqHead x.cq.phase))
  ∧ u.mem = s.mem ∧ u.plans = s.plans

/-- The state once the next descriptor of the context has been fetched with tag t: the head has moved, the tag is in use, and the
fetch timer runs on only while another descriptor is published (R97, R99). -/
def fetched (s : State) (d : Desc) (t : Nat) : State := takeDesc s d.ctx t none

/-- The descriptor starts with tag t, and none of the checks that come before its own refuses it (R6, R104, R105). -/
def accepts (s : State) (d : Desc) (t o : Nat) : Prop :=
  fetches s d t ∧ entryFree s d.ctx ∧ idle s ∧ descRefusal (fetched s d t) d o false = none

/-- The descriptor has started and waits: no entry is written, no data byte changes (R103). -/
def opensAs (s u : State) (d : Desc) (t o : Nat) (w : WaitKind) : Prop :=
  let x := getCtx s d.ctx
  let y := getCtx u d.ctx
  y.sqHead = (x.sqHead + 1) % sqSize x ∧ y.cq = x.cq ∧ y.holds = [] ∧ y.state = .opened
  ∧ y.opens = x.opens ++ [{ tag := t, userId := d.userId, noIrq := d.noIrq, opcode := o, planId := d.planId, wait := w }]
  ∧ u.tags = s.tags ++ [{ tag := t, owner := .desc d.ctx, awaiting := none }] ∧ u.host = s.host ∧ u.mem = s.mem

/-- The set-up registers of a function answer, in service (R426, R436, R456). -/
def registersServe (s : State) (f : Nat) : Prop := barOpen s f = true ∧ s.dev.state = .inService ∧ s.dev.failstop = false

/-! ## Room programs -/

/-- R134, R138, R156: the room program of `t` issues the instruction, whose predicate condition is met. -/
def issuesAt (s : State) (t : Tid) (i : RoomIns) (c : RC) : Prop :=
  enter s t = some c ∧ c.th.pc < c.im.codeWords ∧ predMet c.th i = true

/-- R126: the sequencer may issue an instruction with these ranges to the unit, or execute it itself where `unit` is 7. -/
def mayIssue (c : RC) (unit : Nat) (reads writes : List Range) : Prop :=
  (if unit = 7 then holdSeq c.th.outs reads writes else holdFor c.th.outs unit reads writes).isSome = true

/-- The registers of a room program but for the named ones: scalar, vector, mask, predicate (R137); the call stack too. -/
def keepsRegs (x y : Thread) (ss vs ms ps : List Nat) : Prop :=
  (∀ n, n ∉ ss → sReg y n = sReg x n) ∧ (∀ n, n ∉ vs → vReg y n = vReg x n)
  ∧ (∀ n, n % 8 ∉ ms → mReg y n = mReg x n) ∧ (∀ n, n < 8 → n ∉ ps → predBit y.preds n = predBit x.preds n)
  ∧ y.calls = x.calls

/-- R137, R140: the program goes on at the next instruction, the REPEAT levels counted down as R140 says. -/
def goesOn (x y : Thread) : Prop := (y.pc, y.reps) = repAdvance x.pc (x.pc + 1) x.reps

/-- Every other room program is as before, and so is every part of the state but the chosen ones. -/
def onlyThread (s u : State) (t : Tid) (m : Touch) : Prop :=
  (∀ t', t' ≠ t → getTh u t' = getTh s t') ∧ blank m u = blank m s

/-- A register instruction has completed: the program of `t` is `y` and nothing but its registers has changed. -/
def regOnly (s u : State) (t : Tid) (y : Thread) : Prop := getTh u t = some y ∧ onlyThread s u t { threads := true }

/-- An instruction that stores has completed: `u` differs from `s` in the program of `t`, which is `y`, and in memory. -/
def memOnly (s u : State) (t : Tid) (y : Thread) : Prop := getTh u t = some y ∧ onlyThread s u t { threads := true, mem := true }

/-- R137, R140: a scalar result: register `d` holds `v` unless it is s0, which reads as zero. -/
def scalarDone (s u : State) (t : Tid) (x : Thread) (d : BitVec 5) (v : DWord) : Prop :=
  ∃ y, regOnly s u t y ∧ sReg y d.toNat = (if d = 0 then 0 else v) ∧ keepsRegs x y [d.toNat] [] [] [] ∧ goesOn x y

/-- R126: a vector result: register `d` holds `v`; the instruction is outstanding in its unit. -/
def vectorDone (s u : State) (t : Tid) (x : Thread) (d : Nat) (v : List Word) : Prop :=
  ∃ y, regOnly s u t y ∧ vReg y d = v ∧ keepsRegs x y [] [d] [] [] ∧ goesOn x y

/-- An instruction that stores `bs` at an address and writes no register. -/
def storeDone (s u : State) (t : Tid) (x : Thread) (a : Nat) (bs : List Byte) : Prop :=
  ∃ y, memOnly s u t y ∧ keepsRegs x y [] [] [] [] ∧ goesOn x y ∧ memRead u.mem a bs.length = bs
    ∧ ∀ b, b < a ∨ a + bs.length ≤ b → memByte u.mem b = memByte s.mem b

/-- A sequencer that runs: no wait of its own is pending on the completion of another part. -/
def running (x : Thread) : Prop := x.stat = .running

/-- The plan on the room has no transfer of the porch under way, and no received message waits (R338 to R340). -/
def porchQuiet (s : State) : Prop := (∀ x ∈ s.threads, x.xfers = []) ∧ s.links.pieces = []

end Sys2Proof
end

