-- ==== Sys2Proof/Certificates/Slice0/Obligations.lean ====
section
/-! DEFINITION. The statements of this row. -/
open Sys2Proof Sys2Proof.Machine

/-! ## The queue of commands -/

/-- A step takes the command at the front of the queue and runs it on the state with the rest of the queue; with the queue empty the
block idles (the model's choice, log entry 9). -/
def Obligations.StepRunsFront : Prop :=
  (∀ (c : Instr) (rest : List Instr) (s : State), step { s with pending := c :: rest } = exec c { s with pending := rest })
  ∧ (∀ s : State, s.pending = [] → step s = .next s)

/-- Every command changes only the parts of the state that the table `touches` lists for it: every other register file, queue, table,
ring, memory and flag is as before. The queue of commands is in no command's list. -/
def Obligations.CommandFrames : Prop :=
  ∀ (c : Instr) (s t : State), exec c s = .next t → blank (touches c) t = blank (touches c) s ∧ t.pending = s.pending

/-- Every step keeps the canonical form of device memory and of the host's memory: addresses strictly rising, and in device memory no
entry equal to what an unlisted address reads as. -/
def Obligations.StepKeepsMemoryForm : Prop :=
  ∀ s t : State, MemOk s = true → step s = .next t → MemOk t = true

/-! ## Room programs: control and scalar instructions -/

/-- R138: an instruction whose predicate condition is not met has no effect but to pass: only the program counter and the REPEAT
levels of its own program change. -/
def Obligations.PredicateNotMetPasses : Prop :=
  ∀ (t : Tid) (i : RoomIns) (s : State) (c : RC), enter s t = some c → c.th.pc < c.im.codeWords → predMet c.th i = false →
    ∀ f ∈ [Instr.sadd, .sst, .call, .trap, .mmaF, .accOut, .nest, .vadd, .vst, .vred, .fnTable, .tblLoad, .dmaIn, .wallPut,
        .haloWait, .gather, .porchSend, .porchRecv, .patom, .pred, .flagSet, .flagWait, .fence, .unitWait, .stepEnd, .progEnd],
      ∃ u y, exec (f t i) s = .next u ∧ regOnly s u t y ∧ keepsRegs c.th y [] [] [] [] ∧ goesOn c.th y

/-- R140: the scalar arithmetic rows give their result in register d, s0 discarding it; no other register of the program, no flag,
no memory and no other program changes.
R140, R141: SLDC reads the constant pool, SRD the room value that the immediate names; SCMP writes the predicate that d names
by its low 3 bits, p0 discarding it. R138, R140: the word at the program counter gives the command that the room issues next, field by
field. -/
def Obligations.ScalarOperations : Prop :=
  (∀ (t : Tid) (i : RoomIns) (s : State) (c : RC), issuesAt s t i c →
      let a := sReg c.th i.a.toNat
      let x := if i.c = 0 then sReg c.th i.b.toNat else i.imm.signExtend 64
      (∃ u, exec (.sadd t i) s = .next u ∧ scalarDone s u t c.th i.d (a + x))
      ∧ (∃ u, exec (.ssub t i) s = .next u ∧ scalarDone s u t c.th i.d (a - x))
      ∧ (∃ u, exec (.smul t i) s = .next u ∧ scalarDone s u t c.th i.d (a * x))
      ∧ (∃ u, exec (.sand t i) s = .next u ∧ scalarDone s u t c.th i.d (a &&& x))
      ∧ (∃ u, exec (.sor t i) s = .next u ∧ scalarDone s u t c.th i.d (a ||| x))
      ∧ (∃ u, exec (.sxor t i) s = .next u ∧ scalarDone s u t c.th i.d (a ^^^ x))
      ∧ (∃ u, exec (.sshl t i) s = .next u ∧ scalarDone s u t c.th i.d (a <<< (x.toNat % 64)))
      ∧ (∃ u, exec (.sshr t i) s = .next u ∧ scalarDone s u t c.th i.d (a.sshiftRight (x.toNat % 64)))
      ∧ (∃ u, exec (.smin t i) s = .next u ∧ scalarDone s u t c.th i.d (if a.toInt ≤ x.toInt then a else x))
      ∧ (∃ u, exec (.smax t i) s = .next u ∧ scalarDone s u t c.th i.d (if a.toInt ≤ x.toInt then x else a))
      ∧ (∃ u, exec (.sli t i) s = .next u ∧ scalarDone s u t c.th i.d (i.imm.signExtend 64)))
  ∧ (∀ (t : Tid) (i : RoomIns) (s : State) (c : RC), issuesAt s t i c →
      let a := sReg c.th i.a.toNat
      let b := sReg c.th i.b.toNat
      (∃ u, exec (.sldc t i) s = .next u
        ∧ scalarDone s u t c.th i.d (BitVec.ofNat 64 (leNat (c.image (c.im.constOff + 8 * i.imm.toNat) 8))))
      ∧ (∃ u, exec (.srd t i) s = .next u ∧ scalarDone s u t c.th i.d (srdValue c i.imm.toNat))
      ∧ (∃ u y, exec (.scmp t i) s = .next u ∧ regOnly s u t y ∧ keepsRegs c.th y [] [] [] [i.d.toNat % 8] ∧ goesOn c.th y
        ∧ (i.d.toNat % 8 = 0 → y.preds = c.th.preds)
        ∧ (i.d.toNat % 8 ≠ 0 → predBit y.preds (i.d.toNat % 8)
            = (match i.imm.toNat % 8 with
              | 0 => a == b
              | 1 => a != b
              | 2 => decide (a.toInt < b.toInt)
              | 3 => decide (a.toInt ≤ b.toInt)
              | 4 => decide (a.toNat < b.toNat)
              | 5 => decide (a.toNat ≤ b.toNat)
              | n => scmpCond n a b))))
  ∧ (∀ (t : Tid) (s : State) (c : RC), enter s t = some c → c.th.pc < c.im.codeWords →
      let w := c.word
      let i := roomIns w
      i.pred.toNat = w / 2 ^ 8 % 8 ∧ i.pneg = decide (w / 2 ^ 11 % 2 = 1) ∧ i.d.toNat = w / 2 ^ 12 % 32 ∧ i.a.toNat = w / 2 ^ 17 % 32
      ∧ i.b.toNat = w / 2 ^ 22 % 32 ∧ i.c.toNat = w / 2 ^ 27 % 32 ∧ i.imm.toNat = w / 2 ^ 32 % 2 ^ 32
      ∧ (w % 256 = 0x10 → nextCommand s t = some (.sadd t i)) ∧ (w % 256 = 0x1B → nextCommand s t = some (.scmp t i))
      ∧ (w % 256 = 0x1F → nextCommand s t = some (.sst t i)) ∧ (w % 256 = 0x20 → nextCommand s t = some (.mmaF t i))
      ∧ (w % 256 = 0x33 → nextCommand s t = some (.vsta t i)) ∧ (w % 256 = 0x64 → nextCommand s t = some (.unitWait t i))
      ∧ (0x65 ≤ w % 256 → nextCommand s t = none))

/-- R140: SLD and SST move 8 bytes, 8-byte aligned and inside the window, between a scalar register and the scratchpad, once the
sequencer may issue them. SST changes no other byte. -/
def Obligations.ScratchpadWords : Prop :=
  ∀ (t : Tid) (i : RoomIns) (s : State) (c : RC), issuesAt s t i c → MemOk s = true →
    let off := (sReg c.th i.a.toNat + i.imm.signExtend 64).toNat
    off + 8 ≤ c.spadLen → off % 8 = 0 →
    (mayIssue c 7 [rSpad off 8] [] → ∃ u, exec (.sld t i) s = .next u
      ∧ scalarDone s u t c.th i.d (BitVec.ofNat 64 (leNat (memRead s.mem (spadPa c.r off) 8))))
    ∧ (mayIssue c 7 [] [rSpad off 8] → ∃ u, exec (.sst t i) s = .next u
      ∧ storeDone s u t c.th (spadPa c.r off) (leBytes (sReg c.th i.b.toNat).toNat 8))

/-- R140: JUMP, CALL, RET, REPEAT and NOP: the program counter that follows, the call stack and the REPEAT stack; no register
changes. -/
def Obligations.ControlFlow : Prop :=
  ∀ (t : Tid) (i : RoomIns) (s : State) (c : RC), issuesAt s t i c →
    let x := c.th
    let target := ((x.pc : Int) + 1 + i.imm.toInt).toNat
    let n := (sReg x i.a.toNat).toNat % 2 ^ 32
    (∃ u y, exec (.roomNop t i) s = .next u ∧ regOnly s u t y ∧ keepsRegs x y [] [] [] [] ∧ goesOn x y)
    ∧ (∃ u y, exec (.jump t i) s = .next u ∧ regOnly s u t y ∧ keepsRegs x y [] [] [] []
        ∧ (y.pc, y.reps) = repAdvance x.pc target x.reps)
    ∧ (x.calls.length < 8 → ∃ u y, exec (.call t i) s = .next u ∧ regOnly s u t y ∧ y.regs = x.regs ∧ y.preds = x.preds
        ∧ y.calls = (x.pc + 1) :: x.calls ∧ (y.pc, y.reps) = repAdvance x.pc target x.reps)
    ∧ (∀ r rest, x.calls = r :: rest → ∃ u y, exec (.ret t i) s = .next u ∧ regOnly s u t y ∧ y.regs = x.regs ∧ y.preds = x.preds
        ∧ y.calls = rest ∧ (y.pc, y.reps) = repAdvance x.pc r x.reps)
    ∧ (n ≠ 0 → x.reps.length < 4 → ∃ u y, exec (.repeatLoop t i) s = .next u ∧ regOnly s u t y ∧ keepsRegs x y [] [] [] []
        ∧ y.pc = x.pc + 1 ∧ y.reps = { start := x.pc + 1, len := i.imm.toNat, left := n } :: x.reps)
    ∧ (n = 0 → ∃ u y, exec (.repeatLoop t i) s = .next u ∧ regOnly s u t y ∧ keepsRegs x y [] [] [] []
        ∧ (y.pc, y.reps) = repAdvance (x.pc + i.imm.toNat) (x.pc + i.imm.toNat + 1) x.reps)

/-- R156: a refused instruction: the room executes nothing further, the device logs a record with the room, the program counter in
detail0 and the code. TRAP is such an instruction; so are CALL at depth 8, RET with the stack empty, REPEAT at depth 4, and SLD and
SST outside the window or misaligned. No register of any program and no byte of memory changes. -/
def Obligations.RoomRefusals : Prop :=
  ∀ (t : Tid) (i : RoomIns) (s : State) (c : RC), issuesAt s t i c →
    let x := c.th
    let off := (sReg x i.a.toNat + i.imm.signExtend 64).toNat
    let refused := fun (u : State) (code d1 : Nat) =>
      u = refuseRoom s t c.k code x.pc d1 ∧ (∃ y, getTh u t = some y ∧ y.stat = .refused ∧ keepsRegs x y [] [] [] [] ∧ y.pc = x.pc)
      ∧ u.mem = s.mem
    (∃ u, exec (.trap t i) s = .next u ∧ refused u 0x0102 i.imm.toNat)
    ∧ (8 ≤ x.calls.length → ∃ u, exec (.call t i) s = .next u ∧ refused u 0x0101 0)
    ∧ (x.calls = [] → ∃ u, exec (.ret t i) s = .next u ∧ refused u 0x0101 0)
    ∧ ((sReg x i.a.toNat).toNat % 2 ^ 32 ≠ 0 → 4 ≤ x.reps.length → ∃ u, exec (.repeatLoop t i) s = .next u ∧ refused u 0x0101 0)
    ∧ (c.spadLen < off + 8 ∨ off % 8 ≠ 0 → (∃ u, exec (.sld t i) s = .next u ∧ refused u 0x0100 off)
        ∧ (∃ u, exec (.sst t i) s = .next u ∧ refused u 0x0100 off))

/-! ## Room programs: the arrays, the vector unit and the function unit -/

/-- R143 to R145, R168 to R172: an MMA whose operands lie in the window, aligned, replaces tile imm[4:0] by the canonical accumulation
over the operands; array cycles are counted by R146. No register and no other byte changes.
R144, R156: an MMA or accumulator instruction with an operand, a scale or a tile outside the window, or misaligned, is refused
with TILE_ILLEGAL: no register and no memory changes, and the room executes nothing further. -/
def Obligations.ArrayMultiply : Prop :=
  (∀ (t : Tid) (i : RoomIns) (s : State) (c : RC), issuesAt s t i c → MemOk s = true →
      let m := mmaImm i.imm
      let d : MmaAddr := { a := (sReg c.th i.a.toNat).toNat, b := (sReg c.th i.b.toNat).toNat,
                           sa := (sReg c.th i.c.toNat).toNat, sb := (sReg c.th i.d.toNat).toNat }
      let a := scaledOperand m.scale (operandElems m.scale m.fmtA m.kb m.trA (c.spad d.a (operandBytes m.fmtA m.kb)))
        (operandScales m.scale m.kb (c.spad d.sa (scaleBytes m.scale m.kb)))
      let b := scaledOperand m.scale (operandElems m.scale m.fmtB m.kb m.trB (c.spad d.b (operandBytes m.fmtB m.kb)))
        (operandScales m.scale m.kb (c.spad d.sb (scaleBytes m.scale m.kb)))
      mmaLegal c m d = true →
      ∀ p ∈ [((.mmaF t i : Instr), 0), (.mmaB0 t i, 1), (.mmaB1 t i, 2)], mayIssue c p.2 (mmaReads m d) [rTile m.tile 1] →
        ∃ u, exec p.1 s = .next u
          ∧ storeDone s u t c.th (tilePa c.r m.tile 0) (wordBytes (mmaTile c.exact m (readTile s.mem c.r m.tile) a b)))
  ∧ (∀ (t : Tid) (i : RoomIns) (s : State) (c : RC), issuesAt s t i c →
      let m := mmaImm i.imm
      let d : MmaAddr := { a := (sReg c.th i.a.toNat).toNat, b := (sReg c.th i.b.toNat).toNat,
                           sa := (sReg c.th i.c.toNat).toNat, sb := (sReg c.th i.d.toNat).toNat }
      let o := accImm i.imm
      let refused := fun (f : Instr) => ∃ u y, exec f s = .next u ∧ u = refuseRoom s t c.k 0x003A c.th.pc 0 ∧ getTh u t = some y
        ∧ y.stat = .refused ∧ keepsRegs c.th y [] [] [] [] ∧ u.mem = s.mem
      (mmaLegal c m d = false → refused (.mmaF t i) ∧ refused (.mmaB0 t i) ∧ refused (.mmaB1 t i))
      ∧ (c.r.accLen < i.imm.toNat % 32 + (i.imm.toNat / 32 % 32 + 1) → refused (.accZero t i))
      ∧ (c.inSpad (sReg c.th i.a.toNat).toNat 4096 64 = false ∨ c.r.accLen ≤ i.imm.toNat % 32 → refused (.accIn t i))
      ∧ (c.inSpad (sReg c.th i.a.toNat).toNat (cTile o) 64 = false ∨ c.r.accLen ≤ o.tile
          ∨ (o.scale ≠ 0 ∧ c.inSpad (sReg c.th i.b.toNat).toNat (csTile o) 64 = false) → refused (.accOut t i))
      ∧ (c.r.accLen ≤ i.imm.toNat % 32 → refused (.vlda t i) ∧ refused (.vsta t i)))

/-- R140, R147: the accumulator port. ACC_ZERO sets tiles imm[4:0] on, imm[9:5] + 1 of them, to +0; ACC_IN copies 4,096 bytes from
the scratchpad into tile imm[4:0]; ACC_OUT writes a tile's values, converted, to the scratchpad, and their scales where the immediate
names a scale. -/
def Obligations.AccumulatorPort : Prop :=
  ∀ (t : Tid) (i : RoomIns) (s : State) (c : RC), issuesAt s t i c → MemOk s = true →
    let a := (sReg c.th i.a.toNat).toNat
    let b := (sReg c.th i.b.toNat).toNat
    let lo := i.imm.toNat % 32
    let n := i.imm.toNat / 32 % 32 + 1
    let o := accImm i.imm
    let out := accBytes o (readTile s.mem c.r o.tile)
    (lo + n ≤ c.r.accLen → mayIssue c 3 [] [rTile lo n] → ∃ u y, exec (.accZero t i) s = .next u ∧ memOnly s u t y
        ∧ keepsRegs c.th y [] [] [] [] ∧ goesOn c.th y
        ∧ (∀ x, tilePa c.r lo 0 ≤ x → x < tilePa c.r lo 0 + 4096 * n → memByte u.mem x = 0)
        ∧ (∀ x, x < tilePa c.r lo 0 ∨ tilePa c.r lo 0 + 4096 * n ≤ x → memByte u.mem x = memByte s.mem x))
    ∧ (c.inSpad a 4096 64 = true → lo < c.r.accLen → mayIssue c 3 [rSpad a 4096] [rTile lo 1] → ∃ u, exec (.accIn t i) s = .next u
        ∧ storeDone s u t c.th (tilePa c.r lo 0) (c.spad a 4096))
    ∧ (c.inSpad a (cTile o) 64 = true → o.tile < c.r.accLen → o.scale = 0 → mayIssue c 3 [rTile o.tile 1] [rSpad a (cTile o)] →
        ∃ u, exec (.accOut t i) s = .next u ∧ storeDone s u t c.th (spadPa c.r a) out.1)
    ∧ (c.inSpad a (cTile o) 64 = true → c.inSpad b (csTile o) 64 = true → o.tile < c.r.accLen → o.scale ≠ 0 →
        mayIssue c 3 [rTile o.tile 1] [rSpad a (cTile o), rSpad b (csTile o)] →
        ∃ u y, exec (.accOut t i) s = .next u ∧ memOnly s u t y ∧ keepsRegs c.th y [] [] [] [] ∧ goesOn c.th y
          ∧ u.mem = memWrite (memWrite s.mem (spadPa c.r a) out.1) (spadPa c.r b) out.2)

/-- R181 to R193: a NEST with no empty level and all its buffers and tiles in bounds runs the whole nest, as the MMAs and ACC_OUTs of
its body in the order of R187 would, and records its output tag for the step (R193); where it reads a halo block that no HALO_WAIT has
delivered (R205), what it writes is free. One with a FREE level of count zero does
nothing but record its tag as empty, and one whose zero counts are all on K levels writes its tiles and outputs from no sum (R192); one above its planned maximum is refused with SHAPE_OVER (R190), one out of bounds with
TILE_ILLEGAL (R191). -/
def Obligations.LoopNest : Prop :=
  ∀ (t : Tid) (i : RoomIns) (s : State) (c : RC), issuesAt s t i c →
    let d := nestOf (c.desc i.imm.toNat (nestBytes (fieldAt (c.desc i.imm.toNat 64) 0 10 3)))
    (∀ x, levelCounts c d.levels = .error x → ∃ u, exec (.nest t i) s = .next u ∧ u = refuseRoom s t c.k 0x0039 c.th.pc x)
    ∧ (∀ ns, levelCounts c d.levels = .ok ns →
      let ls := d.levels.zip ns
      let unit := min d.array 2
      let lk := d.levels.zip (freeCounts d ns)
      ((∀ n ∈ ns, n ≠ 0) → nestLegal c d ls = true → mayIssue c unit (nestReads d ls) (nestWrites d ls) →
        let soon := readsOpenHalo c.th (nestRead d ns)
        let ran := { s with mem := nestRun c.exact c.r d ns s.mem }
        ∃ u y, exec (.nest t i) s = .next u ∧ getTh u t = some y ∧ keepsRegs c.th y [] [] [] [] ∧ goesOn c.th y
          ∧ (soon = false → u.mem = ran.mem ∧ onlyThread s u t { threads := true, mem := true, plans := true })
          ∧ (soon = true → u.mem = ((nestWrote d ns).foldl (freeWindow c.r) ran).mem
              ∧ onlyThread s u t { free := true, threads := true, mem := true, plans := true })
          ∧ (∀ p q, getPlan s t.key = some p → d.hasOut = true → p.run = some q →
              (getPlan u t.key).bind (·.run) = some { q with tags := q.tags ++ [(d.outId, true)] }))
      ∧ ((∀ n ∈ ns, n ≠ 0) → nestLegal c d ls = false →
          ∃ u, exec (.nest t i) s = .next u ∧ u = refuseRoom s t c.k 0x003A c.th.pc 0)
      ∧ (freeZero d ns = true → mayIssue c unit (nestReads d ls) (nestWrites d ls) →
        ∃ u y, exec (.nest t i) s = .next u ∧ getTh u t = some y ∧ keepsRegs c.th y [] [] [] [] ∧ goesOn c.th y
          ∧ u.mem = s.mem ∧ onlyThread s u t { threads := true, plans := true })
      ∧ ((∃ n ∈ ns, n = 0) → freeZero d ns = false → accHolds c d ls = true → outHolds d ls = true →
          mayIssue c unit (nestReads d lk) (nestWrites d lk) →
        ∃ u y, exec (.nest t i) s = .next u ∧ getTh u t = some y ∧ keepsRegs c.th y [] [] [] [] ∧ goesOn c.th y
          ∧ u.mem = nestEmpty c.r d ns s.mem ∧ onlyThread s u t { threads := true, mem := true, plans := true }))

/-- R140, R148, R149: the lane operations of the vector unit give their 64 lanes in vd. -/
def Obligations.VectorArithmetic : Prop :=
  ∀ (t : Tid) (i : RoomIns) (s : State) (c : RC), issuesAt s t i c →
    let d := i.d.toNat
    let va := vReg c.th i.a.toNat
    let vb := vReg c.th i.b.toNat
    let sa := sReg c.th i.a.toNat
    let two := [rV i.a.toNat, rV i.b.toNat]
    (mayIssue c 4 two [rV d] →
      (∃ u, exec (.vadd t i) s = .next u ∧ vectorDone s u t c.th d (List.zipWith f32Add va vb))
      ∧ (∃ u, exec (.vsub t i) s = .next u ∧ vectorDone s u t c.th d (List.zipWith f32Sub va vb))
      ∧ (∃ u, exec (.vmul t i) s = .next u ∧ vectorDone s u t c.th d (List.zipWith f32Mul va vb))
      ∧ (∃ u, exec (.vmax t i) s = .next u ∧ vectorDone s u t c.th d (List.zipWith f32Max va vb))
      ∧ (∃ u, exec (.vmin t i) s = .next u ∧ vectorDone s u t c.th d (List.zipWith f32Min va vb)))
    ∧ (mayIssue c 4 (two ++ [rV i.c.toNat]) [rV d] → ∃ u, exec (.vfma t i) s = .next u
        ∧ vectorDone s u t c.th d (List.zipWith (fun a p => f32Fma a p.1 p.2) va (vb.zip (vReg c.th i.c.toNat))))
    ∧ (mayIssue c 4 (two ++ [rM i.c.toNat]) [rV d] → ∃ u y, exec (.vsel t i) s = .next u ∧ vectorDone s u t c.th d (vReg y d)
        ∧ getTh u t = some y ∧ ∀ l, l < va.length → l < vb.length →
          (vReg y d)[l]? = if (mReg c.th i.c.toNat).getLsbD l then va[l]? else vb[l]?)
    ∧ (mayIssue c 4 [] [rV d] →
      (∃ u, exec (.vbc t i) s = .next u ∧ vectorDone s u t c.th d (List.replicate 64 (sa.setWidth 32)))
      ∧ (∃ u, exec (.vidx t i) s = .next u
          ∧ vectorDone s u t c.th d ((List.range 64).map (fun (l : Nat) => toF32 (ofExact (sa.toInt + (l : Int)) 0))))
      ∧ (∃ u, exec (.vrng t i) s = .next u
          ∧ vectorDone s u t c.th d ((List.range 64).map (rngLane c.p.desc.w28 c.r.room (i.imm.toNat % 2 ^ 16) sa))))

/-- R140, R148: VCMP gives bit l of mask d the comparison of lane l, m0 discarding it; VRED gives scalar d the fixed pairwise tree over the
64 lanes. -/
def Obligations.VectorCompareAndReduce : Prop :=
  ∀ (t : Tid) (i : RoomIns) (s : State) (c : RC), issuesAt s t i c →
    let va := vReg c.th i.a.toNat
    let vb := vReg c.th i.b.toNat
    let m := i.d.toNat % 8
    (mayIssue c 4 [rV i.a.toNat, rV i.b.toNat] [rM i.d.toNat] → ∃ u y, exec (.vcmp t i) s = .next u ∧ regOnly s u t y
        ∧ keepsRegs c.th y [] [] [m] [] ∧ goesOn c.th y ∧ (m = 0 → mReg y m = 0xFFFFFFFFFFFFFFFF)
        ∧ (m ≠ 0 → mReg y m = BitVec.ofNat 64 (maskOf (List.zipWith (vcmpCond (i.imm.toNat % 8)) va vb))))
    ∧ (mayIssue c 7 [rV i.a.toNat] [] → ∃ u, exec (.vred t i) s = .next u
        ∧ scalarDone s u t c.th i.d ((redTree (redOp (i.imm.toNat % 4)) va).setWidth 64))

/-- R140, R161: VLD and VST move 64 elements of format c between a vector register and the scratchpad, VLDA and VSTA rows 2i and
2i + 1 of a tile. -/
def Obligations.VectorLoadsAndStores : Prop :=
  ∀ (t : Tid) (i : RoomIns) (s : State) (c : RC), issuesAt s t i c → MemOk s = true →
    let off := (sReg c.th i.a.toNat + i.imm.signExtend 64).toNat
    let n := 2 * groupBytes i.c.toNat
    let d := i.d.toNat
    let tile := i.imm.toNat % 32
    let row := tilePa c.r tile (64 * (i.imm.toNat / 32 % 16))
    (c.inSpad off n 8 = true →
      (mayIssue c 4 [rSpad off n] [rV d] → ∃ u, exec (.vld t i) s = .next u
        ∧ vectorDone s u t c.th d (unpackF32 i.c.toNat (c.spad off n) 2))
      ∧ (mayIssue c 4 [rV d] [rSpad off n] → ∃ u, exec (.vst t i) s = .next u
        ∧ storeDone s u t c.th (spadPa c.r off) (packF32 i.c.toNat (vReg c.th d) 2)))
    ∧ (tile < c.r.accLen →
      (mayIssue c 4 [rTile tile 1] [rV d] → ∃ u, exec (.vlda t i) s = .next u ∧ vectorDone s u t c.th d (readWords s.mem row 64))
      ∧ (mayIssue c 4 [rV d] [rTile tile 1] → ∃ u, exec (.vsta t i) s = .next u
        ∧ storeDone s u t c.th row (wordBytes (vReg c.th d))))

/-- R222, R224, R225, R227, R229: the function unit. FN applies the active table of a slot to every lane, NaN where the slot holds no
table of the plan (log entry 19); FNM applies a micro-program; RSTAT of modes 0 and 1 accumulates one row into vd and
v(d + 1); TBL_LOAD fills the inactive bank of a slot with the image of a table. -/
def Obligations.FunctionUnit : Prop :=
  ∀ (t : Tid) (i : RoomIns) (s : State) (c : RC), issuesAt s t i c → MemOk s = true →
    let d := i.d.toNat
    let va := vReg c.th i.a.toNat
    let slot := i.imm.toNat % 8
    let u0 := vReg c.th d
    let w0 := vReg c.th (d + 1)
    let id := i.imm.toNat / 2 ^ 8 % 2 ^ 10
    (∀ tab, aGet c.th.active slot = some tab → mayIssue c 5 [rV i.a.toNat, { space := .bank, lo := slot, hi := slot + 1 }] [rV d] →
      ∃ u, exec (.fnTable t i) s = .next u
        ∧ vectorDone s u t c.th d (va.map (fnTab (memRead s.mem (activePa c.r slot) 1024)).eval))
    ∧ (mayIssue c 5 [rV i.a.toNat] [rV d] → ∃ u, exec (.fnMicro t i) s = .next u
        ∧ vectorDone s u t c.th d (va.map (microProg c.b (i.imm.toNat % 64)).eval))
    ∧ (slot = 0 → d < 31 → mayIssue c 5 [rV d, rV (d + 1), rV i.a.toNat] [rV d, rV (d + 1)] →
      ∃ u y, exec (.rstat t i) s = .next u ∧ regOnly s u t y ∧ keepsRegs c.th y [] [d, d + 1] [] [] ∧ goesOn c.th y
        ∧ vReg y d = List.zipWith f32Add u0 va ∧ vReg y (d + 1) = List.zipWith (fun a w => f32Fma a a w) va w0)
    ∧ (mayIssue c 5 [] [{ space := .bank, lo := 8 + slot, hi := 9 + slot }] → ∃ u y, exec (.tblLoad t i) s = .next u
        ∧ storeDone s u t c.th (inactivePa c.r slot) (tableImage c.b id) ∧ getTh u t = some y ∧ aGet y.filled slot = some id)

/-! ## Room programs: the move unit -/

/-- R293 to R298: a DMA_IN without a late limit reads its items from context addresses and writes them to the window, in the order of
R294; a DMA_OUT writes its items to context addresses. Every byte outside the destinations that the descriptor computes is as before,
and no register changes.
A transfer waits while an access of the room to one of its context addresses has still to come, a DMA_OUT also for the writes
before a FENCE WRITES (R16, R127, R152).
R299: a DMA_IN with a late limit that expires writes zero over its whole destination and 1 to its status line; the program of the
room no longer waits for it, and the plan's step notes a late fetch. -/
def Obligations.WingDma : Prop :=
  (∀ (t : Tid) (i : RoomIns) (s : State) (c : RC), issuesAt s t i c →
      let d := dmaOf (c.desc i.imm.toNat 64)
      let sa := (sReg c.th i.a.toNat).toNat
      let sb := (sReg c.th i.b.toNat).toNat
      (d.late = 0 → d.bad c sa sb false = none → ctxBusy c.th true (d.ctxRanges sb) [] = false → mayIssue c 6 [] [d.range sa] →
        ∃ u y, exec (.dmaIn t i) s = .next u ∧ memOnly s u t y ∧ keepsRegs c.th y [] [] [] [] ∧ goesOn c.th y
          ∧ u.mem = d.runIn s c.ctx c.r sa sb
          ∧ ∀ b, (∀ q ∈ d.pairs, b < spadPa c.r (sa + q.1 * d.s2s + q.2 * d.s1s)
                ∨ spadPa c.r (sa + q.1 * d.s2s + q.2 * d.s1s) + (d.inItem s c.ctx sb q).length ≤ b) → memByte u.mem b = memByte s.mem b)
      ∧ (d.late ≠ 0 → replaying c.p = false → d.bad c sa sb false = none → ctxBusy c.th true (d.ctxRanges sb) [] = false →
          mayIssue c 6 [] [d.range sa] →
        ∃ u y, exec (.dmaIn t i) s = .next u ∧ regOnly s u t y ∧ keepsRegs c.th y [] [] [] [] ∧ goesOn c.th y
          ∧ ∃ l, y.lates = c.th.lates ++ [l] ∧ l.desc = c.desc i.imm.toNat 64 ∧ l.sa = sa ∧ l.sb = sb ∧ l.pc = c.th.pc)
      ∧ (d.bad c sa sb true = none → ctxBusy c.th true [] (d.ctxRanges sb) = false → fencedOff c.th = false →
          mayIssue c 6 [d.range sa] [] →
        ∃ u y, exec (.dmaOut t i) s = .next u ∧ memOnly s u t y ∧ keepsRegs c.th y [] [] [] [] ∧ goesOn c.th y
          ∧ u.mem = d.runOut s c.ctx c.r sa sb
          ∧ ∀ b, (∀ q ∈ d.pairs, ∀ w ∈ d.outItem s c.r sa sb q, ∀ j, j < w.2.length → paOf s c.ctx (w.1 + j) ≠ some b) →
              memByte u.mem b = memByte s.mem b)
      ∧ (d.bad c sa sb false = none → ctxBusy c.th true (d.ctxRanges sb) [] = true → exec (.dmaIn t i) s = .next s)
      ∧ (d.bad c sa sb true = none → ctxBusy c.th true [] (d.ctxRanges sb) = true ∨ fencedOff c.th = true →
          exec (.dmaOut t i) s = .next s)
      ∧ (∀ a, d.bad c sa sb false = some a → ∃ u, exec (.dmaIn t i) s = .next u ∧ u = refuseRoom s t c.k 0x0100 c.th.pc a)
      ∧ (∀ a, d.bad c sa sb true = some a → ∃ u, exec (.dmaOut t i) s = .next u ∧ u = refuseRoom s t c.k 0x0100 c.th.pc a))
  ∧ (∀ (t : Tid) (s : State) (x : Thread) (p : Plan) (q : StepRun) (r : RoomRec) (l : LateDma) (rest : List LateDma),
      alive s = true → getTh s t = some x → running x → x.lates = l :: rest → getPlan s t.key = some p → p.run = some q →
      thRec s t = some r →
      let d := dmaOf l.desc
      ∃ u y, exec (.dmaLate t) s = .next u ∧ getTh u t = some y ∧ y.lates = rest ∧ keepsRegs x y [] [] [] [] ∧ y.pc = x.pc
        ∧ u.mem = statusWrite (lateZero s.mem r d l.sa) r d true
        ∧ (getPlan u t.key).bind (·.run) = some { q with lateFetch := true }
        ∧ ∀ t', t' ≠ t → getTh u t' = getTh s t')

/-- R154, R196, R198: WALL_PUT is refused at a wing's edge, where the neighbour has no room record, outside its own window and outside
the neighbour's. With no bytes it advances the step register by one, and is refused with HALO_STALE at its top value (the order of
these refusals is the model's, log entry 125). With bytes the halo goes on its way when the neighbour's C is just below its step
number, is held while C is lower still, and is refused at the neighbour where C has passed it.
R197: HALO_WAIT goes on when F of its direction has reached the value of its register, and C takes that value where it is higher;
else the sequencer waits. The halo that lands writes its bytes to the window and its step number to F; what a NEST writes that reads the
place of the halo while it lands is free (R205). -/
def Obligations.WallAndHalos : Prop :=
  (∀ (t : Tid) (i : RoomIns) (s : State) (c : RC), issuesAt s t i c →
      let x := c.th
      let n := (sReg x i.b.toNat).toNat
      let sa := (sReg x i.a.toNat).toNat
      let dir := i.imm.toNat % 4
      let dst := i.imm.toNat / 4 % 2 ^ 30 * 4
      let there := fun (q : RoomRec) => (⟨t.key, q.room⟩ : Tid)
      let h : Halo := { step := x.wall.step, dst := dst, bytes := c.spad sa n }
      (∀ q, (neighbour c.r.room dir).bind (roomRec c.b) = some q → dst ≤ q.spadLen * 16384 →
       (n = 0 → x.wall.step ≠ 0xFFFFFFFF → mayIssue c 6 [] [] → ∃ u y, exec (.wallPut t i) s = .next u ∧ regOnly s u t y
        ∧ keepsRegs x y [] [] [] [] ∧ goesOn x y ∧ y.wall.step = x.wall.step + 1 ∧ y.wall.f = x.wall.f ∧ y.wall.c = x.wall.c)
      ∧ (n = 0 → x.wall.step = 0xFFFFFFFF →
        ∃ u, exec (.wallPut t i) s = .next u ∧ u = refuseRoom s t c.k 0x0103 x.pc (c.r.room + 0xFFFFFFFF * 2 ^ 32)))
      ∧ (∀ q, (neighbour c.r.room dir).bind (roomRec c.b) = some q →
        (n ≠ 0 → c.spadLen < sa + n → ∃ u, exec (.wallPut t i) s = .next u ∧ u = refuseRoom s t c.k 0x0100 x.pc sa)
        ∧ ((n = 0 ∨ sa + n ≤ c.spadLen) → q.spadLen * 16384 < dst + n →
          ∃ u, exec (.wallPut t i) s = .next u ∧ u = refuseRoom s t c.k 0x0100 x.pc dst))
      ∧ ((neighbour c.r.room dir).bind (roomRec c.b) = none →
        ∃ u, exec (.wallPut t i) s = .next u ∧ u = refuseRoom s t c.k 0x0100 x.pc dst)
      ∧ (∀ q y, n ≠ 0 → (neighbour c.r.room dir).bind (roomRec c.b) = some q → sa + n ≤ c.spadLen → dst + n ≤ q.spadLen * 16384 →
        (∀ p ∈ x.held, p.1 ≠ dir) → fencedOff x = false → mayIssue c 6 [rSpad sa n] [] → getTh s (there q) = some y → there q ≠ t →
        (x.wall.step.toNat = wallC y (opposite dir) + 1 → ∃ u z w, exec (.wallPut t i) s = .next u ∧ getTh u t = some z
          ∧ keepsRegs x z [] [] [] [] ∧ goesOn x z ∧ getTh u (there q) = some w ∧ w.inbound = y.inbound ++ [(opposite dir, h)]
          ∧ u.mem = s.mem)
        ∧ (x.wall.step.toNat > wallC y (opposite dir) + 1 → ∃ u z, exec (.wallPut t i) s = .next u ∧ getTh u t = some z
          ∧ keepsRegs x z [] [] [] [] ∧ goesOn x z ∧ z.held = x.held ++ [(dir, h)] ∧ u.mem = s.mem
          ∧ ∀ t', t' ≠ t → getTh u t' = getTh s t')
        ∧ (x.wall.step.toNat ≤ wallC y (opposite dir) → running y → ∃ u z w, exec (.wallPut t i) s = .next u ∧ getTh u t = some z
          ∧ keepsRegs x z [] [] [] [] ∧ goesOn x z ∧ getTh u (there q) = some w ∧ w.stat = .refused ∧ w.inbound = y.inbound
          ∧ u.mem = s.mem)))
  ∧ ((∀ (t : Tid) (i : RoomIns) (s : State) (c : RC), issuesAt s t i c →
      let dir := i.imm.toNat % 4
      let v : Word := (sReg c.th i.a.toNat).setWidth 32
      (wallF c.th dir < v.toNat → ∃ u y, exec (.haloWait t i) s = .next u ∧ regOnly s u t y ∧ keepsRegs c.th y [] [] [] []
        ∧ y.pc = c.th.pc ∧ y.stat = .waiting (.halo dir v))
      ∧ (v.toNat ≤ wallF c.th dir → neighbour t.room dir = none → ∃ u y, exec (.haloWait t i) s = .next u ∧ regOnly s u t y
        ∧ keepsRegs c.th y [] [] [] [] ∧ goesOn c.th y ∧ y.stat = .running
        ∧ (dir < c.th.wall.c.length → wallC y dir = max (wallC c.th dir) v.toNat)))
    ∧ (∀ (t : Tid) (dir : Nat) (s : State) (x : Thread) (r : RoomRec) (h : Halo), alive s = true → MemOk s = true →
      getTh s t = some x → running x → thRec s t = some r → firstInbound x.inbound dir = some h →
      (∀ y ∈ s.threads, running y) →
      ∃ u y, exec (.haloLand t dir) s = .next u ∧ getTh u t = some y ∧ keepsRegs x y [] [] [] [] ∧ y.pc = x.pc
        ∧ (dir < x.wall.f.length → wallF y dir = h.step.toNat)
        ∧ memRead u.mem (spadPa r h.dst) h.bytes.length = h.bytes
        ∧ (spoiledNests x h = [] → ∀ b, b < spadPa r h.dst ∨ spadPa r h.dst + h.bytes.length ≤ b → memByte u.mem b = memByte s.mem b)
        ∧ (spoiledNests x h ≠ [] → u.mem = memWrite ((spoiledNests x h).foldl (freeWindow r) s).mem (spadPa r h.dst) h.bytes)))

/-! ## Room programs: pantry flags, atomics, reductions and waits -/

/-- R152, R153: FLAG_SET stores 8 bytes at the flag's address; FLAG_WAIT blocks the sequencer until the flag meets its condition, and
then the program goes on. A flag that is misaligned, unmapped, or not writable for a store is refused with ROOM_ADDR. Either waits while an
access of the room to the flag has still to come (R16). -/
def Obligations.PantryFlags : Prop :=
  (∀ (t : Tid) (i : RoomIns) (s : State) (c : RC), issuesAt s t i c → MemOk s = true →
    let va := (sReg c.th i.a.toNat).toNat
    (∀ pa, flagPa s t.key va true = some pa → ctxBusy c.th true [] [(va, 8)] = false → fencedOff c.th = false →
      ∃ u, exec (.flagSet t i) s = .next u
      ∧ storeDone s u t c.th pa (leBytes (sReg c.th i.b.toNat).toNat 8))
    ∧ (∀ pa, flagPa s t.key va true = some pa → ctxBusy c.th true [] [(va, 8)] = true ∨ fencedOff c.th = true →
      exec (.flagSet t i) s = .next s)
    ∧ (∀ pa, flagPa s t.key va false = some pa → ctxBusy c.th true [(va, 8)] [] = true → exec (.flagWait t i) s = .next s)
    ∧ (∀ pa, flagPa s t.key va false = some pa → ctxBusy c.th true [(va, 8)] [] = false → ∃ u y, exec (.flagWait t i) s = .next u ∧ regOnly s u t y
      ∧ keepsRegs c.th y [] [] [] [] ∧ y.pc = c.th.pc ∧ y.stat = .waiting (.flag pa (sReg c.th i.b.toNat) (i.imm.getLsbD 0)))
    ∧ (flagPa s t.key va true = none → ∃ u, exec (.flagSet t i) s = .next u ∧ u = refuseRoom s t c.k 0x0100 c.th.pc va)
    ∧ (flagPa s t.key va false = none → ∃ u, exec (.flagWait t i) s = .next u ∧ u = refuseRoom s t c.k 0x0100 c.th.pc va))
  ∧ (∀ (t : Tid) (s : State) (x : Thread) (pa : Nat) (v : DWord) (eq : Bool), alive s = true → getTh s t = some x →
    roomHeld s x = false → x.stat = .waiting (.flag pa v eq) →
    let old := leNat (memRead s.mem pa 8)
    ((if eq then old = v.toNat else v.toNat ≤ old) → ∃ u y, exec (.flagWaitComplete t) s = .next u ∧ regOnly s u t y
      ∧ keepsRegs x y [] [] [] [] ∧ goesOn x y ∧ y.stat = .running)
    ∧ (¬(if eq then old = v.toNat else v.toNat ≤ old) → exec (.flagWaitComplete t) s = .next s))

/-- R301: PATOM sends its atomic to the home slice; with `ret` the sequencer waits for the old value. The slice performs the oldest
atomic of the room: memory takes the new value, and with `ret` register d the old one, zero-extended. An atomic waits for a transfer
or a reduction of the room to the same address that has still to come, and for the writes before a FENCE WRITES (R16, R152). -/
def Obligations.PantryAtomics : Prop :=
  (∀ (t : Tid) (i : RoomIns) (s : State) (c : RC) (pa : Nat), issuesAt s t i c →
    let va := (sReg c.th i.a.toNat).toNat
    let w32 := i.imm.getLsbD 4
    let n := if w32 then 4 else 8
    va % n = 0 → va < 2 ^ 48 → planRangeOk s t.key va n true = true → paOf s c.ctx va = some pa →
    let a : Atom := { pa := pa, va := va, aop := i.imm.toNat % 16, w32 := w32, ret := if i.imm.getLsbD 5 then some i.d.toNat else none,
                      val := sReg c.th i.b.toNat, cmp := sReg c.th i.d.toNat }
    (ctxBusy c.th false [(va, n)] [(va, n)] = true ∨ fencedOff c.th = true → exec (.patom t i) s = .next s)
    ∧ (ctxBusy c.th false [(va, n)] [(va, n)] = false → fencedOff c.th = false →
     (i.imm.getLsbD 5 = true → ∃ u y, exec (.patom t i) s = .next u ∧ regOnly s u t y ∧ keepsRegs c.th y [] [] [] []
      ∧ y.pc = c.th.pc ∧ y.stat = .waiting (.atom i.d.toNat) ∧ y.atoms = c.th.atoms ++ [a])
    ∧ (i.imm.getLsbD 5 = false → mayIssue c 6 [] [] → ∃ u y, exec (.patom t i) s = .next u ∧ regOnly s u t y
      ∧ keepsRegs c.th y [] [] [] [] ∧ goesOn c.th y ∧ y.atoms = c.th.atoms ++ [a])))
  ∧ (∀ (t : Tid) (s : State) (x : Thread) (a : Atom) (rest : List Atom), alive s = true → MemOk s = true → getTh s t = some x →
    x.atoms = a :: rest →
    let w := if a.w32 then 32 else 64
    let old := leNat (memRead s.mem a.pa (w / 8))
    let new := leBytes (atomNew a.aop w old (a.val.toNat % 2 ^ w) (a.cmp.toNat % 2 ^ w)) (w / 8)
    let performed := fun (u : State) => memRead u.mem a.pa (w / 8) = new
      ∧ ∀ b, b < a.pa ∨ a.pa + w / 8 ≤ b → memByte u.mem b = memByte s.mem b
    (a.ret = none → running x → ∃ u y, exec (.patomPerform t) s = .next u ∧ memOnly s u t y ∧ performed u
      ∧ keepsRegs x y [] [] [] [] ∧ y.pc = x.pc ∧ y.atoms = rest)
    ∧ (∀ d, a.ret = some d → d < 32 → ∃ u y, exec (.patomPerform t) s = .next u ∧ memOnly s u t y ∧ performed u
      ∧ keepsRegs x y [d] [] [] [] ∧ goesOn x y ∧ y.stat = .running ∧ y.atoms = rest
      ∧ sReg y d = (if d = 0 then 0 else BitVec.ofNat 64 old)))

/-- R302: PRED sends its leaf to the home slice. The slice adds an agreeing leaf to its instance, and once every leaf is present writes
the result and then the flag; a leaf that disagrees marks the instance, and the device logs a record. A contribution that finds no
staging space waits. -/
def Obligations.PantryReductions : Prop :=
  (∀ (t : Tid) (i : RoomIns) (s : State) (c : RC), issuesAt s t i c →
    let bs := c.desc i.imm.toNat 64
    let sa := (sReg c.th i.a.toNat).toNat
    (predBad c bs sa = none → ctxBusy c.th true [] (predCtx bs) = false → fencedOff c.th = false → mayIssue c 6 [rSpad sa (4 * getLE bs 8 4)] [] → ∃ u y, exec (.pred t i) s = .next u
      ∧ regOnly s u t y ∧ keepsRegs c.th y [] [] [] [] ∧ goesOn c.th y
      ∧ ∃ r, y.predq = c.th.predq ++ [r] ∧ r.desc = bs ∧ r.leaf = (sReg c.th i.b.toNat).toNat % 512)
    ∧ (∀ a, predBad c bs sa = some a → ∃ u, exec (.pred t i) s = .next u ∧ u = refuseRoom s t c.k 0x0100 c.th.pc a))
  ∧ (∀ (t : Tid) (s : State) (x : Thread) (r : PredReq) (rest : List PredReq), alive s = true → getTh s t = some x → running x →
    x.predq = r :: rest →
    let red := getLE r.desc 2 2
    let k := stepOf s t.key
    let q0 := (s.preds.find? (samePred t.key red k)).getD { key := t.key, redId := red, step := k, desc := r.desc, leaves := [] }
    let q := { q0 with leaves := q0.leaves ++ [(r.leaf, r.vals)] }
    let others := s.preds.filter (fun p => !samePred t.key red k p)
    (predWaits s t.key red k r.desc = true → exec (.predContribution t) s = .next s)
    ∧ (predWaits s t.key red k r.desc = false →
     (predAgrees q0 r = true → ∃ u y, exec (.predContribution t) s = .next u ∧ getTh u t = some y ∧ y.predq = rest
      ∧ keepsRegs x y [] [] [] [] ∧ u.preds = others ++ [q]
      ∧ (q.leaves.length ≠ fieldAt q.desc 4 0 9 → u.mem = s.mem)
      ∧ (q.leaves.length = fieldAt q.desc 4 0 9 →
          u.mem = writeVaMem s q.key.ctx (getLE q.desc 0x18 8)
            (writeVaMem s q.key.ctx (getLE q.desc 0x10 8) s.mem (predBytes q)) (leBytes (getLE q.desc 0x20 8) 8)))
    ∧ (predAgrees q0 r = false → ∃ u y, exec (.predContribution t) s = .next u ∧ getTh u t = some y ∧ y.predq = rest
      ∧ keepsRegs x y [] [] [] [] ∧ u.preds = others ++ [{ q0 with bad := true }] ∧ u.mem = s.mem)))

/-- R125, R126, R140, R152: UNIT_WAIT and FENCE FULL go on at once when nothing of what they name is outstanding, and else wait; FENCE
WRITES goes on at once and orders the room's outstanding leaving writes before its later ones; the oldest instruction of a unit that
completes leaves the outstanding ones. -/
def Obligations.WaitsAndCompletions : Prop :=
  (∀ (t : Tid) (i : RoomIns) (s : State) (c : RC), issuesAt s t i c →
    let units := fun (o : Out) => (i.imm.toNat % 128).testBit o.unit
    let on := fun (f : Instr) => ∃ u y, exec f s = .next u ∧ regOnly s u t y ∧ keepsRegs c.th y [] [] [] [] ∧ goesOn c.th y
      ∧ y.stat = .running
    let waits := fun (f : Instr) (w : ThWait) => ∃ u y, exec f s = .next u ∧ regOnly s u t y ∧ keepsRegs c.th y [] [] [] []
      ∧ y.pc = c.th.pc ∧ y.stat = .waiting w
    ((∀ o ∈ c.th.outs, units o = false) → on (.unitWait t i))
    ∧ ((∃ o ∈ c.th.outs, units o = true) → waits (.unitWait t i) (.units (i.imm.toNat % 128)))
    ∧ (i.imm.getLsbD 0 = false → c.th.outs = [] → on (.fence t i))
    ∧ (i.imm.getLsbD 0 = false → c.th.outs ≠ [] → waits (.fence t i) .fence)
    ∧ (i.imm.getLsbD 0 = true → ∃ u y, exec (.fence t i) s = .next u ∧ regOnly s u t y ∧ keepsRegs c.th y [] [] [] [] ∧ goesOn c.th y
      ∧ y.stat = .running ∧ y.outs = c.th.outs.map (fun o => if leavingWrite o then { o with fenced := true } else o)))
  ∧ (∀ (t : Tid) (unit : Nat) (s : State) (x : Thread) (o : Out), alive s = true → getTh s t = some x → running x →
    x.outs.find? (unitEnds unit) = some o → o.ends ≠ .late →
    ∃ u y, exec (.instructionComplete t unit) s = .next u ∧ regOnly s u t y ∧ keepsRegs x y [] [] [] [] ∧ y.pc = x.pc
      ∧ y.outs = dropFirst (unitEnds unit) x.outs)

/-- R135, R136, R155, R403: STEP_END with nothing outstanding ends the room's work of the step: the sequencer stands at its barrier
behind the instruction, its registers kept, its walks, instances and outstanding instructions gone, and the plan's step no longer
waits for the room. PROG_END ends the program as well. With something outstanding the sequencer waits. -/
def Obligations.StepAndProgramEnd : Prop :=
  ∀ (t : Tid) (i : RoomIns) (s : State) (c : RC), issuesAt s t i c → porchQuiet s → c.th.restore = false →
    let ends := fun (f : Instr) (st : ThStat) => ∃ u y, exec f s = .next u ∧ getTh u t = some y ∧ y.stat = st
      ∧ keepsRegs c.th y [] [] [] [] ∧ goesOn c.th y ∧ y.walks = [] ∧ y.insts = [] ∧ y.outs = []
      ∧ (∀ t', t' ≠ t → getTh u t' = getTh s t')
      ∧ (∀ q, c.p.run = some q → (getPlan u t.key).bind (·.run) = some { q with rooms := q.rooms.filter (· != t.room) })
    let waits := fun (f : Instr) (w : ThWait) => ∃ u y, exec f s = .next u ∧ regOnly s u t y ∧ keepsRegs c.th y [] [] [] []
      ∧ y.pc = c.th.pc ∧ y.stat = .waiting w
    (c.th.outs = [] → ends (.stepEnd t i) .barrier ∧ ends (.progEnd t i) .ended)
    ∧ (c.th.outs ≠ [] → waits (.stepEnd t i) .stepEnd ∧ waits (.progEnd t i) .progEnd)

/-! ## Reset -/

/-- State.reset has both memories in the canonical form that every step keeps. -/
def Obligations.ResetMemoryForm : Prop := MemOk State.reset = true

/-- The reset values that the rules give: R38 STOPPED; R41 to R43 TICK_CTL 0, TICK_PERIOD 100,000, ALIGNED and ON_ALT 0, no W1C flag
set; R28 tick number 0; R90, R123 the PF present and no VF; R446 context 0 assigned to the PF and no other context; R439 to R441 the
PF page's rings off; R422, R450 no power flag set, PWR_EFF 700 and 850, PWR_INPUT 0; R445 BOOT, no fail stop; no descriptor, plan,
program, tag or fault record. -/
def Obligations.ResetValues : Prop :=
  let s := State.reset
  s.pending = [] ∧ s.dev.state = .boot ∧ s.dev.failstop = false ∧ s.dev.failLow = false ∧ s.dev.fabric = 0
  ∧ s.tick.state = .stopped ∧ s.tick.ctl = 0 ∧ s.tick.period = 0x0186A0 ∧ s.tick.aligned = false ∧ s.tick.onAlt = false
  ∧ s.tick.num = 0 ∧ s.tick.begun = false ∧ s.tick.pinOffset = 0 ∧ s.tick.nowHi = 0 ∧ s.tick.err = 0
  ∧ [s.tick.srcLost, s.tick.edgeReject, s.tick.perMismatch, s.tick.wrRefused, s.tick.auditFail].all (fun f => !f.set) = true
  ∧ s.pwr.capC = 7000 ∧ s.pwr.capX = 8500 ∧ s.pwr.met = 0 ∧ s.pwr.metHi = 0
  ∧ [s.pwr.stretchOver, s.pwr.tokOverrun, s.pwr.wrRefused, s.pwr.thermEvent].all (fun f => !f.set) = true
  ∧ (getFn s 0).present = true ∧ (∀ f, f ≠ 0 → (getFn s f).present = false)
  ∧ (getFn s 0).crCfg = 0 ∧ (getFn s 0).frCfg = 0 ∧ (getFn s 0).lrCfg = 0 ∧ (getFn s 0).fr.tail = 0 ∧ (getFn s 0).fr.phase = true
  ∧ (getCtx s 0).func = 0 ∧ (∀ c, c ≠ 0 → (getCtx s c).func = 0x7F) ∧ (∀ c, (getCtx s c).state = .closed ∧ (getCtx s c).quota = 0)
  ∧ s.plans = [] ∧ s.threads = [] ∧ s.tags = [] ∧ s.flog.waiting = [] ∧ s.flog.nextSeq = 1

/-! ## The tick generator -/

/-- R38, R39, R41: the five commands that write TICK_CTL are one write. A reserved source, a port above 17, or a disable while a plan
is admitted is refused. From STOPPED, INTERNAL runs with its first boundary 10 µs later, and PIN and PORCH acquire; SOURCE changed
to INTERNAL while ACQUIRING runs likewise; a disable stops the boundaries and TICK_OUT. The local tick number never changes. -/
def Obligations.TickControl : Prop :=
  ∀ (time : Nat) (v : Word) (s : State), registersServe s 0 →
    let ans := fun (P : State → Prop) => ∀ f ∈ [Instr.tickEnable, .tickDisable, .tickSourceChange, .tickAltSourceChange, .tickOutEnable],
      ∃ u, exec (f time v) s = .next u ∧ P u
    let bad := wbits v 1 2 = 3 ∨ wbits v 3 2 = 3 ∨ 17 < wbits v 5 5 ∨ 17 < wbits v 10 5 ∨
      (wbit v 0 = false ∧ wbit s.tick.ctl 0 = true ∧ anyPlan s = true)
    let took := fun (u : State) => u.tick.ctl.toNat = wbits v 0 16 ∧ u.tick.num = s.tick.num ∧ u.tick.begun = s.tick.begun
      ∧ (wbit v 15 = false → u.tick.tickOut = false)
    (bad → ans (fun u => u = { s with tick := { s.tick with wrRefused := hitFlag s.tick.wrRefused } }))
    ∧ (¬bad → ans took)
    ∧ (¬bad → wbit v 0 = true → s.tick.state = .stopped → wbits v 1 2 = 0 →
        ans (fun u => u.tick.state = .running ∧ u.tick.inUse = .internal ∧ u.tick.nextB = some (time + 16000)))
    ∧ (¬bad → wbit v 0 = true → s.tick.state = .stopped → wbits v 1 2 ≠ 0 →
        ans (fun u => u.tick.state = .acquiring ∧ u.tick.nextB = none))
    ∧ (¬bad → wbit v 0 = true → s.tick.state = .acquiring → wbits v 1 2 = 0 →
        ans (fun u => u.tick.state = .running ∧ u.tick.inUse = .internal ∧ u.tick.nextB = some (time + 16000)))
    ∧ (¬bad → wbit v 0 = false → s.tick.state ≠ .stopped →
        ans (fun u => u.tick.state = .stopped ∧ u.tick.nextB = none ∧ u.tick.tickOut = false))

/-- R27, R29, R39, R42, R449: TICK_PERIOD takes 10,000 to 10,000,000, refused while a plan is admitted and the generator runs, or a
stream is bound to ticks; while the generator is not STOPPED it waits for the next boundary. TICK_SYS_OFFSET takes both halves when the high one is
written, while a PIN source is named and the state is STOPPED or ACQUIRING. A refused write only sets WRITE_REFUSED. -/
def Obligations.TickPeriodAndOffset : Prop :=
  ∀ (v : Word) (s : State), registersServe s 0 →
    let p := wbits v 0 24
    let refused := { s with tick := { s.tick with wrRefused := hitFlag s.tick.wrRefused } }
    let hi := wbits v 0 16
    (p < 10000 ∨ 10000000 < p → exec (.tickPeriodWrite v) s = .next refused)
    ∧ (10000 ≤ p → p ≤ 10000000 → p ≠ (periodReg s.tick).toNat →
        ((s.tick.state ≠ .stopped ∧ anyPlan s = true) ∨ boundStream s = true → exec (.tickPeriodWrite v) s = .next refused)
        ∧ ((s.tick.state = .stopped ∨ anyPlan s = false) → boundStream s = false →
            ∃ u, exec (.tickPeriodWrite v) s = .next u ∧ (periodReg u.tick).toNat = p ∧ u.tick.num = s.tick.num
              ∧ (s.tick.state ≠ .stopped → u.tick.period = s.tick.period) ∧ (s.tick.state = .stopped → u.tick.period.toNat = p)))
    ∧ (∃ u, exec (.tickSysOffsetLoWrite v) s = .next u ∧ u.tick.heldLo = some v ∧ u.tick.pinOffset = s.tick.pinOffset)
    ∧ (offsetWritable s.tick = true → ∃ u, exec (.tickSysOffsetHiWrite v) s = .next u ∧ u.tick.heldLo = none
        ∧ u.tick.pinOffset.toNat = (s.tick.heldLo.elim (s.tick.pinOffset.toNat % 2 ^ 32) BitVec.toNat) + hi * 2 ^ 32
        ∧ u.tick.num = s.tick.num)
    ∧ (offsetWritable s.tick = false → ∃ u, exec (.tickSysOffsetHiWrite v) s = .next u ∧ u.tick.pinOffset = s.tick.pinOffset
        ∧ u.tick.wrRefused = hitFlag s.tick.wrRefused ∧ u.tick.heldLo = none)

/-- R31, R33, R34, R38: references of a PIN source, the only one named. A fourth accepted reference in the period of an ACQUIRING
generator locks it: RUNNING, its first boundary at the reference. Against a generator that runs on it, a reference within 200 ns of
the next boundary gives the phase error, and the next tick is adjusted by at most 10 ns; one outside sets EDGE_REJECT. The second
missing reference loses the source: SRC_LOST and HOLDOVER. After 300 ms HOLDOVER gives way to FREE.
R32, R323: a TICK flit on a port that is UP takes its acknowledgements, latched counts and, from a NATIVE partner, its reference;
where the port is neither the upstream nor the alternate source, the generator is unchanged. A flit with a wrong CRC is dropped. -/
def Obligations.TickReferences : Prop :=
  (∀ (time : Nat) (s : State), tickOn s = true → ctlSource s.tick = .pin → altSource s.tick = none → s.tick.prev = none →
      s.tick.onAlt = false →
      let x := s.tick.prim
      let inUse := s.tick.state = .running ∧ s.tick.inUse = .pin ∧ x.locked = true ∧ s.tick.begun = true
      (∀ l, s.tick.state = .acquiring → x.last = some l → x.locked = false → x.missing = 0 → x.count = 3 →
          l + periodUnits s.tick ≤ time + 16 → time ≤ l + periodUnits s.tick + 16 →
          ∃ u, exec (.tickInEdge time) s = .next u ∧ u.tick.state = .running ∧ u.tick.inUse = .pin ∧ u.tick.nextB = some time
            ∧ u.tick.slew = 0 ∧ u.tick.prim.locked = true ∧ u.tick.num = s.tick.num)
      ∧ (∀ b, inUse → s.tick.nextB = some b → refWindow < gap s.tick.lastB time →
          (gap b time ≤ refWindow → ∃ u, exec (.tickInEdge time) s = .next u
            ∧ u.tick.err = BitVec.ofInt 16 ((b : Int) - time) ∧ u.tick.slew = clamp16 ((time : Int) - b)
            ∧ u.tick.prim.last = some time ∧ u.tick.prim.missing = 0 ∧ u.tick.nextB = some b ∧ u.tick.state = .running)
          ∧ (refWindow < gap b time → ∃ u, exec (.tickInEdge time) s = .next u
            ∧ u.tick = { s.tick with edgeReject := hitFlag s.tick.edgeReject }))
      ∧ (∀ l, inUse → x.last = some l → l + refWindow < s.tick.lastB →
          (x.missing = 0 → ∃ u, exec (.referenceMissing .primary) s = .next u ∧ u.tick.state = .running
            ∧ u.tick.prim = { x with missing := 1 } ∧ u.tick.srcLost = s.tick.srcLost)
          ∧ (x.missing = 1 → s.tick.alt.locked = false → ∃ u, exec (.referenceMissing .primary) s = .next u
            ∧ u.tick.state = .holdover ∧ u.tick.srcLost = hitFlag s.tick.srcLost ∧ u.tick.prim.locked = false
            ∧ u.tick.nextB = s.tick.nextB))
      ∧ (s.tick.state = .holdover → ∃ u, exec .holdoverTimeout s = .next u ∧ u.tick.state = .free ∧ u.tick.aligned = false
          ∧ u.tick.num = s.tick.num ∧ u.tick.nextB = s.tick.nextB))
  ∧ (∀ (i time : Nat) (bs : List Byte) (s : State), alive s = true → (getPort s i).state = .up → i < s.links.ports.length →
      (∀ f, parseFlit bs = some f → f.kind = 3 → rolesOf s.tick .porch i = [] → ∃ u, exec (.tickFlitReceive i time bs) s = .next u
        ∧ u.tick = s.tick ∧ getPort u i = pump (markerCounts f (takeHead (getPort s i) f)) ∧ u.now = time)
      ∧ (∀ f, parseFlit bs = some f → f.kind ≠ 3 → exec (.tickFlitReceive i time bs) s = .next s)
      ∧ (parseFlit bs = none → exec (.tickFlitReceive i time bs) s = .next (badMarker s i)))

/-! ## Set-up registers -/

/-- R30, R450, R451: a read of the low word of TICK_NOW, PWR_MET or FLOG_NEWEST returns its low bits and latches the high ones; in the
recovery state the first two read zero (R456). R95, R436: a read of BAR2, and a read of BAR0 that is not one aligned word or two, return
zero. R89: the functions enumerate with their identity. -/
def Obligations.LatchingReads : Prop :=
  (∀ (s : State) (f off size time : Nat),
    ((size ≠ 4 ∨ off % 4 ≠ 0) → (size ≠ 8 ∨ off % 8 ≠ 0) → barRead s f off size time = 0) ∧ bar2Read s f off size = 0
    ∧ ((getFn s f).present = true → ∃ d, identityOf s f = some d ∧ d.vendor = 0x1FD7 ∧ d.device = (if f = 0 then 0x0740 else 0x0741)
        ∧ d.classCode = 0x120000 ∧ d.subVendor = 0x1FD7 ∧ d.subsystem = 0x0001)
    ∧ ((getFn s f).present = false → identityOf s f = none))
  ∧ ∀ s : State, barOpen s 0 = true →
    let tick := if s.dev.state = .recovery then 0 else s.tick.num.toNat
    let met := if s.dev.state = .recovery then 0 else s.pwr.met.toNat
    let newest := (s.flog.newest.head?.elim 0 (fun r => r.seq.toNat))
    (∃ u, exec .tickNowLoRead s = .next u ∧ u.dev.readData.toNat = tick % 2 ^ 32 ∧ u.tick.nowHi.toNat = tick / 2 ^ 32
      ∧ u.tick.num = s.tick.num ∧ ∀ time, (barRead u 0 0x3018 4 time).toNat = tick % 2 ^ 32 ∧ (barRead u 0 0x301C 4 time).toNat = tick / 2 ^ 32)
    ∧ (∃ u, exec .pwrMetLoRead s = .next u ∧ u.dev.readData.toNat = met % 2 ^ 32 ∧ u.pwr.metHi.toNat = met / 2 ^ 32
      ∧ u.pwr.met = s.pwr.met ∧ ∀ time, (barRead u 0 0x3110 4 time).toNat = met % 2 ^ 32 ∧ (barRead u 0 0x3114 4 time).toNat = met / 2 ^ 32)
    ∧ (∃ u, exec .flogNewestLoRead s = .next u ∧ u.dev.readData.toNat = newest % 2 ^ 32 ∧ u.flog.newHi.toNat = newest / 2 ^ 32
      ∧ u.flog.waiting = s.flog.waiting
      ∧ ∀ time, (barRead u 0 0x4008 4 time).toNat = newest % 2 ^ 32 ∧ (barRead u 0 0x400C 4 time).toNat = newest / 2 ^ 32)

/-- R8: a write of 1 clears a W1C flag unless hardware sets it in the same cycle: then the flag stays set and its counter counts the
event. So of HOST_STAT of each function, of ASSIGN_STAT, TICK_STAT and PWR_STAT. -/
def Obligations.StatusFlagClears : Prop :=
  ∀ (fn : Nat) (v hw : Word) (s : State), barOpen s fn = true →
    let after := fun (old new : Flag) (i : Nat) =>
      (wbit hw i = true → new.set = true ∧ new.count = satInc old.count)
      ∧ (wbit hw i = false → wbit v i = true → new.set = false ∧ new.count = old.count)
      ∧ (wbit hw i = false → wbit v i = false → new = old)
    (∃ u, exec (.w1cFlagClear fn 0x008 v hw) s = .next u ∧ after (getFn s fn).dbDrop (getFn u fn).dbDrop 0
      ∧ after (getFn s fn).frOff (getFn u fn).frOff 1 ∧ after (getFn s fn).lrOff (getFn u fn).lrOff 2
      ∧ after (getFn s fn).wrRef (getFn u fn).wrRef 3)
    ∧ (fn = 0 → ∃ u, exec (.w1cFlagClear fn 0x2000 v hw) s = .next u ∧ after s.dev.assignErr u.dev.assignErr 0)
    ∧ (fn = 0 → s.dev.state ≠ .recovery → ∃ u, exec (.w1cFlagClear fn 0x3008 v hw) s = .next u
      ∧ after s.tick.srcLost u.tick.srcLost 8 ∧ after s.tick.edgeReject u.tick.edgeReject 9
      ∧ after s.tick.perMismatch u.tick.perMismatch 10 ∧ after s.tick.wrRefused u.tick.wrRefused 11
      ∧ after s.tick.auditFail u.tick.auditFail 12)
    ∧ (fn = 0 → s.dev.state ≠ .recovery → ∃ u, exec (.w1cFlagClear fn 0x3104 v hw) s = .next u
      ∧ after s.pwr.stretchOver u.pwr.stretchOver 8 ∧ after s.pwr.tokOverrun u.pwr.tokOverrun 9
      ∧ after s.pwr.wrRefused u.pwr.wrRefused 10 ∧ after s.pwr.thermEvent u.pwr.thermEvent 11)

/-- R421, R436: PWR_CAP takes C from 1,500 W to 7,000 W and X from C to 8,500 W; any other value is refused as a whole. A BAR0 write is
one aligned word, or two at a multiple of 8, the lower first; any other size or alignment changes nothing. R7: an RW register reads back
what a write has left in it. -/
def Obligations.PowerCapAndWriteSizes : Prop :=
  (∀ (v : Word) (s : State), registersServe s 0 →
    let c := wbits v 0 10
    let x := wbits v 16 10
    (c < 150 ∨ 700 < c ∨ x < c ∨ 850 < x → exec (.pwrCapWrite v) s
      = .next { s with pwr := { s.pwr with wrRefused := hitFlag s.pwr.wrRefused } })
    ∧ (150 ≤ c → c ≤ 700 → c ≤ x → x ≤ 850 → ∃ u, exec (.pwrCapWrite v) s = .next u ∧ u.pwr.cap.toNat = c + x * 2 ^ 16
        ∧ (∀ time, (read32 u 0 0x3100 time).toNat = c + x * 2 ^ 16)
        ∧ u.pwr.wrRefused = s.pwr.wrRefused ∧ u.tick = s.tick))
  ∧ (∀ (fn off size time : Nat) (v : DWord) (s : State),
    ((size ≠ 4 ∨ off % 4 ≠ 0) → (size ≠ 8 ∨ off % 8 ≠ 0) → exec (.registerWrite fn off size time v) s = .next s)
    ∧ (registersServe s fn → fn = 0 → off = 0x4010 → size = 4 → ∃ u, exec (.registerWrite fn off size time v) s = .next u
        ∧ u.flog.sel = v.setWidth 32 ∧ read32 u 0 0x4010 time = v.setWidth 32 ∧ u.flog.waiting = s.flog.waiting)
    ∧ (registersServe s fn → off = 0x050 → size = 4 → controlClosed s fn = true →
        ∃ u, exec (.registerWrite fn off size time v) s = .next u ∧ (getFn u fn).crCfg.toNat = v.toNat % 2 ^ 14
          ∧ (read32 u fn 0x050 time).toNat = v.toNat % 2 ^ 14)
    ∧ (registersServe s fn → off = 0x050 → size = 4 → controlClosed s fn = false →
        ∃ u, exec (.registerWrite fn off size time v) s = .next u ∧ (getFn u fn).crCfg = (getFn s fn).crCfg
          ∧ (getFn u fn).wrRef = hitFlag (getFn s fn).wrRef))

/-- R88, R441: a ring is enabled with a legal size, entries and base, and starts at tail 0 with phase 1; a disable is taken; a change of
any other field under ENABLE, or an enable out of range, sets HOST_STAT.WRITE_REFUSED and changes nothing else of the ring. -/
def Obligations.RingEnables : Prop :=
  ∀ (f : Nat) (v : Word) (s : State), registersServe s f →
    let p := getFn s f
    let frSame := wbits v 0 10 = wbits p.frCfg 0 10
    let frOk := 6 ≤ wbits v 0 5 ∧ wbits v 0 5 ≤ 16 ∧ p.frBase ≠ 0
    let lrSame := wbits v 0 9 = wbits p.lrCfg 0 9
    let lrOk := 4 ≤ wbits v 0 4 ∧ wbits v 0 4 ≤ 12 ∧ p.lrBase ≠ 0
    (wbit p.frCfg 31 = true → frSame → ∃ u, exec (.faultRingEnable f v) s = .next u
      ∧ (getFn u f).frCfg.toNat = wbits v 0 10 + b2n (wbit v 31) * 2 ^ 31 ∧ (getFn u f).fr = p.fr)
    ∧ (wbit p.frCfg 31 = false → wbit v 31 = true → frOk → ∃ u, exec (.faultRingEnable f v) s = .next u
      ∧ (getFn u f).frCfg.toNat = wbits v 0 10 + 2 ^ 31 ∧ (getFn u f).fr = { tail := 0, phase := true, head := 0, used := 0 })
    ∧ ((wbit p.frCfg 31 = true ∧ ¬frSame) ∨ (wbit p.frCfg 31 = false ∧ wbit v 31 = true ∧ ¬frOk) →
      ∃ u, exec (.faultRingEnable f v) s = .next u ∧ (getFn u f).frCfg = p.frCfg ∧ (getFn u f).fr = p.fr
        ∧ (getFn u f).wrRef = hitFlag p.wrRef)
    ∧ (wbit p.lrCfg 31 = true → lrSame → ∃ u, exec (.ledgerRingEnable f v) s = .next u
      ∧ (getFn u f).lrCfg.toNat = wbits v 0 9 + b2n (wbit v 31) * 2 ^ 31 ∧ (getFn u f).lr = p.lr)
    ∧ (wbit p.lrCfg 31 = false → wbit v 31 = true → lrOk → ∃ u, exec (.ledgerRingEnable f v) s = .next u
      ∧ (getFn u f).lrCfg.toNat = wbits v 0 9 + 2 ^ 31 ∧ (getFn u f).lr = { tail := 0, phase := true, head := 0, used := 0 })
    ∧ ((wbit p.lrCfg 31 = true ∧ ¬lrSame) ∨ (wbit p.lrCfg 31 = false ∧ wbit v 31 = true ∧ ¬lrOk) →
      ∃ u, exec (.ledgerRingEnable f v) s = .next u ∧ (getFn u f).lrCfg = p.lrCfg ∧ (getFn u f).lr = p.lr
        ∧ (getFn u f).wrRef = hitFlag p.wrRef)

/-- R121, R122, R442: MSIX_MOD takes a legal mode, COUNT and DELAY, and restarts the count; an unmasked vector writes its data at its
address, a masked one holds its message pending until its mask and the function's are clear. The delay of COUNT_DELAY sends the
message of the events counted; PER_TICK sends at B + 2 µs those queued before B. -/
def Obligations.InterruptVectors : Prop :=
  ∀ (f n : Nat) (s : State), registersServe s f → n < 32 →
    let p := getFn s f
    let x := getVec p n
    let masked := x.mask || p.fnMask
    let message := hostWrite s.host x.addr.toNat (leBytes x.data.toNat 4)
    let sentAs := fun (y : Vec) (count : Nat) =>
      y = { x with count := count, before := 0, delayOn := false, pending := masked, sent := if masked then x.sent else x.sent + 1 }
    (∀ v : Word, wbits v 0 2 ≠ 3 → wbits v 4 8 ≠ 0 → wbits v 16 12 ≠ 0 → modMask v ≠ x.modr →
      ∃ u, exec (.msixModWrite f n v) s = .next u ∧ (getVec (getFn u f) n).modr = modMask v ∧ (getVec (getFn u f) n).count = 0
        ∧ (x.count = 0 → u.host = s.host) ∧ (x.count ≠ 0 → masked = false → u.host = message))
    ∧ (∀ v : Word, wbits v 0 2 = 3 ∨ wbits v 4 8 = 0 ∨ wbits v 16 12 = 0 →
      ∃ u, exec (.msixModWrite f n v) s = .next u ∧ getVec (getFn u f) n = x ∧ (getFn u f).wrRef = hitFlag p.wrRef)
    ∧ (∃ u, exec (.msixVectorMaskWrite f (some n) true) s = .next u ∧ getVec (getFn u f) n = { x with mask := true } ∧ u.host = s.host)
    ∧ (p.fnMask = false → x.pending = true → ∃ u, exec (.msixVectorMaskWrite f (some n) false) s = .next u
        ∧ getVec (getFn u f) n = { x with mask := false, pending := false, sent := x.sent + 1 } ∧ u.host = message)
    ∧ (p.fnMask = true ∨ x.pending = false → ∃ u, exec (.msixVectorMaskWrite f (some n) false) s = .next u
        ∧ getVec (getFn u f) n = { x with mask := false } ∧ u.host = s.host)
    ∧ (∃ u, exec (.msixVectorMaskWrite f none true) s = .next u ∧ (getFn u f).fnMask = true ∧ getVec (getFn u f) n = x ∧ u.host = s.host)
    ∧ (∃ u, exec (.msixVectorMaskWrite f none false) s = .next u ∧ (getFn u f).fnMask = false
        ∧ getVec (getFn u f) n = if x.pending && !x.mask then { x with pending := false, sent := x.sent + 1 } else x)
    ∧ (wbits x.modr 0 2 = 1 → x.delayOn = true → ∃ u, exec (.msixDelayExpiry f n) s = .next u ∧ sentAs (getVec (getFn u f) n) 0
        ∧ u.host = if masked then s.host else message)
    ∧ (wbits x.modr 0 2 ≠ 1 ∨ x.delayOn = false → exec (.msixDelayExpiry f n) s = .next s)
    ∧ ((s.fns.map Prod.fst).Nodup → (p.vecs.map Prod.fst).Nodup → ∃ u, exec .msixPerTick s = .next u
        ∧ (wbits x.modr 0 2 = 2 → 0 < x.before → sentAs (getVec (getFn u f) n) (x.count - x.before))
        ∧ (wbits x.modr 0 2 ≠ 2 ∨ x.before = 0 → getVec (getFn u f) n = x))

/-- R288, R446, R447: the words of a context's assignment. FUNC and LOCAL change only while the context is CLOSED, is not context 0 and
no other context has that local index of a VF; PASID only while CLOSED; QUOTA never below what is held, nor past the device's
extents. Anything else sets ASSIGN_ERR and changes no context. -/
def Obligations.ContextAssignment : Prop :=
  ∀ (c : Nat) (v : Word) (s : State), registersServe s 0 → c < 16384 →
    let x := getCtx s c
    let f := wbits v 0 7
    let l := if f = 0 then 0 else wbits v 16 10
    let dup := ∃ p ∈ s.ctxs, p.1 ≠ c ∧ 0 < f ∧ f < 64 ∧ p.2.func.toNat = f ∧ p.2.loc.toNat = l
    let q := wbits v 0 20
    let refused := Host.Outcome.next { s with dev := { s.dev with assignErr := hitFlag s.dev.assignErr } }
    (¬(x.func.toNat = f ∧ x.loc.toNat = l) →
      (c = 0 ∨ x.state ≠ .closed ∨ (64 ≤ f ∧ f ≤ 126) ∨ dup → exec (.contextAssignWrite c 0 v) s = refused)
      ∧ (c ≠ 0 → x.state = .closed → (f < 64 ∨ f = 127) → ¬dup → ∃ u, exec (.contextAssignWrite c 0 v) s = .next u
        ∧ (getCtx u c).func.toNat = f ∧ (getCtx u c).loc.toNat = l ∧ (∀ d, d ≠ c → getCtx u d = getCtx s d)))
    ∧ (¬(x.pasid.toNat = q ∧ x.pasidEn = wbit v 31) →
      (x.state ≠ .closed → exec (.contextAssignWrite c 1 v) s = refused)
      ∧ (x.state = .closed → ∃ u, exec (.contextAssignWrite c 1 v) s = .next u ∧ (getCtx u c).pasid.toNat = q
        ∧ (getCtx u c).pasidEn = wbit v 31 ∧ (∀ d, d ≠ c → getCtx u d = getCtx s d)))
    ∧ (522240 < quotaTotal s - x.quota.toNat + q ∨ q < (heldExtents s c).length → exec (.contextAssignWrite c 2 v) s = refused)
    ∧ (quotaTotal s - x.quota.toNat + q ≤ 522240 → (heldExtents s c).length ≤ q →
        ∃ u, exec (.contextAssignWrite c 2 v) s = .next u ∧ (getCtx u c).quota.toNat = q ∧ (∀ d, d ≠ c → getCtx u d = getCtx s d))

/-- R94, R440: CR_CTL opens a CLOSED control context with sizes in range and bases given, its rings from the start; closes an OPEN one
that holds no plan and no stream while the function's others are CLOSED; resets one in ERROR. A write that may not be done, or sets
two bits, is refused. -/
def Obligations.ControlContexts : Prop :=
  ∀ (f c : Nat) (v : Word) (s : State), crAllowed s f = true → manyBits v = false → ctxOf s f 0 = some c →
    let p := getFn s f
    let x := getCtx s c
    let refused := fun (i : Instr) => exec i s = .next (setFn s f { p with wrRef := hitFlag p.wrRef })
    let openOk := x.state = .closed ∧ crCfgOk p.crCfg = true ∧ p.crSqBase ≠ 0 ∧ p.crCqBase ≠ 0
    let closeOk := x.state = .opened ∧ holdsPlan s c = false ∧ x.streams = [] ∧ othersClosed s f c = true
    let resetOk := x.state = .error ∧ (f = 0 ∨ othersClosed s f c = true)
    (wbit v 0 = true → openOk → ∃ u, exec (.crOpen f v) s = .next u ∧ (getCtx u c).state = .opened
        ∧ (getCtx u c).sqBase = p.crSqBase ∧ (getCtx u c).cqBase = p.crCqBase ∧ (getCtx u c).sqLog2 = wbits p.crCfg 0 4
        ∧ (getCtx u c).cqLog2 = wbits p.crCfg 4 5 ∧ (getCtx u c).vector = wbits p.crCfg 9 5 ∧ (getCtx u c).sqHead = 0
        ∧ (getCtx u c).sqTail = 0 ∧ (getCtx u c).cq = { tail := 0, phase := true, head := 0, used := 0 }
        ∧ (∀ d, d ≠ c → getCtx u d = getCtx s d))
    ∧ (wbit v 0 = true → ¬openOk → refused (.crOpen f v))
    ∧ (wbit v 1 = true → closeOk → x.opens = [] → x.fetched = none → x.holds = [] → (∀ q ∈ s.plans, q.key.ctx ≠ c) → idle s →
        ∃ u, exec (.crClose f v) s = .next u ∧ (getCtx u c).state = .closed ∧ u.plans = s.plans)
    ∧ (wbit v 1 = true → ¬closeOk → refused (.crClose f v))
    ∧ (wbit v 2 = true → resetOk → idle s → ∃ u, exec (.crReset f v) s = .next u ∧ (getCtx u c).state = .closed
        ∧ ∀ w ∈ u.tags, w.awaiting ≠ some c)
    ∧ (wbit v 2 = true → ¬resetOk → refused (.crReset f v))

/-! ## Rings and descriptors -/

/-- R95, R96, R455: a doorbell write with a head or a tail inside its ring takes it, and returns the tags of the entries consumed; the ring's
size is of the context that the line names. A write of another size, of a value outside its ring, to a line without an open
context, or at an offset of BAR2 where a line has no field is dropped whole and counted. BAR2 reads return zero. -/
def Obligations.Doorbells : Prop :=
  ∀ (f line size : Nat) (v : DWord) (s : State), registersServe s f →
    let p := getFn s f
    let dropped := fun (i : Instr) => exec i s = .next (setFn s f { p with dbDrop := hitFlag p.dbDrop })
    let badSize := ¬(size = 4 ∨ (size = 8 ∧ dbits v 32 32 = 0))
    let doorbell := Instr.doorbellSqCq f (64 * line) size v
    (badSize ∨ ctxOf s f line = none → dropped doorbell)
    ∧ (∀ off, off % 64 ≠ 0 → off % 64 ≠ 0x08 → off % 64 ≠ 0x0C → dropped (.doorbellSqCq f off size v))
    ∧ (∀ off, bar2Read s f off size = 0)
    ∧ (∀ c, ctxOf s f line = some c → ¬badSize →
        let x := getCtx s c
        let sqV := bitOf v.toNat 12
        let cqV := bitOf v.toNat 15
        let n := consumedBy x.cq (dbits v 16 16) (cqSize x)
        let out := (cqV = true ∧ cqSize x ≤ dbits v 16 16) ∨ (sqV = true ∧ x.state = .opened ∧ sqSize x ≤ dbits v 0 12)
        (x.state = .closed ∨ out → dropped doorbell)
        ∧ (x.state ≠ .closed → ¬out → ∃ u, exec doorbell s = .next u
          ∧ (sqV = true → x.state = .opened → (getCtx u c).sqTail = dbits v 0 12)
          ∧ (sqV = false ∨ x.state ≠ .opened → (getCtx u c).sqTail = x.sqTail)
          ∧ (cqV = true → (getCtx u c).cq = { x.cq with head := dbits v 16 16, used := x.cq.used - n }
              ∧ u.tags = s.tags.filter (fun w => !(w.awaiting == some c && (x.inRing.take n).contains w.tag)))
          ∧ (cqV = false → (getCtx u c).cq = x.cq ∧ u.tags = s.tags)))
    ∧ (size = 4 → controlLine s f line = true →
        (dbits v 0 16 < 2 ^ wbits p.frCfg 0 5 → ∃ u, exec (.doorbellFaultHead f line size v) s = .next u
          ∧ (getFn u f).fr = ringHead p.fr (dbits v 0 16) (2 ^ wbits p.frCfg 0 5))
        ∧ (2 ^ wbits p.frCfg 0 5 ≤ dbits v 0 16 → dropped (.doorbellFaultHead f line size v))
        ∧ (dbits v 0 12 < 2 ^ wbits p.lrCfg 0 4 → ∃ u, exec (.doorbellLedgerHead f line size v) s = .next u
          ∧ (getFn u f).lr = ringHead p.lr (dbits v 0 12) (2 ^ wbits p.lrCfg 0 4))
        ∧ (2 ^ wbits p.lrCfg 0 4 ≤ dbits v 0 12 → dropped (.doorbellLedgerHead f line size v)))
    ∧ (controlLine s f line = false → dropped (.doorbellFaultHead f line size v) ∧ dropped (.doorbellLedgerHead f line size v))

/-- R97 to R101, R105: NOP completes SUCCESS, an opcode that the table does not list BAD_OPCODE; each takes a tag, moves the head by one
and writes its entry into the next slot of the completion ring.
R5, R6, R104, R105: the refusals that come before a descriptor's own checks, of all its opcodes: the entry carries their code and
nothing that the descriptor describes happens.
R97, R103: a descriptor that its fence keeps from starting is fetched, with its tag, and nothing of it happens; once nothing it waits for
is left it starts with that tag, and no fetch comes with it. -/
def Obligations.DescriptorChecks : Prop :=
  (∀ (d : Desc) (t : Nat) (s : State), fetches s d t → entryFree s d.ctx → idle s → d.rsvA = 0 → d.rsvB = 0 →
      ([d.w10, d.w18, d.w20, d.w28, d.w30, d.w38] = [0, 0, 0, 0, 0, 0] →
        ∃ u, exec (.nop d) s = .next u ∧ completesAs s u d t (descEntry s d 0x00 t (if d.planId = 0 then 0x00 else 0x13) 0))
      ∧ ([d.w10, d.w18, d.w20, d.w28, d.w30, d.w38] ≠ [0, 0, 0, 0, 0, 0] →
        ∃ u, exec (.nop d) s = .next u ∧ completesAs s u d t (descEntry s d 0x00 t 0x11 0))
      ∧ (∀ o : Byte, opcodeListed o.toNat = false →
        ∃ u, exec (.badOpcode o d) s = .next u ∧ completesAs s u d t (descEntry s d o.toNat t 0x10 0)))
  ∧ (∀ (d : Desc) (t : Nat) (s : State), fetches s d t → entryFree s d.ctx → idle s →
      let refuses := fun (i : Instr) (o code : Nat) => ∃ u, exec i s = .next u ∧ completesAs s u d t
        (if o = 0x01 then { descEntry s d o t code 0 with kind := 1 } else descEntry s d o t code 0)
      ∀ (bytes : List Byte), ∀ p ∈ [(Instr.nop d, 0x00), (.plan d, 0x01), (.planWithdraw d, 0x02), (.move d bytes, 0x03),
          (.pageWrite d bytes, 0x04), (.pagePublish d, 0x04), (.pageCreate d, 0x04), (.pageDestroy d, 0x04), (.tickWait d, 0x05),
          (.ctxOpen d, 0x08), (.ctxClose d, 0x09), (.imageStore d bytes, 0x10), (.imageLoad d, 0x11), (.imageDelete d, 0x12),
          (.fwUpdate d bytes, 0x18), (.configUpdate d bytes, 0x19), (.attest d, 0x1A), (.streamOpen d bytes, 0x30),
          (.streamClose d, 0x31), (.codecJob d, 0x32)],
        (opcodePermitted s p.2 d.ctx = false → refuses p.1 p.2 0x14)
        ∧ (opcodePermitted s p.2 d.ctx = true → d.rsvA ≠ 0 ∨ d.rsvB ≠ 0 → refuses p.1 p.2 0x11))
  ∧ (∀ (d : Desc) (t : Nat) (s : State), alive s = true → ringsPaused s = false → (getFn s ((ctxFn s d.ctx).getD 0)).d3hot = false →
      let x := getCtx s d.ctx
      (x.state = .opened → x.fetched = none → x.sqHead ≠ x.sqTail → fenceOk x d = false → descTag s = some t →
        ∃ u, exec (.nop d) s = .next u
          ∧ getCtx u d.ctx = { x with sqHead := (x.sqHead + 1) % sqSize x, sqFree := x.sqFree + 1, fetched := some t,
                                      timer := x.timer && (x.sqHead + 1) % sqSize x != x.sqTail }
          ∧ u.tags = s.tags ++ [{ tag := t, owner := .desc d.ctx, awaiting := none }] ∧ u.host = s.host)
      ∧ (x.state = .opened → x.fetched = some t → fenceOk x d = false → exec (.nop d) s = .next s)
      ∧ (x.state = .opened → x.fetched = some t → fenceOk x d = true → entryFree s d.ctx → idle s → inService s = true →
        d.rsvA = 0 → d.rsvB = 0 → [d.w10, d.w18, d.w20, d.w28, d.w30, d.w38] = [0, 0, 0, 0, 0, 0] → ∃ u, exec (.nop d) s = .next u
          ∧ (getCtx u d.ctx).fetched = none ∧ (getCtx u d.ctx).sqHead = x.sqHead ∧ (getCtx u d.ctx).inRing = x.inRing ++ [t]
          ∧ (d.noIrq = true → u.host = hostWrite s.host (x.cqBase.toNat + 32 * x.cq.tail)
              (entryBytes (descEntry s d 0x00 t (if d.planId = 0 then 0x00 else 0x13) 0) x.sqHead x.cq.phase))))

/-- R26, R97, R98, R99, R119, R120, R393: the oldest waiting entry is written once a slot and a tag are free; the oldest record that waits
for a function's enabled ring is written to its next slot, and so is the next Mehrong record once all its slots are free and no entry
of its plan's outputs waits; a published descriptor that has not arrived when the fetch timer expires puts the context into ERROR. -/
def Obligations.EntriesAndRecords : Prop :=
  (∀ (c : Nat) (e : CEntry) (rest : List CEntry) (s : State), alive s = true → ringsPaused s = false → cqFree s c = true → idle s →
    (getCtx s c).holds = e :: rest → e.tag ≠ noTag → (e.kind = 3 → waitingJobs s { ctx := c, id := e.planId.toNat } none = []) →
    ∃ u, exec (.completionWrite c) s = .next u ∧ (getCtx u c).holds = rest ∧ (getCtx u c).cq = ringNext (getCtx s c).cq (cqSize (getCtx s c))
      ∧ (getCtx u c).inRing = (getCtx s c).inRing ++ [e.tag]
      ∧ (e.noIrq = true → u.host = hostWrite s.host ((getCtx s c).cqBase.toNat + 32 * (getCtx s c).cq.tail)
          (entryBytes e (getCtx s c).sqHead (getCtx s c).cq.phase)))
  ∧ (∀ (c : Nat) (s : State), cqFree s c = false → exec (.completionWrite c) s = .next s)
  ∧ (∀ (f : Nat) (r : FaultRec) (s : State), alive s = true → wbit (getFn s f).frCfg 31 = true →
    (getFn s f).fr.used < 2 ^ wbits (getFn s f).frCfg 0 5 → s.flog.waiting.find? (needsRing f) = some r →
    wbits (getVec (getFn s f) (wbits (getFn s f).frCfg 5 5)).modr 0 2 = 2 →
    ∃ u, exec (.faultRecordWrite f) s = .next u ∧ (getFn u f).fr = ringNext (getFn s f).fr (2 ^ wbits (getFn s f).frCfg 0 5)
      ∧ u.host = hostWrite s.host ((getFn s f).frBase.toNat + 64 * (getFn s f).fr.tail) (recordBytes r (getFn s f).fr.phase)
      ∧ u.flog.newest = s.flog.newest)
  ∧ (∀ (f : Nat) (r : LedgerRec) (rest : List LedgerRec) (s : State), alive s = true → wbit (getFn s f).lrCfg 31 = true →
    (getFn s f).ledger = r :: rest →
    let size := 2 ^ wbits (getFn s f).lrCfg 0 4
    let n := cdiv r.bytes.length 4080
    ((getFn s f).lr.used + n ≤ size → entryWaits s r = false → ∃ u, exec (.ledgerRecordWrite f) s = .next u ∧ (getFn u f).ledger = rest
      ∧ (getFn u f).lr = (writeSlots s.host (getFn s f).lrBase.toNat r n size (getFn s f).lr n).2)
    ∧ (size < (getFn s f).lr.used + n ∨ entryWaits s r = true → exec (.ledgerRecordWrite f) s = .next s))
  ∧ (∀ (c : Nat) (s : State), alive s = true → (getCtx s c).state = .opened → (getCtx s c).sqHead ≠ (getCtx s c).sqTail →
    (descTag s).isSome = true →
    ((getCtx s c).timer = true → ∃ u, exec (.descriptorFetchTimeout c) s = .next u ∧ (getCtx u c).state = .error
      ∧ (getCtx u c).timer = false ∧ (∀ d, d ≠ c → getCtx u d = getCtx s d))
    ∧ ((getCtx s c).timer = false → exec (.descriptorFetchTimeout c) s = .next s))

/-- R83, R86 to R88, R379: a failed read of descriptors puts its context into ERROR, a failed ring write disables the ring, a failed
data access fails its descriptor with the code of the failure, or, where none is open, the one that starts next with host data of its
own; an invalidation drops the cached translations and completes once the requests that used them have; a TLP outside the stream is counted, a lost stream puts every open context of the function into ERROR; the PF answers SPDM. -/
def Obligations.HostFailures : Prop :=
  ∀ (s : State), alive s = true → s.attic.imageOps = [] → s.attic.updates = [] →
    (∀ (c : Nat) (e : HostErr) (a : DWord), (getCtx s c).state = .opened → ∃ u, exec (.hostAccessFail (.sqRead c) e a) s = .next u
      ∧ (getCtx u c).state = .error ∧ u.flog = logEvent (ctxError s c) { code := hostErrCode e, ctx := some c, d0 := a.toNat })
    ∧ (∀ (c : Nat) (e : HostErr) (a : DWord), (getCtx s c).state = .opened → ∃ u, exec (.hostAccessFail (.entryWrite c) e a) s = .next u
      ∧ (getCtx u c).state = .error ∧ (getCtx u c).cqBad = true)
    ∧ (∀ (f : Nat) (e : HostErr) (a : DWord), wbit (getFn s f).frCfg 31 = true → ∃ u, exec (.hostAccessFail (.faultRing f) e a) s = .next u
      ∧ wbit (getFn u f).frCfg 31 = false ∧ (getFn u f).frOff = hitFlag (getFn s f).frOff ∧ (getFn u f).aerHost = (getFn s f).aerHost + 1)
    ∧ (∀ (f : Nat) (e : HostErr) (a : DWord), wbit (getFn s f).lrCfg 31 = true → ∃ u, exec (.hostAccessFail (.ledgerRing f) e a) s = .next u
      ∧ wbit (getFn u f).lrCfg 31 = false ∧ (getFn u f).lrOff = hitFlag (getFn s f).lrOff)
    ∧ (∀ (c k : Nat) (o : OpenDesc) (e : HostErr) (a : DWord), ((getCtx s c).opens.filter hasHostData)[k]? = some o → entryFree s c →
        ringsPaused s = false → idle s → ∃ u, exec (.hostAccessFail (.data c k) e a) s = .next u
        ∧ (getCtx u c).opens = (getCtx s c).opens.filter (fun q => q.tag != o.tag) ∧ (getCtx u c).inRing = (getCtx s c).inRing ++ [o.tag]
        ∧ (o.noIrq = true → u.host = hostWrite s.host ((getCtx s c).cqBase.toNat + 32 * (getCtx s c).cq.tail)
            (entryBytes (openEntry s o (hostErrCode e) 0) (getCtx s c).sqHead (getCtx s c).cq.phase))
        ∧ ∀ f, (getFn s f).atsWait = [[(c, o.tag)]] → (getFn u f).atsWait = [] ∧ (getFn u f).atsDone = (getFn s f).atsDone + 1)
    ∧ (∀ (c k : Nat) (e : HostErr) (a : DWord), ((getCtx s c).opens.filter hasHostData)[k]? = none → (getCtx s c).state = .opened →
        ∃ u, exec (.hostAccessFail (.data c k) e a) s = .next u ∧ (getCtx u c).dataFail = some (e, a)
          ∧ (getCtx u c).state = .opened ∧ u.flog = s.flog)
    ∧ (∀ (f : Nat) (p : Option (BitVec 20)), (getFn s f).present = true →
      ∃ u, exec (.atsInvalidation f p) s = .next u ∧ p ∉ (getFn u f).atc
        ∧ (usesXlat s f p = [] → (getFn u f).atsDone = (getFn s f).atsDone + 1 ∧ (getFn u f).atsWait = (getFn s f).atsWait)
        ∧ (usesXlat s f p ≠ [] → (getFn u f).atsDone = (getFn s f).atsDone ∧ (getFn u f).atsWait = (getFn s f).atsWait ++ [usesXlat s f p]))
    ∧ (∀ f : Nat, 0 < (getFn s f).ide →
      (∃ u, exec (.ideTlpOutsideStream f) s = .next u ∧ (getFn u f).aerIde = (getFn s f).aerIde + 1 ∧ u.ctxs = s.ctxs)
      ∧ (∃ u, exec (.ideStreamLoss f) s = .next u ∧ (getFn u f).ide + 1 = (getFn s f).ide
          ∧ ∀ c ∈ ctxsOf s f, (getCtx s c).state = .opened → (getCtx u c).state = .error))
    ∧ (∀ (f k : Nat), ideStreams s < 4 → (getFn s f).present = true →
      ∃ u, exec (.doeSpdmRequest (.setIdeKeys f k)) s = .next u ∧ (getFn u f).ide = (getFn s f).ide + 1)
    ∧ (∃ u, exec (.doeSpdmRequest (.getCertificate 0)) s = .next u ∧ u.dev.spdm = Config.certChain)

/-- R123, R437: a function level reset of a VF closes its contexts without entries, resets its page, and logs FLR; that of the PF ends
the VFs and closes every context; D3hot is taken only while no plan is admitted; VF Enable brings up 1 to n and takes them away. -/
def Obligations.FunctionResets : Prop :=
  ∀ s : State, alive s = true → s.dev.state = .inService →
    (∀ f : Nat, f ≠ 0 → (getFn s f).present = true → idle s → ∃ u, exec (.flrVf f) s = .next u
      ∧ getFn u f = pageReset { getFn s f with atsWait := (getFn u f).atsWait, atsDone := (getFn u f).atsDone } ∧ (∀ c ∈ ctxsOf s f, (getCtx u c).state = .closed ∧ (getCtx u c).opens = [])
      ∧ u.flog = logEvent s { code := 0x0406, d0 := f, d1 := (fnPlans s f).length } ∧ u.host = s.host)
    ∧ (∃ u, exec .flrPf s = .next u ∧ u.dev.numVfs = 0 ∧ (∀ p ∈ u.ctxs, p.2.state = .closed) ∧ u.tick = s.tick)
    ∧ (∀ f : Nat, (getFn s f).present = true →
      (anyPlan s = false → ∃ u, exec (.powerStateWrite f true) s = .next u ∧ getFn u f = { getFn s f with d3hot := true })
      ∧ (anyPlan s = true → exec (.powerStateWrite f true) s = .next s)
      ∧ (∃ u, exec (.powerStateWrite f false) s = .next u ∧ getFn u f = { getFn s f with d3hot := false }))
    ∧ (∀ n : Nat, n ≤ 63 → s.dev.numVfs = 0 → ∃ u, exec (.vfEnableWrite true n) s = .next u ∧ u.dev.numVfs = n
      ∧ ∀ f, getFn u f = if 1 ≤ f ∧ f ≤ n then { getFn s f with present := true } else getFn s f)
    ∧ (∀ n : Nat, 63 < n → exec (.vfEnableWrite true n) s = .next s)
    ∧ (idle s → ∃ u, exec (.vfEnableWrite false 0) s = .next u ∧ u.dev.numVfs = 0)

/-! ## Descriptors -/

/-- R93, R113, R114: TICK_WAIT completes at once when the release point of its tick has passed, and else waits for it. CTX_OPEN opens a
CLOSED context of the function; CTX_CLOSE closes an OPEN one that has nothing left, and completes BUSY where it holds a plan and
`force` is 0; a name of no such context completes with its code and changes no context. -/
def Obligations.TickWaitAndContexts : Prop :=
  ∀ (d : Desc) (t : Nat) (s : State),
    let g := fetched s d t
    let body := [d.w18, d.w20, d.w28, d.w30, d.w38] = [0, 0, 0, 0, 0]
    let completes := fun (i : Instr) (o code : Nat) => ∃ u, exec i s = .next u ∧ completesAs s u d t (descEntry s d o t code 0)
    (accepts s d t 0x05 → dbits d.w10 49 15 = 0 → body →
      (releasePassed s (waitTick s d) = true → completes (.tickWait d) 0x05 0x00)
      ∧ (releasePassed s (waitTick s d) = false → ∃ u, exec (.tickWait d) s = .next u ∧ opensAs s u d t 0x05 (.tick (waitTick s d))))
    ∧ (accepts s d t 0x08 → dbits d.w10 14 18 = 0 → dbits d.w10 46 18 = 0 → [d.w28, d.w30, d.w38] = [0, 0, 0] →
      (ctxOpenBad d = true ∨ vfRange s d = true → completes (.ctxOpen d) 0x08 0x13)
      ∧ (ctxOpenBad d = false → vfRange s d = false → targetCtx g d = none → completes (.ctxOpen d) 0x08 0x15)
      ∧ (∀ c, ctxOpenBad d = false → vfRange s d = false → targetCtx g d = some c → c ≠ d.ctx →
        ((getCtx s c).state ≠ .closed → completes (.ctxOpen d) 0x08 0x15)
        ∧ ((getCtx s c).state = .closed → ∃ u, exec (.ctxOpen d) s = .next u ∧ completesAs s u d t (descEntry s d 0x08 t 0x00 0)
          ∧ (getCtx u c).state = .opened ∧ (getCtx u c).sqBase = d.w18 ∧ (getCtx u c).cqBase = d.w20
          ∧ (getCtx u c).sqLog2 = dbits d.w10 32 4 ∧ (getCtx u c).cqLog2 = dbits d.w10 36 5 ∧ (getCtx u c).vector = dbits d.w10 41 5
          ∧ (getCtx u c).sqHead = 0 ∧ (getCtx u c).sqTail = 0)))
    ∧ (accepts s d t 0x09 → dbits d.w10 15 49 = 0 → body →
      (dbits d.w10 0 14 = 0 ∨ vfRange s d = true → completes (.ctxClose d) 0x09 0x13)
      ∧ (dbits d.w10 0 14 ≠ 0 → vfRange s d = false → targetCtx g d = none → completes (.ctxClose d) 0x09 0x15)
      ∧ (∀ c, dbits d.w10 0 14 ≠ 0 → vfRange s d = false → targetCtx g d = some c → c ≠ d.ctx → (∀ p ∈ s.plans, p.phase = .admitted) →
        ((getCtx s c).state = .closed → completes (.ctxClose d) 0x09 0x15)
        ∧ ((getCtx s c).state = .opened → holdsPlan s c = true → bitOf d.w10.toNat 14 = false → completes (.ctxClose d) 0x09 0x16)
        ∧ ((getCtx s c).state = .opened → (∀ p ∈ s.plans, p.key.ctx ≠ c) → (getCtx s c).opens = [] → (getCtx s c).fetched = none →
          (getCtx s c).holds = [] → (getCtx s c).streams = [] → ∃ u, exec (.ctxClose d) s = .next u ∧ (getCtx u c).state = .closed
            ∧ (getCtx u d.ctx).inRing = (getCtx s d.ctx).inRing ++ [t]
            ∧ (d.noIrq = true → u.host = hostWrite s.host ((getCtx s d.ctx).cqBase.toNat + 32 * (getCtx s d.ctx).cq.tail)
              (entryBytes (descEntry s d 0x09 t 0x00 0) (getCtx u d.ctx).sqHead (getCtx s d.ctx).cq.phase)))))

/-- R106 to R108: a PLAN whose own checks pass waits for its admission, and a refused one completes with its code; PLAN_WITHDRAW of an
admitted plan stops it at the next boundary and waits for its END entry; of a plan that is over it completes PLAN_UNKNOWN. -/
def Obligations.PlanDescriptors : Prop :=
  ∀ (d : Desc) (t : Nat) (s : State),
    let g := fetched s d t
    let k : PlanKey := { ctx := d.ctx, id := d.planId.toNat }
    (accepts s d t 0x01 → dbits d.w18 32 32 = 0 → d.w38 = 0 →
      (planRefusal g d = 0 → ∃ u, exec (.plan d) s = .next u ∧ opensAs s u d t 0x01 .admission
        ∧ u.plans = s.plans ++ [{ key := k, desc := d, tag := t }] ∧ u.threads = s.threads)
      ∧ (planRefusal g d ≠ 0 → ∃ u, exec (.plan d) s = .next u
        ∧ completesAs s u d t { descEntry s d 0x01 t (planRefusal g d) 0 with kind := 1 }))
    ∧ (accepts s d t 0x02 → [d.w10, d.w18, d.w20, d.w28, d.w30, d.w38] = [0, 0, 0, 0, 0, 0] →
      (getPlan s k = none → planOver g k = true → ∃ u, exec (.planWithdraw d) s = .next u
        ∧ completesAs s u d t (descEntry s d 0x02 t 0x19 0))
      ∧ (∀ p, getPlan s k = some p → p.phase = .admitted → p.stopped = false → p.stopping = none → ∃ u, exec (.planWithdraw d) s = .next u
        ∧ opensAs s u d t 0x02 (.withdraw k) ∧ getPlan u k = some { p with stopping := some 0 })
      ∧ (∀ p, getPlan s k = some p → p.phase = .waiting → ∃ u, exec (.planWithdraw d) s = .next u
        ∧ opensAs s u d t 0x02 (.withdraw k) ∧ u.plans = s.plans))

/-- R65, R68, R70, R107: the hall decides on a waiting plan. One that fits is admitted at its start tick with its promises, its room
programs stand ready and its ADMIT entry names the margin and the start; a refused one leaves nothing, and its ADMIT entry carries the
code. -/
def Obligations.PlanAdmissionDecides : Prop :=
  ∀ (k : PlanKey) (p : Plan) (o : OpenDesc) (s : State), inService s = true → ticking s.tick = true → admissionPaused s k.ctx = false →
    ringsPaused s = false → getPlan s k = some p → p.key = k → p.phase = .waiting →
    (getCtx s k.ctx).opens.find? (fun q => q.tag == p.tag) = some o → entryFree s k.ctx → idle s → (getCtx s k.ctx).streams = [] →
    let bin := readVa s k.ctx (planAddr p.desc) (planLen p.desc)
    (∀ t0 b, decidePlan s k.ctx bin = .ok (t0, b) → ∃ u q, exec (.planAdmission k) s = .next u ∧ getPlan u k = some q
      ∧ q.phase = .admitted ∧ q.t0 = t0 ∧ q.body = some b ∧ q.margin = marginOf b
      ∧ q.outs.map (fun x => (x.step, x.outId, x.promised)) = b.outputs.map (fun x => (x.1, x.2, t0 + x.1 + 1 + marginOf b))
      ∧ u.threads = s.threads ++ planThreads k b ∧ (getCtx u k.ctx).inRing = (getCtx s k.ctx).inRing ++ [o.tag])
    ∧ (∀ e, decidePlan s k.ctx bin = .error e → ∃ u, exec (.planAdmission k) s = .next u ∧ u.plans = dropFirst (fun q => q.key == k) s.plans
      ∧ u.threads = s.threads ∧ (getCtx u k.ctx).inRing = (getCtx s k.ctx).inRing ++ [o.tag])

/-- R109, R110: a MOVE that passes its checks starts, and a refused one completes with its code. When it completes its rows have landed
and its flag is stored; with `row_len` 0 it completes EMPTY; one whose segments were removed meanwhile writes nothing. -/
def Obligations.Moves : Prop :=
  (∀ (d : Desc) (data : List Byte) (t : Nat) (s : State), accepts s d t 0x03 → dbits d.w20 50 14 = 0 →
    (moveCode (fetched s d t) d = 0 → ∃ u, exec (.move d data) s = .next u ∧ opensAs s u d t 0x03 .move
      ∧ (getCtx u d.ctx).moves = (getCtx s d.ctx).moves ++ [{ desc := d, tag := t, data := data }])
    ∧ (moveCode (fetched s d t) d ≠ 0 → ∃ u, exec (.move d data) s = .next u
      ∧ completesAs s u d t (descEntry s d 0x03 t (moveCode (fetched s d t) d) 0)))
  ∧ (∀ (c k : Nat) (m : MoveJob) (o : OpenDesc) (s : State), alive s = true → ringsPaused s = false → entryFree s c → idle s →
    (getCtx s c).moves[k]? = some m → (getCtx s c).opens.find? (fun q => q.tag == m.tag) = some o → m.desc.ctx = c →
    ∃ u, exec (.moveComplete c k) s = .next u ∧ (getCtx u c).moves = (getCtx s c).moves.filter (fun q => q.tag != m.tag)
      ∧ (getCtx u c).opens = (getCtx s c).opens.filter (fun q => q.tag != o.tag)
      ∧ (getCtx u c).inRing = (getCtx s c).inRing ++ [o.tag]
      ∧ (moveCode s m.desc ≠ 0 → u.mem = s.mem)
      ∧ (moveCode s m.desc = 0 → moveLen m.desc = 0 → m.desc.w30 ≠ 0 →
          u.mem = writeVaMem s c m.desc.w30.toNat s.mem (leBytes m.desc.w38.toNat 8))
      ∧ (moveCode s m.desc = 0 → moveLen m.desc = 0 → m.desc.w30 = 0 → u.mem = s.mem)
      ∧ (moveCode s m.desc = 0 → moveLen m.desc ≠ 0 → moveDir m.desc = 0 → moveRows m.desc = 1 → m.desc.w30 = 0 →
          u.mem = writeVaMem s c m.desc.w18.toNat s.mem (slice m.data 0 (moveLen m.desc))))

/-- R111, R112, R236, R286: PAGE. WRITE of the address table is staged, and a PUBLISH of it whose generation is current takes effect at the
next release point; a stale generation completes with its code, and so does a WRITE whose entries could not be read (R88). CREATE gives a new table of the size and page asked; a table that a
plan names is not destroyed, and one that none names is gone. -/
def Obligations.PageDescriptors : Prop :=
  ∀ (d : Desc) (t : Nat) (es : List Byte) (s : State), accepts s d t 0x04 → pageReserved d = false →
    let g := fetched s d t
    let h := pageTable d
    let completes := fun (i : Instr) (code aux : Nat) (P : State → Prop) => ∃ u, exec i s = .next u
      ∧ (getCtx u d.ctx).inRing = (getCtx s d.ctx).inRing ++ [t] ∧ P u
      ∧ (d.noIrq = true → u.host = hostWrite s.host ((getCtx s d.ctx).cqBase.toNat + 32 * (getCtx s d.ctx).cq.tail)
          (entryBytes (descEntry s d 0x04 t code aux) (getCtx u d.ctx).sqHead (getCtx s d.ctx).cq.phase))
    (∀ e a, pageOp d = 0 → (getCtx s d.ctx).dataFail = some (e, a) →
      completes (.pageWrite d es) (hostErrCode e) 0 (fun u => (getCtx u d.ctx).addr = (getCtx s d.ctx).addr ∧ (getCtx u d.ctx).dataFail = none))
    ∧ (pageOp d = 0 → h = 0 → (getCtx s d.ctx).dataFail = none → publishPending s d.ctx 0 = false →
      completes (.pageWrite d es) (addrWrite g d.ctx (pageFirst d) (pageCount d) es).2 0
        (fun u => (getCtx u d.ctx).addr = (getCtx (addrWrite g d.ctx (pageFirst d) (pageCount d) es).1 d.ctx).addr))
    ∧ (pageOp d = 0 → ownsTable s d.ctx h = true → (getCtx s d.ctx).dataFail = none → publishPending s d.ctx h = true →
      ∃ u, exec (.pageWrite d es) s = .next u ∧ opensAs s u d t 0x04 (.pageWrite d es))
    ∧ (pageOp d = 1 → h = 0 → pageGen d ≠ (getCtx s d.ctx).addr.gen.toNat → completes (.pagePublish d) 0x1A 0 (fun u => u.tables = s.tables))
    ∧ (∀ tab, pageOp d = 1 → h = 0 → pageGen d = (getCtx s d.ctx).addr.gen.toNat → publishPending s d.ctx 0 = false →
      formTable g d.ctx = some tab → ∃ u, exec (.pagePublish d) s = .next u ∧ opensAs s u d t 0x04 (.publish 0)
        ∧ (getCtx u d.ctx).addr = { (getCtx s d.ctx).addr with next := some tab })
    ∧ (∀ kt, pageOp d = 1 → h ≠ 0 → getKv s d.ctx h = some kt → pageGen d = kt.gen.toNat →
      ∃ u, exec (.pagePublish d) s = .next u ∧ opensAs s u d t 0x04 (.publish h) ∧ getKv u d.ctx h = some { kt with pub := true })
    ∧ (∀ n, pageOp d = 2 → 1 ≤ pageCount d → pageCount d ≤ 16777216 → 14 ≤ pageLog d → pageLog d ≤ 18 →
      freeHandle s s.free 65536 = some n → completes (.pageCreate d) 0x00 n
        (fun u => u.tables = s.tables ++ [{ ctx := d.ctx, handle := n, pageLog2 := pageLog d, size := pageCount d }]))
    ∧ (pageOp d = 3 → h ≠ 0 → ownsTable s d.ctx h = true → kvNamed s d.ctx h = true →
      completes (.pageDestroy d) 0x16 0 (fun u => u.tables = s.tables))
    ∧ (pageOp d = 3 → h ≠ 0 → ownsTable s d.ctx h = true → kvNamed s d.ctx h = false → (getCtx s d.ctx).opens = [] →
      completes (.pageDestroy d) 0x00 0 (fun u => u.tables = (kvDestroy s d.ctx h).tables))

/-! ## Attic -/

/-- R374, R375, R378: an image that passes its checks is stored, and the store completes with the image held; a load reserves its extents
and, when it completes, lands the plain payload in them, or with a chunk that fails makes the image unusable; a delete frees an image
that no admitted plan names. A refused descriptor completes with its code and leaves the attic as it was.
R374, R375, R377: the two completions of the attic's controller. -/
def Obligations.Images : Prop :=
  (∀ (d : Desc) (image : List Byte) (t : Nat) (s : State), dbits d.w20 32 32 = 0 → [d.w28, d.w30, d.w38] = [0, 0, 0] → idle s →
      s.attic.imageOps = [] →
      let g := fetched s d t
      let fn := (ctxFn s d.ctx).getD 0
      let id := dbits d.w20 0 32
      let op := fun (kind : Nat) (b : List Byte) => ({ desc := d, tag := t, fn := fn, imageId := id, kind := kind, image := b, started := false } : ImageOp)
      let completes := fun (i : Instr) (o code : Nat) (P : State → Prop) => ∃ u, exec i s = .next u ∧ P u
        ∧ completesAs s u d t (descEntry s d o t code 0)
      let same := fun (u : State) => u.attic = s.attic
      (accepts s d t 0x10 →
        (storeCode g (op 0 image) = 0 → ∃ u, exec (.imageStore d image) s = .next u ∧ opensAs s u d t 0x10 .image
          ∧ u.attic.imageOps = [beginOp (op 0 image)] ∧ u.attic.images = s.attic.images)
        ∧ (storeCode g (op 0 image) ≠ 0 → completes (.imageStore d image) 0x10 (storeCode g (op 0 image)) same))
      ∧ (accepts s d t 0x11 → [d.w10, d.w18] = [0, 0] →
        (findImage s fn id = none → completes (.imageLoad d) 0x11 0x53 same)
        ∧ (∀ i es, findImage s fn id = some i → s.attic.loaded.any (fun l => l.ctx == d.ctx && l.imageId == id) = false →
          (allowEntry s (imgKey i.bytes)).isSome = true → i.corrupt = false →
          (heldExtents s d.ctx).length + imgExtents i ≤ (getCtx s d.ctx).quota.toNat →
          allocSpread (usedExtents s) (List.range 16) 0 (imgExtents i) = some es → ∃ u, exec (.imageLoad d) s = .next u
          ∧ opensAs s u d t 0x11 .image
          ∧ u.attic.loaded = s.attic.loaded
              ++ [{ ctx := d.ctx, fn := fn, imageId := id, extents := es, resident := false, tag := some t }])
        ∧ (∀ i, findImage s fn id = some i → s.attic.loaded.any (fun l => l.ctx == d.ctx && l.imageId == id) = true →
          completes (.imageLoad d) 0x11 0x00 same))
      ∧ (accepts s d t 0x12 → [d.w10, d.w18] = [0, 0] →
        (findImage s fn id = none → completes (.imageDelete d) 0x12 0x53 same)
        ∧ (∀ i, findImage s fn id = some i → imageNamed s fn id = true → completes (.imageDelete d) 0x12 0x16 same)
        ∧ (∀ i, findImage s fn id = some i → imageNamed s fn id = false →
          s.attic.loaded.any (fun l => l.fn == fn && l.imageId == id && !l.resident) = false →
          completes (.imageDelete d) 0x12 0x00 (fun u => findImage u fn id = none))))
  ∧ ((∀ (f id : Nat) (o : ImageOp) (q : OpenDesc) (s : State), alive s = true → idle s → ringsPaused s = false →
      s.attic.imageOps = [o] → o.started = true → o.fn = f → o.imageId = id → entryFree s o.desc.ctx →
      (getCtx s o.desc.ctx).opens.find? (fun w => w.tag == o.tag) = some q →
      ∃ u, exec (.imageStoreComplete f id) s = .next u ∧ u.attic.images = s.attic.images ++ [storedImage o] ∧ u.attic.imageOps = []
        ∧ (getCtx u o.desc.ctx).inRing = (getCtx s o.desc.ctx).inRing ++ [q.tag])
    ∧ (∀ (c id : Nat) (l : Loaded) (i : StoredImage) (q : OpenDesc) (s : State), alive s = true → idle s → ringsPaused s = false →
      s.attic.loaded.find? (sameLoad c id) = some l → findImage s l.fn id = some i → entryFree s l.ctx →
      (getCtx s l.ctx).opens.find? (fun w => l.tag == some w.tag) = some q →
      (∃ u, exec (.imageLoadComplete c id none) s = .next u ∧ u.mem = landImage s.mem l.extents ((imgPlain s i.bytes).getD [])
        ∧ u.attic.loaded = updFirst (sameLoad c id) markResident s.attic.loaded
        ∧ (getCtx u l.ctx).inRing = (getCtx s l.ctx).inRing ++ [q.tag])
      ∧ (∀ b, ∃ u, exec (.imageLoadComplete c id (some b)) s = .next u ∧ findImage u l.fn id = some { i with corrupt := true }
        ∧ u.attic.loaded = s.attic.loaded.filter (fun w => !sameLoad c id w) ∧ u.mem = s.mem
        ∧ u.flog = logEvent s { code := 0x010A, ctx := some c, d0 := id, d1 := b })))

/-- R116, R117, R381, R430, R431, R433, R435: a bundle is written to a slot that does not run, and the slot then holds it if it is valid
and read back; a configuration copy that may be written goes to the inactive copy, which becomes active; ATTEST writes the report.
A refused one completes with its code, the slots and copies as they were. -/
def Obligations.UpdatesAndAttestation : Prop :=
  (∀ (d : Desc) (bytes : List Byte) (t : Nat) (s : State), s.attic.updates = [] → dbits d.w20 1 63 = 0 → [d.w28, d.w30, d.w38] = [0, 0, 0] →
    let u0 := fun (fw : Bool) =>
      ({ ctx := d.ctx, tag := t, fw := fw, slot := bitOf d.w20.toNat 0, bytes := bytes.take d.w18.toNat, started := true } : Update)
    let slot := bitOf d.w20.toNat 0
    (accepts s d t 0x18 →
      (s.dev.bundle = none ∨ s.dev.slot ≠ slot → ∃ u, exec (.fwUpdate d bytes) s = .next u ∧ opensAs s u d t 0x18 .update
        ∧ u.attic.updates = [u0 true] ∧ slotOfBundle u slot = none ∧ slotOfBundle u (!slot) = slotOfBundle s (!slot))
      ∧ (s.dev.bundle ≠ none → s.dev.slot = slot → ∃ u, exec (.fwUpdate d bytes) s = .next u
        ∧ completesAs s u d t (descEntry s d 0x18 t 0x13 0) ∧ u.attic.slot0 = s.attic.slot0 ∧ u.attic.slot1 = s.attic.slot1))
    ∧ (accepts s d t 0x19 → d.w18 = 5632 → d.w20 = 0 →
      (cfgCode s (bytes.take 5632) = 0 → ∃ u, exec (.configUpdate d bytes) s = .next u ∧ opensAs s u d t 0x19 .update
        ∧ u.attic.updates = [u0 false] ∧ u.attic.cfg0 = s.attic.cfg0 ∧ u.attic.cfg1 = s.attic.cfg1)
      ∧ (cfgCode s (bytes.take 5632) ≠ 0 → ∃ u, exec (.configUpdate d bytes) s = .next u
        ∧ completesAs s u d t (descEntry s d 0x19 t (cfgCode s (bytes.take 5632)) 0) ∧ activeCfg u = activeCfg s)))
  ∧ (∀ (u0 : Update) (s : State) (ok : Bool), alive s = true → idle s → s.attic.updates = [u0] → u0.started = true →
    (u0.fw = true → ∃ u, exec (.fwUpdateComplete ok) s = .next u ∧ u.attic.updates = []
      ∧ slotOfBundle u u0.slot = (if bundleSigned u0.bytes && ok && bundleFormOk u0.bytes && bundleOk s (parseBundle u0.bytes)
          then some (parseBundle u0.bytes) else none)
      ∧ slotOfBundle u (!u0.slot) = slotOfBundle s (!u0.slot))
    ∧ (u0.fw = false → ∃ u, exec (.configUpdateComplete ok) s = .next u ∧ u.attic.updates = []
      ∧ (ok = true → u.attic.active = !s.attic.active ∧ activeCfg u = some (parseCfg u0.bytes)
          ∧ u.pwr.cap.toNat = (parseCfg u0.bytes).capCont.toNat + (parseCfg u0.bytes).capExc.toNat * 2 ^ 16
          ∧ ∀ i, (getPort s i).state = .quarantined → (getPort u i).state = .down)
      ∧ (ok = false → u.attic.active = s.attic.active ∧ activeCfg u = activeCfg s)))
  ∧ (∀ (d : Desc) (t : Nat) (s : State), accepts s d t 0x1A → dbits d.w18 32 32 = 0 →
    (dbits d.w18 0 32 < 4096 → (getCtx s d.ctx).dataFail = none → ∃ u, exec (.attest d) s = .next u ∧ completesAs s u d t (descEntry s d 0x1A t 0x13 0))
    ∧ (4096 ≤ dbits d.w18 0 32 → d.noIrq = true → (getCtx s d.ctx).dataFail = none → ∃ u, exec (.attest d) s = .next u
      ∧ u.host = hostWrite (hostWrite s.host d.w10.toNat (attestReport (fetched s d t) d))
          ((getCtx s d.ctx).cqBase.toNat + 32 * (getCtx s d.ctx).cq.tail)
          (entryBytes (descEntry s d 0x1A t 0x00 0) (getCtx u d.ctx).sqHead (getCtx s d.ctx).cq.phase)
      ∧ (getCtx u d.ctx).inRing = (getCtx s d.ctx).inRing ++ [t]))

/-! ## Parlour -/

/-- R351, R353, R362, R363, R366: a stream opens with the lowest free engines, its picture buffer's bytes free from then on and every other
byte of memory as before, or completes with the code of its first failed check; it closes
at once when no job is left. An engine that fails is replaced by a free one in every stream that held it. -/
def Obligations.Streams : Prop :=
  (∀ (d : Desc) (params : List Byte) (t : Nat) (s : State), accepts s d t 0x30 → dbits d.w18 8 56 = 0 →
    [d.w20, d.w28, d.w30, d.w38] = [0, 0, 0, 0] → (getCtx s d.ctx).dataFail = none →
    let b := padTo params 128
    let code := streamCode (fetched s d t) d b
    (code = 0 → ∃ u, exec (.streamOpen d params) s = .next u ∧ completesAs s { u with mem := s.mem } d t (descEntry s d 0x30 t 0x00 0)
      ∧ (∀ q, (∀ j, j < (streamPar b).dpbLen → paOf s d.ctx ((streamPar b).dpb + j) ≠ some q) → memByte u.mem q = memByte s.mem q)
      ∧ (getCtx u d.ctx).streams = (getCtx s d.ctx).streams
          ++ [{ sid := dbits d.w18 0 8, params := b, engines := (freeEngines s).take (streamPar b).engines }])
    ∧ (code ≠ 0 → ∃ u, exec (.streamOpen d params) s = .next u ∧ completesAs s u d t (descEntry s d 0x30 t code 0)
      ∧ (getCtx u d.ctx).streams = (getCtx s d.ctx).streams))
  ∧ (∀ (d : Desc) (t : Nat) (s : State), accepts s d t 0x31 → dbits d.w10 8 56 = 0 → [d.w18, d.w20, d.w28, d.w30, d.w38] = [0, 0, 0, 0, 0] →
    let sid := dbits d.w10 0 8
    (getStream s d.ctx sid = none → ∃ u, exec (.streamClose d) s = .next u ∧ completesAs s u d t (descEntry s d 0x31 t 0x13 0))
    ∧ (∀ st, getStream s d.ctx sid = some st → st.jobs = [] → st.plans = [] → ∃ u, exec (.streamClose d) s = .next u
      ∧ completesAs s u d t (descEntry s d 0x31 t 0x00 0) ∧ getStream u d.ctx sid = none)
    ∧ (∀ st, getStream s d.ctx sid = some st → (∃ j ∈ st.jobs, j.held = false) → ∃ u, exec (.streamClose d) s = .next u
      ∧ opensAs s u d t 0x31 (.streamClose sid) ∧ getStream u d.ctx sid = some { st with closing := some t }))
  ∧ (∀ (e : Nat) (s : State), alive s = true → idle s → e < 16 → s.hw.engines.contains e = false →
    (∀ n rest, freeEngines { s with hw := { s.hw with engines := s.hw.engines ++ [e] } } = n :: rest →
      (∀ p ∈ s.ctxs, ∀ st ∈ p.2.streams, st.engines ≠ []) → ∃ u, exec (.codecEngine e) s = .next u
      ∧ u.hw.engines = s.hw.engines ++ [e]
      ∧ ∀ c, (getCtx u c).streams = (getCtx s c).streams.map (swapEngine e (some n))))

/-- R357, R360, R361, R364, R365, R367: a CODEC_JOB joins its stream when its checks pass, waiting where its plan's output is undelivered;
the stream's next job starts with its picture or unit read; a decoded picture is written and an access unit goes into the ring, or
waits there for room until the count is read again; a flush with no picture left completes EMPTY. Picture and unit are the codec's, and
free once the host has accessed the picture buffer (R351). -/
def Obligations.CodecJobs : Prop :=
  (∀ (d : Desc) (t : Nat) (s : State) (st : Stream), accepts s d t 0x32 → jobReserved d = false →
    getStream s d.ctx (jobStream d) = some st →
    let g := fetched s d t
    let code := jobCode g d (streamPar st.params)
    let joins := fun (ready : Option Nat) (waits : Option (PlanKey × Nat)) => ∃ u, exec (.codecJob d) s = .next u
      ∧ opensAs s u d t 0x32 (.job (jobStream d))
      ∧ getStream u d.ctx (jobStream d) = some { st with
          plans := addServed st d,
          jobs := st.jobs ++ [{ desc := d, tag := t, ready := ready, waits := waits, started := false, held := false }] }
    (code ≠ 0 → ∃ u, exec (.codecJob d) s = .next u ∧ completesAs s u d t (descEntry s d 0x32 t code 0))
    ∧ (code = 0 → jobWait g d = .met → joins (some s.tick.num.toNat) none)
    ∧ (∀ k o, code = 0 → jobWait g d = .await k o → joins none (some (k, o)))
    ∧ (∀ x, code = 0 → jobWait g d = .code x → ∃ u, exec (.codecJob d) s = .next u ∧ completesAs s u d t (descEntry s d 0x32 t x 0)))
  ∧ (∀ (c sid : Nat) (t : Stream) (j : Job) (s : State), alive s = true → idle s → getStream s c sid = some t → nextJob t = some j →
    let input := readVa s c j.desc.w18.toNat (jobLen j.desc)
    ∃ u, exec (.codecJobStart c sid) s = .next u ∧ u.mem = s.mem
      ∧ ((streamPar t.params).decodes = false → getStream u c sid = some (encodeIn (streamPar t.params) t j input))
      ∧ ((streamPar t.params).decodes = true → ∃ t1, getStream u c sid = some t1 ∧ t1.units = t.units
          ∧ ∀ i ∈ t1.jobs, i.tag = j.tag → i.started = true ∧ i.input = input))
  ∧ (∀ (c sid : Nat) (t : Stream) (j : Job) (o : OpenDesc) (s : State), alive s = true → idle s → ringsPaused s = false → entryFree s c →
    getStream s c sid = some t → t.jobs.find? (·.started) = some j → (getCtx s c).opens.find? (fun q => q.tag == j.tag) = some o →
    let p := streamPar t.params
    let done := fun (i : Instr) (P : State → Stream → Prop) => ∃ u t1, exec i s = .next u ∧ getStream u c sid = some t1
      ∧ t1.jobs = t.jobs.filter (fun q => q.tag != j.tag) ∧ (getCtx u c).inRing = (getCtx s c).inRing ++ [o.tag] ∧ P u t1
    p.bound = false →
    let fed := { t with units := t.units ++ [j.input] }
    (∀ pic, p.decodes = true → j.blocked = none → t.broken = false → jobLen j.desc ≠ 0 → Config.unitConforms t.params t.units j.input = true →
        nextPicture fed false = some pic → j.desc.w38 = 0 →
        done (.codecJobComplete c sid) (fun u t1 => t1.units = fed.units ∧ t1.shown = t.shown + 1
          ∧ u.mem = writeVaMem s c j.desc.w28.toNat s.mem (cleanPicture p (outPicture s p fed pic).1)))
    ∧ (p.decodes = true → j.blocked = none → jobLen j.desc = 0 → nextPicture t true = none →
        done (.codecJobComplete c sid) (fun u t1 => t1.units = t.units ∧ t1.shown = t.shown ∧ u.mem = s.mem))
    ∧ (p.decodes = false →
      let au := (outUnit s p t j).1
      let n := cdiv (32 + au.length) 64 * 64
      let fits := fun (t : Stream) => t.written % 2 ^ p.ringLog + n ≤ 2 ^ p.ringLog ∧ ringHas p t n = true
      let out := fun (_ : State) (t1 : Stream) => t1.written = t.written + n ∧ t1.digests = t.digests ++ [sha512 au]
        ∧ t1.pictures = t.pictures ++ [j.input]
      (j.blocked = none → fits t → done (.codecJobComplete c sid) out)
      ∧ (j.blocked = none → ¬ringHas p t n = true → t.written % 2 ^ p.ringLog + n ≤ 2 ^ p.ringLog →
          ∃ u, exec (.codecJobComplete c sid) s = .next u ∧ getStream u c sid = some (blockJob j.tag s.tick.num.toNat t) ∧ u.host = s.host)
      ∧ (∀ v : DWord, j.blocked.isSome = true → fits { t with consumed := v.toNat } → done (.streamRingPoll c sid v) out)))

/-! ## Room programs: the page walker and the porch -/

/-- R245 to R252, R259, R261: PGATHER's four operations issue on the move unit. GATHER requests a chunk of the slot's walk, which it
starts where none of this descriptor and operand runs; VERIFY_OPEN opens the table's session; COMMIT closes it; STORE writes its
blocks, or waits for a frame. No register of the program and no other byte of memory changes. -/
def Obligations.PageWalkerRequests : Prop :=
  ∀ (t : Tid) (i : RoomIns) (s : State) (c : RC) (w : WalkTable) (kt : KvTable), issuesAt s t i c →
    let bs := c.desc i.imm.toNat 128
    let d := walkDesc bs
    let a := sReg c.th i.a.toNat
    let b := sReg c.th i.b.toNat
    let addr := dbits a 0 32
    let goes := fun (u : State) (y : Thread) => getTh u t = some y ∧ keepsRegs c.th y [] [] [] [] ∧ goesOn c.th y
    walkRec c.b d = some w → getKv s c.ctx w.handle = some kt →
    (d.op = 0 → dbits a 52 12 = 0 → c.inSpad addr (slotBytes d w) 64 = true →
      (∀ p ∈ walkSpots d w (queryOf b), p.index < kt.size) → d.expand = false → candOk kt (dbits b 60 4) = true →
      mayIssue c 6 [] [rSpad addr (slotBytes d w)] →
      ∃ u y, exec (.gather t i) s = .next u ∧ goes u y ∧ u.mem = s.mem
        ∧ ((slotWalk c.th d.slot).any (sameWalk bs (queryOf b)) = true → (getCtx u c.ctx).walks = (getCtx s c.ctx).walks
            ∧ y.walks = addChunk d.slot (dbits b 48 12 + dbits a 32 20 * 2 ^ 12, addr, c.th.pc) c.th.walks)
        ∧ ((slotWalk c.th d.slot).any (sameWalk bs (queryOf b)) = false → (getCtx u c.ctx).walks = (getCtx s c.ctx).walks + 1
            ∧ y.walks = addChunk d.slot (dbits b 48 12 + dbits a 32 20 * 2 ^ 12, addr, c.th.pc) (replaceWalk c.th
                { slot := d.slot, number := (getCtx s c.ctx).walks + 1, handle := w.handle, gen := kt.gen, desc := bs,
                  query := queryOf b, chunks := [] }).walks))
    ∧ (∀ ps, d.op = 2 → dbits a 32 32 = 0 → c.inSpad addr 16 64 = true → kt.session = none → treeParents (c.spad addr 16) = some ps →
      mayIssue c 6 [rSpad addr 16] [] → ∃ u y, exec (.verifyOpen t i) s = .next u ∧ goes u y ∧ u.mem = s.mem
        ∧ getKv u c.ctx w.handle = some { kt with
            session := some { key := t.key, room := t.room, tree := c.spad addr 16, parents := ps, overlays := ps.map (fun _ => []) } })
    ∧ (d.op = 3 → dbits a 32 32 = 0 → kt.session.isSome = true →
      candOk kt ((forcedLeaf c.p c.k w.handle).getD (dbits b 0 4)) = true → mayIssue c 6 [] [] →
      ∃ u y kt', exec (.commit t i) s = .next u ∧ goes u y ∧ u.mem = s.mem ∧ getKv u c.ctx w.handle = some kt' ∧ kt'.session = none)
    ∧ (d.op = 1 → dbits a 32 32 = 0 → c.inSpad addr (dbits b 44 8 * blockBytes w) 64 = true → dbits b 0 32 < kt.size →
      dbits b 32 12 + dbits b 44 8 ≤ pageBlocks w kt.pageLog2 → candOk kt (dbits b 60 4) = true → d.hasOut = false →
      mayIssue c 6 [rSpad addr (dbits b 44 8 * blockBytes w)] [] →
      let q := storeReq c.ctx w b (c.spad addr (dbits b 44 8 * blockBytes w))
      (∀ s1, kvStore s q = some s1 → ∃ u y, exec (.store t i) s = .next u ∧ goes u y ∧ u.mem = s1.mem ∧ u.tables = s1.tables
        ∧ u.frames = s1.frames)
      ∧ (kvStore s q = none → ∃ u y, exec (.store t i) s = .next u ∧ goes u y ∧ u.mem = s.mem ∧ u.tables = s.tables
        ∧ y.stores = c.th.stores ++ [{ desc := bs, sa := addr, sb := b, ord := nextOrd s }]))
    ∧ (dbits a 32 32 ≠ 0 → 1 ≤ d.op → d.op ≤ 3 → ∃ u, exec (.store t i) s = .next u ∧ u = refuseRoom s t c.k 0x0100 c.th.pc a.toNat)

/-- R48, R239, R248: the oldest chunk of a walk slot lands: its header stands at the slot's start, and of the room's memory only the slot
changes; the walk ends with its last chunk. A decrement that arrives is pending at its frame; at B + 100 ns every frame that no entry
names, with no decrement pending or on its way and no older walk, joins the reclaim set. -/
def Obligations.PageWalkerEvents : Prop :=
  (∀ (t : Tid) (slot : Nat) (s : State) (x : Thread) (p : Plan) (r : RoomRec) (b : PlanBody) (wk : Walk) (w : WalkTable) (kt : KvTable)
      (chunk addr pc : Nat), alive s = true → MemOk s = true → getTh s t = some x → running x → getPlan s t.key = some p →
    thRec s t = some r → p.body = some b → takeChunk slot x.walks = some (wk, (chunk, addr, pc)) →
    let d := walkDesc wk.desc
    walkRec b d = some w → getKv s t.key.ctx w.handle = some kt → d.expand = false →
    let forced := fun i => replaying p && replayHas p 2 (stepOf s t.key) w.handle i 0
    let all := ((walkSpots d w wk.query).map (spotBlocks kt wk.gen (dbits wk.query 60 4) forced)).flatten
    let blocks := (all.drop (chunk * d.chunk)).take d.chunk
    ∃ u y, exec (.walkChunkLand t slot) s = .next u ∧ getTh u t = some y ∧ keepsRegs x y [] [] [] [] ∧ y.pc = x.pc
      ∧ y.walks = walkLanded slot (decide (all.length ≤ chunk * d.chunk + d.chunk)) x.walks
      ∧ y.outs = dropFirst (fun o => o.ends == .chunk slot) x.outs
      ∧ memRead u.mem (spadPa r addr) 64 = chunkHeader blocks d.chunk (chunk * d.chunk) all.length wk.gen
      ∧ ∀ q, q < spadPa r addr ∨ spadPa r addr + slotBytes d w ≤ q → memByte u.mem q = memByte s.mem q)
  ∧ (∀ (f : Nat) (s : State),
    (s.decs.contains f = true → ∃ u, exec (.frameDecrementArrive f) s = .next u ∧ u.decs = dropFirst (· == f) s.decs
      ∧ getFrame u f = (getFrame s f).map (fun x => { x with pend := x.pend + 1 }))
    ∧ (s.decs.contains f = false → exec (.frameDecrementArrive f) s = .next s))
  ∧ (∀ s : State, ticking s.tick = true → s.dev.failstop = false → s.tick.released = false → ∃ u, exec .reclaimSetFix s = .next u
    ∧ u.frames = s.frames.map (fun f => { f with
        reclaim := f.reclaim || (f.count == 0 && f.pend == 0 && !s.decs.contains f.base
          && (ctxWalks s f.ctx).all (fun w => f.stamp.elim true (fun n => decide (n < w.number)))) }))

/-- R331, R334 to R340: PORCH_SEND and PORCH_RECV issue a transfer of the instance that they open or continue, and the porch side then goes
on as far as it can; with no port to the peer nothing more moves. An announce for a room of a plan here is stored until its peer's own
leaves; a piece lands in the scratchpad of its receive, which completes with its last piece; a message for no plan here is discarded. -/
def Obligations.PorchTransfers : Prop :=
  (∀ (t : Tid) (i : RoomIns) (s : State) (c : RC) (k : CollCtx) (x : Thread) (inst : Inst) (l : List Out), issuesAt s t i c →
    let d := porchDesc (c.desc i.imm.toNat 32)
    let b := sReg c.th i.b.toNat
    let addr := (sReg c.th i.a.toNat).toNat
    let tag : Word := BitVec.ofNat 32 (dbits b 0 32)
    let n := porchBytes d (tagFmt k.r tag)
    collCtx s c.b c.r.room d.coll = some k → c.inSpad addr n 64 = true → dbits b 32 12 < k.g.members.length → dbits b 32 12 ≠ k.rank →
    unaligned s k d = false → porchInst c k d = some (x, inst) →
    let issued := fun (f : Instr) (send : Bool) (bytes : List Byte) => ∃ y, exec f s = .next (drive (putTh s y))
      ∧ keepsRegs c.th y [] [] [] [] ∧ goesOn c.th y
      ∧ y.xfers = x.xfers ++ [{
          id := x.ticket, send := send, inst := inst.id, coll := d.coll, peer := dbits b 32 12, carr := dbits b 44 6, tag := tag, elems := d.elems,
          fp32 := d.fp32, buf := d.buf, addr := addr, bytes := bytes, sysTick := inst.sysTick, seq := inst.seq, pc := x.pc }]
      ∧ (c.th.xfers = [] → porchQuiet s → directPorts s (k.g.members.getD (dbits b 32 12) 4096) = [] → thColl s t d.coll = some k →
          s.links.anncs = [] → c.th.insts = [] → ∃ u, exec f s = .next u ∧ u = putTh s y)
    (holdFor c.th.outs 6 [rSpad addr n] [] = some l → d.fp32 = false → issued (.porchSend t i) true (c.spad addr n))
    ∧ (holdFor c.th.outs 6 [] [rSpad addr n] = some l → pGet c.th.stages (d.coll, d.buf) ≠ some .midReduction →
        issued (.porchRecv t i) false []))
  ∧ (∀ (m : Msg) (s : State) (t : Tid) (c : CollCtx), alive s = true → msgNext s m = true → msgType m = 0 → 48 ≤ msgLen m →
    porchQuiet s → m.port < s.links.ports.length →
    let h := collHead (msgData m)
    (h.ckind = 0 → headRoom s h = some (t, c) → headClosed s t c h = false →
      (s.links.anncs.filter (fun a => a.room == t.room)).length < 4096 → ∃ u, exec (.announce m) s = .next u
      ∧ u.links.anncs = s.links.anncs ++ [{
          room := t.room, src := msgSrc m, rank := h.rank, carr := h.carr, group := h.key, collTag := h.collTag,
          coll := h.coll, bound := h.bound, sysTick := h.sysTick, seq := h.seq }]
      ∧ u.threads = s.threads ∧ u.links.pieces = [])
    ∧ (headRoom s h = none → (h.ckind = 0 → ∃ u, exec (.announce m) s = .next u ∧ u.links.discards = s.links.discards + 1
          ∧ u.links.anncs = s.links.anncs ∧ u.mem = s.mem)
        ∧ (h.ckind = 1 → ∃ u, exec (.piece m) s = .next u ∧ u.links.discards = s.links.discards + 1 ∧ u.mem = s.mem)))
  ∧ (∀ (m : Msg) (s : State) (t : Tid) (c : CollCtx) (x : Thread) (q : Xfer) (i : Inst) (p : PeerSt) (r : RoomRec), alive s = true →
    msgNext s m = true → msgType m = 0 → 48 ≤ msgLen m → s.links.pieces = [] →
    let h := collHead (msgData m)
    h.ckind = 1 → headRoom s h = some (t, c) → headClosed s t c h = false → getTh s t = some x → running x → x.xfers = [q] →
    (∀ y ∈ s.threads, y.tid ≠ t → y.xfers = []) → recvFor s t h = some q → q.send = false → q.bad = false → q.elems ≠ 0 →
    instOf x q = some i → peerOf i q.peer q.carr = some p → p.sent = true → p.matched = true → h.tag = q.tag → h.elems = q.elems →
    thRec s t = some r → thColl s t q.coll = some c →
    ∃ u y, exec (.piece m) s = .next u ∧ getTh u t = some y ∧ keepsRegs x y [] [] [] [] ∧ y.pc = x.pc
      ∧ u.mem = (landPiece s r c q h.piece ((msgData m).drop 48)).mem
      ∧ (q.got + 1 < h.pieces → y.xfers = [{ q with got := q.got + 1 }])
      ∧ (h.pieces ≤ q.got + 1 → y.xfers = [] ∧ pGet y.stages (q.coll, q.buf) = some .holding))
/-! ## Boundaries, release points, steps -/

/-- R28, R31, R45: a boundary increments the tick number, but for the first one, raises TICK_OUT where OUT_EN is set and opens the wait
for the release point; from INTERNAL the next one follows a period later. The release point lowers TICK_OUT and releases the due steps:
each room of the step's path whose program lives runs on from its captured state (R49, R135, R136).
R75, R107: a step finishes in its own tick, or late, once every room of it has executed its end and its transfers are acknowledged:
the plan's next step follows it, and its output is queued with the code that R107 gives it. A step that is not done changes nothing.
Where the host has changed a bitmap of the plan (`maskChanged`, R276), what its step wrote is free (DESIGN CHOICE 135). -/
def Obligations.BoundariesAndSteps : Prop :=
  ((∀ (s : State) (b : Nat), tickOn s = true → ticking s.tick = true → s.tick.released = true → s.tick.nextB = some b →
      ∃ u, exec .tickBoundary s = .next u ∧ u.now = b ∧ u.tick.lastB = b ∧ u.tick.begun = true ∧ u.tick.released = false
        ∧ u.tick.num = (if s.tick.begun = true then s.tick.num + 1 else s.tick.num) ∧ u.tick.tickOut = wbit s.tick.ctl 15
        ∧ (s.tick.state = .running → s.tick.inUse = .internal → ctlSource s.tick = .internal → s.tick.onAlt = false → s.tick.prev = none →
            s.tick.newPeriod = none → u.tick.nextB = some (b + periodUnits s.tick)))
    ∧ (∀ s : State, tickOn s = true → ticking s.tick = true → s.tick.released = false →
      ∃ u, exec .releasePoint s = .next u ∧ u.tick = { s.tick with released := true, tickOut := false } ∧ u.now = s.now
        ∧ ∀ (p : Plan) (b : PlanBody), s.dev.failstop = false → s.plans = [p] → p.body = some b → s.recov = none → stepDue s p = true →
          b.weights = [] → b.shape = [] → idle s → porchQuiet s → s.tables = [] →
          (∀ q ∈ s.ctxs, q.2.opens = [] ∧ q.2.addr.next = none) → (∀ x ∈ s.threads, x.stores = [] ∧ x.noRun = false) →
          let k := dueStep p
          let cheaper := runsCheaper p b k
          let rooms := liveRooms s p.key (pathRooms b k cheaper)
          rooms ≠ [] → ∃ q, getPlan u p.key = some q ∧ q.outs = p.outs
            ∧ q.run = some { k := k, cheaper := cheaper, tick := s.tick.num.toNat, released := true, rooms := rooms, late := p.lateAgain.contains k }
            ∧ ∀ m ∈ rooms, ∀ x, getTh s { key := p.key, room := m } = some x → thRec s { key := p.key, room := m } ≠ none →
              ∃ y, getTh u { key := p.key, room := m } = some y ∧ y.stat = .running ∧ y.pc = x.pc ∧ y.regs = x.regs ∧ y.preds = x.preds))
  ∧ (∀ (key : PlanKey) (s : State) (p : Plan) (r : StepRun), alive s = true → getPlan s key = some p → p.run = some r →
      let n := s.tick.num.toNat
      (stepDone s key r = false → exec (.stepFinish key) s = .next s)
      ∧ (stepDone s key r = true → r.k ≠ recompStep → p.skip = [] → r.k + 1 < stepCount p → p.stopped = false →
        let ran := fun (q : Plan) => q.run = some { r with finished := true } ∧ q.next = r.k + 1 ∧ q.lastTick = n
        (stepOutputs p r = [] → ∃ u q, exec (.stepFinish key) s = .next u ∧ getPlan u key = some q ∧ ran q ∧ q.outs = p.outs
          ∧ (p.maskChanged = false → { u with plans := s.plans } = s))
        ∧ (∀ o b, p.outs = [o] → o.done = none → o.step = r.k → p.body = some b →
          ∃ u q y, exec (.stepFinish key) s = .next u ∧ getPlan u key = some q ∧ ran q ∧ q.outs = [y] ∧ y.outId = o.outId
            ∧ y.done = some (lateCode p o n (ownCode r o)).1 ∧ y.tick = n ∧ u.threads = s.threads ∧ u.tick = s.tick
            ∧ (p.maskChanged = false → u.mem = s.mem))))

/-! ## Tokens and books -/

/-- R419, R82: a boiler's samples add to the tick's energy; settlement closes the ended tick's, flags a plan that used more than it
booked, and takes the excess from the unbooked tokens of the next tick where they suffice. R53, R414: an audit clears the latched rows;
a book that fails sets AUDIT_FAIL and is recounted, and one that failed at the last audit makes the device fail stop with 0x0504; the
first audit after a recovery recounts every book. -/
def Obligations.TokensAndBooks : Prop :=
  (∀ (boiler : Nat) (es : List Nat) (s : State), alive s = true →
    (boiler < 4 → exec (.boilerSample boiler es) s = .next { s with pwr := { s.pwr with sampled := s.pwr.sampled + sumOf es } })
    ∧ (4 ≤ boiler → exec (.boilerSample boiler es) s = .next s))
  ∧ (∀ s : State, alive s = true → s.tick.begun = true →
    let spent := cdiv s.pwr.awaiting 1000
    let n := s.tick.num.toNat
    ∃ u, exec .tokenSettlement s = .next u ∧ u.pwr.awaiting = 0 ∧ u.pwr.dues = [] ∧ u.pwr.settled = s.pwr.settled + min spent s.pwr.granted
      ∧ u.pwr.baseUse = spent - sumBy s.pwr.dues (fun d => d.2.2.2) ∧ u.tick = s.tick
      ∧ ((∀ d ∈ s.pwr.dues, d.2.2.2 ≤ d.2.2.1) → u.flog = s.flog ∧ u.plans = s.plans ∧ u.pwr.tokOverrun = s.pwr.tokOverrun)
      ∧ (∀ d, s.pwr.dues = [d] → d.2.2.1 < d.2.2.2 → u.pwr.tokOverrun = hitFlag s.pwr.tokOverrun
          ∧ (d.2.2.2 - d.2.2.1 ≤ energyC s (periodOf s) - bookedEnergy s (n + 1) →
              u.pwr.debts = s.pwr.debts.filter (fun x => decide (n ≤ x.1)) ++ [(n + 1, d.2.2.2 - d.2.2.1)])))
  ∧ (∀ s : State, alive s = true → s.books ≠ [] →
    (failing s = [] → ∃ u, exec .bookAudit s = .next u ∧ u.books = [] ∧ u.badBooks = [] ∧ u.flog = s.flog ∧ u.dev = s.dev
      ∧ u.tick = s.tick ∧ u.fullAudit = false
      ∧ (s.fullAudit = false → u.frames = s.frames)
      ∧ (s.fullAudit = true → u.frames = s.frames.map (fun f => { f with count := frameNames s f.base })))
    ∧ (∀ q, failing s = [q] → s.badBooks.contains q = false → ∃ u, exec .bookAudit s = .next u ∧ u.books = [] ∧ u.badBooks = [q]
      ∧ u.dev = s.dev ∧ u.tick = { s.tick with auditFail := hitFlag s.tick.auditFail }
      ∧ u.flog = logEvent s { code := 0x0208, d0 := q.1, d1 := q.2 }
      ∧ (s.fullAudit = false →
          u.frames = s.frames.map (fun f => if q = (5, homeSlice f.base) then { f with count := frameNames s f.base } else f)))
    ∧ (∀ q, failing s = [q] → s.badBooks.contains q = true → ∃ u, exec .bookAudit s = .next u ∧ u.dev.failstop = true
      ∧ u.dev.failCode = 0x0504 ∧ u.dev.failLow = true))

/-! ## Rooms -/

/-- R400 to R405, R392: a hardware fault of a room moves its position to the wing's free spare, and a recovery starts; a room of a plan
takes its captured state there, and a scratchpad that cannot be copied, without a restore program, reads zero. With no free spare the device
fails stop with 0x0502. A watchdog timeout is a room that stopped responding. A restore program past its time is stopped and sits out
the next release. A spare that fails its test is retired; the repair map takes the entries due, in both attic copies; service resumes with no work lost, or
with work lost and the slide due at the end of its tick (R71, R399, R406). -/
def Obligations.RoomFailures : Prop :=
  (∀ (room unit : Nat) (perm : Bool) (bad : List Nat) (s : State), roomServes s room = true → unit ≤ 11 →
    let old := slotOf s room
    let part : Part := .room (room / 64) old
    (∀ sp, pickSpare s (room / 64) = some sp → ∃ u r, exec (.roomHw room unit perm bad) s = .next u ∧ slotOf u room = sp
      ∧ u.hw.retired = s.hw.retired ++ [part] ∧ u.dev = s.dev ∧ u.tick = s.tick ∧ u.recov = some r ∧ room ∈ r.halted
      ∧ { part := part, permanent := isPermanent s part perm } ∈ r.repairs
      ∧ ((plansOn s room).any (worksOn room) = true → r.lost = true)
      ∧ (s.recov = none → plansOn s room = [] → r.lost = false ∧ u.mem = s.mem ∧ u.plans = s.plans ∧ u.threads = s.threads)
      ∧ ∀ p b rr x im, plansOn s room = [p] → p.body = some b → getTh s { key := p.key, room := room } = some x →
          thRec s { key := p.key, room := room } = some rr → b.images[rr.image]? = some im → im.restore = none → x.fresh = false →
          worksOn room p = true → (openRun p).any (·.late) = false →
          (∃ y, getTh u { key := p.key, room := room } = some y ∧ y.stat = .barrier ∧ y.outs = []
            ∧ ∀ k, x.kept = some k → y.pc = k.pc ∧ y.regs = k.regs ∧ y.preds = k.preds)
          ∧ (unit ≤ 10 → bad = [] → u.mem = s.mem)
          ∧ (unit = 11 → rr.room = room → ∀ a, spadPa rr 0 ≤ a → a < spadPa rr 0 + rr.spadLen * 16384 → memByte u.mem a = 0))
    ∧ (pickSpare s (room / 64) = none → ∃ u, exec (.roomHw room unit perm bad) s = .next u ∧ u.dev.failstop = true
      ∧ u.dev.failCode = 0x0502 ∧ u.hw = s.hw ∧ u.mem = s.mem)
    ∧ exec (.roomWatchdogTimeout room) s = exec (.roomHw room 11 false []) s)
  ∧ (∀ (t : Tid) (s : State) (x : Thread), alive s = true → getTh s t = some x →
    (x.restore = true → ∃ u y, exec (.restoreTimeout t) s = .next u ∧ getTh u t = some y ∧ y.restore = false ∧ y.noRun = true
      ∧ y.stat = .barrier ∧ (∀ k, x.back = some k → y.pc = k.pc ∧ y.regs = k.regs ∧ y.preds = k.preds) ∧ { u with threads := s.threads } = s)
    ∧ (x.restore = false → exec (.restoreTimeout t) s = .next s))
  ∧ (∀ (wing spare : Nat) (s : State), inService s = true → wing < 96 → spare < 2 → spareFree s wing (64 + spare) = true →
    exec (.spareSelfTest wing spare true) s = .next s
    ∧ ∃ u, exec (.spareSelfTest wing spare false) s = .next u ∧ u.hw.retired = s.hw.retired ++ [.room wing (64 + spare)]
      ∧ spareFree u wing (64 + spare) = false ∧ u.hw.bound = s.hw.bound
      ∧ u.attic.repairDue = s.attic.repairDue ++ [{ part := .room wing (64 + spare), permanent := true }])
  ∧ (∀ s : State, alive s = true → ∃ u, exec .repairMapWrite s = .next u ∧ u.attic.repairDue = []
    ∧ (∀ r, s.attic.repairDue = [r] → let map := (repairMap s.attic).filter (fun q => q.part != r.part) ++ [r]
        repairMap u.attic = map ∧ (∃ c, u.attic.rep0 = some c ∧ c.entries = map) ∧ ∃ c, u.attic.rep1 = some c ∧ c.entries = map)
    ∧ { u with attic := s.attic } = s)
  ∧ (∀ (time : Nat) (s : State) (r : Recov), alive s = true → s.recov = some r → mayResume s r = true →
    ∃ u, exec (.serviceResume time) s = .next u ∧ u.recov = none ∧ u.now = time ∧ u.tick = s.tick
      ∧ (idle s → (r.lost = true ∨ s.tick.released = true) → u.attic.repairDue = s.attic.repairDue ++ r.repairs)
      ∧ (idle s → porchQuiet s → r.lost = false → s.tick.released = true → u.plans = s.plans ∧ u.threads = s.threads ∧ u.mem = s.mem)
      ∧ (r.lost = true → slideLength s r.tick ≠ 0 → knownSlide s r.sysTick = 0 →
          u.slides = s.slides ++ [(s.dev.fabric.toNat, r.sysTick, slideLength s r.tick)]
          ∧ (s.tick.num.toNat ≤ r.tick →
              u.slideDue = s.slideDue.filter (fun v => v.1 != r.tick) ++ [(r.tick, slideLength s r.tick)])
          ∧ (r.tick < s.tick.num.toNat → u.resumeAt = max s.resumeAt (r.tick + slideLength s r.tick))))
  ∧ (∀ (time : Nat) (s : State), s.recov = none → exec (.serviceResume time) s = .next s)

/-! ## Cores, dies, memories, fail-stop -/

/-- R40: the move of a failed hall core's duty to H15 leaves the tick generator, the deadline watches (which stand in the plans' steps
and outputs) and the tick number unchanged, and the next boundary finds the generator as it would have been; the watches decide at that
boundary (R76). -/
def Obligations.HallDutyMoves : Prop :=
  ∀ (core : Nat) (s : State), alive s = true → core < 15 → s.hw.retired.contains (.hallCore core) = false → s.hw.duty = none →
    s.hw.retired.contains (.hallCore 15) = false →
    ∃ u, exec (.hallCoreFailure core) s = .next u ∧ u.hw.duty = some core ∧ u.hw.retired = s.hw.retired ++ [.hallCore core]
      ∧ u.tick = s.tick ∧ u.plans = s.plans ∧ u.threads = s.threads ∧ u.now = s.now ∧ u.dev = s.dev
      ∧ ∃ v w, exec .tickBoundary u = .next v ∧ exec .tickBoundary s = .next w ∧ v.tick = w.tick ∧ v.now = w.now
      ∧ (s.recov = none → s.slideP = none → ∀ n, decideTick u n = watch u n)

/-- R19, R20, R303 to R305, R392, R397, R410, R411: the failures. H15 alone is retired without a move, and a second hall core, or a second
floor core of a floor, makes the device fail stop with 0x0503; a lost cellar or state in the pantry, a silent fault manager and a failed
die have codes of their own. A fail stop announces itself: no port stays up, no route is left; its newest records are saved once. A room
memory error is the room's fault; one corrected is counted. -/
def Obligations.FailuresAndFailStop : Prop :=
  (∀ s : State, alive s = true → s.dev.announced = false →
    let stops := fun (c : Instr) (code : BitVec 16) => ∃ u, exec c s = .next u ∧ u.dev.failstop = true ∧ u.dev.failLow = true
      ∧ u.dev.failCode = code ∧ u.tick = s.tick ∧ u.plans = s.plans ∧ u.mem = s.mem
    let logs := fun (c : Instr) (f : FaultIn) => exec c s = .next { s with flog := logEvent s f }
    (∀ core, core < 16 → s.hw.retired.contains (.hallCore core) = false →
      (s.hw.duty.isSome = true ∨ s.hw.retired.contains (.hallCore 15) = true → stops (.hallCoreFailure core) 0x0503))
    ∧ (s.hw.duty = none → s.hw.retired.contains (.hallCore 15) = false → ∃ u, exec (.hallCoreFailure 15) s = .next u
        ∧ u.hw.duty = none ∧ u.hw.retired = s.hw.retired ++ [.hallCore 15] ∧ u.recov = s.recov ∧ u.dev = s.dev)
    ∧ (∀ floor core missed, inService s = true → floor < 8 → core < 4 → s.hw.retired.contains (.floorCore floor core) = false →
      ((∃ n, n < 4 ∧ s.hw.retired.contains (.floorCore floor n) = true) → stops (.floorCoreFailure floor core missed) 0x0503)
      ∧ ((∀ n, n < 4 → s.hw.retired.contains (.floorCore floor n) = false) → ∃ u r, exec (.floorCoreFailure floor core missed) s = .next u
          ∧ u.hw.retired = s.hw.retired ++ [.floorCore floor core] ∧ u.recov = some r ∧ (∀ m ∈ servedRooms floor core, m ∈ r.rooms)
          ∧ u.dev = s.dev ∧ u.plans = s.plans ∧ (missed = false → s.recov = none → r.lost = false ∧ r.halted = [])))
    ∧ stops .hallWatchdog 0x0507 ∧ (∀ cls i, cls ≤ 6 → stops (.dieFail cls i) 0x0506)
    ∧ (∀ l n, stops (.cellarLoss l n) 0x0500) ∧ (∀ a, stops (.memoryEccEvent .cellar a false) 0x0500)
    ∧ (∀ k a, stops (.memoryEccEvent (.pantryState k) a false) 0x0501
        ∧ logs (.memoryEccEvent (.pantryClean k) a false) { code := 0x0205, d0 := k, d1 := a })
    ∧ (∀ room unit a, roomServes s room = true → 6 ≤ unit → unit ≤ 9 →
        exec (.memoryEccEvent (.roomMem room unit) a false) s = exec (.roomHw room unit false [a]) s)
    ∧ (∀ tier a, (∀ room, tier ≠ .wall room) → ∃ u, exec (.memoryEccEvent tier a true) s = .next u
        ∧ u.hw.eccCounts = upd s.hw.eccCounts (tierNum tier) (· + 1) ∧ u.dev = s.dev ∧ u.mem = s.mem)
    ∧ (∀ l n k, (1024 < k → logs (.patrolScrub l n k) { code := 0x0302, d0 := cellarDetail l n, d1 := k })
        ∧ (k ≤ 1024 → exec (.patrolScrub l n k) s = .next s))
    ∧ (∀ code d0 d1, faultSev code.toNat = 4 → ∃ u, exec (.failstop code d0 d1) s = .next u ∧ u.dev.failstop = true
        ∧ u.dev.failCode = code ∧ u.dev.announced = true ∧ u.links.routes = [] ∧ ∀ i, (getPort u i).state ≠ .up))
  ∧ (∀ s : State, s.pwr.supply = true → s.dev.failstop = true →
    (s.dev.saved = false → ∃ u, exec .faultLogSave s = .next u ∧ u.dev.saved = true ∧ u.attic.saved = s.flog.newest.take 4096 ∧ u.flog = s.flog)
    ∧ (s.dev.saved = true → exec .faultLogSave s = .next s)
    ∧ (∀ code d0 d1, s.dev.announced = true → exec (.failstop code d0 d1) s = .next s))
/-! ## Links -/

/-- R306, R308 to R311, R319, R325: a port in TRAINING goes to HELLO at a width and rate, unless each half holds a lost lane, or DOWN, and a
port in DOWN trains again. In HELLO it sends its HELLO; a partner whose fabric_id conflicts quarantines it, and one that this side's manifest
does not list does when the time for its HELLO_ACK has passed (the wait is DEDUCED 24). An accepted partner's port joins the routing table;
with HELLO and HELLO_ACK both received it is UP. A lost lane in use retrains the port at half width, replay buffer and credits kept, or
takes it DOWN when the other half holds one too; a lost lane out of use is only noted. -/
def Obligations.LinkTraining : Prop :=
  ∀ (i : Nat) (s : State), alive s = true → i < s.links.ports.length → i < 18 →
    let p := getPort s i
    let gives := fun (c : Instr) (P : Port → Prop) => ∃ u, exec c s = .next u ∧ P (getPort u i) ∧ u.mem = s.mem ∧ u.threads = s.threads
    (p.state = .training →
      (∀ full rate half, (∃ h, h < 2 ∧ ∀ l ∈ p.lost, l / 4 ≠ h) → rate ≤ p.maxRate → gives (.trainingComplete i full rate half) (fun y => y.state = .hello ∧ y.rate = rate
        ∧ y.full = (full && p.lost.isEmpty) ∧ y.gotHello = false ∧ y.gotAck = false ∧ y.credits = p.credits ∧ y.replay = p.replay
        ∧ (∀ l ∈ p.lost, 4 ≤ l → (∀ m ∈ p.lost, 4 ≤ m) → y.half = 0) ∧ (∀ l ∈ p.lost, l < 4 → y.half = 1)))
      ∧ (∀ full rate half, (∀ h, h < 2 → ∃ l ∈ p.lost, l / 4 = h) → exec (.trainingComplete i full rate half) s = .next s)
      ∧ gives (.trainingFailed i) (fun y => y.state = .down ∧ y.partner = none ∧ y.replay = [] ∧ y.queue = []))
    ∧ (p.state = .down → p.mode ≠ .off → gives (.trainingRetry i) (fun y => y = { p with state := .training }))
    ∧ (p.state = .hello → gives (.helloSend i) (fun y => y = sendCtrlFlit p (helloPayload s i 1)))
    ∧ (∀ bs f, p.state = .hello → parseFlit bs = some f → f.kind = 4 →
      let q := partnerOf f.payload
      (getLE f.payload 0 1 = 1 →
        (testedPair s p q = false → p.unlisted + 1 < 5 → gives (.hello i bs) (fun y => y = { p with unlisted := p.unlisted + 1 }))
        ∧ ((testedPair s p q = false ∧ 5 ≤ p.unlisted + 1) ∨ (testedPair s p q = true ∧ idConflict s q = true) →
            gives (.hello i bs) (fun y => y.state = .quarantined ∧ y.partner = none))
        ∧ (testedPair s p q = true → idConflict s q = false → ∃ u, exec (.hello i bs) s = .next u ∧ i ∈ directPorts u q.fabric
            ∧ (getPort u i).partner = some q ∧ u.mem = s.mem ∧ u.threads = s.threads
            ∧ (p.gotAck = true → (getPort u i).state = .up)
            ∧ (p.gotAck = false → (getPort u i).state = .hello ∧ (getPort u i).gotHello = true
                ∧ (getPort u i).ctrlOut = nextFlit p 4 0 false 0 (helloPayload s i 2))))
      ∧ (getLE f.payload 0 1 = 2 →
        (p.gotHello = false → gives (.helloAck i bs) (fun y => y = { p with gotAck := true }))
        ∧ (∀ r, p.gotHello = true → p.partner = some r → ∃ u, exec (.helloAck i bs) s = .next u ∧ (getPort u i).state = .up
          ∧ u.links.routes = s.links.routes)))
    ∧ (∀ lane, p.state = .up → lane < 8 → p.lost.contains lane = false →
      let other := 1 - lane / 4
      let used := p.full = true ∨ lane / 4 = p.half
      (¬used → gives (.laneLost i lane) (fun y => y = { p with lost := p.lost ++ [lane] }))
      ∧ (used → (∀ l ∈ p.lost, l / 4 ≠ other) → ∃ u r, exec (.laneLost i lane) s = .next u ∧ (getPort u i).state = .training
          ∧ (getPort u i).full = false ∧ (getPort u i).half = other ∧ (getPort u i).retrain = true ∧ (getPort u i).replay = p.replay
          ∧ (getPort u i).credits = p.credits ∧ u.recov = some r ∧ i ∈ r.ports)
      ∧ (used → (∃ l ∈ p.lost, l / 4 = other) → gives (.laneLost i lane) (fun y => y.state = .down ∧ y.replay = [] ∧ y.partner = none)))

/-- R9, R312 to R318, R321, R322, R324: traffic of a port that is UP with nothing queued. Every good flit brings its acknowledgement and
credits; a DATA flit in order is held, joins its message and is acknowledged, another one is answered with a NAK; a NAK or an expired timer replays the buffer, and a flit that 8
replays have not brought an acknowledgement retrains the port (found then: DEDUCED 25); an acknowledgement in the cycle of expiry cancels the
replay. ECHO, DELIVERED and priority flow control have the effects of their rules (the reply's turnaround: DESIGN CHOICE 26).
R318, R326, R406 to R409, R413: a SLIDE for this device, new here, is noted once, ends slide pending, and moves the schedule from its
tick; a repeated one changes no booking. 2 ms of slide pending end it with a slide by the ticks withheld. A FAILSTOP flit or message takes
the port DOWN, and the device goes on. -/
def Obligations.LinkTraffic : Prop :=
  (∀ (i : Nat) (s : State), alive s = true → i < s.links.ports.length → (getPort s i).state = .up → (getPort s i).queue = [] →
      let p := getPort s i
      let gives := fun (c : Instr) (P : Port → Prop) => ∃ u, exec c s = .next u ∧ P (getPort u i) ∧ u.mem = s.mem ∧ u.threads = s.threads
      (∀ bs f, parseFlit bs = some f →
        let x := takeHead p f
        (f.kind = 0 → gives (.idleFlitReceive i bs) (fun y => y = x))
        ∧ (f.kind = 1 → (f.seq = p.rxSeq + 1 → gives (.dataFlitReceive i bs) (fun y => y = sendIdle (assemble { x with
                rxSeq := f.seq, naking := false, rxHeld := upd p.rxHeld f.vc (· + 1), rcvd := upd p.rcvd f.vc (· + 1) } f)
              ∧ (f.som = true → msgSpan f.payload ≤ f.payload.length →
                  y.rxMsgs = p.rxMsgs ++ [(f.vc, f.payload.take (msgSpan f.payload))])))
            ∧ (f.seq ≠ p.rxSeq + 1 → gives (.dataFlitReceive i bs) (fun y => y = if p.naking then x else sendNak x)))
        ∧ (f.kind = 2 → (x.replay = [] → gives (.nak i bs) (fun y => y = x))
            ∧ (x.replay ≠ [] → (∀ t ∈ x.replay, t.tries < 8) → gives (.nak i bs) (fun y => y = { (resendAll x) with replays := x.replays + 1 }
                ∧ y.replay = x.replay.map (fun t => { t with tries := t.tries + 1 }))))
        ∧ (f.kind = 4 → getLE f.payload 0 1 = 3 → ∀ time, ∃ t : Nat, gives (.echo i time bs) (fun y => y = sendCtrlFlit x (leBytes 4 8 ++ leBytes t 4)))
        ∧ (f.kind = 4 → getLE f.payload 0 1 = 4 → ∀ time t, p.echoAt = some t → gives (.echoReply i time bs) (fun y => y = { x with
            echoAt := none, delay := (time - t - getLE f.payload 8 4) / 2 })))
      ∧ (∀ bs, parseFlit bs = none → gives (.dataFlitReceive i bs) (fun y => y = sendNak { p with crcErrs := p.crcErrs + 1 }
          ∧ y.rxSeq = p.rxSeq))
      ∧ (p.replay = [] → exec (.replayTimerExpiry i none) s = .next s)
      ∧ (p.replay ≠ [] → (∀ t ∈ p.replay, t.tries < 8) → gives (.replayTimerExpiry i none) (fun y => y = { (resendAll p) with replays := p.replays + 1 }
          ∧ y.replay = p.replay.map (fun t => { t with tries := t.tries + 1 })))
      ∧ ((∃ t ∈ p.replay, 8 ≤ t.tries) → ∃ u r, exec (.replayTimerExpiry i none) s = .next u ∧ (getPort u i).state = .training
          ∧ (getPort u i).retrain = true ∧ (getPort u i).replay = p.replay ∧ (getPort u i).credits = p.credits ∧ u.recov = some r ∧ i ∈ r.ports)
      ∧ (∀ a, gives (.replayTimerExpiry i (some a)) (fun y => y = takeAck p a))
      ∧ (∀ time, gives (.echoSend i time) (fun y => y = { (sendCtrlFlit p [3]) with echoAt := some time }))
      ∧ (∀ k, p.mode = .ethernet → p.paused.contains k = false → gives (.priorityFlowControl i k) (fun y => y = { p with paused := p.paused ++ [k] }))
      ∧ (∀ k, gives (.pfcPauseExpiry i k) (fun y => y = { p with paused := p.paused.filter (· != k) }))
      ∧ (∀ d, s.links.deliv = [d] → directPorts s d.1 = [i] → ∃ u, exec .deliveredSend s = .next u ∧ u.links.deliv = []
          ∧ getPort u i = pump { p with queue := msgFlits 0 (msgHeader d.1 s.dev.fabric.toNat 1 1 d.2.2 ++ [BitVec.ofNat 8 d.2.1]) })
      ∧ (∀ m : Msg, m.port = i → arrived s m = true → msgDest m = s.dev.fabric.toNat → msgType m = 1 → ∃ u, exec (.delivered m) s = .next u
          ∧ pGet u.links.acked (msgSrc m, getLE (msgData m) 0 1) = some (msgSeq m + 1)
          ∧ (∀ a ∈ s.links.awaits, a ∈ u.links.awaits ↔ (a.lost = true ∨ a.dest ≠ msgSrc m ∨ a.vc ≠ getLE (msgData m) 0 1
              ∨ (msgSeq m).toNat < a.mseq.toNat)) ∧ u.mem = s.mem))
  ∧ ((∀ (m : Msg) (s : State), alive s = true → msgNext s m = true →
      let data := msgData m
      let origin := fieldAt data 0 8 12
      let t : Tick := BitVec.ofNat 48 (getLE data 8 6)
      let d := getLE data 16 2
      let at_ := sysToLocal s t.toNat
      (msgType m = 2 → getLE data 0 1 = 1 →
        (s.slides.any (fun v => v.1 == origin && v.2.1 == t) = true → ∃ u, exec (.slide m) s = .next u ∧ u.slides = s.slides
          ∧ u.slideDue = s.slideDue ∧ u.resumeAt = s.resumeAt ∧ u.slideP = s.slideP)
        ∧ (s.slides.any (fun v => v.1 == origin && v.2.1 == t) = false → ∃ u, exec (.slide m) s = .next u
          ∧ u.slides = s.slides ++ [(origin, t, d)] ∧ u.slideP = none ∧ u.tick = s.tick
          ∧ (knownSlide s t = 0 → 0 < d →
              (s.tick.num.toNat ≤ at_ → u.slideDue = s.slideDue.filter (fun v => v.1 != at_) ++ [(at_, d)])
              ∧ (at_ < s.tick.num.toNat → u.resumeAt = max s.resumeAt (at_ + d)))))
      ∧ (msgType m = 3 → idle s → porchQuiet s → s.links.ports.length = 18 → m.port < 18 → (∀ r ∈ s.links.routes, ∀ j ∈ r.ports, j < 18) →
        ∃ u, exec (.failstopMessage m) s = .next u ∧ u.slideP = none
          ∧ (s.slideP = none → (getPort u m.port).state = .down ∧ alive u = true
            ∧ ∀ j ∈ directPorts s (msgSrc m), (getPort s j).state = .up → (getPort u j).state = .down)))
    ∧ (∀ (s : State) (q : Nat × Nat), alive s = true → s.slideP = some q →
      ∃ u, exec .peerSilent s = .next u ∧ u.slideP = none ∧ u.tick = s.tick
        ∧ u.resumeAt = (if withheld s q.1 = 0 then s.resumeAt else max s.resumeAt (q.1 + 1 + withheld s q.1)))
    ∧ (∀ s : State, s.slideP = none → exec .peerSilent s = .next s)
    ∧ (∀ (i : Nat) (bs : List Byte) (f : FlitIn) (s : State), alive s = true → (getPort s i).state = .up → s.links.ports.length = 18 → i < 18 →
      parseFlit bs = some f → f.kind = 4 → getLE f.payload 0 1 = 5 → idle s → porchQuiet s →
      ∃ u, exec (.failstopFlit i bs) s = .next u ∧ u.slideP = none ∧ (s.slideP = none → (getPort u i).state = .down ∧ alive u = true)))

/-! ## Power, supply, start -/

/-- R415, R416, R418, R420, R423 to R426, R437, R461, R464, R467: heat, droop, set points, board caps, sensors, the test port, the supply,
the reference clock, PERST#. At 105.0 °C THERM_N falls, below 103.0 °C everywhere it is released, at 115.0 °C the device fails stop without
its ARRAY rails. Loss of the supply, and PERST#, leave the machine as at reset but for the attic. A release of PERST# with a sound module
enters service with the tick generator enabled; mismatched keys lead into the recovery state. Where no rule gives it, what PERST# and the
supply keep is a DESIGN CHOICE (log entry 92). -/
def Obligations.PowerAndSupply : Prop :=
  (∀ s : State, alive s = true →
    (∀ floor temp, floor < s.pwr.temps.length → s.pwr.temps.length = 8 → ∃ u, exec (.thermalEvent floor temp) s = .next u
      ∧ u.pwr.temps = upd s.pwr.temps floor (fun _ => temp) ∧ u.pwr.tickMax = max s.pwr.tickMax temp ∧ u.tick = s.tick
      ∧ (1050 ≤ temp → u.pwr.thermLow = true) ∧ ((∀ v ∈ u.pwr.temps, v < 1030) → u.pwr.thermLow = false)
      ∧ (s.pwr.temps.getD floor 0 < 1050 → 1050 ≤ temp → u.pwr.thermEvent = hitFlag s.pwr.thermEvent)
      ∧ (temp < 1050 → u.pwr.thermEvent = s.pwr.thermEvent)
      ∧ (temp < 1150 → u.dev = s.dev ∧ u.pwr.array = s.pwr.array)
      ∧ (1150 ≤ temp → u.dev.failstop = true ∧ u.dev.failCode = 0x0505 ∧ u.pwr.array = false))
    ∧ (∀ floor time, s.pwr.array = true → floor < 8 → (∀ d ∈ s.pwr.droops, d.1 ≠ floor) → exec (.droopDetect floor time) s
        = .next { s with now := time, pwr := { s.pwr with droops := s.pwr.droops ++ [(floor, time)] } })
    ∧ (∀ floor t time, s.pwr.droops = [(floor, t)] → ∃ u, exec (.droopRecovery floor time) s = .next u ∧ u.pwr.droops = []
        ∧ u.pwr.stretched = upd s.pwr.stretched floor (· + (time - t)) ∧ u.now = time ∧ u.tick = s.tick)
    ∧ (∀ floor, floor < 8 →
        (1000 ≤ s.pwr.quiet.getD floor 0 → 700 < s.pwr.setPoint.getD floor 700 → ∃ u, exec (.setpointStepBack floor) s = .next u
          ∧ u.pwr.setPoint = upd s.pwr.setPoint floor (· - 10) ∧ u.pwr.quiet = upd s.pwr.quiet floor (fun _ => 0))
        ∧ (s.pwr.quiet.getD floor 0 < 1000 → exec (.setpointStepBack floor) s = .next s))
    ∧ (∀ w, ∃ u, exec (.boardCapWrite false w) s = .next u ∧ u.pwr.boardCont = some w ∧ u.pwr.boardExc = s.pwr.boardExc
        ∧ u.pwr.capC = min s.pwr.capC (limitC u.pwr s.pwr.thermMax.toNat) ∧ u.pwr.capC ≤ w)
    ∧ (∀ w, ∃ u, exec (.boardCapWrite true w) s = .next u ∧ u.pwr.boardExc = some w ∧ u.pwr.boardCont = s.pwr.boardCont
        ∧ u.pwr.capX = min s.pwr.capX (limitX u.pwr s.pwr.thermMax.toNat))
    ∧ (∃ u, exec .refclkLoss s = .next u ∧ u.pwr.refclk = false ∧ u.dev.failstop = true ∧ u.dev.failCode = 0x0506))
  ∧ (∀ s : State, s.pwr.supply = true →
    (∀ f, exec (.pldmSensorRead (.junction f)) s = .next { s with dev := { s.dev with sensor := s.pwr.temps.getD f 0 } })
    ∧ exec (.pldmSensorRead .metTick) s = .next { s with dev := { s.dev with sensor := s.pwr.met.toNat } }
    ∧ (∀ q ∈ [Sensor.inputPower, .inputVoltage], ∃ u, exec (.pldmSensorRead q) s = .next u ∧ u.pwr = s.pwr ∧ u.tick = s.tick ∧ u.plans = s.plans)
    ∧ (∀ ins, ∃ u, exec (.jtagInstruction ins) s = .next u ∧ (s.pwr.perst = true ∨ ins = .idcode → u.dev.jtag = ins)
        ∧ (s.pwr.perst = false → ins ≠ .idcode → u.dev.jtag = .bypass) ∧ u.tick = s.tick ∧ u.pwr = s.pwr)
    ∧ (∃ u, exec .supplyLoss s = .next u ∧ u.pwr.supply = false ∧ u.dev.state = .boot ∧ u.plans = [] ∧ u.threads = []
        ∧ u.mem = State.reset.mem ∧ u.tick = State.reset.tick ∧ u.host = s.host ∧ u.attic.images = s.attic.images
        ∧ repairMap u.attic = repairMap s.attic ∧ (s.attic.updates = [] → u.attic.cfg0 = s.attic.cfg0 ∧ u.attic.cfg1 = s.attic.cfg1))
    ∧ (s.pwr.perst = false → ∃ u, exec .perstAssert s = .next u ∧ u.pwr.perst = true ∧ u.pwr.supply = true ∧ u.dev.state = .boot
        ∧ u.plans = [] ∧ u.threads = [] ∧ u.mem = State.reset.mem ∧ u.tick = State.reset.tick ∧ u.dev.smbus = s.dev.smbus
        ∧ u.pwr.boardCont = s.pwr.boardCont
        ∧ u.attic.saved = (if s.dev.failstop && !s.dev.saved then s.flog.newest.take 4096 else s.attic.saved))
    ∧ (∀ time obs, s.pwr.perst = true →
        (obs.identityOk = false → ∃ u, exec (.perstRelease time obs) s = .next u ∧ u.dev.state = .recovery ∧ u.dev.bootCause = 2)
        ∧ ∀ c, obs = { identityOk := true, lostChannels := [], failedParts := [] } → s.attic.cfg0 = some c → s.attic.cfg1 = none →
            cfgValid s c = true → repairMap s.attic = [] → (slotOfBundle s c.bootSlot).any (fun g => decide (c.minSvn.toNat ≤ g.svn.toNat)) = true →
            ∃ u, exec (.perstRelease time obs) s = .next u ∧ u.dev.state = .inService ∧ u.now = time + 1696000000 ∧ wbit u.tick.ctl 0 = true
              ∧ u.tick.period = c.tickPer ∧ u.dev.fabric = c.fabricId ∧ u.pwr.rails = true ∧ u.pwr.array = true ∧ u.hw.retired = []
              ∧ (∀ i r, c.ports[i]? = some r → (getPort u i).mode = r.mode
                  ∧ (getPort u i).state = (if r.mode = .off then .down else .training))))
  ∧ (∀ (a b : Bool) (s : State), (s.pwr.supply = false → ∃ u, exec (.supplyInRange a b) s = .next u ∧ u.pwr.supply = true
      ∧ u.dev.smbus.toNat = 0x60 + (if a then 2 else 0) + (if b then 1 else 0) ∧ u.attic = s.attic)
    ∧ (s.pwr.supply = true → exec (.supplyInRange a b) s = .next s))

/-- R434: at the release of PERST#, with `c` the configuration copy that start-up takes: the slot that `boot_slot` names runs when its
bundle is valid; otherwise the other slot, with BOOT_FALLBACK; with neither valid the device enters the recovery state. -/
def Obligations.FirmwareSlotAtStart : Prop :=
  ∀ (time : Nat) (obs : BootObs) (s : State) (k : Bool) (c : Cfg), s.pwr.supply = true → s.pwr.perst = true →
    chooseCfg (s.attic.cfg0.filter (cfgValid s)) (s.attic.cfg1.filter (cfgValid s)) = some k →
    (if k then s.attic.cfg1.filter (cfgValid s) else s.attic.cfg0.filter (cfgValid s)) = some c →
    let valid := fun (slot : Bool) => (slotOfBundle s slot).filter (fun g => decide (c.minSvn.toNat ≤ g.svn.toNat))
    ∃ u, exec (.perstRelease time obs) s = .next u
      ∧ (∀ g, valid c.bootSlot = some g → u.dev.bundle = some g ∧ u.dev.slot = c.bootSlot ∧ u.dev.fallback = false)
      ∧ (valid c.bootSlot = none → ∀ g, valid (!c.bootSlot) = some g → u.dev.bundle = some g ∧ u.dev.slot = (!c.bootSlot)
          ∧ u.dev.fallback = true)
      ∧ (valid c.bootSlot = none → valid (!c.bootSlot) = none → u.dev.state = .recovery)
end

