-- ==== Sys2Proof/Laws/Memory.lean ====
section
/-! SUPPORT. The laws of the two memories: every operation keeps the canonical form, a read after a write gives what was written, and
a write leaves every other byte alone. -/
namespace Sys2Proof.Laws

open Sys2Proof Sys2Proof.Machine

/-! ## Device memory -/

theorem cellsFrom_mono {lo hi : Nat} {m : List Host.Cell} (h : lo ≤ hi) (w : cellsFrom hi m = true) : cellsFrom lo m = true := by
  cases m with
  | nil => rfl
  | cons c r =>
    obtain ⟨k, v⟩ := c
    simp only [cellsFrom, Bool.and_eq_true, decide_eq_true_eq] at w ⊢
    exact ⟨⟨Nat.le_trans h w.1.1, w.1.2⟩, w.2⟩

theorem cellsFrom_memPut {lo a : Nat} {b : Byte} {m : List Host.Cell} (h : lo ≤ a) (w : cellsFrom lo m = true) :
    cellsFrom lo (memPut m a b) = true := by
  induction m generalizing lo with
  | nil =>
    unfold memPut
    split
    · rfl
    · next hb => simp [cellsFrom, h, hb]
  | cons c r ih =>
    obtain ⟨k, v⟩ := c
    simp only [cellsFrom, Bool.and_eq_true, decide_eq_true_eq] at w
    unfold memPut
    split
    · next hk =>
      split
      · simp [cellsFrom, w.1.1, w.1.2, w.2]
      · next hb => simp only [cellsFrom, Bool.and_eq_true, decide_eq_true_eq]; exact ⟨⟨h, by simp [hb]⟩, ⟨⟨hk, w.1.2⟩, w.2⟩⟩
    · next hk =>
      split
      · next hak =>
        split
        · exact cellsFrom_mono (by omega) w.2
        · next hb => subst hak; simp only [cellsFrom, Bool.and_eq_true, decide_eq_true_eq]; exact ⟨⟨h, by simp [hb]⟩, w.2⟩
      · next hak =>
        simp only [cellsFrom, Bool.and_eq_true, decide_eq_true_eq]
        exact ⟨w.1, ih (by omega) w.2⟩

/-- One byte written keeps the canonical form. -/
theorem memPut_ok {m : List Host.Cell} {a : Nat} {b : Byte} (w : Memory.wf m = true) : Memory.wf (memPut m a b) = true :=
  cellsFrom_memPut (Nat.zero_le a) w

/-- Bytes written keep the canonical form. -/
theorem memWrite_ok {m : List Host.Cell} {a : Nat} {bs : List Byte} (w : Memory.wf m = true) : Memory.wf (memWrite m a bs) = true := by
  induction bs generalizing m a with
  | nil => exact w
  | cons b r ih => exact ih (memPut_ok w)

theorem cellsFrom_filter {lo : Nat} {m : List Host.Cell} {p : Host.Cell → Bool} (w : cellsFrom lo m = true) :
    cellsFrom lo (m.filter p) = true := by
  induction m generalizing lo with
  | nil => rfl
  | cons c r ih =>
    obtain ⟨k, v⟩ := c
    simp only [cellsFrom, Bool.and_eq_true, decide_eq_true_eq] at w
    rw [List.filter_cons]
    split
    · simp only [cellsFrom, Bool.and_eq_true, decide_eq_true_eq]; exact ⟨w.1, ih w.2⟩
    · exact cellsFrom_mono (by omega) (ih w.2)

/-- Bytes cleared keep the canonical form. -/
theorem memFilter_ok {m : List Host.Cell} {p : Host.Cell → Bool} (w : Memory.wf m = true) : Memory.wf (m.filter p) = true :=
  cellsFrom_filter w

/-- A fold of operations that keep the form keeps it. -/
theorem memFold_ok {A : Type} {m : List Host.Cell} {f : List Host.Cell → A → List Host.Cell} {l : List A}
    (hf : ∀ x a, Memory.wf x = true → Memory.wf (f x a) = true) (w : Memory.wf m = true) : Memory.wf (l.foldl f m) = true := by
  induction l generalizing m with
  | nil => exact w
  | cons a r ih => exact ih (hf m a w)

theorem memIte_ok {p : Prop} [Decidable p] {a b : List Host.Cell} (ha : p → Memory.wf a = true) (hb : ¬p → Memory.wf b = true) :
    Memory.wf (if p then a else b) = true := by split <;> simp_all

/-- Another byte reads as before. -/
theorem memByte_memPut_ne {m : List Host.Cell} {a x : Nat} {b : Byte} (h : x ≠ a) : memByte (memPut m a b) x = memByte m x := by
  have hax : ¬ a = x := fun e => h e.symm
  induction m with
  | nil => unfold memPut; split <;> simp [memByte, hax]
  | cons c r ih =>
    obtain ⟨k, v⟩ := c
    unfold memPut
    split
    · split <;> simp [memByte, hax]
    · split
      · next hk => split <;> simp_all [memByte]
      · simp [memByte, ih]

theorem memByte_below {lo x : Nat} {m : List Host.Cell} (w : cellsFrom lo m = true) (h : x < lo) : memByte m x = blankByte := by
  induction m generalizing lo with
  | nil => rfl
  | cons c r ih =>
    obtain ⟨k, v⟩ := c
    simp only [cellsFrom, Bool.and_eq_true, decide_eq_true_eq] at w
    have : ¬ k = x := by omega
    simp only [memByte, beq_iff_eq, this, if_false]
    exact ih w.2 (by omega)

theorem memByte_memPut_from {lo a : Nat} {b : Byte} {m : List Host.Cell} (w : cellsFrom lo m = true) :
    memByte (memPut m a b) a = b := by
  induction m generalizing lo with
  | nil => unfold memPut; split <;> simp_all [memByte]
  | cons c r ih =>
    obtain ⟨k, v⟩ := c
    simp only [cellsFrom, Bool.and_eq_true, decide_eq_true_eq] at w
    unfold memPut
    split
    · next hk =>
      split
      · next hb =>
        have : ¬ k = a := by omega
        simp only [memByte, beq_iff_eq, this, if_false]
        rw [hb]; exact memByte_below w.2 (by omega)
      · simp [memByte]
    · next hk =>
      split
      · next hak =>
        split
        · next hb => rw [hb]; exact memByte_below w.2 (by omega)
        · simp [memByte]
      · next hak =>
        have : ¬ k = a := fun e => hak e.symm
        simp only [memByte, beq_iff_eq, this, if_false]
        exact ih w.2

/-- The byte written reads back. -/
theorem memByte_memPut_eq {m : List Host.Cell} {a : Nat} {b : Byte} (w : Memory.wf m = true) : memByte (memPut m a b) a = b :=
  memByte_memPut_from w

/-- A write of bytes leaves every other byte alone. -/
theorem memByte_memWrite_out {m : List Host.Cell} {a x : Nat} {bs : List Byte} (h : x < a ∨ a + bs.length ≤ x) :
    memByte (memWrite m a bs) x = memByte m x := by
  induction bs generalizing m a with
  | nil => rfl
  | cons b r ih =>
    simp only [List.length_cons] at h
    rw [memWrite, ih (by omega), memByte_memPut_ne (by omega)]

/-- A write of bytes reads back. -/
theorem memByte_memWrite_in {m : List Host.Cell} {a i : Nat} {bs : List Byte} (w : Memory.wf m = true) (h : i < bs.length) :
    memByte (memWrite m a bs) (a + i) = bs[i] := by
  induction bs generalizing m a i with
  | nil => simp at h
  | cons b r ih =>
    cases i with
    | zero => rw [memWrite, memByte_memWrite_out (by omega), Nat.add_zero, memByte_memPut_eq w]; rfl
    | succ j =>
      simp only [List.length_cons] at h
      rw [memWrite, show a + (j + 1) = a + 1 + j by omega, ih (memPut_ok w) (by omega)]
      rfl

theorem memRead_length (m : List Host.Cell) (a n : Nat) : (memRead m a n).length = n := by
  induction n generalizing a with
  | zero => rfl
  | succ k ih => simp [memRead, ih]

/-- Read after write, over the range written. -/
theorem memRead_memWrite {m : List Host.Cell} {a : Nat} {bs : List Byte} (w : Memory.wf m = true) :
    memRead (memWrite m a bs) a bs.length = bs := by
  induction bs generalizing m a with
  | nil => rfl
  | cons b r ih =>
    have h0 : memByte (memWrite m a (b :: r)) a = b := by
      have := memByte_memWrite_in (a := a) (i := 0) (bs := b :: r) w (by simp)
      simpa using this
    rw [List.length_cons, memRead, h0, memWrite, ih (memPut_ok w)]

/-- Two memories in the canonical form that read alike are the same list. -/
theorem cells_ext {lo : Nat} {m n : List Host.Cell} (hm : cellsFrom lo m = true) (hn : cellsFrom lo n = true)
    (h : ∀ x, memByte m x = memByte n x) : m = n := by
  induction m generalizing lo n with
  | nil =>
    cases n with
    | nil => rfl
    | cons c r =>
      obtain ⟨k, v⟩ := c
      simp only [cellsFrom, Bool.and_eq_true, bne_iff_ne, ne_eq] at hn
      have := h k
      simp only [memByte, beq_self_eq_true, if_true] at this
      exact absurd this.symm hn.1.2
  | cons c r ih =>
    obtain ⟨k, v⟩ := c
    cases n with
    | nil =>
      simp only [cellsFrom, Bool.and_eq_true, bne_iff_ne, ne_eq] at hm
      have := h k
      simp only [memByte, beq_self_eq_true, if_true] at this
      exact absurd this hm.1.2
    | cons d q =>
      obtain ⟨j, u⟩ := d
      simp only [cellsFrom, Bool.and_eq_true, bne_iff_ne, ne_eq, decide_eq_true_eq] at hm hn
      have hkj : k = j := by
        rcases Nat.lt_trichotomy k j with hlt | heq | hgt
        · have e := h k
          have : memByte ((j, u) :: q) k = blankByte := memByte_below (lo := j)
            (by simp only [cellsFrom, Bool.and_eq_true, bne_iff_ne, ne_eq, decide_eq_true_eq]; exact ⟨⟨Nat.le_refl j, hn.1.2⟩, hn.2⟩) hlt
          rw [this] at e
          simp only [memByte, beq_self_eq_true, if_true] at e
          exact absurd e hm.1.2
        · exact heq
        · have e := h j
          have : memByte ((k, v) :: r) j = blankByte := memByte_below (lo := k)
            (by simp only [cellsFrom, Bool.and_eq_true, bne_iff_ne, ne_eq, decide_eq_true_eq]; exact ⟨⟨Nat.le_refl k, hm.1.2⟩, hm.2⟩) hgt
          rw [this] at e
          simp only [memByte, beq_self_eq_true, if_true] at e
          exact absurd e.symm hn.1.2
      subst hkj
      have hv : v = u := by have := h k; simpa [memByte] using this
      subst hv
      congr 1
      refine ih hm.2 hn.2 (fun x => ?_)
      by_cases hx : k = x
      · subst hx
        rw [memByte_below hm.2 (Nat.lt_succ_self k), memByte_below hn.2 (Nat.lt_succ_self k)]
      · have := h x
        simpa [memByte, hx] using this

/-! ## Host memory -/

theorem hostFrom_mono {lo hi : Nat} {m : List Host.Cell} (h : lo ≤ hi) (w : hostFrom hi m = true) : hostFrom lo m = true := by
  cases m with
  | nil => rfl
  | cons c r =>
    obtain ⟨k, v⟩ := c
    simp only [hostFrom, Bool.and_eq_true, decide_eq_true_eq] at w ⊢
    exact ⟨Nat.le_trans h w.1, w.2⟩

theorem hostFrom_aSet {lo a : Nat} {b : Byte} {m : List Host.Cell} (h : lo ≤ a) (w : hostFrom lo m = true) :
    hostFrom lo (aSet m a b) = true := by
  induction m generalizing lo with
  | nil => simp [aSet, hostFrom, h]
  | cons c r ih =>
    obtain ⟨k, v⟩ := c
    simp only [hostFrom, Bool.and_eq_true, decide_eq_true_eq] at w
    unfold aSet
    split
    · next hk => simp only [hostFrom, Bool.and_eq_true, decide_eq_true_eq]; exact ⟨h, hk, w.2⟩
    · next hk =>
      split
      · next hak =>
        have hak : a = k := by simpa using hak
        subst hak; simp only [hostFrom, Bool.and_eq_true, decide_eq_true_eq]; exact ⟨h, w.2⟩
      · next hak =>
        have hak : a ≠ k := by simpa using hak
        simp only [hostFrom, Bool.and_eq_true, decide_eq_true_eq]
        exact ⟨w.1, ih (by omega) w.2⟩

/-- A write to host memory keeps the canonical form. -/
theorem hostWrite_ok {m : List Host.Cell} {a : Nat} {bs : List Byte} (w : HostMemory.wf m = true) :
    HostMemory.wf (hostWrite m a bs) = true := by
  induction bs generalizing m a with
  | nil => exact w
  | cons b r ih => exact ih (hostFrom_aSet (Nat.zero_le a) w)

theorem hostIte_ok {p : Prop} [Decidable p] {a b : List Host.Cell} (ha : p → HostMemory.wf a = true) (hb : ¬p → HostMemory.wf b = true) :
    HostMemory.wf (if p then a else b) = true := by split <;> simp_all

theorem aGet_aSet_ne {V : Type} {m : List (Nat × V)} {a x : Nat} {b : V} (h : x ≠ a) : aGet (aSet m a b) x = aGet m x := by
  have hax : ¬ a = x := fun e => h e.symm
  induction m with
  | nil => simp [aSet, aGet, hax]
  | cons c r ih =>
    obtain ⟨k, v⟩ := c
    unfold aSet
    split
    · simp [aGet, hax]
    · split
      · next hk => simp_all [aGet]
      · simp [aGet, ih]

theorem aGet_aSet_eq {V : Type} {m : List (Nat × V)} {a : Nat} {b : V} : aGet (aSet m a b) a = some b := by
  induction m with
  | nil => simp [aSet, aGet]
  | cons c r ih =>
    obtain ⟨k, v⟩ := c
    unfold aSet
    split
    · simp [aGet]
    · split
      · next hk => simp [aGet]
      · next hk =>
        have : ¬ k = a := fun e => hk (by simp [e])
        simp [aGet, this, ih]

/-- A write to host memory leaves every other byte alone. -/
theorem hostByte_hostWrite_out {m : List Host.Cell} {a x : Nat} {bs : List Byte} (h : x < a ∨ a + bs.length ≤ x) :
    hostByte (hostWrite m a bs) x = hostByte m x := by
  induction bs generalizing m a with
  | nil => rfl
  | cons b r ih =>
    simp only [List.length_cons] at h
    rw [hostWrite, ih (by omega), hostByte, hostByte, aGet_aSet_ne (by omega)]

/-- What the device wrote to host memory stands there. -/
theorem hostByte_hostWrite_in {m : List Host.Cell} {a i : Nat} {bs : List Byte} (h : i < bs.length) :
    hostByte (hostWrite m a bs) (a + i) = some bs[i] := by
  induction bs generalizing m a i with
  | nil => simp at h
  | cons b r ih =>
    cases i with
    | zero => rw [hostWrite, hostByte_hostWrite_out (by omega), Nat.add_zero, hostByte, aGet_aSet_eq]; rfl
    | succ j =>
      simp only [List.length_cons] at h
      rw [hostWrite, show a + (j + 1) = a + 1 + j by omega, ih (by omega)]
      rfl

end Sys2Proof.Laws
end

