-- ==== Sys2Proof/Laws/Cells.lean ====
section
/-! SUPPORT. The operations on a memory as a list of cells keep its canonical form. -/
namespace Sys2Proof.Laws

open Sys2Proof Sys2Proof.Machine

theorem writeTile_ok {m : List Host.Cell} {r : RoomRec} {t : Nat} {ws : List Word} (w : Memory.wf m = true) :
    Memory.wf (writeTile m r t ws) = true := memWrite_ok w

theorem mmaMem_ok {e : Bool} {r : RoomRec} {i : MmaImm} {d : MmaAddr} {m : List Host.Cell} (w : Memory.wf m = true) :
    Memory.wf (mmaMem e r i d m) = true := writeTile_ok w

theorem zeroTiles_ok {r : RoomRec} {t n : Nat} {m : List Host.Cell} (w : Memory.wf m = true) :
    Memory.wf (zeroTiles r t m n) = true := by
  induction n generalizing t m with
  | zero => exact w
  | succ n ih => exact ih (writeTile_ok w)

theorem accOutMem_ok {r : RoomRec} {i : AccImm} {a b : Nat} {m : List Host.Cell} (w : Memory.wf m = true) :
    Memory.wf (accOutMem r i a b m) = true := memWrite_ok (memWrite_ok w)

theorem nestMmas_ok {e : Bool} {r : RoomRec} {d : Nest} {ix : List Nat} {m : List Host.Cell} (w : Memory.wf m = true) :
    Memory.wf (nestMmas e r d ix m) = true := memFold_ok (fun _ _ h => mmaMem_ok h) w

theorem nestOuts_ok {r : RoomRec} {d : Nest} {ix : List Nat} {m : List Host.Cell} (w : Memory.wf m = true) :
    Memory.wf (nestOuts r d ix m) = true := memFold_ok (fun _ _ h => accOutMem_ok h) w

theorem nestRun_ok {e : Bool} {r : RoomRec} {d : Nest} {ns : List Nat} {m : List Host.Cell} (w : Memory.wf m = true) :
    Memory.wf (nestRun e r d ns m) = true :=
  memFold_ok (fun _ _ h => memIte_ok (fun _ => nestOuts_ok (nestMmas_ok h)) (fun _ => nestMmas_ok h)) w

theorem nestEmpty_ok {r : RoomRec} {d : Nest} {ns : List Nat} {m : List Host.Cell} (w : Memory.wf m = true) :
    Memory.wf (nestEmpty r d ns m) = true :=
  memFold_ok (fun _ _ h => memIte_ok
    (fun _ => nestOuts_ok (memIte_ok (fun _ => h) (fun _ => zeroTiles_ok h))) (fun _ => memIte_ok (fun _ => h) (fun _ => zeroTiles_ok h))) w

theorem landImage_ok {es : List Nat} {p : List Byte} {m : List Host.Cell} (w : Memory.wf m = true) :
    Memory.wf (landImage m es p) = true := by
  induction es generalizing m p with
  | nil => exact w
  | cons e r ih => exact ih (memWrite_ok w)

theorem switchBanks_ok {r : RoomRec} {l : List Nat} {m : List Host.Cell} (w : Memory.wf m = true) :
    Memory.wf (switchBanks m r l) = true := memFold_ok (fun _ _ h => memWrite_ok (memWrite_ok h)) w

theorem scrub_ok {es : List Nat} {m : List Host.Cell} (w : Memory.wf m = true) : Memory.wf (scrub m es) = true := memFilter_ok w

theorem writeVaMem_ok {s : State} {c va : Nat} {bs : List Byte} {m : List Host.Cell} (w : Memory.wf m = true) :
    Memory.wf (writeVaMem s c va m bs) = true := by
  induction bs generalizing m va with
  | nil => exact w
  | cons b r ih =>
    refine ih ?_
    split
    · exact memPut_ok w
    · exact w

theorem runIn_ok {d : Dma} {s : State} {c : Nat} {r : RoomRec} {a b : Nat} (w : Memory.wf s.mem = true) :
    Memory.wf (d.runIn s c r a b) = true := memFold_ok (fun _ _ h => memWrite_ok h) w

theorem runOut_ok {d : Dma} {s : State} {c : Nat} {r : RoomRec} {a b : Nat} (w : Memory.wf s.mem = true) :
    Memory.wf (d.runOut s c r a b) = true := memFold_ok (fun _ _ h => writeVaMem_ok h) w

theorem statusWrite_ok {m : List Host.Cell} {r : RoomRec} {d : Dma} {l : Bool} (w : Memory.wf m = true) :
    Memory.wf (statusWrite m r d l) = true := memIte_ok (fun _ => w) (fun _ => memWrite_ok w)

theorem lateZero_ok {m : List Host.Cell} {r : RoomRec} {d : Dma} {a : Nat} (w : Memory.wf m = true) :
    Memory.wf (lateZero m r d a) = true := memFold_ok (fun _ _ h => memWrite_ok h) w

theorem expandGroup_ok {e : Bool} {r : RoomRec} {d : WalkDesc} {k : WalkTable} {a b c f n : Nat} {col : Bool} {m : List Host.Cell}
    (w : Memory.wf m = true) : Memory.wf (expandGroup e r d k a b c f col n m) = true := accOutMem_ok (mmaMem_ok w)

theorem expandBlock_ok {e : Bool} {r : RoomRec} {d : WalkDesc} {k : WalkTable} {a b n : Nat} {m : List Host.Cell}
    (w : Memory.wf m = true) : Memory.wf (expandBlock e r d k a b n m) = true :=
  memFold_ok (fun _ _ h => expandGroup_ok h) (memFold_ok (fun _ _ h => expandGroup_ok h) w)

theorem landBlock_ok {e : Bool} {s : State} {r : RoomRec} {d : WalkDesc} {k : WalkTable} {a : Nat} {acc : List Host.Cell × Nat}
    {b : Nat × Blk} (w : Memory.wf acc.1 = true) : Memory.wf (landBlock e s r d k a acc b).1 = true := by
  unfold landBlock
  split
  · exact memWrite_ok w
  · dsimp only
    split
    · exact memWrite_ok (memWrite_ok w)
    · exact expandBlock_ok (memWrite_ok w)

theorem landBlocks_ok {e : Bool} {s : State} {r : RoomRec} {d : WalkDesc} {k : WalkTable} {a : Nat} {acc : List Host.Cell × Nat}
    {l : List (Nat × Blk)} (w : Memory.wf acc.1 = true) : Memory.wf (l.foldl (landBlock e s r d k a) acc).1 = true := by
  induction l generalizing acc with
  | nil => exact w
  | cons b r ih => exact ih (landBlock_ok w)

theorem wipe_ok {m : List Host.Cell} {lo n : Nat} (w : Memory.wf m = true) : Memory.wf (wipe m lo n) = true := memFilter_ok w

theorem clearWindows_ok {m : List Host.Cell} {r : RoomRec} (w : Memory.wf m = true) : Memory.wf (clearWindows m r) = true :=
  wipe_ok (wipe_ok (wipe_ok (wipe_ok (wipe_ok w))))

theorem firstWindows_ok {s : State} {b : PlanBody} {r : RoomRec} {bs : List Byte} (w : Memory.wf s.mem = true) :
    Memory.wf (firstWindows s b r bs) = true := memFold_ok (fun _ _ h => memWrite_ok h) (memWrite_ok (clearWindows_ok w))

theorem writeSlots_ok {h : List Host.Cell} {base n size k : Nat} {r : LedgerRec} {q : RingTail} (w : HostMemory.wf h = true) :
    HostMemory.wf (writeSlots h base r n size q k).1 = true := by
  induction k generalizing h q with
  | zero => exact w
  | succ k ih => exact ih (hostWrite_ok w)

end Sys2Proof.Laws
end

