-- ==== Sys2Proof/Laws/Keep.lean ====
section
/-! SUPPORT. What an operation may change, said once for each: `Keep m s t` says that `t` differs from `s` only in the parts that `m`
chooses, and that the canonical form of the memories has not been lost on the way. -/
namespace Sys2Proof.Laws

open Sys2Proof Sys2Proof.Machine

/-- `t` differs from `s` only in the chosen parts, and the memories are canonical if they were. -/
def Keep (m : Touch) (s t : State) : Prop := blank m t = blank m s ∧ (MemOk s = true → MemOk t = true)

theorem keep_refl (m : Touch) (s : State) : Keep m s s := ⟨rfl, id⟩

theorem keep_trans {m : Touch} {s t u : State} (h : Keep m s t) (g : Keep m t u) : Keep m s u := ⟨g.1.trans h.1, fun k => g.2 (h.2 k)⟩

theorem keep_ite {m : Touch} {s a b : State} {p : Prop} [Decidable p] (ha : p → Keep m s a) (hb : ¬p → Keep m s b) :
    Keep m s (if p then a else b) := by split <;> simp_all

theorem keep_foldl {A : Type} {m : Touch} {s x : State} {f : State → A → State} {l : List A}
    (hf : ∀ y a, Keep m s y → Keep m s (f y a)) (h : Keep m s x) : Keep m s (l.foldl f x) := by
  induction l generalizing x with
  | nil => exact h
  | cons a r ih => exact ih (hf x a h)

theorem keep_elim {A : Type} {m : Touch} {s x : State} {f : A → State} {o : Option A} (h : Keep m s x) (hf : ∀ a, Keep m s (f a)) :
    Keep m s (o.elim x f) := by cases o with
  | none => exact h
  | some a => exact hf a

theorem keep_foldl_fst {A B : Type} {m : Touch} {s : State} {x : State × B} {f : State × B → A → State × B} {l : List A}
    (hf : ∀ y a, Keep m s y.1 → Keep m s (f y a).1) (h : Keep m s x.1) : Keep m s (l.foldl f x).1 := by
  induction l generalizing x with
  | nil => exact h
  | cons a r ih => exact ih (hf x a h)

theorem keep_foldl_snd {A B : Type} {m : Touch} {s : State} {x : B × State} {f : B × State → A → B × State} {l : List A}
    (hf : ∀ y a, Keep m s y.2 → Keep m s (f y a).2) (h : Keep m s x.2) : Keep m s (l.foldl f x).2 := by
  induction l generalizing x with
  | nil => exact h
  | cons a r ih => exact ih (hf x a h)

/-- The same for the outcome of a command. -/
def KeepOut (m : Touch) (s : State) (o : Out1) : Prop := ∀ t, o = .next t → Keep m s t

theorem keepOut_next {m : Touch} {s t : State} (h : Keep m s t) : KeepOut m s (.next t) := by
  intro u hu; cases hu; exact h

theorem imp_trans {a b c : Bool} (h : imp a b = true) (g : imp b c = true) : imp a c = true := by
  cases a <;> cases b <;> simp_all [imp]

theorem imp_true {b : Bool} (h : imp true b = true) : b = true := h

theorem and_l {a b : Bool} (h : (a && b) = true) : a = true := by cases a <;> simp_all

theorem and_r {a b : Bool} (h : (a && b) = true) : b = true := by cases a <;> simp_all

theorem touch_trans {a b c : Touch} (h : a.le b = true) (g : b.le c = true) : a.le c = true := by
  simp only [Touch.le, Bool.and_eq_true] at *
  exact ⟨⟨⟨⟨⟨⟨⟨⟨⟨⟨⟨⟨⟨⟨⟨⟨⟨⟨⟨⟨⟨⟨⟨⟨⟨⟨⟨⟨⟨⟨imp_trans h.1.1.1.1.1.1.1.1.1.1.1.1.1.1.1.1.1.1.1.1.1.1.1.1.1.1.1.1.1.1 g.1.1.1.1.1.1.1.1.1.1.1.1.1.1.1.1.1.1.1.1.1.1.1.1.1.1.1.1.1.1, imp_trans h.1.1.1.1.1.1.1.1.1.1.1.1.1.1.1.1.1.1.1.1.1.1.1.1.1.1.1.1.1.2 g.1.1.1.1.1.1.1.1.1.1.1.1.1.1.1.1.1.1.1.1.1.1.1.1.1.1.1.1.1.2⟩, imp_trans h.1.1.1.1.1.1.1.1.1.1.1.1.1.1.1.1.1.1.1.1.1.1.1.1.1.1.1.1.2 g.1.1.1.1.1.1.1.1.1.1.1.1.1.1.1.1.1.1.1.1.1.1.1.1.1.1.1.1.2⟩, imp_trans h.1.1.1.1.1.1.1.1.1.1.1.1.1.1.1.1.1.1.1.1.1.1.1.1.1.1.1.2 g.1.1.1.1.1.1.1.1.1.1.1.1.1.1.1.1.1.1.1.1.1.1.1.1.1.1.1.2⟩, imp_trans h.1.1.1.1.1.1.1.1.1.1.1.1.1.1.1.1.1.1.1.1.1.1.1.1.1.1.2 g.1.1.1.1.1.1.1.1.1.1.1.1.1.1.1.1.1.1.1.1.1.1.1.1.1.1.2⟩, imp_trans h.1.1.1.1.1.1.1.1.1.1.1.1.1.1.1.1.1.1.1.1.1.1.1.1.1.2 g.1.1.1.1.1.1.1.1.1.1.1.1.1.1.1.1.1.1.1.1.1.1.1.1.1.2⟩, imp_trans h.1.1.1.1.1.1.1.1.1.1.1.1.1.1.1.1.1.1.1.1.1.1.1.1.2 g.1.1.1.1.1.1.1.1.1.1.1.1.1.1.1.1.1.1.1.1.1.1.1.1.2⟩, imp_trans h.1.1.1.1.1.1.1.1.1.1.1.1.1.1.1.1.1.1.1.1.1.1.1.2 g.1.1.1.1.1.1.1.1.1.1.1.1.1.1.1.1.1.1.1.1.1.1.1.2⟩, imp_trans h.1.1.1.1.1.1.1.1.1.1.1.1.1.1.1.1.1.1.1.1.1.1.2 g.1.1.1.1.1.1.1.1.1.1.1.1.1.1.1.1.1.1.1.1.1.1.2⟩, imp_trans h.1.1.1.1.1.1.1.1.1.1.1.1.1.1.1.1.1.1.1.1.1.2 g.1.1.1.1.1.1.1.1.1.1.1.1.1.1.1.1.1.1.1.1.1.2⟩, imp_trans h.1.1.1.1.1.1.1.1.1.1.1.1.1.1.1.1.1.1.1.1.2 g.1.1.1.1.1.1.1.1.1.1.1.1.1.1.1.1.1.1.1.1.2⟩, imp_trans h.1.1.1.1.1.1.1.1.1.1.1.1.1.1.1.1.1.1.1.2 g.1.1.1.1.1.1.1.1.1.1.1.1.1.1.1.1.1.1.1.2⟩, imp_trans h.1.1.1.1.1.1.1.1.1.1.1.1.1.1.1.1.1.1.2 g.1.1.1.1.1.1.1.1.1.1.1.1.1.1.1.1.1.1.2⟩, imp_trans h.1.1.1.1.1.1.1.1.1.1.1.1.1.1.1.1.1.2 g.1.1.1.1.1.1.1.1.1.1.1.1.1.1.1.1.1.2⟩, imp_trans h.1.1.1.1.1.1.1.1.1.1.1.1.1.1.1.1.2 g.1.1.1.1.1.1.1.1.1.1.1.1.1.1.1.1.2⟩, imp_trans h.1.1.1.1.1.1.1.1.1.1.1.1.1.1.1.2 g.1.1.1.1.1.1.1.1.1.1.1.1.1.1.1.2⟩, imp_trans h.1.1.1.1.1.1.1.1.1.1.1.1.1.1.2 g.1.1.1.1.1.1.1.1.1.1.1.1.1.1.2⟩, imp_trans h.1.1.1.1.1.1.1.1.1.1.1.1.1.2 g.1.1.1.1.1.1.1.1.1.1.1.1.1.2⟩, imp_trans h.1.1.1.1.1.1.1.1.1.1.1.1.2 g.1.1.1.1.1.1.1.1.1.1.1.1.2⟩, imp_trans h.1.1.1.1.1.1.1.1.1.1.1.2 g.1.1.1.1.1.1.1.1.1.1.1.2⟩, imp_trans h.1.1.1.1.1.1.1.1.1.1.2 g.1.1.1.1.1.1.1.1.1.1.2⟩, imp_trans h.1.1.1.1.1.1.1.1.1.2 g.1.1.1.1.1.1.1.1.1.2⟩, imp_trans h.1.1.1.1.1.1.1.1.2 g.1.1.1.1.1.1.1.1.2⟩, imp_trans h.1.1.1.1.1.1.1.2 g.1.1.1.1.1.1.1.2⟩, imp_trans h.1.1.1.1.1.1.2 g.1.1.1.1.1.1.2⟩, imp_trans h.1.1.1.1.1.2 g.1.1.1.1.1.2⟩, imp_trans h.1.1.1.1.2 g.1.1.1.1.2⟩, imp_trans h.1.1.1.2 g.1.1.1.2⟩, imp_trans h.1.1.2 g.1.1.2⟩, imp_trans h.1.2 g.1.2⟩, imp_trans h.2 g.2⟩

theorem touch_below {a b c : Touch} (g : b.le c = true) (h : a.le b = true) : a.le c = true := touch_trans h g

theorem keep_cut {m : Touch} {s : State} {G : Prop} (x : State) (h : Keep m s x) (g : Keep m s x → G) : G := g h

theorem keep_cut_fst {m : Touch} {s : State} {A : Type} {G : Prop} (x : State × A) (h : Keep m s x.1) (g : Keep m s x.1 → G) : G := g h

theorem keep_cut_snd {m : Touch} {s : State} {A : Type} {G : Prop} (x : A × State) (h : Keep m s x.2) (g : Keep m s x.2 → G) : G := g h

/-- The same for a state that may be absent. -/
def KeepSome (m : Touch) (s : State) (o : Option State) : Prop := ∀ u, o = some u → Keep m s u

/-- The same for a state with a value beside it, that may be absent. -/
def KeepPair {A : Type} (m : Touch) (s : State) (o : Option (State × A)) : Prop := ∀ u, o = some u → Keep m s u.1

theorem keepSome_none {m : Touch} {s : State} : KeepSome m s none := by intro u h; cases h

theorem keepSome_some {m : Touch} {s t : State} (h : Keep m s t) : KeepSome m s (some t) := by intro u e; cases e; exact h

theorem keepSome_elim {m : Touch} {s u : State} {o : Option State} (h : KeepSome m s o) (e : o = some u) : Keep m s u := h u e

theorem keepSome_ite {m : Touch} {s : State} {a b : Option State} {p : Prop} [Decidable p] (ha : p → KeepSome m s a) (hb : ¬p → KeepSome m s b) :
    KeepSome m s (if p then a else b) := by split <;> simp_all

theorem keepSome_map {A : Type} {m : Touch} {s : State} {o : Option A} {f : A → State} (h : ∀ a, o = some a → Keep m s (f a)) :
    KeepSome m s (o.map f) := by
  intro u e
  obtain ⟨a, ha, rfl⟩ := Option.map_eq_some_iff.mp e
  exact h a ha

theorem keepSome_bind {A : Type} {m : Touch} {s : State} {o : Option A} {f : A → Option State} (h : ∀ a, o = some a → KeepSome m s (f a)) :
    KeepSome m s (o.bind f) := by
  intro u e
  obtain ⟨a, ha, h2⟩ := Option.bind_eq_some_iff.mp e
  exact h a ha u h2

theorem keepPair_none {A : Type} {m : Touch} {s : State} : KeepPair m s (none : Option (State × A)) := by intro u h; cases h

theorem keepPair_some {A : Type} {m : Touch} {s t : State} {a : A} (h : Keep m s t) : KeepPair m s (some (t, a)) := by
  intro u e; cases e; exact h

theorem keepPair_map {A B : Type} {m : Touch} {s : State} {o : Option A} {f : A → State × B} (h : ∀ a, o = some a → Keep m s (f a).1) :
    KeepPair m s (o.map f) := by
  intro u e
  obtain ⟨a, ha, rfl⟩ := Option.map_eq_some_iff.mp e
  exact h a ha

theorem keepPair_elim {A : Type} {m : Touch} {s : State} {u : State × A} {o : Option (State × A)} (h : KeepPair m s o) (e : o = some u) :
    Keep m s u.1 := h u e

theorem keepPair_elim2 {A : Type} {m : Touch} {s u : State} {a : A} {o : Option (State × A)} (h : KeepPair m s o) (e : o = some (u, a)) :
    Keep m s u := h _ e

theorem keepPair_ite {A : Type} {m : Touch} {s : State} {a b : Option (State × A)} {p : Prop} [Decidable p] (ha : p → KeepPair m s a)
    (hb : ¬p → KeepPair m s b) : KeepPair m s (if p then a else b) := by split <;> simp_all

theorem keepOut_ite {m : Touch} {s : State} {a b : Out1} {p : Prop} [Decidable p] (ha : p → KeepOut m s a)
    (hb : ¬p → KeepOut m s b) : KeepOut m s (if p then a else b) := by split <;> simp_all

theorem keep_cut_some {m : Touch} {s : State} {G : Prop} (x : Option State) (h : KeepSome m s x) (g : KeepSome m s x → G) : G := g h

theorem keep_cut_pair {A : Type} {m : Touch} {s : State} {G : Prop} (x : Option (State × A)) (h : KeepPair m s x) (g : KeepPair m s x → G) : G := g h

theorem keep_cut_run {m : Touch} {s : State} {G : Prop} (x : RC) (h : Keep m s x.s) (g : Keep m s x.s → G) : G := g h

theorem keep_of_fst {m : Touch} {s u : State} {A : Type} {x : State × A} {a : A} (h : Keep m s x.1) (e : x = (u, a)) : Keep m s u := by
  rw [e] at h; exact h

theorem keep_of_snd {m : Touch} {s u : State} {A : Type} {x : A × State} {a : A} (h : Keep m s x.2) (e : x = (a, u)) : Keep m s u := by
  rw [e] at h; exact h

/-- `Keep` of a state given field by field: the pattern lemmas below speak of it, so that they meet only such states. -/
def KeepMk (m : Touch) (s : State) (xpending : List Instr) (xfree : Nat) (xnow : Nat) (xdev : Dev) (xtick : TickGen) (xpwr : Pwr) (xfns : List (Nat × FnPage)) (xctxs : List (Nat × Ctx)) (xtags : List TagUse) (xplans : List Plan) (xthreads : List Thread) (xpreds : List PredInst) (xtables : List KvTable) (xframes : List Frame) (xdecs : List Nat) (xpins : List PinBind) (xlimbo : List (Nat × Nat)) (xflog : FaultLog) (xhw : Hw) (xrecov : Option Recov) (xslideP : Option (Nat × Nat)) (xslides : List (Nat × Tick × Nat)) (xresumeAt : Nat) (xslideDue : List (Nat × Nat)) (xbooks : List BookRow) (xbadBooks : List (Nat × Nat)) (xfullAudit : Bool) (xlinks : Links) (xattic : Attic) (xmem : List Host.Cell) (xhost : List Host.Cell) : Prop :=
  Keep m s ⟨xpending, xfree, xnow, xdev, xtick, xpwr, xfns, xctxs, xtags, xplans, xthreads, xpreds, xtables, xframes, xdecs, xpins, xlimbo, xflog, xhw, xrecov, xslideP, xslides, xresumeAt, xslideDue, xbooks, xbadBooks, xfullAudit, xlinks, xattic, xmem, xhost⟩

theorem keep_mk {m : Touch} {s : State} {xpending : List Instr} {xfree : Nat} {xnow : Nat} {xdev : Dev} {xtick : TickGen} {xpwr : Pwr} {xfns : List (Nat × FnPage)} {xctxs : List (Nat × Ctx)} {xtags : List TagUse} {xplans : List Plan} {xthreads : List Thread} {xpreds : List PredInst} {xtables : List KvTable} {xframes : List Frame} {xdecs : List Nat} {xpins : List PinBind} {xlimbo : List (Nat × Nat)} {xflog : FaultLog} {xhw : Hw} {xrecov : Option Recov} {xslideP : Option (Nat × Nat)} {xslides : List (Nat × Tick × Nat)} {xresumeAt : Nat} {xslideDue : List (Nat × Nat)} {xbooks : List BookRow} {xbadBooks : List (Nat × Nat)} {xfullAudit : Bool} {xlinks : Links} {xattic : Attic} {xmem : List Host.Cell} {xhost : List Host.Cell} :
    Keep m s ⟨xpending, xfree, xnow, xdev, xtick, xpwr, xfns, xctxs, xtags, xplans, xthreads, xpreds, xtables, xframes, xdecs, xpins, xlimbo, xflog, xhw, xrecov, xslideP, xslides, xresumeAt, xslideDue, xbooks, xbadBooks, xfullAudit, xlinks, xattic, xmem, xhost⟩ = KeepMk m s xpending xfree xnow xdev xtick xpwr xfns xctxs xtags xplans xthreads xpreds xtables xframes xdecs xpins xlimbo xflog xhw xrecov xslideP xslides xresumeAt xslideDue xbooks xbadBooks xfullAudit xlinks xattic xmem xhost := rfl

theorem keep_repeat {m : Touch} {s x : State} {f : State → State} {n : Nat} (hf : ∀ y, Keep m s y → Keep m s (f y)) (h : Keep m s x) :
    Keep m s (Nat.repeat f n x) := by
  induction n with
  | zero => exact h
  | succ n ih => exact hf _ ih

theorem enter_s {s : State} {t : Tid} {c : RC} (h : enter s t = some c) : c.s = s := by
  unfold enter at h
  repeat' (first | contradiction | split at h)
  cases h; rfl

theorem keep_enter {m : Touch} {s0 s : State} {t : Tid} {c : RC} (h : Keep m s0 s) (e : enter s t = some c) : Keep m s0 c.s := by
  rw [enter_s e]; exact h

theorem cell_id {G : Prop} (_ : List Host.Cell) (g : G) : G := g

theorem keep_getD {m : Touch} {s x : State} {o : Option State} (ho : KeepSome m s o) (h : Keep m s x) : Keep m s (o.getD x) := by
  cases o with
  | none => exact h
  | some u => exact ho u rfl

theorem fun_id {A B : Type} {G : Prop} (_ : A → B) (g : G) : G := g

/-! ## Updates of fields -/

theorem keep_fns {M : Touch} {s X : State} {v0 : List (Nat × FnPage)} (hm : ({ fns := true } : Touch).le M = true) (h : Keep M s X) :
    KeepMk M s X.pending X.free X.now X.dev X.tick X.pwr v0 X.ctxs X.tags X.plans X.threads X.preds X.tables X.frames X.decs X.pins X.limbo X.flog X.hw X.recov X.slideP X.slides X.resumeAt X.slideDue X.books X.badBooks X.fullAudit X.links X.attic X.mem X.host := by
  simp only [Touch.le, Bool.and_eq_true] at hm
  have tfns : M.fns = true := imp_true hm.1.1.1.1.1.1.1.1.1.1.1.1.1.1.1.1.1.1.1.1.1.1.1.1.2
  refine ⟨Eq.trans ?_ h.1, fun k => ?_⟩
  · simp only [blank, tfns, if_true]
  · exact h.2 k

theorem keep_ctxs {M : Touch} {s X : State} {v0 : List (Nat × Ctx)} (hm : ({ ctxs := true } : Touch).le M = true) (h : Keep M s X) :
    KeepMk M s X.pending X.free X.now X.dev X.tick X.pwr X.fns v0 X.tags X.plans X.threads X.preds X.tables X.frames X.decs X.pins X.limbo X.flog X.hw X.recov X.slideP X.slides X.resumeAt X.slideDue X.books X.badBooks X.fullAudit X.links X.attic X.mem X.host := by
  simp only [Touch.le, Bool.and_eq_true] at hm
  have tctxs : M.ctxs = true := imp_true hm.1.1.1.1.1.1.1.1.1.1.1.1.1.1.1.1.1.1.1.1.1.1.1.2
  refine ⟨Eq.trans ?_ h.1, fun k => ?_⟩
  · simp only [blank, tctxs, if_true]
  · exact h.2 k

theorem keep_plans {M : Touch} {s X : State} {v0 : List Plan} (hm : ({ plans := true } : Touch).le M = true) (h : Keep M s X) :
    KeepMk M s X.pending X.free X.now X.dev X.tick X.pwr X.fns X.ctxs X.tags v0 X.threads X.preds X.tables X.frames X.decs X.pins X.limbo X.flog X.hw X.recov X.slideP X.slides X.resumeAt X.slideDue X.books X.badBooks X.fullAudit X.links X.attic X.mem X.host := by
  simp only [Touch.le, Bool.and_eq_true] at hm
  have tplans : M.plans = true := imp_true hm.1.1.1.1.1.1.1.1.1.1.1.1.1.1.1.1.1.1.1.1.1.2
  refine ⟨Eq.trans ?_ h.1, fun k => ?_⟩
  · simp only [blank, tplans, if_true]
  · exact h.2 k

theorem keep_host {M : Touch} {s X : State} {v0 : List Host.Cell} (hm : ({ host := true } : Touch).le M = true) (hhost : HostMemory.wf X.host = true → HostMemory.wf v0 = true) (h : Keep M s X) :
    KeepMk M s X.pending X.free X.now X.dev X.tick X.pwr X.fns X.ctxs X.tags X.plans X.threads X.preds X.tables X.frames X.decs X.pins X.limbo X.flog X.hw X.recov X.slideP X.slides X.resumeAt X.slideDue X.books X.badBooks X.fullAudit X.links X.attic X.mem v0 := by
  simp only [Touch.le, Bool.and_eq_true] at hm
  have thost : M.host = true := imp_true hm.2
  refine ⟨Eq.trans ?_ h.1, fun k => ?_⟩
  · simp only [blank, thost, if_true]
  · have g := h.2 k
    simp only [MemOk, Bool.and_eq_true] at g ⊢
    exact ⟨g.1, hhost g.2⟩

theorem keep_links {M : Touch} {s X : State} {v0 : Links} (hm : ({ links := true } : Touch).le M = true) (h : Keep M s X) :
    KeepMk M s X.pending X.free X.now X.dev X.tick X.pwr X.fns X.ctxs X.tags X.plans X.threads X.preds X.tables X.frames X.decs X.pins X.limbo X.flog X.hw X.recov X.slideP X.slides X.resumeAt X.slideDue X.books X.badBooks X.fullAudit v0 X.attic X.mem X.host := by
  simp only [Touch.le, Bool.and_eq_true] at hm
  have tlinks : M.links = true := imp_true hm.1.1.1.2
  refine ⟨Eq.trans ?_ h.1, fun k => ?_⟩
  · simp only [blank, tlinks, if_true]
  · exact h.2 k

theorem keep_flog {M : Touch} {s X : State} {v0 : FaultLog} (hm : ({ flog := true } : Touch).le M = true) (h : Keep M s X) :
    KeepMk M s X.pending X.free X.now X.dev X.tick X.pwr X.fns X.ctxs X.tags X.plans X.threads X.preds X.tables X.frames X.decs X.pins X.limbo v0 X.hw X.recov X.slideP X.slides X.resumeAt X.slideDue X.books X.badBooks X.fullAudit X.links X.attic X.mem X.host := by
  simp only [Touch.le, Bool.and_eq_true] at hm
  have tflog : M.flog = true := imp_true hm.1.1.1.1.1.1.1.1.1.1.1.1.1.2
  refine ⟨Eq.trans ?_ h.1, fun k => ?_⟩
  · simp only [blank, tflog, if_true]
  · exact h.2 k

theorem keep_dev_links {M : Touch} {s X : State} {v0 : Dev} {v1 : Links} (hm : ({ dev := true, links := true } : Touch).le M = true) (h : Keep M s X) :
    KeepMk M s X.pending X.free X.now v0 X.tick X.pwr X.fns X.ctxs X.tags X.plans X.threads X.preds X.tables X.frames X.decs X.pins X.limbo X.flog X.hw X.recov X.slideP X.slides X.resumeAt X.slideDue X.books X.badBooks X.fullAudit v1 X.attic X.mem X.host := by
  simp only [Touch.le, Bool.and_eq_true] at hm
  have tdev : M.dev = true := imp_true hm.1.1.1.1.1.1.1.1.1.1.1.1.1.1.1.1.1.1.1.1.1.1.1.1.1.1.1.2
  have tlinks : M.links = true := imp_true hm.1.1.1.2
  refine ⟨Eq.trans ?_ h.1, fun k => ?_⟩
  · simp only [blank, tdev, tlinks, if_true]
  · exact h.2 k

theorem keep_dev {M : Touch} {s X : State} {v0 : Dev} (hm : ({ dev := true } : Touch).le M = true) (h : Keep M s X) :
    KeepMk M s X.pending X.free X.now v0 X.tick X.pwr X.fns X.ctxs X.tags X.plans X.threads X.preds X.tables X.frames X.decs X.pins X.limbo X.flog X.hw X.recov X.slideP X.slides X.resumeAt X.slideDue X.books X.badBooks X.fullAudit X.links X.attic X.mem X.host := by
  simp only [Touch.le, Bool.and_eq_true] at hm
  have tdev : M.dev = true := imp_true hm.1.1.1.1.1.1.1.1.1.1.1.1.1.1.1.1.1.1.1.1.1.1.1.1.1.1.1.2
  refine ⟨Eq.trans ?_ h.1, fun k => ?_⟩
  · simp only [blank, tdev, if_true]
  · exact h.2 k

theorem keep_tags_host {M : Touch} {s X : State} {v0 : List TagUse} {v1 : List Host.Cell} (hm : ({ tags := true, host := true } : Touch).le M = true) (hhost : HostMemory.wf X.host = true → HostMemory.wf v1 = true) (h : Keep M s X) :
    KeepMk M s X.pending X.free X.now X.dev X.tick X.pwr X.fns X.ctxs v0 X.plans X.threads X.preds X.tables X.frames X.decs X.pins X.limbo X.flog X.hw X.recov X.slideP X.slides X.resumeAt X.slideDue X.books X.badBooks X.fullAudit X.links X.attic X.mem v1 := by
  simp only [Touch.le, Bool.and_eq_true] at hm
  have ttags : M.tags = true := imp_true hm.1.1.1.1.1.1.1.1.1.1.1.1.1.1.1.1.1.1.1.1.1.1.2
  have thost : M.host = true := imp_true hm.2
  refine ⟨Eq.trans ?_ h.1, fun k => ?_⟩
  · simp only [blank, ttags, thost, if_true]
  · have g := h.2 k
    simp only [MemOk, Bool.and_eq_true] at g ⊢
    exact ⟨g.1, hhost g.2⟩

theorem keep_tags {M : Touch} {s X : State} {v0 : List TagUse} (hm : ({ tags := true } : Touch).le M = true) (h : Keep M s X) :
    KeepMk M s X.pending X.free X.now X.dev X.tick X.pwr X.fns X.ctxs v0 X.plans X.threads X.preds X.tables X.frames X.decs X.pins X.limbo X.flog X.hw X.recov X.slideP X.slides X.resumeAt X.slideDue X.books X.badBooks X.fullAudit X.links X.attic X.mem X.host := by
  simp only [Touch.le, Bool.and_eq_true] at hm
  have ttags : M.tags = true := imp_true hm.1.1.1.1.1.1.1.1.1.1.1.1.1.1.1.1.1.1.1.1.1.1.2
  refine ⟨Eq.trans ?_ h.1, fun k => ?_⟩
  · simp only [blank, ttags, if_true]
  · exact h.2 k

theorem keep_free {M : Touch} {s X : State} {v0 : Nat} (hm : ({ free := true } : Touch).le M = true) (h : Keep M s X) :
    KeepMk M s X.pending v0 X.now X.dev X.tick X.pwr X.fns X.ctxs X.tags X.plans X.threads X.preds X.tables X.frames X.decs X.pins X.limbo X.flog X.hw X.recov X.slideP X.slides X.resumeAt X.slideDue X.books X.badBooks X.fullAudit X.links X.attic X.mem X.host := by
  simp only [Touch.le, Bool.and_eq_true] at hm
  have tfree : M.free = true := imp_true hm.1.1.1.1.1.1.1.1.1.1.1.1.1.1.1.1.1.1.1.1.1.1.1.1.1.1.1.1.1.2
  refine ⟨Eq.trans ?_ h.1, fun k => ?_⟩
  · simp only [blank, tfree, if_true]
  · exact h.2 k

theorem keep_tick {M : Touch} {s X : State} {v0 : TickGen} (hm : ({ tick := true } : Touch).le M = true) (h : Keep M s X) :
    KeepMk M s X.pending X.free X.now X.dev v0 X.pwr X.fns X.ctxs X.tags X.plans X.threads X.preds X.tables X.frames X.decs X.pins X.limbo X.flog X.hw X.recov X.slideP X.slides X.resumeAt X.slideDue X.books X.badBooks X.fullAudit X.links X.attic X.mem X.host := by
  simp only [Touch.le, Bool.and_eq_true] at hm
  have ttick : M.tick = true := imp_true hm.1.1.1.1.1.1.1.1.1.1.1.1.1.1.1.1.1.1.1.1.1.1.1.1.1.1.2
  refine ⟨Eq.trans ?_ h.1, fun k => ?_⟩
  · simp only [blank, ttick, if_true]
  · exact h.2 k

theorem keep_now_tick {M : Touch} {s X : State} {v0 : Nat} {v1 : TickGen} (hm : ({ now := true, tick := true } : Touch).le M = true) (h : Keep M s X) :
    KeepMk M s X.pending X.free v0 X.dev v1 X.pwr X.fns X.ctxs X.tags X.plans X.threads X.preds X.tables X.frames X.decs X.pins X.limbo X.flog X.hw X.recov X.slideP X.slides X.resumeAt X.slideDue X.books X.badBooks X.fullAudit X.links X.attic X.mem X.host := by
  simp only [Touch.le, Bool.and_eq_true] at hm
  have tnow : M.now = true := imp_true hm.1.1.1.1.1.1.1.1.1.1.1.1.1.1.1.1.1.1.1.1.1.1.1.1.1.1.1.1.2
  have ttick : M.tick = true := imp_true hm.1.1.1.1.1.1.1.1.1.1.1.1.1.1.1.1.1.1.1.1.1.1.1.1.1.1.2
  refine ⟨Eq.trans ?_ h.1, fun k => ?_⟩
  · simp only [blank, tnow, ttick, if_true]
  · exact h.2 k

theorem keep_now {M : Touch} {s X : State} {v0 : Nat} (hm : ({ now := true } : Touch).le M = true) (h : Keep M s X) :
    KeepMk M s X.pending X.free v0 X.dev X.tick X.pwr X.fns X.ctxs X.tags X.plans X.threads X.preds X.tables X.frames X.decs X.pins X.limbo X.flog X.hw X.recov X.slideP X.slides X.resumeAt X.slideDue X.books X.badBooks X.fullAudit X.links X.attic X.mem X.host := by
  simp only [Touch.le, Bool.and_eq_true] at hm
  have tnow : M.now = true := imp_true hm.1.1.1.1.1.1.1.1.1.1.1.1.1.1.1.1.1.1.1.1.1.1.1.1.1.1.1.1.2
  refine ⟨Eq.trans ?_ h.1, fun k => ?_⟩
  · simp only [blank, tnow, if_true]
  · exact h.2 k

theorem keep_dev_tick {M : Touch} {s X : State} {v0 : Dev} {v1 : TickGen} (hm : ({ dev := true, tick := true } : Touch).le M = true) (h : Keep M s X) :
    KeepMk M s X.pending X.free X.now v0 v1 X.pwr X.fns X.ctxs X.tags X.plans X.threads X.preds X.tables X.frames X.decs X.pins X.limbo X.flog X.hw X.recov X.slideP X.slides X.resumeAt X.slideDue X.books X.badBooks X.fullAudit X.links X.attic X.mem X.host := by
  simp only [Touch.le, Bool.and_eq_true] at hm
  have tdev : M.dev = true := imp_true hm.1.1.1.1.1.1.1.1.1.1.1.1.1.1.1.1.1.1.1.1.1.1.1.1.1.1.1.2
  have ttick : M.tick = true := imp_true hm.1.1.1.1.1.1.1.1.1.1.1.1.1.1.1.1.1.1.1.1.1.1.1.1.1.1.2
  refine ⟨Eq.trans ?_ h.1, fun k => ?_⟩
  · simp only [blank, tdev, ttick, if_true]
  · exact h.2 k

theorem keep_pwr {M : Touch} {s X : State} {v0 : Pwr} (hm : ({ pwr := true } : Touch).le M = true) (h : Keep M s X) :
    KeepMk M s X.pending X.free X.now X.dev X.tick v0 X.fns X.ctxs X.tags X.plans X.threads X.preds X.tables X.frames X.decs X.pins X.limbo X.flog X.hw X.recov X.slideP X.slides X.resumeAt X.slideDue X.books X.badBooks X.fullAudit X.links X.attic X.mem X.host := by
  simp only [Touch.le, Bool.and_eq_true] at hm
  have tpwr : M.pwr = true := imp_true hm.1.1.1.1.1.1.1.1.1.1.1.1.1.1.1.1.1.1.1.1.1.1.1.1.1.2
  refine ⟨Eq.trans ?_ h.1, fun k => ?_⟩
  · simp only [blank, tpwr, if_true]
  · exact h.2 k

theorem keep_limbo_attic {M : Touch} {s X : State} {v0 : List (Nat × Nat)} {v1 : Attic} (hm : ({ limbo := true, attic := true } : Touch).le M = true) (h : Keep M s X) :
    KeepMk M s X.pending X.free X.now X.dev X.tick X.pwr X.fns X.ctxs X.tags X.plans X.threads X.preds X.tables X.frames X.decs X.pins v0 X.flog X.hw X.recov X.slideP X.slides X.resumeAt X.slideDue X.books X.badBooks X.fullAudit X.links v1 X.mem X.host := by
  simp only [Touch.le, Bool.and_eq_true] at hm
  have tlimbo : M.limbo = true := imp_true hm.1.1.1.1.1.1.1.1.1.1.1.1.1.1.2
  have tattic : M.attic = true := imp_true hm.1.1.2
  refine ⟨Eq.trans ?_ h.1, fun k => ?_⟩
  · simp only [blank, tlimbo, tattic, if_true]
  · exact h.2 k

theorem keep_limbo {M : Touch} {s X : State} {v0 : List (Nat × Nat)} (hm : ({ limbo := true } : Touch).le M = true) (h : Keep M s X) :
    KeepMk M s X.pending X.free X.now X.dev X.tick X.pwr X.fns X.ctxs X.tags X.plans X.threads X.preds X.tables X.frames X.decs X.pins v0 X.flog X.hw X.recov X.slideP X.slides X.resumeAt X.slideDue X.books X.badBooks X.fullAudit X.links X.attic X.mem X.host := by
  simp only [Touch.le, Bool.and_eq_true] at hm
  have tlimbo : M.limbo = true := imp_true hm.1.1.1.1.1.1.1.1.1.1.1.1.1.1.2
  refine ⟨Eq.trans ?_ h.1, fun k => ?_⟩
  · simp only [blank, tlimbo, if_true]
  · exact h.2 k

theorem keep_tags_attic {M : Touch} {s X : State} {v0 : List TagUse} {v1 : Attic} (hm : ({ tags := true, attic := true } : Touch).le M = true) (h : Keep M s X) :
    KeepMk M s X.pending X.free X.now X.dev X.tick X.pwr X.fns X.ctxs v0 X.plans X.threads X.preds X.tables X.frames X.decs X.pins X.limbo X.flog X.hw X.recov X.slideP X.slides X.resumeAt X.slideDue X.books X.badBooks X.fullAudit X.links v1 X.mem X.host := by
  simp only [Touch.le, Bool.and_eq_true] at hm
  have ttags : M.tags = true := imp_true hm.1.1.1.1.1.1.1.1.1.1.1.1.1.1.1.1.1.1.1.1.1.1.2
  have tattic : M.attic = true := imp_true hm.1.1.2
  refine ⟨Eq.trans ?_ h.1, fun k => ?_⟩
  · simp only [blank, ttags, tattic, if_true]
  · exact h.2 k

theorem keep_dev_pwr {M : Touch} {s X : State} {v0 : Dev} {v1 : Pwr} (hm : ({ dev := true, pwr := true } : Touch).le M = true) (h : Keep M s X) :
    KeepMk M s X.pending X.free X.now v0 X.tick v1 X.fns X.ctxs X.tags X.plans X.threads X.preds X.tables X.frames X.decs X.pins X.limbo X.flog X.hw X.recov X.slideP X.slides X.resumeAt X.slideDue X.books X.badBooks X.fullAudit X.links X.attic X.mem X.host := by
  simp only [Touch.le, Bool.and_eq_true] at hm
  have tdev : M.dev = true := imp_true hm.1.1.1.1.1.1.1.1.1.1.1.1.1.1.1.1.1.1.1.1.1.1.1.1.1.1.1.2
  have tpwr : M.pwr = true := imp_true hm.1.1.1.1.1.1.1.1.1.1.1.1.1.1.1.1.1.1.1.1.1.1.1.1.1.2
  refine ⟨Eq.trans ?_ h.1, fun k => ?_⟩
  · simp only [blank, tdev, tpwr, if_true]
  · exact h.2 k

theorem keep_dev_flog {M : Touch} {s X : State} {v0 : Dev} {v1 : FaultLog} (hm : ({ dev := true, flog := true } : Touch).le M = true) (h : Keep M s X) :
    KeepMk M s X.pending X.free X.now v0 X.tick X.pwr X.fns X.ctxs X.tags X.plans X.threads X.preds X.tables X.frames X.decs X.pins X.limbo v1 X.hw X.recov X.slideP X.slides X.resumeAt X.slideDue X.books X.badBooks X.fullAudit X.links X.attic X.mem X.host := by
  simp only [Touch.le, Bool.and_eq_true] at hm
  have tdev : M.dev = true := imp_true hm.1.1.1.1.1.1.1.1.1.1.1.1.1.1.1.1.1.1.1.1.1.1.1.1.1.1.1.2
  have tflog : M.flog = true := imp_true hm.1.1.1.1.1.1.1.1.1.1.1.1.1.2
  refine ⟨Eq.trans ?_ h.1, fun k => ?_⟩
  · simp only [blank, tdev, tflog, if_true]
  · exact h.2 k

theorem keep_flog_host {M : Touch} {s X : State} {v0 : FaultLog} {v1 : List Host.Cell} (hm : ({ flog := true, host := true } : Touch).le M = true) (hhost : HostMemory.wf X.host = true → HostMemory.wf v1 = true) (h : Keep M s X) :
    KeepMk M s X.pending X.free X.now X.dev X.tick X.pwr X.fns X.ctxs X.tags X.plans X.threads X.preds X.tables X.frames X.decs X.pins X.limbo v0 X.hw X.recov X.slideP X.slides X.resumeAt X.slideDue X.books X.badBooks X.fullAudit X.links X.attic X.mem v1 := by
  simp only [Touch.le, Bool.and_eq_true] at hm
  have tflog : M.flog = true := imp_true hm.1.1.1.1.1.1.1.1.1.1.1.1.1.2
  have thost : M.host = true := imp_true hm.2
  refine ⟨Eq.trans ?_ h.1, fun k => ?_⟩
  · simp only [blank, tflog, thost, if_true]
  · have g := h.2 k
    simp only [MemOk, Bool.and_eq_true] at g ⊢
    exact ⟨g.1, hhost g.2⟩

theorem keep_attic {M : Touch} {s X : State} {v0 : Attic} (hm : ({ attic := true } : Touch).le M = true) (h : Keep M s X) :
    KeepMk M s X.pending X.free X.now X.dev X.tick X.pwr X.fns X.ctxs X.tags X.plans X.threads X.preds X.tables X.frames X.decs X.pins X.limbo X.flog X.hw X.recov X.slideP X.slides X.resumeAt X.slideDue X.books X.badBooks X.fullAudit X.links v0 X.mem X.host := by
  simp only [Touch.le, Bool.and_eq_true] at hm
  have tattic : M.attic = true := imp_true hm.1.1.2
  refine ⟨Eq.trans ?_ h.1, fun k => ?_⟩
  · simp only [blank, tattic, if_true]
  · exact h.2 k

theorem keep_mem {M : Touch} {s X : State} {v0 : List Host.Cell} (hm : ({ mem := true } : Touch).le M = true) (hmem : Memory.wf X.mem = true → Memory.wf v0 = true) (h : Keep M s X) :
    KeepMk M s X.pending X.free X.now X.dev X.tick X.pwr X.fns X.ctxs X.tags X.plans X.threads X.preds X.tables X.frames X.decs X.pins X.limbo X.flog X.hw X.recov X.slideP X.slides X.resumeAt X.slideDue X.books X.badBooks X.fullAudit X.links X.attic v0 X.host := by
  simp only [Touch.le, Bool.and_eq_true] at hm
  have tmem : M.mem = true := imp_true hm.1.2
  refine ⟨Eq.trans ?_ h.1, fun k => ?_⟩
  · simp only [blank, tmem, if_true]
  · have g := h.2 k
    simp only [MemOk, Bool.and_eq_true] at g ⊢
    exact ⟨hmem g.1, g.2⟩

theorem keep_ctxs_limbo_mem {M : Touch} {s X : State} {v0 : List (Nat × Ctx)} {v1 : List (Nat × Nat)} {v2 : List Host.Cell} (hm : ({ ctxs := true, limbo := true, mem := true } : Touch).le M = true) (hmem : Memory.wf X.mem = true → Memory.wf v2 = true) (h : Keep M s X) :
    KeepMk M s X.pending X.free X.now X.dev X.tick X.pwr X.fns v0 X.tags X.plans X.threads X.preds X.tables X.frames X.decs X.pins v1 X.flog X.hw X.recov X.slideP X.slides X.resumeAt X.slideDue X.books X.badBooks X.fullAudit X.links X.attic v2 X.host := by
  simp only [Touch.le, Bool.and_eq_true] at hm
  have tctxs : M.ctxs = true := imp_true hm.1.1.1.1.1.1.1.1.1.1.1.1.1.1.1.1.1.1.1.1.1.1.1.2
  have tlimbo : M.limbo = true := imp_true hm.1.1.1.1.1.1.1.1.1.1.1.1.1.1.2
  have tmem : M.mem = true := imp_true hm.1.2
  refine ⟨Eq.trans ?_ h.1, fun k => ?_⟩
  · simp only [blank, tctxs, tlimbo, tmem, if_true]
  · have g := h.2 k
    simp only [MemOk, Bool.and_eq_true] at g ⊢
    exact ⟨hmem g.1, g.2⟩

theorem keep_ctxs_limbo {M : Touch} {s X : State} {v0 : List (Nat × Ctx)} {v1 : List (Nat × Nat)} (hm : ({ ctxs := true, limbo := true } : Touch).le M = true) (h : Keep M s X) :
    KeepMk M s X.pending X.free X.now X.dev X.tick X.pwr X.fns v0 X.tags X.plans X.threads X.preds X.tables X.frames X.decs X.pins v1 X.flog X.hw X.recov X.slideP X.slides X.resumeAt X.slideDue X.books X.badBooks X.fullAudit X.links X.attic X.mem X.host := by
  simp only [Touch.le, Bool.and_eq_true] at hm
  have tctxs : M.ctxs = true := imp_true hm.1.1.1.1.1.1.1.1.1.1.1.1.1.1.1.1.1.1.1.1.1.1.1.2
  have tlimbo : M.limbo = true := imp_true hm.1.1.1.1.1.1.1.1.1.1.1.1.1.1.2
  refine ⟨Eq.trans ?_ h.1, fun k => ?_⟩
  · simp only [blank, tctxs, tlimbo, if_true]
  · exact h.2 k

theorem keep_pins {M : Touch} {s X : State} {v0 : List PinBind} (hm : ({ pins := true } : Touch).le M = true) (h : Keep M s X) :
    KeepMk M s X.pending X.free X.now X.dev X.tick X.pwr X.fns X.ctxs X.tags X.plans X.threads X.preds X.tables X.frames X.decs v0 X.limbo X.flog X.hw X.recov X.slideP X.slides X.resumeAt X.slideDue X.books X.badBooks X.fullAudit X.links X.attic X.mem X.host := by
  simp only [Touch.le, Bool.and_eq_true] at hm
  have tpins : M.pins = true := imp_true hm.1.1.1.1.1.1.1.1.1.1.1.1.1.1.1.2
  refine ⟨Eq.trans ?_ h.1, fun k => ?_⟩
  · simp only [blank, tpins, if_true]
  · exact h.2 k

theorem keep_pins_mem {M : Touch} {s X : State} {v0 : List PinBind} {v1 : List Host.Cell} (hm : ({ pins := true, mem := true } : Touch).le M = true) (hmem : Memory.wf X.mem = true → Memory.wf v1 = true) (h : Keep M s X) :
    KeepMk M s X.pending X.free X.now X.dev X.tick X.pwr X.fns X.ctxs X.tags X.plans X.threads X.preds X.tables X.frames X.decs v0 X.limbo X.flog X.hw X.recov X.slideP X.slides X.resumeAt X.slideDue X.books X.badBooks X.fullAudit X.links X.attic v1 X.host := by
  simp only [Touch.le, Bool.and_eq_true] at hm
  have tpins : M.pins = true := imp_true hm.1.1.1.1.1.1.1.1.1.1.1.1.1.1.1.2
  have tmem : M.mem = true := imp_true hm.1.2
  refine ⟨Eq.trans ?_ h.1, fun k => ?_⟩
  · simp only [blank, tpins, tmem, if_true]
  · have g := h.2 k
    simp only [MemOk, Bool.and_eq_true] at g ⊢
    exact ⟨hmem g.1, g.2⟩

theorem keep_threads {M : Touch} {s X : State} {v0 : List Thread} (hm : ({ threads := true } : Touch).le M = true) (h : Keep M s X) :
    KeepMk M s X.pending X.free X.now X.dev X.tick X.pwr X.fns X.ctxs X.tags X.plans v0 X.preds X.tables X.frames X.decs X.pins X.limbo X.flog X.hw X.recov X.slideP X.slides X.resumeAt X.slideDue X.books X.badBooks X.fullAudit X.links X.attic X.mem X.host := by
  simp only [Touch.le, Bool.and_eq_true] at hm
  have tthreads : M.threads = true := imp_true hm.1.1.1.1.1.1.1.1.1.1.1.1.1.1.1.1.1.1.1.1.2
  refine ⟨Eq.trans ?_ h.1, fun k => ?_⟩
  · simp only [blank, tthreads, if_true]
  · exact h.2 k

theorem keep_tables {M : Touch} {s X : State} {v0 : List KvTable} (hm : ({ tables := true } : Touch).le M = true) (h : Keep M s X) :
    KeepMk M s X.pending X.free X.now X.dev X.tick X.pwr X.fns X.ctxs X.tags X.plans X.threads X.preds v0 X.frames X.decs X.pins X.limbo X.flog X.hw X.recov X.slideP X.slides X.resumeAt X.slideDue X.books X.badBooks X.fullAudit X.links X.attic X.mem X.host := by
  simp only [Touch.le, Bool.and_eq_true] at hm
  have ttables : M.tables = true := imp_true hm.1.1.1.1.1.1.1.1.1.1.1.1.1.1.1.1.1.1.2
  refine ⟨Eq.trans ?_ h.1, fun k => ?_⟩
  · simp only [blank, ttables, if_true]
  · exact h.2 k

theorem keep_frames {M : Touch} {s X : State} {v0 : List Frame} (hm : ({ frames := true } : Touch).le M = true) (h : Keep M s X) :
    KeepMk M s X.pending X.free X.now X.dev X.tick X.pwr X.fns X.ctxs X.tags X.plans X.threads X.preds X.tables v0 X.decs X.pins X.limbo X.flog X.hw X.recov X.slideP X.slides X.resumeAt X.slideDue X.books X.badBooks X.fullAudit X.links X.attic X.mem X.host := by
  simp only [Touch.le, Bool.and_eq_true] at hm
  have tframes : M.frames = true := imp_true hm.1.1.1.1.1.1.1.1.1.1.1.1.1.1.1.1.1.2
  refine ⟨Eq.trans ?_ h.1, fun k => ?_⟩
  · simp only [blank, tframes, if_true]
  · exact h.2 k

theorem keep_decs {M : Touch} {s X : State} {v0 : List Nat} (hm : ({ decs := true } : Touch).le M = true) (h : Keep M s X) :
    KeepMk M s X.pending X.free X.now X.dev X.tick X.pwr X.fns X.ctxs X.tags X.plans X.threads X.preds X.tables X.frames v0 X.pins X.limbo X.flog X.hw X.recov X.slideP X.slides X.resumeAt X.slideDue X.books X.badBooks X.fullAudit X.links X.attic X.mem X.host := by
  simp only [Touch.le, Bool.and_eq_true] at hm
  have tdecs : M.decs = true := imp_true hm.1.1.1.1.1.1.1.1.1.1.1.1.1.1.1.1.2
  refine ⟨Eq.trans ?_ h.1, fun k => ?_⟩
  · simp only [blank, tdecs, if_true]
  · exact h.2 k

theorem keep_frames_mem {M : Touch} {s X : State} {v0 : List Frame} {v1 : List Host.Cell} (hm : ({ frames := true, mem := true } : Touch).le M = true) (hmem : Memory.wf X.mem = true → Memory.wf v1 = true) (h : Keep M s X) :
    KeepMk M s X.pending X.free X.now X.dev X.tick X.pwr X.fns X.ctxs X.tags X.plans X.threads X.preds X.tables v0 X.decs X.pins X.limbo X.flog X.hw X.recov X.slideP X.slides X.resumeAt X.slideDue X.books X.badBooks X.fullAudit X.links X.attic v1 X.host := by
  simp only [Touch.le, Bool.and_eq_true] at hm
  have tframes : M.frames = true := imp_true hm.1.1.1.1.1.1.1.1.1.1.1.1.1.1.1.1.1.2
  have tmem : M.mem = true := imp_true hm.1.2
  refine ⟨Eq.trans ?_ h.1, fun k => ?_⟩
  · simp only [blank, tframes, tmem, if_true]
  · have g := h.2 k
    simp only [MemOk, Bool.and_eq_true] at g ⊢
    exact ⟨hmem g.1, g.2⟩

theorem keep_preds {M : Touch} {s X : State} {v0 : List PredInst} (hm : ({ preds := true } : Touch).le M = true) (h : Keep M s X) :
    KeepMk M s X.pending X.free X.now X.dev X.tick X.pwr X.fns X.ctxs X.tags X.plans X.threads v0 X.tables X.frames X.decs X.pins X.limbo X.flog X.hw X.recov X.slideP X.slides X.resumeAt X.slideDue X.books X.badBooks X.fullAudit X.links X.attic X.mem X.host := by
  simp only [Touch.le, Bool.and_eq_true] at hm
  have tpreds : M.preds = true := imp_true hm.1.1.1.1.1.1.1.1.1.1.1.1.1.1.1.1.1.1.1.2
  refine ⟨Eq.trans ?_ h.1, fun k => ?_⟩
  · simp only [blank, tpreds, if_true]
  · exact h.2 k

theorem keep_recov {M : Touch} {s X : State} {v0 : Option Recov} (hm : ({ recov := true } : Touch).le M = true) (h : Keep M s X) :
    KeepMk M s X.pending X.free X.now X.dev X.tick X.pwr X.fns X.ctxs X.tags X.plans X.threads X.preds X.tables X.frames X.decs X.pins X.limbo X.flog X.hw v0 X.slideP X.slides X.resumeAt X.slideDue X.books X.badBooks X.fullAudit X.links X.attic X.mem X.host := by
  simp only [Touch.le, Bool.and_eq_true] at hm
  have trecov : M.recov = true := imp_true hm.1.1.1.1.1.1.1.1.1.1.1.2
  refine ⟨Eq.trans ?_ h.1, fun k => ?_⟩
  · simp only [blank, trecov, if_true]
  · exact h.2 k

theorem keep_free_tables {M : Touch} {s X : State} {v0 : Nat} {v1 : List KvTable} (hm : ({ free := true, tables := true } : Touch).le M = true) (h : Keep M s X) :
    KeepMk M s X.pending v0 X.now X.dev X.tick X.pwr X.fns X.ctxs X.tags X.plans X.threads X.preds v1 X.frames X.decs X.pins X.limbo X.flog X.hw X.recov X.slideP X.slides X.resumeAt X.slideDue X.books X.badBooks X.fullAudit X.links X.attic X.mem X.host := by
  simp only [Touch.le, Bool.and_eq_true] at hm
  have tfree : M.free = true := imp_true hm.1.1.1.1.1.1.1.1.1.1.1.1.1.1.1.1.1.1.1.1.1.1.1.1.1.1.1.1.1.2
  have ttables : M.tables = true := imp_true hm.1.1.1.1.1.1.1.1.1.1.1.1.1.1.1.1.1.1.2
  refine ⟨Eq.trans ?_ h.1, fun k => ?_⟩
  · simp only [blank, tfree, ttables, if_true]
  · exact h.2 k

theorem keep_pwr_attic {M : Touch} {s X : State} {v0 : Pwr} {v1 : Attic} (hm : ({ pwr := true, attic := true } : Touch).le M = true) (h : Keep M s X) :
    KeepMk M s X.pending X.free X.now X.dev X.tick v0 X.fns X.ctxs X.tags X.plans X.threads X.preds X.tables X.frames X.decs X.pins X.limbo X.flog X.hw X.recov X.slideP X.slides X.resumeAt X.slideDue X.books X.badBooks X.fullAudit X.links v1 X.mem X.host := by
  simp only [Touch.le, Bool.and_eq_true] at hm
  have tpwr : M.pwr = true := imp_true hm.1.1.1.1.1.1.1.1.1.1.1.1.1.1.1.1.1.1.1.1.1.1.1.1.1.2
  have tattic : M.attic = true := imp_true hm.1.1.2
  refine ⟨Eq.trans ?_ h.1, fun k => ?_⟩
  · simp only [blank, tpwr, tattic, if_true]
  · exact h.2 k

theorem keep_attic_mem {M : Touch} {s X : State} {v0 : Attic} {v1 : List Host.Cell} (hm : ({ attic := true, mem := true } : Touch).le M = true) (hmem : Memory.wf X.mem = true → Memory.wf v1 = true) (h : Keep M s X) :
    KeepMk M s X.pending X.free X.now X.dev X.tick X.pwr X.fns X.ctxs X.tags X.plans X.threads X.preds X.tables X.frames X.decs X.pins X.limbo X.flog X.hw X.recov X.slideP X.slides X.resumeAt X.slideDue X.books X.badBooks X.fullAudit X.links v0 v1 X.host := by
  simp only [Touch.le, Bool.and_eq_true] at hm
  have tattic : M.attic = true := imp_true hm.1.1.2
  have tmem : M.mem = true := imp_true hm.1.2
  refine ⟨Eq.trans ?_ h.1, fun k => ?_⟩
  · simp only [blank, tattic, tmem, if_true]
  · have g := h.2 k
    simp only [MemOk, Bool.and_eq_true] at g ⊢
    exact ⟨hmem g.1, g.2⟩

theorem keep_hw {M : Touch} {s X : State} {v0 : Hw} (hm : ({ hw := true } : Touch).le M = true) (h : Keep M s X) :
    KeepMk M s X.pending X.free X.now X.dev X.tick X.pwr X.fns X.ctxs X.tags X.plans X.threads X.preds X.tables X.frames X.decs X.pins X.limbo X.flog v0 X.recov X.slideP X.slides X.resumeAt X.slideDue X.books X.badBooks X.fullAudit X.links X.attic X.mem X.host := by
  simp only [Touch.le, Bool.and_eq_true] at hm
  have thw : M.hw = true := imp_true hm.1.1.1.1.1.1.1.1.1.1.1.1.2
  refine ⟨Eq.trans ?_ h.1, fun k => ?_⟩
  · simp only [blank, thw, if_true]
  · exact h.2 k

theorem keep_plans_threads_host {M : Touch} {s X : State} {v0 : List Plan} {v1 : List Thread} {v2 : List Host.Cell} (hm : ({ plans := true, threads := true, host := true } : Touch).le M = true) (hhost : HostMemory.wf X.host = true → HostMemory.wf v2 = true) (h : Keep M s X) :
    KeepMk M s X.pending X.free X.now X.dev X.tick X.pwr X.fns X.ctxs X.tags v0 v1 X.preds X.tables X.frames X.decs X.pins X.limbo X.flog X.hw X.recov X.slideP X.slides X.resumeAt X.slideDue X.books X.badBooks X.fullAudit X.links X.attic X.mem v2 := by
  simp only [Touch.le, Bool.and_eq_true] at hm
  have tplans : M.plans = true := imp_true hm.1.1.1.1.1.1.1.1.1.1.1.1.1.1.1.1.1.1.1.1.1.2
  have tthreads : M.threads = true := imp_true hm.1.1.1.1.1.1.1.1.1.1.1.1.1.1.1.1.1.1.1.1.2
  have thost : M.host = true := imp_true hm.2
  refine ⟨Eq.trans ?_ h.1, fun k => ?_⟩
  · simp only [blank, tplans, tthreads, thost, if_true]
  · have g := h.2 k
    simp only [MemOk, Bool.and_eq_true] at g ⊢
    exact ⟨g.1, hhost g.2⟩

theorem keep_plans_threads {M : Touch} {s X : State} {v0 : List Plan} {v1 : List Thread} (hm : ({ plans := true, threads := true } : Touch).le M = true) (h : Keep M s X) :
    KeepMk M s X.pending X.free X.now X.dev X.tick X.pwr X.fns X.ctxs X.tags v0 v1 X.preds X.tables X.frames X.decs X.pins X.limbo X.flog X.hw X.recov X.slideP X.slides X.resumeAt X.slideDue X.books X.badBooks X.fullAudit X.links X.attic X.mem X.host := by
  simp only [Touch.le, Bool.and_eq_true] at hm
  have tplans : M.plans = true := imp_true hm.1.1.1.1.1.1.1.1.1.1.1.1.1.1.1.1.1.1.1.1.1.2
  have tthreads : M.threads = true := imp_true hm.1.1.1.1.1.1.1.1.1.1.1.1.1.1.1.1.1.1.1.1.2
  refine ⟨Eq.trans ?_ h.1, fun k => ?_⟩
  · simp only [blank, tplans, tthreads, if_true]
  · exact h.2 k

theorem keep_pwr_tags_threads_preds_links {M : Touch} {s X : State} {v0 : Pwr} {v1 : List TagUse} {v2 : List Thread} {v3 : List PredInst} {v4 : Links} (hm : ({ pwr := true, tags := true, threads := true, preds := true, links := true } : Touch).le M = true) (h : Keep M s X) :
    KeepMk M s X.pending X.free X.now X.dev X.tick v0 X.fns X.ctxs v1 X.plans v2 v3 X.tables X.frames X.decs X.pins X.limbo X.flog X.hw X.recov X.slideP X.slides X.resumeAt X.slideDue X.books X.badBooks X.fullAudit v4 X.attic X.mem X.host := by
  simp only [Touch.le, Bool.and_eq_true] at hm
  have tpwr : M.pwr = true := imp_true hm.1.1.1.1.1.1.1.1.1.1.1.1.1.1.1.1.1.1.1.1.1.1.1.1.1.2
  have ttags : M.tags = true := imp_true hm.1.1.1.1.1.1.1.1.1.1.1.1.1.1.1.1.1.1.1.1.1.1.2
  have tthreads : M.threads = true := imp_true hm.1.1.1.1.1.1.1.1.1.1.1.1.1.1.1.1.1.1.1.1.2
  have tpreds : M.preds = true := imp_true hm.1.1.1.1.1.1.1.1.1.1.1.1.1.1.1.1.1.1.1.2
  have tlinks : M.links = true := imp_true hm.1.1.1.2
  refine ⟨Eq.trans ?_ h.1, fun k => ?_⟩
  · simp only [blank, tpwr, ttags, tthreads, tpreds, tlinks, if_true]
  · exact h.2 k

theorem keep_pwr_tags_threads_preds {M : Touch} {s X : State} {v0 : Pwr} {v1 : List TagUse} {v2 : List Thread} {v3 : List PredInst} (hm : ({ pwr := true, tags := true, threads := true, preds := true } : Touch).le M = true) (h : Keep M s X) :
    KeepMk M s X.pending X.free X.now X.dev X.tick v0 X.fns X.ctxs v1 X.plans v2 v3 X.tables X.frames X.decs X.pins X.limbo X.flog X.hw X.recov X.slideP X.slides X.resumeAt X.slideDue X.books X.badBooks X.fullAudit X.links X.attic X.mem X.host := by
  simp only [Touch.le, Bool.and_eq_true] at hm
  have tpwr : M.pwr = true := imp_true hm.1.1.1.1.1.1.1.1.1.1.1.1.1.1.1.1.1.1.1.1.1.1.1.1.1.2
  have ttags : M.tags = true := imp_true hm.1.1.1.1.1.1.1.1.1.1.1.1.1.1.1.1.1.1.1.1.1.1.2
  have tthreads : M.threads = true := imp_true hm.1.1.1.1.1.1.1.1.1.1.1.1.1.1.1.1.1.1.1.1.2
  have tpreds : M.preds = true := imp_true hm.1.1.1.1.1.1.1.1.1.1.1.1.1.1.1.1.1.1.1.2
  refine ⟨Eq.trans ?_ h.1, fun k => ?_⟩
  · simp only [blank, tpwr, ttags, tthreads, tpreds, if_true]
  · exact h.2 k

theorem keep_pwr_tags_threads {M : Touch} {s X : State} {v0 : Pwr} {v1 : List TagUse} {v2 : List Thread} (hm : ({ pwr := true, tags := true, threads := true } : Touch).le M = true) (h : Keep M s X) :
    KeepMk M s X.pending X.free X.now X.dev X.tick v0 X.fns X.ctxs v1 X.plans v2 X.preds X.tables X.frames X.decs X.pins X.limbo X.flog X.hw X.recov X.slideP X.slides X.resumeAt X.slideDue X.books X.badBooks X.fullAudit X.links X.attic X.mem X.host := by
  simp only [Touch.le, Bool.and_eq_true] at hm
  have tpwr : M.pwr = true := imp_true hm.1.1.1.1.1.1.1.1.1.1.1.1.1.1.1.1.1.1.1.1.1.1.1.1.1.2
  have ttags : M.tags = true := imp_true hm.1.1.1.1.1.1.1.1.1.1.1.1.1.1.1.1.1.1.1.1.1.1.2
  have tthreads : M.threads = true := imp_true hm.1.1.1.1.1.1.1.1.1.1.1.1.1.1.1.1.1.1.1.1.2
  refine ⟨Eq.trans ?_ h.1, fun k => ?_⟩
  · simp only [blank, tpwr, ttags, tthreads, if_true]
  · exact h.2 k

theorem keep_pwr_tags {M : Touch} {s X : State} {v0 : Pwr} {v1 : List TagUse} (hm : ({ pwr := true, tags := true } : Touch).le M = true) (h : Keep M s X) :
    KeepMk M s X.pending X.free X.now X.dev X.tick v0 X.fns X.ctxs v1 X.plans X.threads X.preds X.tables X.frames X.decs X.pins X.limbo X.flog X.hw X.recov X.slideP X.slides X.resumeAt X.slideDue X.books X.badBooks X.fullAudit X.links X.attic X.mem X.host := by
  simp only [Touch.le, Bool.and_eq_true] at hm
  have tpwr : M.pwr = true := imp_true hm.1.1.1.1.1.1.1.1.1.1.1.1.1.1.1.1.1.1.1.1.1.1.1.1.1.2
  have ttags : M.tags = true := imp_true hm.1.1.1.1.1.1.1.1.1.1.1.1.1.1.1.1.1.1.1.1.1.1.2
  refine ⟨Eq.trans ?_ h.1, fun k => ?_⟩
  · simp only [blank, tpwr, ttags, if_true]
  · exact h.2 k

theorem keep_preds_links {M : Touch} {s X : State} {v0 : List PredInst} {v1 : Links} (hm : ({ preds := true, links := true } : Touch).le M = true) (h : Keep M s X) :
    KeepMk M s X.pending X.free X.now X.dev X.tick X.pwr X.fns X.ctxs X.tags X.plans X.threads v0 X.tables X.frames X.decs X.pins X.limbo X.flog X.hw X.recov X.slideP X.slides X.resumeAt X.slideDue X.books X.badBooks X.fullAudit v1 X.attic X.mem X.host := by
  simp only [Touch.le, Bool.and_eq_true] at hm
  have tpreds : M.preds = true := imp_true hm.1.1.1.1.1.1.1.1.1.1.1.1.1.1.1.1.1.1.1.2
  have tlinks : M.links = true := imp_true hm.1.1.1.2
  refine ⟨Eq.trans ?_ h.1, fun k => ?_⟩
  · simp only [blank, tpreds, tlinks, if_true]
  · exact h.2 k

theorem keep_plans_resumeAt {M : Touch} {s X : State} {v0 : List Plan} {v1 : Nat} (hm : ({ plans := true, resumeAt := true } : Touch).le M = true) (h : Keep M s X) :
    KeepMk M s X.pending X.free X.now X.dev X.tick X.pwr X.fns X.ctxs X.tags v0 X.threads X.preds X.tables X.frames X.decs X.pins X.limbo X.flog X.hw X.recov X.slideP X.slides v1 X.slideDue X.books X.badBooks X.fullAudit X.links X.attic X.mem X.host := by
  simp only [Touch.le, Bool.and_eq_true] at hm
  have tplans : M.plans = true := imp_true hm.1.1.1.1.1.1.1.1.1.1.1.1.1.1.1.1.1.1.1.1.1.2
  have tresumeAt : M.resumeAt = true := imp_true hm.1.1.1.1.1.1.1.1.2
  refine ⟨Eq.trans ?_ h.1, fun k => ?_⟩
  · simp only [blank, tplans, tresumeAt, if_true]
  · exact h.2 k

theorem keep_slideP {M : Touch} {s X : State} {v0 : Option (Nat × Nat)} (hm : ({ slideP := true } : Touch).le M = true) (h : Keep M s X) :
    KeepMk M s X.pending X.free X.now X.dev X.tick X.pwr X.fns X.ctxs X.tags X.plans X.threads X.preds X.tables X.frames X.decs X.pins X.limbo X.flog X.hw X.recov v0 X.slides X.resumeAt X.slideDue X.books X.badBooks X.fullAudit X.links X.attic X.mem X.host := by
  simp only [Touch.le, Bool.and_eq_true] at hm
  have tslideP : M.slideP = true := imp_true hm.1.1.1.1.1.1.1.1.1.1.2
  refine ⟨Eq.trans ?_ h.1, fun k => ?_⟩
  · simp only [blank, tslideP, if_true]
  · exact h.2 k

theorem keep_slideDue {M : Touch} {s X : State} {v0 : List (Nat × Nat)} (hm : ({ slideDue := true } : Touch).le M = true) (h : Keep M s X) :
    KeepMk M s X.pending X.free X.now X.dev X.tick X.pwr X.fns X.ctxs X.tags X.plans X.threads X.preds X.tables X.frames X.decs X.pins X.limbo X.flog X.hw X.recov X.slideP X.slides X.resumeAt v0 X.books X.badBooks X.fullAudit X.links X.attic X.mem X.host := by
  simp only [Touch.le, Bool.and_eq_true] at hm
  have tslideDue : M.slideDue = true := imp_true hm.1.1.1.1.1.1.1.2
  refine ⟨Eq.trans ?_ h.1, fun k => ?_⟩
  · simp only [blank, tslideDue, if_true]
  · exact h.2 k

theorem keep_books_links {M : Touch} {s X : State} {v0 : List BookRow} {v1 : Links} (hm : ({ books := true, links := true } : Touch).le M = true) (h : Keep M s X) :
    KeepMk M s X.pending X.free X.now X.dev X.tick X.pwr X.fns X.ctxs X.tags X.plans X.threads X.preds X.tables X.frames X.decs X.pins X.limbo X.flog X.hw X.recov X.slideP X.slides X.resumeAt X.slideDue v0 X.badBooks X.fullAudit v1 X.attic X.mem X.host := by
  simp only [Touch.le, Bool.and_eq_true] at hm
  have tbooks : M.books = true := imp_true hm.1.1.1.1.1.1.2
  have tlinks : M.links = true := imp_true hm.1.1.1.2
  refine ⟨Eq.trans ?_ h.1, fun k => ?_⟩
  · simp only [blank, tbooks, tlinks, if_true]
  · exact h.2 k

theorem keep_books {M : Touch} {s X : State} {v0 : List BookRow} (hm : ({ books := true } : Touch).le M = true) (h : Keep M s X) :
    KeepMk M s X.pending X.free X.now X.dev X.tick X.pwr X.fns X.ctxs X.tags X.plans X.threads X.preds X.tables X.frames X.decs X.pins X.limbo X.flog X.hw X.recov X.slideP X.slides X.resumeAt X.slideDue v0 X.badBooks X.fullAudit X.links X.attic X.mem X.host := by
  simp only [Touch.le, Bool.and_eq_true] at hm
  have tbooks : M.books = true := imp_true hm.1.1.1.1.1.1.2
  refine ⟨Eq.trans ?_ h.1, fun k => ?_⟩
  · simp only [blank, tbooks, if_true]
  · exact h.2 k

theorem keep_pwr_threads {M : Touch} {s X : State} {v0 : Pwr} {v1 : List Thread} (hm : ({ pwr := true, threads := true } : Touch).le M = true) (h : Keep M s X) :
    KeepMk M s X.pending X.free X.now X.dev X.tick v0 X.fns X.ctxs X.tags X.plans v1 X.preds X.tables X.frames X.decs X.pins X.limbo X.flog X.hw X.recov X.slideP X.slides X.resumeAt X.slideDue X.books X.badBooks X.fullAudit X.links X.attic X.mem X.host := by
  simp only [Touch.le, Bool.and_eq_true] at hm
  have tpwr : M.pwr = true := imp_true hm.1.1.1.1.1.1.1.1.1.1.1.1.1.1.1.1.1.1.1.1.1.1.1.1.1.2
  have tthreads : M.threads = true := imp_true hm.1.1.1.1.1.1.1.1.1.1.1.1.1.1.1.1.1.1.1.1.2
  refine ⟨Eq.trans ?_ h.1, fun k => ?_⟩
  · simp only [blank, tpwr, tthreads, if_true]
  · exact h.2 k

theorem keep_pwr_ctxs_tags_threads_frames_links {M : Touch} {s X : State} {v0 : Pwr} {v1 : List (Nat × Ctx)} {v2 : List TagUse} {v3 : List Thread} {v4 : List Frame} {v5 : Links} (hm : ({ pwr := true, ctxs := true, tags := true, threads := true, frames := true, links := true } : Touch).le M = true) (h : Keep M s X) :
    KeepMk M s X.pending X.free X.now X.dev X.tick v0 X.fns v1 v2 X.plans v3 X.preds X.tables v4 X.decs X.pins X.limbo X.flog X.hw X.recov X.slideP X.slides X.resumeAt X.slideDue X.books X.badBooks X.fullAudit v5 X.attic X.mem X.host := by
  simp only [Touch.le, Bool.and_eq_true] at hm
  have tpwr : M.pwr = true := imp_true hm.1.1.1.1.1.1.1.1.1.1.1.1.1.1.1.1.1.1.1.1.1.1.1.1.1.2
  have tctxs : M.ctxs = true := imp_true hm.1.1.1.1.1.1.1.1.1.1.1.1.1.1.1.1.1.1.1.1.1.1.1.2
  have ttags : M.tags = true := imp_true hm.1.1.1.1.1.1.1.1.1.1.1.1.1.1.1.1.1.1.1.1.1.1.2
  have tthreads : M.threads = true := imp_true hm.1.1.1.1.1.1.1.1.1.1.1.1.1.1.1.1.1.1.1.1.2
  have tframes : M.frames = true := imp_true hm.1.1.1.1.1.1.1.1.1.1.1.1.1.1.1.1.1.2
  have tlinks : M.links = true := imp_true hm.1.1.1.2
  refine ⟨Eq.trans ?_ h.1, fun k => ?_⟩
  · simp only [blank, tpwr, tctxs, ttags, tthreads, tframes, tlinks, if_true]
  · exact h.2 k

theorem keep_pwr_ctxs_tags_threads_frames {M : Touch} {s X : State} {v0 : Pwr} {v1 : List (Nat × Ctx)} {v2 : List TagUse} {v3 : List Thread} {v4 : List Frame} (hm : ({ pwr := true, ctxs := true, tags := true, threads := true, frames := true } : Touch).le M = true) (h : Keep M s X) :
    KeepMk M s X.pending X.free X.now X.dev X.tick v0 X.fns v1 v2 X.plans v3 X.preds X.tables v4 X.decs X.pins X.limbo X.flog X.hw X.recov X.slideP X.slides X.resumeAt X.slideDue X.books X.badBooks X.fullAudit X.links X.attic X.mem X.host := by
  simp only [Touch.le, Bool.and_eq_true] at hm
  have tpwr : M.pwr = true := imp_true hm.1.1.1.1.1.1.1.1.1.1.1.1.1.1.1.1.1.1.1.1.1.1.1.1.1.2
  have tctxs : M.ctxs = true := imp_true hm.1.1.1.1.1.1.1.1.1.1.1.1.1.1.1.1.1.1.1.1.1.1.1.2
  have ttags : M.tags = true := imp_true hm.1.1.1.1.1.1.1.1.1.1.1.1.1.1.1.1.1.1.1.1.1.1.2
  have tthreads : M.threads = true := imp_true hm.1.1.1.1.1.1.1.1.1.1.1.1.1.1.1.1.1.1.1.1.2
  have tframes : M.frames = true := imp_true hm.1.1.1.1.1.1.1.1.1.1.1.1.1.1.1.1.1.2
  refine ⟨Eq.trans ?_ h.1, fun k => ?_⟩
  · simp only [blank, tpwr, tctxs, ttags, tthreads, tframes, if_true]
  · exact h.2 k

theorem keep_pwr_ctxs_tags_threads {M : Touch} {s X : State} {v0 : Pwr} {v1 : List (Nat × Ctx)} {v2 : List TagUse} {v3 : List Thread} (hm : ({ pwr := true, ctxs := true, tags := true, threads := true } : Touch).le M = true) (h : Keep M s X) :
    KeepMk M s X.pending X.free X.now X.dev X.tick v0 X.fns v1 v2 X.plans v3 X.preds X.tables X.frames X.decs X.pins X.limbo X.flog X.hw X.recov X.slideP X.slides X.resumeAt X.slideDue X.books X.badBooks X.fullAudit X.links X.attic X.mem X.host := by
  simp only [Touch.le, Bool.and_eq_true] at hm
  have tpwr : M.pwr = true := imp_true hm.1.1.1.1.1.1.1.1.1.1.1.1.1.1.1.1.1.1.1.1.1.1.1.1.1.2
  have tctxs : M.ctxs = true := imp_true hm.1.1.1.1.1.1.1.1.1.1.1.1.1.1.1.1.1.1.1.1.1.1.1.2
  have ttags : M.tags = true := imp_true hm.1.1.1.1.1.1.1.1.1.1.1.1.1.1.1.1.1.1.1.1.1.1.2
  have tthreads : M.threads = true := imp_true hm.1.1.1.1.1.1.1.1.1.1.1.1.1.1.1.1.1.1.1.1.2
  refine ⟨Eq.trans ?_ h.1, fun k => ?_⟩
  · simp only [blank, tpwr, tctxs, ttags, tthreads, if_true]
  · exact h.2 k

theorem keep_pwr_ctxs_tags {M : Touch} {s X : State} {v0 : Pwr} {v1 : List (Nat × Ctx)} {v2 : List TagUse} (hm : ({ pwr := true, ctxs := true, tags := true } : Touch).le M = true) (h : Keep M s X) :
    KeepMk M s X.pending X.free X.now X.dev X.tick v0 X.fns v1 v2 X.plans X.threads X.preds X.tables X.frames X.decs X.pins X.limbo X.flog X.hw X.recov X.slideP X.slides X.resumeAt X.slideDue X.books X.badBooks X.fullAudit X.links X.attic X.mem X.host := by
  simp only [Touch.le, Bool.and_eq_true] at hm
  have tpwr : M.pwr = true := imp_true hm.1.1.1.1.1.1.1.1.1.1.1.1.1.1.1.1.1.1.1.1.1.1.1.1.1.2
  have tctxs : M.ctxs = true := imp_true hm.1.1.1.1.1.1.1.1.1.1.1.1.1.1.1.1.1.1.1.1.1.1.1.2
  have ttags : M.tags = true := imp_true hm.1.1.1.1.1.1.1.1.1.1.1.1.1.1.1.1.1.1.1.1.1.1.2
  refine ⟨Eq.trans ?_ h.1, fun k => ?_⟩
  · simp only [blank, tpwr, tctxs, ttags, if_true]
  · exact h.2 k

theorem keep_pwr_ctxs {M : Touch} {s X : State} {v0 : Pwr} {v1 : List (Nat × Ctx)} (hm : ({ pwr := true, ctxs := true } : Touch).le M = true) (h : Keep M s X) :
    KeepMk M s X.pending X.free X.now X.dev X.tick v0 X.fns v1 X.tags X.plans X.threads X.preds X.tables X.frames X.decs X.pins X.limbo X.flog X.hw X.recov X.slideP X.slides X.resumeAt X.slideDue X.books X.badBooks X.fullAudit X.links X.attic X.mem X.host := by
  simp only [Touch.le, Bool.and_eq_true] at hm
  have tpwr : M.pwr = true := imp_true hm.1.1.1.1.1.1.1.1.1.1.1.1.1.1.1.1.1.1.1.1.1.1.1.1.1.2
  have tctxs : M.ctxs = true := imp_true hm.1.1.1.1.1.1.1.1.1.1.1.1.1.1.1.1.1.1.1.1.1.1.1.2
  refine ⟨Eq.trans ?_ h.1, fun k => ?_⟩
  · simp only [blank, tpwr, tctxs, if_true]
  · exact h.2 k

theorem keep_books_badBooks_fullAudit_links {M : Touch} {s X : State} {v0 : List BookRow} {v1 : List (Nat × Nat)} {v2 : Bool} {v3 : Links} (hm : ({ books := true, badBooks := true, fullAudit := true, links := true } : Touch).le M = true) (h : Keep M s X) :
    KeepMk M s X.pending X.free X.now X.dev X.tick X.pwr X.fns X.ctxs X.tags X.plans X.threads X.preds X.tables X.frames X.decs X.pins X.limbo X.flog X.hw X.recov X.slideP X.slides X.resumeAt X.slideDue v0 v1 v2 v3 X.attic X.mem X.host := by
  simp only [Touch.le, Bool.and_eq_true] at hm
  have tbooks : M.books = true := imp_true hm.1.1.1.1.1.1.2
  have tbadBooks : M.badBooks = true := imp_true hm.1.1.1.1.1.2
  have tfullAudit : M.fullAudit = true := imp_true hm.1.1.1.1.2
  have tlinks : M.links = true := imp_true hm.1.1.1.2
  refine ⟨Eq.trans ?_ h.1, fun k => ?_⟩
  · simp only [blank, tbooks, tbadBooks, tfullAudit, tlinks, if_true]
  · exact h.2 k

theorem keep_books_badBooks_fullAudit {M : Touch} {s X : State} {v0 : List BookRow} {v1 : List (Nat × Nat)} {v2 : Bool} (hm : ({ books := true, badBooks := true, fullAudit := true } : Touch).le M = true) (h : Keep M s X) :
    KeepMk M s X.pending X.free X.now X.dev X.tick X.pwr X.fns X.ctxs X.tags X.plans X.threads X.preds X.tables X.frames X.decs X.pins X.limbo X.flog X.hw X.recov X.slideP X.slides X.resumeAt X.slideDue v0 v1 v2 X.links X.attic X.mem X.host := by
  simp only [Touch.le, Bool.and_eq_true] at hm
  have tbooks : M.books = true := imp_true hm.1.1.1.1.1.1.2
  have tbadBooks : M.badBooks = true := imp_true hm.1.1.1.1.1.2
  have tfullAudit : M.fullAudit = true := imp_true hm.1.1.1.1.2
  refine ⟨Eq.trans ?_ h.1, fun k => ?_⟩
  · simp only [blank, tbooks, tbadBooks, tfullAudit, if_true]
  · exact h.2 k

theorem keep_books_badBooks {M : Touch} {s X : State} {v0 : List BookRow} {v1 : List (Nat × Nat)} (hm : ({ books := true, badBooks := true } : Touch).le M = true) (h : Keep M s X) :
    KeepMk M s X.pending X.free X.now X.dev X.tick X.pwr X.fns X.ctxs X.tags X.plans X.threads X.preds X.tables X.frames X.decs X.pins X.limbo X.flog X.hw X.recov X.slideP X.slides X.resumeAt X.slideDue v0 v1 X.fullAudit X.links X.attic X.mem X.host := by
  simp only [Touch.le, Bool.and_eq_true] at hm
  have tbooks : M.books = true := imp_true hm.1.1.1.1.1.1.2
  have tbadBooks : M.badBooks = true := imp_true hm.1.1.1.1.1.2
  refine ⟨Eq.trans ?_ h.1, fun k => ?_⟩
  · simp only [blank, tbooks, tbadBooks, if_true]
  · exact h.2 k

theorem keep_slides {M : Touch} {s X : State} {v0 : List (Nat × Tick × Nat)} (hm : ({ slides := true } : Touch).le M = true) (h : Keep M s X) :
    KeepMk M s X.pending X.free X.now X.dev X.tick X.pwr X.fns X.ctxs X.tags X.plans X.threads X.preds X.tables X.frames X.decs X.pins X.limbo X.flog X.hw X.recov X.slideP v0 X.resumeAt X.slideDue X.books X.badBooks X.fullAudit X.links X.attic X.mem X.host := by
  simp only [Touch.le, Bool.and_eq_true] at hm
  have tslides : M.slides = true := imp_true hm.1.1.1.1.1.1.1.1.1.2
  refine ⟨Eq.trans ?_ h.1, fun k => ?_⟩
  · simp only [blank, tslides, if_true]
  · exact h.2 k

theorem keep_recov_fullAudit_attic {M : Touch} {s X : State} {v0 : Option Recov} {v1 : Bool} {v2 : Attic} (hm : ({ recov := true, fullAudit := true, attic := true } : Touch).le M = true) (h : Keep M s X) :
    KeepMk M s X.pending X.free X.now X.dev X.tick X.pwr X.fns X.ctxs X.tags X.plans X.threads X.preds X.tables X.frames X.decs X.pins X.limbo X.flog X.hw v0 X.slideP X.slides X.resumeAt X.slideDue X.books X.badBooks v1 X.links v2 X.mem X.host := by
  simp only [Touch.le, Bool.and_eq_true] at hm
  have trecov : M.recov = true := imp_true hm.1.1.1.1.1.1.1.1.1.1.1.2
  have tfullAudit : M.fullAudit = true := imp_true hm.1.1.1.1.2
  have tattic : M.attic = true := imp_true hm.1.1.2
  refine ⟨Eq.trans ?_ h.1, fun k => ?_⟩
  · simp only [blank, trecov, tfullAudit, tattic, if_true]
  · exact h.2 k

theorem keep_recov_fullAudit {M : Touch} {s X : State} {v0 : Option Recov} {v1 : Bool} (hm : ({ recov := true, fullAudit := true } : Touch).le M = true) (h : Keep M s X) :
    KeepMk M s X.pending X.free X.now X.dev X.tick X.pwr X.fns X.ctxs X.tags X.plans X.threads X.preds X.tables X.frames X.decs X.pins X.limbo X.flog X.hw v0 X.slideP X.slides X.resumeAt X.slideDue X.books X.badBooks v1 X.links X.attic X.mem X.host := by
  simp only [Touch.le, Bool.and_eq_true] at hm
  have trecov : M.recov = true := imp_true hm.1.1.1.1.1.1.1.1.1.1.1.2
  have tfullAudit : M.fullAudit = true := imp_true hm.1.1.1.1.2
  refine ⟨Eq.trans ?_ h.1, fun k => ?_⟩
  · simp only [blank, trecov, tfullAudit, if_true]
  · exact h.2 k

theorem keep_dev_attic {M : Touch} {s X : State} {v0 : Dev} {v1 : Attic} (hm : ({ dev := true, attic := true } : Touch).le M = true) (h : Keep M s X) :
    KeepMk M s X.pending X.free X.now v0 X.tick X.pwr X.fns X.ctxs X.tags X.plans X.threads X.preds X.tables X.frames X.decs X.pins X.limbo X.flog X.hw X.recov X.slideP X.slides X.resumeAt X.slideDue X.books X.badBooks X.fullAudit X.links v1 X.mem X.host := by
  simp only [Touch.le, Bool.and_eq_true] at hm
  have tdev : M.dev = true := imp_true hm.1.1.1.1.1.1.1.1.1.1.1.1.1.1.1.1.1.1.1.1.1.1.1.1.1.1.1.2
  have tattic : M.attic = true := imp_true hm.1.1.2
  refine ⟨Eq.trans ?_ h.1, fun k => ?_⟩
  · simp only [blank, tdev, tattic, if_true]
  · exact h.2 k

theorem keep_now_pwr {M : Touch} {s X : State} {v0 : Nat} {v1 : Pwr} (hm : ({ now := true, pwr := true } : Touch).le M = true) (h : Keep M s X) :
    KeepMk M s X.pending X.free v0 X.dev X.tick v1 X.fns X.ctxs X.tags X.plans X.threads X.preds X.tables X.frames X.decs X.pins X.limbo X.flog X.hw X.recov X.slideP X.slides X.resumeAt X.slideDue X.books X.badBooks X.fullAudit X.links X.attic X.mem X.host := by
  simp only [Touch.le, Bool.and_eq_true] at hm
  have tnow : M.now = true := imp_true hm.1.1.1.1.1.1.1.1.1.1.1.1.1.1.1.1.1.1.1.1.1.1.1.1.1.1.1.1.2
  have tpwr : M.pwr = true := imp_true hm.1.1.1.1.1.1.1.1.1.1.1.1.1.1.1.1.1.1.1.1.1.1.1.1.1.2
  refine ⟨Eq.trans ?_ h.1, fun k => ?_⟩
  · simp only [blank, tnow, tpwr, if_true]
  · exact h.2 k

theorem keep_flog_attic {M : Touch} {s X : State} {v0 : FaultLog} {v1 : Attic} (hm : ({ flog := true, attic := true } : Touch).le M = true) (h : Keep M s X) :
    KeepMk M s X.pending X.free X.now X.dev X.tick X.pwr X.fns X.ctxs X.tags X.plans X.threads X.preds X.tables X.frames X.decs X.pins X.limbo v0 X.hw X.recov X.slideP X.slides X.resumeAt X.slideDue X.books X.badBooks X.fullAudit X.links v1 X.mem X.host := by
  simp only [Touch.le, Bool.and_eq_true] at hm
  have tflog : M.flog = true := imp_true hm.1.1.1.1.1.1.1.1.1.1.1.1.1.2
  have tattic : M.attic = true := imp_true hm.1.1.2
  refine ⟨Eq.trans ?_ h.1, fun k => ?_⟩
  · simp only [blank, tflog, tattic, if_true]
  · exact h.2 k

theorem keep_now_dev_pwr_links {M : Touch} {s X : State} {v0 : Nat} {v1 : Dev} {v2 : Pwr} {v3 : Links} (hm : ({ now := true, dev := true, pwr := true, links := true } : Touch).le M = true) (h : Keep M s X) :
    KeepMk M s X.pending X.free v0 v1 X.tick v2 X.fns X.ctxs X.tags X.plans X.threads X.preds X.tables X.frames X.decs X.pins X.limbo X.flog X.hw X.recov X.slideP X.slides X.resumeAt X.slideDue X.books X.badBooks X.fullAudit v3 X.attic X.mem X.host := by
  simp only [Touch.le, Bool.and_eq_true] at hm
  have tnow : M.now = true := imp_true hm.1.1.1.1.1.1.1.1.1.1.1.1.1.1.1.1.1.1.1.1.1.1.1.1.1.1.1.1.2
  have tdev : M.dev = true := imp_true hm.1.1.1.1.1.1.1.1.1.1.1.1.1.1.1.1.1.1.1.1.1.1.1.1.1.1.1.2
  have tpwr : M.pwr = true := imp_true hm.1.1.1.1.1.1.1.1.1.1.1.1.1.1.1.1.1.1.1.1.1.1.1.1.1.2
  have tlinks : M.links = true := imp_true hm.1.1.1.2
  refine ⟨Eq.trans ?_ h.1, fun k => ?_⟩
  · simp only [blank, tnow, tdev, tpwr, tlinks, if_true]
  · exact h.2 k

theorem keep_now_dev_pwr {M : Touch} {s X : State} {v0 : Nat} {v1 : Dev} {v2 : Pwr} (hm : ({ now := true, dev := true, pwr := true } : Touch).le M = true) (h : Keep M s X) :
    KeepMk M s X.pending X.free v0 v1 X.tick v2 X.fns X.ctxs X.tags X.plans X.threads X.preds X.tables X.frames X.decs X.pins X.limbo X.flog X.hw X.recov X.slideP X.slides X.resumeAt X.slideDue X.books X.badBooks X.fullAudit X.links X.attic X.mem X.host := by
  simp only [Touch.le, Bool.and_eq_true] at hm
  have tnow : M.now = true := imp_true hm.1.1.1.1.1.1.1.1.1.1.1.1.1.1.1.1.1.1.1.1.1.1.1.1.1.1.1.1.2
  have tdev : M.dev = true := imp_true hm.1.1.1.1.1.1.1.1.1.1.1.1.1.1.1.1.1.1.1.1.1.1.1.1.1.1.1.2
  have tpwr : M.pwr = true := imp_true hm.1.1.1.1.1.1.1.1.1.1.1.1.1.1.1.1.1.1.1.1.1.1.1.1.1.2
  refine ⟨Eq.trans ?_ h.1, fun k => ?_⟩
  · simp only [blank, tnow, tdev, tpwr, if_true]
  · exact h.2 k

theorem keep_now_dev {M : Touch} {s X : State} {v0 : Nat} {v1 : Dev} (hm : ({ now := true, dev := true } : Touch).le M = true) (h : Keep M s X) :
    KeepMk M s X.pending X.free v0 v1 X.tick X.pwr X.fns X.ctxs X.tags X.plans X.threads X.preds X.tables X.frames X.decs X.pins X.limbo X.flog X.hw X.recov X.slideP X.slides X.resumeAt X.slideDue X.books X.badBooks X.fullAudit X.links X.attic X.mem X.host := by
  simp only [Touch.le, Bool.and_eq_true] at hm
  have tnow : M.now = true := imp_true hm.1.1.1.1.1.1.1.1.1.1.1.1.1.1.1.1.1.1.1.1.1.1.1.1.1.1.1.1.2
  have tdev : M.dev = true := imp_true hm.1.1.1.1.1.1.1.1.1.1.1.1.1.1.1.1.1.1.1.1.1.1.1.1.1.1.1.2
  refine ⟨Eq.trans ?_ h.1, fun k => ?_⟩
  · simp only [blank, tnow, tdev, if_true]
  · exact h.2 k

theorem keep_hw_attic {M : Touch} {s X : State} {v0 : Hw} {v1 : Attic} (hm : ({ hw := true, attic := true } : Touch).le M = true) (h : Keep M s X) :
    KeepMk M s X.pending X.free X.now X.dev X.tick X.pwr X.fns X.ctxs X.tags X.plans X.threads X.preds X.tables X.frames X.decs X.pins X.limbo X.flog v0 X.recov X.slideP X.slides X.resumeAt X.slideDue X.books X.badBooks X.fullAudit X.links v1 X.mem X.host := by
  simp only [Touch.le, Bool.and_eq_true] at hm
  have thw : M.hw = true := imp_true hm.1.1.1.1.1.1.1.1.1.1.1.1.2
  have tattic : M.attic = true := imp_true hm.1.1.2
  refine ⟨Eq.trans ?_ h.1, fun k => ?_⟩
  · simp only [blank, thw, tattic, if_true]
  · exact h.2 k

theorem keep_cold {M : Touch} {s X : State} {v0 : Dev} {v1 : TickGen} {v2 : Pwr} {v3 : List (Nat × FnPage)} {v4 : List (Nat × Ctx)} {v5 : List TagUse} {v6 : List Plan} {v7 : List Thread} {v8 : List PredInst} {v9 : List KvTable} {v10 : List Frame} {v11 : List Nat} {v12 : List PinBind} {v13 : List (Nat × Nat)} {v14 : FaultLog} {v15 : Hw} {v16 : Option Recov} {v17 : Option (Nat × Nat)} {v18 : List (Nat × Tick × Nat)} {v19 : Nat} {v20 : List (Nat × Nat)} {v21 : List BookRow} {v22 : List (Nat × Nat)} {v23 : Bool} {v24 : Links} {v25 : Attic} {v26 : List Host.Cell} (hm : ({ dev := true, tick := true, pwr := true, fns := true, ctxs := true, tags := true, plans := true, threads := true, preds := true, tables := true, frames := true, decs := true, pins := true, limbo := true, flog := true, hw := true, recov := true, slideP := true, slides := true, resumeAt := true, slideDue := true, books := true, badBooks := true, fullAudit := true, links := true, attic := true, mem := true } : Touch).le M = true) (hmem : Memory.wf X.mem = true → Memory.wf v26 = true) (h : Keep M s X) :
    KeepMk M s X.pending X.free X.now v0 v1 v2 v3 v4 v5 v6 v7 v8 v9 v10 v11 v12 v13 v14 v15 v16 v17 v18 v19 v20 v21 v22 v23 v24 v25 v26 X.host := by
  simp only [Touch.le, Bool.and_eq_true] at hm
  have tdev : M.dev = true := imp_true hm.1.1.1.1.1.1.1.1.1.1.1.1.1.1.1.1.1.1.1.1.1.1.1.1.1.1.1.2
  have ttick : M.tick = true := imp_true hm.1.1.1.1.1.1.1.1.1.1.1.1.1.1.1.1.1.1.1.1.1.1.1.1.1.1.2
  have tpwr : M.pwr = true := imp_true hm.1.1.1.1.1.1.1.1.1.1.1.1.1.1.1.1.1.1.1.1.1.1.1.1.1.2
  have tfns : M.fns = true := imp_true hm.1.1.1.1.1.1.1.1.1.1.1.1.1.1.1.1.1.1.1.1.1.1.1.1.2
  have tctxs : M.ctxs = true := imp_true hm.1.1.1.1.1.1.1.1.1.1.1.1.1.1.1.1.1.1.1.1.1.1.1.2
  have ttags : M.tags = true := imp_true hm.1.1.1.1.1.1.1.1.1.1.1.1.1.1.1.1.1.1.1.1.1.1.2
  have tplans : M.plans = true := imp_true hm.1.1.1.1.1.1.1.1.1.1.1.1.1.1.1.1.1.1.1.1.1.2
  have tthreads : M.threads = true := imp_true hm.1.1.1.1.1.1.1.1.1.1.1.1.1.1.1.1.1.1.1.1.2
  have tpreds : M.preds = true := imp_true hm.1.1.1.1.1.1.1.1.1.1.1.1.1.1.1.1.1.1.1.2
  have ttables : M.tables = true := imp_true hm.1.1.1.1.1.1.1.1.1.1.1.1.1.1.1.1.1.1.2
  have tframes : M.frames = true := imp_true hm.1.1.1.1.1.1.1.1.1.1.1.1.1.1.1.1.1.2
  have tdecs : M.decs = true := imp_true hm.1.1.1.1.1.1.1.1.1.1.1.1.1.1.1.1.2
  have tpins : M.pins = true := imp_true hm.1.1.1.1.1.1.1.1.1.1.1.1.1.1.1.2
  have tlimbo : M.limbo = true := imp_true hm.1.1.1.1.1.1.1.1.1.1.1.1.1.1.2
  have tflog : M.flog = true := imp_true hm.1.1.1.1.1.1.1.1.1.1.1.1.1.2
  have thw : M.hw = true := imp_true hm.1.1.1.1.1.1.1.1.1.1.1.1.2
  have trecov : M.recov = true := imp_true hm.1.1.1.1.1.1.1.1.1.1.1.2
  have tslideP : M.slideP = true := imp_true hm.1.1.1.1.1.1.1.1.1.1.2
  have tslides : M.slides = true := imp_true hm.1.1.1.1.1.1.1.1.1.2
  have tresumeAt : M.resumeAt = true := imp_true hm.1.1.1.1.1.1.1.1.2
  have tslideDue : M.slideDue = true := imp_true hm.1.1.1.1.1.1.1.2
  have tbooks : M.books = true := imp_true hm.1.1.1.1.1.1.2
  have tbadBooks : M.badBooks = true := imp_true hm.1.1.1.1.1.2
  have tfullAudit : M.fullAudit = true := imp_true hm.1.1.1.1.2
  have tlinks : M.links = true := imp_true hm.1.1.1.2
  have tattic : M.attic = true := imp_true hm.1.1.2
  have tmem : M.mem = true := imp_true hm.1.2
  refine ⟨Eq.trans ?_ h.1, fun k => ?_⟩
  · simp only [blank, tdev, ttick, tpwr, tfns, tctxs, ttags, tplans, tthreads, tpreds, ttables, tframes, tdecs, tpins, tlimbo, tflog, thw, trecov, tslideP, tslides, tresumeAt, tslideDue, tbooks, tbadBooks, tfullAudit, tlinks, tattic, tmem, if_true]
  · have g := h.2 k
    simp only [MemOk, Bool.and_eq_true] at g ⊢
    exact ⟨hmem g.1, g.2⟩

end Sys2Proof.Laws
end

