-- ==== Sys2Proof/Laws/KeepOps.lean ====
section
/-! SUPPORT. What each operation of Machine/Ops.lean may change. -/
namespace Sys2Proof.Laws

open Sys2Proof Sys2Proof.Machine
set_option linter.unusedVariables false

theorem setFn_keep {M : Touch} {b0 : State} {s : State} {f : Nat} {p : FnPage} (hm : ({ fns := true } : Touch).le M = true) (hs : Keep M b0 s) :
    Keep M b0 (setFn s f p) := by
  unfold setFn
  repeat' (first
    | with_reducible assumption | (with_reducible dsimp -zeta only [keep_mk]) | with_reducible refine keep_fns ?_ ?_)

theorem modFn_keep {M : Touch} {b0 : State} {s : State} {f : Nat} {g : FnPage → FnPage} (hm : ({ fns := true } : Touch).le M = true) (hs : Keep M b0 s) :
    Keep M b0 (modFn s f g) := by
  unfold modFn
  repeat' (first | with_reducible assumption | with_reducible refine setFn_keep ?_ ?_)

theorem setCtx_keep {M : Touch} {b0 : State} {s : State} {c : Nat} {x : Ctx} (hm : ({ ctxs := true } : Touch).le M = true) (hs : Keep M b0 s) :
    Keep M b0 (setCtx s c x) := by
  unfold setCtx
  repeat' (first
    | with_reducible assumption | (with_reducible dsimp -zeta only [keep_mk]) | with_reducible refine keep_ctxs ?_ ?_)

theorem modCtx_keep {M : Touch} {b0 : State} {s : State} {c : Nat} {g : Ctx → Ctx} (hm : ({ ctxs := true } : Touch).le M = true) (hs : Keep M b0 s) :
    Keep M b0 (modCtx s c g) := by
  unfold modCtx
  repeat' (first | with_reducible assumption | with_reducible refine setCtx_keep ?_ ?_)

theorem modPlan_keep {M : Touch} {b0 : State} {s : State} {k : PlanKey} {g : Plan → Plan} (hm : ({ plans := true } : Touch).le M = true) (hs : Keep M b0 s) :
    Keep M b0 (modPlan s k g) := by
  unfold modPlan
  repeat' (first
    | with_reducible assumption | (with_reducible dsimp -zeta only [keep_mk]) | with_reducible refine keep_plans ?_ ?_)

theorem delPlan_keep {M : Touch} {b0 : State} {s : State} {k : PlanKey} (hm : ({ plans := true } : Touch).le M = true) (hs : Keep M b0 s) :
    Keep M b0 (delPlan s k) := by
  unfold delPlan
  repeat' (first
    | with_reducible assumption | (with_reducible dsimp -zeta only [keep_mk]) | with_reducible refine keep_plans ?_ ?_)

theorem sendVec_keep {M : Touch} {b0 : State} {s : State} {f : Nat} {v : Nat} (hm : ({ fns := true, host := true } : Touch).le M = true) (hs : Keep M b0 s) :
    Keep M b0 (sendVec s f v) := by
  unfold sendVec
  repeat' (first
    | ((with_reducible intro x); refine keep_cut (m := M) (s := b0) x ?_ (fun _ => ?_); subst x) | (with_reducible intro _)
    | ((with_reducible refine touch_below hm ?_); rfl) | with_reducible refine setFn_keep ?_ ?_
    | (with_reducible dsimp -zeta only [keep_mk]) | with_reducible refine keep_host ?_ ?_ ?_
    | with_reducible refine hostWrite_ok ?_ | split | (with_reducible dsimp only))
  all_goals assumption

theorem vecEvent_keep {M : Touch} {b0 : State} {s : State} {f : Nat} {v : Nat} (hm : ({ fns := true, host := true } : Touch).le M = true) (hs : Keep M b0 s) :
    Keep M b0 (vecEvent s f v) := by
  unfold vecEvent
  repeat' (first
    | with_reducible assumption | ((with_reducible intro x); refine keep_cut (m := M) (s := b0) x ?_ (fun _ => ?_); subst x)
    | (with_reducible intro _) | ((with_reducible refine touch_below hm ?_); rfl) | with_reducible refine setFn_keep ?_ ?_
    | with_reducible refine sendVec_keep ?_ ?_ | split | (with_reducible dsimp only))

theorem modPort_keep {M : Touch} {b0 : State} {s : State} {p : Nat} {g : Port → Port} (hm : ({ links := true } : Touch).le M = true) (hs : Keep M b0 s) :
    Keep M b0 (modPort s p g) := by
  unfold modPort
  repeat' (first
    | with_reducible assumption | (with_reducible dsimp -zeta only [keep_mk]) | with_reducible refine keep_links ?_ ?_)

theorem logFault_keep {M : Touch} {b0 : State} {s : State} {f : FaultIn} (hm : ({ flog := true } : Touch).le M = true) (hs : Keep M b0 s) :
    Keep M b0 (logFault s f) := by
  unfold logFault
  repeat' (first
    | with_reducible assumption | (with_reducible dsimp -zeta only [keep_mk]) | with_reducible refine keep_flog ?_ ?_)

theorem failStop_keep {M : Touch} {b0 : State} {s : State} {f : FaultIn} (hm : ({ dev := true, flog := true, links := true } : Touch).le M = true) (hs : Keep M b0 s) :
    Keep M b0 (failStop s f) := by
  unfold failStop
  repeat' (first
    | with_reducible assumption | ((with_reducible intro x); refine keep_cut (m := M) (s := b0) x ?_ (fun _ => ?_); subst x)
    | (with_reducible intro _) | ((with_reducible refine touch_below hm ?_); rfl) | with_reducible refine logFault_keep ?_ ?_
    | (with_reducible dsimp -zeta only [keep_mk]) | with_reducible refine keep_dev_links ?_ ?_ | split
    | (with_reducible dsimp only))

theorem raise_keep {M : Touch} {b0 : State} {s : State} {f : FaultIn} (hm : ({ dev := true, flog := true, links := true } : Touch).le M = true) (hs : Keep M b0 s) :
    Keep M b0 (raise s f) := by
  unfold raise
  repeat' (first
    | with_reducible assumption | (with_reducible intro _) | ((with_reducible refine touch_below hm ?_); rfl)
    | with_reducible refine failStop_keep ?_ ?_ | with_reducible refine logFault_keep ?_ ?_ | split)

theorem writeEntry_keep {M : Touch} {b0 : State} {s : State} {c : Nat} {e : CEntry} (hm : ({ fns := true, ctxs := true, tags := true, host := true } : Touch).le M = true) (hs : Keep M b0 s) :
    Keep M b0 (writeEntry s c e) := by
  unfold writeEntry
  repeat' (first
    | ((with_reducible intro x); refine keep_cut (m := M) (s := b0) x ?_ (fun _ => ?_); subst x) | (with_reducible intro _)
    | ((with_reducible refine touch_below hm ?_); rfl) | with_reducible refine setCtx_keep ?_ ?_
    | with_reducible refine vecEvent_keep ?_ ?_ | (with_reducible dsimp -zeta only [keep_mk])
    | with_reducible refine keep_tags_host ?_ ?_ ?_ | with_reducible refine hostWrite_ok ?_ | split)
  all_goals assumption

theorem postEntry_keep {M : Touch} {b0 : State} {s : State} {c : Nat} {e : CEntry} (hm : ({ fns := true, ctxs := true, tags := true, host := true } : Touch).le M = true) (hs : Keep M b0 s) :
    Keep M b0 (postEntry s c e) := by
  unfold postEntry
  repeat' (first
    | with_reducible assumption | (with_reducible intro _) | ((with_reducible refine touch_below hm ?_); rfl)
    | with_reducible refine writeEntry_keep ?_ ?_ | with_reducible refine setCtx_keep ?_ ?_
    | (with_reducible dsimp -zeta only [keep_mk]) | with_reducible refine keep_tags ?_ ?_
    | with_reducible refine keep_getD ?_ ?_ | split | (with_reducible dsimp only))

theorem dropOpen_keep {M : Touch} {b0 : State} {s : State} {c : Nat} {tag : Nat} (hm : ({ fns := true, ctxs := true } : Touch).le M = true) (hs : Keep M b0 s) :
    Keep M b0 (dropOpen s c tag) := by
  unfold dropOpen
  repeat' (first
    | with_reducible assumption | (with_reducible exact keep_refl _ _) | with_reducible refine keepOut_next ?_
    | ((with_reducible intro x); refine keep_cut (m := M) (s := b0) x ?_ (fun _ => ?_); subst x)
    | ((with_reducible intro x); refine keep_cut_fst (m := M) (s := b0) x ?_ (fun _ => ?_); subst x)
    | ((with_reducible intro x); refine keep_cut_snd (m := M) (s := b0) x ?_ (fun _ => ?_); subst x)
    | ((with_reducible intro x); refine keep_cut_some (m := M) (s := b0) x ?_ (fun _ => ?_); subst x)
    | ((with_reducible intro x); refine keep_cut_pair (m := M) (s := b0) x ?_ (fun _ => ?_); subst x)
    | ((with_reducible intro x); refine keep_cut_run (m := M) (s := b0) x ?_ (fun _ => ?_); subst x)
    | ((with_reducible intro x); refine cell_id x ?_; subst x) | ((with_reducible intro x); refine fun_id x ?_; subst x)
    | ((with_reducible intro x); clear_value x) | (with_reducible intro _) | lift_lets
    | ((with_reducible refine touch_below hm ?_); rfl) | with_reducible refine modCtx_keep ?_ ?_
    | (with_reducible dsimp -zeta only [keep_mk]) | with_reducible refine keep_fns ?_ ?_
    | with_reducible refine keep_elim ?_ ?_ | with_reducible refine keep_getD ?_ ?_
    | with_reducible refine keep_foldl_fst ?_ ?_ | with_reducible refine keep_repeat ?_ ?_
    | with_reducible refine keep_foldl_snd ?_ ?_ | with_reducible refine keep_ite ?_ ?_
    | with_reducible refine keep_foldl ?_ ?_ | with_reducible exact keep_of_fst (by assumption) (by assumption)
    | with_reducible exact keep_enter (by assumption) (by assumption)
    | with_reducible exact keepSome_elim (by assumption) (by assumption)
    | with_reducible exact keepPair_elim (by assumption) (by assumption)
    | with_reducible exact keepPair_elim2 (by assumption) (by assumption)
    | with_reducible exact keep_of_snd (by assumption) (by assumption) | split | with_reducible refine keepSome_bind ?_
    | with_reducible refine keepSome_elim ?_ (by assumption) | (cases ‹_ = some _›) | (with_reducible dsimp only))

theorem closeOpen_keep {M : Touch} {b0 : State} {s : State} {c : Nat} {o : OpenDesc} {code : Nat} {aux : Nat} (hm : ({ fns := true, ctxs := true, tags := true, host := true } : Touch).le M = true) (hs : Keep M b0 s) :
    Keep M b0 (closeOpen s c o code aux) := by
  unfold closeOpen
  repeat' (first
    | with_reducible assumption | ((with_reducible refine touch_below hm ?_); rfl)
    | with_reducible refine postEntry_keep ?_ ?_ | with_reducible refine dropOpen_keep ?_ ?_)

theorem ctxError_keep {M : Touch} {b0 : State} {s : State} {c : Nat} (hm : ({ ctxs := true } : Touch).le M = true) (hs : Keep M b0 s) :
    Keep M b0 (ctxError s c) := by
  unfold ctxError
  repeat' (first | with_reducible assumption | with_reducible refine modCtx_keep ?_ ?_)

theorem freshBits_keep {M : Touch} {b0 : State} {s : State} {n : Nat} (hm : ({ free := true } : Touch).le M = true) (hs : Keep M b0 s) :
    Keep M b0 (freshBits s n).2 := by
  unfold freshBits
  repeat' (first
    | with_reducible assumption | (with_reducible dsimp -zeta only [keep_mk]) | with_reducible refine keep_free ?_ ?_)
theorem freshBits_keep_eq {M : Touch} {b0 : State} {s : State} {n : Nat} {w9} {u9 : State} (hm : ({ free := true } : Touch).le M = true) (hs : Keep M b0 s) (e9 : freshBits s n = (w9, u9)) : Keep M b0 u9 := by
  have := freshBits_keep (M := M) (b0 := b0) (s := s) (n := n) hm hs; rw [e9] at this; exact this

theorem freeBytes_keep {M : Touch} {b0 : State} {s : State} {n : Nat} (hm : ({ free := true } : Touch).le M = true) (hs : Keep M b0 s) :
    Keep M b0 (freeBytes s n).2 := by
  unfold freeBytes
  repeat' (first | with_reducible assumption | with_reducible refine freshBits_keep_eq ?_ ?_ (by assumption) | split)
theorem freeBytes_keep_eq {M : Touch} {b0 : State} {s : State} {n : Nat} {w9} {u9 : State} (hm : ({ free := true } : Touch).le M = true) (hs : Keep M b0 s) (e9 : freeBytes s n = (w9, u9)) : Keep M b0 u9 := by
  have := freeBytes_keep (M := M) (b0 := b0) (s := s) (n := n) hm hs; rw [e9] at this; exact this

theorem freeBit_keep {M : Touch} {b0 : State} {s : State} (hm : ({ free := true } : Touch).le M = true) (hs : Keep M b0 s) :
    Keep M b0 (freeBit s).2 := by
  unfold freeBit
  repeat' (first | with_reducible assumption | with_reducible refine freshBits_keep_eq ?_ ?_ (by assumption) | split)
theorem freeBit_keep_eq {M : Touch} {b0 : State} {s : State} {w9} {u9 : State} (hm : ({ free := true } : Touch).le M = true) (hs : Keep M b0 s) (e9 : freeBit s = (w9, u9)) : Keep M b0 u9 := by
  have := freeBit_keep (M := M) (b0 := b0) (s := s) hm hs; rw [e9] at this; exact this

end Sys2Proof.Laws
end

