-- ==== Sys2Proof/Laws/KeepTick.lean ====
section
/-! SUPPORT. What each operation of Machine/Tick.lean may change. -/
namespace Sys2Proof.Laws

open Sys2Proof Sys2Proof.Machine
set_option linter.unusedVariables false

theorem tickEvent_keep {M : Touch} {b0 : State} {old : TickGen} {took : Bool} {s : State} (hm : ({ flog := true } : Touch).le M = true) (hs : Keep M b0 s) :
    Keep M b0 (tickEvent old took s) := by
  unfold tickEvent
  repeat' (first
    | with_reducible assumption | (with_reducible intro _) | with_reducible refine logFault_keep ?_ ?_ | split)

theorem tickRefuse_keep {M : Touch} {b0 : State} {s : State} (hm : ({ tick := true } : Touch).le M = true) (hs : Keep M b0 s) :
    Keep M b0 (tickRefuse s) := by
  unfold tickRefuse
  repeat' (first
    | with_reducible assumption | (with_reducible dsimp -zeta only [keep_mk]) | with_reducible refine keep_tick ?_ ?_)

theorem writeTickCtl_keep {M : Touch} {b0 : State} {s : State} {time : Nat} {value : Word} (hm : ({ now := true, tick := true, flog := true } : Touch).le M = true) (hs : Keep M b0 s) :
    Keep M b0 (writeTickCtl s time value) := by
  unfold writeTickCtl
  repeat' (first
    | with_reducible assumption | (with_reducible intro _) | ((with_reducible refine touch_below hm ?_); rfl)
    | with_reducible refine tickRefuse_keep ?_ ?_ | with_reducible refine tickEvent_keep ?_ ?_
    | (with_reducible dsimp -zeta only [keep_mk]) | with_reducible refine keep_now_tick ?_ ?_ | split)

theorem execTickEnable_keep {M : Touch} {b0 : State} {time : Nat} {value : Word} {s : State} (hm : ({ now := true, tick := true, flog := true } : Touch).le M = true) (hs : Keep M b0 s) :
    KeepOut M b0 (execTickEnable time value s) := by
  unfold execTickEnable
  repeat' (first
    | with_reducible assumption | with_reducible refine keepOut_next ?_ | (with_reducible intro _)
    | with_reducible refine writeTickCtl_keep ?_ ?_ | split)

theorem execTickDisable_keep {M : Touch} {b0 : State} {time : Nat} {value : Word} {s : State} (hm : ({ now := true, tick := true, flog := true } : Touch).le M = true) (hs : Keep M b0 s) :
    KeepOut M b0 (execTickDisable time value s) := by
  unfold execTickDisable
  repeat' (first
    | with_reducible assumption | with_reducible refine keepOut_next ?_ | (with_reducible intro _)
    | with_reducible refine writeTickCtl_keep ?_ ?_ | split)

theorem execTickSourceChange_keep {M : Touch} {b0 : State} {time : Nat} {value : Word} {s : State} (hm : ({ now := true, tick := true, flog := true } : Touch).le M = true) (hs : Keep M b0 s) :
    KeepOut M b0 (execTickSourceChange time value s) := by
  unfold execTickSourceChange
  repeat' (first
    | with_reducible assumption | with_reducible refine keepOut_next ?_ | (with_reducible intro _)
    | with_reducible refine writeTickCtl_keep ?_ ?_ | split)

theorem execTickAltSourceChange_keep {M : Touch} {b0 : State} {time : Nat} {value : Word} {s : State} (hm : ({ now := true, tick := true, flog := true } : Touch).le M = true) (hs : Keep M b0 s) :
    KeepOut M b0 (execTickAltSourceChange time value s) := by
  unfold execTickAltSourceChange
  repeat' (first
    | with_reducible assumption | with_reducible refine keepOut_next ?_ | (with_reducible intro _)
    | with_reducible refine writeTickCtl_keep ?_ ?_ | split)

theorem execTickOutEnable_keep {M : Touch} {b0 : State} {time : Nat} {value : Word} {s : State} (hm : ({ now := true, tick := true, flog := true } : Touch).le M = true) (hs : Keep M b0 s) :
    KeepOut M b0 (execTickOutEnable time value s) := by
  unfold execTickOutEnable
  repeat' (first
    | with_reducible assumption | with_reducible refine keepOut_next ?_ | (with_reducible intro _)
    | with_reducible refine writeTickCtl_keep ?_ ?_ | split)

theorem writeTickPeriod_keep {M : Touch} {b0 : State} {s : State} {value : Word} (hm : ({ tick := true } : Touch).le M = true) (hs : Keep M b0 s) :
    Keep M b0 (writeTickPeriod s value) := by
  unfold writeTickPeriod
  repeat' (first
    | with_reducible assumption | (with_reducible intro _) | with_reducible refine tickRefuse_keep ?_ ?_
    | (with_reducible dsimp -zeta only [keep_mk]) | with_reducible refine keep_tick ?_ ?_ | split
    | (with_reducible dsimp only))

theorem execTickPeriodWrite_keep {M : Touch} {b0 : State} {value : Word} {s : State} (hm : ({ tick := true } : Touch).le M = true) (hs : Keep M b0 s) :
    KeepOut M b0 (execTickPeriodWrite value s) := by
  unfold execTickPeriodWrite
  repeat' (first
    | with_reducible assumption | with_reducible refine keepOut_next ?_ | (with_reducible intro _)
    | with_reducible refine writeTickPeriod_keep ?_ ?_ | split)

theorem writeOffsetLo_keep {M : Touch} {b0 : State} {s : State} {value : Word} (hm : ({ tick := true } : Touch).le M = true) (hs : Keep M b0 s) :
    Keep M b0 (writeOffsetLo s value) := by
  unfold writeOffsetLo
  repeat' (first
    | with_reducible assumption | (with_reducible intro _) | with_reducible refine tickRefuse_keep ?_ ?_
    | (with_reducible dsimp -zeta only [keep_mk]) | with_reducible refine keep_tick ?_ ?_ | split)

theorem writeOffsetHi_keep {M : Touch} {b0 : State} {s : State} {value : Word} (hm : ({ tick := true, flog := true } : Touch).le M = true) (hs : Keep M b0 s) :
    Keep M b0 (writeOffsetHi s value) := by
  unfold writeOffsetHi
  repeat' (first
    | with_reducible assumption | (with_reducible intro _) | ((with_reducible refine touch_below hm ?_); rfl)
    | with_reducible refine tickRefuse_keep ?_ ?_ | with_reducible refine tickEvent_keep ?_ ?_
    | (with_reducible dsimp -zeta only [keep_mk]) | with_reducible refine keep_tick ?_ ?_ | split)

theorem execTickSysOffsetLoWrite_keep {M : Touch} {b0 : State} {value : Word} {s : State} (hm : ({ tick := true } : Touch).le M = true) (hs : Keep M b0 s) :
    KeepOut M b0 (execTickSysOffsetLoWrite value s) := by
  unfold execTickSysOffsetLoWrite
  repeat' (first
    | with_reducible assumption | with_reducible refine keepOut_next ?_ | (with_reducible intro _)
    | with_reducible refine writeOffsetLo_keep ?_ ?_ | split)

theorem execTickSysOffsetHiWrite_keep {M : Touch} {b0 : State} {value : Word} {s : State} (hm : ({ tick := true, flog := true } : Touch).le M = true) (hs : Keep M b0 s) :
    KeepOut M b0 (execTickSysOffsetHiWrite value s) := by
  unfold execTickSysOffsetHiWrite
  repeat' (first
    | with_reducible assumption | with_reducible refine keepOut_next ?_ | (with_reducible intro _)
    | with_reducible refine writeOffsetHi_keep ?_ ?_ | split)

theorem readNowLo_keep {M : Touch} {b0 : State} {s : State} (hm : ({ dev := true, tick := true } : Touch).le M = true) (hs : Keep M b0 s) :
    Keep M b0 (readNowLo s) := by
  unfold readNowLo
  repeat' (first
    | with_reducible assumption | (with_reducible dsimp -zeta only [keep_mk]) | with_reducible refine keep_dev_tick ?_ ?_
    | (with_reducible dsimp only))

theorem execTickNowLoRead_keep {M : Touch} {b0 : State} {s : State} (hm : ({ dev := true, tick := true } : Touch).le M = true) (hs : Keep M b0 s) :
    KeepOut M b0 (execTickNowLoRead s) := by
  unfold execTickNowLoRead
  repeat' (first
    | with_reducible assumption | with_reducible refine keepOut_next ?_ | (with_reducible intro _)
    | with_reducible refine readNowLo_keep ?_ ?_ | split)

theorem tickInEdge_keep {M : Touch} {b0 : State} {s : State} {time : Nat} (hm : ({ now := true, tick := true, flog := true } : Touch).le M = true) (hs : Keep M b0 s) :
    Keep M b0 (tickInEdge s time) := by
  unfold tickInEdge
  repeat' (first
    | with_reducible assumption | (with_reducible intro _) | ((with_reducible refine touch_below hm ?_); rfl)
    | with_reducible refine tickEvent_keep ?_ ?_ | (with_reducible dsimp -zeta only [keep_mk])
    | with_reducible refine keep_now_tick ?_ ?_ | split)

theorem execTickInEdge_keep {M : Touch} {b0 : State} {time : Nat} {s : State} (hm : ({ now := true, tick := true, flog := true } : Touch).le M = true) (hs : Keep M b0 s) :
    KeepOut M b0 (execTickInEdge time s) := by
  unfold execTickInEdge
  repeat' (first
    | with_reducible assumption | with_reducible refine keepOut_next ?_ | with_reducible refine tickInEdge_keep ?_ ?_)

theorem refMissing_keep {M : Touch} {b0 : State} {s : State} {r : SrcRole} (hm : ({ tick := true, flog := true } : Touch).le M = true) (hs : Keep M b0 s) :
    Keep M b0 (refMissing s r) := by
  unfold refMissing
  repeat' (first
    | with_reducible assumption | (with_reducible intro _) | ((with_reducible refine touch_below hm ?_); rfl)
    | with_reducible refine tickEvent_keep ?_ ?_ | (with_reducible dsimp -zeta only [keep_mk])
    | with_reducible refine keep_tick ?_ ?_ | split)

theorem execReferenceMissing_keep {M : Touch} {b0 : State} {role : SrcRole} {s : State} (hm : ({ tick := true, flog := true } : Touch).le M = true) (hs : Keep M b0 s) :
    KeepOut M b0 (execReferenceMissing role s) := by
  unfold execReferenceMissing
  repeat' (first
    | with_reducible assumption | with_reducible refine keepOut_next ?_ | with_reducible refine refMissing_keep ?_ ?_)

theorem holdoverTimeout_keep {M : Touch} {b0 : State} {s : State} (hm : ({ tick := true, flog := true } : Touch).le M = true) (hs : Keep M b0 s) :
    Keep M b0 (holdoverTimeout s) := by
  unfold holdoverTimeout
  repeat' (first
    | with_reducible assumption | (with_reducible intro _) | ((with_reducible refine touch_below hm ?_); rfl)
    | with_reducible refine tickEvent_keep ?_ ?_ | (with_reducible dsimp -zeta only [keep_mk])
    | with_reducible refine keep_tick ?_ ?_ | split)

theorem execHoldoverTimeout_keep {M : Touch} {b0 : State} {s : State} (hm : ({ tick := true, flog := true } : Touch).le M = true) (hs : Keep M b0 s) :
    KeepOut M b0 (execHoldoverTimeout s) := by
  unfold execHoldoverTimeout
  repeat' (first
    | with_reducible assumption | with_reducible refine keepOut_next ?_ | with_reducible refine holdoverTimeout_keep ?_ ?_)

theorem sendMarkers_keep {M : Touch} {b0 : State} {s : State} (hm : ({ links := true } : Touch).le M = true) (hs : Keep M b0 s) :
    Keep M b0 (sendMarkers s) := by
  unfold sendMarkers
  repeat' (first
    | with_reducible assumption | (with_reducible dsimp -zeta only [keep_mk]) | with_reducible refine keep_links ?_ ?_
    | (with_reducible dsimp only))

end Sys2Proof.Laws
end

