-- ==== Sys2Proof/Laws/KeepBooks.lean ====
section
/-! SUPPORT. What each operation of Machine/Books.lean may change. -/
namespace Sys2Proof.Laws

open Sys2Proof Sys2Proof.Machine
set_option linter.unusedVariables false

theorem lowerCaps_keep {M : Touch} {b0 : State} {s : State} (hm : ({ pwr := true } : Touch).le M = true) (hs : Keep M b0 s) :
    Keep M b0 (lowerCaps s) := by
  unfold lowerCaps
  repeat' (first
    | with_reducible assumption | ((with_reducible intro x); refine keep_cut (m := M) (s := b0) x ?_ (fun _ => ?_); subst x)
    | (with_reducible dsimp -zeta only [keep_mk]) | with_reducible refine keep_pwr ?_ ?_ | (with_reducible dsimp only))

theorem boundaryCaps_keep {M : Touch} {b0 : State} {s : State} (hm : ({ pwr := true } : Touch).le M = true) (hs : Keep M b0 s) :
    Keep M b0 (boundaryCaps s) := by
  unfold boundaryCaps
  repeat' (first
    | with_reducible assumption | ((with_reducible intro x); refine keep_cut (m := M) (s := b0) x ?_ (fun _ => ?_); subst x)
    | (with_reducible dsimp -zeta only [keep_mk]) | with_reducible refine keep_pwr ?_ ?_ | (with_reducible dsimp only))

end Sys2Proof.Laws
end

