-- ==== Sys2Proof/Laws/KeepContexts.lean ====
section
/-! SUPPORT. What each operation of Machine/Contexts.lean may change. -/
namespace Sys2Proof.Laws

open Sys2Proof Sys2Proof.Machine
set_option linter.unusedVariables false

theorem withdrawPlan_keep {M : Touch} {b0 : State} {s : State} {k : PlanKey} {cause : Byte} (hm : ({ plans := true } : Touch).le M = true) (hs : Keep M b0 s) :
    Keep M b0 (withdrawPlan s k cause) := by
  unfold withdrawPlan
  repeat' (first | with_reducible assumption | with_reducible refine modPlan_keep ?_ ?_)

theorem silencePlans_keep {M : Touch} {b0 : State} {s : State} {c : Nat} {noRecord : Bool} (hm : ({ plans := true } : Touch).le M = true) (hs : Keep M b0 s) :
    Keep M b0 (silencePlans s c noRecord) := by
  unfold silencePlans
  repeat' (first
    | with_reducible assumption | (with_reducible dsimp -zeta only [keep_mk]) | with_reducible refine keep_plans ?_ ?_)

theorem openCtx_keep {M : Touch} {b0 : State} {s : State} {c : Nat} {sqBase : DWord} {cqBase : DWord} {sqLog2 : Nat} {cqLog2 : Nat} {vector : Nat} (hm : ({ ctxs := true } : Touch).le M = true) (hs : Keep M b0 s) :
    Keep M b0 (openCtx s c sqBase cqBase sqLog2 cqLog2 vector) := by
  unfold openCtx
  repeat' (first | with_reducible assumption | with_reducible refine modCtx_keep ?_ ?_)

theorem unloadImages_keep {M : Touch} {b0 : State} {s : State} {p : Loaded → Bool} (hm : ({ limbo := true, attic := true } : Touch).le M = true) (hs : Keep M b0 s) :
    Keep M b0 (unloadImages s p) := by
  unfold unloadImages
  repeat' (first
    | with_reducible assumption | (with_reducible dsimp -zeta only [keep_mk]) | with_reducible refine keep_limbo_attic ?_ ?_)

theorem keepItems_keep {M : Touch} {b0 : State} {s : State} {t : Stream} (hm : ({ plans := true } : Touch).le M = true) (hs : Keep M b0 s) :
    Keep M b0 (keepItems s t) := by
  unfold keepItems
  repeat' (first
    | with_reducible assumption | (with_reducible intro _) | with_reducible refine modPlan_keep ?_ ?_
    | with_reducible refine keep_foldl ?_ ?_)

theorem modStream_keep {M : Touch} {b0 : State} {s : State} {c : Nat} {sid : Nat} {f : Stream → Stream} (hm : ({ ctxs := true } : Touch).le M = true) (hs : Keep M b0 s) :
    Keep M b0 (modStream s c sid f) := by
  unfold modStream
  repeat' (first | with_reducible assumption | with_reducible refine modCtx_keep ?_ ?_)

theorem voidJob_keep {M : Touch} {b0 : State} {s : State} {c : Nat} {sid : Nat} {j : Job} {code : Nat} (hm : ({ fns := true, ctxs := true, tags := true, host := true } : Touch).le M = true) (hs : Keep M b0 s) :
    Keep M b0 (voidJob s c sid j code) := by
  unfold voidJob
  repeat' (first
    | with_reducible assumption | ((with_reducible intro x); refine keep_cut (m := M) (s := b0) x ?_ (fun _ => ?_); subst x)
    | ((with_reducible refine touch_below hm ?_); rfl) | with_reducible refine modStream_keep ?_ ?_
    | with_reducible refine closeOpen_keep ?_ ?_ | split | (with_reducible dsimp only))

theorem codecPlanGone_keep {M : Touch} {b0 : State} {s : State} {k : PlanKey} (hm : ({ fns := true, ctxs := true, tags := true, host := true } : Touch).le M = true) (hs : Keep M b0 s) :
    Keep M b0 (codecPlanGone s k) := by
  unfold codecPlanGone
  repeat' (first
    | with_reducible assumption | (with_reducible exact keep_refl _ _) | with_reducible refine keepOut_next ?_
    | ((with_reducible intro x); refine keep_cut (m := M) (s := b0) x ?_ (fun _ => ?_); subst x)
    | ((with_reducible intro x); refine keep_cut_fst (m := M) (s := b0) x ?_ (fun _ => ?_); subst x)
    | ((with_reducible intro x); refine keep_cut_snd (m := M) (s := b0) x ?_ (fun _ => ?_); subst x)
    | ((with_reducible intro x); refine keep_cut_some (m := M) (s := b0) x ?_ (fun _ => ?_); subst x)
    | ((with_reducible intro x); refine keep_cut_pair (m := M) (s := b0) x ?_ (fun _ => ?_); subst x)
    | ((with_reducible intro x); refine keep_cut_run (m := M) (s := b0) x ?_ (fun _ => ?_); subst x)
    | ((with_reducible intro x); refine cell_id x ?_; subst x) | ((with_reducible intro x); refine fun_id x ?_; subst x)
    | ((with_reducible intro x); clear_value x) | (with_reducible intro _) | lift_lets
    | ((with_reducible refine touch_below hm ?_); rfl) | with_reducible refine modCtx_keep ?_ ?_
    | with_reducible refine voidJob_keep ?_ ?_ | with_reducible refine keep_elim ?_ ?_ | with_reducible refine keep_getD ?_ ?_
    | with_reducible refine keep_foldl_fst ?_ ?_ | with_reducible refine keep_repeat ?_ ?_
    | with_reducible refine keep_foldl_snd ?_ ?_ | with_reducible refine keep_ite ?_ ?_
    | with_reducible refine keep_foldl ?_ ?_ | with_reducible exact keep_of_fst (by assumption) (by assumption)
    | with_reducible exact keep_enter (by assumption) (by assumption)
    | with_reducible exact keepSome_elim (by assumption) (by assumption)
    | with_reducible exact keepPair_elim (by assumption) (by assumption)
    | with_reducible exact keepPair_elim2 (by assumption) (by assumption)
    | with_reducible exact keep_of_snd (by assumption) (by assumption) | split | with_reducible refine keepSome_bind ?_
    | with_reducible refine keepSome_elim ?_ (by assumption) | (cases ‹_ = some _›) | (with_reducible dsimp only))

theorem closeNow_keep {M : Touch} {b0 : State} {s : State} {c : Nat} (hm : ({ fns := true, ctxs := true, tags := true, plans := true, limbo := true, attic := true } : Touch).le M = true) (hs : Keep M b0 s) :
    Keep M b0 (closeNow s c) := by
  unfold closeNow
  repeat' (first
    | with_reducible assumption | (with_reducible exact keep_refl _ _) | with_reducible refine keepOut_next ?_
    | ((with_reducible intro x); refine keep_cut (m := M) (s := b0) x ?_ (fun _ => ?_); subst x)
    | ((with_reducible intro x); refine keep_cut_fst (m := M) (s := b0) x ?_ (fun _ => ?_); subst x)
    | ((with_reducible intro x); refine keep_cut_snd (m := M) (s := b0) x ?_ (fun _ => ?_); subst x)
    | ((with_reducible intro x); refine keep_cut_some (m := M) (s := b0) x ?_ (fun _ => ?_); subst x)
    | ((with_reducible intro x); refine keep_cut_pair (m := M) (s := b0) x ?_ (fun _ => ?_); subst x)
    | ((with_reducible intro x); refine keep_cut_run (m := M) (s := b0) x ?_ (fun _ => ?_); subst x)
    | ((with_reducible intro x); refine cell_id x ?_; subst x) | ((with_reducible intro x); refine fun_id x ?_; subst x)
    | ((with_reducible intro x); clear_value x) | (with_reducible intro _) | lift_lets
    | ((with_reducible refine touch_below hm ?_); rfl) | with_reducible refine dropOpen_keep ?_ ?_
    | with_reducible refine keepItems_keep ?_ ?_ | with_reducible refine unloadImages_keep ?_ ?_
    | with_reducible refine modCtx_keep ?_ ?_ | (with_reducible dsimp -zeta only [keep_mk])
    | with_reducible refine keep_tags_attic ?_ ?_ | with_reducible refine keep_tags ?_ ?_
    | with_reducible refine keep_elim ?_ ?_ | with_reducible refine keep_getD ?_ ?_
    | with_reducible refine keep_foldl_fst ?_ ?_ | with_reducible refine keep_repeat ?_ ?_
    | with_reducible refine keep_foldl_snd ?_ ?_ | with_reducible refine keep_ite ?_ ?_
    | with_reducible refine keep_foldl ?_ ?_ | with_reducible exact keep_of_fst (by assumption) (by assumption)
    | with_reducible exact keep_enter (by assumption) (by assumption)
    | with_reducible exact keepSome_elim (by assumption) (by assumption)
    | with_reducible exact keepPair_elim (by assumption) (by assumption)
    | with_reducible exact keepPair_elim2 (by assumption) (by assumption)
    | with_reducible exact keep_of_snd (by assumption) (by assumption) | split | with_reducible refine keepSome_bind ?_
    | with_reducible refine keepSome_elim ?_ (by assumption) | (cases ‹_ = some _›) | (with_reducible dsimp only))

theorem withdrawHeld_keep {M : Touch} {b0 : State} {s : State} {c : Nat} {sid : Nat} (hm : ({ fns := true, ctxs := true, tags := true, host := true } : Touch).le M = true) (hs : Keep M b0 s) :
    Keep M b0 (withdrawHeld s c sid) := by
  unfold withdrawHeld
  repeat' (first
    | with_reducible assumption | ((with_reducible intro x); refine keep_cut (m := M) (s := b0) x ?_ (fun _ => ?_); subst x)
    | (with_reducible intro _) | ((with_reducible refine touch_below hm ?_); rfl) | with_reducible refine modCtx_keep ?_ ?_
    | with_reducible refine closeOpen_keep ?_ ?_ | with_reducible refine keep_foldl ?_ ?_ | split)

theorem settleStream_keep {M : Touch} {b0 : State} {s : State} {c : Nat} {sid : Nat} (hm : ({ fns := true, ctxs := true, tags := true, plans := true, host := true } : Touch).le M = true) (hs : Keep M b0 s) :
    Keep M b0 (settleStream s c sid) := by
  unfold settleStream
  repeat' (first
    | with_reducible assumption | ((with_reducible intro x); refine keep_cut (m := M) (s := b0) x ?_ (fun _ => ?_); subst x)
    | (with_reducible intro _) | ((with_reducible refine touch_below hm ?_); rfl)
    | with_reducible refine withdrawHeld_keep ?_ ?_ | with_reducible refine modCtx_keep ?_ ?_
    | with_reducible refine keepItems_keep ?_ ?_ | with_reducible refine closeOpen_keep ?_ ?_ | split
    | (with_reducible dsimp only))

theorem settleStreams_keep {M : Touch} {b0 : State} {s : State} {c : Nat} (hm : ({ fns := true, ctxs := true, tags := true, plans := true, host := true } : Touch).le M = true) (hs : Keep M b0 s) :
    Keep M b0 (settleStreams s c) := by
  unfold settleStreams
  repeat' (first
    | with_reducible assumption | (with_reducible intro _) | with_reducible refine settleStream_keep ?_ ?_
    | with_reducible refine keep_foldl ?_ ?_)

theorem startClosing_keep {M : Touch} {b0 : State} {s : State} {c : Nat} (hm : ({ fns := true, ctxs := true, tags := true, plans := true, host := true } : Touch).le M = true) (hs : Keep M b0 s) :
    Keep M b0 (startClosing s c) := by
  unfold startClosing
  repeat' (first
    | with_reducible assumption | ((with_reducible intro x); refine keep_cut (m := M) (s := b0) x ?_ (fun _ => ?_); subst x)
    | (with_reducible intro _) | ((with_reducible refine touch_below hm ?_); rfl)
    | with_reducible refine withdrawPlan_keep ?_ ?_ | with_reducible refine settleStreams_keep ?_ ?_
    | with_reducible refine modCtx_keep ?_ ?_ | with_reducible refine keep_foldl ?_ ?_ | split)

theorem settleClose_keep {M : Touch} {b0 : State} {s : State} {c : Nat} {o : OpenDesc} (hm : ({ fns := true, ctxs := true, tags := true, plans := true, host := true } : Touch).le M = true) (hs : Keep M b0 s) :
    Keep M b0 (settleClose s c o) := by
  unfold settleClose
  repeat' (first
    | with_reducible assumption | ((with_reducible intro x); refine keep_cut (m := M) (s := b0) x ?_ (fun _ => ?_); subst x)
    | (with_reducible intro _) | ((with_reducible refine touch_below hm ?_); rfl) | with_reducible refine closeOpen_keep ?_ ?_
    | with_reducible refine modCtx_keep ?_ ?_ | with_reducible refine startClosing_keep ?_ ?_ | split)

theorem settlePass_keep {M : Touch} {b0 : State} {s : State} (hm : ({ fns := true, ctxs := true, tags := true, plans := true, limbo := true, attic := true, host := true } : Touch).le M = true) (hs : Keep M b0 s) :
    Keep M b0 (settlePass s) := by
  unfold settlePass
  repeat' (first
    | with_reducible assumption | ((with_reducible intro x); refine keep_cut (m := M) (s := b0) x ?_ (fun _ => ?_); subst x)
    | (with_reducible intro _) | ((with_reducible refine touch_below hm ?_); rfl)
    | with_reducible refine settleStreams_keep ?_ ?_ | with_reducible refine closeNow_keep ?_ ?_
    | with_reducible refine settleClose_keep ?_ ?_ | with_reducible refine keep_foldl ?_ ?_ | split)

theorem settle_keep {M : Touch} {b0 : State} {s : State} (hm : ({ fns := true, ctxs := true, tags := true, plans := true, limbo := true, attic := true, host := true } : Touch).le M = true) (hs : Keep M b0 s) :
    Keep M b0 (settle s) := by
  unfold settle
  repeat' (first | with_reducible assumption | with_reducible refine settlePass_keep ?_ ?_)

theorem pageRefuse_keep {M : Touch} {b0 : State} {s : State} {f : Nat} (hm : ({ fns := true } : Touch).le M = true) (hs : Keep M b0 s) :
    Keep M b0 (pageRefuse s f) := by
  unfold pageRefuse
  repeat' (first | with_reducible assumption | with_reducible refine modFn_keep ?_ ?_)

theorem crOpen_keep {M : Touch} {b0 : State} {s : State} {f : Nat} (hm : ({ fns := true, ctxs := true } : Touch).le M = true) (hs : Keep M b0 s) :
    Keep M b0 (crOpen s f) := by
  unfold crOpen
  repeat' (first
    | with_reducible assumption | (with_reducible intro _) | ((with_reducible refine touch_below hm ?_); rfl)
    | with_reducible refine pageRefuse_keep ?_ ?_ | with_reducible refine openCtx_keep ?_ ?_ | split
    | (with_reducible dsimp only))

theorem crClose_keep {M : Touch} {b0 : State} {s : State} {f : Nat} (hm : ({ fns := true, ctxs := true, tags := true, plans := true, limbo := true, attic := true, host := true } : Touch).le M = true) (hs : Keep M b0 s) :
    Keep M b0 (crClose s f) := by
  unfold crClose
  repeat' (first
    | with_reducible assumption | (with_reducible intro _) | ((with_reducible refine touch_below hm ?_); rfl)
    | with_reducible refine pageRefuse_keep ?_ ?_ | with_reducible refine settle_keep ?_ ?_
    | with_reducible refine startClosing_keep ?_ ?_ | split)

theorem crReset_keep {M : Touch} {b0 : State} {s : State} {f : Nat} (hm : ({ fns := true, ctxs := true, tags := true, plans := true, limbo := true, attic := true, host := true } : Touch).le M = true) (hs : Keep M b0 s) :
    Keep M b0 (crReset s f) := by
  unfold crReset
  repeat' (first
    | with_reducible assumption | (with_reducible intro _) | ((with_reducible refine touch_below hm ?_); rfl)
    | with_reducible refine pageRefuse_keep ?_ ?_ | with_reducible refine settle_keep ?_ ?_
    | with_reducible refine closeNow_keep ?_ ?_ | with_reducible refine silencePlans_keep ?_ ?_ | split)

theorem crCtl_keep {M : Touch} {b0 : State} {s : State} {f : Nat} {w : Word} (hm : ({ fns := true, ctxs := true, tags := true, plans := true, limbo := true, attic := true, host := true } : Touch).le M = true) (hs : Keep M b0 s) :
    Keep M b0 (crCtl s f w) := by
  unfold crCtl
  repeat' (first
    | with_reducible assumption | (with_reducible intro _) | ((with_reducible refine touch_below hm ?_); rfl)
    | with_reducible refine pageRefuse_keep ?_ ?_ | with_reducible refine crOpen_keep ?_ ?_
    | with_reducible refine crClose_keep ?_ ?_ | with_reducible refine crReset_keep ?_ ?_ | split)

theorem execCrOpen_keep {M : Touch} {b0 : State} {fn : Nat} {value : Word} {s : State} (hm : ({ fns := true, ctxs := true, tags := true, plans := true, limbo := true, attic := true, host := true } : Touch).le M = true) (hs : Keep M b0 s) :
    KeepOut M b0 (execCrOpen fn value s) := by
  unfold execCrOpen
  repeat' (first
    | with_reducible assumption | with_reducible refine keepOut_next ?_ | with_reducible refine crCtl_keep ?_ ?_)

theorem execCrClose_keep {M : Touch} {b0 : State} {fn : Nat} {value : Word} {s : State} (hm : ({ fns := true, ctxs := true, tags := true, plans := true, limbo := true, attic := true, host := true } : Touch).le M = true) (hs : Keep M b0 s) :
    KeepOut M b0 (execCrClose fn value s) := by
  unfold execCrClose
  repeat' (first
    | with_reducible assumption | with_reducible refine keepOut_next ?_ | with_reducible refine crCtl_keep ?_ ?_)

theorem execCrReset_keep {M : Touch} {b0 : State} {fn : Nat} {value : Word} {s : State} (hm : ({ fns := true, ctxs := true, tags := true, plans := true, limbo := true, attic := true, host := true } : Touch).le M = true) (hs : Keep M b0 s) :
    KeepOut M b0 (execCrReset fn value s) := by
  unfold execCrReset
  repeat' (first
    | with_reducible assumption | with_reducible refine keepOut_next ?_ | with_reducible refine crCtl_keep ?_ ?_)

theorem resetFn_keep {M : Touch} {b0 : State} {s : State} {f : Nat} (hm : ({ fns := true, ctxs := true, tags := true, plans := true, limbo := true, attic := true } : Touch).le M = true) (hs : Keep M b0 s) :
    Keep M b0 (resetFn s f) := by
  unfold resetFn
  repeat' (first
    | with_reducible assumption | ((with_reducible intro x); refine keep_cut (m := M) (s := b0) x ?_ (fun _ => ?_); subst x)
    | (with_reducible intro _) | ((with_reducible refine touch_below hm ?_); rfl) | with_reducible refine closeNow_keep ?_ ?_
    | with_reducible refine silencePlans_keep ?_ ?_ | with_reducible refine modFn_keep ?_ ?_
    | with_reducible refine keep_foldl ?_ ?_)

theorem flrRecord_keep {M : Touch} {b0 : State} {s : State} {f : Nat} {n : Nat} (hm : ({ flog := true } : Touch).le M = true) (hs : Keep M b0 s) :
    Keep M b0 (flrRecord s f n) := by
  unfold flrRecord
  repeat' (first
    | with_reducible assumption | (with_reducible intro _) | with_reducible refine logFault_keep ?_ ?_ | split)

theorem flrVf_keep {M : Touch} {b0 : State} {s : State} {f : Nat} (hm : ({ fns := true, ctxs := true, tags := true, plans := true, limbo := true, flog := true, attic := true, host := true } : Touch).le M = true) (hs : Keep M b0 s) :
    Keep M b0 (flrVf s f) := by
  unfold flrVf
  repeat' (first
    | with_reducible assumption | (with_reducible intro _) | ((with_reducible refine touch_below hm ?_); rfl)
    | with_reducible refine settle_keep ?_ ?_ | with_reducible refine flrRecord_keep ?_ ?_
    | with_reducible refine resetFn_keep ?_ ?_ | split)

theorem removeVf_keep {M : Touch} {b0 : State} {s : State} {f : Nat} (hm : ({ fns := true } : Touch).le M = true) (hs : Keep M b0 s) :
    Keep M b0 (removeVf s f) := by
  unfold removeVf
  repeat' (first | with_reducible assumption | with_reducible refine modFn_keep ?_ ?_)

theorem flrGone_keep {M : Touch} {b0 : State} {s : State} {f : Nat} (hm : ({ fns := true, ctxs := true, tags := true, plans := true, limbo := true, flog := true, attic := true } : Touch).le M = true) (hs : Keep M b0 s) :
    Keep M b0 (flrGone s f) := by
  unfold flrGone
  repeat' (first
    | with_reducible assumption | (with_reducible exact keep_refl _ _) | with_reducible refine keepOut_next ?_
    | ((with_reducible intro x); refine keep_cut (m := M) (s := b0) x ?_ (fun _ => ?_); subst x)
    | ((with_reducible intro x); refine keep_cut_fst (m := M) (s := b0) x ?_ (fun _ => ?_); subst x)
    | ((with_reducible intro x); refine keep_cut_snd (m := M) (s := b0) x ?_ (fun _ => ?_); subst x)
    | ((with_reducible intro x); refine keep_cut_some (m := M) (s := b0) x ?_ (fun _ => ?_); subst x)
    | ((with_reducible intro x); refine keep_cut_pair (m := M) (s := b0) x ?_ (fun _ => ?_); subst x)
    | ((with_reducible intro x); refine keep_cut_run (m := M) (s := b0) x ?_ (fun _ => ?_); subst x)
    | ((with_reducible intro x); refine cell_id x ?_; subst x) | ((with_reducible intro x); refine fun_id x ?_; subst x)
    | ((with_reducible intro x); clear_value x) | (with_reducible intro _) | lift_lets
    | ((with_reducible refine touch_below hm ?_); rfl) | with_reducible refine removeVf_keep ?_ ?_
    | with_reducible refine flrRecord_keep ?_ ?_ | with_reducible refine resetFn_keep ?_ ?_
    | with_reducible refine keep_elim ?_ ?_ | with_reducible refine keep_getD ?_ ?_
    | with_reducible refine keep_foldl_fst ?_ ?_ | with_reducible refine keep_repeat ?_ ?_
    | with_reducible refine keep_foldl_snd ?_ ?_ | with_reducible refine keep_ite ?_ ?_
    | with_reducible refine keep_foldl ?_ ?_ | with_reducible exact keep_of_fst (by assumption) (by assumption)
    | with_reducible exact keep_enter (by assumption) (by assumption)
    | with_reducible exact keepSome_elim (by assumption) (by assumption)
    | with_reducible exact keepPair_elim (by assumption) (by assumption)
    | with_reducible exact keepPair_elim2 (by assumption) (by assumption)
    | with_reducible exact keep_of_snd (by assumption) (by assumption) | split | with_reducible refine keepSome_bind ?_
    | with_reducible refine keepSome_elim ?_ (by assumption) | (cases ‹_ = some _›) | (with_reducible dsimp only))

theorem flrPf_keep {M : Touch} {b0 : State} {s : State} (hm : ({ dev := true, fns := true, ctxs := true, tags := true, plans := true, limbo := true, flog := true, attic := true } : Touch).le M = true) (hs : Keep M b0 s) :
    Keep M b0 (flrPf s) := by
  unfold flrPf
  repeat' (first
    | with_reducible assumption | (with_reducible exact keep_refl _ _) | with_reducible refine keepOut_next ?_
    | ((with_reducible intro x); refine keep_cut (m := M) (s := b0) x ?_ (fun _ => ?_); subst x)
    | ((with_reducible intro x); refine keep_cut_fst (m := M) (s := b0) x ?_ (fun _ => ?_); subst x)
    | ((with_reducible intro x); refine keep_cut_snd (m := M) (s := b0) x ?_ (fun _ => ?_); subst x)
    | ((with_reducible intro x); refine keep_cut_some (m := M) (s := b0) x ?_ (fun _ => ?_); subst x)
    | ((with_reducible intro x); refine keep_cut_pair (m := M) (s := b0) x ?_ (fun _ => ?_); subst x)
    | ((with_reducible intro x); refine keep_cut_run (m := M) (s := b0) x ?_ (fun _ => ?_); subst x)
    | ((with_reducible intro x); refine cell_id x ?_; subst x) | ((with_reducible intro x); refine fun_id x ?_; subst x)
    | ((with_reducible intro x); clear_value x) | (with_reducible intro _) | lift_lets
    | ((with_reducible refine touch_below hm ?_); rfl) | with_reducible refine flrGone_keep ?_ ?_
    | with_reducible refine resetFn_keep ?_ ?_ | with_reducible refine flrRecord_keep ?_ ?_
    | (with_reducible dsimp -zeta only [keep_mk]) | with_reducible refine keep_dev ?_ ?_
    | with_reducible refine keep_ctxs ?_ ?_ | with_reducible refine keep_elim ?_ ?_ | with_reducible refine keep_getD ?_ ?_
    | with_reducible refine keep_foldl_fst ?_ ?_ | with_reducible refine keep_repeat ?_ ?_
    | with_reducible refine keep_foldl_snd ?_ ?_ | with_reducible refine keep_ite ?_ ?_
    | with_reducible refine keep_foldl ?_ ?_ | with_reducible exact keep_of_fst (by assumption) (by assumption)
    | with_reducible exact keep_enter (by assumption) (by assumption)
    | with_reducible exact keepSome_elim (by assumption) (by assumption)
    | with_reducible exact keepPair_elim (by assumption) (by assumption)
    | with_reducible exact keepPair_elim2 (by assumption) (by assumption)
    | with_reducible exact keep_of_snd (by assumption) (by assumption) | split | with_reducible refine keepSome_bind ?_
    | with_reducible refine keepSome_elim ?_ (by assumption) | (cases ‹_ = some _›) | (with_reducible dsimp only))

theorem execFlrVf_keep {M : Touch} {b0 : State} {fn : Nat} {s : State} (hm : ({ fns := true, ctxs := true, tags := true, plans := true, limbo := true, flog := true, attic := true, host := true } : Touch).le M = true) (hs : Keep M b0 s) :
    KeepOut M b0 (execFlrVf fn s) := by
  unfold execFlrVf
  repeat' (first
    | with_reducible assumption | with_reducible refine keepOut_next ?_ | with_reducible refine flrVf_keep ?_ ?_)

theorem execFlrPf_keep {M : Touch} {b0 : State} {s : State} (hm : ({ dev := true, fns := true, ctxs := true, tags := true, plans := true, limbo := true, flog := true, attic := true } : Touch).le M = true) (hs : Keep M b0 s) :
    KeepOut M b0 (execFlrPf s) := by
  unfold execFlrPf
  repeat' (first
    | with_reducible assumption | with_reducible refine keepOut_next ?_ | with_reducible refine flrPf_keep ?_ ?_)

theorem powerState_keep {M : Touch} {b0 : State} {s : State} {f : Nat} {d3 : Bool} (hm : ({ fns := true } : Touch).le M = true) (hs : Keep M b0 s) :
    Keep M b0 (powerState s f d3) := by
  unfold powerState
  repeat' (first | with_reducible assumption | (with_reducible intro _) | with_reducible refine modFn_keep ?_ ?_ | split)

theorem execPowerStateWrite_keep {M : Touch} {b0 : State} {fn : Nat} {d3hot : Bool} {s : State} (hm : ({ fns := true } : Touch).le M = true) (hs : Keep M b0 s) :
    KeepOut M b0 (execPowerStateWrite fn d3hot s) := by
  unfold execPowerStateWrite
  repeat' (first
    | with_reducible assumption | with_reducible refine keepOut_next ?_ | with_reducible refine powerState_keep ?_ ?_)

theorem vfEnable_keep {M : Touch} {b0 : State} {s : State} {enable : Bool} {n : Nat} (hm : ({ dev := true, fns := true, ctxs := true, tags := true, plans := true, limbo := true, attic := true, host := true } : Touch).le M = true) (hs : Keep M b0 s) :
    Keep M b0 (vfEnable s enable n) := by
  unfold vfEnable
  repeat' (first
    | with_reducible assumption | ((with_reducible intro x); refine keep_cut (m := M) (s := b0) x ?_ (fun _ => ?_); subst x)
    | (with_reducible intro _) | ((with_reducible refine touch_below hm ?_); rfl) | with_reducible refine setFn_keep ?_ ?_
    | with_reducible refine removeVf_keep ?_ ?_ | with_reducible refine resetFn_keep ?_ ?_
    | with_reducible refine settle_keep ?_ ?_ | (with_reducible dsimp -zeta only [keep_mk])
    | with_reducible refine keep_dev ?_ ?_ | with_reducible refine keep_foldl ?_ ?_ | split | (with_reducible dsimp only))

theorem execVfEnableWrite_keep {M : Touch} {b0 : State} {enable : Bool} {numVfs : Nat} {s : State} (hm : ({ dev := true, fns := true, ctxs := true, tags := true, plans := true, limbo := true, attic := true, host := true } : Touch).le M = true) (hs : Keep M b0 s) :
    KeepOut M b0 (execVfEnableWrite enable numVfs s) := by
  unfold execVfEnableWrite
  repeat' (first
    | with_reducible assumption | with_reducible refine keepOut_next ?_ | with_reducible refine vfEnable_keep ?_ ?_)

end Sys2Proof.Laws
end

