-- ==== Sys2Proof/Laws/KeepRegisters.lean ====
section
/-! SUPPORT. What each operation of Machine/Registers.lean may change. -/
namespace Sys2Proof.Laws

open Sys2Proof Sys2Proof.Machine
set_option linter.unusedVariables false

theorem pwrRefuse_keep {M : Touch} {b0 : State} {s : State} (hm : ({ pwr := true } : Touch).le M = true) (hs : Keep M b0 s) :
    Keep M b0 (pwrRefuse s) := by
  unfold pwrRefuse
  repeat' (first
    | with_reducible assumption | (with_reducible dsimp -zeta only [keep_mk]) | with_reducible refine keep_pwr ?_ ?_)

theorem assignRefuse_keep {M : Touch} {b0 : State} {s : State} (hm : ({ dev := true } : Touch).le M = true) (hs : Keep M b0 s) :
    Keep M b0 (assignRefuse s) := by
  unfold assignRefuse
  repeat' (first
    | with_reducible assumption | (with_reducible dsimp -zeta only [keep_mk]) | with_reducible refine keep_dev ?_ ?_)

theorem w1cWrite_keep {M : Touch} {b0 : State} {s : State} {f : Nat} {off : Nat} {v : Word} {hw : Word} (hm : ({ dev := true, tick := true, pwr := true, fns := true } : Touch).le M = true) (hs : Keep M b0 s) :
    Keep M b0 (w1cWrite s f off v hw) := by
  unfold w1cWrite
  repeat' (first
    | with_reducible assumption | (with_reducible intro _) | ((with_reducible refine touch_below hm ?_); rfl)
    | with_reducible refine modFn_keep ?_ ?_ | with_reducible refine tickRefuse_keep ?_ ?_
    | with_reducible refine pwrRefuse_keep ?_ ?_ | (with_reducible dsimp -zeta only [keep_mk])
    | with_reducible refine keep_pwr ?_ ?_ | with_reducible refine keep_tick ?_ ?_ | with_reducible refine keep_dev ?_ ?_
    | split)

theorem execW1cFlagClear_keep {M : Touch} {b0 : State} {fn : Nat} {offset : Nat} {value : Word} {sets : Word} {s : State} (hm : ({ dev := true, tick := true, pwr := true, fns := true } : Touch).le M = true) (hs : Keep M b0 s) :
    KeepOut M b0 (execW1cFlagClear fn offset value sets s) := by
  unfold execW1cFlagClear
  repeat' (first
    | with_reducible assumption | with_reducible refine keepOut_next ?_ | (with_reducible intro _)
    | with_reducible refine w1cWrite_keep ?_ ?_ | split)

theorem crWrite_keep {M : Touch} {b0 : State} {s : State} {f : Nat} {g : FnPage → FnPage} (hm : ({ fns := true } : Touch).le M = true) (hs : Keep M b0 s) :
    Keep M b0 (crWrite s f g) := by
  unfold crWrite
  repeat' (first
    | with_reducible assumption | (with_reducible intro _) | with_reducible refine modFn_keep ?_ ?_
    | with_reducible refine pageRefuse_keep ?_ ?_ | split)

theorem frCfgWrite_keep {M : Touch} {b0 : State} {s : State} {f : Nat} {v : Word} (hm : ({ fns := true } : Touch).le M = true) (hs : Keep M b0 s) :
    Keep M b0 (frCfgWrite s f v) := by
  unfold frCfgWrite
  repeat' (first
    | with_reducible assumption | (with_reducible intro _) | with_reducible refine pageRefuse_keep ?_ ?_
    | with_reducible refine setFn_keep ?_ ?_ | split | (with_reducible dsimp only))

theorem lrCfgWrite_keep {M : Touch} {b0 : State} {s : State} {f : Nat} {v : Word} (hm : ({ fns := true } : Touch).le M = true) (hs : Keep M b0 s) :
    Keep M b0 (lrCfgWrite s f v) := by
  unfold lrCfgWrite
  repeat' (first
    | with_reducible assumption | (with_reducible intro _) | with_reducible refine pageRefuse_keep ?_ ?_
    | with_reducible refine setFn_keep ?_ ?_ | split | (with_reducible dsimp only))

theorem frBaseWrite_keep {M : Touch} {b0 : State} {s : State} {f : Nat} {high : Bool} {v : Word} (hm : ({ fns := true } : Touch).le M = true) (hs : Keep M b0 s) :
    Keep M b0 (frBaseWrite s f high v) := by
  unfold frBaseWrite
  repeat' (first
    | with_reducible assumption | (with_reducible intro _) | with_reducible refine pageRefuse_keep ?_ ?_
    | with_reducible refine modFn_keep ?_ ?_ | split)

theorem lrBaseWrite_keep {M : Touch} {b0 : State} {s : State} {f : Nat} {high : Bool} {v : Word} (hm : ({ fns := true } : Touch).le M = true) (hs : Keep M b0 s) :
    Keep M b0 (lrBaseWrite s f high v) := by
  unfold lrBaseWrite
  repeat' (first
    | with_reducible assumption | (with_reducible intro _) | with_reducible refine pageRefuse_keep ?_ ?_
    | with_reducible refine modFn_keep ?_ ?_ | split)

theorem msixModWrite_keep {M : Touch} {b0 : State} {s : State} {f : Nat} {n : Nat} {v : Word} (hm : ({ fns := true, host := true } : Touch).le M = true) (hs : Keep M b0 s) :
    Keep M b0 (msixModWrite s f n v) := by
  unfold msixModWrite
  repeat' (first
    | with_reducible assumption | ((with_reducible intro x); refine keep_cut (m := M) (s := b0) x ?_ (fun _ => ?_); subst x)
    | (with_reducible intro _) | ((with_reducible refine touch_below hm ?_); rfl)
    | with_reducible refine pageRefuse_keep ?_ ?_ | with_reducible refine sendVec_keep ?_ ?_
    | with_reducible refine modFn_keep ?_ ?_ | split | (with_reducible dsimp only))

theorem firePending_keep {M : Touch} {b0 : State} {s : State} {f : Nat} {n : Nat} (hm : ({ fns := true, host := true } : Touch).le M = true) (hs : Keep M b0 s) :
    Keep M b0 (firePending s f n) := by
  unfold firePending
  repeat' (first
    | ((with_reducible intro x); refine keep_cut (m := M) (s := b0) x ?_ (fun _ => ?_); subst x) | (with_reducible intro _)
    | ((with_reducible refine touch_below hm ?_); rfl) | with_reducible refine setFn_keep ?_ ?_
    | (with_reducible dsimp -zeta only [keep_mk]) | with_reducible refine keep_host ?_ ?_ ?_
    | with_reducible refine hostWrite_ok ?_ | split | (with_reducible dsimp only))
  all_goals assumption

theorem vectorMask_keep {M : Touch} {b0 : State} {s : State} {f : Nat} {v : Option Nat} {m : Bool} (hm : ({ fns := true, host := true } : Touch).le M = true) (hs : Keep M b0 s) :
    Keep M b0 (vectorMask s f v m) := by
  unfold vectorMask
  repeat' (first
    | with_reducible assumption | (with_reducible intro _) | ((with_reducible refine touch_below hm ?_); rfl)
    | with_reducible refine firePending_keep ?_ ?_ | with_reducible refine modFn_keep ?_ ?_
    | with_reducible refine keep_foldl ?_ ?_ | split)

theorem tableWrite_keep {M : Touch} {b0 : State} {s : State} {f : Nat} {n : Nat} {w : Nat} {v : Word} (hm : ({ fns := true, host := true } : Touch).le M = true) (hs : Keep M b0 s) :
    Keep M b0 (tableWrite s f n w v) := by
  unfold tableWrite
  repeat' (first
    | with_reducible assumption | ((with_reducible refine touch_below hm ?_); rfl) | with_reducible refine modFn_keep ?_ ?_
    | with_reducible refine vectorMask_keep ?_ ?_ | split)

theorem pageWrite_keep {M : Touch} {b0 : State} {s : State} {f : Nat} {off : Nat} {v : Word} (hm : ({ dev := true, tick := true, pwr := true, fns := true, ctxs := true, tags := true, plans := true, limbo := true, attic := true, host := true } : Touch).le M = true) (hs : Keep M b0 s) :
    Keep M b0 (pageWrite s f off v) := by
  unfold pageWrite
  repeat' (first
    | with_reducible assumption | (with_reducible intro _) | ((with_reducible refine touch_below hm ?_); rfl)
    | with_reducible refine w1cWrite_keep ?_ ?_ | with_reducible refine crWrite_keep ?_ ?_
    | with_reducible refine crCtl_keep ?_ ?_ | with_reducible refine frBaseWrite_keep ?_ ?_
    | with_reducible refine frCfgWrite_keep ?_ ?_ | with_reducible refine lrBaseWrite_keep ?_ ?_
    | with_reducible refine lrCfgWrite_keep ?_ ?_ | with_reducible refine msixModWrite_keep ?_ ?_
    | with_reducible refine tableWrite_keep ?_ ?_ | split)

theorem assignOwner_keep {M : Touch} {b0 : State} {s : State} {c : Nat} {v : Word} (hm : ({ dev := true, ctxs := true } : Touch).le M = true) (hs : Keep M b0 s) :
    Keep M b0 (assignOwner s c v) := by
  unfold assignOwner
  repeat' (first
    | with_reducible assumption | (with_reducible intro _) | ((with_reducible refine touch_below hm ?_); rfl)
    | with_reducible refine assignRefuse_keep ?_ ?_ | with_reducible refine setCtx_keep ?_ ?_ | split
    | (with_reducible dsimp only))

theorem assignPasid_keep {M : Touch} {b0 : State} {s : State} {c : Nat} {v : Word} (hm : ({ dev := true, ctxs := true } : Touch).le M = true) (hs : Keep M b0 s) :
    Keep M b0 (assignPasid s c v) := by
  unfold assignPasid
  repeat' (first
    | with_reducible assumption | (with_reducible intro _) | ((with_reducible refine touch_below hm ?_); rfl)
    | with_reducible refine assignRefuse_keep ?_ ?_ | with_reducible refine setCtx_keep ?_ ?_ | split
    | (with_reducible dsimp only))

theorem assignQuota_keep {M : Touch} {b0 : State} {s : State} {c : Nat} {v : Word} (hm : ({ dev := true, ctxs := true } : Touch).le M = true) (hs : Keep M b0 s) :
    Keep M b0 (assignQuota s c v) := by
  unfold assignQuota
  repeat' (first
    | with_reducible assumption | (with_reducible intro _) | ((with_reducible refine touch_below hm ?_); rfl)
    | with_reducible refine assignRefuse_keep ?_ ?_ | with_reducible refine setCtx_keep ?_ ?_ | split
    | (with_reducible dsimp only))

theorem assignWrite_keep {M : Touch} {b0 : State} {s : State} {c : Nat} {w : Nat} {v : Word} (hm : ({ dev := true, ctxs := true } : Touch).le M = true) (hs : Keep M b0 s) :
    Keep M b0 (assignWrite s c w v) := by
  unfold assignWrite
  repeat' (first
    | with_reducible assumption | (with_reducible intro _) | ((with_reducible refine touch_below hm ?_); rfl)
    | with_reducible refine assignRefuse_keep ?_ ?_ | with_reducible refine assignOwner_keep ?_ ?_
    | with_reducible refine assignPasid_keep ?_ ?_ | with_reducible refine assignQuota_keep ?_ ?_ | split)

theorem pwrCapWrite_keep {M : Touch} {b0 : State} {s : State} {v : Word} (hm : ({ pwr := true } : Touch).le M = true) (hs : Keep M b0 s) :
    Keep M b0 (pwrCapWrite s v) := by
  unfold pwrCapWrite
  repeat' (first
    | with_reducible assumption | (with_reducible intro _) | with_reducible refine pwrRefuse_keep ?_ ?_
    | with_reducible refine lowerCaps_keep ?_ ?_ | (with_reducible dsimp -zeta only [keep_mk])
    | with_reducible refine keep_pwr ?_ ?_ | split | (with_reducible dsimp only))

theorem write32_keep {M : Touch} {b0 : State} {s : State} {f : Nat} {off : Nat} {time : Nat} {v : Word} (hm : ({ now := true, dev := true, tick := true, pwr := true, fns := true, ctxs := true, tags := true, plans := true, limbo := true, flog := true, attic := true, host := true } : Touch).le M = true) (hs : Keep M b0 s) :
    Keep M b0 (write32 s f off time v) := by
  unfold write32
  repeat' (first
    | with_reducible assumption | (with_reducible intro _) | ((with_reducible refine touch_below hm ?_); rfl)
    | with_reducible refine w1cWrite_keep ?_ ?_ | with_reducible refine pageWrite_keep ?_ ?_
    | with_reducible refine assignWrite_keep ?_ ?_ | with_reducible refine writeTickCtl_keep ?_ ?_
    | with_reducible refine writeTickPeriod_keep ?_ ?_ | with_reducible refine writeOffsetLo_keep ?_ ?_
    | with_reducible refine writeOffsetHi_keep ?_ ?_ | with_reducible refine tickRefuse_keep ?_ ?_
    | with_reducible refine pwrCapWrite_keep ?_ ?_ | with_reducible refine pwrRefuse_keep ?_ ?_
    | (with_reducible dsimp -zeta only [keep_mk]) | with_reducible refine keep_flog ?_ ?_ | split)

theorem barWrite_keep {M : Touch} {b0 : State} {s : State} {f : Nat} {off : Nat} {size : Nat} {time : Nat} {v : DWord} (hm : ({ now := true, dev := true, tick := true, pwr := true, fns := true, ctxs := true, tags := true, plans := true, limbo := true, flog := true, attic := true, host := true } : Touch).le M = true) (hs : Keep M b0 s) :
    Keep M b0 (barWrite s f off size time v) := by
  unfold barWrite
  repeat' (first
    | with_reducible assumption | (with_reducible intro _) | with_reducible refine write32_keep ?_ ?_ | split)

theorem execRegisterWrite_keep {M : Touch} {b0 : State} {fn : Nat} {offset : Nat} {size : Nat} {time : Nat} {value : DWord} {s : State} (hm : ({ now := true, dev := true, tick := true, pwr := true, fns := true, ctxs := true, tags := true, plans := true, limbo := true, flog := true, attic := true, host := true } : Touch).le M = true) (hs : Keep M b0 s) :
    KeepOut M b0 (execRegisterWrite fn offset size time value s) := by
  unfold execRegisterWrite
  repeat' (first
    | with_reducible assumption | with_reducible refine keepOut_next ?_ | with_reducible refine barWrite_keep ?_ ?_)

theorem regWrite_keep {M : Touch} {b0 : State} {s : State} {f : Nat} {off : Nat} {v : Word} (hm : ({ now := true, dev := true, tick := true, pwr := true, fns := true, ctxs := true, tags := true, plans := true, limbo := true, flog := true, attic := true, host := true } : Touch).le M = true) (hs : Keep M b0 s) :
    Keep M b0 (regWrite s f off v) := by
  unfold regWrite
  repeat' (first
    | with_reducible assumption | (with_reducible intro _) | with_reducible refine write32_keep ?_ ?_ | split)

theorem execFaultRingEnable_keep {M : Touch} {b0 : State} {fn : Nat} {value : Word} {s : State} (hm : ({ now := true, dev := true, tick := true, pwr := true, fns := true, ctxs := true, tags := true, plans := true, limbo := true, flog := true, attic := true, host := true } : Touch).le M = true) (hs : Keep M b0 s) :
    KeepOut M b0 (execFaultRingEnable fn value s) := by
  unfold execFaultRingEnable
  repeat' (first
    | with_reducible assumption | with_reducible refine keepOut_next ?_ | with_reducible refine regWrite_keep ?_ ?_)

theorem execLedgerRingEnable_keep {M : Touch} {b0 : State} {fn : Nat} {value : Word} {s : State} (hm : ({ now := true, dev := true, tick := true, pwr := true, fns := true, ctxs := true, tags := true, plans := true, limbo := true, flog := true, attic := true, host := true } : Touch).le M = true) (hs : Keep M b0 s) :
    KeepOut M b0 (execLedgerRingEnable fn value s) := by
  unfold execLedgerRingEnable
  repeat' (first
    | with_reducible assumption | with_reducible refine keepOut_next ?_ | with_reducible refine regWrite_keep ?_ ?_)

theorem execMsixModWrite_keep {M : Touch} {b0 : State} {fn : Nat} {vector : Nat} {value : Word} {s : State} (hm : ({ now := true, dev := true, tick := true, pwr := true, fns := true, ctxs := true, tags := true, plans := true, limbo := true, flog := true, attic := true, host := true } : Touch).le M = true) (hs : Keep M b0 s) :
    KeepOut M b0 (execMsixModWrite fn vector value s) := by
  unfold execMsixModWrite
  repeat' (first
    | with_reducible assumption | with_reducible refine keepOut_next ?_ | (with_reducible intro _)
    | with_reducible refine regWrite_keep ?_ ?_ | split)

theorem execContextAssignWrite_keep {M : Touch} {b0 : State} {ctx : Nat} {word : Nat} {value : Word} {s : State} (hm : ({ now := true, dev := true, tick := true, pwr := true, fns := true, ctxs := true, tags := true, plans := true, limbo := true, flog := true, attic := true, host := true } : Touch).le M = true) (hs : Keep M b0 s) :
    KeepOut M b0 (execContextAssignWrite ctx word value s) := by
  unfold execContextAssignWrite
  repeat' (first
    | with_reducible assumption | with_reducible refine keepOut_next ?_ | (with_reducible intro _)
    | with_reducible refine regWrite_keep ?_ ?_ | split)

theorem execPwrCapWrite_keep {M : Touch} {b0 : State} {value : Word} {s : State} (hm : ({ now := true, dev := true, tick := true, pwr := true, fns := true, ctxs := true, tags := true, plans := true, limbo := true, flog := true, attic := true, host := true } : Touch).le M = true) (hs : Keep M b0 s) :
    KeepOut M b0 (execPwrCapWrite value s) := by
  unfold execPwrCapWrite
  repeat' (first
    | with_reducible assumption | with_reducible refine keepOut_next ?_ | with_reducible refine regWrite_keep ?_ ?_)

theorem readMetLo_keep {M : Touch} {b0 : State} {s : State} (hm : ({ dev := true, pwr := true } : Touch).le M = true) (hs : Keep M b0 s) :
    Keep M b0 (readMetLo s) := by
  unfold readMetLo
  repeat' (first
    | with_reducible assumption | (with_reducible dsimp -zeta only [keep_mk]) | with_reducible refine keep_dev_pwr ?_ ?_
    | (with_reducible dsimp only))

theorem execPwrMetLoRead_keep {M : Touch} {b0 : State} {s : State} (hm : ({ dev := true, pwr := true } : Touch).le M = true) (hs : Keep M b0 s) :
    KeepOut M b0 (execPwrMetLoRead s) := by
  unfold execPwrMetLoRead
  repeat' (first
    | with_reducible assumption | with_reducible refine keepOut_next ?_ | (with_reducible intro _)
    | with_reducible refine readMetLo_keep ?_ ?_ | split)

theorem readNewestLo_keep {M : Touch} {b0 : State} {s : State} (hm : ({ dev := true, flog := true } : Touch).le M = true) (hs : Keep M b0 s) :
    Keep M b0 (readNewestLo s) := by
  unfold readNewestLo
  repeat' (first
    | with_reducible assumption | (with_reducible dsimp -zeta only [keep_mk]) | with_reducible refine keep_dev_flog ?_ ?_
    | (with_reducible dsimp only))

theorem execFlogNewestLoRead_keep {M : Touch} {b0 : State} {s : State} (hm : ({ dev := true, flog := true } : Touch).le M = true) (hs : Keep M b0 s) :
    KeepOut M b0 (execFlogNewestLoRead s) := by
  unfold execFlogNewestLoRead
  repeat' (first
    | with_reducible assumption | with_reducible refine keepOut_next ?_ | (with_reducible intro _)
    | with_reducible refine readNewestLo_keep ?_ ?_ | split)

theorem execMsixVectorMaskWrite_keep {M : Touch} {b0 : State} {fn : Nat} {vector : Option Nat} {mask : Bool} {s : State} (hm : ({ fns := true, host := true } : Touch).le M = true) (hs : Keep M b0 s) :
    KeepOut M b0 (execMsixVectorMaskWrite fn vector mask s) := by
  unfold execMsixVectorMaskWrite
  repeat' (first
    | with_reducible assumption | with_reducible refine keepOut_next ?_ | (with_reducible intro _)
    | with_reducible refine vectorMask_keep ?_ ?_ | split)

end Sys2Proof.Laws
end

