-- ==== Sys2Proof/Laws/KeepRings.lean ====
section
/-! SUPPORT. What each operation of Machine/Rings.lean may change. -/
namespace Sys2Proof.Laws

open Sys2Proof Sys2Proof.Machine
set_option linter.unusedVariables false

theorem dbDrop_keep {M : Touch} {b0 : State} {s : State} {f : Nat} (hm : ({ fns := true } : Touch).le M = true) (hs : Keep M b0 s) :
    Keep M b0 (dbDrop s f) := by
  unfold dbDrop
  repeat' (first | with_reducible assumption | with_reducible refine modFn_keep ?_ ?_)

theorem returnTags_keep {M : Touch} {b0 : State} {s : State} {c : Nat} {tags : List Nat} (hm : ({ tags := true } : Touch).le M = true) (hs : Keep M b0 s) :
    Keep M b0 (returnTags s c tags) := by
  unfold returnTags
  repeat' (first
    | with_reducible assumption | (with_reducible dsimp -zeta only [keep_mk]) | with_reducible refine keep_tags ?_ ?_)

theorem takeCqHead_keep {M : Touch} {b0 : State} {s : State} {c : Nat} {head : Nat} (hm : ({ ctxs := true, tags := true } : Touch).le M = true) (hs : Keep M b0 s) :
    Keep M b0 (takeCqHead s c head) := by
  unfold takeCqHead
  repeat' (first
    | with_reducible assumption | ((with_reducible refine touch_below hm ?_); rfl)
    | with_reducible refine returnTags_keep ?_ ?_ | with_reducible refine setCtx_keep ?_ ?_)

theorem takeSqTail_keep {M : Touch} {b0 : State} {s : State} {c : Nat} {tail : Nat} (hm : ({ ctxs := true } : Touch).le M = true) (hs : Keep M b0 s) :
    Keep M b0 (takeSqTail s c tail) := by
  unfold takeSqTail
  repeat' (first | with_reducible assumption | with_reducible refine modCtx_keep ?_ ?_)

theorem doorbell0_keep {M : Touch} {b0 : State} {s : State} {f : Nat} {line : Nat} {size : Nat} {v : DWord} (hm : ({ fns := true, ctxs := true, tags := true } : Touch).le M = true) (hs : Keep M b0 s) :
    Keep M b0 (doorbell0 s f line size v) := by
  unfold doorbell0
  repeat' (first
    | with_reducible assumption | ((with_reducible intro x); refine keep_cut (m := M) (s := b0) x ?_ (fun _ => ?_); subst x)
    | (with_reducible intro _) | ((with_reducible refine touch_below hm ?_); rfl) | with_reducible refine dbDrop_keep ?_ ?_
    | with_reducible refine takeCqHead_keep ?_ ?_ | with_reducible refine takeSqTail_keep ?_ ?_ | split
    | (with_reducible dsimp only))

theorem doorbellFault_keep {M : Touch} {b0 : State} {s : State} {f : Nat} {line : Nat} {size : Nat} {v : DWord} (hm : ({ fns := true } : Touch).le M = true) (hs : Keep M b0 s) :
    Keep M b0 (doorbellFault s f line size v) := by
  unfold doorbellFault
  repeat' (first
    | with_reducible assumption | (with_reducible intro _) | with_reducible refine dbDrop_keep ?_ ?_
    | with_reducible refine setFn_keep ?_ ?_ | split | (with_reducible dsimp only))

theorem doorbellLedger_keep {M : Touch} {b0 : State} {s : State} {f : Nat} {line : Nat} {size : Nat} {v : DWord} (hm : ({ fns := true } : Touch).le M = true) (hs : Keep M b0 s) :
    Keep M b0 (doorbellLedger s f line size v) := by
  unfold doorbellLedger
  repeat' (first
    | with_reducible assumption | (with_reducible intro _) | with_reducible refine dbDrop_keep ?_ ?_
    | with_reducible refine setFn_keep ?_ ?_ | split | (with_reducible dsimp only))

theorem execDoorbellFaultHead_keep {M : Touch} {b0 : State} {fn : Nat} {line : Nat} {size : Nat} {value : DWord} {s : State} (hm : ({ fns := true } : Touch).le M = true) (hs : Keep M b0 s) :
    KeepOut M b0 (execDoorbellFaultHead fn line size value s) := by
  unfold execDoorbellFaultHead
  repeat' (first
    | with_reducible assumption | with_reducible refine keepOut_next ?_ | with_reducible refine doorbellFault_keep ?_ ?_)

theorem execDoorbellLedgerHead_keep {M : Touch} {b0 : State} {fn : Nat} {line : Nat} {size : Nat} {value : DWord} {s : State} (hm : ({ fns := true } : Touch).le M = true) (hs : Keep M b0 s) :
    KeepOut M b0 (execDoorbellLedgerHead fn line size value s) := by
  unfold execDoorbellLedgerHead
  repeat' (first
    | with_reducible assumption | with_reducible refine keepOut_next ?_ | with_reducible refine doorbellLedger_keep ?_ ?_)

theorem bar2Write_keep {M : Touch} {b0 : State} {s : State} {f : Nat} {off : Nat} {size : Nat} {v : DWord} (hm : ({ fns := true, ctxs := true, tags := true } : Touch).le M = true) (hs : Keep M b0 s) :
    Keep M b0 (bar2Write s f off size v) := by
  unfold bar2Write
  repeat' (first
    | with_reducible assumption | (with_reducible exact keep_refl _ _) | with_reducible refine keepOut_next ?_
    | ((with_reducible intro x); refine keep_cut (m := M) (s := b0) x ?_ (fun _ => ?_); subst x)
    | ((with_reducible intro x); refine keep_cut_fst (m := M) (s := b0) x ?_ (fun _ => ?_); subst x)
    | ((with_reducible intro x); refine keep_cut_snd (m := M) (s := b0) x ?_ (fun _ => ?_); subst x)
    | ((with_reducible intro x); refine keep_cut_some (m := M) (s := b0) x ?_ (fun _ => ?_); subst x)
    | ((with_reducible intro x); refine keep_cut_pair (m := M) (s := b0) x ?_ (fun _ => ?_); subst x)
    | ((with_reducible intro x); refine keep_cut_run (m := M) (s := b0) x ?_ (fun _ => ?_); subst x)
    | ((with_reducible intro x); refine cell_id x ?_; subst x) | ((with_reducible intro x); refine fun_id x ?_; subst x)
    | ((with_reducible intro x); clear_value x) | (with_reducible intro _) | lift_lets
    | ((with_reducible refine touch_below hm ?_); rfl) | with_reducible refine doorbell0_keep ?_ ?_
    | with_reducible refine doorbellFault_keep ?_ ?_ | with_reducible refine doorbellLedger_keep ?_ ?_
    | with_reducible refine dbDrop_keep ?_ ?_ | with_reducible refine keep_elim ?_ ?_ | with_reducible refine keep_getD ?_ ?_
    | with_reducible refine keep_foldl_fst ?_ ?_ | with_reducible refine keep_repeat ?_ ?_
    | with_reducible refine keep_foldl_snd ?_ ?_ | with_reducible refine keep_ite ?_ ?_
    | with_reducible refine keep_foldl ?_ ?_ | with_reducible exact keep_of_fst (by assumption) (by assumption)
    | with_reducible exact keep_enter (by assumption) (by assumption)
    | with_reducible exact keepSome_elim (by assumption) (by assumption)
    | with_reducible exact keepPair_elim (by assumption) (by assumption)
    | with_reducible exact keepPair_elim2 (by assumption) (by assumption)
    | with_reducible exact keep_of_snd (by assumption) (by assumption) | split | with_reducible refine keepSome_bind ?_
    | with_reducible refine keepSome_elim ?_ (by assumption) | (cases ‹_ = some _›) | (with_reducible dsimp only))

theorem execDoorbellSqCq_keep {M : Touch} {b0 : State} {fn : Nat} {offset : Nat} {size : Nat} {value : DWord} {s : State} (hm : ({ fns := true, ctxs := true, tags := true } : Touch).le M = true) (hs : Keep M b0 s) :
    KeepOut M b0 (execDoorbellSqCq fn offset size value s) := by
  unfold execDoorbellSqCq
  repeat' (first
    | with_reducible assumption | (with_reducible exact keep_refl _ _) | with_reducible refine keepOut_next ?_
    | with_reducible refine keepOut_ite ?_ ?_
    | ((with_reducible intro x); refine keep_cut (m := M) (s := b0) x ?_ (fun _ => ?_); subst x)
    | ((with_reducible intro x); refine keep_cut_fst (m := M) (s := b0) x ?_ (fun _ => ?_); subst x)
    | ((with_reducible intro x); refine keep_cut_snd (m := M) (s := b0) x ?_ (fun _ => ?_); subst x)
    | ((with_reducible intro x); refine keep_cut_some (m := M) (s := b0) x ?_ (fun _ => ?_); subst x)
    | ((with_reducible intro x); refine keep_cut_pair (m := M) (s := b0) x ?_ (fun _ => ?_); subst x)
    | ((with_reducible intro x); refine keep_cut_run (m := M) (s := b0) x ?_ (fun _ => ?_); subst x)
    | ((with_reducible intro x); refine cell_id x ?_; subst x) | ((with_reducible intro x); refine fun_id x ?_; subst x)
    | ((with_reducible intro x); clear_value x) | (with_reducible intro _) | lift_lets
    | ((with_reducible refine touch_below hm ?_); rfl) | with_reducible refine bar2Write_keep ?_ ?_
    | with_reducible refine keep_elim ?_ ?_ | with_reducible refine keep_getD ?_ ?_
    | with_reducible refine keep_foldl_fst ?_ ?_ | with_reducible refine keep_repeat ?_ ?_
    | with_reducible refine keep_foldl_snd ?_ ?_ | with_reducible refine keep_ite ?_ ?_
    | with_reducible refine keep_foldl ?_ ?_ | with_reducible exact keep_of_fst (by assumption) (by assumption)
    | with_reducible exact keep_enter (by assumption) (by assumption)
    | with_reducible exact keepSome_elim (by assumption) (by assumption)
    | with_reducible exact keepPair_elim (by assumption) (by assumption)
    | with_reducible exact keepPair_elim2 (by assumption) (by assumption)
    | with_reducible exact keep_of_snd (by assumption) (by assumption) | split | with_reducible refine keepSome_bind ?_
    | with_reducible refine keepSome_elim ?_ (by assumption) | (cases ‹_ = some _›) | (with_reducible dsimp only))

theorem takeDesc_keep {M : Touch} {b0 : State} {s : State} {c : Nat} {t : Nat} {kept : Option Nat} (hm : ({ ctxs := true, tags := true } : Touch).le M = true) (hs : Keep M b0 s) :
    Keep M b0 (takeDesc s c t kept) := by
  unfold takeDesc
  repeat' (first
    | with_reducible assumption | (with_reducible exact keep_refl _ _) | with_reducible refine keepOut_next ?_
    | ((with_reducible intro x); refine keep_cut (m := M) (s := b0) x ?_ (fun _ => ?_); subst x)
    | ((with_reducible intro x); refine keep_cut_fst (m := M) (s := b0) x ?_ (fun _ => ?_); subst x)
    | ((with_reducible intro x); refine keep_cut_snd (m := M) (s := b0) x ?_ (fun _ => ?_); subst x)
    | ((with_reducible intro x); refine keep_cut_some (m := M) (s := b0) x ?_ (fun _ => ?_); subst x)
    | ((with_reducible intro x); refine keep_cut_pair (m := M) (s := b0) x ?_ (fun _ => ?_); subst x)
    | ((with_reducible intro x); refine keep_cut_run (m := M) (s := b0) x ?_ (fun _ => ?_); subst x)
    | ((with_reducible intro x); refine cell_id x ?_; subst x) | ((with_reducible intro x); refine fun_id x ?_; subst x)
    | ((with_reducible intro x); clear_value x) | (with_reducible intro _) | lift_lets
    | ((with_reducible refine touch_below hm ?_); rfl) | with_reducible refine setCtx_keep ?_ ?_
    | (with_reducible dsimp -zeta only [keep_mk]) | with_reducible refine keep_tags ?_ ?_
    | with_reducible refine keep_elim ?_ ?_ | with_reducible refine keep_getD ?_ ?_
    | with_reducible refine keep_foldl_fst ?_ ?_ | with_reducible refine keep_repeat ?_ ?_
    | with_reducible refine keep_foldl_snd ?_ ?_ | with_reducible refine keep_ite ?_ ?_
    | with_reducible refine keep_foldl ?_ ?_ | with_reducible exact keep_of_fst (by assumption) (by assumption)
    | with_reducible exact keep_enter (by assumption) (by assumption)
    | with_reducible exact keepSome_elim (by assumption) (by assumption)
    | with_reducible exact keepPair_elim (by assumption) (by assumption)
    | with_reducible exact keepPair_elim2 (by assumption) (by assumption)
    | with_reducible exact keep_of_snd (by assumption) (by assumption) | split | with_reducible refine keepSome_bind ?_
    | with_reducible refine keepSome_elim ?_ (by assumption) | (cases ‹_ = some _›) | (with_reducible dsimp only))

theorem fetchDesc_keep {M : Touch} {b0 : State} {s : State} {d : Desc} (hm : ({ ctxs := true, tags := true } : Touch).le M = true) (hs : Keep M b0 s) :
    KeepPair M b0 (fetchDesc s d) := by
  unfold fetchDesc
  repeat' (first
    | with_reducible assumption | (with_reducible exact keep_refl _ _) | with_reducible refine keepOut_next ?_
    | with_reducible refine keepPair_map ?_ | with_reducible exact keepPair_none | with_reducible refine keepPair_some ?_
    | with_reducible refine keepPair_ite ?_ ?_
    | ((with_reducible intro x); refine keep_cut (m := M) (s := b0) x ?_ (fun _ => ?_); subst x)
    | ((with_reducible intro x); refine keep_cut_fst (m := M) (s := b0) x ?_ (fun _ => ?_); subst x)
    | ((with_reducible intro x); refine keep_cut_snd (m := M) (s := b0) x ?_ (fun _ => ?_); subst x)
    | ((with_reducible intro x); refine keep_cut_some (m := M) (s := b0) x ?_ (fun _ => ?_); subst x)
    | ((with_reducible intro x); refine keep_cut_pair (m := M) (s := b0) x ?_ (fun _ => ?_); subst x)
    | ((with_reducible intro x); refine keep_cut_run (m := M) (s := b0) x ?_ (fun _ => ?_); subst x)
    | ((with_reducible intro x); refine cell_id x ?_; subst x) | ((with_reducible intro x); refine fun_id x ?_; subst x)
    | ((with_reducible intro x); clear_value x) | (with_reducible intro _) | lift_lets
    | ((with_reducible refine touch_below hm ?_); rfl) | with_reducible refine setCtx_keep ?_ ?_
    | with_reducible refine takeDesc_keep ?_ ?_ | with_reducible refine keep_elim ?_ ?_
    | with_reducible refine keep_getD ?_ ?_ | with_reducible refine keep_foldl_fst ?_ ?_
    | with_reducible refine keep_repeat ?_ ?_ | with_reducible refine keep_foldl_snd ?_ ?_
    | with_reducible refine keep_ite ?_ ?_ | with_reducible refine keep_foldl ?_ ?_
    | with_reducible exact keep_of_fst (by assumption) (by assumption)
    | with_reducible exact keep_enter (by assumption) (by assumption)
    | with_reducible exact keepSome_elim (by assumption) (by assumption)
    | with_reducible exact keepPair_elim (by assumption) (by assumption)
    | with_reducible exact keepPair_elim2 (by assumption) (by assumption)
    | with_reducible exact keep_of_snd (by assumption) (by assumption) | split | with_reducible refine keepSome_bind ?_
    | with_reducible refine keepSome_elim ?_ (by assumption) | (cases ‹_ = some _›) | (with_reducible dsimp only))

theorem holdDesc_keep {M : Touch} {b0 : State} {s : State} {d : Desc} (hm : ({ ctxs := true, tags := true } : Touch).le M = true) (hs : Keep M b0 s) :
    Keep M b0 (holdDesc s d) := by
  unfold holdDesc
  repeat' (first
    | with_reducible assumption | (with_reducible exact keep_refl _ _) | with_reducible refine keepOut_next ?_
    | ((with_reducible intro x); refine keep_cut (m := M) (s := b0) x ?_ (fun _ => ?_); subst x)
    | ((with_reducible intro x); refine keep_cut_fst (m := M) (s := b0) x ?_ (fun _ => ?_); subst x)
    | ((with_reducible intro x); refine keep_cut_snd (m := M) (s := b0) x ?_ (fun _ => ?_); subst x)
    | ((with_reducible intro x); refine keep_cut_some (m := M) (s := b0) x ?_ (fun _ => ?_); subst x)
    | ((with_reducible intro x); refine keep_cut_pair (m := M) (s := b0) x ?_ (fun _ => ?_); subst x)
    | ((with_reducible intro x); refine keep_cut_run (m := M) (s := b0) x ?_ (fun _ => ?_); subst x)
    | ((with_reducible intro x); refine cell_id x ?_; subst x) | ((with_reducible intro x); refine fun_id x ?_; subst x)
    | ((with_reducible intro x); clear_value x) | (with_reducible intro _) | lift_lets
    | ((with_reducible refine touch_below hm ?_); rfl) | with_reducible refine takeDesc_keep ?_ ?_
    | with_reducible refine keep_elim ?_ ?_ | with_reducible refine keep_getD ?_ ?_
    | with_reducible refine keep_foldl_fst ?_ ?_ | with_reducible refine keep_repeat ?_ ?_
    | with_reducible refine keep_foldl_snd ?_ ?_ | with_reducible refine keep_ite ?_ ?_
    | with_reducible refine keep_foldl ?_ ?_ | with_reducible exact keep_of_fst (by assumption) (by assumption)
    | with_reducible exact keep_enter (by assumption) (by assumption)
    | with_reducible exact keepSome_elim (by assumption) (by assumption)
    | with_reducible exact keepPair_elim (by assumption) (by assumption)
    | with_reducible exact keepPair_elim2 (by assumption) (by assumption)
    | with_reducible exact keep_of_snd (by assumption) (by assumption) | split | with_reducible refine keepSome_bind ?_
    | with_reducible refine keepSome_elim ?_ (by assumption) | (cases ‹_ = some _›) | (with_reducible dsimp only))

theorem finishDesc_keep {M : Touch} {b0 : State} {s : State} {d : Desc} {o : Nat} {tag : Nat} {code : Nat} {aux : Nat} (hm : ({ fns := true, ctxs := true, tags := true, host := true } : Touch).le M = true) (hs : Keep M b0 s) :
    Keep M b0 (finishDesc s d o tag code aux) := by
  unfold finishDesc
  repeat' (first | with_reducible assumption | with_reducible refine postEntry_keep ?_ ?_)

theorem cacheXlat_keep {M : Touch} {b0 : State} {s : State} {c : Nat} (hm : ({ fns := true } : Touch).le M = true) (hs : Keep M b0 s) :
    Keep M b0 (cacheXlat s c) := by
  unfold cacheXlat
  repeat' (first
    | with_reducible assumption | (with_reducible exact keep_refl _ _) | with_reducible refine keepOut_next ?_
    | ((with_reducible intro x); refine keep_cut (m := M) (s := b0) x ?_ (fun _ => ?_); subst x)
    | ((with_reducible intro x); refine keep_cut_fst (m := M) (s := b0) x ?_ (fun _ => ?_); subst x)
    | ((with_reducible intro x); refine keep_cut_snd (m := M) (s := b0) x ?_ (fun _ => ?_); subst x)
    | ((with_reducible intro x); refine keep_cut_some (m := M) (s := b0) x ?_ (fun _ => ?_); subst x)
    | ((with_reducible intro x); refine keep_cut_pair (m := M) (s := b0) x ?_ (fun _ => ?_); subst x)
    | ((with_reducible intro x); refine keep_cut_run (m := M) (s := b0) x ?_ (fun _ => ?_); subst x)
    | ((with_reducible intro x); refine cell_id x ?_; subst x) | ((with_reducible intro x); refine fun_id x ?_; subst x)
    | ((with_reducible intro x); clear_value x) | (with_reducible intro _) | lift_lets
    | ((with_reducible refine touch_below hm ?_); rfl) | with_reducible refine modFn_keep ?_ ?_
    | with_reducible refine keep_elim ?_ ?_ | with_reducible refine keep_getD ?_ ?_
    | with_reducible refine keep_foldl_fst ?_ ?_ | with_reducible refine keep_repeat ?_ ?_
    | with_reducible refine keep_foldl_snd ?_ ?_ | with_reducible refine keep_ite ?_ ?_
    | with_reducible refine keep_foldl ?_ ?_ | with_reducible exact keep_of_fst (by assumption) (by assumption)
    | with_reducible exact keep_enter (by assumption) (by assumption)
    | with_reducible exact keepSome_elim (by assumption) (by assumption)
    | with_reducible exact keepPair_elim (by assumption) (by assumption)
    | with_reducible exact keepPair_elim2 (by assumption) (by assumption)
    | with_reducible exact keep_of_snd (by assumption) (by assumption) | split | with_reducible refine keepSome_bind ?_
    | with_reducible refine keepSome_elim ?_ (by assumption) | (cases ‹_ = some _›) | (with_reducible dsimp only))

theorem openDesc_keep {M : Touch} {b0 : State} {s : State} {d : Desc} {o : Nat} {tag : Nat} {w : WaitKind} (hm : ({ fns := true, ctxs := true } : Touch).le M = true) (hs : Keep M b0 s) :
    Keep M b0 (openDesc s d o tag w) := by
  unfold openDesc
  repeat' (first
    | with_reducible assumption | (with_reducible exact keep_refl _ _) | with_reducible refine keepOut_next ?_
    | ((with_reducible intro x); refine keep_cut (m := M) (s := b0) x ?_ (fun _ => ?_); subst x)
    | ((with_reducible intro x); refine keep_cut_fst (m := M) (s := b0) x ?_ (fun _ => ?_); subst x)
    | ((with_reducible intro x); refine keep_cut_snd (m := M) (s := b0) x ?_ (fun _ => ?_); subst x)
    | ((with_reducible intro x); refine keep_cut_some (m := M) (s := b0) x ?_ (fun _ => ?_); subst x)
    | ((with_reducible intro x); refine keep_cut_pair (m := M) (s := b0) x ?_ (fun _ => ?_); subst x)
    | ((with_reducible intro x); refine keep_cut_run (m := M) (s := b0) x ?_ (fun _ => ?_); subst x)
    | ((with_reducible intro x); refine cell_id x ?_; subst x) | ((with_reducible intro x); refine fun_id x ?_; subst x)
    | ((with_reducible intro x); clear_value x) | (with_reducible intro _) | lift_lets
    | ((with_reducible refine touch_below hm ?_); rfl) | with_reducible refine modCtx_keep ?_ ?_
    | with_reducible refine cacheXlat_keep ?_ ?_ | with_reducible refine keep_elim ?_ ?_
    | with_reducible refine keep_getD ?_ ?_ | with_reducible refine keep_foldl_fst ?_ ?_
    | with_reducible refine keep_repeat ?_ ?_ | with_reducible refine keep_foldl_snd ?_ ?_
    | with_reducible refine keep_ite ?_ ?_ | with_reducible refine keep_foldl ?_ ?_
    | with_reducible exact keep_of_fst (by assumption) (by assumption)
    | with_reducible exact keep_enter (by assumption) (by assumption)
    | with_reducible exact keepSome_elim (by assumption) (by assumption)
    | with_reducible exact keepPair_elim (by assumption) (by assumption)
    | with_reducible exact keepPair_elim2 (by assumption) (by assumption)
    | with_reducible exact keep_of_snd (by assumption) (by assumption) | split | with_reducible refine keepSome_bind ?_
    | with_reducible refine keepSome_elim ?_ (by assumption) | (cases ‹_ = some _›) | (with_reducible dsimp only))

theorem runDesc_keep {M : Touch} {b0 : State} {s : State} {d : Desc} {o : Nat} {rsv : Bool} {body : State → Nat → State} (hm : ({ fns := true, ctxs := true, tags := true, plans := true, limbo := true, attic := true, host := true } : Touch).le M = true) (hs : Keep M b0 s) (hbody : ∀ a n, Keep M b0 a → Keep M b0 (body a n)) :
    Keep M b0 (runDesc s d o rsv body) := by
  unfold runDesc
  repeat' (first
    | with_reducible assumption | (with_reducible exact keep_refl _ _) | with_reducible refine keepOut_next ?_
    | ((with_reducible intro x); refine keep_cut (m := M) (s := b0) x ?_ (fun _ => ?_); subst x)
    | ((with_reducible intro x); refine keep_cut_fst (m := M) (s := b0) x ?_ (fun _ => ?_); subst x)
    | ((with_reducible intro x); refine keep_cut_snd (m := M) (s := b0) x ?_ (fun _ => ?_); subst x)
    | ((with_reducible intro x); refine keep_cut_some (m := M) (s := b0) x ?_ (fun _ => ?_); subst x)
    | ((with_reducible intro x); refine keep_cut_pair (m := M) (s := b0) x ?_ (fun _ => ?_); subst x)
    | ((with_reducible intro x); refine keep_cut_run (m := M) (s := b0) x ?_ (fun _ => ?_); subst x)
    | ((with_reducible intro x); refine cell_id x ?_; subst x) | ((with_reducible intro x); refine fun_id x ?_; subst x)
    | ((with_reducible intro x); clear_value x) | (with_reducible intro _) | lift_lets
    | ((with_reducible refine touch_below hm ?_); rfl) | with_reducible refine fetchDesc_keep ?_ ?_
    | with_reducible refine keepPair_elim (fetchDesc_keep ?_ ?_) (by assumption)
    | with_reducible refine keepPair_elim2 (fetchDesc_keep ?_ ?_) (by assumption) | with_reducible refine holdDesc_keep ?_ ?_
    | with_reducible refine settle_keep ?_ ?_ | with_reducible refine finishDesc_keep ?_ ?_
    | with_reducible refine hbody _ _ ?_ | with_reducible refine keep_elim ?_ ?_ | with_reducible refine keep_getD ?_ ?_
    | with_reducible refine keep_foldl_fst ?_ ?_ | with_reducible refine keep_repeat ?_ ?_
    | with_reducible refine keep_foldl_snd ?_ ?_ | with_reducible refine keep_ite ?_ ?_
    | with_reducible refine keep_foldl ?_ ?_ | with_reducible exact keep_of_fst (by assumption) (by assumption)
    | with_reducible exact keep_enter (by assumption) (by assumption)
    | with_reducible exact keepSome_elim (by assumption) (by assumption)
    | with_reducible exact keepPair_elim (by assumption) (by assumption)
    | with_reducible exact keepPair_elim2 (by assumption) (by assumption)
    | with_reducible exact keep_of_snd (by assumption) (by assumption) | split | with_reducible refine keepSome_bind ?_
    | with_reducible refine keepSome_elim ?_ (by assumption) | (cases ‹_ = some _›) | (with_reducible dsimp only))

theorem execNop_keep {M : Touch} {b0 : State} {desc : Desc} {s : State} (hm : ({ fns := true, ctxs := true, tags := true, plans := true, limbo := true, attic := true, host := true } : Touch).le M = true) (hs : Keep M b0 s) :
    KeepOut M b0 (execNop desc s) := by
  unfold execNop
  repeat' (first
    | with_reducible assumption | with_reducible refine keepOut_next ?_ | (with_reducible intro _)
    | ((with_reducible refine touch_below hm ?_); rfl) | with_reducible refine runDesc_keep ?_ ?_ ?_
    | with_reducible refine finishDesc_keep ?_ ?_)

theorem execBadOpcode_keep {M : Touch} {b0 : State} {opcode : Byte} {desc : Desc} {s : State} (hm : ({ fns := true, ctxs := true, tags := true, plans := true, limbo := true, attic := true, host := true } : Touch).le M = true) (hs : Keep M b0 s) :
    KeepOut M b0 (execBadOpcode opcode desc s) := by
  unfold execBadOpcode
  repeat' (first
    | with_reducible assumption | with_reducible refine keepOut_next ?_ | (with_reducible intro _)
    | ((with_reducible refine touch_below hm ?_); rfl) | with_reducible refine runDesc_keep ?_ ?_ ?_
    | with_reducible refine finishDesc_keep ?_ ?_ | split)

theorem fetchTimeout_keep {M : Touch} {b0 : State} {s : State} {c : Nat} (hm : ({ ctxs := true } : Touch).le M = true) (hs : Keep M b0 s) :
    Keep M b0 (fetchTimeout s c) := by
  unfold fetchTimeout
  repeat' (first
    | with_reducible assumption | (with_reducible intro _) | with_reducible refine ctxError_keep ?_ ?_ | split
    | (with_reducible dsimp only))

theorem execDescriptorFetchTimeout_keep {M : Touch} {b0 : State} {ctx : Nat} {s : State} (hm : ({ ctxs := true } : Touch).le M = true) (hs : Keep M b0 s) :
    KeepOut M b0 (execDescriptorFetchTimeout ctx s) := by
  unfold execDescriptorFetchTimeout
  repeat' (first
    | with_reducible assumption | with_reducible refine keepOut_next ?_ | with_reducible refine fetchTimeout_keep ?_ ?_)

theorem writeWithTag_keep {M : Touch} {b0 : State} {s : State} {c : Nat} {e : CEntry} {t : Nat} (hm : ({ fns := true, ctxs := true, tags := true, host := true } : Touch).le M = true) (hs : Keep M b0 s) :
    Keep M b0 (writeWithTag s c e t) := by
  unfold writeWithTag
  repeat' (first
    | with_reducible assumption | (with_reducible intro _) | ((with_reducible refine touch_below hm ?_); rfl)
    | with_reducible refine writeEntry_keep ?_ ?_ | (with_reducible dsimp -zeta only [keep_mk])
    | with_reducible refine keep_tags ?_ ?_ | split)

theorem postPlanEntry_keep {M : Touch} {b0 : State} {s : State} {c : Nat} {e : CEntry} (hm : ({ fns := true, ctxs := true, tags := true, host := true } : Touch).le M = true) (hs : Keep M b0 s) :
    Keep M b0 (postPlanEntry s c e) := by
  unfold postPlanEntry
  repeat' (first
    | with_reducible assumption | (with_reducible intro _) | ((with_reducible refine touch_below hm ?_); rfl)
    | with_reducible refine writeWithTag_keep ?_ ?_ | with_reducible refine setCtx_keep ?_ ?_ | split
    | (with_reducible dsimp only))

theorem completionWrite_keep {M : Touch} {b0 : State} {s : State} {c : Nat} (hm : ({ fns := true, ctxs := true, tags := true, plans := true, limbo := true, attic := true, host := true } : Touch).le M = true) (hs : Keep M b0 s) :
    Keep M b0 (completionWrite s c) := by
  unfold completionWrite
  repeat' (first
    | with_reducible assumption | (with_reducible exact keep_refl _ _) | with_reducible refine keepOut_next ?_
    | ((with_reducible intro x); refine keep_cut (m := M) (s := b0) x ?_ (fun _ => ?_); subst x)
    | ((with_reducible intro x); refine keep_cut_fst (m := M) (s := b0) x ?_ (fun _ => ?_); subst x)
    | ((with_reducible intro x); refine keep_cut_snd (m := M) (s := b0) x ?_ (fun _ => ?_); subst x)
    | ((with_reducible intro x); refine keep_cut_some (m := M) (s := b0) x ?_ (fun _ => ?_); subst x)
    | ((with_reducible intro x); refine keep_cut_pair (m := M) (s := b0) x ?_ (fun _ => ?_); subst x)
    | ((with_reducible intro x); refine keep_cut_run (m := M) (s := b0) x ?_ (fun _ => ?_); subst x)
    | ((with_reducible intro x); refine cell_id x ?_; subst x) | ((with_reducible intro x); refine fun_id x ?_; subst x)
    | ((with_reducible intro x); clear_value x) | (with_reducible intro _) | lift_lets
    | ((with_reducible refine touch_below hm ?_); rfl) | with_reducible refine writeWithTag_keep ?_ ?_
    | with_reducible refine modCtx_keep ?_ ?_ | with_reducible refine settle_keep ?_ ?_
    | with_reducible refine codecPlanGone_keep ?_ ?_ | with_reducible refine keep_elim ?_ ?_
    | with_reducible refine keep_getD ?_ ?_ | with_reducible refine keep_foldl_fst ?_ ?_
    | with_reducible refine keep_repeat ?_ ?_ | with_reducible refine keep_foldl_snd ?_ ?_
    | with_reducible refine keep_ite ?_ ?_ | with_reducible refine keep_foldl ?_ ?_
    | with_reducible exact keep_of_fst (by assumption) (by assumption)
    | with_reducible exact keep_enter (by assumption) (by assumption)
    | with_reducible exact keepSome_elim (by assumption) (by assumption)
    | with_reducible exact keepPair_elim (by assumption) (by assumption)
    | with_reducible exact keepPair_elim2 (by assumption) (by assumption)
    | with_reducible exact keep_of_snd (by assumption) (by assumption) | split | with_reducible refine keepSome_bind ?_
    | with_reducible refine keepSome_elim ?_ (by assumption) | (cases ‹_ = some _›) | (with_reducible dsimp only))

theorem execCompletionWrite_keep {M : Touch} {b0 : State} {ctx : Nat} {s : State} (hm : ({ fns := true, ctxs := true, tags := true, plans := true, limbo := true, attic := true, host := true } : Touch).le M = true) (hs : Keep M b0 s) :
    KeepOut M b0 (execCompletionWrite ctx s) := by
  unfold execCompletionWrite
  repeat' (first
    | with_reducible assumption | with_reducible refine keepOut_next ?_ | with_reducible refine completionWrite_keep ?_ ?_)

theorem faultWrite_keep {M : Touch} {b0 : State} {s : State} {f : Nat} (hm : ({ fns := true, flog := true, host := true } : Touch).le M = true) (hs : Keep M b0 s) :
    Keep M b0 (faultWrite s f) := by
  unfold faultWrite
  repeat' (first
    | ((with_reducible intro x); refine keep_cut (m := M) (s := b0) x ?_ (fun _ => ?_); subst x) | (with_reducible intro _)
    | ((with_reducible refine touch_below hm ?_); rfl) | with_reducible refine vecEvent_keep ?_ ?_
    | with_reducible refine setFn_keep ?_ ?_ | (with_reducible dsimp -zeta only [keep_mk])
    | with_reducible refine keep_flog_host ?_ ?_ ?_ | with_reducible refine hostWrite_ok ?_ | split
    | (with_reducible dsimp only))
  all_goals assumption

theorem execFaultRecordWrite_keep {M : Touch} {b0 : State} {fn : Nat} {s : State} (hm : ({ fns := true, flog := true, host := true } : Touch).le M = true) (hs : Keep M b0 s) :
    KeepOut M b0 (execFaultRecordWrite fn s) := by
  unfold execFaultRecordWrite
  repeat' (first
    | with_reducible assumption | with_reducible refine keepOut_next ?_ | with_reducible refine faultWrite_keep ?_ ?_
    | with_reducible refine keep_repeat ?_ ?_)

theorem ledgerWrite_keep {M : Touch} {b0 : State} {s : State} {f : Nat} (hm : ({ fns := true, host := true } : Touch).le M = true) (hs : Keep M b0 s) :
    Keep M b0 (ledgerWrite s f) := by
  unfold ledgerWrite
  repeat' (first
    | (with_reducible intro _) | ((with_reducible refine touch_below hm ?_); rfl) | with_reducible refine vecEvent_keep ?_ ?_
    | with_reducible refine setFn_keep ?_ ?_ | (with_reducible dsimp -zeta only [keep_mk])
    | with_reducible refine keep_host ?_ ?_ ?_ | with_reducible refine writeSlots_ok ?_ | split | (with_reducible dsimp only))
  all_goals assumption

theorem execLedgerRecordWrite_keep {M : Touch} {b0 : State} {fn : Nat} {s : State} (hm : ({ fns := true, host := true } : Touch).le M = true) (hs : Keep M b0 s) :
    KeepOut M b0 (execLedgerRecordWrite fn s) := by
  unfold execLedgerRecordWrite
  repeat' (first
    | with_reducible assumption | with_reducible refine keepOut_next ?_ | with_reducible refine ledgerWrite_keep ?_ ?_)

theorem failOpen_keep {M : Touch} {b0 : State} {s : State} {c : Nat} {o : OpenDesc} {code : Nat} (hm : ({ fns := true, ctxs := true, tags := true, attic := true, host := true } : Touch).le M = true) (hs : Keep M b0 s) :
    Keep M b0 (failOpen s c o code) := by
  unfold failOpen
  repeat' (first
    | with_reducible assumption | ((with_reducible intro x); refine keep_cut (m := M) (s := b0) x ?_ (fun _ => ?_); subst x)
    | ((with_reducible refine touch_below hm ?_); rfl) | with_reducible refine modCtx_keep ?_ ?_
    | with_reducible refine closeOpen_keep ?_ ?_ | (with_reducible dsimp -zeta only [keep_mk])
    | with_reducible refine keep_attic ?_ ?_)

theorem aerHost_keep {M : Touch} {b0 : State} {s : State} {f : Nat} (hm : ({ fns := true } : Touch).le M = true) (hs : Keep M b0 s) :
    Keep M b0 (aerHost s f) := by
  unfold aerHost
  repeat' (first | with_reducible assumption | with_reducible refine modFn_keep ?_ ?_)

theorem failNow_keep {M : Touch} {b0 : State} {s : State} {d : Desc} {o : Nat} {t : Nat} {e : HostErr} {addr : DWord} (hm : ({ fns := true, ctxs := true, tags := true, flog := true, host := true } : Touch).le M = true) (hs : Keep M b0 s) :
    Keep M b0 (failNow s d o t e addr) := by
  unfold failNow
  repeat' (first
    | with_reducible assumption | (with_reducible exact keep_refl _ _) | with_reducible refine keepOut_next ?_
    | ((with_reducible intro x); refine keep_cut (m := M) (s := b0) x ?_ (fun _ => ?_); subst x)
    | ((with_reducible intro x); refine keep_cut_fst (m := M) (s := b0) x ?_ (fun _ => ?_); subst x)
    | ((with_reducible intro x); refine keep_cut_snd (m := M) (s := b0) x ?_ (fun _ => ?_); subst x)
    | ((with_reducible intro x); refine keep_cut_some (m := M) (s := b0) x ?_ (fun _ => ?_); subst x)
    | ((with_reducible intro x); refine keep_cut_pair (m := M) (s := b0) x ?_ (fun _ => ?_); subst x)
    | ((with_reducible intro x); refine keep_cut_run (m := M) (s := b0) x ?_ (fun _ => ?_); subst x)
    | ((with_reducible intro x); refine cell_id x ?_; subst x) | ((with_reducible intro x); refine fun_id x ?_; subst x)
    | ((with_reducible intro x); clear_value x) | (with_reducible intro _) | lift_lets
    | ((with_reducible refine touch_below hm ?_); rfl) | with_reducible refine modCtx_keep ?_ ?_
    | with_reducible refine logFault_keep ?_ ?_ | with_reducible refine finishDesc_keep ?_ ?_
    | with_reducible refine aerHost_keep ?_ ?_ | with_reducible refine keep_elim ?_ ?_ | with_reducible refine keep_getD ?_ ?_
    | with_reducible refine keep_foldl_fst ?_ ?_ | with_reducible refine keep_repeat ?_ ?_
    | with_reducible refine keep_foldl_snd ?_ ?_ | with_reducible refine keep_ite ?_ ?_
    | with_reducible refine keep_foldl ?_ ?_ | with_reducible exact keep_of_fst (by assumption) (by assumption)
    | with_reducible exact keep_enter (by assumption) (by assumption)
    | with_reducible exact keepSome_elim (by assumption) (by assumption)
    | with_reducible exact keepPair_elim (by assumption) (by assumption)
    | with_reducible exact keepPair_elim2 (by assumption) (by assumption)
    | with_reducible exact keep_of_snd (by assumption) (by assumption) | split | with_reducible refine keepSome_bind ?_
    | with_reducible refine keepSome_elim ?_ (by assumption) | (cases ‹_ = some _›) | (with_reducible dsimp only))

theorem withHostData_keep {M : Touch} {b0 : State} {s : State} {d : Desc} {o : Nat} {t : Nat} {body : State} (hm : ({ fns := true, ctxs := true, tags := true, flog := true, host := true } : Touch).le M = true) (hs : Keep M b0 s) (hbody : Keep M b0 body) :
    Keep M b0 (withHostData s d o t body) := by
  unfold withHostData
  repeat' (first
    | with_reducible assumption | (with_reducible exact keep_refl _ _) | with_reducible refine keepOut_next ?_
    | ((with_reducible intro x); refine keep_cut (m := M) (s := b0) x ?_ (fun _ => ?_); subst x)
    | ((with_reducible intro x); refine keep_cut_fst (m := M) (s := b0) x ?_ (fun _ => ?_); subst x)
    | ((with_reducible intro x); refine keep_cut_snd (m := M) (s := b0) x ?_ (fun _ => ?_); subst x)
    | ((with_reducible intro x); refine keep_cut_some (m := M) (s := b0) x ?_ (fun _ => ?_); subst x)
    | ((with_reducible intro x); refine keep_cut_pair (m := M) (s := b0) x ?_ (fun _ => ?_); subst x)
    | ((with_reducible intro x); refine keep_cut_run (m := M) (s := b0) x ?_ (fun _ => ?_); subst x)
    | ((with_reducible intro x); refine cell_id x ?_; subst x) | ((with_reducible intro x); refine fun_id x ?_; subst x)
    | ((with_reducible intro x); clear_value x) | (with_reducible intro _) | lift_lets
    | ((with_reducible refine touch_below hm ?_); rfl) | with_reducible refine failNow_keep ?_ ?_
    | with_reducible refine keep_elim ?_ ?_ | with_reducible refine keep_getD ?_ ?_
    | with_reducible refine keep_foldl_fst ?_ ?_ | with_reducible refine keep_repeat ?_ ?_
    | with_reducible refine keep_foldl_snd ?_ ?_ | with_reducible refine keep_ite ?_ ?_
    | with_reducible refine keep_foldl ?_ ?_ | with_reducible exact keep_of_fst (by assumption) (by assumption)
    | with_reducible exact keep_enter (by assumption) (by assumption)
    | with_reducible exact keepSome_elim (by assumption) (by assumption)
    | with_reducible exact keepPair_elim (by assumption) (by assumption)
    | with_reducible exact keepPair_elim2 (by assumption) (by assumption)
    | with_reducible exact keep_of_snd (by assumption) (by assumption) | split | with_reducible refine keepSome_bind ?_
    | with_reducible refine keepSome_elim ?_ (by assumption) | (cases ‹_ = some _›) | (with_reducible dsimp only))

theorem accessFail_keep {M : Touch} {b0 : State} {s : State} {a : HostAccess} {e : HostErr} {addr : DWord} (hm : ({ fns := true, ctxs := true, tags := true, plans := true, limbo := true, flog := true, attic := true, host := true } : Touch).le M = true) (hs : Keep M b0 s) :
    Keep M b0 (accessFail s a e addr) := by
  unfold accessFail
  repeat' (first
    | with_reducible assumption | ((with_reducible intro x); refine keep_cut (m := M) (s := b0) x ?_ (fun _ => ?_); subst x)
    | (with_reducible intro _) | ((with_reducible refine touch_below hm ?_); rfl) | with_reducible refine aerHost_keep ?_ ?_
    | with_reducible refine logFault_keep ?_ ?_ | with_reducible refine ctxError_keep ?_ ?_
    | with_reducible refine modCtx_keep ?_ ?_ | with_reducible refine settle_keep ?_ ?_
    | with_reducible refine failOpen_keep ?_ ?_ | with_reducible refine setFn_keep ?_ ?_ | split | (with_reducible dsimp only))

theorem atsInvalidate_keep {M : Touch} {b0 : State} {s : State} {f : Nat} {pasid : Option (BitVec 20)} (hm : ({ fns := true } : Touch).le M = true) (hs : Keep M b0 s) :
    Keep M b0 (atsInvalidate s f pasid) := by
  unfold atsInvalidate
  repeat' (first | with_reducible assumption | (with_reducible intro _) | with_reducible refine modFn_keep ?_ ?_ | split)

theorem execAtsInvalidation_keep {M : Touch} {b0 : State} {fn : Nat} {pasid : Option (BitVec 20)} {s : State} (hm : ({ fns := true } : Touch).le M = true) (hs : Keep M b0 s) :
    KeepOut M b0 (execAtsInvalidation fn pasid s) := by
  unfold execAtsInvalidation
  repeat' (first
    | with_reducible assumption | with_reducible refine keepOut_next ?_ | with_reducible refine atsInvalidate_keep ?_ ?_)

theorem ideOutside_keep {M : Touch} {b0 : State} {s : State} {f : Nat} (hm : ({ fns := true } : Touch).le M = true) (hs : Keep M b0 s) :
    Keep M b0 (ideOutside s f) := by
  unfold ideOutside
  repeat' (first | with_reducible assumption | (with_reducible intro _) | with_reducible refine modFn_keep ?_ ?_ | split)

theorem execIdeTlpOutsideStream_keep {M : Touch} {b0 : State} {fn : Nat} {s : State} (hm : ({ fns := true } : Touch).le M = true) (hs : Keep M b0 s) :
    KeepOut M b0 (execIdeTlpOutsideStream fn s) := by
  unfold execIdeTlpOutsideStream
  repeat' (first
    | with_reducible assumption | with_reducible refine keepOut_next ?_ | with_reducible refine ideOutside_keep ?_ ?_)

theorem ideLoss_keep {M : Touch} {b0 : State} {s : State} {f : Nat} (hm : ({ fns := true, ctxs := true } : Touch).le M = true) (hs : Keep M b0 s) :
    Keep M b0 (ideLoss s f) := by
  unfold ideLoss
  repeat' (first
    | with_reducible assumption | (with_reducible intro _) | ((with_reducible refine touch_below hm ?_); rfl)
    | with_reducible refine ctxError_keep ?_ ?_ | with_reducible refine modFn_keep ?_ ?_
    | with_reducible refine keep_foldl ?_ ?_ | split)

theorem execIdeStreamLoss_keep {M : Touch} {b0 : State} {fn : Nat} {s : State} (hm : ({ fns := true, ctxs := true } : Touch).le M = true) (hs : Keep M b0 s) :
    KeepOut M b0 (execIdeStreamLoss fn s) := by
  unfold execIdeStreamLoss
  repeat' (first
    | with_reducible assumption | with_reducible refine keepOut_next ?_ | with_reducible refine ideLoss_keep ?_ ?_)

theorem spdm_keep {M : Touch} {b0 : State} {s : State} {r : SpdmReq} (hm : ({ dev := true, fns := true } : Touch).le M = true) (hs : Keep M b0 s) :
    Keep M b0 (spdm s r) := by
  unfold spdm
  repeat' (first
    | with_reducible assumption | (with_reducible intro _) | ((with_reducible refine touch_below hm ?_); rfl)
    | with_reducible refine modFn_keep ?_ ?_ | (with_reducible dsimp -zeta only [keep_mk])
    | with_reducible refine keep_dev ?_ ?_ | split)

theorem execDoeSpdmRequest_keep {M : Touch} {b0 : State} {request : SpdmReq} {s : State} (hm : ({ dev := true, fns := true } : Touch).le M = true) (hs : Keep M b0 s) :
    KeepOut M b0 (execDoeSpdmRequest request s) := by
  unfold execDoeSpdmRequest
  repeat' (first
    | with_reducible assumption | with_reducible refine keepOut_next ?_ | with_reducible refine spdm_keep ?_ ?_)

theorem delayExpiry_keep {M : Touch} {b0 : State} {s : State} {f : Nat} {v : Nat} (hm : ({ fns := true, host := true } : Touch).le M = true) (hs : Keep M b0 s) :
    Keep M b0 (delayExpiry s f v) := by
  unfold delayExpiry
  repeat' (first
    | with_reducible assumption | (with_reducible intro _) | with_reducible refine sendVec_keep ?_ ?_ | split
    | (with_reducible dsimp only))

theorem execMsixDelayExpiry_keep {M : Touch} {b0 : State} {fn : Nat} {vector : Nat} {s : State} (hm : ({ fns := true, host := true } : Touch).le M = true) (hs : Keep M b0 s) :
    KeepOut M b0 (execMsixDelayExpiry fn vector s) := by
  unfold execMsixDelayExpiry
  repeat' (first
    | with_reducible assumption | with_reducible refine keepOut_next ?_ | with_reducible refine delayExpiry_keep ?_ ?_)

theorem tickVec_keep {M : Touch} {b0 : State} {s : State} {f : Nat} {v : Nat} (hm : ({ fns := true, host := true } : Touch).le M = true) (hs : Keep M b0 s) :
    Keep M b0 (tickVec s f v) := by
  unfold tickVec
  repeat' (first
    | with_reducible assumption | (with_reducible intro _) | ((with_reducible refine touch_below hm ?_); rfl)
    | with_reducible refine modFn_keep ?_ ?_ | with_reducible refine sendVec_keep ?_ ?_ | split | (with_reducible dsimp only))

theorem perTick_keep {M : Touch} {b0 : State} {s : State} (hm : ({ fns := true, host := true } : Touch).le M = true) (hs : Keep M b0 s) :
    Keep M b0 (perTick s) := by
  unfold perTick
  repeat' (first
    | with_reducible assumption | (with_reducible intro _) | with_reducible refine tickVec_keep ?_ ?_
    | with_reducible refine keep_foldl ?_ ?_)

theorem execMsixPerTick_keep {M : Touch} {b0 : State} {s : State} (hm : ({ fns := true, host := true } : Touch).le M = true) (hs : Keep M b0 s) :
    KeepOut M b0 (execMsixPerTick s) := by
  unfold execMsixPerTick
  repeat' (first
    | with_reducible assumption | with_reducible refine keepOut_next ?_ | with_reducible refine perTick_keep ?_ ?_)

theorem markVecs_keep {M : Touch} {b0 : State} {s : State} (hm : ({ fns := true } : Touch).le M = true) (hs : Keep M b0 s) :
    Keep M b0 (markVecs s) := by
  unfold markVecs
  repeat' (first
    | with_reducible assumption | (with_reducible dsimp -zeta only [keep_mk]) | with_reducible refine keep_fns ?_ ?_)

end Sys2Proof.Laws
end

