-- ==== Sys2Proof/Laws/KeepMemory.lean ====
section
/-! SUPPORT. What each operation of Machine/Memory.lean may change. -/
namespace Sys2Proof.Laws

open Sys2Proof Sys2Proof.Machine
set_option linter.unusedVariables false

theorem writeVa_keep {M : Touch} {b0 : State} {s : State} {c : Nat} {va : Nat} {bs : List Byte} (hm : ({ mem := true } : Touch).le M = true) (hs : Keep M b0 s) :
    Keep M b0 (writeVa s c va bs) := by
  unfold writeVa
  repeat' (first
    | (with_reducible intro _) | (with_reducible dsimp -zeta only [keep_mk]) | with_reducible refine keep_mem ?_ ?_ ?_
    | with_reducible refine writeVaMem_ok ?_)
  all_goals assumption

theorem addrWrite_keep {M : Touch} {b0 : State} {s : State} {c : Nat} {first : Nat} {count : Nat} {entries : List Byte} (hm : ({ ctxs := true } : Touch).le M = true) (hs : Keep M b0 s) :
    Keep M b0 (addrWrite s c first count entries).1 := by
  unfold addrWrite
  repeat' (first
    | with_reducible assumption | with_reducible refine modCtx_keep ?_ ?_ | split | (with_reducible dsimp only))
theorem addrWrite_keep_eq {M : Touch} {b0 : State} {s : State} {c : Nat} {first : Nat} {count : Nat} {entries : List Byte} {w9} {u9 : State} (hm : ({ ctxs := true } : Touch).le M = true) (hs : Keep M b0 s) (e9 : addrWrite s c first count entries = (u9, w9)) : Keep M b0 u9 := by
  have := addrWrite_keep (M := M) (b0 := b0) (s := s) (c := c) (first := first) (count := count) (entries := entries) hm hs; rw [e9] at this; exact this

theorem addrRelease_keep {M : Touch} {b0 : State} {s : State} {c : Nat} (hm : ({ fns := true, ctxs := true, tags := true, host := true } : Touch).le M = true) (hs : Keep M b0 s) :
    Keep M b0 (addrRelease s c) := by
  unfold addrRelease
  repeat' (first
    | with_reducible assumption | ((with_reducible intro x); refine keep_cut (m := M) (s := b0) x ?_ (fun _ => ?_); subst x)
    | (with_reducible intro _) | ((with_reducible refine touch_below hm ?_); rfl) | with_reducible refine setCtx_keep ?_ ?_
    | with_reducible refine closeOpen_keep ?_ ?_ | with_reducible refine keep_foldl ?_ ?_ | split
    | (with_reducible dsimp only))

theorem latchExtents_keep {M : Touch} {b0 : State} {s : State} (hm : ({ ctxs := true, limbo := true, mem := true } : Touch).le M = true) (hs : Keep M b0 s) :
    Keep M b0 (latchExtents s) := by
  unfold latchExtents
  repeat' (first
    | (with_reducible intro _) | (with_reducible dsimp -zeta only [keep_mk])
    | with_reducible refine keep_ctxs_limbo_mem ?_ ?_ ?_ | with_reducible refine scrub_ok ?_ | (with_reducible dsimp only))
  all_goals assumption

theorem bindPins_keep {M : Touch} {b0 : State} {s : State} {c : Nat} {pins : List PinRec} (hm : ({ pins := true } : Touch).le M = true) (hs : Keep M b0 s) :
    Keep M b0 (bindPins s c pins) := by
  unfold bindPins
  repeat' (first
    | with_reducible assumption | (with_reducible intro _) | (with_reducible dsimp -zeta only [keep_mk])
    | with_reducible refine keep_pins ?_ ?_ | with_reducible refine keep_foldl ?_ ?_ | split)

theorem endPins_keep {M : Touch} {b0 : State} {s : State} (hm : ({ pins := true, mem := true } : Touch).le M = true) (hs : Keep M b0 s) :
    Keep M b0 (endPins s) := by
  unfold endPins
  repeat' (first
    | (with_reducible intro _) | (with_reducible dsimp -zeta only [keep_mk]) | with_reducible refine keep_pins_mem ?_ ?_ ?_
    | with_reducible refine memFilter_ok ?_ | (with_reducible dsimp only))
  all_goals assumption

end Sys2Proof.Laws
end

