-- ==== Sys2Proof/Laws/KeepKv.lean ====
section
/-! SUPPORT. What each operation of Machine/Kv.lean may change. -/
namespace Sys2Proof.Laws

open Sys2Proof Sys2Proof.Machine
set_option linter.unusedVariables false

theorem modTh_keep {M : Touch} {b0 : State} {s : State} {t : Tid} {g : Thread → Thread} (hm : ({ threads := true } : Touch).le M = true) (hs : Keep M b0 s) :
    Keep M b0 (modTh s t g) := by
  unfold modTh
  repeat' (first
    | with_reducible assumption | (with_reducible dsimp -zeta only [keep_mk]) | with_reducible refine keep_threads ?_ ?_)

theorem addItem_keep {M : Touch} {b0 : State} {s : State} {k : PlanKey} {ty : Nat} {body : List Byte} (hm : ({ plans := true } : Touch).le M = true) (hs : Keep M b0 s) :
    Keep M b0 (addItem s k ty body) := by
  unfold addItem
  repeat' (first | with_reducible assumption | with_reducible refine modPlan_keep ?_ ?_)

theorem modKv_keep {M : Touch} {b0 : State} {s : State} {c : Nat} {h : Nat} {g : KvTable → KvTable} (hm : ({ tables := true } : Touch).le M = true) (hs : Keep M b0 s) :
    Keep M b0 (modKv s c h g) := by
  unfold modKv
  repeat' (first
    | with_reducible assumption | (with_reducible dsimp -zeta only [keep_mk]) | with_reducible refine keep_tables ?_ ?_)

theorem retireGens_keep {M : Touch} {b0 : State} {s : State} (hm : ({ tables := true } : Touch).le M = true) (hs : Keep M b0 s) :
    Keep M b0 (retireGens s) := by
  unfold retireGens
  repeat' (first
    | with_reducible assumption | (with_reducible dsimp -zeta only [keep_mk]) | with_reducible refine keep_tables ?_ ?_)

theorem modFrame_keep {M : Touch} {b0 : State} {s : State} {b : Nat} {g : Frame → Frame} (hm : ({ frames := true } : Touch).le M = true) (hs : Keep M b0 s) :
    Keep M b0 (modFrame s b g) := by
  unfold modFrame
  repeat' (first
    | with_reducible assumption | (with_reducible dsimp -zeta only [keep_mk]) | with_reducible refine keep_frames ?_ ?_)

theorem incFrame_keep {M : Touch} {b0 : State} {s : State} {b : Nat} (hm : ({ frames := true } : Touch).le M = true) (hs : Keep M b0 s) :
    Keep M b0 (incFrame s b) := by
  unfold incFrame
  repeat' (first | with_reducible assumption | with_reducible refine modFrame_keep ?_ ?_)

theorem decFrame_keep {M : Touch} {b0 : State} {s : State} {b : Nat} (hm : ({ frames := true } : Touch).le M = true) (hs : Keep M b0 s) :
    Keep M b0 (decFrame s b) := by
  unfold decFrame
  repeat' (first | with_reducible assumption | with_reducible refine modFrame_keep ?_ ?_)

theorem applyDec_keep {M : Touch} {b0 : State} {s : State} {b : Nat} (hm : ({ frames := true, decs := true } : Touch).le M = true) (hs : Keep M b0 s) :
    Keep M b0 (applyDec s b) := by
  unfold applyDec
  repeat' (first
    | with_reducible assumption | ((with_reducible intro x); refine keep_cut (m := M) (s := b0) x ?_ (fun _ => ?_); subst x)
    | (with_reducible intro _) | ((with_reducible refine touch_below hm ?_); rfl) | with_reducible refine modFrame_keep ?_ ?_
    | with_reducible refine decFrame_keep ?_ ?_ | (with_reducible dsimp -zeta only [keep_mk])
    | with_reducible refine keep_decs ?_ ?_ | split)

theorem sendDec_keep {M : Touch} {b0 : State} {s : State} {b : Nat} (hm : ({ decs := true } : Touch).le M = true) (hs : Keep M b0 s) :
    Keep M b0 (sendDec s b) := by
  unfold sendDec
  repeat' (first
    | with_reducible assumption | (with_reducible dsimp -zeta only [keep_mk]) | with_reducible refine keep_decs ?_ ?_)

theorem decArrive_keep {M : Touch} {b0 : State} {s : State} {b : Nat} (hm : ({ frames := true, decs := true } : Touch).le M = true) (hs : Keep M b0 s) :
    Keep M b0 (decArrive s b) := by
  unfold decArrive
  repeat' (first
    | with_reducible assumption | (with_reducible intro _) | ((with_reducible refine touch_below hm ?_); rfl)
    | with_reducible refine modFrame_keep ?_ ?_ | (with_reducible dsimp -zeta only [keep_mk])
    | with_reducible refine keep_decs ?_ ?_ | split)

theorem execFrameDecrementArrive_keep {M : Touch} {b0 : State} {frame : Nat} {s : State} (hm : ({ frames := true, decs := true } : Touch).le M = true) (hs : Keep M b0 s) :
    KeepOut M b0 (execFrameDecrementArrive frame s) := by
  unfold execFrameDecrementArrive
  repeat' (first
    | with_reducible assumption | with_reducible refine keepOut_next ?_ | with_reducible refine decArrive_keep ?_ ?_)

theorem touchFrame_keep {M : Touch} {b0 : State} {s : State} {b : Nat} (hm : ({ frames := true } : Touch).le M = true) (hs : Keep M b0 s) :
    Keep M b0 (touchFrame s b) := by
  unfold touchFrame
  repeat' (first | with_reducible assumption | with_reducible refine modFrame_keep ?_ ?_)

theorem fixReclaim_keep {M : Touch} {b0 : State} {s : State} (hm : ({ frames := true } : Touch).le M = true) (hs : Keep M b0 s) :
    Keep M b0 (fixReclaim s) := by
  unfold fixReclaim
  repeat' (first
    | with_reducible assumption | (with_reducible dsimp -zeta only [keep_mk]) | with_reducible refine keep_frames ?_ ?_)

theorem execReclaimSetFix_keep {M : Touch} {b0 : State} {s : State} (hm : ({ frames := true } : Touch).le M = true) (hs : Keep M b0 s) :
    KeepOut M b0 (execReclaimSetFix s) := by
  unfold execReclaimSetFix
  repeat' (first
    | with_reducible assumption | with_reducible refine keepOut_next ?_ | (with_reducible intro _)
    | with_reducible refine fixReclaim_keep ?_ ?_ | split)

theorem returnFrames_keep {M : Touch} {b0 : State} {s : State} (hm : ({ frames := true } : Touch).le M = true) (hs : Keep M b0 s) :
    Keep M b0 (returnFrames s) := by
  unfold returnFrames
  repeat' (first
    | with_reducible assumption | (with_reducible dsimp -zeta only [keep_mk]) | with_reducible refine keep_frames ?_ ?_)

theorem allocFrame_keep {M : Touch} {b0 : State} {s : State} {c : Nat} {log2 : Nat} (hm : ({ frames := true, mem := true } : Touch).le M = true) (hs : Keep M b0 s) :
    KeepPair M b0 (allocFrame s c log2) := by
  unfold allocFrame
  repeat' (first
    | with_reducible exact keepPair_none | with_reducible refine keepPair_some ?_ | (with_reducible intro _)
    | (with_reducible dsimp -zeta only [keep_mk]) | with_reducible refine keep_frames_mem ?_ ?_ ?_
    | with_reducible refine memFilter_ok ?_ | split)
  all_goals assumption

theorem kvWrite_keep {M : Touch} {b0 : State} {s : State} {c : Nat} {h : Nat} {first : Nat} {count : Nat} {entries : List Byte} (hm : ({ tables := true } : Touch).le M = true) (hs : Keep M b0 s) :
    Keep M b0 (kvWrite s c h first count entries).1 := by
  unfold kvWrite
  repeat' (first
    | with_reducible assumption | with_reducible refine modKv_keep ?_ ?_ | split | (with_reducible dsimp only))
theorem kvWrite_keep_eq {M : Touch} {b0 : State} {s : State} {c : Nat} {h : Nat} {first : Nat} {count : Nat} {entries : List Byte} {w9} {u9 : State} (hm : ({ tables := true } : Touch).le M = true) (hs : Keep M b0 s) (e9 : kvWrite s c h first count entries = (u9, w9)) : Keep M b0 u9 := by
  have := kvWrite_keep (M := M) (b0 := b0) (s := s) (c := c) (h := h) (first := first) (count := count) (entries := entries) hm hs; rw [e9] at this; exact this

theorem kvDestroy_keep {M : Touch} {b0 : State} {s : State} {c : Nat} {h : Nat} (hm : ({ tables := true, frames := true } : Touch).le M = true) (hs : Keep M b0 s) :
    Keep M b0 (kvDestroy s c h) := by
  unfold kvDestroy
  repeat' (first
    | with_reducible assumption | ((with_reducible intro x); refine keep_cut (m := M) (s := b0) x ?_ (fun _ => ?_); subst x)
    | (with_reducible intro _) | ((with_reducible refine touch_below hm ?_); rfl) | with_reducible refine decFrame_keep ?_ ?_
    | (with_reducible dsimp -zeta only [keep_mk]) | with_reducible refine keep_tables ?_ ?_
    | with_reducible refine keep_foldl ?_ ?_ | split)

theorem settleEdit_keep {M : Touch} {b0 : State} {acc : State × List (Nat × KvEntry)} {e : KvEdit} (hm : ({ frames := true, decs := true } : Touch).le M = true) (hacc : Keep M b0 acc.1) :
    Keep M b0 (settleEdit acc e).1 := by
  rcases acc with ⟨_, _⟩
  unfold settleEdit
  dsimp -zeta only
  repeat' (first
    | with_reducible assumption | ((with_reducible intro x); refine keep_cut (m := M) (s := b0) x ?_ (fun _ => ?_); subst x)
    | (with_reducible intro _) | with_reducible refine applyDec_keep ?_ ?_ | split)
theorem settleEdit_keep_eq {M : Touch} {b0 : State} {acc : State × List (Nat × KvEntry)} {e : KvEdit} {w9} {u9 : State} (hm : ({ frames := true, decs := true } : Touch).le M = true) (hacc : Keep M b0 acc.1) (e9 : settleEdit acc e = (u9, w9)) : Keep M b0 u9 := by
  have := settleEdit_keep (M := M) (b0 := b0) (acc := acc) (e := e) hm hacc; rw [e9] at this; exact this

theorem settleStaged_keep {M : Touch} {b0 : State} {s0 : State} {c : Nat} {acc : State × List (Nat × KvEntry)} {w : Nat × DWord × DWord} (hm : ({ frames := true } : Touch).le M = true) (hs0 : Keep M b0 s0) (hacc : Keep M b0 acc.1) :
    Keep M b0 (settleStaged s0 c acc w).1 := by
  rcases acc with ⟨_, _⟩
  unfold settleStaged
  dsimp -zeta only
  repeat' (first
    | with_reducible assumption | (with_reducible exact keep_refl _ _) | with_reducible refine keepOut_next ?_
    | ((with_reducible intro x); refine keep_cut (m := M) (s := b0) x ?_ (fun _ => ?_); subst x)
    | ((with_reducible intro x); refine keep_cut_fst (m := M) (s := b0) x ?_ (fun _ => ?_); subst x)
    | ((with_reducible intro x); refine keep_cut_snd (m := M) (s := b0) x ?_ (fun _ => ?_); subst x)
    | ((with_reducible intro x); refine keep_cut_some (m := M) (s := b0) x ?_ (fun _ => ?_); subst x)
    | ((with_reducible intro x); refine keep_cut_pair (m := M) (s := b0) x ?_ (fun _ => ?_); subst x)
    | ((with_reducible intro x); refine keep_cut_run (m := M) (s := b0) x ?_ (fun _ => ?_); subst x)
    | ((with_reducible intro x); refine cell_id x ?_; subst x) | ((with_reducible intro x); refine fun_id x ?_; subst x)
    | ((with_reducible intro x); clear_value x) | (with_reducible intro _) | lift_lets
    | ((with_reducible refine touch_below hm ?_); rfl) | with_reducible refine decFrame_keep ?_ ?_
    | with_reducible refine keep_elim ?_ ?_ | with_reducible refine keep_getD ?_ ?_
    | with_reducible refine keep_foldl_fst ?_ ?_ | with_reducible refine keep_repeat ?_ ?_
    | with_reducible refine keep_foldl_snd ?_ ?_ | with_reducible refine keep_ite ?_ ?_
    | with_reducible refine keep_foldl ?_ ?_ | with_reducible exact keep_of_fst (by assumption) (by assumption)
    | with_reducible exact keep_enter (by assumption) (by assumption)
    | with_reducible exact keepSome_elim (by assumption) (by assumption)
    | with_reducible exact keepPair_elim (by assumption) (by assumption)
    | with_reducible exact keepPair_elim2 (by assumption) (by assumption)
    | with_reducible exact keep_of_snd (by assumption) (by assumption) | split | with_reducible refine keepSome_bind ?_
    | with_reducible refine keepSome_elim ?_ (by assumption) | (cases ‹_ = some _›) | (with_reducible dsimp only))
theorem settleStaged_keep_eq {M : Touch} {b0 : State} {s0 : State} {c : Nat} {acc : State × List (Nat × KvEntry)} {w : Nat × DWord × DWord} {w9} {u9 : State} (hm : ({ frames := true } : Touch).le M = true) (hs0 : Keep M b0 s0) (hacc : Keep M b0 acc.1) (e9 : settleStaged s0 c acc w = (u9, w9)) : Keep M b0 u9 := by
  have := settleStaged_keep (M := M) (b0 := b0) (s0 := s0) (c := c) (acc := acc) (w := w) hm hs0 hacc; rw [e9] at this; exact this

theorem registerPublishes_keep {M : Touch} {b0 : State} {s : State} (hm : ({ frames := true } : Touch).le M = true) (hs : Keep M b0 s) :
    Keep M b0 (registerPublishes s) := by
  unfold registerPublishes
  repeat' (first
    | with_reducible assumption | (with_reducible exact keep_refl _ _) | with_reducible refine keepOut_next ?_
    | ((with_reducible intro x); refine keep_cut (m := M) (s := b0) x ?_ (fun _ => ?_); subst x)
    | ((with_reducible intro x); refine keep_cut_fst (m := M) (s := b0) x ?_ (fun _ => ?_); subst x)
    | ((with_reducible intro x); refine keep_cut_snd (m := M) (s := b0) x ?_ (fun _ => ?_); subst x)
    | ((with_reducible intro x); refine keep_cut_some (m := M) (s := b0) x ?_ (fun _ => ?_); subst x)
    | ((with_reducible intro x); refine keep_cut_pair (m := M) (s := b0) x ?_ (fun _ => ?_); subst x)
    | ((with_reducible intro x); refine keep_cut_run (m := M) (s := b0) x ?_ (fun _ => ?_); subst x)
    | ((with_reducible intro x); refine cell_id x ?_; subst x) | ((with_reducible intro x); refine fun_id x ?_; subst x)
    | ((with_reducible intro x); clear_value x) | (with_reducible intro _) | lift_lets
    | ((with_reducible refine touch_below hm ?_); rfl) | with_reducible refine incFrame_keep ?_ ?_
    | with_reducible refine keep_elim ?_ ?_ | with_reducible refine keep_getD ?_ ?_
    | with_reducible refine keep_foldl_fst ?_ ?_ | with_reducible refine keep_repeat ?_ ?_
    | with_reducible refine keep_foldl_snd ?_ ?_ | with_reducible refine keep_ite ?_ ?_
    | with_reducible refine keep_foldl ?_ ?_ | with_reducible exact keep_of_fst (by assumption) (by assumption)
    | with_reducible exact keep_enter (by assumption) (by assumption)
    | with_reducible exact keepSome_elim (by assumption) (by assumption)
    | with_reducible exact keepPair_elim (by assumption) (by assumption)
    | with_reducible exact keepPair_elim2 (by assumption) (by assumption)
    | with_reducible exact keep_of_snd (by assumption) (by assumption) | split | with_reducible refine keepSome_bind ?_
    | with_reducible refine keepSome_elim ?_ (by assumption) | (cases ‹_ = some _›) | (with_reducible dsimp only))

theorem writeStatus_keep {M : Touch} {b0 : State} {s : State} {t : KvTable} (hm : ({ mem := true } : Touch).le M = true) (hs : Keep M b0 s) :
    Keep M b0 (writeStatus s t) := by
  unfold writeStatus
  repeat' (first
    | with_reducible assumption | (with_reducible intro _) | with_reducible refine writeVa_keep ?_ ?_
    | with_reducible refine keep_foldl ?_ ?_ | split)

theorem finishPublish_keep {M : Touch} {b0 : State} {s : State} {c : Nat} {h : Nat} (hm : ({ fns := true, ctxs := true, tags := true, host := true } : Touch).le M = true) (hs : Keep M b0 s) :
    Keep M b0 (finishPublish s c h) := by
  unfold finishPublish
  repeat' (first
    | with_reducible assumption | (with_reducible intro _) | with_reducible refine closeOpen_keep ?_ ?_
    | with_reducible refine keep_foldl ?_ ?_)

theorem kvRelease_keep {M : Touch} {b0 : State} {s0 : State} {s : State} {c : Nat} {h : Nat} (hm : ({ fns := true, ctxs := true, tags := true, tables := true, frames := true, decs := true, mem := true, host := true } : Touch).le M = true) (hs0 : Keep M b0 s0) (hs : Keep M b0 s) :
    Keep M b0 (kvRelease s0 s c h) := by
  unfold kvRelease
  repeat' (first
    | with_reducible assumption | (with_reducible intro _) | ((with_reducible refine touch_below hm ?_); rfl)
    | with_reducible refine settleEdit_keep ?_ ?_ | with_reducible refine settleStaged_keep ?_ ?_ ?_
    | with_reducible refine writeStatus_keep ?_ ?_ | with_reducible refine modKv_keep ?_ ?_
    | with_reducible refine finishPublish_keep ?_ ?_ | with_reducible refine keep_foldl_fst ?_ ?_
    | with_reducible refine keep_ite ?_ ?_ | split)

theorem kvReleaseAll_keep {M : Touch} {b0 : State} {s : State} (hm : ({ fns := true, ctxs := true, tags := true, tables := true, frames := true, decs := true, mem := true, host := true } : Touch).le M = true) (hs : Keep M b0 s) :
    Keep M b0 (kvReleaseAll s) := by
  unfold kvReleaseAll
  repeat' (first
    | with_reducible assumption | (with_reducible intro _) | with_reducible refine kvRelease_keep ?_ ?_ ?_
    | with_reducible refine keep_foldl ?_ ?_)

theorem storeData_keep {M : Touch} {b0 : State} {s : State} {b : Nat} {r : StoreReq} (hm : ({ frames := true, mem := true } : Touch).le M = true) (hs : Keep M b0 s) :
    Keep M b0 (storeData s b r) := by
  unfold storeData
  repeat' (first
    | (with_reducible intro _) | ((with_reducible refine touch_below hm ?_); rfl)
    | with_reducible refine touchFrame_keep ?_ ?_ | (with_reducible dsimp -zeta only [keep_mk])
    | with_reducible refine keep_mem ?_ ?_ ?_ | with_reducible refine memWrite_ok ?_)
  all_goals assumption

theorem addEdit_keep {M : Touch} {b0 : State} {s : State} {r : StoreReq} {e : KvEntry} (hm : ({ tables := true } : Touch).le M = true) (hs : Keep M b0 s) :
    Keep M b0 (addEdit s r e) := by
  unfold addEdit
  repeat' (first | with_reducible assumption | with_reducible refine modKv_keep ?_ ?_)

theorem copyPage_keep {M : Touch} {b0 : State} {s : State} {src : Nat} {dst : Nat} {log2 : Nat} (hm : ({ mem := true } : Touch).le M = true) (hs : Keep M b0 s) :
    Keep M b0 (copyPage s src dst log2) := by
  unfold copyPage
  repeat' (first
    | (with_reducible intro _) | (with_reducible dsimp -zeta only [keep_mk]) | with_reducible refine keep_mem ?_ ?_ ?_
    | with_reducible refine memWrite_ok ?_)
  all_goals assumption

theorem freshDroppable_keep {M : Touch} {b0 : State} {s : State} (hm : ({ free := true } : Touch).le M = true) (hs : Keep M b0 s) :
    Keep M b0 (freshDroppable s).2 := by
  unfold freshDroppable
  repeat' (first | with_reducible assumption | with_reducible refine freshBits_keep_eq ?_ ?_ (by assumption) | split)
theorem freshDroppable_keep_eq {M : Touch} {b0 : State} {s : State} {w9} {u9 : State} (hm : ({ free := true } : Touch).le M = true) (hs : Keep M b0 s) (e9 : freshDroppable s = (w9, u9)) : Keep M b0 u9 := by
  have := freshDroppable_keep (M := M) (b0 := b0) (s := s) hm hs; rw [e9] at this; exact this

theorem storeCommitted_keep {M : Touch} {b0 : State} {s : State} {t : KvTable} {r : StoreReq} (hm : ({ free := true, tables := true, frames := true, decs := true, mem := true } : Touch).le M = true) (hs : Keep M b0 s) :
    KeepSome M b0 (storeCommitted s t r) := by
  unfold storeCommitted
  repeat' (first
    | with_reducible assumption | with_reducible refine keepSome_map ?_ | with_reducible refine keepSome_some ?_
    | ((with_reducible intro x); clear_value x) | (with_reducible intro _) | ((with_reducible refine touch_below hm ?_); rfl)
    | with_reducible refine storeData_keep ?_ ?_ | with_reducible refine addEdit_keep ?_ ?_
    | with_reducible refine sendDec_keep ?_ ?_ | with_reducible refine copyPage_keep ?_ ?_
    | with_reducible refine keepPair_elim2 (allocFrame_keep ?_ ?_) (by assumption)
    | with_reducible refine freshDroppable_keep ?_ ?_ | split | (with_reducible dsimp only))

theorem setOverlay_keep {M : Touch} {b0 : State} {s : State} {r : StoreReq} {k : Nat} {e : KvEntry} (hm : ({ tables := true } : Touch).le M = true) (hs : Keep M b0 s) :
    Keep M b0 (setOverlay s r k e) := by
  unfold setOverlay
  repeat' (first | with_reducible assumption | with_reducible refine modKv_keep ?_ ?_)

theorem storeOverlay_keep {M : Touch} {b0 : State} {s : State} {t : KvTable} {q : KvSession} {r : StoreReq} {k : Nat} (hm : ({ free := true, tables := true, frames := true, mem := true } : Touch).le M = true) (hs : Keep M b0 s) :
    KeepSome M b0 (storeOverlay s t q r k) := by
  unfold storeOverlay
  repeat' (first
    | with_reducible assumption | with_reducible refine keepSome_map ?_ | with_reducible refine keepSome_some ?_
    | ((with_reducible intro x); clear_value x) | (with_reducible intro _) | ((with_reducible refine touch_below hm ?_); rfl)
    | with_reducible refine storeData_keep ?_ ?_ | with_reducible refine setOverlay_keep ?_ ?_
    | with_reducible refine copyPage_keep ?_ ?_ | with_reducible refine freshDroppable_keep ?_ ?_
    | with_reducible refine keepPair_elim2 (allocFrame_keep ?_ ?_) (by assumption) | split)

theorem kvStore_keep {M : Touch} {b0 : State} {s : State} {r : StoreReq} (hm : ({ free := true, tables := true, frames := true, decs := true, mem := true } : Touch).le M = true) (hs : Keep M b0 s) :
    KeepSome M b0 (kvStore s r) := by
  unfold kvStore
  repeat' (first
    | with_reducible assumption | with_reducible refine keepSome_some ?_ | ((with_reducible refine touch_below hm ?_); rfl)
    | with_reducible refine storeCommitted_keep ?_ ?_ | with_reducible refine storeOverlay_keep ?_ ?_ | split)

theorem commitEntry_keep {M : Touch} {b0 : State} {s : State} {c : Nat} {h : Nat} {p : Nat × KvEntry} (hm : ({ tables := true, decs := true } : Touch).le M = true) (hs : Keep M b0 s) :
    Keep M b0 (commitEntry s c h p) := by
  unfold commitEntry
  repeat' (first
    | with_reducible assumption | ((with_reducible intro x); refine keep_cut (m := M) (s := b0) x ?_ (fun _ => ?_); subst x)
    | (with_reducible intro _) | ((with_reducible refine touch_below hm ?_); rfl) | with_reducible refine sendDec_keep ?_ ?_
    | with_reducible refine modKv_keep ?_ ?_ | with_reducible refine keep_elim ?_ ?_ | split)

theorem kvCommit_keep {M : Touch} {b0 : State} {s : State} {c : Nat} {h : Nat} {leaf : Nat} {step : Nat} (hm : ({ plans := true, tables := true, frames := true, decs := true } : Touch).le M = true) (hs : Keep M b0 s) :
    Keep M b0 (kvCommit s c h leaf step) := by
  unfold kvCommit
  repeat' (first
    | with_reducible assumption | ((with_reducible intro x); refine keep_cut (m := M) (s := b0) x ?_ (fun _ => ?_); subst x)
    | (with_reducible intro _) | ((with_reducible refine touch_below hm ?_); rfl) | with_reducible refine modKv_keep ?_ ?_
    | with_reducible refine commitEntry_keep ?_ ?_ | with_reducible refine addItem_keep ?_ ?_
    | with_reducible refine decFrame_keep ?_ ?_ | with_reducible refine keep_foldl ?_ ?_ | split)

theorem closeSessions_keep {M : Touch} {b0 : State} {s : State} {key : PlanKey} {room : Option Nat} {step : Nat} (hm : ({ plans := true, tables := true, frames := true, decs := true } : Touch).le M = true) (hs : Keep M b0 s) :
    Keep M b0 (closeSessions s key room step) := by
  unfold closeSessions
  repeat' (first
    | with_reducible assumption | (with_reducible intro _) | with_reducible refine kvCommit_keep ?_ ?_
    | with_reducible refine keep_foldl ?_ ?_ | split)

theorem dropOne_keep {M : Touch} {b0 : State} {s : State} {c : Nat} {d : DropCand} (hm : ({ tables := true, frames := true } : Touch).le M = true) (hs : Keep M b0 s) :
    Keep M b0 (dropOne s c d) := by
  unfold dropOne
  repeat' (first
    | with_reducible assumption | ((with_reducible refine touch_below hm ?_); rfl) | with_reducible refine decFrame_keep ?_ ?_
    | with_reducible refine modKv_keep ?_ ?_)

theorem afterReturn_keep {M : Touch} {b0 : State} {s : State} (hm : ({ frames := true } : Touch).le M = true) (hs : Keep M b0 s) :
    Keep M b0 (afterReturn s) := by
  unfold afterReturn
  repeat' (first
    | with_reducible assumption | (with_reducible dsimp -zeta only [keep_mk]) | with_reducible refine keep_frames ?_ ?_)

theorem dropLoop_keep {M : Touch} {b0 : State} {s : State} {c : Nat} {l : List DropCand} (hm : ({ tables := true, frames := true } : Touch).le M = true) (hs : Keep M b0 s) :
    Keep M b0 (dropLoop s c l) := by
  induction l generalizing s with
  | nil => exact hs
  | cons d r ih =>
    unfold dropLoop
    split
    · exact hs
    · exact ih (dropOne_keep (touch_below hm rfl) hs)

theorem poolPressure_keep {M : Touch} {b0 : State} {s : State} {n : Nat} {c : Nat} (hm : ({ tables := true, frames := true } : Touch).le M = true) (hs : Keep M b0 s) :
    Keep M b0 (poolPressure s n c) := by
  unfold poolPressure
  repeat' (first
    | with_reducible assumption | (with_reducible intro _) | with_reducible refine dropLoop_keep ?_ ?_ | split)

theorem dropPages_keep {M : Touch} {b0 : State} {s : State} {n : Nat} (hm : ({ tables := true, frames := true } : Touch).le M = true) (hs : Keep M b0 s) :
    Keep M b0 (dropPages s n) := by
  unfold dropPages
  repeat' (first
    | with_reducible assumption | (with_reducible intro _) | with_reducible refine poolPressure_keep ?_ ?_
    | with_reducible refine keep_foldl ?_ ?_)

end Sys2Proof.Laws
end

