-- ==== Sys2Proof/Laws/KeepOperands.lean ====
section
/-! SUPPORT. What each operation of Machine/Operands.lean may change. -/
namespace Sys2Proof.Laws

open Sys2Proof Sys2Proof.Machine
set_option linter.unusedVariables false

theorem RC_s_keep {M : Touch} {b0 : State} {self : RC} (hm : ({} : Touch).le M = true) (hself : Keep M b0 self.s) :
    Keep M b0 (RC.s self) := by
  unfold RC.s
  repeat' (first | with_reducible assumption)

theorem putTh_keep {M : Touch} {b0 : State} {s : State} {x : Thread} (hm : ({ threads := true } : Touch).le M = true) (hs : Keep M b0 s) :
    Keep M b0 (putTh s x) := by
  unfold putTh
  repeat' (first | with_reducible assumption | with_reducible refine modTh_keep ?_ ?_)

theorem raisePlan_keep {M : Touch} {b0 : State} {s : State} {k : PlanKey} {f : FaultIn} {spare : Nat} (hm : ({ dev := true, plans := true, flog := true, links := true } : Touch).le M = true) (hs : Keep M b0 s) :
    Keep M b0 (raisePlan s k f spare) := by
  unfold raisePlan
  repeat' (first
    | with_reducible assumption | ((with_reducible intro x); refine keep_cut (m := M) (s := b0) x ?_ (fun _ => ?_); subst x)
    | (with_reducible intro _) | ((with_reducible refine touch_below hm ?_); rfl) | with_reducible refine raise_keep ?_ ?_
    | with_reducible refine modPlan_keep ?_ ?_ | split | (with_reducible dsimp only))

theorem setCause_keep {M : Touch} {b0 : State} {s : State} {k : PlanKey} {c : Byte} (hm : ({ plans := true } : Touch).le M = true) (hs : Keep M b0 s) :
    Keep M b0 (setCause s k c) := by
  unfold setCause
  repeat' (first | with_reducible assumption | with_reducible refine modPlan_keep ?_ ?_)

theorem refuseFor_keep {M : Touch} {b0 : State} {s : State} {t : Tid} {k : Nat} {code : Nat} {pc : Nat} {d1 : Nat} {cause : Byte} (hm : ({ dev := true, plans := true, threads := true, flog := true, links := true } : Touch).le M = true) (hs : Keep M b0 s) :
    Keep M b0 (refuseFor s t k code pc d1 cause) := by
  unfold refuseFor
  repeat' (first
    | with_reducible assumption | (with_reducible exact keep_refl _ _) | with_reducible refine keepOut_next ?_
    | ((with_reducible intro x); refine keep_cut (m := M) (s := b0) x ?_ (fun _ => ?_); subst x)
    | ((with_reducible intro x); refine keep_cut_fst (m := M) (s := b0) x ?_ (fun _ => ?_); subst x)
    | ((with_reducible intro x); refine keep_cut_snd (m := M) (s := b0) x ?_ (fun _ => ?_); subst x)
    | ((with_reducible intro x); refine keep_cut_some (m := M) (s := b0) x ?_ (fun _ => ?_); subst x)
    | ((with_reducible intro x); refine keep_cut_pair (m := M) (s := b0) x ?_ (fun _ => ?_); subst x)
    | ((with_reducible intro x); refine keep_cut_run (m := M) (s := b0) x ?_ (fun _ => ?_); subst x)
    | ((with_reducible intro x); refine cell_id x ?_; subst x) | ((with_reducible intro x); refine fun_id x ?_; subst x)
    | ((with_reducible intro x); clear_value x) | (with_reducible intro _) | lift_lets
    | ((with_reducible refine touch_below hm ?_); rfl) | with_reducible refine raisePlan_keep ?_ ?_
    | with_reducible refine setCause_keep ?_ ?_ | with_reducible refine modPlan_keep ?_ ?_
    | with_reducible refine modTh_keep ?_ ?_ | with_reducible refine keep_elim ?_ ?_ | with_reducible refine keep_getD ?_ ?_
    | with_reducible refine keep_foldl_fst ?_ ?_ | with_reducible refine keep_repeat ?_ ?_
    | with_reducible refine keep_foldl_snd ?_ ?_ | with_reducible refine keep_ite ?_ ?_
    | with_reducible refine keep_foldl ?_ ?_ | with_reducible exact keep_of_fst (by assumption) (by assumption)
    | with_reducible exact keep_enter (by assumption) (by assumption)
    | with_reducible exact keepSome_elim (by assumption) (by assumption)
    | with_reducible exact keepPair_elim (by assumption) (by assumption)
    | with_reducible exact keepPair_elim2 (by assumption) (by assumption)
    | with_reducible exact keep_of_snd (by assumption) (by assumption) | split | with_reducible refine keepSome_bind ?_
    | with_reducible refine keepSome_elim ?_ (by assumption) | (cases ‹_ = some _›) | (with_reducible dsimp only))

theorem refuseRoom_keep {M : Touch} {b0 : State} {s : State} {t : Tid} {k : Nat} {code : Nat} {pc : Nat} {d1 : Nat} (hm : ({ dev := true, plans := true, threads := true, flog := true, links := true } : Touch).le M = true) (hs : Keep M b0 s) :
    Keep M b0 (refuseRoom s t k code pc d1) := by
  unfold refuseRoom
  repeat' (first
    | with_reducible assumption | (with_reducible exact keep_refl _ _) | with_reducible refine keepOut_next ?_
    | ((with_reducible intro x); refine keep_cut (m := M) (s := b0) x ?_ (fun _ => ?_); subst x)
    | ((with_reducible intro x); refine keep_cut_fst (m := M) (s := b0) x ?_ (fun _ => ?_); subst x)
    | ((with_reducible intro x); refine keep_cut_snd (m := M) (s := b0) x ?_ (fun _ => ?_); subst x)
    | ((with_reducible intro x); refine keep_cut_some (m := M) (s := b0) x ?_ (fun _ => ?_); subst x)
    | ((with_reducible intro x); refine keep_cut_pair (m := M) (s := b0) x ?_ (fun _ => ?_); subst x)
    | ((with_reducible intro x); refine keep_cut_run (m := M) (s := b0) x ?_ (fun _ => ?_); subst x)
    | ((with_reducible intro x); refine cell_id x ?_; subst x) | ((with_reducible intro x); refine fun_id x ?_; subst x)
    | ((with_reducible intro x); clear_value x) | (with_reducible intro _) | lift_lets
    | ((with_reducible refine touch_below hm ?_); rfl) | with_reducible refine refuseFor_keep ?_ ?_
    | with_reducible refine keep_elim ?_ ?_ | with_reducible refine keep_getD ?_ ?_
    | with_reducible refine keep_foldl_fst ?_ ?_ | with_reducible refine keep_repeat ?_ ?_
    | with_reducible refine keep_foldl_snd ?_ ?_ | with_reducible refine keep_ite ?_ ?_
    | with_reducible refine keep_foldl ?_ ?_ | with_reducible exact keep_of_fst (by assumption) (by assumption)
    | with_reducible exact keep_enter (by assumption) (by assumption)
    | with_reducible exact keepSome_elim (by assumption) (by assumption)
    | with_reducible exact keepPair_elim (by assumption) (by assumption)
    | with_reducible exact keepPair_elim2 (by assumption) (by assumption)
    | with_reducible exact keep_of_snd (by assumption) (by assumption) | split | with_reducible refine keepSome_bind ?_
    | with_reducible refine keepSome_elim ?_ (by assumption) | (cases ‹_ = some _›) | (with_reducible dsimp only))

theorem RC_refuse_keep {M : Touch} {b0 : State} {c : RC} {code : Nat} {d1 : Nat} (hm : ({ dev := true, plans := true, threads := true, flog := true, links := true } : Touch).le M = true) (hc : Keep M b0 c.s) :
    Keep M b0 (RC.refuse c code d1) := by
  unfold RC.refuse
  repeat' (first | with_reducible assumption | with_reducible refine refuseRoom_keep ?_ ?_)

theorem RC_issue_keep {M : Touch} {b0 : State} {c : RC} {u : Nat} {reads : List Range} {writes : List Range} {ends : OutEnd} {g : State → Thread → State × Thread} (hm : ({ threads := true } : Touch).le M = true) (hc : Keep M b0 c.s) (hg : ∀ a x, Keep M b0 a → Keep M b0 (g a x).1) :
    Keep M b0 (RC.issue c u reads writes ends g) := by
  unfold RC.issue
  repeat' (first
    | with_reducible assumption | with_reducible refine putTh_keep ?_ ?_ | with_reducible refine hg _ _ ?_ | split)

theorem RC_seq_keep {M : Touch} {b0 : State} {c : RC} {reads : List Range} {writes : List Range} {g : State → Thread → State × Thread} (hm : ({ threads := true } : Touch).le M = true) (hc : Keep M b0 c.s) (hg : ∀ a x, Keep M b0 a → Keep M b0 (g a x).1) :
    Keep M b0 (RC.seq c reads writes g) := by
  unfold RC.seq
  repeat' (first
    | with_reducible assumption | with_reducible refine putTh_keep ?_ ?_ | with_reducible refine hg _ _ ?_ | split)

theorem runIns_keep {M : Touch} {b0 : State} {s : State} {t : Tid} {i : RoomIns} {body : RC → State} (hm : ({ dev := true, plans := true, threads := true, flog := true, links := true } : Touch).le M = true) (hs : Keep M b0 s) (hbody : ∀ c, Keep M b0 c.s → Keep M b0 (body c)) :
    Keep M b0 (runIns s t i body) := by
  unfold runIns
  repeat' (first
    | with_reducible assumption | (with_reducible intro _) | ((with_reducible refine touch_below hm ?_); rfl)
    | with_reducible refine RC_refuse_keep ?_ ?_ | with_reducible refine putTh_keep ?_ ?_ | with_reducible refine hbody _ ?_
    | with_reducible exact keep_enter (by assumption) (by assumption) | split)

theorem freeWindow_keep {M : Touch} {b0 : State} {r : RoomRec} {s : State} {q : Range} (hm : ({ free := true, mem := true } : Touch).le M = true) (hs : Keep M b0 s) :
    Keep M b0 (freeWindow r s q) := by
  unfold freeWindow
  repeat' (first
    | with_reducible assumption | (with_reducible exact keep_refl _ _) | with_reducible refine keepOut_next ?_
    | ((with_reducible intro x); refine keep_cut (m := M) (s := b0) x ?_ (fun _ => ?_); subst x)
    | ((with_reducible intro x); refine keep_cut_fst (m := M) (s := b0) x ?_ (fun _ => ?_); subst x)
    | ((with_reducible intro x); refine keep_cut_snd (m := M) (s := b0) x ?_ (fun _ => ?_); subst x)
    | ((with_reducible intro x); refine keep_cut_some (m := M) (s := b0) x ?_ (fun _ => ?_); subst x)
    | ((with_reducible intro x); refine keep_cut_pair (m := M) (s := b0) x ?_ (fun _ => ?_); subst x)
    | ((with_reducible intro x); refine keep_cut_run (m := M) (s := b0) x ?_ (fun _ => ?_); subst x)
    | ((with_reducible intro x); refine cell_id x ?_; subst x) | ((with_reducible intro x); refine fun_id x ?_; subst x)
    | ((with_reducible intro x); clear_value x) | (with_reducible intro _) | lift_lets
    | ((with_reducible refine touch_below hm ?_); rfl) | with_reducible refine freeBytes_keep ?_ ?_
    | with_reducible refine freeBytes_keep_eq ?_ ?_ (by assumption) | (with_reducible dsimp -zeta only [keep_mk])
    | with_reducible refine keep_mem ?_ ?_ ?_ | with_reducible refine writeTile_ok ?_ | with_reducible refine mmaMem_ok ?_
    | with_reducible refine zeroTiles_ok ?_ | with_reducible refine accOutMem_ok ?_ | with_reducible refine nestMmas_ok ?_
    | with_reducible refine nestOuts_ok ?_ | with_reducible refine nestRun_ok ?_ | with_reducible refine nestEmpty_ok ?_
    | with_reducible refine landImage_ok ?_ | with_reducible refine switchBanks_ok ?_ | with_reducible refine scrub_ok ?_
    | with_reducible refine writeVaMem_ok ?_ | with_reducible refine runIn_ok ?_ | with_reducible refine runOut_ok ?_
    | with_reducible refine statusWrite_ok ?_ | with_reducible refine lateZero_ok ?_ | with_reducible refine expandGroup_ok ?_
    | with_reducible refine expandBlock_ok ?_ | with_reducible refine landBlock_ok ?_ | with_reducible refine landBlocks_ok ?_
    | with_reducible refine wipe_ok ?_ | with_reducible refine clearWindows_ok ?_ | with_reducible refine firstWindows_ok ?_
    | with_reducible refine memPut_ok ?_ | with_reducible refine memWrite_ok ?_ | with_reducible refine memFilter_ok ?_
    | with_reducible refine memFold_ok ?_ ?_ | with_reducible refine memIte_ok ?_ ?_ | with_reducible refine keep_elim ?_ ?_
    | with_reducible refine keep_getD ?_ ?_ | with_reducible refine keep_foldl_fst ?_ ?_
    | with_reducible refine keep_repeat ?_ ?_ | with_reducible refine keep_foldl_snd ?_ ?_
    | with_reducible refine keep_ite ?_ ?_ | with_reducible refine keep_foldl ?_ ?_
    | with_reducible exact keep_of_fst (by assumption) (by assumption)
    | with_reducible exact keep_enter (by assumption) (by assumption)
    | with_reducible exact keepSome_elim (by assumption) (by assumption)
    | with_reducible exact keepPair_elim (by assumption) (by assumption)
    | with_reducible exact keepPair_elim2 (by assumption) (by assumption)
    | with_reducible exact keep_of_snd (by assumption) (by assumption) | split | with_reducible refine keepSome_bind ?_
    | with_reducible refine keepSome_elim ?_ (by assumption) | (cases ‹_ = some _›) | (with_reducible dsimp only))
  all_goals assumption

end Sys2Proof.Laws
end

