-- ==== Sys2Proof/Laws/KeepRooms.lean ====
section
/-! SUPPORT. What each operation of Machine/Rooms.lean may change. -/
namespace Sys2Proof.Laws

open Sys2Proof Sys2Proof.Machine
set_option linter.unusedVariables false

theorem execRoomNop_keep {M : Touch} {b0 : State} {t : Tid} {i : RoomIns} {s : State} (hm : ({ dev := true, plans := true, threads := true, flog := true, links := true } : Touch).le M = true) (hs : Keep M b0 s) :
    KeepOut M b0 (execRoomNop t i s) := by
  unfold execRoomNop
  repeat' (first
    | with_reducible assumption | with_reducible refine keepOut_next ?_ | (with_reducible intro _)
    | ((with_reducible refine touch_below hm ?_); rfl) | with_reducible refine runIns_keep ?_ ?_ ?_
    | with_reducible refine putTh_keep ?_ ?_)

theorem execJump_keep {M : Touch} {b0 : State} {t : Tid} {i : RoomIns} {s : State} (hm : ({ dev := true, plans := true, threads := true, flog := true, links := true } : Touch).le M = true) (hs : Keep M b0 s) :
    KeepOut M b0 (execJump t i s) := by
  unfold execJump
  repeat' (first
    | with_reducible assumption | with_reducible refine keepOut_next ?_ | (with_reducible intro _)
    | ((with_reducible refine touch_below hm ?_); rfl) | with_reducible refine runIns_keep ?_ ?_ ?_
    | with_reducible refine putTh_keep ?_ ?_)

theorem execCall_keep {M : Touch} {b0 : State} {t : Tid} {i : RoomIns} {s : State} (hm : ({ dev := true, plans := true, threads := true, flog := true, links := true } : Touch).le M = true) (hs : Keep M b0 s) :
    KeepOut M b0 (execCall t i s) := by
  unfold execCall
  repeat' (first
    | with_reducible assumption | with_reducible refine keepOut_next ?_ | (with_reducible intro _)
    | ((with_reducible refine touch_below hm ?_); rfl) | with_reducible refine runIns_keep ?_ ?_ ?_
    | with_reducible refine RC_refuse_keep ?_ ?_ | with_reducible refine putTh_keep ?_ ?_ | split)

theorem execRet_keep {M : Touch} {b0 : State} {t : Tid} {i : RoomIns} {s : State} (hm : ({ dev := true, plans := true, threads := true, flog := true, links := true } : Touch).le M = true) (hs : Keep M b0 s) :
    KeepOut M b0 (execRet t i s) := by
  unfold execRet
  repeat' (first
    | with_reducible assumption | with_reducible refine keepOut_next ?_ | (with_reducible intro _)
    | ((with_reducible refine touch_below hm ?_); rfl) | with_reducible refine runIns_keep ?_ ?_ ?_
    | with_reducible refine RC_refuse_keep ?_ ?_ | with_reducible refine putTh_keep ?_ ?_ | split)

theorem execRepeatLoop_keep {M : Touch} {b0 : State} {t : Tid} {i : RoomIns} {s : State} (hm : ({ dev := true, plans := true, threads := true, flog := true, links := true } : Touch).le M = true) (hs : Keep M b0 s) :
    KeepOut M b0 (execRepeatLoop t i s) := by
  unfold execRepeatLoop
  repeat' (first
    | with_reducible assumption | with_reducible refine keepOut_next ?_ | (with_reducible intro _)
    | ((with_reducible refine touch_below hm ?_); rfl) | with_reducible refine runIns_keep ?_ ?_ ?_
    | with_reducible refine putTh_keep ?_ ?_ | with_reducible refine RC_refuse_keep ?_ ?_ | split
    | (with_reducible dsimp only))

theorem execTrap_keep {M : Touch} {b0 : State} {t : Tid} {i : RoomIns} {s : State} (hm : ({ dev := true, plans := true, threads := true, flog := true, links := true } : Touch).le M = true) (hs : Keep M b0 s) :
    KeepOut M b0 (execTrap t i s) := by
  unfold execTrap
  repeat' (first
    | with_reducible assumption | with_reducible refine keepOut_next ?_ | (with_reducible intro _)
    | with_reducible refine runIns_keep ?_ ?_ ?_ | with_reducible refine RC_refuse_keep ?_ ?_)

theorem scalarOp_keep {M : Touch} {b0 : State} {s : State} {t : Tid} {i : RoomIns} {f : Thread → DWord} (hm : ({ dev := true, plans := true, threads := true, flog := true, links := true } : Touch).le M = true) (hs : Keep M b0 s) :
    Keep M b0 (scalarOp s t i f) := by
  unfold scalarOp
  repeat' (first
    | with_reducible assumption | (with_reducible intro _) | ((with_reducible refine touch_below hm ?_); rfl)
    | with_reducible refine runIns_keep ?_ ?_ ?_ | with_reducible refine putTh_keep ?_ ?_)

theorem aluOp_keep {M : Touch} {b0 : State} {s : State} {t : Tid} {i : RoomIns} {f : DWord → DWord → DWord} (hm : ({ dev := true, plans := true, threads := true, flog := true, links := true } : Touch).le M = true) (hs : Keep M b0 s) :
    Keep M b0 (aluOp s t i f) := by
  unfold aluOp
  repeat' (first | with_reducible assumption | with_reducible refine scalarOp_keep ?_ ?_)

theorem execSadd_keep {M : Touch} {b0 : State} {t : Tid} {i : RoomIns} {s : State} (hm : ({ dev := true, plans := true, threads := true, flog := true, links := true } : Touch).le M = true) (hs : Keep M b0 s) :
    KeepOut M b0 (execSadd t i s) := by
  unfold execSadd
  repeat' (first
    | with_reducible assumption | with_reducible refine keepOut_next ?_ | with_reducible refine aluOp_keep ?_ ?_)

theorem execSsub_keep {M : Touch} {b0 : State} {t : Tid} {i : RoomIns} {s : State} (hm : ({ dev := true, plans := true, threads := true, flog := true, links := true } : Touch).le M = true) (hs : Keep M b0 s) :
    KeepOut M b0 (execSsub t i s) := by
  unfold execSsub
  repeat' (first
    | with_reducible assumption | with_reducible refine keepOut_next ?_ | with_reducible refine aluOp_keep ?_ ?_)

theorem execSmul_keep {M : Touch} {b0 : State} {t : Tid} {i : RoomIns} {s : State} (hm : ({ dev := true, plans := true, threads := true, flog := true, links := true } : Touch).le M = true) (hs : Keep M b0 s) :
    KeepOut M b0 (execSmul t i s) := by
  unfold execSmul
  repeat' (first
    | with_reducible assumption | with_reducible refine keepOut_next ?_ | with_reducible refine aluOp_keep ?_ ?_)

theorem execSand_keep {M : Touch} {b0 : State} {t : Tid} {i : RoomIns} {s : State} (hm : ({ dev := true, plans := true, threads := true, flog := true, links := true } : Touch).le M = true) (hs : Keep M b0 s) :
    KeepOut M b0 (execSand t i s) := by
  unfold execSand
  repeat' (first
    | with_reducible assumption | with_reducible refine keepOut_next ?_ | with_reducible refine aluOp_keep ?_ ?_)

theorem execSor_keep {M : Touch} {b0 : State} {t : Tid} {i : RoomIns} {s : State} (hm : ({ dev := true, plans := true, threads := true, flog := true, links := true } : Touch).le M = true) (hs : Keep M b0 s) :
    KeepOut M b0 (execSor t i s) := by
  unfold execSor
  repeat' (first
    | with_reducible assumption | with_reducible refine keepOut_next ?_ | with_reducible refine aluOp_keep ?_ ?_)

theorem execSxor_keep {M : Touch} {b0 : State} {t : Tid} {i : RoomIns} {s : State} (hm : ({ dev := true, plans := true, threads := true, flog := true, links := true } : Touch).le M = true) (hs : Keep M b0 s) :
    KeepOut M b0 (execSxor t i s) := by
  unfold execSxor
  repeat' (first
    | with_reducible assumption | with_reducible refine keepOut_next ?_ | with_reducible refine aluOp_keep ?_ ?_)

theorem execSshl_keep {M : Touch} {b0 : State} {t : Tid} {i : RoomIns} {s : State} (hm : ({ dev := true, plans := true, threads := true, flog := true, links := true } : Touch).le M = true) (hs : Keep M b0 s) :
    KeepOut M b0 (execSshl t i s) := by
  unfold execSshl
  repeat' (first
    | with_reducible assumption | with_reducible refine keepOut_next ?_ | with_reducible refine aluOp_keep ?_ ?_)

theorem execSshr_keep {M : Touch} {b0 : State} {t : Tid} {i : RoomIns} {s : State} (hm : ({ dev := true, plans := true, threads := true, flog := true, links := true } : Touch).le M = true) (hs : Keep M b0 s) :
    KeepOut M b0 (execSshr t i s) := by
  unfold execSshr
  repeat' (first
    | with_reducible assumption | with_reducible refine keepOut_next ?_ | with_reducible refine aluOp_keep ?_ ?_)

theorem execSmin_keep {M : Touch} {b0 : State} {t : Tid} {i : RoomIns} {s : State} (hm : ({ dev := true, plans := true, threads := true, flog := true, links := true } : Touch).le M = true) (hs : Keep M b0 s) :
    KeepOut M b0 (execSmin t i s) := by
  unfold execSmin
  repeat' (first
    | with_reducible assumption | with_reducible refine keepOut_next ?_ | with_reducible refine aluOp_keep ?_ ?_)

theorem execSmax_keep {M : Touch} {b0 : State} {t : Tid} {i : RoomIns} {s : State} (hm : ({ dev := true, plans := true, threads := true, flog := true, links := true } : Touch).le M = true) (hs : Keep M b0 s) :
    KeepOut M b0 (execSmax t i s) := by
  unfold execSmax
  repeat' (first
    | with_reducible assumption | with_reducible refine keepOut_next ?_ | with_reducible refine aluOp_keep ?_ ?_)

theorem execSli_keep {M : Touch} {b0 : State} {t : Tid} {i : RoomIns} {s : State} (hm : ({ dev := true, plans := true, threads := true, flog := true, links := true } : Touch).le M = true) (hs : Keep M b0 s) :
    KeepOut M b0 (execSli t i s) := by
  unfold execSli
  repeat' (first
    | with_reducible assumption | with_reducible refine keepOut_next ?_ | with_reducible refine scalarOp_keep ?_ ?_)

theorem execScmp_keep {M : Touch} {b0 : State} {t : Tid} {i : RoomIns} {s : State} (hm : ({ dev := true, plans := true, threads := true, flog := true, links := true } : Touch).le M = true) (hs : Keep M b0 s) :
    KeepOut M b0 (execScmp t i s) := by
  unfold execScmp
  repeat' (first
    | with_reducible assumption | with_reducible refine keepOut_next ?_ | (with_reducible intro _)
    | ((with_reducible refine touch_below hm ?_); rfl) | with_reducible refine runIns_keep ?_ ?_ ?_
    | with_reducible refine putTh_keep ?_ ?_)

theorem execSldc_keep {M : Touch} {b0 : State} {t : Tid} {i : RoomIns} {s : State} (hm : ({ dev := true, plans := true, threads := true, flog := true, links := true } : Touch).le M = true) (hs : Keep M b0 s) :
    KeepOut M b0 (execSldc t i s) := by
  unfold execSldc
  repeat' (first
    | with_reducible assumption | with_reducible refine keepOut_next ?_ | (with_reducible intro _)
    | ((with_reducible refine touch_below hm ?_); rfl) | with_reducible refine runIns_keep ?_ ?_ ?_
    | with_reducible refine putTh_keep ?_ ?_)

theorem execSrd_keep {M : Touch} {b0 : State} {t : Tid} {i : RoomIns} {s : State} (hm : ({ dev := true, plans := true, threads := true, flog := true, links := true } : Touch).le M = true) (hs : Keep M b0 s) :
    KeepOut M b0 (execSrd t i s) := by
  unfold execSrd
  repeat' (first
    | with_reducible assumption | with_reducible refine keepOut_next ?_ | (with_reducible intro _)
    | ((with_reducible refine touch_below hm ?_); rfl) | with_reducible refine runIns_keep ?_ ?_ ?_
    | with_reducible refine putTh_keep ?_ ?_)

theorem execSld_keep {M : Touch} {b0 : State} {t : Tid} {i : RoomIns} {s : State} (hm : ({ dev := true, plans := true, threads := true, flog := true, links := true } : Touch).le M = true) (hs : Keep M b0 s) :
    KeepOut M b0 (execSld t i s) := by
  unfold execSld
  repeat' (first
    | with_reducible assumption | with_reducible refine keepOut_next ?_ | (with_reducible intro _)
    | ((with_reducible refine touch_below hm ?_); rfl) | with_reducible refine runIns_keep ?_ ?_ ?_
    | with_reducible refine RC_refuse_keep ?_ ?_ | with_reducible refine RC_seq_keep ?_ ?_ ?_ | split
    | (with_reducible dsimp only))

theorem execSst_keep {M : Touch} {b0 : State} {t : Tid} {i : RoomIns} {s : State} (hm : ({ dev := true, plans := true, threads := true, flog := true, links := true, mem := true } : Touch).le M = true) (hs : Keep M b0 s) :
    KeepOut M b0 (execSst t i s) := by
  unfold execSst
  repeat' (first
    | with_reducible refine keepOut_next ?_ | (with_reducible intro _) | ((with_reducible refine touch_below hm ?_); rfl)
    | with_reducible refine runIns_keep ?_ ?_ ?_ | with_reducible refine RC_refuse_keep ?_ ?_
    | with_reducible refine RC_seq_keep ?_ ?_ ?_ | (with_reducible dsimp -zeta only [keep_mk])
    | with_reducible refine keep_mem ?_ ?_ ?_ | with_reducible refine memWrite_ok ?_ | split | (with_reducible dsimp only))
  all_goals assumption

end Sys2Proof.Laws
end

