-- ==== Sys2Proof/Laws/KeepArrays.lean ====
section
/-! SUPPORT. What each operation of Machine/Arrays.lean may change. -/
namespace Sys2Proof.Laws

open Sys2Proof Sys2Proof.Machine
set_option linter.unusedVariables false

theorem mmaIns_keep {M : Touch} {b0 : State} {s : State} {t : Tid} {i : RoomIns} {array : Nat} (hm : ({ dev := true, plans := true, threads := true, flog := true, links := true, mem := true } : Touch).le M = true) (hs : Keep M b0 s) :
    Keep M b0 (mmaIns s t i array) := by
  unfold mmaIns
  repeat' (first
    | (with_reducible intro _) | ((with_reducible refine touch_below hm ?_); rfl) | with_reducible refine runIns_keep ?_ ?_ ?_
    | with_reducible refine RC_refuse_keep ?_ ?_ | with_reducible refine RC_issue_keep ?_ ?_ ?_
    | (with_reducible dsimp -zeta only [keep_mk]) | with_reducible refine keep_mem ?_ ?_ ?_
    | with_reducible refine mmaMem_ok ?_ | split | (with_reducible dsimp only))
  all_goals assumption

theorem execMmaF_keep {M : Touch} {b0 : State} {t : Tid} {i : RoomIns} {s : State} (hm : ({ dev := true, plans := true, threads := true, flog := true, links := true, mem := true } : Touch).le M = true) (hs : Keep M b0 s) :
    KeepOut M b0 (execMmaF t i s) := by
  unfold execMmaF
  repeat' (first
    | with_reducible assumption | with_reducible refine keepOut_next ?_ | with_reducible refine mmaIns_keep ?_ ?_)

theorem execMmaB0_keep {M : Touch} {b0 : State} {t : Tid} {i : RoomIns} {s : State} (hm : ({ dev := true, plans := true, threads := true, flog := true, links := true, mem := true } : Touch).le M = true) (hs : Keep M b0 s) :
    KeepOut M b0 (execMmaB0 t i s) := by
  unfold execMmaB0
  repeat' (first
    | with_reducible assumption | with_reducible refine keepOut_next ?_ | with_reducible refine mmaIns_keep ?_ ?_)

theorem execMmaB1_keep {M : Touch} {b0 : State} {t : Tid} {i : RoomIns} {s : State} (hm : ({ dev := true, plans := true, threads := true, flog := true, links := true, mem := true } : Touch).le M = true) (hs : Keep M b0 s) :
    KeepOut M b0 (execMmaB1 t i s) := by
  unfold execMmaB1
  repeat' (first
    | with_reducible assumption | with_reducible refine keepOut_next ?_ | with_reducible refine mmaIns_keep ?_ ?_)

theorem execAccZero_keep {M : Touch} {b0 : State} {t : Tid} {i : RoomIns} {s : State} (hm : ({ dev := true, plans := true, threads := true, flog := true, links := true, mem := true } : Touch).le M = true) (hs : Keep M b0 s) :
    KeepOut M b0 (execAccZero t i s) := by
  unfold execAccZero
  repeat' (first
    | with_reducible refine keepOut_next ?_ | (with_reducible intro _) | ((with_reducible refine touch_below hm ?_); rfl)
    | with_reducible refine runIns_keep ?_ ?_ ?_ | with_reducible refine RC_refuse_keep ?_ ?_
    | with_reducible refine RC_issue_keep ?_ ?_ ?_ | (with_reducible dsimp -zeta only [keep_mk])
    | with_reducible refine keep_mem ?_ ?_ ?_ | with_reducible refine zeroTiles_ok ?_ | split | (with_reducible dsimp only))
  all_goals assumption

theorem execAccOut_keep {M : Touch} {b0 : State} {t : Tid} {i : RoomIns} {s : State} (hm : ({ dev := true, plans := true, threads := true, flog := true, links := true, mem := true } : Touch).le M = true) (hs : Keep M b0 s) :
    KeepOut M b0 (execAccOut t i s) := by
  unfold execAccOut
  repeat' (first
    | with_reducible refine keepOut_next ?_ | (with_reducible intro _) | ((with_reducible refine touch_below hm ?_); rfl)
    | with_reducible refine runIns_keep ?_ ?_ ?_ | with_reducible refine RC_refuse_keep ?_ ?_
    | with_reducible refine RC_issue_keep ?_ ?_ ?_ | (with_reducible dsimp -zeta only [keep_mk])
    | with_reducible refine keep_mem ?_ ?_ ?_ | with_reducible refine accOutMem_ok ?_ | split | (with_reducible dsimp only))
  all_goals assumption

theorem execAccIn_keep {M : Touch} {b0 : State} {t : Tid} {i : RoomIns} {s : State} (hm : ({ dev := true, plans := true, threads := true, flog := true, links := true, mem := true } : Touch).le M = true) (hs : Keep M b0 s) :
    KeepOut M b0 (execAccIn t i s) := by
  unfold execAccIn
  repeat' (first
    | with_reducible refine keepOut_next ?_ | (with_reducible intro _) | ((with_reducible refine touch_below hm ?_); rfl)
    | with_reducible refine runIns_keep ?_ ?_ ?_ | with_reducible refine RC_refuse_keep ?_ ?_
    | with_reducible refine RC_issue_keep ?_ ?_ ?_ | (with_reducible dsimp -zeta only [keep_mk])
    | with_reducible refine keep_mem ?_ ?_ ?_ | with_reducible refine memWrite_ok ?_ | split | (with_reducible dsimp only))
  all_goals assumption

theorem tagOutput_keep {M : Touch} {b0 : State} {s : State} {k : PlanKey} {outId : Nat} {live : Bool} (hm : ({ plans := true } : Touch).le M = true) (hs : Keep M b0 s) :
    Keep M b0 (tagOutput s k outId live) := by
  unfold tagOutput
  repeat' (first | with_reducible assumption | with_reducible refine modPlan_keep ?_ ?_)

theorem tagIf_keep {M : Touch} {b0 : State} {s : State} {k : PlanKey} {has : Bool} {outId : Nat} {live : Bool} (hm : ({ plans := true } : Touch).le M = true) (hs : Keep M b0 s) :
    Keep M b0 (tagIf s k has outId live) := by
  unfold tagIf
  repeat' (first
    | with_reducible assumption | (with_reducible intro _) | with_reducible refine tagOutput_keep ?_ ?_ | split)

theorem nestResult_keep {M : Touch} {b0 : State} {r : RoomRec} {soon : Bool} {writes : List Range} {s : State} (hm : ({ free := true, mem := true } : Touch).le M = true) (hs : Keep M b0 s) :
    Keep M b0 (nestResult r soon writes s) := by
  unfold nestResult
  repeat' (first
    | with_reducible assumption | (with_reducible exact keep_refl _ _) | with_reducible refine keepOut_next ?_
    | ((with_reducible intro x); refine keep_cut (m := M) (s := b0) x ?_ (fun _ => ?_); subst x)
    | ((with_reducible intro x); refine keep_cut_fst (m := M) (s := b0) x ?_ (fun _ => ?_); subst x)
    | ((with_reducible intro x); refine keep_cut_snd (m := M) (s := b0) x ?_ (fun _ => ?_); subst x)
    | ((with_reducible intro x); refine keep_cut_some (m := M) (s := b0) x ?_ (fun _ => ?_); subst x)
    | ((with_reducible intro x); refine keep_cut_pair (m := M) (s := b0) x ?_ (fun _ => ?_); subst x)
    | ((with_reducible intro x); refine keep_cut_run (m := M) (s := b0) x ?_ (fun _ => ?_); subst x)
    | ((with_reducible intro x); refine cell_id x ?_; subst x) | ((with_reducible intro x); refine fun_id x ?_; subst x)
    | ((with_reducible intro x); clear_value x) | (with_reducible intro _) | lift_lets
    | ((with_reducible refine touch_below hm ?_); rfl) | with_reducible refine freeWindow_keep ?_ ?_
    | with_reducible refine keep_elim ?_ ?_ | with_reducible refine keep_getD ?_ ?_
    | with_reducible refine keep_foldl_fst ?_ ?_ | with_reducible refine keep_repeat ?_ ?_
    | with_reducible refine keep_foldl_snd ?_ ?_ | with_reducible refine keep_ite ?_ ?_
    | with_reducible refine keep_foldl ?_ ?_ | with_reducible exact keep_of_fst (by assumption) (by assumption)
    | with_reducible exact keep_enter (by assumption) (by assumption)
    | with_reducible exact keepSome_elim (by assumption) (by assumption)
    | with_reducible exact keepPair_elim (by assumption) (by assumption)
    | with_reducible exact keepPair_elim2 (by assumption) (by assumption)
    | with_reducible exact keep_of_snd (by assumption) (by assumption) | split | with_reducible refine keepSome_bind ?_
    | with_reducible refine keepSome_elim ?_ (by assumption) | (cases ‹_ = some _›) | (with_reducible dsimp only))

theorem execNest_keep {M : Touch} {b0 : State} {t : Tid} {i : RoomIns} {s : State} (hm : ({ free := true, dev := true, plans := true, threads := true, flog := true, links := true, mem := true } : Touch).le M = true) (hs : Keep M b0 s) :
    KeepOut M b0 (execNest t i s) := by
  unfold execNest
  repeat' (first
    | with_reducible assumption | (with_reducible exact keep_refl _ _) | with_reducible refine keepOut_next ?_
    | with_reducible refine keepOut_ite ?_ ?_
    | ((with_reducible intro x); refine keep_cut (m := M) (s := b0) x ?_ (fun _ => ?_); subst x)
    | ((with_reducible intro x); refine keep_cut_fst (m := M) (s := b0) x ?_ (fun _ => ?_); subst x)
    | ((with_reducible intro x); refine keep_cut_snd (m := M) (s := b0) x ?_ (fun _ => ?_); subst x)
    | ((with_reducible intro x); refine keep_cut_some (m := M) (s := b0) x ?_ (fun _ => ?_); subst x)
    | ((with_reducible intro x); refine keep_cut_pair (m := M) (s := b0) x ?_ (fun _ => ?_); subst x)
    | ((with_reducible intro x); refine keep_cut_run (m := M) (s := b0) x ?_ (fun _ => ?_); subst x)
    | ((with_reducible intro x); refine cell_id x ?_; subst x) | ((with_reducible intro x); refine fun_id x ?_; subst x)
    | ((with_reducible intro x); clear_value x) | (with_reducible intro _) | lift_lets
    | ((with_reducible refine touch_below hm ?_); rfl) | with_reducible refine runIns_keep ?_ ?_ ?_
    | with_reducible refine RC_refuse_keep ?_ ?_ | with_reducible refine RC_issue_keep ?_ ?_ ?_
    | with_reducible refine tagIf_keep ?_ ?_ | with_reducible refine nestResult_keep ?_ ?_
    | (with_reducible dsimp -zeta only [keep_mk]) | with_reducible refine keep_mem ?_ ?_ ?_
    | with_reducible refine writeTile_ok ?_ | with_reducible refine mmaMem_ok ?_ | with_reducible refine zeroTiles_ok ?_
    | with_reducible refine accOutMem_ok ?_ | with_reducible refine nestMmas_ok ?_ | with_reducible refine nestOuts_ok ?_
    | with_reducible refine nestRun_ok ?_ | with_reducible refine nestEmpty_ok ?_ | with_reducible refine landImage_ok ?_
    | with_reducible refine switchBanks_ok ?_ | with_reducible refine scrub_ok ?_ | with_reducible refine writeVaMem_ok ?_
    | with_reducible refine runIn_ok ?_ | with_reducible refine runOut_ok ?_ | with_reducible refine statusWrite_ok ?_
    | with_reducible refine lateZero_ok ?_ | with_reducible refine expandGroup_ok ?_ | with_reducible refine expandBlock_ok ?_
    | with_reducible refine landBlock_ok ?_ | with_reducible refine landBlocks_ok ?_ | with_reducible refine wipe_ok ?_
    | with_reducible refine clearWindows_ok ?_ | with_reducible refine firstWindows_ok ?_ | with_reducible refine memPut_ok ?_
    | with_reducible refine memWrite_ok ?_ | with_reducible refine memFilter_ok ?_ | with_reducible refine memFold_ok ?_ ?_
    | with_reducible refine memIte_ok ?_ ?_ | with_reducible refine keep_elim ?_ ?_ | with_reducible refine keep_getD ?_ ?_
    | with_reducible refine keep_foldl_fst ?_ ?_ | with_reducible refine keep_repeat ?_ ?_
    | with_reducible refine keep_foldl_snd ?_ ?_ | with_reducible refine keep_ite ?_ ?_
    | with_reducible refine keep_foldl ?_ ?_ | with_reducible exact keep_of_fst (by assumption) (by assumption)
    | with_reducible exact keep_enter (by assumption) (by assumption)
    | with_reducible exact keepSome_elim (by assumption) (by assumption)
    | with_reducible exact keepPair_elim (by assumption) (by assumption)
    | with_reducible exact keepPair_elim2 (by assumption) (by assumption)
    | with_reducible exact keep_of_snd (by assumption) (by assumption) | split | with_reducible refine keepSome_bind ?_
    | with_reducible refine keepSome_elim ?_ (by assumption) | (cases ‹_ = some _›) | (with_reducible dsimp only))
  all_goals assumption

end Sys2Proof.Laws
end

