-- ==== Sys2Proof/Laws/KeepVector.lean ====
section
/-! SUPPORT. What each operation of Machine/Vector.lean may change. -/
namespace Sys2Proof.Laws

open Sys2Proof Sys2Proof.Machine
set_option linter.unusedVariables false

theorem vecOp_keep {M : Touch} {b0 : State} {s : State} {t : Tid} {i : RoomIns} {reads : List Range} {f : Thread → List Word} (hm : ({ dev := true, plans := true, threads := true, flog := true, links := true } : Touch).le M = true) (hs : Keep M b0 s) :
    Keep M b0 (vecOp s t i reads f) := by
  unfold vecOp
  repeat' (first
    | with_reducible assumption | (with_reducible intro _) | ((with_reducible refine touch_below hm ?_); rfl)
    | with_reducible refine runIns_keep ?_ ?_ ?_ | with_reducible refine RC_issue_keep ?_ ?_ ?_)

theorem vec2_keep {M : Touch} {b0 : State} {s : State} {t : Tid} {i : RoomIns} {f : Word → Word → Word} (hm : ({ dev := true, plans := true, threads := true, flog := true, links := true } : Touch).le M = true) (hs : Keep M b0 s) :
    Keep M b0 (vec2 s t i f) := by
  unfold vec2
  repeat' (first | with_reducible assumption | with_reducible refine vecOp_keep ?_ ?_)

theorem execVadd_keep {M : Touch} {b0 : State} {t : Tid} {i : RoomIns} {s : State} (hm : ({ dev := true, plans := true, threads := true, flog := true, links := true } : Touch).le M = true) (hs : Keep M b0 s) :
    KeepOut M b0 (execVadd t i s) := by
  unfold execVadd
  repeat' (first
    | with_reducible assumption | with_reducible refine keepOut_next ?_ | with_reducible refine vec2_keep ?_ ?_)

theorem execVsub_keep {M : Touch} {b0 : State} {t : Tid} {i : RoomIns} {s : State} (hm : ({ dev := true, plans := true, threads := true, flog := true, links := true } : Touch).le M = true) (hs : Keep M b0 s) :
    KeepOut M b0 (execVsub t i s) := by
  unfold execVsub
  repeat' (first
    | with_reducible assumption | with_reducible refine keepOut_next ?_ | with_reducible refine vec2_keep ?_ ?_)

theorem execVmul_keep {M : Touch} {b0 : State} {t : Tid} {i : RoomIns} {s : State} (hm : ({ dev := true, plans := true, threads := true, flog := true, links := true } : Touch).le M = true) (hs : Keep M b0 s) :
    KeepOut M b0 (execVmul t i s) := by
  unfold execVmul
  repeat' (first
    | with_reducible assumption | with_reducible refine keepOut_next ?_ | with_reducible refine vec2_keep ?_ ?_)

theorem execVmax_keep {M : Touch} {b0 : State} {t : Tid} {i : RoomIns} {s : State} (hm : ({ dev := true, plans := true, threads := true, flog := true, links := true } : Touch).le M = true) (hs : Keep M b0 s) :
    KeepOut M b0 (execVmax t i s) := by
  unfold execVmax
  repeat' (first
    | with_reducible assumption | with_reducible refine keepOut_next ?_ | with_reducible refine vec2_keep ?_ ?_)

theorem execVmin_keep {M : Touch} {b0 : State} {t : Tid} {i : RoomIns} {s : State} (hm : ({ dev := true, plans := true, threads := true, flog := true, links := true } : Touch).le M = true) (hs : Keep M b0 s) :
    KeepOut M b0 (execVmin t i s) := by
  unfold execVmin
  repeat' (first
    | with_reducible assumption | with_reducible refine keepOut_next ?_ | with_reducible refine vec2_keep ?_ ?_)

theorem execVfma_keep {M : Touch} {b0 : State} {t : Tid} {i : RoomIns} {s : State} (hm : ({ dev := true, plans := true, threads := true, flog := true, links := true } : Touch).le M = true) (hs : Keep M b0 s) :
    KeepOut M b0 (execVfma t i s) := by
  unfold execVfma
  repeat' (first
    | with_reducible assumption | with_reducible refine keepOut_next ?_ | with_reducible refine vecOp_keep ?_ ?_)

theorem execVsel_keep {M : Touch} {b0 : State} {t : Tid} {i : RoomIns} {s : State} (hm : ({ dev := true, plans := true, threads := true, flog := true, links := true } : Touch).le M = true) (hs : Keep M b0 s) :
    KeepOut M b0 (execVsel t i s) := by
  unfold execVsel
  repeat' (first
    | with_reducible assumption | with_reducible refine keepOut_next ?_ | with_reducible refine vecOp_keep ?_ ?_)

theorem execVbc_keep {M : Touch} {b0 : State} {t : Tid} {i : RoomIns} {s : State} (hm : ({ dev := true, plans := true, threads := true, flog := true, links := true } : Touch).le M = true) (hs : Keep M b0 s) :
    KeepOut M b0 (execVbc t i s) := by
  unfold execVbc
  repeat' (first
    | with_reducible assumption | with_reducible refine keepOut_next ?_ | with_reducible refine vecOp_keep ?_ ?_)

theorem execVidx_keep {M : Touch} {b0 : State} {t : Tid} {i : RoomIns} {s : State} (hm : ({ dev := true, plans := true, threads := true, flog := true, links := true } : Touch).le M = true) (hs : Keep M b0 s) :
    KeepOut M b0 (execVidx t i s) := by
  unfold execVidx
  repeat' (first
    | with_reducible assumption | with_reducible refine keepOut_next ?_ | with_reducible refine vecOp_keep ?_ ?_)

theorem execVrng_keep {M : Touch} {b0 : State} {t : Tid} {i : RoomIns} {s : State} (hm : ({ dev := true, plans := true, threads := true, flog := true, links := true } : Touch).le M = true) (hs : Keep M b0 s) :
    KeepOut M b0 (execVrng t i s) := by
  unfold execVrng
  repeat' (first
    | with_reducible assumption | with_reducible refine keepOut_next ?_ | (with_reducible intro _)
    | ((with_reducible refine touch_below hm ?_); rfl) | with_reducible refine runIns_keep ?_ ?_ ?_
    | with_reducible refine RC_issue_keep ?_ ?_ ?_)

theorem execVcmp_keep {M : Touch} {b0 : State} {t : Tid} {i : RoomIns} {s : State} (hm : ({ dev := true, plans := true, threads := true, flog := true, links := true } : Touch).le M = true) (hs : Keep M b0 s) :
    KeepOut M b0 (execVcmp t i s) := by
  unfold execVcmp
  repeat' (first
    | with_reducible assumption | with_reducible refine keepOut_next ?_ | (with_reducible intro _)
    | ((with_reducible refine touch_below hm ?_); rfl) | with_reducible refine runIns_keep ?_ ?_ ?_
    | with_reducible refine RC_issue_keep ?_ ?_ ?_)

theorem execVred_keep {M : Touch} {b0 : State} {t : Tid} {i : RoomIns} {s : State} (hm : ({ dev := true, plans := true, threads := true, flog := true, links := true } : Touch).le M = true) (hs : Keep M b0 s) :
    KeepOut M b0 (execVred t i s) := by
  unfold execVred
  repeat' (first
    | with_reducible assumption | with_reducible refine keepOut_next ?_ | (with_reducible intro _)
    | ((with_reducible refine touch_below hm ?_); rfl) | with_reducible refine runIns_keep ?_ ?_ ?_
    | with_reducible refine RC_seq_keep ?_ ?_ ?_)

theorem execVld_keep {M : Touch} {b0 : State} {t : Tid} {i : RoomIns} {s : State} (hm : ({ dev := true, plans := true, threads := true, flog := true, links := true } : Touch).le M = true) (hs : Keep M b0 s) :
    KeepOut M b0 (execVld t i s) := by
  unfold execVld
  repeat' (first
    | with_reducible assumption | with_reducible refine keepOut_next ?_ | (with_reducible intro _)
    | ((with_reducible refine touch_below hm ?_); rfl) | with_reducible refine runIns_keep ?_ ?_ ?_
    | with_reducible refine RC_refuse_keep ?_ ?_ | with_reducible refine RC_issue_keep ?_ ?_ ?_ | split
    | (with_reducible dsimp only))

theorem execVst_keep {M : Touch} {b0 : State} {t : Tid} {i : RoomIns} {s : State} (hm : ({ dev := true, plans := true, threads := true, flog := true, links := true, mem := true } : Touch).le M = true) (hs : Keep M b0 s) :
    KeepOut M b0 (execVst t i s) := by
  unfold execVst
  repeat' (first
    | with_reducible refine keepOut_next ?_ | (with_reducible intro _) | ((with_reducible refine touch_below hm ?_); rfl)
    | with_reducible refine runIns_keep ?_ ?_ ?_ | with_reducible refine RC_refuse_keep ?_ ?_
    | with_reducible refine RC_issue_keep ?_ ?_ ?_ | (with_reducible dsimp -zeta only [keep_mk])
    | with_reducible refine keep_mem ?_ ?_ ?_ | with_reducible refine memWrite_ok ?_ | split | (with_reducible dsimp only))
  all_goals assumption

theorem execVlda_keep {M : Touch} {b0 : State} {t : Tid} {i : RoomIns} {s : State} (hm : ({ dev := true, plans := true, threads := true, flog := true, links := true } : Touch).le M = true) (hs : Keep M b0 s) :
    KeepOut M b0 (execVlda t i s) := by
  unfold execVlda
  repeat' (first
    | with_reducible assumption | with_reducible refine keepOut_next ?_ | (with_reducible intro _)
    | ((with_reducible refine touch_below hm ?_); rfl) | with_reducible refine runIns_keep ?_ ?_ ?_
    | with_reducible refine RC_refuse_keep ?_ ?_ | with_reducible refine RC_issue_keep ?_ ?_ ?_ | split
    | (with_reducible dsimp only))

theorem execVsta_keep {M : Touch} {b0 : State} {t : Tid} {i : RoomIns} {s : State} (hm : ({ dev := true, plans := true, threads := true, flog := true, links := true, mem := true } : Touch).le M = true) (hs : Keep M b0 s) :
    KeepOut M b0 (execVsta t i s) := by
  unfold execVsta
  repeat' (first
    | with_reducible refine keepOut_next ?_ | (with_reducible intro _) | ((with_reducible refine touch_below hm ?_); rfl)
    | with_reducible refine runIns_keep ?_ ?_ ?_ | with_reducible refine RC_refuse_keep ?_ ?_
    | with_reducible refine RC_issue_keep ?_ ?_ ?_ | (with_reducible dsimp -zeta only [keep_mk])
    | with_reducible refine keep_mem ?_ ?_ ?_ | with_reducible refine memWrite_ok ?_ | split | (with_reducible dsimp only))
  all_goals assumption

theorem execFnTable_keep {M : Touch} {b0 : State} {t : Tid} {i : RoomIns} {s : State} (hm : ({ dev := true, plans := true, threads := true, flog := true, links := true } : Touch).le M = true) (hs : Keep M b0 s) :
    KeepOut M b0 (execFnTable t i s) := by
  unfold execFnTable
  repeat' (first
    | with_reducible assumption | with_reducible refine keepOut_next ?_ | (with_reducible intro _)
    | ((with_reducible refine touch_below hm ?_); rfl) | with_reducible refine runIns_keep ?_ ?_ ?_
    | with_reducible refine RC_issue_keep ?_ ?_ ?_)

theorem execFnMicro_keep {M : Touch} {b0 : State} {t : Tid} {i : RoomIns} {s : State} (hm : ({ dev := true, plans := true, threads := true, flog := true, links := true } : Touch).le M = true) (hs : Keep M b0 s) :
    KeepOut M b0 (execFnMicro t i s) := by
  unfold execFnMicro
  repeat' (first
    | with_reducible assumption | with_reducible refine keepOut_next ?_ | (with_reducible intro _)
    | ((with_reducible refine touch_below hm ?_); rfl) | with_reducible refine runIns_keep ?_ ?_ ?_
    | with_reducible refine RC_issue_keep ?_ ?_ ?_)

theorem execRstat_keep {M : Touch} {b0 : State} {t : Tid} {i : RoomIns} {s : State} (hm : ({ dev := true, plans := true, threads := true, flog := true, links := true } : Touch).le M = true) (hs : Keep M b0 s) :
    KeepOut M b0 (execRstat t i s) := by
  unfold execRstat
  repeat' (first
    | with_reducible assumption | with_reducible refine keepOut_next ?_ | (with_reducible intro _)
    | ((with_reducible refine touch_below hm ?_); rfl) | with_reducible refine runIns_keep ?_ ?_ ?_
    | with_reducible refine RC_issue_keep ?_ ?_ ?_)

theorem execTblLoad_keep {M : Touch} {b0 : State} {t : Tid} {i : RoomIns} {s : State} (hm : ({ dev := true, plans := true, threads := true, flog := true, links := true, mem := true } : Touch).le M = true) (hs : Keep M b0 s) :
    KeepOut M b0 (execTblLoad t i s) := by
  unfold execTblLoad
  repeat' (first
    | with_reducible refine keepOut_next ?_ | (with_reducible intro _) | ((with_reducible refine touch_below hm ?_); rfl)
    | with_reducible refine runIns_keep ?_ ?_ ?_ | with_reducible refine RC_issue_keep ?_ ?_ ?_
    | (with_reducible dsimp -zeta only [keep_mk]) | with_reducible refine keep_mem ?_ ?_ ?_
    | with_reducible refine memWrite_ok ?_)
  all_goals assumption

end Sys2Proof.Laws
end

