-- ==== Sys2Proof/Laws/KeepMove.lean ====
section
/-! SUPPORT. What each operation of Machine/Move.lean may change. -/
namespace Sys2Proof.Laws

open Sys2Proof Sys2Proof.Machine
set_option linter.unusedVariables false

theorem lateFetch_keep {M : Touch} {b0 : State} {s : State} {t : Tid} {k : Nat} {pc : Nat} {occ : Nat} (hm : ({ dev := true, plans := true, flog := true, links := true } : Touch).le M = true) (hs : Keep M b0 s) :
    Keep M b0 (lateFetch s t k pc occ) := by
  unfold lateFetch
  repeat' (first
    | with_reducible assumption | ((with_reducible intro x); refine keep_cut (m := M) (s := b0) x ?_ (fun _ => ?_); subst x)
    | ((with_reducible refine touch_below hm ?_); rfl) | with_reducible refine raisePlan_keep ?_ ?_
    | with_reducible refine addItem_keep ?_ ?_ | with_reducible refine modPlan_keep ?_ ?_)

theorem execDmaIn_keep {M : Touch} {b0 : State} {t : Tid} {i : RoomIns} {s : State} (hm : ({ dev := true, plans := true, threads := true, flog := true, links := true, mem := true } : Touch).le M = true) (hs : Keep M b0 s) :
    KeepOut M b0 (execDmaIn t i s) := by
  unfold execDmaIn
  repeat' (first
    | with_reducible refine keepOut_next ?_ | (with_reducible intro _) | ((with_reducible refine touch_below hm ?_); rfl)
    | with_reducible refine runIns_keep ?_ ?_ ?_ | with_reducible refine RC_refuse_keep ?_ ?_
    | with_reducible refine RC_issue_keep ?_ ?_ ?_ | with_reducible refine lateFetch_keep ?_ ?_
    | (with_reducible dsimp -zeta only [keep_mk]) | with_reducible refine keep_mem ?_ ?_ ?_
    | with_reducible refine runIn_ok ?_ | with_reducible refine statusWrite_ok ?_ | with_reducible refine lateZero_ok ?_
    | split | (with_reducible dsimp only))
  all_goals assumption

theorem execDmaOut_keep {M : Touch} {b0 : State} {t : Tid} {i : RoomIns} {s : State} (hm : ({ dev := true, plans := true, threads := true, flog := true, links := true, mem := true } : Touch).le M = true) (hs : Keep M b0 s) :
    KeepOut M b0 (execDmaOut t i s) := by
  unfold execDmaOut
  repeat' (first
    | with_reducible refine keepOut_next ?_ | (with_reducible intro _) | ((with_reducible refine touch_below hm ?_); rfl)
    | with_reducible refine runIns_keep ?_ ?_ ?_ | with_reducible refine RC_refuse_keep ?_ ?_
    | with_reducible refine RC_issue_keep ?_ ?_ ?_ | (with_reducible dsimp -zeta only [keep_mk])
    | with_reducible refine keep_mem ?_ ?_ ?_ | with_reducible refine runOut_ok ?_ | split | (with_reducible dsimp only))
  all_goals assumption

theorem lateEnd_keep {M : Touch} {b0 : State} {s : State} {t : Tid} {late : Bool} (hm : ({ dev := true, plans := true, threads := true, flog := true, links := true, mem := true } : Touch).le M = true) (hs : Keep M b0 s) :
    Keep M b0 (lateEnd s t late) := by
  unfold lateEnd
  repeat' (first
    | (with_reducible intro _) | ((with_reducible refine touch_below hm ?_); rfl) | with_reducible refine modTh_keep ?_ ?_
    | with_reducible refine lateFetch_keep ?_ ?_ | (with_reducible dsimp -zeta only [keep_mk])
    | with_reducible refine keep_mem ?_ ?_ ?_ | with_reducible refine runIn_ok ?_ | with_reducible refine statusWrite_ok ?_
    | with_reducible refine lateZero_ok ?_ | split)
  all_goals assumption

theorem dropWall_keep {M : Touch} {b0 : State} {s : State} {t : Tid} {f : Out → Bool} (hm : ({ threads := true } : Touch).le M = true) (hs : Keep M b0 s) :
    Keep M b0 (dropWall s t f) := by
  unfold dropWall
  repeat' (first | with_reducible assumption | with_reducible refine modTh_keep ?_ ?_)

theorem leaveWall_keep {M : Touch} {b0 : State} {s : State} {t : Tid} {dir : Nat} (hm : ({ threads := true } : Touch).le M = true) (hs : Keep M b0 s) :
    Keep M b0 (leaveWall s t dir) := by
  unfold leaveWall
  repeat' (first
    | with_reducible assumption | (with_reducible exact keep_refl _ _) | with_reducible refine keepOut_next ?_
    | ((with_reducible intro x); refine keep_cut (m := M) (s := b0) x ?_ (fun _ => ?_); subst x)
    | ((with_reducible intro x); refine keep_cut_fst (m := M) (s := b0) x ?_ (fun _ => ?_); subst x)
    | ((with_reducible intro x); refine keep_cut_snd (m := M) (s := b0) x ?_ (fun _ => ?_); subst x)
    | ((with_reducible intro x); refine keep_cut_some (m := M) (s := b0) x ?_ (fun _ => ?_); subst x)
    | ((with_reducible intro x); refine keep_cut_pair (m := M) (s := b0) x ?_ (fun _ => ?_); subst x)
    | ((with_reducible intro x); refine keep_cut_run (m := M) (s := b0) x ?_ (fun _ => ?_); subst x)
    | ((with_reducible intro x); refine cell_id x ?_; subst x) | ((with_reducible intro x); refine fun_id x ?_; subst x)
    | ((with_reducible intro x); clear_value x) | (with_reducible intro _) | lift_lets
    | ((with_reducible refine touch_below hm ?_); rfl) | with_reducible refine modTh_keep ?_ ?_
    | with_reducible refine keep_elim ?_ ?_ | with_reducible refine keep_getD ?_ ?_
    | with_reducible refine keep_foldl_fst ?_ ?_ | with_reducible refine keep_repeat ?_ ?_
    | with_reducible refine keep_foldl_snd ?_ ?_ | with_reducible refine keep_ite ?_ ?_
    | with_reducible refine keep_foldl ?_ ?_ | with_reducible exact keep_of_fst (by assumption) (by assumption)
    | with_reducible exact keep_enter (by assumption) (by assumption)
    | with_reducible exact keepSome_elim (by assumption) (by assumption)
    | with_reducible exact keepPair_elim (by assumption) (by assumption)
    | with_reducible exact keepPair_elim2 (by assumption) (by assumption)
    | with_reducible exact keep_of_snd (by assumption) (by assumption) | split | with_reducible refine keepSome_bind ?_
    | with_reducible refine keepSome_elim ?_ (by assumption) | (cases ‹_ = some _›) | (with_reducible dsimp only))

theorem sendHalo_keep {M : Touch} {b0 : State} {s : State} {sender : Tid} {receiver : Tid} {dir : Nat} {h : Halo} (hm : ({ dev := true, plans := true, threads := true, flog := true, links := true } : Touch).le M = true) (hs : Keep M b0 s) :
    Keep M b0 (sendHalo s sender receiver dir h) := by
  unfold sendHalo
  repeat' (first
    | with_reducible assumption | (with_reducible exact keep_refl _ _) | with_reducible refine keepOut_next ?_
    | ((with_reducible intro x); refine keep_cut (m := M) (s := b0) x ?_ (fun _ => ?_); subst x)
    | ((with_reducible intro x); refine keep_cut_fst (m := M) (s := b0) x ?_ (fun _ => ?_); subst x)
    | ((with_reducible intro x); refine keep_cut_snd (m := M) (s := b0) x ?_ (fun _ => ?_); subst x)
    | ((with_reducible intro x); refine keep_cut_some (m := M) (s := b0) x ?_ (fun _ => ?_); subst x)
    | ((with_reducible intro x); refine keep_cut_pair (m := M) (s := b0) x ?_ (fun _ => ?_); subst x)
    | ((with_reducible intro x); refine keep_cut_run (m := M) (s := b0) x ?_ (fun _ => ?_); subst x)
    | ((with_reducible intro x); refine cell_id x ?_; subst x) | ((with_reducible intro x); refine fun_id x ?_; subst x)
    | ((with_reducible intro x); clear_value x) | (with_reducible intro _) | lift_lets
    | ((with_reducible refine touch_below hm ?_); rfl) | with_reducible refine modTh_keep ?_ ?_
    | with_reducible refine leaveWall_keep ?_ ?_ | with_reducible refine refuseRoom_keep ?_ ?_
    | with_reducible refine dropWall_keep ?_ ?_ | with_reducible refine keep_elim ?_ ?_
    | with_reducible refine keep_getD ?_ ?_ | with_reducible refine keep_foldl_fst ?_ ?_
    | with_reducible refine keep_repeat ?_ ?_ | with_reducible refine keep_foldl_snd ?_ ?_
    | with_reducible refine keep_ite ?_ ?_ | with_reducible refine keep_foldl ?_ ?_
    | with_reducible exact keep_of_fst (by assumption) (by assumption)
    | with_reducible exact keep_enter (by assumption) (by assumption)
    | with_reducible exact keepSome_elim (by assumption) (by assumption)
    | with_reducible exact keepPair_elim (by assumption) (by assumption)
    | with_reducible exact keepPair_elim2 (by assumption) (by assumption)
    | with_reducible exact keep_of_snd (by assumption) (by assumption) | split | with_reducible refine keepSome_bind ?_
    | with_reducible refine keepSome_elim ?_ (by assumption) | (cases ‹_ = some _›) | (with_reducible dsimp only))

theorem flushHeld_keep {M : Touch} {b0 : State} {s : State} {sender : Tid} {receiver : Tid} {dir : Nat} (hm : ({ dev := true, plans := true, threads := true, flog := true, links := true } : Touch).le M = true) (hs : Keep M b0 s) :
    Keep M b0 (flushHeld s sender receiver dir) := by
  unfold flushHeld
  repeat' (first
    | with_reducible assumption | ((with_reducible intro x); refine keep_cut (m := M) (s := b0) x ?_ (fun _ => ?_); subst x)
    | (with_reducible intro _) | ((with_reducible refine touch_below hm ?_); rfl) | with_reducible refine modTh_keep ?_ ?_
    | with_reducible refine sendHalo_keep ?_ ?_ | with_reducible refine keep_foldl ?_ ?_ | split)

theorem execWallPut_keep {M : Touch} {b0 : State} {t : Tid} {i : RoomIns} {s : State} (hm : ({ dev := true, plans := true, threads := true, flog := true, links := true } : Touch).le M = true) (hs : Keep M b0 s) :
    KeepOut M b0 (execWallPut t i s) := by
  unfold execWallPut
  repeat' (first
    | with_reducible assumption | with_reducible refine keepOut_next ?_
    | ((with_reducible intro x); refine keep_cut (m := M) (s := b0) x ?_ (fun _ => ?_); subst x) | (with_reducible intro _)
    | ((with_reducible refine touch_below hm ?_); rfl) | with_reducible refine runIns_keep ?_ ?_ ?_
    | with_reducible refine RC_refuse_keep ?_ ?_ | with_reducible refine RC_issue_keep ?_ ?_ ?_
    | with_reducible refine putTh_keep ?_ ?_ | with_reducible refine modTh_keep ?_ ?_
    | with_reducible refine sendHalo_keep ?_ ?_ | split | (with_reducible dsimp only))

theorem haloDone_keep {M : Touch} {b0 : State} {s : State} {t : Tid} {dir : Nat} {v : Word} (hm : ({ dev := true, plans := true, threads := true, flog := true, links := true } : Touch).le M = true) (hs : Keep M b0 s) :
    Keep M b0 (haloDone s t dir v) := by
  unfold haloDone
  repeat' (first
    | with_reducible assumption | ((with_reducible intro x); refine keep_cut (m := M) (s := b0) x ?_ (fun _ => ?_); subst x)
    | ((with_reducible refine touch_below hm ?_); rfl) | with_reducible refine modTh_keep ?_ ?_
    | with_reducible refine flushHeld_keep ?_ ?_ | split)

theorem execHaloWait_keep {M : Touch} {b0 : State} {t : Tid} {i : RoomIns} {s : State} (hm : ({ dev := true, plans := true, threads := true, flog := true, links := true } : Touch).le M = true) (hs : Keep M b0 s) :
    KeepOut M b0 (execHaloWait t i s) := by
  unfold execHaloWait
  repeat' (first
    | with_reducible assumption | with_reducible refine keepOut_next ?_ | (with_reducible intro _)
    | ((with_reducible refine touch_below hm ?_); rfl) | with_reducible refine runIns_keep ?_ ?_ ?_
    | with_reducible refine haloDone_keep ?_ ?_ | with_reducible refine putTh_keep ?_ ?_ | split | (with_reducible dsimp only))

theorem haloLand_keep {M : Touch} {b0 : State} {s : State} {t : Tid} {dir : Nat} (hm : ({ free := true, dev := true, plans := true, threads := true, flog := true, links := true, mem := true } : Touch).le M = true) (hs : Keep M b0 s) :
    Keep M b0 (haloLand s t dir) := by
  unfold haloLand
  repeat' (first
    | with_reducible assumption | (with_reducible exact keep_refl _ _) | with_reducible refine keepOut_next ?_
    | ((with_reducible intro x); refine keep_cut (m := M) (s := b0) x ?_ (fun _ => ?_); subst x)
    | ((with_reducible intro x); refine keep_cut_fst (m := M) (s := b0) x ?_ (fun _ => ?_); subst x)
    | ((with_reducible intro x); refine keep_cut_snd (m := M) (s := b0) x ?_ (fun _ => ?_); subst x)
    | ((with_reducible intro x); refine keep_cut_some (m := M) (s := b0) x ?_ (fun _ => ?_); subst x)
    | ((with_reducible intro x); refine keep_cut_pair (m := M) (s := b0) x ?_ (fun _ => ?_); subst x)
    | ((with_reducible intro x); refine keep_cut_run (m := M) (s := b0) x ?_ (fun _ => ?_); subst x)
    | ((with_reducible intro x); refine cell_id x ?_; subst x) | ((with_reducible intro x); refine fun_id x ?_; subst x)
    | ((with_reducible intro x); clear_value x) | (with_reducible intro _) | lift_lets
    | ((with_reducible refine touch_below hm ?_); rfl) | with_reducible refine freeWindow_keep ?_ ?_
    | with_reducible refine modTh_keep ?_ ?_ | with_reducible refine dropWall_keep ?_ ?_
    | with_reducible refine haloDone_keep ?_ ?_ | (with_reducible dsimp -zeta only [keep_mk])
    | with_reducible refine keep_mem ?_ ?_ ?_ | with_reducible refine writeTile_ok ?_ | with_reducible refine mmaMem_ok ?_
    | with_reducible refine zeroTiles_ok ?_ | with_reducible refine accOutMem_ok ?_ | with_reducible refine nestMmas_ok ?_
    | with_reducible refine nestOuts_ok ?_ | with_reducible refine nestRun_ok ?_ | with_reducible refine nestEmpty_ok ?_
    | with_reducible refine landImage_ok ?_ | with_reducible refine switchBanks_ok ?_ | with_reducible refine scrub_ok ?_
    | with_reducible refine writeVaMem_ok ?_ | with_reducible refine runIn_ok ?_ | with_reducible refine runOut_ok ?_
    | with_reducible refine statusWrite_ok ?_ | with_reducible refine lateZero_ok ?_ | with_reducible refine expandGroup_ok ?_
    | with_reducible refine expandBlock_ok ?_ | with_reducible refine landBlock_ok ?_ | with_reducible refine landBlocks_ok ?_
    | with_reducible refine wipe_ok ?_ | with_reducible refine clearWindows_ok ?_ | with_reducible refine firstWindows_ok ?_
    | with_reducible refine memPut_ok ?_ | with_reducible refine memWrite_ok ?_ | with_reducible refine memFilter_ok ?_
    | with_reducible refine memFold_ok ?_ ?_ | with_reducible refine memIte_ok ?_ ?_ | with_reducible refine keep_elim ?_ ?_
    | with_reducible refine keep_getD ?_ ?_ | with_reducible refine keep_foldl_fst ?_ ?_
    | with_reducible refine keep_repeat ?_ ?_ | with_reducible refine keep_foldl_snd ?_ ?_
    | with_reducible refine keep_ite ?_ ?_ | with_reducible refine keep_foldl ?_ ?_
    | with_reducible exact keep_of_fst (by assumption) (by assumption)
    | with_reducible exact keep_enter (by assumption) (by assumption)
    | with_reducible exact keepSome_elim (by assumption) (by assumption)
    | with_reducible exact keepPair_elim (by assumption) (by assumption)
    | with_reducible exact keepPair_elim2 (by assumption) (by assumption)
    | with_reducible exact keep_of_snd (by assumption) (by assumption) | split | with_reducible refine keepSome_bind ?_
    | with_reducible refine keepSome_elim ?_ (by assumption) | (cases ‹_ = some _›) | (with_reducible dsimp only))
  all_goals assumption

theorem execFlagSet_keep {M : Touch} {b0 : State} {t : Tid} {i : RoomIns} {s : State} (hm : ({ dev := true, plans := true, threads := true, flog := true, links := true, mem := true } : Touch).le M = true) (hs : Keep M b0 s) :
    KeepOut M b0 (execFlagSet t i s) := by
  unfold execFlagSet
  repeat' (first
    | with_reducible assumption | with_reducible refine keepOut_next ?_
    | ((with_reducible intro x); refine keep_cut (m := M) (s := b0) x ?_ (fun _ => ?_); subst x) | (with_reducible intro _)
    | ((with_reducible refine touch_below hm ?_); rfl) | with_reducible refine runIns_keep ?_ ?_ ?_
    | with_reducible refine RC_refuse_keep ?_ ?_ | with_reducible refine putTh_keep ?_ ?_
    | (with_reducible dsimp -zeta only [keep_mk]) | with_reducible refine keep_mem ?_ ?_ ?_
    | with_reducible refine memWrite_ok ?_ | split | (with_reducible dsimp only))

theorem execFlagWait_keep {M : Touch} {b0 : State} {t : Tid} {i : RoomIns} {s : State} (hm : ({ dev := true, plans := true, threads := true, flog := true, links := true } : Touch).le M = true) (hs : Keep M b0 s) :
    KeepOut M b0 (execFlagWait t i s) := by
  unfold execFlagWait
  repeat' (first
    | with_reducible assumption | with_reducible refine keepOut_next ?_ | (with_reducible intro _)
    | ((with_reducible refine touch_below hm ?_); rfl) | with_reducible refine runIns_keep ?_ ?_ ?_
    | with_reducible refine RC_refuse_keep ?_ ?_ | with_reducible refine putTh_keep ?_ ?_ | split
    | (with_reducible dsimp only))

theorem flagWaitComplete_keep {M : Touch} {b0 : State} {s : State} {t : Tid} (hm : ({ threads := true } : Touch).le M = true) (hs : Keep M b0 s) :
    Keep M b0 (flagWaitComplete s t) := by
  unfold flagWaitComplete
  repeat' (first | with_reducible assumption | (with_reducible intro _) | with_reducible refine putTh_keep ?_ ?_ | split)

theorem execFlagWaitComplete_keep {M : Touch} {b0 : State} {t : Tid} {s : State} (hm : ({ threads := true } : Touch).le M = true) (hs : Keep M b0 s) :
    KeepOut M b0 (execFlagWaitComplete t s) := by
  unfold execFlagWaitComplete
  repeat' (first
    | with_reducible assumption | with_reducible refine keepOut_next ?_ | with_reducible refine flagWaitComplete_keep ?_ ?_)

theorem execPatom_keep {M : Touch} {b0 : State} {t : Tid} {i : RoomIns} {s : State} (hm : ({ dev := true, plans := true, threads := true, flog := true, links := true } : Touch).le M = true) (hs : Keep M b0 s) :
    KeepOut M b0 (execPatom t i s) := by
  unfold execPatom
  repeat' (first
    | with_reducible assumption | with_reducible refine keepOut_next ?_ | (with_reducible intro _)
    | ((with_reducible refine touch_below hm ?_); rfl) | with_reducible refine runIns_keep ?_ ?_ ?_
    | with_reducible refine RC_refuse_keep ?_ ?_ | with_reducible refine putTh_keep ?_ ?_
    | with_reducible refine RC_issue_keep ?_ ?_ ?_ | split | (with_reducible dsimp only))

theorem patomPerform_keep {M : Touch} {b0 : State} {s : State} {t : Tid} (hm : ({ threads := true, mem := true } : Touch).le M = true) (hs : Keep M b0 s) :
    Keep M b0 (patomPerform s t) := by
  unfold patomPerform
  repeat' (first
    | (with_reducible intro _) | ((with_reducible refine touch_below hm ?_); rfl) | with_reducible refine putTh_keep ?_ ?_
    | (with_reducible dsimp -zeta only [keep_mk]) | with_reducible refine keep_mem ?_ ?_ ?_
    | with_reducible refine memWrite_ok ?_ | split)
  all_goals assumption

theorem execPred_keep {M : Touch} {b0 : State} {t : Tid} {i : RoomIns} {s : State} (hm : ({ dev := true, plans := true, threads := true, flog := true, links := true } : Touch).le M = true) (hs : Keep M b0 s) :
    KeepOut M b0 (execPred t i s) := by
  unfold execPred
  repeat' (first
    | with_reducible assumption | with_reducible refine keepOut_next ?_ | (with_reducible intro _)
    | ((with_reducible refine touch_below hm ?_); rfl) | with_reducible refine runIns_keep ?_ ?_ ?_
    | with_reducible refine RC_refuse_keep ?_ ?_ | with_reducible refine RC_issue_keep ?_ ?_ ?_ | split
    | (with_reducible dsimp only))

theorem predFinish_keep {M : Touch} {b0 : State} {s : State} {t : Tid} {q : PredInst} (hm : ({ threads := true, mem := true } : Touch).le M = true) (hs : Keep M b0 s) :
    Keep M b0 (predFinish s t q) := by
  unfold predFinish
  repeat' (first
    | with_reducible assumption | (with_reducible exact keep_refl _ _) | with_reducible refine keepOut_next ?_
    | ((with_reducible intro x); refine keep_cut (m := M) (s := b0) x ?_ (fun _ => ?_); subst x)
    | ((with_reducible intro x); refine keep_cut_fst (m := M) (s := b0) x ?_ (fun _ => ?_); subst x)
    | ((with_reducible intro x); refine keep_cut_snd (m := M) (s := b0) x ?_ (fun _ => ?_); subst x)
    | ((with_reducible intro x); refine keep_cut_some (m := M) (s := b0) x ?_ (fun _ => ?_); subst x)
    | ((with_reducible intro x); refine keep_cut_pair (m := M) (s := b0) x ?_ (fun _ => ?_); subst x)
    | ((with_reducible intro x); refine keep_cut_run (m := M) (s := b0) x ?_ (fun _ => ?_); subst x)
    | ((with_reducible intro x); refine cell_id x ?_; subst x) | ((with_reducible intro x); refine fun_id x ?_; subst x)
    | ((with_reducible intro x); clear_value x) | (with_reducible intro _) | lift_lets
    | ((with_reducible refine touch_below hm ?_); rfl) | with_reducible refine modTh_keep ?_ ?_
    | with_reducible refine writeVa_keep ?_ ?_ | with_reducible refine keep_elim ?_ ?_ | with_reducible refine keep_getD ?_ ?_
    | with_reducible refine keep_foldl_fst ?_ ?_ | with_reducible refine keep_repeat ?_ ?_
    | with_reducible refine keep_foldl_snd ?_ ?_ | with_reducible refine keep_ite ?_ ?_
    | with_reducible refine keep_foldl ?_ ?_ | with_reducible exact keep_of_fst (by assumption) (by assumption)
    | with_reducible exact keep_enter (by assumption) (by assumption)
    | with_reducible exact keepSome_elim (by assumption) (by assumption)
    | with_reducible exact keepPair_elim (by assumption) (by assumption)
    | with_reducible exact keepPair_elim2 (by assumption) (by assumption)
    | with_reducible exact keep_of_snd (by assumption) (by assumption) | split | with_reducible refine keepSome_bind ?_
    | with_reducible refine keepSome_elim ?_ (by assumption) | (cases ‹_ = some _›) | (with_reducible dsimp only))

theorem predContribution_keep {M : Touch} {b0 : State} {s : State} {t : Tid} (hm : ({ dev := true, plans := true, threads := true, preds := true, flog := true, links := true, mem := true } : Touch).le M = true) (hs : Keep M b0 s) :
    Keep M b0 (predContribution s t) := by
  unfold predContribution
  repeat' (first
    | with_reducible assumption | (with_reducible intro _) | ((with_reducible refine touch_below hm ?_); rfl)
    | with_reducible refine modTh_keep ?_ ?_ | with_reducible refine predFinish_keep ?_ ?_
    | with_reducible refine raisePlan_keep ?_ ?_ | (with_reducible dsimp -zeta only [keep_mk])
    | with_reducible refine keep_preds ?_ ?_ | split | (with_reducible dsimp only))

end Sys2Proof.Laws
end

