-- ==== Sys2Proof/Laws/KeepSync.lean ====
section
/-! SUPPORT. What each operation of Machine/Sync.lean may change. -/
namespace Sys2Proof.Laws

open Sys2Proof Sys2Proof.Machine
set_option linter.unusedVariables false

theorem roomDone_keep {M : Touch} {b0 : State} {s : State} {t : Tid} (hm : ({ plans := true } : Touch).le M = true) (hs : Keep M b0 s) :
    Keep M b0 (roomDone s t) := by
  unfold roomDone
  repeat' (first | with_reducible assumption | with_reducible refine modPlan_keep ?_ ?_)

theorem stepEnded_keep {M : Touch} {b0 : State} {s : State} {x : Thread} {last : Bool} (hm : ({ plans := true, threads := true, tables := true, frames := true, decs := true } : Touch).le M = true) (hs : Keep M b0 s) :
    Keep M b0 (stepEnded s x last) := by
  unfold stepEnded
  repeat' (first
    | with_reducible assumption | ((with_reducible intro x); refine keep_cut (m := M) (s := b0) x ?_ (fun _ => ?_); subst x)
    | (with_reducible intro _) | ((with_reducible refine touch_below hm ?_); rfl) | with_reducible refine putTh_keep ?_ ?_
    | with_reducible refine roomDone_keep ?_ ?_ | with_reducible refine closeSessions_keep ?_ ?_ | split)

theorem settleWait_keep {M : Touch} {b0 : State} {s : State} {t : Tid} (hm : ({ plans := true, threads := true, tables := true, frames := true, decs := true } : Touch).le M = true) (hs : Keep M b0 s) :
    Keep M b0 (settleWait s t) := by
  unfold settleWait
  repeat' (first
    | with_reducible assumption | (with_reducible intro _) | ((with_reducible refine touch_below hm ?_); rfl)
    | with_reducible refine stepEnded_keep ?_ ?_ | with_reducible refine putTh_keep ?_ ?_ | split)

theorem beginWait_keep {M : Touch} {b0 : State} {c : RC} {w : ThWait} (hm : ({ plans := true, threads := true, tables := true, frames := true, decs := true } : Touch).le M = true) (hc : Keep M b0 c.s) :
    Keep M b0 (beginWait c w) := by
  unfold beginWait
  repeat' (first
    | with_reducible assumption | ((with_reducible refine touch_below hm ?_); rfl)
    | with_reducible refine settleWait_keep ?_ ?_ | with_reducible refine putTh_keep ?_ ?_)

theorem execUnitWait_keep {M : Touch} {b0 : State} {t : Tid} {i : RoomIns} {s : State} (hm : ({ dev := true, plans := true, threads := true, tables := true, frames := true, decs := true, flog := true, links := true } : Touch).le M = true) (hs : Keep M b0 s) :
    KeepOut M b0 (execUnitWait t i s) := by
  unfold execUnitWait
  repeat' (first
    | with_reducible assumption | with_reducible refine keepOut_next ?_ | (with_reducible intro _)
    | ((with_reducible refine touch_below hm ?_); rfl) | with_reducible refine runIns_keep ?_ ?_ ?_
    | with_reducible refine beginWait_keep ?_ ?_)

theorem execFence_keep {M : Touch} {b0 : State} {t : Tid} {i : RoomIns} {s : State} (hm : ({ dev := true, plans := true, threads := true, tables := true, frames := true, decs := true, flog := true, links := true } : Touch).le M = true) (hs : Keep M b0 s) :
    KeepOut M b0 (execFence t i s) := by
  unfold execFence
  repeat' (first
    | with_reducible assumption | (with_reducible exact keep_refl _ _) | with_reducible refine keepOut_next ?_
    | with_reducible refine keepOut_ite ?_ ?_
    | ((with_reducible intro x); refine keep_cut (m := M) (s := b0) x ?_ (fun _ => ?_); subst x)
    | ((with_reducible intro x); refine keep_cut_fst (m := M) (s := b0) x ?_ (fun _ => ?_); subst x)
    | ((with_reducible intro x); refine keep_cut_snd (m := M) (s := b0) x ?_ (fun _ => ?_); subst x)
    | ((with_reducible intro x); refine keep_cut_some (m := M) (s := b0) x ?_ (fun _ => ?_); subst x)
    | ((with_reducible intro x); refine keep_cut_pair (m := M) (s := b0) x ?_ (fun _ => ?_); subst x)
    | ((with_reducible intro x); refine keep_cut_run (m := M) (s := b0) x ?_ (fun _ => ?_); subst x)
    | ((with_reducible intro x); refine cell_id x ?_; subst x) | ((with_reducible intro x); refine fun_id x ?_; subst x)
    | ((with_reducible intro x); clear_value x) | (with_reducible intro _) | lift_lets
    | ((with_reducible refine touch_below hm ?_); rfl) | with_reducible refine runIns_keep ?_ ?_ ?_
    | with_reducible refine putTh_keep ?_ ?_ | with_reducible refine RC_s_keep ?_ ?_
    | with_reducible refine beginWait_keep ?_ ?_ | with_reducible refine keep_elim ?_ ?_
    | with_reducible refine keep_getD ?_ ?_ | with_reducible refine keep_foldl_fst ?_ ?_
    | with_reducible refine keep_repeat ?_ ?_ | with_reducible refine keep_foldl_snd ?_ ?_
    | with_reducible refine keep_ite ?_ ?_ | with_reducible refine keep_foldl ?_ ?_
    | with_reducible exact keep_of_fst (by assumption) (by assumption)
    | with_reducible exact keep_enter (by assumption) (by assumption)
    | with_reducible exact keepSome_elim (by assumption) (by assumption)
    | with_reducible exact keepPair_elim (by assumption) (by assumption)
    | with_reducible exact keepPair_elim2 (by assumption) (by assumption)
    | with_reducible exact keep_of_snd (by assumption) (by assumption) | split | with_reducible refine keepSome_bind ?_
    | with_reducible refine keepSome_elim ?_ (by assumption) | (cases ‹_ = some _›) | (with_reducible dsimp only))

theorem completeOldest_keep {M : Touch} {b0 : State} {s : State} {t : Tid} {u : Nat} (hm : ({ dev := true, plans := true, threads := true, flog := true, links := true, mem := true } : Touch).le M = true) (hs : Keep M b0 s) :
    Keep M b0 (completeOldest s t u) := by
  unfold completeOldest
  repeat' (first
    | with_reducible assumption | (with_reducible intro _) | ((with_reducible refine touch_below hm ?_); rfl)
    | with_reducible refine lateEnd_keep ?_ ?_ | with_reducible refine modTh_keep ?_ ?_ | split)

theorem execInstructionComplete_keep {M : Touch} {b0 : State} {t : Tid} {unit : Nat} {s : State} (hm : ({ dev := true, plans := true, threads := true, tables := true, frames := true, decs := true, flog := true, links := true, mem := true } : Touch).le M = true) (hs : Keep M b0 s) :
    KeepOut M b0 (execInstructionComplete t unit s) := by
  unfold execInstructionComplete
  repeat' (first
    | with_reducible assumption | with_reducible refine keepOut_next ?_ | (with_reducible intro _)
    | ((with_reducible refine touch_below hm ?_); rfl) | with_reducible refine settleWait_keep ?_ ?_
    | with_reducible refine completeOldest_keep ?_ ?_ | split)

theorem execDmaLate_keep {M : Touch} {b0 : State} {t : Tid} {s : State} (hm : ({ dev := true, plans := true, threads := true, tables := true, frames := true, decs := true, flog := true, links := true, mem := true } : Touch).le M = true) (hs : Keep M b0 s) :
    KeepOut M b0 (execDmaLate t s) := by
  unfold execDmaLate
  repeat' (first
    | with_reducible assumption | with_reducible refine keepOut_next ?_ | (with_reducible intro _)
    | ((with_reducible refine touch_below hm ?_); rfl) | with_reducible refine settleWait_keep ?_ ?_
    | with_reducible refine lateEnd_keep ?_ ?_ | split)

theorem execHaloLand_keep {M : Touch} {b0 : State} {t : Tid} {dir : Nat} {s : State} (hm : ({ free := true, dev := true, plans := true, threads := true, tables := true, frames := true, decs := true, flog := true, links := true, mem := true } : Touch).le M = true) (hs : Keep M b0 s) :
    KeepOut M b0 (execHaloLand t dir s) := by
  unfold execHaloLand
  repeat' (first
    | with_reducible assumption | with_reducible refine keepOut_next ?_
    | ((with_reducible intro x); refine keep_cut (m := M) (s := b0) x ?_ (fun _ => ?_); subst x) | (with_reducible intro _)
    | ((with_reducible refine touch_below hm ?_); rfl) | with_reducible refine settleWait_keep ?_ ?_
    | with_reducible refine haloLand_keep ?_ ?_ | with_reducible refine keep_elim ?_ ?_ | split)

theorem execPatomPerform_keep {M : Touch} {b0 : State} {t : Tid} {s : State} (hm : ({ plans := true, threads := true, tables := true, frames := true, decs := true, mem := true } : Touch).le M = true) (hs : Keep M b0 s) :
    KeepOut M b0 (execPatomPerform t s) := by
  unfold execPatomPerform
  repeat' (first
    | with_reducible assumption | with_reducible refine keepOut_next ?_ | (with_reducible intro _)
    | ((with_reducible refine touch_below hm ?_); rfl) | with_reducible refine settleWait_keep ?_ ?_
    | with_reducible refine patomPerform_keep ?_ ?_ | split)

theorem execPredContribution_keep {M : Touch} {b0 : State} {t : Tid} {s : State} (hm : ({ dev := true, plans := true, threads := true, preds := true, tables := true, frames := true, decs := true, flog := true, links := true, mem := true } : Touch).le M = true) (hs : Keep M b0 s) :
    KeepOut M b0 (execPredContribution t s) := by
  unfold execPredContribution
  repeat' (first
    | with_reducible assumption | with_reducible refine keepOut_next ?_ | (with_reducible intro _)
    | ((with_reducible refine touch_below hm ?_); rfl) | with_reducible refine settleWait_keep ?_ ?_
    | with_reducible refine predContribution_keep ?_ ?_ | split)

end Sys2Proof.Laws
end

