-- ==== Sys2Proof/Laws/KeepLinks.lean ====
section
/-! SUPPORT. What each operation of Machine/Links.lean may change. -/
namespace Sys2Proof.Laws

open Sys2Proof Sys2Proof.Machine
set_option linter.unusedVariables false

theorem putMsg_keep {M : Touch} {b0 : State} {s : State} {dest : Nat} {vc : Nat} {bs : List Byte} (hm : ({ links := true } : Touch).le M = true) (hs : Keep M b0 s) :
    Keep M b0 (putMsg s dest vc bs) := by
  unfold putMsg
  repeat' (first | with_reducible assumption | with_reducible refine modPort_keep ?_ ?_ | split)

theorem sendMsg_keep {M : Touch} {b0 : State} {s : State} {dest : Nat} {vc : Nat} {mtype : Nat} {data : List Byte} (hm : ({ links := true } : Touch).le M = true) (hs : Keep M b0 s) :
    Keep M b0 (sendMsg s dest vc mtype data) := by
  unfold sendMsg
  repeat' (first
    | with_reducible assumption | ((with_reducible intro x); refine keep_cut (m := M) (s := b0) x ?_ (fun _ => ?_); subst x)
    | (with_reducible intro _) | with_reducible refine putMsg_keep ?_ ?_ | (with_reducible dsimp -zeta only [keep_mk])
    | with_reducible refine keep_links ?_ ?_ | split | (with_reducible dsimp only))

theorem sendFw_keep {M : Touch} {b0 : State} {s : State} {dest : Nat} {mtype : Nat} {data : List Byte} (hm : ({ links := true } : Touch).le M = true) (hs : Keep M b0 s) :
    Keep M b0 (sendFw s dest mtype data) := by
  unfold sendFw
  repeat' (first
    | with_reducible assumption | ((with_reducible intro x); refine keep_cut (m := M) (s := b0) x ?_ (fun _ => ?_); subst x)
    | with_reducible refine sendMsg_keep ?_ ?_ | (with_reducible dsimp -zeta only [keep_mk])
    | with_reducible refine keep_links ?_ ?_ | (with_reducible dsimp only))

theorem releaseMsg_keep {M : Touch} {b0 : State} {s : State} {m : Msg} (hm : ({ links := true } : Touch).le M = true) (hs : Keep M b0 s) :
    Keep M b0 (releaseMsg s m) := by
  unfold releaseMsg
  repeat' (first | with_reducible assumption | with_reducible refine modPort_keep ?_ ?_)

theorem takeMsg_keep {M : Touch} {b0 : State} {s : State} {m : Msg} (hm : ({ links := true } : Touch).le M = true) (hs : Keep M b0 s) :
    Keep M b0 (takeMsg s m) := by
  unfold takeMsg
  repeat' (first
    | with_reducible assumption | (with_reducible exact keep_refl _ _) | with_reducible refine keepOut_next ?_
    | ((with_reducible intro x); refine keep_cut (m := M) (s := b0) x ?_ (fun _ => ?_); subst x)
    | ((with_reducible intro x); refine keep_cut_fst (m := M) (s := b0) x ?_ (fun _ => ?_); subst x)
    | ((with_reducible intro x); refine keep_cut_snd (m := M) (s := b0) x ?_ (fun _ => ?_); subst x)
    | ((with_reducible intro x); refine keep_cut_some (m := M) (s := b0) x ?_ (fun _ => ?_); subst x)
    | ((with_reducible intro x); refine keep_cut_pair (m := M) (s := b0) x ?_ (fun _ => ?_); subst x)
    | ((with_reducible intro x); refine keep_cut_run (m := M) (s := b0) x ?_ (fun _ => ?_); subst x)
    | ((with_reducible intro x); refine cell_id x ?_; subst x) | ((with_reducible intro x); refine fun_id x ?_; subst x)
    | ((with_reducible intro x); clear_value x) | (with_reducible intro _) | lift_lets
    | ((with_reducible refine touch_below hm ?_); rfl) | with_reducible refine modPort_keep ?_ ?_
    | with_reducible refine keep_elim ?_ ?_ | with_reducible refine keep_getD ?_ ?_
    | with_reducible refine keep_foldl_fst ?_ ?_ | with_reducible refine keep_repeat ?_ ?_
    | with_reducible refine keep_foldl_snd ?_ ?_ | with_reducible refine keep_ite ?_ ?_
    | with_reducible refine keep_foldl ?_ ?_ | with_reducible exact keep_of_fst (by assumption) (by assumption)
    | with_reducible exact keep_enter (by assumption) (by assumption)
    | with_reducible exact keepSome_elim (by assumption) (by assumption)
    | with_reducible exact keepPair_elim (by assumption) (by assumption)
    | with_reducible exact keepPair_elim2 (by assumption) (by assumption)
    | with_reducible exact keep_of_snd (by assumption) (by assumption) | split | with_reducible refine keepSome_bind ?_
    | with_reducible refine keepSome_elim ?_ (by assumption) | (cases ‹_ = some _›) | (with_reducible dsimp only))

theorem bumpRx_keep {M : Touch} {b0 : State} {s : State} {m : Msg} (hm : ({ links := true } : Touch).le M = true) (hs : Keep M b0 s) :
    Keep M b0 (bumpRx s m) := by
  unfold bumpRx
  repeat' (first
    | with_reducible assumption | (with_reducible exact keep_refl _ _) | with_reducible refine keepOut_next ?_
    | ((with_reducible intro x); refine keep_cut (m := M) (s := b0) x ?_ (fun _ => ?_); subst x)
    | ((with_reducible intro x); refine keep_cut_fst (m := M) (s := b0) x ?_ (fun _ => ?_); subst x)
    | ((with_reducible intro x); refine keep_cut_snd (m := M) (s := b0) x ?_ (fun _ => ?_); subst x)
    | ((with_reducible intro x); refine keep_cut_some (m := M) (s := b0) x ?_ (fun _ => ?_); subst x)
    | ((with_reducible intro x); refine keep_cut_pair (m := M) (s := b0) x ?_ (fun _ => ?_); subst x)
    | ((with_reducible intro x); refine keep_cut_run (m := M) (s := b0) x ?_ (fun _ => ?_); subst x)
    | ((with_reducible intro x); refine cell_id x ?_; subst x) | ((with_reducible intro x); refine fun_id x ?_; subst x)
    | ((with_reducible intro x); clear_value x) | (with_reducible intro _) | lift_lets
    | ((with_reducible refine touch_below hm ?_); rfl) | with_reducible refine takeMsg_keep ?_ ?_
    | (with_reducible dsimp -zeta only [keep_mk]) | with_reducible refine keep_links ?_ ?_
    | with_reducible refine keep_elim ?_ ?_ | with_reducible refine keep_getD ?_ ?_
    | with_reducible refine keep_foldl_fst ?_ ?_ | with_reducible refine keep_repeat ?_ ?_
    | with_reducible refine keep_foldl_snd ?_ ?_ | with_reducible refine keep_ite ?_ ?_
    | with_reducible refine keep_foldl ?_ ?_ | with_reducible exact keep_of_fst (by assumption) (by assumption)
    | with_reducible exact keep_enter (by assumption) (by assumption)
    | with_reducible exact keepSome_elim (by assumption) (by assumption)
    | with_reducible exact keepPair_elim (by assumption) (by assumption)
    | with_reducible exact keepPair_elim2 (by assumption) (by assumption)
    | with_reducible exact keep_of_snd (by assumption) (by assumption) | split | with_reducible refine keepSome_bind ?_
    | with_reducible refine keepSome_elim ?_ (by assumption) | (cases ‹_ = some _›) | (with_reducible dsimp only))

theorem levelRates_keep {M : Touch} {b0 : State} {s : State} {ports : List Nat} (hm : ({ links := true } : Touch).le M = true) (hs : Keep M b0 s) :
    Keep M b0 (levelRates s ports) := by
  unfold levelRates
  repeat' (first
    | with_reducible assumption | (with_reducible intro _) | with_reducible refine modPort_keep ?_ ?_
    | with_reducible refine keep_foldl ?_ ?_)

theorem joinRoute_keep {M : Touch} {b0 : State} {s : State} {i : Nat} {q : Partner} (hm : ({ flog := true, links := true } : Touch).le M = true) (hs : Keep M b0 s) :
    Keep M b0 (joinRoute s i q) := by
  unfold joinRoute
  repeat' (first
    | with_reducible assumption | ((with_reducible intro x); refine keep_cut (m := M) (s := b0) x ?_ (fun _ => ?_); subst x)
    | ((with_reducible refine touch_below hm ?_); rfl) | with_reducible refine levelRates_keep ?_ ?_
    | with_reducible refine logFault_keep ?_ ?_ | (with_reducible dsimp -zeta only [keep_mk])
    | with_reducible refine keep_links ?_ ?_)

theorem depart_keep {M : Touch} {b0 : State} {s : State} {dest : Nat} {ports : Nat} (hm : ({ plans := true, flog := true, links := true } : Touch).le M = true) (hs : Keep M b0 s) :
    Keep M b0 (depart s dest ports) := by
  unfold depart
  repeat' (first
    | with_reducible assumption | ((with_reducible intro x); refine keep_cut (m := M) (s := b0) x ?_ (fun _ => ?_); subst x)
    | (with_reducible intro _) | ((with_reducible refine touch_below hm ?_); rfl) | with_reducible refine setCause_keep ?_ ?_
    | with_reducible refine logFault_keep ?_ ?_ | (with_reducible dsimp -zeta only [keep_mk])
    | with_reducible refine keep_links ?_ ?_ | with_reducible refine keep_foldl ?_ ?_)

theorem leaveRoutes_keep {M : Touch} {b0 : State} {s : State} {i : Nat} (hm : ({ plans := true, flog := true, links := true } : Touch).le M = true) (hs : Keep M b0 s) :
    Keep M b0 (leaveRoutes s i) := by
  unfold leaveRoutes
  repeat' (first
    | with_reducible assumption | ((with_reducible intro x); refine keep_cut (m := M) (s := b0) x ?_ (fun _ => ?_); subst x)
    | (with_reducible intro _) | ((with_reducible refine touch_below hm ?_); rfl) | with_reducible refine depart_keep ?_ ?_
    | (with_reducible dsimp -zeta only [keep_mk]) | with_reducible refine keep_links ?_ ?_
    | with_reducible refine keep_foldl ?_ ?_)

theorem losePorch_keep {M : Touch} {b0 : State} {s : State} {i : Nat} (hm : ({ tick := true, flog := true } : Touch).le M = true) (hs : Keep M b0 s) :
    Keep M b0 (losePorch s i) := by
  unfold losePorch
  repeat' (first
    | with_reducible assumption | ((with_reducible refine touch_below hm ?_); rfl)
    | with_reducible refine tickEvent_keep ?_ ?_ | (with_reducible dsimp -zeta only [keep_mk])
    | with_reducible refine keep_tick ?_ ?_)

theorem leaveUp_keep {M : Touch} {b0 : State} {s : State} {i : Nat} {st : LinkState} (hm : ({ tick := true, plans := true, flog := true, links := true } : Touch).le M = true) (hs : Keep M b0 s) :
    Keep M b0 (leaveUp s i st) := by
  unfold leaveUp
  repeat' (first
    | with_reducible assumption | ((with_reducible intro x); refine keep_cut (m := M) (s := b0) x ?_ (fun _ => ?_); subst x)
    | ((with_reducible refine touch_below hm ?_); rfl) | with_reducible refine modPort_keep ?_ ?_
    | with_reducible refine losePorch_keep ?_ ?_ | with_reducible refine leaveRoutes_keep ?_ ?_)

theorem joinRecov_keep {M : Touch} {b0 : State} {s : State} {f : Recov → Recov} (hm : ({ recov := true } : Touch).le M = true) (hs : Keep M b0 s) :
    Keep M b0 (joinRecov s f) := by
  unfold joinRecov
  repeat' (first
    | with_reducible assumption | (with_reducible dsimp -zeta only [keep_mk]) | with_reducible refine keep_recov ?_ ?_)

theorem trained_keep {M : Touch} {b0 : State} {s : State} {i : Nat} {full : Bool} {rate : Nat} {half : Nat} (hm : ({ links := true } : Touch).le M = true) (hs : Keep M b0 s) :
    Keep M b0 (trained s i full rate half) := by
  unfold trained
  repeat' (first
    | with_reducible assumption | (with_reducible intro _) | with_reducible refine modPort_keep ?_ ?_ | split)

theorem execTrainingComplete_keep {M : Touch} {b0 : State} {port : Nat} {full : Bool} {rate : Nat} {half : Nat} {s : State} (hm : ({ links := true } : Touch).le M = true) (hs : Keep M b0 s) :
    KeepOut M b0 (execTrainingComplete port full rate half s) := by
  unfold execTrainingComplete
  repeat' (first
    | with_reducible assumption | with_reducible refine keepOut_next ?_ | (with_reducible intro _)
    | with_reducible refine trained_keep ?_ ?_ | split)

theorem execTrainingRetry_keep {M : Touch} {b0 : State} {port : Nat} {s : State} (hm : ({ links := true } : Touch).le M = true) (hs : Keep M b0 s) :
    KeepOut M b0 (execTrainingRetry port s) := by
  unfold execTrainingRetry
  repeat' (first
    | with_reducible assumption | with_reducible refine keepOut_next ?_ | (with_reducible intro _)
    | with_reducible refine modPort_keep ?_ ?_ | split)

theorem trainFail_keep {M : Touch} {b0 : State} {s : State} {i : Nat} (hm : ({ plans := true, flog := true, links := true } : Touch).le M = true) (hs : Keep M b0 s) :
    Keep M b0 (trainFail s i) := by
  unfold trainFail
  repeat' (first
    | with_reducible assumption | (with_reducible intro _) | ((with_reducible refine touch_below hm ?_); rfl)
    | with_reducible refine leaveRoutes_keep ?_ ?_ | with_reducible refine modPort_keep ?_ ?_ | split)

theorem execTrainingFailed_keep {M : Touch} {b0 : State} {port : Nat} {s : State} (hm : ({ plans := true, flog := true, links := true } : Touch).le M = true) (hs : Keep M b0 s) :
    KeepOut M b0 (execTrainingFailed port s) := by
  unfold execTrainingFailed
  repeat' (first
    | with_reducible assumption | with_reducible refine keepOut_next ?_ | (with_reducible intro _)
    | with_reducible refine trainFail_keep ?_ ?_ | split)

theorem sendCtrl_keep {M : Touch} {b0 : State} {s : State} {i : Nat} {payload : List Byte} (hm : ({ links := true } : Touch).le M = true) (hs : Keep M b0 s) :
    Keep M b0 (sendCtrl s i payload) := by
  unfold sendCtrl
  repeat' (first | with_reducible assumption | with_reducible refine modPort_keep ?_ ?_)

theorem execHelloSend_keep {M : Touch} {b0 : State} {port : Nat} {s : State} (hm : ({ links := true } : Touch).le M = true) (hs : Keep M b0 s) :
    KeepOut M b0 (execHelloSend port s) := by
  unfold execHelloSend
  repeat' (first
    | with_reducible assumption | with_reducible refine keepOut_next ?_ | (with_reducible intro _)
    | with_reducible refine sendCtrl_keep ?_ ?_ | split)

theorem tryUp_keep {M : Touch} {b0 : State} {s : State} {i : Nat} (hm : ({ links := true } : Touch).le M = true) (hs : Keep M b0 s) :
    Keep M b0 (tryUp s i) := by
  unfold tryUp
  repeat' (first
    | with_reducible assumption | ((with_reducible intro x); refine keep_cut (m := M) (s := b0) x ?_ (fun _ => ?_); subst x)
    | (with_reducible intro _) | ((with_reducible refine touch_below hm ?_); rfl) | with_reducible refine modPort_keep ?_ ?_
    | with_reducible refine joinRoute_keep ?_ ?_ | split | (with_reducible dsimp only))

theorem quarantine_keep {M : Touch} {b0 : State} {s : State} {i : Nat} {f : FaultIn} (hm : ({ plans := true, flog := true, links := true } : Touch).le M = true) (hs : Keep M b0 s) :
    Keep M b0 (quarantine s i f) := by
  unfold quarantine
  repeat' (first
    | with_reducible assumption | ((with_reducible refine touch_below hm ?_); rfl)
    | with_reducible refine leaveRoutes_keep ?_ ?_ | with_reducible refine logFault_keep ?_ ?_
    | with_reducible refine modPort_keep ?_ ?_)

theorem helloIn_keep {M : Touch} {b0 : State} {s : State} {i : Nat} {f : FlitIn} (hm : ({ plans := true, flog := true, links := true } : Touch).le M = true) (hs : Keep M b0 s) :
    Keep M b0 (helloIn s i f) := by
  unfold helloIn
  repeat' (first
    | with_reducible assumption | (with_reducible exact keep_refl _ _) | with_reducible refine keepOut_next ?_
    | ((with_reducible intro x); refine keep_cut (m := M) (s := b0) x ?_ (fun _ => ?_); subst x)
    | ((with_reducible intro x); refine keep_cut_fst (m := M) (s := b0) x ?_ (fun _ => ?_); subst x)
    | ((with_reducible intro x); refine keep_cut_snd (m := M) (s := b0) x ?_ (fun _ => ?_); subst x)
    | ((with_reducible intro x); refine keep_cut_some (m := M) (s := b0) x ?_ (fun _ => ?_); subst x)
    | ((with_reducible intro x); refine keep_cut_pair (m := M) (s := b0) x ?_ (fun _ => ?_); subst x)
    | ((with_reducible intro x); refine keep_cut_run (m := M) (s := b0) x ?_ (fun _ => ?_); subst x)
    | ((with_reducible intro x); refine cell_id x ?_; subst x) | ((with_reducible intro x); refine fun_id x ?_; subst x)
    | ((with_reducible intro x); clear_value x) | (with_reducible intro _) | lift_lets
    | ((with_reducible refine touch_below hm ?_); rfl) | with_reducible refine sendCtrl_keep ?_ ?_
    | with_reducible refine modPort_keep ?_ ?_ | with_reducible refine quarantine_keep ?_ ?_
    | with_reducible refine tryUp_keep ?_ ?_ | with_reducible refine joinRoute_keep ?_ ?_
    | with_reducible refine keep_elim ?_ ?_ | with_reducible refine keep_getD ?_ ?_
    | with_reducible refine keep_foldl_fst ?_ ?_ | with_reducible refine keep_repeat ?_ ?_
    | with_reducible refine keep_foldl_snd ?_ ?_ | with_reducible refine keep_ite ?_ ?_
    | with_reducible refine keep_foldl ?_ ?_ | with_reducible exact keep_of_fst (by assumption) (by assumption)
    | with_reducible exact keep_enter (by assumption) (by assumption)
    | with_reducible exact keepSome_elim (by assumption) (by assumption)
    | with_reducible exact keepPair_elim (by assumption) (by assumption)
    | with_reducible exact keepPair_elim2 (by assumption) (by assumption)
    | with_reducible exact keep_of_snd (by assumption) (by assumption) | split | with_reducible refine keepSome_bind ?_
    | with_reducible refine keepSome_elim ?_ (by assumption) | (cases ‹_ = some _›) | (with_reducible dsimp only))

theorem rxFlit_keep {M : Touch} {b0 : State} {s : State} {i : Nat} {bs : List Byte} {kind : Nat} {g : State → FlitIn → State} (hm : ({ links := true } : Touch).le M = true) (hs : Keep M b0 s) (hg : ∀ a n, Keep M b0 a → Keep M b0 (g a n)) :
    Keep M b0 (rxFlit s i bs kind g) := by
  unfold rxFlit
  repeat' (first
    | with_reducible assumption | (with_reducible intro _) | with_reducible refine modPort_keep ?_ ?_
    | with_reducible refine hg _ _ ?_ | split)

theorem helloAckIn_keep {M : Touch} {b0 : State} {s : State} {i : Nat} {f : FlitIn} (hm : ({ links := true } : Touch).le M = true) (hs : Keep M b0 s) :
    Keep M b0 (helloAckIn s i f) := by
  unfold helloAckIn
  repeat' (first
    | with_reducible assumption | (with_reducible intro _) | ((with_reducible refine touch_below hm ?_); rfl)
    | with_reducible refine tryUp_keep ?_ ?_ | with_reducible refine modPort_keep ?_ ?_ | split)

theorem execDataFlitReceive_keep {M : Touch} {b0 : State} {port : Nat} {flit : List Byte} {s : State} (hm : ({ links := true } : Touch).le M = true) (hs : Keep M b0 s) :
    KeepOut M b0 (execDataFlitReceive port flit s) := by
  unfold execDataFlitReceive
  repeat' (first
    | with_reducible assumption | with_reducible refine keepOut_next ?_ | (with_reducible intro _)
    | with_reducible refine rxFlit_keep ?_ ?_ ?_ | with_reducible refine modPort_keep ?_ ?_ | split)

theorem execIdleFlitReceive_keep {M : Touch} {b0 : State} {port : Nat} {flit : List Byte} {s : State} (hm : ({ links := true } : Touch).le M = true) (hs : Keep M b0 s) :
    KeepOut M b0 (execIdleFlitReceive port flit s) := by
  unfold execIdleFlitReceive
  repeat' (first
    | with_reducible assumption | with_reducible refine keepOut_next ?_ | (with_reducible intro _)
    | with_reducible refine rxFlit_keep ?_ ?_ ?_)

theorem replayAll_keep {M : Touch} {b0 : State} {s : State} {i : Nat} (hm : ({ tick := true, plans := true, flog := true, recov := true, links := true } : Touch).le M = true) (hs : Keep M b0 s) :
    Keep M b0 (replayAll s i) := by
  unfold replayAll
  repeat' (first
    | with_reducible assumption | ((with_reducible intro x); refine keep_cut (m := M) (s := b0) x ?_ (fun _ => ?_); subst x)
    | (with_reducible intro _) | ((with_reducible refine touch_below hm ?_); rfl) | with_reducible refine joinRecov_keep ?_ ?_
    | with_reducible refine leaveUp_keep ?_ ?_ | with_reducible refine modPort_keep ?_ ?_
    | with_reducible refine logFault_keep ?_ ?_ | split | (with_reducible dsimp only))

theorem execNak_keep {M : Touch} {b0 : State} {port : Nat} {flit : List Byte} {s : State} (hm : ({ tick := true, plans := true, flog := true, recov := true, links := true } : Touch).le M = true) (hs : Keep M b0 s) :
    KeepOut M b0 (execNak port flit s) := by
  unfold execNak
  repeat' (first
    | with_reducible assumption | with_reducible refine keepOut_next ?_ | (with_reducible intro _)
    | ((with_reducible refine touch_below hm ?_); rfl) | with_reducible refine rxFlit_keep ?_ ?_ ?_
    | with_reducible refine replayAll_keep ?_ ?_ | split)

theorem timerExpiry_keep {M : Touch} {b0 : State} {s : State} {i : Nat} {ack : Option (BitVec 16)} (hm : ({ tick := true, plans := true, flog := true, recov := true, links := true } : Touch).le M = true) (hs : Keep M b0 s) :
    Keep M b0 (timerExpiry s i ack) := by
  unfold timerExpiry
  repeat' (first
    | with_reducible assumption | (with_reducible intro _) | ((with_reducible refine touch_below hm ?_); rfl)
    | with_reducible refine modPort_keep ?_ ?_ | with_reducible refine replayAll_keep ?_ ?_ | split)

theorem execReplayTimerExpiry_keep {M : Touch} {b0 : State} {port : Nat} {ackNow : Option (BitVec 16)} {s : State} (hm : ({ tick := true, plans := true, flog := true, recov := true, links := true } : Touch).le M = true) (hs : Keep M b0 s) :
    KeepOut M b0 (execReplayTimerExpiry port ackNow s) := by
  unfold execReplayTimerExpiry
  repeat' (first
    | with_reducible assumption | with_reducible refine keepOut_next ?_ | with_reducible refine timerExpiry_keep ?_ ?_)

theorem execEchoSend_keep {M : Touch} {b0 : State} {port : Nat} {time : Nat} {s : State} (hm : ({ links := true } : Touch).le M = true) (hs : Keep M b0 s) :
    KeepOut M b0 (execEchoSend port time s) := by
  unfold execEchoSend
  repeat' (first
    | with_reducible assumption | with_reducible refine keepOut_next ?_ | (with_reducible intro _)
    | with_reducible refine modPort_keep ?_ ?_ | with_reducible refine sendCtrl_keep ?_ ?_ | split)

theorem echoIn_keep {M : Touch} {b0 : State} {s : State} {i : Nat} {f : FlitIn} (hm : ({ free := true, links := true } : Touch).le M = true) (hs : Keep M b0 s) :
    Keep M b0 (echoIn s i f) := by
  unfold echoIn
  repeat' (first
    | with_reducible assumption | (with_reducible intro _) | ((with_reducible refine touch_below hm ?_); rfl)
    | with_reducible refine freshBits_keep ?_ ?_ | with_reducible refine sendCtrl_keep ?_ ?_ | split)

theorem execEcho_keep {M : Touch} {b0 : State} {port : Nat} {_time : Nat} {flit : List Byte} {s : State} (hm : ({ free := true, links := true } : Touch).le M = true) (hs : Keep M b0 s) :
    KeepOut M b0 (execEcho port _time flit s) := by
  unfold execEcho
  repeat' (first
    | with_reducible assumption | with_reducible refine keepOut_next ?_ | (with_reducible intro _)
    | ((with_reducible refine touch_below hm ?_); rfl) | with_reducible refine rxFlit_keep ?_ ?_ ?_
    | with_reducible refine echoIn_keep ?_ ?_)

theorem execEchoReply_keep {M : Touch} {b0 : State} {port : Nat} {time : Nat} {flit : List Byte} {s : State} (hm : ({ links := true } : Touch).le M = true) (hs : Keep M b0 s) :
    KeepOut M b0 (execEchoReply port time flit s) := by
  unfold execEchoReply
  repeat' (first
    | with_reducible assumption | with_reducible refine keepOut_next ?_ | (with_reducible intro _)
    | with_reducible refine rxFlit_keep ?_ ?_ ?_ | with_reducible refine modPort_keep ?_ ?_ | split)

theorem badMarker_keep {M : Touch} {b0 : State} {s : State} {i : Nat} (hm : ({ tick := true, links := true } : Touch).le M = true) (hs : Keep M b0 s) :
    Keep M b0 (badMarker s i) := by
  unfold badMarker
  repeat' (first
    | with_reducible assumption | ((with_reducible intro x); refine keep_cut (m := M) (s := b0) x ?_ (fun _ => ?_); subst x)
    | ((with_reducible refine touch_below hm ?_); rfl) | with_reducible refine modPort_keep ?_ ?_
    | (with_reducible dsimp -zeta only [keep_mk]) | with_reducible refine keep_tick ?_ ?_ | (with_reducible dsimp only))

theorem tickFlit_keep {M : Touch} {b0 : State} {s : State} {i : Nat} {time : Nat} {bs : List Byte} (hm : ({ now := true, tick := true, flog := true, links := true } : Touch).le M = true) (hs : Keep M b0 s) :
    Keep M b0 (tickFlit s i time bs) := by
  unfold tickFlit
  repeat' (first
    | with_reducible assumption | ((with_reducible intro x); refine keep_cut (m := M) (s := b0) x ?_ (fun _ => ?_); subst x)
    | (with_reducible intro _) | ((with_reducible refine touch_below hm ?_); rfl) | with_reducible refine badMarker_keep ?_ ?_
    | with_reducible refine modPort_keep ?_ ?_ | with_reducible refine tickEvent_keep ?_ ?_
    | (with_reducible dsimp -zeta only [keep_mk]) | with_reducible refine keep_now_tick ?_ ?_ | split)

theorem execTickFlitReceive_keep {M : Touch} {b0 : State} {port : Nat} {time : Nat} {flit : List Byte} {s : State} (hm : ({ now := true, tick := true, flog := true, links := true } : Touch).le M = true) (hs : Keep M b0 s) :
    KeepOut M b0 (execTickFlitReceive port time flit s) := by
  unfold execTickFlitReceive
  repeat' (first
    | with_reducible assumption | with_reducible refine keepOut_next ?_ | with_reducible refine tickFlit_keep ?_ ?_)

theorem execPriorityFlowControl_keep {M : Touch} {b0 : State} {port : Nat} {priority : Nat} {s : State} (hm : ({ links := true } : Touch).le M = true) (hs : Keep M b0 s) :
    KeepOut M b0 (execPriorityFlowControl port priority s) := by
  unfold execPriorityFlowControl
  repeat' (first
    | with_reducible assumption | with_reducible refine keepOut_next ?_ | (with_reducible intro _)
    | with_reducible refine modPort_keep ?_ ?_ | split)

theorem execPfcPauseExpiry_keep {M : Touch} {b0 : State} {port : Nat} {priority : Nat} {s : State} (hm : ({ links := true } : Touch).le M = true) (hs : Keep M b0 s) :
    KeepOut M b0 (execPfcPauseExpiry port priority s) := by
  unfold execPfcPauseExpiry
  repeat' (first
    | with_reducible assumption | with_reducible refine keepOut_next ?_ | with_reducible refine modPort_keep ?_ ?_)

theorem deliveredSend_keep {M : Touch} {b0 : State} {s : State} (hm : ({ links := true } : Touch).le M = true) (hs : Keep M b0 s) :
    Keep M b0 (deliveredSend s) := by
  unfold deliveredSend
  repeat' (first
    | with_reducible assumption | ((with_reducible intro x); refine keep_cut (m := M) (s := b0) x ?_ (fun _ => ?_); subst x)
    | (with_reducible intro _) | with_reducible refine putMsg_keep ?_ ?_ | (with_reducible dsimp -zeta only [keep_mk])
    | with_reducible refine keep_links ?_ ?_ | with_reducible refine keep_foldl ?_ ?_)

theorem execDeliveredSend_keep {M : Touch} {b0 : State} {s : State} (hm : ({ links := true } : Touch).le M = true) (hs : Keep M b0 s) :
    KeepOut M b0 (execDeliveredSend s) := by
  unfold execDeliveredSend
  repeat' (first
    | with_reducible assumption | with_reducible refine keepOut_next ?_ | (with_reducible intro _)
    | with_reducible refine deliveredSend_keep ?_ ?_ | split)

theorem deliveredIn_keep {M : Touch} {b0 : State} {s : State} {m : Msg} (hm : ({ links := true } : Touch).le M = true) (hs : Keep M b0 s) :
    Keep M b0 (deliveredIn s m) := by
  unfold deliveredIn
  repeat' (first
    | with_reducible assumption | (with_reducible exact keep_refl _ _) | with_reducible refine keepOut_next ?_
    | ((with_reducible intro x); refine keep_cut (m := M) (s := b0) x ?_ (fun _ => ?_); subst x)
    | ((with_reducible intro x); refine keep_cut_fst (m := M) (s := b0) x ?_ (fun _ => ?_); subst x)
    | ((with_reducible intro x); refine keep_cut_snd (m := M) (s := b0) x ?_ (fun _ => ?_); subst x)
    | ((with_reducible intro x); refine keep_cut_some (m := M) (s := b0) x ?_ (fun _ => ?_); subst x)
    | ((with_reducible intro x); refine keep_cut_pair (m := M) (s := b0) x ?_ (fun _ => ?_); subst x)
    | ((with_reducible intro x); refine keep_cut_run (m := M) (s := b0) x ?_ (fun _ => ?_); subst x)
    | ((with_reducible intro x); refine cell_id x ?_; subst x) | ((with_reducible intro x); refine fun_id x ?_; subst x)
    | ((with_reducible intro x); clear_value x) | (with_reducible intro _) | lift_lets
    | ((with_reducible refine touch_below hm ?_); rfl) | with_reducible refine releaseMsg_keep ?_ ?_
    | with_reducible refine takeMsg_keep ?_ ?_ | (with_reducible dsimp -zeta only [keep_mk])
    | with_reducible refine keep_links ?_ ?_ | with_reducible refine keep_elim ?_ ?_ | with_reducible refine keep_getD ?_ ?_
    | with_reducible refine keep_foldl_fst ?_ ?_ | with_reducible refine keep_repeat ?_ ?_
    | with_reducible refine keep_foldl_snd ?_ ?_ | with_reducible refine keep_ite ?_ ?_
    | with_reducible refine keep_foldl ?_ ?_ | with_reducible exact keep_of_fst (by assumption) (by assumption)
    | with_reducible exact keep_enter (by assumption) (by assumption)
    | with_reducible exact keepSome_elim (by assumption) (by assumption)
    | with_reducible exact keepPair_elim (by assumption) (by assumption)
    | with_reducible exact keepPair_elim2 (by assumption) (by assumption)
    | with_reducible exact keep_of_snd (by assumption) (by assumption) | split | with_reducible refine keepSome_bind ?_
    | with_reducible refine keepSome_elim ?_ (by assumption) | (cases ‹_ = some _›) | (with_reducible dsimp only))

theorem execDelivered_keep {M : Touch} {b0 : State} {msg : Msg} {s : State} (hm : ({ links := true } : Touch).le M = true) (hs : Keep M b0 s) :
    KeepOut M b0 (execDelivered msg s) := by
  unfold execDelivered
  repeat' (first
    | with_reducible assumption | with_reducible refine keepOut_next ?_ | with_reducible refine deliveredIn_keep ?_ ?_)

end Sys2Proof.Laws
end

