-- ==== Sys2Proof/Laws/KeepCollect.lean ====
section
/-! SUPPORT. What each operation of Machine/Collect.lean may change. -/
namespace Sys2Proof.Laws

open Sys2Proof Sys2Proof.Machine
set_option linter.unusedVariables false

theorem modInst_keep {M : Touch} {b0 : State} {s : State} {t : Tid} {i : Inst} {f : Inst → Inst} (hm : ({ threads := true } : Touch).le M = true) (hs : Keep M b0 s) :
    Keep M b0 (modInst s t i f) := by
  unfold modInst
  repeat' (first | with_reducible assumption | with_reducible refine modTh_keep ?_ ?_)

theorem modPeer_keep {M : Touch} {b0 : State} {s : State} {t : Tid} {i : Inst} {rank : Nat} {carr : Nat} {f : PeerSt → PeerSt} (hm : ({ threads := true } : Touch).le M = true) (hs : Keep M b0 s) :
    Keep M b0 (modPeer s t i rank carr f) := by
  unfold modPeer
  repeat' (first | with_reducible assumption | with_reducible refine modInst_keep ?_ ?_)

theorem tryAnnounce_keep {M : Touch} {b0 : State} {s : State} {t : Tid} {c : CollCtx} {i : Inst} {q : Xfer} (hm : ({ threads := true, links := true } : Touch).le M = true) (hs : Keep M b0 s) :
    Keep M b0 (tryAnnounce s t c i q) := by
  unfold tryAnnounce
  repeat' (first
    | with_reducible assumption | (with_reducible intro _) | ((with_reducible refine touch_below hm ?_); rfl)
    | with_reducible refine sendMsg_keep ?_ ?_ | with_reducible refine modPeer_keep ?_ ?_ | split
    | (with_reducible dsimp only))

theorem mismatch_keep {M : Touch} {b0 : State} {s : State} {t : Tid} {i : Inst} {pc : Nat} {own : Nat} {theirs : Nat} (hm : ({ dev := true, plans := true, threads := true, flog := true, links := true } : Touch).le M = true) (hs : Keep M b0 s) :
    Keep M b0 (mismatch s t i pc own theirs) := by
  unfold mismatch
  repeat' (first
    | with_reducible assumption | ((with_reducible intro x); refine keep_cut (m := M) (s := b0) x ?_ (fun _ => ?_); subst x)
    | ((with_reducible refine touch_below hm ?_); rfl) | with_reducible refine refuseRoom_keep ?_ ?_
    | with_reducible refine modTh_keep ?_ ?_)

theorem tryMatch_keep {M : Touch} {b0 : State} {s : State} {t : Tid} {c : CollCtx} {i : Inst} {q : Xfer} (hm : ({ dev := true, plans := true, threads := true, flog := true, links := true } : Touch).le M = true) (hs : Keep M b0 s) :
    Keep M b0 (tryMatch s t c i q) := by
  unfold tryMatch
  repeat' (first
    | with_reducible assumption | ((with_reducible intro x); refine keep_cut (m := M) (s := b0) x ?_ (fun _ => ?_); subst x)
    | (with_reducible intro _) | ((with_reducible refine touch_below hm ?_); rfl) | with_reducible refine modPeer_keep ?_ ?_
    | with_reducible refine mismatch_keep ?_ ?_ | (with_reducible dsimp -zeta only [keep_mk])
    | with_reducible refine keep_links ?_ ?_ | split)

theorem endXfer_keep {M : Touch} {b0 : State} {s : State} {t : Tid} {id : Nat} (hm : ({ threads := true } : Touch).le M = true) (hs : Keep M b0 s) :
    Keep M b0 (endXfer s t id) := by
  unfold endXfer
  repeat' (first | with_reducible assumption | with_reducible refine modTh_keep ?_ ?_)

theorem runSend_keep {M : Touch} {b0 : State} {s : State} {t : Tid} {c : CollCtx} {q : Xfer} (hm : ({ plans := true, threads := true, tables := true, frames := true, decs := true, links := true } : Touch).le M = true) (hs : Keep M b0 s) :
    Keep M b0 (runSend s t c q) := by
  unfold runSend
  repeat' (first
    | with_reducible assumption | ((with_reducible intro x); refine keep_cut (m := M) (s := b0) x ?_ (fun _ => ?_); subst x)
    | (with_reducible intro _) | ((with_reducible refine touch_below hm ?_); rfl) | with_reducible refine sendMsg_keep ?_ ?_
    | with_reducible refine settleWait_keep ?_ ?_ | with_reducible refine endXfer_keep ?_ ?_
    | (with_reducible dsimp -zeta only [keep_mk]) | with_reducible refine keep_links ?_ ?_
    | with_reducible refine keep_foldl ?_ ?_ | split)

theorem recvDone_keep {M : Touch} {b0 : State} {s : State} {t : Tid} {q : Xfer} (hm : ({ plans := true, threads := true, tables := true, frames := true, decs := true } : Touch).le M = true) (hs : Keep M b0 s) :
    Keep M b0 (recvDone s t q) := by
  unfold recvDone
  repeat' (first
    | with_reducible assumption | ((with_reducible refine touch_below hm ?_); rfl)
    | with_reducible refine settleWait_keep ?_ ?_ | with_reducible refine modTh_keep ?_ ?_
    | with_reducible refine endXfer_keep ?_ ?_)

theorem stepXfer_keep {M : Touch} {b0 : State} {s : State} {t : Tid} {id : Nat} (hm : ({ dev := true, plans := true, threads := true, tables := true, frames := true, decs := true, flog := true, links := true } : Touch).le M = true) (hs : Keep M b0 s) :
    Keep M b0 (stepXfer s t id) := by
  unfold stepXfer
  repeat' (first
    | with_reducible assumption | ((with_reducible intro x); refine keep_cut (m := M) (s := b0) x ?_ (fun _ => ?_); subst x)
    | (with_reducible intro _) | ((with_reducible refine touch_below hm ?_); rfl)
    | with_reducible refine tryAnnounce_keep ?_ ?_ | with_reducible refine tryMatch_keep ?_ ?_
    | with_reducible refine runSend_keep ?_ ?_ | with_reducible refine recvDone_keep ?_ ?_ | split
    | (with_reducible dsimp only))

theorem stepXfers_keep {M : Touch} {b0 : State} {s : State} {t : Tid} (hm : ({ dev := true, plans := true, threads := true, tables := true, frames := true, decs := true, flog := true, links := true } : Touch).le M = true) (hs : Keep M b0 s) :
    Keep M b0 (stepXfers s t) := by
  unfold stepXfers
  repeat' (first
    | with_reducible assumption | (with_reducible intro _) | with_reducible refine stepXfer_keep ?_ ?_
    | with_reducible refine keep_foldl ?_ ?_)

theorem discard_keep {M : Touch} {b0 : State} {s : State} {m : Msg} {h : CollHead} (hm : ({ flog := true, links := true } : Touch).le M = true) (hs : Keep M b0 s) :
    Keep M b0 (Machine.discard s m h) := by
  unfold Machine.discard
  repeat' (first
    | with_reducible assumption | ((with_reducible intro x); refine keep_cut (m := M) (s := b0) x ?_ (fun _ => ?_); subst x)
    | (with_reducible intro _) | ((with_reducible refine touch_below hm ?_); rfl)
    | with_reducible refine releaseMsg_keep ?_ ?_ | with_reducible refine logFault_keep ?_ ?_
    | (with_reducible dsimp -zeta only [keep_mk]) | with_reducible refine keep_links ?_ ?_ | split
    | (with_reducible dsimp only))

theorem visible_keep {M : Touch} {b0 : State} {s : State} {m : Msg} (hm : ({ links := true } : Touch).le M = true) (hs : Keep M b0 s) :
    Keep M b0 (visible s m) := by
  unfold visible
  repeat' (first
    | with_reducible assumption | ((with_reducible intro x); refine keep_cut (m := M) (s := b0) x ?_ (fun _ => ?_); subst x)
    | with_reducible refine releaseMsg_keep ?_ ?_ | (with_reducible dsimp -zeta only [keep_mk])
    | with_reducible refine keep_links ?_ ?_ | (with_reducible dsimp only))

theorem takeAnnounce_keep {M : Touch} {b0 : State} {s : State} {m : Msg} {t : Tid} {h : CollHead} (hm : ({ dev := true, plans := true, threads := true, tables := true, frames := true, decs := true, flog := true, links := true } : Touch).le M = true) (hs : Keep M b0 s) :
    KeepSome M b0 (takeAnnounce s m t h) := by
  unfold takeAnnounce
  repeat' (first
    | with_reducible assumption | with_reducible exact keepSome_none | with_reducible refine keepSome_some ?_
    | ((with_reducible intro x); refine keep_cut_some (m := M) (s := b0) x ?_ (fun _ => ?_); subst x)
    | ((with_reducible refine touch_below hm ?_); rfl) | with_reducible refine visible_keep ?_ ?_
    | with_reducible refine stepXfers_keep ?_ ?_ | (with_reducible dsimp -zeta only [keep_mk])
    | with_reducible refine keep_links ?_ ?_ | split)

theorem landPiece_keep {M : Touch} {b0 : State} {s : State} {r : RoomRec} {c : CollCtx} {q : Xfer} {k : Nat} {payload : List Byte} (hm : ({ mem := true } : Touch).le M = true) (hs : Keep M b0 s) :
    Keep M b0 (landPiece s r c q k payload) := by
  unfold landPiece
  repeat' (first
    | ((with_reducible intro x); refine cell_id x ?_; subst x) | (with_reducible intro _)
    | (with_reducible dsimp -zeta only [keep_mk]) | with_reducible refine keep_mem ?_ ?_ ?_
    | with_reducible refine memWrite_ok ?_ | split | (with_reducible dsimp only))
  all_goals assumption

theorem modXfer_keep {M : Touch} {b0 : State} {s : State} {t : Tid} {id : Nat} {f : Xfer → Xfer} (hm : ({ threads := true } : Touch).le M = true) (hs : Keep M b0 s) :
    Keep M b0 (modXfer s t id f) := by
  unfold modXfer
  repeat' (first | with_reducible assumption | with_reducible refine modTh_keep ?_ ?_)

theorem takePiece_keep {M : Touch} {b0 : State} {s : State} {m : Msg} {t : Tid} {c : CollCtx} {h : CollHead} (hm : ({ dev := true, plans := true, threads := true, tables := true, frames := true, decs := true, flog := true, links := true, mem := true } : Touch).le M = true) (hs : Keep M b0 s) :
    KeepSome M b0 (takePiece s m t c h) := by
  unfold takePiece
  repeat' (first
    | with_reducible assumption | with_reducible exact keepSome_none | with_reducible refine keepSome_some ?_
    | (with_reducible intro _) | ((with_reducible refine touch_below hm ?_); rfl)
    | with_reducible refine refuseRoom_keep ?_ ?_ | with_reducible refine releaseMsg_keep ?_ ?_
    | with_reducible refine endXfer_keep ?_ ?_ | with_reducible refine modXfer_keep ?_ ?_
    | with_reducible refine visible_keep ?_ ?_ | with_reducible refine landPiece_keep ?_ ?_
    | with_reducible refine recvDone_keep ?_ ?_ | split)

theorem collMsg_keep {M : Touch} {b0 : State} {s : State} {m : Msg} (hm : ({ dev := true, plans := true, threads := true, tables := true, frames := true, decs := true, flog := true, links := true, mem := true } : Touch).le M = true) (hs : Keep M b0 s) :
    KeepSome M b0 (collMsg s m) := by
  unfold collMsg
  repeat' (first
    | with_reducible assumption | with_reducible refine keepSome_some ?_ | ((with_reducible refine touch_below hm ?_); rfl)
    | with_reducible refine discard_keep ?_ ?_ | with_reducible refine takeAnnounce_keep ?_ ?_
    | with_reducible refine takePiece_keep ?_ ?_ | split | (with_reducible dsimp only))

theorem tryHeld_keep {M : Touch} {b0 : State} {l : List Msg} {s : State} {kept : List Msg} (hm : ({ dev := true, plans := true, threads := true, tables := true, frames := true, decs := true, flog := true, links := true, mem := true } : Touch).le M = true) (hs : Keep M b0 s) :
    Keep M b0 (tryHeld l s kept).1 := by
  induction l generalizing s kept with
  | nil => exact hs
  | cons m r ih =>
    unfold tryHeld
    split
    · exact ih hs
    · split
      · rename_i s1 h1
        exact ih (keepSome_elim (collMsg_keep (touch_below hm rfl) hs) h1)
      · exact ih hs
theorem tryHeld_keep_eq {M : Touch} {b0 : State} {l : List Msg} {s : State} {kept : List Msg} {w9} {u9 : State} (hm : ({ dev := true, plans := true, threads := true, tables := true, frames := true, decs := true, flog := true, links := true, mem := true } : Touch).le M = true) (hs : Keep M b0 s) (e9 : tryHeld l s kept = (u9, w9)) : Keep M b0 u9 := by
  have := tryHeld_keep (M := M) (b0 := b0) (l := l) (s := s) (kept := kept) hm hs; rw [e9] at this; exact this

theorem driveOnce_keep {M : Touch} {b0 : State} {s : State} (hm : ({ dev := true, plans := true, threads := true, tables := true, frames := true, decs := true, flog := true, links := true, mem := true } : Touch).le M = true) (hs : Keep M b0 s) :
    Keep M b0 (driveOnce s) := by
  unfold driveOnce
  repeat' (first
    | with_reducible assumption | ((with_reducible intro x); refine keep_cut (m := M) (s := b0) x ?_ (fun _ => ?_); subst x)
    | (with_reducible intro _) | ((with_reducible refine touch_below hm ?_); rfl) | with_reducible refine stepXfers_keep ?_ ?_
    | with_reducible refine tryHeld_keep ?_ ?_ | (with_reducible dsimp -zeta only [keep_mk])
    | with_reducible refine keep_links ?_ ?_ | with_reducible refine keep_foldl ?_ ?_ | (with_reducible dsimp only))

theorem drive_keep {M : Touch} {b0 : State} {s : State} (hm : ({ dev := true, plans := true, threads := true, tables := true, frames := true, decs := true, flog := true, links := true, mem := true } : Touch).le M = true) (hs : Keep M b0 s) :
    Keep M b0 (drive s) := by
  unfold drive
  repeat' (first
    | with_reducible assumption | (with_reducible intro _) | with_reducible refine driveOnce_keep ?_ ?_
    | with_reducible refine keep_repeat ?_ ?_)

theorem collIn_keep {M : Touch} {b0 : State} {s : State} {m : Msg} {kind : Nat} (hm : ({ dev := true, plans := true, threads := true, tables := true, frames := true, decs := true, flog := true, links := true, mem := true } : Touch).le M = true) (hs : Keep M b0 s) :
    Keep M b0 (collIn s m kind) := by
  unfold collIn
  repeat' (first
    | with_reducible assumption | ((with_reducible intro x); refine keep_cut (m := M) (s := b0) x ?_ (fun _ => ?_); subst x)
    | (with_reducible intro _) | ((with_reducible refine touch_below hm ?_); rfl) | with_reducible refine bumpRx_keep ?_ ?_
    | with_reducible refine drive_keep ?_ ?_ | (with_reducible dsimp -zeta only [keep_mk])
    | with_reducible refine keep_links ?_ ?_ | split)

theorem execAnnounce_keep {M : Touch} {b0 : State} {msg : Msg} {s : State} (hm : ({ dev := true, plans := true, threads := true, tables := true, frames := true, decs := true, flog := true, links := true, mem := true } : Touch).le M = true) (hs : Keep M b0 s) :
    KeepOut M b0 (execAnnounce msg s) := by
  unfold execAnnounce
  repeat' (first
    | with_reducible assumption | with_reducible refine keepOut_next ?_ | with_reducible refine collIn_keep ?_ ?_)

theorem execPiece_keep {M : Touch} {b0 : State} {msg : Msg} {s : State} (hm : ({ dev := true, plans := true, threads := true, tables := true, frames := true, decs := true, flog := true, links := true, mem := true } : Touch).le M = true) (hs : Keep M b0 s) :
    KeepOut M b0 (execPiece msg s) := by
  unfold execPiece
  repeat' (first
    | with_reducible assumption | with_reducible refine keepOut_next ?_ | with_reducible refine collIn_keep ?_ ?_)

theorem refuseUnaligned_keep {M : Touch} {b0 : State} {c : RC} (hm : ({ plans := true, threads := true } : Touch).le M = true) (hc : Keep M b0 c.s) :
    Keep M b0 (refuseUnaligned c) := by
  unfold refuseUnaligned
  repeat' (first
    | with_reducible assumption | ((with_reducible refine touch_below hm ?_); rfl) | with_reducible refine setCause_keep ?_ ?_
    | with_reducible refine modTh_keep ?_ ?_)

theorem porch_keep {M : Touch} {b0 : State} {s : State} {t : Tid} {i : RoomIns} {send : Bool} (hm : ({ dev := true, plans := true, threads := true, tables := true, frames := true, decs := true, flog := true, links := true, mem := true } : Touch).le M = true) (hs : Keep M b0 s) :
    Keep M b0 (porch s t i send) := by
  unfold porch
  repeat' (first
    | with_reducible assumption | (with_reducible intro _) | ((with_reducible refine touch_below hm ?_); rfl)
    | with_reducible refine runIns_keep ?_ ?_ ?_ | with_reducible refine RC_refuse_keep ?_ ?_
    | with_reducible refine refuseUnaligned_keep ?_ ?_ | with_reducible refine drive_keep ?_ ?_
    | with_reducible refine putTh_keep ?_ ?_ | split | (with_reducible dsimp only))

theorem execPorchSend_keep {M : Touch} {b0 : State} {t : Tid} {i : RoomIns} {s : State} (hm : ({ dev := true, plans := true, threads := true, tables := true, frames := true, decs := true, flog := true, links := true, mem := true } : Touch).le M = true) (hs : Keep M b0 s) :
    KeepOut M b0 (execPorchSend t i s) := by
  unfold execPorchSend
  repeat' (first
    | with_reducible assumption | with_reducible refine keepOut_next ?_ | with_reducible refine porch_keep ?_ ?_)

theorem execPorchRecv_keep {M : Touch} {b0 : State} {t : Tid} {i : RoomIns} {s : State} (hm : ({ dev := true, plans := true, threads := true, tables := true, frames := true, decs := true, flog := true, links := true, mem := true } : Touch).le M = true) (hs : Keep M b0 s) :
    KeepOut M b0 (execPorchRecv t i s) := by
  unfold execPorchRecv
  repeat' (first
    | with_reducible assumption | with_reducible refine keepOut_next ?_ | with_reducible refine porch_keep ?_ ?_)

theorem execStepEnd_keep {M : Touch} {b0 : State} {t : Tid} {i : RoomIns} {s : State} (hm : ({ dev := true, plans := true, threads := true, tables := true, frames := true, decs := true, flog := true, links := true, mem := true } : Touch).le M = true) (hs : Keep M b0 s) :
    KeepOut M b0 (execStepEnd t i s) := by
  unfold execStepEnd
  repeat' (first
    | with_reducible assumption | with_reducible refine keepOut_next ?_ | (with_reducible intro _)
    | ((with_reducible refine touch_below hm ?_); rfl) | with_reducible refine runIns_keep ?_ ?_ ?_
    | with_reducible refine drive_keep ?_ ?_ | with_reducible refine beginWait_keep ?_ ?_)

theorem execProgEnd_keep {M : Touch} {b0 : State} {t : Tid} {i : RoomIns} {s : State} (hm : ({ dev := true, plans := true, threads := true, tables := true, frames := true, decs := true, flog := true, links := true, mem := true } : Touch).le M = true) (hs : Keep M b0 s) :
    KeepOut M b0 (execProgEnd t i s) := by
  unfold execProgEnd
  repeat' (first
    | with_reducible assumption | with_reducible refine keepOut_next ?_ | (with_reducible intro _)
    | ((with_reducible refine touch_below hm ?_); rfl) | with_reducible refine runIns_keep ?_ ?_ ?_
    | with_reducible refine drive_keep ?_ ?_ | with_reducible refine beginWait_keep ?_ ?_)

theorem execHello_keep {M : Touch} {b0 : State} {port : Nat} {flit : List Byte} {s : State} (hm : ({ dev := true, plans := true, threads := true, tables := true, frames := true, decs := true, flog := true, links := true, mem := true } : Touch).le M = true) (hs : Keep M b0 s) :
    KeepOut M b0 (execHello port flit s) := by
  unfold execHello
  repeat' (first
    | with_reducible assumption | with_reducible refine keepOut_next ?_ | (with_reducible intro _)
    | ((with_reducible refine touch_below hm ?_); rfl) | with_reducible refine drive_keep ?_ ?_
    | with_reducible refine rxFlit_keep ?_ ?_ ?_ | with_reducible refine helloIn_keep ?_ ?_)

theorem execHelloAck_keep {M : Touch} {b0 : State} {port : Nat} {flit : List Byte} {s : State} (hm : ({ dev := true, plans := true, threads := true, tables := true, frames := true, decs := true, flog := true, links := true, mem := true } : Touch).le M = true) (hs : Keep M b0 s) :
    KeepOut M b0 (execHelloAck port flit s) := by
  unfold execHelloAck
  repeat' (first
    | with_reducible assumption | with_reducible refine keepOut_next ?_ | (with_reducible intro _)
    | ((with_reducible refine touch_below hm ?_); rfl) | with_reducible refine drive_keep ?_ ?_
    | with_reducible refine rxFlit_keep ?_ ?_ ?_ | with_reducible refine helloAckIn_keep ?_ ?_)

end Sys2Proof.Laws
end

