-- ==== Sys2Proof/Laws/KeepWalker.lean ====
section
/-! SUPPORT. What each operation of Machine/Walker.lean may change. -/
namespace Sys2Proof.Laws

open Sys2Proof Sys2Proof.Machine
set_option linter.unusedVariables false

theorem startWalk_keep {M : Touch} {b0 : State} {s : State} {ctx : Nat} (hm : ({ ctxs := true } : Touch).le M = true) (hs : Keep M b0 s) :
    Keep M b0 (startWalk s ctx) := by
  unfold startWalk
  repeat' (first | with_reducible assumption | with_reducible refine modCtx_keep ?_ ?_)

theorem walkTag_keep {M : Touch} {b0 : State} {s : State} {k : PlanKey} {d : WalkDesc} {live : Bool} (hm : ({ plans := true } : Touch).le M = true) (hs : Keep M b0 s) :
    Keep M b0 (walkTag s k d live) := by
  unfold walkTag
  repeat' (first
    | with_reducible assumption | (with_reducible intro _) | with_reducible refine modPlan_keep ?_ ?_
    | with_reducible refine tagOutput_keep ?_ ?_ | split)

theorem gather_keep {M : Touch} {b0 : State} {c : RC} {bs : List Byte} {i : RoomIns} (hm : ({ dev := true, ctxs := true, plans := true, threads := true, flog := true, links := true } : Touch).le M = true) (hc : Keep M b0 c.s) :
    Keep M b0 (gather c bs i) := by
  unfold gather
  repeat' (first
    | with_reducible assumption | (with_reducible exact keep_refl _ _) | with_reducible refine keepOut_next ?_
    | ((with_reducible intro x); refine keep_cut (m := M) (s := b0) x ?_ (fun _ => ?_); subst x)
    | ((with_reducible intro x); refine keep_cut_fst (m := M) (s := b0) x ?_ (fun _ => ?_); subst x)
    | ((with_reducible intro x); refine keep_cut_snd (m := M) (s := b0) x ?_ (fun _ => ?_); subst x)
    | ((with_reducible intro x); refine keep_cut_some (m := M) (s := b0) x ?_ (fun _ => ?_); subst x)
    | ((with_reducible intro x); refine keep_cut_pair (m := M) (s := b0) x ?_ (fun _ => ?_); subst x)
    | ((with_reducible intro x); refine keep_cut_run (m := M) (s := b0) x ?_ (fun _ => ?_); subst x)
    | ((with_reducible intro x); refine cell_id x ?_; subst x) | ((with_reducible intro x); refine fun_id x ?_; subst x)
    | ((with_reducible intro x); clear_value x) | (with_reducible intro _) | lift_lets
    | ((with_reducible refine touch_below hm ?_); rfl) | with_reducible refine RC_s_keep ?_ ?_
    | with_reducible refine RC_refuse_keep ?_ ?_ | with_reducible refine refuseFor_keep ?_ ?_
    | with_reducible refine RC_issue_keep ?_ ?_ ?_ | with_reducible refine walkTag_keep ?_ ?_
    | with_reducible refine startWalk_keep ?_ ?_ | with_reducible refine keep_elim ?_ ?_
    | with_reducible refine keep_getD ?_ ?_ | with_reducible refine keep_foldl_fst ?_ ?_
    | with_reducible refine keep_repeat ?_ ?_ | with_reducible refine keep_foldl_snd ?_ ?_
    | with_reducible refine keep_ite ?_ ?_ | with_reducible refine keep_foldl ?_ ?_
    | with_reducible exact keep_of_fst (by assumption) (by assumption)
    | with_reducible exact keep_enter (by assumption) (by assumption)
    | with_reducible exact keepSome_elim (by assumption) (by assumption)
    | with_reducible exact keepPair_elim (by assumption) (by assumption)
    | with_reducible exact keepPair_elim2 (by assumption) (by assumption)
    | with_reducible exact keep_of_snd (by assumption) (by assumption) | split | with_reducible refine keepSome_bind ?_
    | with_reducible refine keepSome_elim ?_ (by assumption) | (cases ‹_ = some _›) | (with_reducible dsimp only))

theorem reportSkip_keep {M : Touch} {b0 : State} {s : State} {t : Tid} {k : Nat} {handle : Nat} {index : Nat} (hm : ({ dev := true, plans := true, flog := true, links := true } : Touch).le M = true) (hs : Keep M b0 s) :
    Keep M b0 (reportSkip s t k handle index) := by
  unfold reportSkip
  repeat' (first
    | with_reducible assumption | ((with_reducible intro x); refine keep_cut (m := M) (s := b0) x ?_ (fun _ => ?_); subst x)
    | (with_reducible intro _) | ((with_reducible refine touch_below hm ?_); rfl) | with_reducible refine raisePlan_keep ?_ ?_
    | with_reducible refine modPlan_keep ?_ ?_ | with_reducible refine addItem_keep ?_ ?_ | split)

theorem touchBlocks_keep {M : Touch} {b0 : State} {s : State} {bs : List Blk} (hm : ({ frames := true } : Touch).le M = true) (hs : Keep M b0 s) :
    Keep M b0 (touchBlocks s bs) := by
  unfold touchBlocks
  repeat' (first
    | with_reducible assumption | (with_reducible intro _) | with_reducible refine touchFrame_keep ?_ ?_
    | with_reducible refine keep_elim ?_ ?_ | with_reducible refine keep_foldl ?_ ?_ | split)

theorem chunkLand_keep {M : Touch} {b0 : State} {s : State} {t : Tid} {slot : Nat} (hm : ({ dev := true, plans := true, threads := true, frames := true, flog := true, links := true, mem := true } : Touch).le M = true) (hs : Keep M b0 s) :
    Keep M b0 (chunkLand s t slot) := by
  unfold chunkLand
  repeat' (first
    | (with_reducible intro _) | ((with_reducible refine touch_below hm ?_); rfl) | with_reducible refine modTh_keep ?_ ?_
    | with_reducible refine reportSkip_keep ?_ ?_ | with_reducible refine touchBlocks_keep ?_ ?_
    | (with_reducible dsimp -zeta only [keep_mk]) | with_reducible refine keep_mem ?_ ?_ ?_
    | with_reducible refine landBlocks_ok ?_ | with_reducible refine memWrite_ok ?_ | with_reducible refine keep_foldl ?_ ?_
    | split | (with_reducible dsimp only))
  all_goals assumption

theorem execWalkChunkLand_keep {M : Touch} {b0 : State} {t : Tid} {slot : Nat} {s : State} (hm : ({ dev := true, plans := true, threads := true, tables := true, frames := true, decs := true, flog := true, links := true, mem := true } : Touch).le M = true) (hs : Keep M b0 s) :
    KeepOut M b0 (execWalkChunkLand t slot s) := by
  unfold execWalkChunkLand
  repeat' (first
    | with_reducible assumption | with_reducible refine keepOut_next ?_ | (with_reducible intro _)
    | ((with_reducible refine touch_below hm ?_); rfl) | with_reducible refine settleWait_keep ?_ ?_
    | with_reducible refine chunkLand_keep ?_ ?_ | split)

theorem walkStore_keep {M : Touch} {b0 : State} {c : RC} {bs : List Byte} {i : RoomIns} (hm : ({ free := true, dev := true, plans := true, threads := true, tables := true, frames := true, decs := true, flog := true, links := true, mem := true } : Touch).le M = true) (hc : Keep M b0 c.s) :
    Keep M b0 (walkStore c bs i) := by
  unfold walkStore
  repeat' (first
    | with_reducible assumption | (with_reducible intro _) | ((with_reducible refine touch_below hm ?_); rfl)
    | with_reducible refine RC_refuse_keep ?_ ?_ | with_reducible refine walkTag_keep ?_ ?_
    | with_reducible refine kvStore_keep ?_ ?_ | with_reducible refine RC_issue_keep ?_ ?_ ?_
    | with_reducible refine keep_getD ?_ ?_ | split | (with_reducible dsimp only))

theorem retryStore_keep {M : Touch} {b0 : State} {s : State} {t : Tid} {q : StoreWait} (hm : ({ free := true, plans := true, threads := true, tables := true, frames := true, decs := true, mem := true } : Touch).le M = true) (hs : Keep M b0 s) :
    Keep M b0 (retryStore s t q) := by
  unfold retryStore
  repeat' (first
    | with_reducible assumption | ((with_reducible refine touch_below hm ?_); rfl)
    | with_reducible refine keepSome_elim (kvStore_keep ?_ ?_) (by assumption) | with_reducible refine settleWait_keep ?_ ?_
    | with_reducible refine modTh_keep ?_ ?_ | split | (with_reducible dsimp only))

theorem retryStores_keep {M : Touch} {b0 : State} {s : State} (hm : ({ free := true, plans := true, threads := true, tables := true, frames := true, decs := true, mem := true } : Touch).le M = true) (hs : Keep M b0 s) :
    Keep M b0 (retryStores s) := by
  unfold retryStores
  repeat' (first
    | with_reducible assumption | (with_reducible intro _) | with_reducible refine retryStore_keep ?_ ?_
    | with_reducible refine keep_foldl ?_ ?_)

theorem openSession_keep {M : Touch} {b0 : State} {s : State} {t : Tid} {w : WalkTable} {tree : List Byte} {ps : List (Option Nat)} (hm : ({ tables := true } : Touch).le M = true) (hs : Keep M b0 s) :
    Keep M b0 (openSession s t w tree ps) := by
  unfold openSession
  repeat' (first | with_reducible assumption | with_reducible refine modKv_keep ?_ ?_)

theorem verifyOpen_keep {M : Touch} {b0 : State} {c : RC} {bs : List Byte} {i : RoomIns} (hm : ({ dev := true, plans := true, threads := true, tables := true, flog := true, links := true } : Touch).le M = true) (hc : Keep M b0 c.s) :
    Keep M b0 (verifyOpen c bs i) := by
  unfold verifyOpen
  repeat' (first
    | with_reducible assumption | (with_reducible intro _) | ((with_reducible refine touch_below hm ?_); rfl)
    | with_reducible refine RC_refuse_keep ?_ ?_ | with_reducible refine RC_issue_keep ?_ ?_ ?_
    | with_reducible refine walkTag_keep ?_ ?_ | with_reducible refine openSession_keep ?_ ?_ | split
    | (with_reducible dsimp only))

theorem walkCommit_keep {M : Touch} {b0 : State} {c : RC} {bs : List Byte} {i : RoomIns} (hm : ({ dev := true, plans := true, threads := true, tables := true, frames := true, decs := true, flog := true, links := true } : Touch).le M = true) (hc : Keep M b0 c.s) :
    Keep M b0 (walkCommit c bs i) := by
  unfold walkCommit
  repeat' (first
    | with_reducible assumption | (with_reducible intro _) | ((with_reducible refine touch_below hm ?_); rfl)
    | with_reducible refine RC_refuse_keep ?_ ?_ | with_reducible refine RC_issue_keep ?_ ?_ ?_
    | with_reducible refine walkTag_keep ?_ ?_ | with_reducible refine kvCommit_keep ?_ ?_ | split
    | (with_reducible dsimp only))

theorem pgather_keep {M : Touch} {b0 : State} {s : State} {t : Tid} {i : RoomIns} (hm : ({ free := true, dev := true, ctxs := true, plans := true, threads := true, tables := true, frames := true, decs := true, flog := true, links := true, mem := true } : Touch).le M = true) (hs : Keep M b0 s) :
    Keep M b0 (pgather s t i) := by
  unfold pgather
  repeat' (first
    | with_reducible assumption | (with_reducible intro _) | ((with_reducible refine touch_below hm ?_); rfl)
    | with_reducible refine runIns_keep ?_ ?_ ?_ | with_reducible refine gather_keep ?_ ?_
    | with_reducible refine walkStore_keep ?_ ?_ | with_reducible refine verifyOpen_keep ?_ ?_
    | with_reducible refine walkCommit_keep ?_ ?_ | with_reducible refine RC_refuse_keep ?_ ?_ | split
    | (with_reducible dsimp only))

theorem execGather_keep {M : Touch} {b0 : State} {t : Tid} {i : RoomIns} {s : State} (hm : ({ free := true, dev := true, ctxs := true, plans := true, threads := true, tables := true, frames := true, decs := true, flog := true, links := true, mem := true } : Touch).le M = true) (hs : Keep M b0 s) :
    KeepOut M b0 (execGather t i s) := by
  unfold execGather
  repeat' (first
    | with_reducible assumption | with_reducible refine keepOut_next ?_ | with_reducible refine pgather_keep ?_ ?_)

theorem execStore_keep {M : Touch} {b0 : State} {t : Tid} {i : RoomIns} {s : State} (hm : ({ free := true, dev := true, ctxs := true, plans := true, threads := true, tables := true, frames := true, decs := true, flog := true, links := true, mem := true } : Touch).le M = true) (hs : Keep M b0 s) :
    KeepOut M b0 (execStore t i s) := by
  unfold execStore
  repeat' (first
    | with_reducible assumption | with_reducible refine keepOut_next ?_ | with_reducible refine pgather_keep ?_ ?_)

theorem execVerifyOpen_keep {M : Touch} {b0 : State} {t : Tid} {i : RoomIns} {s : State} (hm : ({ free := true, dev := true, ctxs := true, plans := true, threads := true, tables := true, frames := true, decs := true, flog := true, links := true, mem := true } : Touch).le M = true) (hs : Keep M b0 s) :
    KeepOut M b0 (execVerifyOpen t i s) := by
  unfold execVerifyOpen
  repeat' (first
    | with_reducible assumption | with_reducible refine keepOut_next ?_ | with_reducible refine pgather_keep ?_ ?_)

theorem execCommit_keep {M : Touch} {b0 : State} {t : Tid} {i : RoomIns} {s : State} (hm : ({ free := true, dev := true, ctxs := true, plans := true, threads := true, tables := true, frames := true, decs := true, flog := true, links := true, mem := true } : Touch).le M = true) (hs : Keep M b0 s) :
    KeepOut M b0 (execCommit t i s) := by
  unfold execCommit
  repeat' (first
    | with_reducible assumption | with_reducible refine keepOut_next ?_ | with_reducible refine pgather_keep ?_ ?_)

end Sys2Proof.Laws
end

