-- ==== Sys2Proof/Laws/KeepDescs.lean ====
section
/-! SUPPORT. What each operation of Machine/Descs.lean may change. -/
namespace Sys2Proof.Laws

open Sys2Proof Sys2Proof.Machine
set_option linter.unusedVariables false

theorem moveStart_keep {M : Touch} {b0 : State} {s : State} {d : Desc} {data : List Byte} {t : Nat} (hm : ({ fns := true, ctxs := true, tags := true, host := true } : Touch).le M = true) (hs : Keep M b0 s) :
    Keep M b0 (moveStart s d data t) := by
  unfold moveStart
  repeat' (first
    | with_reducible assumption | ((with_reducible refine touch_below hm ?_); rfl) | with_reducible refine modCtx_keep ?_ ?_
    | with_reducible refine openDesc_keep ?_ ?_ | with_reducible refine finishDesc_keep ?_ ?_ | split)

theorem execMove_keep {M : Touch} {b0 : State} {desc : Desc} {data : List Byte} {s : State} (hm : ({ fns := true, ctxs := true, tags := true, plans := true, limbo := true, attic := true, host := true } : Touch).le M = true) (hs : Keep M b0 s) :
    KeepOut M b0 (execMove desc data s) := by
  unfold execMove
  repeat' (first
    | with_reducible assumption | with_reducible refine keepOut_next ?_ | (with_reducible intro _)
    | ((with_reducible refine touch_below hm ?_); rfl) | with_reducible refine runDesc_keep ?_ ?_ ?_
    | with_reducible refine moveStart_keep ?_ ?_)

theorem readMove_keep {M : Touch} {b0 : State} {s : State} {c : Nat} {a : Nat} {n : Nat} (hm : ({ free := true } : Touch).le M = true) (hs : Keep M b0 s) :
    Keep M b0 (readMove s c a n).2 := by
  unfold readMove
  repeat' (first
    | with_reducible assumption | (with_reducible exact keep_refl _ _) | with_reducible refine keepOut_next ?_
    | ((with_reducible intro x); refine keep_cut (m := M) (s := b0) x ?_ (fun _ => ?_); subst x)
    | ((with_reducible intro x); refine keep_cut_fst (m := M) (s := b0) x ?_ (fun _ => ?_); subst x)
    | ((with_reducible intro x); refine keep_cut_snd (m := M) (s := b0) x ?_ (fun _ => ?_); subst x)
    | ((with_reducible intro x); refine keep_cut_some (m := M) (s := b0) x ?_ (fun _ => ?_); subst x)
    | ((with_reducible intro x); refine keep_cut_pair (m := M) (s := b0) x ?_ (fun _ => ?_); subst x)
    | ((with_reducible intro x); refine keep_cut_run (m := M) (s := b0) x ?_ (fun _ => ?_); subst x)
    | ((with_reducible intro x); refine cell_id x ?_; subst x) | ((with_reducible intro x); refine fun_id x ?_; subst x)
    | ((with_reducible intro x); clear_value x) | (with_reducible intro _) | lift_lets
    | ((with_reducible refine touch_below hm ?_); rfl) | with_reducible refine freeBytes_keep ?_ ?_
    | with_reducible refine freeBytes_keep_eq ?_ ?_ (by assumption) | with_reducible refine keep_elim ?_ ?_
    | with_reducible refine keep_getD ?_ ?_ | with_reducible refine keep_foldl_fst ?_ ?_
    | with_reducible refine keep_repeat ?_ ?_ | with_reducible refine keep_foldl_snd ?_ ?_
    | with_reducible refine keep_ite ?_ ?_ | with_reducible refine keep_foldl ?_ ?_
    | with_reducible exact keep_of_fst (by assumption) (by assumption)
    | with_reducible exact keep_enter (by assumption) (by assumption)
    | with_reducible exact keepSome_elim (by assumption) (by assumption)
    | with_reducible exact keepPair_elim (by assumption) (by assumption)
    | with_reducible exact keepPair_elim2 (by assumption) (by assumption)
    | with_reducible exact keep_of_snd (by assumption) (by assumption) | split | with_reducible refine keepSome_bind ?_
    | with_reducible refine keepSome_elim ?_ (by assumption) | (cases ‹_ = some _›) | (with_reducible dsimp only))
theorem readMove_keep_eq {M : Touch} {b0 : State} {s : State} {c : Nat} {a : Nat} {n : Nat} {w9} {u9 : State} (hm : ({ free := true } : Touch).le M = true) (hs : Keep M b0 s) (e9 : readMove s c a n = (w9, u9)) : Keep M b0 u9 := by
  have := readMove_keep (M := M) (b0 := b0) (s := s) (c := c) (a := a) (n := n) hm hs; rw [e9] at this; exact this

theorem moveRow_keep {M : Touch} {b0 : State} {m : MoveJob} {s : State} {i : Nat × Nat × Nat} (hm : ({ free := true, mem := true, host := true } : Touch).le M = true) (hs : Keep M b0 s) :
    Keep M b0 (moveRow m s i) := by
  unfold moveRow
  repeat' (first
    | with_reducible assumption | (with_reducible exact keep_refl _ _) | with_reducible refine keepOut_next ?_
    | ((with_reducible intro x); refine keep_cut (m := M) (s := b0) x ?_ (fun _ => ?_); subst x)
    | ((with_reducible intro x); refine keep_cut_fst (m := M) (s := b0) x ?_ (fun _ => ?_); subst x)
    | ((with_reducible intro x); refine keep_cut_snd (m := M) (s := b0) x ?_ (fun _ => ?_); subst x)
    | ((with_reducible intro x); refine keep_cut_some (m := M) (s := b0) x ?_ (fun _ => ?_); subst x)
    | ((with_reducible intro x); refine keep_cut_pair (m := M) (s := b0) x ?_ (fun _ => ?_); subst x)
    | ((with_reducible intro x); refine keep_cut_run (m := M) (s := b0) x ?_ (fun _ => ?_); subst x)
    | ((with_reducible intro x); refine cell_id x ?_; subst x) | ((with_reducible intro x); refine fun_id x ?_; subst x)
    | ((with_reducible intro x); clear_value x) | (with_reducible intro _) | lift_lets
    | ((with_reducible refine touch_below hm ?_); rfl) | with_reducible refine writeVa_keep ?_ ?_
    | with_reducible refine readMove_keep ?_ ?_ | with_reducible refine readMove_keep_eq ?_ ?_ (by assumption)
    | (with_reducible dsimp -zeta only [keep_mk]) | with_reducible refine keep_host ?_ ?_ ?_
    | with_reducible refine hostWrite_ok ?_ | with_reducible refine writeSlots_ok ?_ | with_reducible refine hostIte_ok ?_ ?_
    | with_reducible refine keep_elim ?_ ?_ | with_reducible refine keep_getD ?_ ?_
    | with_reducible refine keep_foldl_fst ?_ ?_ | with_reducible refine keep_repeat ?_ ?_
    | with_reducible refine keep_foldl_snd ?_ ?_ | with_reducible refine keep_ite ?_ ?_
    | with_reducible refine keep_foldl ?_ ?_ | with_reducible exact keep_of_fst (by assumption) (by assumption)
    | with_reducible exact keep_enter (by assumption) (by assumption)
    | with_reducible exact keepSome_elim (by assumption) (by assumption)
    | with_reducible exact keepPair_elim (by assumption) (by assumption)
    | with_reducible exact keepPair_elim2 (by assumption) (by assumption)
    | with_reducible exact keep_of_snd (by assumption) (by assumption) | split | with_reducible refine keepSome_bind ?_
    | with_reducible refine keepSome_elim ?_ (by assumption) | (cases ‹_ = some _›) | (with_reducible dsimp only))
  all_goals assumption

theorem hostTouch_keep {M : Touch} {b0 : State} {s : State} {d : Desc} (hm : ({ ctxs := true, plans := true } : Touch).le M = true) (hs : Keep M b0 s) :
    Keep M b0 (hostTouch s d) := by
  unfold hostTouch
  repeat' (first
    | with_reducible assumption | (with_reducible exact keep_refl _ _) | with_reducible refine keepOut_next ?_
    | ((with_reducible intro x); refine keep_cut (m := M) (s := b0) x ?_ (fun _ => ?_); subst x)
    | ((with_reducible intro x); refine keep_cut_fst (m := M) (s := b0) x ?_ (fun _ => ?_); subst x)
    | ((with_reducible intro x); refine keep_cut_snd (m := M) (s := b0) x ?_ (fun _ => ?_); subst x)
    | ((with_reducible intro x); refine keep_cut_some (m := M) (s := b0) x ?_ (fun _ => ?_); subst x)
    | ((with_reducible intro x); refine keep_cut_pair (m := M) (s := b0) x ?_ (fun _ => ?_); subst x)
    | ((with_reducible intro x); refine keep_cut_run (m := M) (s := b0) x ?_ (fun _ => ?_); subst x)
    | ((with_reducible intro x); refine cell_id x ?_; subst x) | ((with_reducible intro x); refine fun_id x ?_; subst x)
    | ((with_reducible intro x); clear_value x) | (with_reducible intro _) | lift_lets
    | ((with_reducible refine touch_below hm ?_); rfl) | with_reducible refine modCtx_keep ?_ ?_
    | (with_reducible dsimp -zeta only [keep_mk]) | with_reducible refine keep_plans ?_ ?_
    | with_reducible refine keep_elim ?_ ?_ | with_reducible refine keep_getD ?_ ?_
    | with_reducible refine keep_foldl_fst ?_ ?_ | with_reducible refine keep_repeat ?_ ?_
    | with_reducible refine keep_foldl_snd ?_ ?_ | with_reducible refine keep_ite ?_ ?_
    | with_reducible refine keep_foldl ?_ ?_ | with_reducible exact keep_of_fst (by assumption) (by assumption)
    | with_reducible exact keep_enter (by assumption) (by assumption)
    | with_reducible exact keepSome_elim (by assumption) (by assumption)
    | with_reducible exact keepPair_elim (by assumption) (by assumption)
    | with_reducible exact keepPair_elim2 (by assumption) (by assumption)
    | with_reducible exact keep_of_snd (by assumption) (by assumption) | split | with_reducible refine keepSome_bind ?_
    | with_reducible refine keepSome_elim ?_ (by assumption) | (cases ‹_ = some _›) | (with_reducible dsimp only))

theorem moveData_keep {M : Touch} {b0 : State} {s : State} {m : MoveJob} (hm : ({ free := true, mem := true, host := true } : Touch).le M = true) (hs : Keep M b0 s) :
    Keep M b0 (moveData s m) := by
  unfold moveData
  repeat' (first
    | with_reducible assumption | ((with_reducible intro x); refine keep_cut (m := M) (s := b0) x ?_ (fun _ => ?_); subst x)
    | (with_reducible intro _) | ((with_reducible refine touch_below hm ?_); rfl) | with_reducible refine moveRow_keep ?_ ?_
    | with_reducible refine writeVa_keep ?_ ?_ | with_reducible refine keep_foldl ?_ ?_ | split)

theorem moveComplete_keep {M : Touch} {b0 : State} {s : State} {c : Nat} {k : Nat} (hm : ({ free := true, fns := true, ctxs := true, tags := true, plans := true, limbo := true, attic := true, mem := true, host := true } : Touch).le M = true) (hs : Keep M b0 s) :
    Keep M b0 (moveComplete s c k) := by
  unfold moveComplete
  repeat' (first
    | with_reducible assumption | (with_reducible exact keep_refl _ _) | with_reducible refine keepOut_next ?_
    | ((with_reducible intro x); refine keep_cut (m := M) (s := b0) x ?_ (fun _ => ?_); subst x)
    | ((with_reducible intro x); refine keep_cut_fst (m := M) (s := b0) x ?_ (fun _ => ?_); subst x)
    | ((with_reducible intro x); refine keep_cut_snd (m := M) (s := b0) x ?_ (fun _ => ?_); subst x)
    | ((with_reducible intro x); refine keep_cut_some (m := M) (s := b0) x ?_ (fun _ => ?_); subst x)
    | ((with_reducible intro x); refine keep_cut_pair (m := M) (s := b0) x ?_ (fun _ => ?_); subst x)
    | ((with_reducible intro x); refine keep_cut_run (m := M) (s := b0) x ?_ (fun _ => ?_); subst x)
    | ((with_reducible intro x); refine cell_id x ?_; subst x) | ((with_reducible intro x); refine fun_id x ?_; subst x)
    | ((with_reducible intro x); clear_value x) | (with_reducible intro _) | lift_lets
    | ((with_reducible refine touch_below hm ?_); rfl) | with_reducible refine modCtx_keep ?_ ?_
    | with_reducible refine settle_keep ?_ ?_ | with_reducible refine closeOpen_keep ?_ ?_
    | with_reducible refine hostTouch_keep ?_ ?_ | with_reducible refine moveData_keep ?_ ?_
    | with_reducible refine keep_elim ?_ ?_ | with_reducible refine keep_getD ?_ ?_
    | with_reducible refine keep_foldl_fst ?_ ?_ | with_reducible refine keep_repeat ?_ ?_
    | with_reducible refine keep_foldl_snd ?_ ?_ | with_reducible refine keep_ite ?_ ?_
    | with_reducible refine keep_foldl ?_ ?_ | with_reducible exact keep_of_fst (by assumption) (by assumption)
    | with_reducible exact keep_enter (by assumption) (by assumption)
    | with_reducible exact keepSome_elim (by assumption) (by assumption)
    | with_reducible exact keepPair_elim (by assumption) (by assumption)
    | with_reducible exact keepPair_elim2 (by assumption) (by assumption)
    | with_reducible exact keep_of_snd (by assumption) (by assumption) | split | with_reducible refine keepSome_bind ?_
    | with_reducible refine keepSome_elim ?_ (by assumption) | (cases ‹_ = some _›) | (with_reducible dsimp only))

theorem execMoveComplete_keep {M : Touch} {b0 : State} {ctx : Nat} {k : Nat} {s : State} (hm : ({ free := true, fns := true, ctxs := true, tags := true, plans := true, limbo := true, attic := true, mem := true, host := true } : Touch).le M = true) (hs : Keep M b0 s) :
    KeepOut M b0 (execMoveComplete ctx k s) := by
  unfold execMoveComplete
  repeat' (first
    | with_reducible assumption | with_reducible refine keepOut_next ?_ | (with_reducible intro _)
    | with_reducible refine moveComplete_keep ?_ ?_ | split)

theorem pageWriteNow_keep {M : Touch} {b0 : State} {s : State} {d : Desc} {entries : List Byte} (hm : ({ ctxs := true, tables := true } : Touch).le M = true) (hs : Keep M b0 s) :
    Keep M b0 (pageWriteNow s d entries).1 := by
  unfold pageWriteNow
  repeat' (first
    | with_reducible assumption | ((with_reducible refine touch_below hm ?_); rfl)
    | with_reducible refine addrWrite_keep ?_ ?_ | with_reducible refine kvWrite_keep ?_ ?_ | split)
theorem pageWriteNow_keep_eq {M : Touch} {b0 : State} {s : State} {d : Desc} {entries : List Byte} {w9} {u9 : State} (hm : ({ ctxs := true, tables := true } : Touch).le M = true) (hs : Keep M b0 s) (e9 : pageWriteNow s d entries = (u9, w9)) : Keep M b0 u9 := by
  have := pageWriteNow_keep (M := M) (b0 := b0) (s := s) (d := d) (entries := entries) hm hs; rw [e9] at this; exact this

theorem pageEdit_keep {M : Touch} {b0 : State} {s : State} {d : Desc} {entries : List Byte} {t : Nat} (hm : ({ fns := true, ctxs := true, tags := true, tables := true, host := true } : Touch).le M = true) (hs : Keep M b0 s) :
    Keep M b0 (pageEdit s d entries t) := by
  unfold pageEdit
  repeat' (first
    | with_reducible assumption | (with_reducible intro _) | ((with_reducible refine touch_below hm ?_); rfl)
    | with_reducible refine finishDesc_keep ?_ ?_ | with_reducible refine openDesc_keep ?_ ?_
    | with_reducible refine pageWriteNow_keep ?_ ?_ | split)

theorem pagePublish_keep {M : Touch} {b0 : State} {s : State} {d : Desc} {t : Nat} (hm : ({ fns := true, ctxs := true, tags := true, tables := true, host := true } : Touch).le M = true) (hs : Keep M b0 s) :
    Keep M b0 (pagePublish s d t) := by
  unfold pagePublish
  repeat' (first
    | with_reducible assumption | (with_reducible intro _) | ((with_reducible refine touch_below hm ?_); rfl)
    | with_reducible refine finishDesc_keep ?_ ?_ | with_reducible refine openDesc_keep ?_ ?_
    | with_reducible refine modCtx_keep ?_ ?_ | with_reducible refine modKv_keep ?_ ?_ | split | (with_reducible dsimp only))

theorem pageCreate_keep {M : Touch} {b0 : State} {s : State} {d : Desc} {t : Nat} (hm : ({ free := true, fns := true, ctxs := true, tags := true, tables := true, host := true } : Touch).le M = true) (hs : Keep M b0 s) :
    Keep M b0 (pageCreate s d t) := by
  unfold pageCreate
  repeat' (first
    | with_reducible assumption | (with_reducible intro _) | ((with_reducible refine touch_below hm ?_); rfl)
    | with_reducible refine finishDesc_keep ?_ ?_ | (with_reducible dsimp -zeta only [keep_mk])
    | with_reducible refine keep_free_tables ?_ ?_ | split)

theorem failTableWaits_keep {M : Touch} {b0 : State} {s : State} {c : Nat} {h : Nat} (hm : ({ fns := true, ctxs := true, tags := true, host := true } : Touch).le M = true) (hs : Keep M b0 s) :
    Keep M b0 (failTableWaits s c h) := by
  unfold failTableWaits
  repeat' (first
    | with_reducible assumption | (with_reducible intro _) | with_reducible refine closeOpen_keep ?_ ?_
    | with_reducible refine keep_foldl ?_ ?_)

theorem pageDestroy_keep {M : Touch} {b0 : State} {s : State} {d : Desc} {t : Nat} (hm : ({ fns := true, ctxs := true, tags := true, tables := true, frames := true, host := true } : Touch).le M = true) (hs : Keep M b0 s) :
    Keep M b0 (pageDestroy s d t) := by
  unfold pageDestroy
  repeat' (first
    | with_reducible assumption | (with_reducible intro _) | ((with_reducible refine touch_below hm ?_); rfl)
    | with_reducible refine finishDesc_keep ?_ ?_ | with_reducible refine failTableWaits_keep ?_ ?_
    | with_reducible refine kvDestroy_keep ?_ ?_ | split | (with_reducible dsimp only))

theorem pageRun_keep {M : Touch} {b0 : State} {s : State} {d : Desc} {entries : List Byte} {t : Nat} (hm : ({ free := true, fns := true, ctxs := true, tags := true, tables := true, frames := true, host := true } : Touch).le M = true) (hs : Keep M b0 s) :
    Keep M b0 (pageRun s d entries t) := by
  unfold pageRun
  repeat' (first
    | with_reducible assumption | ((with_reducible refine touch_below hm ?_); rfl) | with_reducible refine pageEdit_keep ?_ ?_
    | with_reducible refine pagePublish_keep ?_ ?_ | with_reducible refine pageCreate_keep ?_ ?_
    | with_reducible refine pageDestroy_keep ?_ ?_ | with_reducible refine finishDesc_keep ?_ ?_ | split)

theorem execPageWrite_keep {M : Touch} {b0 : State} {desc : Desc} {entries : List Byte} {s : State} (hm : ({ free := true, fns := true, ctxs := true, tags := true, plans := true, tables := true, frames := true, limbo := true, flog := true, attic := true, host := true } : Touch).le M = true) (hs : Keep M b0 s) :
    KeepOut M b0 (execPageWrite desc entries s) := by
  unfold execPageWrite
  repeat' (first
    | with_reducible assumption | (with_reducible exact keep_refl _ _) | with_reducible refine keepOut_next ?_
    | with_reducible refine keepOut_ite ?_ ?_
    | ((with_reducible intro x); refine keep_cut (m := M) (s := b0) x ?_ (fun _ => ?_); subst x)
    | ((with_reducible intro x); refine keep_cut_fst (m := M) (s := b0) x ?_ (fun _ => ?_); subst x)
    | ((with_reducible intro x); refine keep_cut_snd (m := M) (s := b0) x ?_ (fun _ => ?_); subst x)
    | ((with_reducible intro x); refine keep_cut_some (m := M) (s := b0) x ?_ (fun _ => ?_); subst x)
    | ((with_reducible intro x); refine keep_cut_pair (m := M) (s := b0) x ?_ (fun _ => ?_); subst x)
    | ((with_reducible intro x); refine keep_cut_run (m := M) (s := b0) x ?_ (fun _ => ?_); subst x)
    | ((with_reducible intro x); refine cell_id x ?_; subst x) | ((with_reducible intro x); refine fun_id x ?_; subst x)
    | ((with_reducible intro x); clear_value x) | (with_reducible intro _) | lift_lets
    | ((with_reducible refine touch_below hm ?_); rfl) | with_reducible refine runDesc_keep ?_ ?_ ?_
    | with_reducible refine withHostData_keep ?_ ?_ ?_ | with_reducible refine pageRun_keep ?_ ?_
    | with_reducible refine keep_elim ?_ ?_ | with_reducible refine keep_getD ?_ ?_
    | with_reducible refine keep_foldl_fst ?_ ?_ | with_reducible refine keep_repeat ?_ ?_
    | with_reducible refine keep_foldl_snd ?_ ?_ | with_reducible refine keep_ite ?_ ?_
    | with_reducible refine keep_foldl ?_ ?_ | with_reducible exact keep_of_fst (by assumption) (by assumption)
    | with_reducible exact keep_enter (by assumption) (by assumption)
    | with_reducible exact keepSome_elim (by assumption) (by assumption)
    | with_reducible exact keepPair_elim (by assumption) (by assumption)
    | with_reducible exact keepPair_elim2 (by assumption) (by assumption)
    | with_reducible exact keep_of_snd (by assumption) (by assumption) | split | with_reducible refine keepSome_bind ?_
    | with_reducible refine keepSome_elim ?_ (by assumption) | (cases ‹_ = some _›) | (with_reducible dsimp only))

theorem execPagePublish_keep {M : Touch} {b0 : State} {desc : Desc} {s : State} (hm : ({ free := true, fns := true, ctxs := true, tags := true, plans := true, tables := true, frames := true, limbo := true, attic := true, host := true } : Touch).le M = true) (hs : Keep M b0 s) :
    KeepOut M b0 (execPagePublish desc s) := by
  unfold execPagePublish
  repeat' (first
    | with_reducible assumption | with_reducible refine keepOut_next ?_ | (with_reducible intro _)
    | ((with_reducible refine touch_below hm ?_); rfl) | with_reducible refine runDesc_keep ?_ ?_ ?_
    | with_reducible refine pageRun_keep ?_ ?_)

theorem execPageCreate_keep {M : Touch} {b0 : State} {desc : Desc} {s : State} (hm : ({ free := true, fns := true, ctxs := true, tags := true, plans := true, tables := true, frames := true, limbo := true, attic := true, host := true } : Touch).le M = true) (hs : Keep M b0 s) :
    KeepOut M b0 (execPageCreate desc s) := by
  unfold execPageCreate
  repeat' (first
    | with_reducible assumption | with_reducible refine keepOut_next ?_ | (with_reducible intro _)
    | ((with_reducible refine touch_below hm ?_); rfl) | with_reducible refine runDesc_keep ?_ ?_ ?_
    | with_reducible refine pageRun_keep ?_ ?_)

theorem execPageDestroy_keep {M : Touch} {b0 : State} {desc : Desc} {s : State} (hm : ({ free := true, fns := true, ctxs := true, tags := true, plans := true, tables := true, frames := true, limbo := true, attic := true, host := true } : Touch).le M = true) (hs : Keep M b0 s) :
    KeepOut M b0 (execPageDestroy desc s) := by
  unfold execPageDestroy
  repeat' (first
    | with_reducible assumption | with_reducible refine keepOut_next ?_ | (with_reducible intro _)
    | ((with_reducible refine touch_below hm ?_); rfl) | with_reducible refine runDesc_keep ?_ ?_ ?_
    | with_reducible refine pageRun_keep ?_ ?_)

theorem pageWriteWaits_keep {M : Touch} {b0 : State} {s : State} {c : Nat} (hm : ({ fns := true, ctxs := true, tags := true, tables := true, host := true } : Touch).le M = true) (hs : Keep M b0 s) :
    Keep M b0 (pageWriteWaits s c) := by
  unfold pageWriteWaits
  repeat' (first
    | with_reducible assumption | (with_reducible intro _) | ((with_reducible refine touch_below hm ?_); rfl)
    | with_reducible refine pageWriteNow_keep ?_ ?_ | with_reducible refine closeOpen_keep ?_ ?_
    | with_reducible refine keep_foldl ?_ ?_ | split)

theorem tickWait_keep {M : Touch} {b0 : State} {s : State} {d : Desc} {t : Nat} (hm : ({ fns := true, ctxs := true, tags := true, host := true } : Touch).le M = true) (hs : Keep M b0 s) :
    Keep M b0 (tickWait s d t) := by
  unfold tickWait
  repeat' (first
    | with_reducible assumption | (with_reducible intro _) | ((with_reducible refine touch_below hm ?_); rfl)
    | with_reducible refine finishDesc_keep ?_ ?_ | with_reducible refine openDesc_keep ?_ ?_ | split
    | (with_reducible dsimp only))

theorem execTickWait_keep {M : Touch} {b0 : State} {desc : Desc} {s : State} (hm : ({ fns := true, ctxs := true, tags := true, plans := true, limbo := true, attic := true, host := true } : Touch).le M = true) (hs : Keep M b0 s) :
    KeepOut M b0 (execTickWait desc s) := by
  unfold execTickWait
  repeat' (first
    | with_reducible assumption | with_reducible refine keepOut_next ?_ | (with_reducible intro _)
    | ((with_reducible refine touch_below hm ?_); rfl) | with_reducible refine runDesc_keep ?_ ?_ ?_
    | with_reducible refine tickWait_keep ?_ ?_)

theorem tickWaits_keep {M : Touch} {b0 : State} {s : State} {c : Nat} (hm : ({ fns := true, ctxs := true, tags := true, host := true } : Touch).le M = true) (hs : Keep M b0 s) :
    Keep M b0 (tickWaits s c) := by
  unfold tickWaits
  repeat' (first
    | with_reducible assumption | (with_reducible intro _) | with_reducible refine closeOpen_keep ?_ ?_
    | with_reducible refine keep_foldl ?_ ?_ | split)

theorem ctxOpen_keep {M : Touch} {b0 : State} {s : State} {d : Desc} {t : Nat} (hm : ({ fns := true, ctxs := true, tags := true, host := true } : Touch).le M = true) (hs : Keep M b0 s) :
    Keep M b0 (ctxOpen s d t) := by
  unfold ctxOpen
  repeat' (first
    | with_reducible assumption | (with_reducible intro _) | ((with_reducible refine touch_below hm ?_); rfl)
    | with_reducible refine finishDesc_keep ?_ ?_ | with_reducible refine openCtx_keep ?_ ?_ | split)

theorem execCtxOpen_keep {M : Touch} {b0 : State} {desc : Desc} {s : State} (hm : ({ fns := true, ctxs := true, tags := true, plans := true, limbo := true, attic := true, host := true } : Touch).le M = true) (hs : Keep M b0 s) :
    KeepOut M b0 (execCtxOpen desc s) := by
  unfold execCtxOpen
  repeat' (first
    | with_reducible assumption | with_reducible refine keepOut_next ?_ | (with_reducible intro _)
    | ((with_reducible refine touch_below hm ?_); rfl) | with_reducible refine runDesc_keep ?_ ?_ ?_
    | with_reducible refine ctxOpen_keep ?_ ?_)

theorem ctxClose_keep {M : Touch} {b0 : State} {s : State} {d : Desc} {t : Nat} (hm : ({ fns := true, ctxs := true, tags := true, host := true } : Touch).le M = true) (hs : Keep M b0 s) :
    Keep M b0 (ctxClose s d t) := by
  unfold ctxClose
  repeat' (first
    | with_reducible assumption | (with_reducible intro _) | ((with_reducible refine touch_below hm ?_); rfl)
    | with_reducible refine finishDesc_keep ?_ ?_ | with_reducible refine openDesc_keep ?_ ?_ | split
    | (with_reducible dsimp only))

theorem execCtxClose_keep {M : Touch} {b0 : State} {desc : Desc} {s : State} (hm : ({ fns := true, ctxs := true, tags := true, plans := true, limbo := true, attic := true, host := true } : Touch).le M = true) (hs : Keep M b0 s) :
    KeepOut M b0 (execCtxClose desc s) := by
  unfold execCtxClose
  repeat' (first
    | with_reducible assumption | with_reducible refine keepOut_next ?_ | (with_reducible intro _)
    | ((with_reducible refine touch_below hm ?_); rfl) | with_reducible refine runDesc_keep ?_ ?_ ?_
    | with_reducible refine ctxClose_keep ?_ ?_)

theorem withdraw_keep {M : Touch} {b0 : State} {s : State} {d : Desc} {t : Nat} (hm : ({ fns := true, ctxs := true, tags := true, plans := true, host := true } : Touch).le M = true) (hs : Keep M b0 s) :
    Keep M b0 (withdraw s d t) := by
  unfold withdraw
  repeat' (first
    | with_reducible assumption | ((with_reducible intro x); refine keep_cut (m := M) (s := b0) x ?_ (fun _ => ?_); subst x)
    | (with_reducible intro _) | ((with_reducible refine touch_below hm ?_); rfl)
    | with_reducible refine finishDesc_keep ?_ ?_ | with_reducible refine openDesc_keep ?_ ?_
    | with_reducible refine withdrawPlan_keep ?_ ?_ | split | (with_reducible dsimp only))

theorem execPlanWithdraw_keep {M : Touch} {b0 : State} {desc : Desc} {s : State} (hm : ({ fns := true, ctxs := true, tags := true, plans := true, limbo := true, attic := true, host := true } : Touch).le M = true) (hs : Keep M b0 s) :
    KeepOut M b0 (execPlanWithdraw desc s) := by
  unfold execPlanWithdraw
  repeat' (first
    | with_reducible assumption | with_reducible refine keepOut_next ?_ | (with_reducible intro _)
    | ((with_reducible refine touch_below hm ?_); rfl) | with_reducible refine runDesc_keep ?_ ?_ ?_
    | with_reducible refine withdraw_keep ?_ ?_)

theorem withdrawDecided_keep {M : Touch} {b0 : State} {s : State} {k : PlanKey} {admitted : Bool} (hm : ({ fns := true, ctxs := true, tags := true, plans := true, host := true } : Touch).le M = true) (hs : Keep M b0 s) :
    Keep M b0 (withdrawDecided s k admitted) := by
  unfold withdrawDecided
  repeat' (first
    | with_reducible assumption | (with_reducible intro _) | ((with_reducible refine touch_below hm ?_); rfl)
    | with_reducible refine withdrawPlan_keep ?_ ?_ | with_reducible refine closeOpen_keep ?_ ?_
    | with_reducible refine keep_foldl ?_ ?_ | split)

end Sys2Proof.Laws
end

