-- ==== Sys2Proof/Laws/KeepAttic.lean ====
section
/-! SUPPORT. What each operation of Machine/Attic.lean may change. -/
namespace Sys2Proof.Laws

open Sys2Proof Sys2Proof.Machine
set_option linter.unusedVariables false

theorem fillSlots_keep {M : Touch} {b0 : State} {s : State} (hm : ({ attic := true } : Touch).le M = true) (hs : Keep M b0 s) :
    Keep M b0 (fillSlots s) := by
  unfold fillSlots
  repeat' (first
    | with_reducible assumption | (with_reducible dsimp -zeta only [keep_mk]) | with_reducible refine keep_attic ?_ ?_)

theorem fillBoot_keep {M : Touch} {b0 : State} {s : State} (hm : ({ attic := true } : Touch).le M = true) (hs : Keep M b0 s) :
    Keep M b0 (fillBoot s) := by
  unfold fillBoot
  repeat' (first
    | with_reducible assumption | (with_reducible dsimp -zeta only [keep_mk]) | with_reducible refine keep_attic ?_ ?_)

theorem setSlot_keep {M : Touch} {b0 : State} {s : State} {b : Bool} {x : Option Bundle} (hm : ({ attic := true } : Touch).le M = true) (hs : Keep M b0 s) :
    Keep M b0 (setSlot s b x) := by
  unfold setSlot
  repeat' (first
    | with_reducible assumption | (with_reducible intro _) | (with_reducible dsimp -zeta only [keep_mk])
    | with_reducible refine keep_attic ?_ ?_ | split)

theorem endUpdate_keep {M : Touch} {b0 : State} {s : State} {u : Update} {code : Nat} (hm : ({ fns := true, ctxs := true, tags := true, attic := true, host := true } : Touch).le M = true) (hs : Keep M b0 s) :
    Keep M b0 (endUpdate s u code) := by
  unfold endUpdate
  repeat' (first
    | with_reducible assumption | ((with_reducible intro x); refine keep_cut (m := M) (s := b0) x ?_ (fun _ => ?_); subst x)
    | ((with_reducible refine touch_below hm ?_); rfl) | with_reducible refine closeOpen_keep ?_ ?_
    | (with_reducible dsimp -zeta only [keep_mk]) | with_reducible refine keep_attic ?_ ?_ | split
    | (with_reducible dsimp only))

theorem startUpdate_keep {M : Touch} {b0 : State} {s : State} {u : Update} (hm : ({ fns := true, ctxs := true, tags := true, attic := true, host := true } : Touch).le M = true) (hs : Keep M b0 s) :
    Keep M b0 (startUpdate s u) := by
  unfold startUpdate
  repeat' (first
    | with_reducible assumption | ((with_reducible intro x); refine fun_id x ?_; subst x) | (with_reducible intro _)
    | ((with_reducible refine touch_below hm ?_); rfl) | with_reducible refine endUpdate_keep ?_ ?_
    | with_reducible refine setSlot_keep ?_ ?_ | (with_reducible dsimp -zeta only [keep_mk])
    | with_reducible refine keep_attic ?_ ?_ | split | (with_reducible dsimp only))

theorem nextUpdate_keep {M : Touch} {b0 : State} {s : State} {k : Nat} (hm : ({ fns := true, ctxs := true, tags := true, attic := true, host := true } : Touch).le M = true) (hs : Keep M b0 s) :
    Keep M b0 (nextUpdate s k) := by
  induction k generalizing s with
  | zero => exact hs
  | succ k ih =>
    unfold nextUpdate
    split
    · exact hs
    · split
      · exact hs
      · exact ih (startUpdate_keep (touch_below hm rfl) hs)

theorem idleUpdates_keep {M : Touch} {b0 : State} {s : State} (hm : ({ attic := true } : Touch).le M = true) (hs : Keep M b0 s) :
    Keep M b0 (idleUpdates s) := by
  unfold idleUpdates
  repeat' (first
    | with_reducible assumption | (with_reducible intro _) | (with_reducible dsimp -zeta only [keep_mk])
    | with_reducible refine keep_attic ?_ ?_ | split)

theorem nextUpdates_keep {M : Touch} {b0 : State} {s : State} (hm : ({ fns := true, ctxs := true, tags := true, attic := true, host := true } : Touch).le M = true) (hs : Keep M b0 s) :
    Keep M b0 (nextUpdates s) := by
  unfold nextUpdates
  repeat' (first
    | with_reducible assumption | ((with_reducible refine touch_below hm ?_); rfl)
    | with_reducible refine nextUpdate_keep ?_ ?_ | with_reducible refine idleUpdates_keep ?_ ?_)

theorem update_keep {M : Touch} {b0 : State} {s : State} {d : Desc} {o : Nat} {bytes : List Byte} {t : Nat} (hm : ({ fns := true, ctxs := true, tags := true, attic := true, host := true } : Touch).le M = true) (hs : Keep M b0 s) :
    Keep M b0 (update s d o bytes t) := by
  unfold update
  repeat' (first
    | with_reducible assumption | ((with_reducible intro x); refine keep_cut (m := M) (s := b0) x ?_ (fun _ => ?_); subst x)
    | (with_reducible intro _) | ((with_reducible refine touch_below hm ?_); rfl)
    | with_reducible refine finishDesc_keep ?_ ?_ | with_reducible refine openDesc_keep ?_ ?_
    | with_reducible refine nextUpdates_keep ?_ ?_ | (with_reducible dsimp -zeta only [keep_mk])
    | with_reducible refine keep_attic ?_ ?_ | split)

theorem execFwUpdate_keep {M : Touch} {b0 : State} {desc : Desc} {bundle : List Byte} {s : State} (hm : ({ fns := true, ctxs := true, tags := true, plans := true, limbo := true, attic := true, host := true } : Touch).le M = true) (hs : Keep M b0 s) :
    KeepOut M b0 (execFwUpdate desc bundle s) := by
  unfold execFwUpdate
  repeat' (first
    | with_reducible assumption | with_reducible refine keepOut_next ?_ | (with_reducible intro _)
    | ((with_reducible refine touch_below hm ?_); rfl) | with_reducible refine runDesc_keep ?_ ?_ ?_
    | with_reducible refine update_keep ?_ ?_)

theorem execConfigUpdate_keep {M : Touch} {b0 : State} {desc : Desc} {config : List Byte} {s : State} (hm : ({ fns := true, ctxs := true, tags := true, plans := true, limbo := true, attic := true, host := true } : Touch).le M = true) (hs : Keep M b0 s) :
    KeepOut M b0 (execConfigUpdate desc config s) := by
  unfold execConfigUpdate
  repeat' (first
    | with_reducible assumption | with_reducible refine keepOut_next ?_ | (with_reducible intro _)
    | ((with_reducible refine touch_below hm ?_); rfl) | with_reducible refine runDesc_keep ?_ ?_ ?_
    | with_reducible refine update_keep ?_ ?_)

theorem requalifyPorts_keep {M : Touch} {b0 : State} {s : State} (hm : ({ links := true } : Touch).le M = true) (hs : Keep M b0 s) :
    Keep M b0 (requalifyPorts s) := by
  unfold requalifyPorts
  repeat' (first
    | with_reducible assumption | (with_reducible exact keep_refl _ _) | with_reducible refine keepOut_next ?_
    | ((with_reducible intro x); refine keep_cut (m := M) (s := b0) x ?_ (fun _ => ?_); subst x)
    | ((with_reducible intro x); refine keep_cut_fst (m := M) (s := b0) x ?_ (fun _ => ?_); subst x)
    | ((with_reducible intro x); refine keep_cut_snd (m := M) (s := b0) x ?_ (fun _ => ?_); subst x)
    | ((with_reducible intro x); refine keep_cut_some (m := M) (s := b0) x ?_ (fun _ => ?_); subst x)
    | ((with_reducible intro x); refine keep_cut_pair (m := M) (s := b0) x ?_ (fun _ => ?_); subst x)
    | ((with_reducible intro x); refine keep_cut_run (m := M) (s := b0) x ?_ (fun _ => ?_); subst x)
    | ((with_reducible intro x); refine cell_id x ?_; subst x) | ((with_reducible intro x); refine fun_id x ?_; subst x)
    | ((with_reducible intro x); clear_value x) | (with_reducible intro _) | lift_lets
    | ((with_reducible refine touch_below hm ?_); rfl) | (with_reducible dsimp -zeta only [keep_mk])
    | with_reducible refine keep_links ?_ ?_ | with_reducible refine keep_elim ?_ ?_ | with_reducible refine keep_getD ?_ ?_
    | with_reducible refine keep_foldl_fst ?_ ?_ | with_reducible refine keep_repeat ?_ ?_
    | with_reducible refine keep_foldl_snd ?_ ?_ | with_reducible refine keep_ite ?_ ?_
    | with_reducible refine keep_foldl ?_ ?_ | with_reducible exact keep_of_fst (by assumption) (by assumption)
    | with_reducible exact keep_enter (by assumption) (by assumption)
    | with_reducible exact keepSome_elim (by assumption) (by assumption)
    | with_reducible exact keepPair_elim (by assumption) (by assumption)
    | with_reducible exact keepPair_elim2 (by assumption) (by assumption)
    | with_reducible exact keep_of_snd (by assumption) (by assumption) | split | with_reducible refine keepSome_bind ?_
    | with_reducible refine keepSome_elim ?_ (by assumption) | (cases ‹_ = some _›) | (with_reducible dsimp only))

theorem fwWritten_keep {M : Touch} {b0 : State} {s : State} {u : Update} {ok : Bool} (hm : ({ fns := true, ctxs := true, tags := true, links := true, attic := true, host := true } : Touch).le M = true) (hs : Keep M b0 s) :
    Keep M b0 (fwWritten s u ok) := by
  unfold fwWritten
  repeat' (first
    | with_reducible assumption | (with_reducible exact keep_refl _ _) | with_reducible refine keepOut_next ?_
    | ((with_reducible intro x); refine keep_cut (m := M) (s := b0) x ?_ (fun _ => ?_); subst x)
    | ((with_reducible intro x); refine keep_cut_fst (m := M) (s := b0) x ?_ (fun _ => ?_); subst x)
    | ((with_reducible intro x); refine keep_cut_snd (m := M) (s := b0) x ?_ (fun _ => ?_); subst x)
    | ((with_reducible intro x); refine keep_cut_some (m := M) (s := b0) x ?_ (fun _ => ?_); subst x)
    | ((with_reducible intro x); refine keep_cut_pair (m := M) (s := b0) x ?_ (fun _ => ?_); subst x)
    | ((with_reducible intro x); refine keep_cut_run (m := M) (s := b0) x ?_ (fun _ => ?_); subst x)
    | ((with_reducible intro x); refine cell_id x ?_; subst x) | ((with_reducible intro x); refine fun_id x ?_; subst x)
    | ((with_reducible intro x); clear_value x) | (with_reducible intro _) | lift_lets
    | ((with_reducible refine touch_below hm ?_); rfl) | with_reducible refine requalifyPorts_keep ?_ ?_
    | with_reducible refine fillSlots_keep ?_ ?_ | with_reducible refine endUpdate_keep ?_ ?_
    | with_reducible refine setSlot_keep ?_ ?_ | with_reducible refine keep_elim ?_ ?_ | with_reducible refine keep_getD ?_ ?_
    | with_reducible refine keep_foldl_fst ?_ ?_ | with_reducible refine keep_repeat ?_ ?_
    | with_reducible refine keep_foldl_snd ?_ ?_ | with_reducible refine keep_ite ?_ ?_
    | with_reducible refine keep_foldl ?_ ?_ | with_reducible exact keep_of_fst (by assumption) (by assumption)
    | with_reducible exact keep_enter (by assumption) (by assumption)
    | with_reducible exact keepSome_elim (by assumption) (by assumption)
    | with_reducible exact keepPair_elim (by assumption) (by assumption)
    | with_reducible exact keepPair_elim2 (by assumption) (by assumption)
    | with_reducible exact keep_of_snd (by assumption) (by assumption) | split | with_reducible refine keepSome_bind ?_
    | with_reducible refine keepSome_elim ?_ (by assumption) | (cases ‹_ = some _›) | (with_reducible dsimp only))

theorem fwComplete_keep {M : Touch} {b0 : State} {s : State} {ok : Bool} (hm : ({ fns := true, ctxs := true, tags := true, plans := true, limbo := true, links := true, attic := true, host := true } : Touch).le M = true) (hs : Keep M b0 s) :
    Keep M b0 (fwComplete s ok) := by
  unfold fwComplete
  repeat' (first
    | with_reducible assumption | (with_reducible exact keep_refl _ _) | with_reducible refine keepOut_next ?_
    | ((with_reducible intro x); refine keep_cut (m := M) (s := b0) x ?_ (fun _ => ?_); subst x)
    | ((with_reducible intro x); refine keep_cut_fst (m := M) (s := b0) x ?_ (fun _ => ?_); subst x)
    | ((with_reducible intro x); refine keep_cut_snd (m := M) (s := b0) x ?_ (fun _ => ?_); subst x)
    | ((with_reducible intro x); refine keep_cut_some (m := M) (s := b0) x ?_ (fun _ => ?_); subst x)
    | ((with_reducible intro x); refine keep_cut_pair (m := M) (s := b0) x ?_ (fun _ => ?_); subst x)
    | ((with_reducible intro x); refine keep_cut_run (m := M) (s := b0) x ?_ (fun _ => ?_); subst x)
    | ((with_reducible intro x); refine cell_id x ?_; subst x) | ((with_reducible intro x); refine fun_id x ?_; subst x)
    | ((with_reducible intro x); clear_value x) | (with_reducible intro _) | lift_lets
    | ((with_reducible refine touch_below hm ?_); rfl) | with_reducible refine settle_keep ?_ ?_
    | with_reducible refine nextUpdates_keep ?_ ?_ | with_reducible refine fwWritten_keep ?_ ?_
    | with_reducible refine keep_elim ?_ ?_ | with_reducible refine keep_getD ?_ ?_
    | with_reducible refine keep_foldl_fst ?_ ?_ | with_reducible refine keep_repeat ?_ ?_
    | with_reducible refine keep_foldl_snd ?_ ?_ | with_reducible refine keep_ite ?_ ?_
    | with_reducible refine keep_foldl ?_ ?_ | with_reducible exact keep_of_fst (by assumption) (by assumption)
    | with_reducible exact keep_enter (by assumption) (by assumption)
    | with_reducible exact keepSome_elim (by assumption) (by assumption)
    | with_reducible exact keepPair_elim (by assumption) (by assumption)
    | with_reducible exact keepPair_elim2 (by assumption) (by assumption)
    | with_reducible exact keep_of_snd (by assumption) (by assumption) | split | with_reducible refine keepSome_bind ?_
    | with_reducible refine keepSome_elim ?_ (by assumption) | (cases ‹_ = some _›) | (with_reducible dsimp only))

theorem execFwUpdateComplete_keep {M : Touch} {b0 : State} {readBackOk : Bool} {s : State} (hm : ({ fns := true, ctxs := true, tags := true, plans := true, limbo := true, links := true, attic := true, host := true } : Touch).le M = true) (hs : Keep M b0 s) :
    KeepOut M b0 (execFwUpdateComplete readBackOk s) := by
  unfold execFwUpdateComplete
  repeat' (first
    | with_reducible assumption | with_reducible refine keepOut_next ?_ | (with_reducible intro _)
    | with_reducible refine fwComplete_keep ?_ ?_ | split)

theorem cfgWritten_keep {M : Touch} {b0 : State} {s : State} {u : Update} {ok : Bool} (hm : ({ pwr := true, fns := true, ctxs := true, tags := true, links := true, attic := true, host := true } : Touch).le M = true) (hs : Keep M b0 s) :
    Keep M b0 (cfgWritten s u ok) := by
  unfold cfgWritten
  repeat' (first
    | with_reducible assumption | (with_reducible exact keep_refl _ _) | with_reducible refine keepOut_next ?_
    | ((with_reducible intro x); refine keep_cut (m := M) (s := b0) x ?_ (fun _ => ?_); subst x)
    | ((with_reducible intro x); refine keep_cut_fst (m := M) (s := b0) x ?_ (fun _ => ?_); subst x)
    | ((with_reducible intro x); refine keep_cut_snd (m := M) (s := b0) x ?_ (fun _ => ?_); subst x)
    | ((with_reducible intro x); refine keep_cut_some (m := M) (s := b0) x ?_ (fun _ => ?_); subst x)
    | ((with_reducible intro x); refine keep_cut_pair (m := M) (s := b0) x ?_ (fun _ => ?_); subst x)
    | ((with_reducible intro x); refine keep_cut_run (m := M) (s := b0) x ?_ (fun _ => ?_); subst x)
    | ((with_reducible intro x); refine cell_id x ?_; subst x) | ((with_reducible intro x); refine fun_id x ?_; subst x)
    | ((with_reducible intro x); clear_value x) | (with_reducible intro _) | lift_lets
    | ((with_reducible refine touch_below hm ?_); rfl) | with_reducible refine fillBoot_keep ?_ ?_
    | with_reducible refine endUpdate_keep ?_ ?_ | with_reducible refine lowerCaps_keep ?_ ?_
    | with_reducible refine requalifyPorts_keep ?_ ?_ | (with_reducible dsimp -zeta only [keep_mk])
    | with_reducible refine keep_pwr_attic ?_ ?_ | with_reducible refine keep_pwr ?_ ?_
    | with_reducible refine keep_attic ?_ ?_ | with_reducible refine keep_elim ?_ ?_ | with_reducible refine keep_getD ?_ ?_
    | with_reducible refine keep_foldl_fst ?_ ?_ | with_reducible refine keep_repeat ?_ ?_
    | with_reducible refine keep_foldl_snd ?_ ?_ | with_reducible refine keep_ite ?_ ?_
    | with_reducible refine keep_foldl ?_ ?_ | with_reducible exact keep_of_fst (by assumption) (by assumption)
    | with_reducible exact keep_enter (by assumption) (by assumption)
    | with_reducible exact keepSome_elim (by assumption) (by assumption)
    | with_reducible exact keepPair_elim (by assumption) (by assumption)
    | with_reducible exact keepPair_elim2 (by assumption) (by assumption)
    | with_reducible exact keep_of_snd (by assumption) (by assumption) | split | with_reducible refine keepSome_bind ?_
    | with_reducible refine keepSome_elim ?_ (by assumption) | (cases ‹_ = some _›) | (with_reducible dsimp only))

theorem cfgComplete_keep {M : Touch} {b0 : State} {s : State} {ok : Bool} (hm : ({ pwr := true, fns := true, ctxs := true, tags := true, plans := true, limbo := true, links := true, attic := true, host := true } : Touch).le M = true) (hs : Keep M b0 s) :
    Keep M b0 (cfgComplete s ok) := by
  unfold cfgComplete
  repeat' (first
    | with_reducible assumption | (with_reducible exact keep_refl _ _) | with_reducible refine keepOut_next ?_
    | ((with_reducible intro x); refine keep_cut (m := M) (s := b0) x ?_ (fun _ => ?_); subst x)
    | ((with_reducible intro x); refine keep_cut_fst (m := M) (s := b0) x ?_ (fun _ => ?_); subst x)
    | ((with_reducible intro x); refine keep_cut_snd (m := M) (s := b0) x ?_ (fun _ => ?_); subst x)
    | ((with_reducible intro x); refine keep_cut_some (m := M) (s := b0) x ?_ (fun _ => ?_); subst x)
    | ((with_reducible intro x); refine keep_cut_pair (m := M) (s := b0) x ?_ (fun _ => ?_); subst x)
    | ((with_reducible intro x); refine keep_cut_run (m := M) (s := b0) x ?_ (fun _ => ?_); subst x)
    | ((with_reducible intro x); refine cell_id x ?_; subst x) | ((with_reducible intro x); refine fun_id x ?_; subst x)
    | ((with_reducible intro x); clear_value x) | (with_reducible intro _) | lift_lets
    | ((with_reducible refine touch_below hm ?_); rfl) | with_reducible refine settle_keep ?_ ?_
    | with_reducible refine nextUpdates_keep ?_ ?_ | with_reducible refine cfgWritten_keep ?_ ?_
    | with_reducible refine keep_elim ?_ ?_ | with_reducible refine keep_getD ?_ ?_
    | with_reducible refine keep_foldl_fst ?_ ?_ | with_reducible refine keep_repeat ?_ ?_
    | with_reducible refine keep_foldl_snd ?_ ?_ | with_reducible refine keep_ite ?_ ?_
    | with_reducible refine keep_foldl ?_ ?_ | with_reducible exact keep_of_fst (by assumption) (by assumption)
    | with_reducible exact keep_enter (by assumption) (by assumption)
    | with_reducible exact keepSome_elim (by assumption) (by assumption)
    | with_reducible exact keepPair_elim (by assumption) (by assumption)
    | with_reducible exact keepPair_elim2 (by assumption) (by assumption)
    | with_reducible exact keep_of_snd (by assumption) (by assumption) | split | with_reducible refine keepSome_bind ?_
    | with_reducible refine keepSome_elim ?_ (by assumption) | (cases ‹_ = some _›) | (with_reducible dsimp only))

theorem execConfigUpdateComplete_keep {M : Touch} {b0 : State} {readBackOk : Bool} {s : State} (hm : ({ pwr := true, fns := true, ctxs := true, tags := true, plans := true, limbo := true, links := true, attic := true, host := true } : Touch).le M = true) (hs : Keep M b0 s) :
    KeepOut M b0 (execConfigUpdateComplete readBackOk s) := by
  unfold execConfigUpdateComplete
  repeat' (first
    | with_reducible assumption | with_reducible refine keepOut_next ?_ | (with_reducible intro _)
    | with_reducible refine cfgComplete_keep ?_ ?_ | split)

theorem endImage_keep {M : Touch} {b0 : State} {s : State} {o : ImageOp} {code : Nat} (hm : ({ fns := true, ctxs := true, tags := true, attic := true, host := true } : Touch).le M = true) (hs : Keep M b0 s) :
    Keep M b0 (endImage s o code) := by
  unfold endImage
  repeat' (first
    | with_reducible assumption | ((with_reducible intro x); refine keep_cut (m := M) (s := b0) x ?_ (fun _ => ?_); subst x)
    | ((with_reducible refine touch_below hm ?_); rfl) | with_reducible refine closeOpen_keep ?_ ?_
    | (with_reducible dsimp -zeta only [keep_mk]) | with_reducible refine keep_attic ?_ ?_ | split
    | (with_reducible dsimp only))

theorem startStore_keep {M : Touch} {b0 : State} {s : State} {o : ImageOp} (hm : ({ fns := true, ctxs := true, tags := true, attic := true, host := true } : Touch).le M = true) (hs : Keep M b0 s) :
    Keep M b0 (startStore s o) := by
  unfold startStore
  repeat' (first
    | with_reducible assumption | ((with_reducible refine touch_below hm ?_); rfl) | with_reducible refine endImage_keep ?_ ?_
    | (with_reducible dsimp -zeta only [keep_mk]) | with_reducible refine keep_attic ?_ ?_ | split)

theorem startLoad_keep {M : Touch} {b0 : State} {s : State} {o : ImageOp} (hm : ({ fns := true, ctxs := true, tags := true, attic := true, host := true } : Touch).le M = true) (hs : Keep M b0 s) :
    Keep M b0 (startLoad s o) := by
  unfold startLoad
  split
  · exact endImage_keep (touch_below hm rfl) hs
  · rename_i i h
    refine keep_ite (fun _ => endImage_keep (touch_below hm rfl) hs) fun _ => ?_
    refine keep_ite (fun _ => endImage_keep (touch_below hm rfl) hs) fun _ => ?_
    refine keep_ite (fun _ => endImage_keep (touch_below hm rfl) hs) fun _ => ?_
    refine keep_ite (fun _ => endImage_keep (touch_below hm rfl) hs) fun _ => ?_
    generalize allocSpread (usedExtents s) (List.range 16) 0 (imgExtents i) = g
    cases g with
    | none => exact endImage_keep (touch_below hm rfl) hs
    | some es => exact keep_attic (touch_below hm rfl) hs

theorem runDelete_keep {M : Touch} {b0 : State} {s : State} {o : ImageOp} (hm : ({ fns := true, ctxs := true, tags := true, limbo := true, attic := true, host := true } : Touch).le M = true) (hs : Keep M b0 s) :
    Keep M b0 (runDelete s o) := by
  unfold runDelete
  repeat' (first
    | with_reducible assumption | ((with_reducible intro x); refine keep_cut (m := M) (s := b0) x ?_ (fun _ => ?_); subst x)
    | (with_reducible intro _) | ((with_reducible refine touch_below hm ?_); rfl) | with_reducible refine endImage_keep ?_ ?_
    | with_reducible refine unloadImages_keep ?_ ?_ | (with_reducible dsimp -zeta only [keep_mk])
    | with_reducible refine keep_attic ?_ ?_ | split)

theorem startImage_keep {M : Touch} {b0 : State} {s : State} {o : ImageOp} (hm : ({ fns := true, ctxs := true, tags := true, limbo := true, attic := true, host := true } : Touch).le M = true) (hs : Keep M b0 s) :
    Keep M b0 (startImage s o) := by
  unfold startImage
  repeat' (first
    | with_reducible assumption | (with_reducible intro _) | ((with_reducible refine touch_below hm ?_); rfl)
    | with_reducible refine startStore_keep ?_ ?_ | with_reducible refine startLoad_keep ?_ ?_
    | with_reducible refine runDelete_keep ?_ ?_ | split)

theorem nextImages_keep {M : Touch} {b0 : State} {s : State} (hm : ({ fns := true, ctxs := true, tags := true, limbo := true, attic := true, host := true } : Touch).le M = true) (hs : Keep M b0 s) :
    Keep M b0 (nextImages s) := by
  unfold nextImages
  repeat' (first
    | with_reducible assumption | (with_reducible intro _) | with_reducible refine startImage_keep ?_ ?_
    | with_reducible refine keep_foldl ?_ ?_)

theorem imageDesc_keep {M : Touch} {b0 : State} {s : State} {d : Desc} {o : Nat} {kind : Nat} {image : List Byte} {t : Nat} (hm : ({ fns := true, ctxs := true, tags := true, limbo := true, attic := true, host := true } : Touch).le M = true) (hs : Keep M b0 s) :
    Keep M b0 (imageDesc s d o kind image t) := by
  unfold imageDesc
  repeat' (first
    | with_reducible assumption | ((with_reducible intro x); refine keep_cut (m := M) (s := b0) x ?_ (fun _ => ?_); subst x)
    | ((with_reducible refine touch_below hm ?_); rfl) | with_reducible refine openDesc_keep ?_ ?_
    | with_reducible refine startImage_keep ?_ ?_ | (with_reducible dsimp -zeta only [keep_mk])
    | with_reducible refine keep_attic ?_ ?_)

theorem execImageStore_keep {M : Touch} {b0 : State} {desc : Desc} {image : List Byte} {s : State} (hm : ({ fns := true, ctxs := true, tags := true, plans := true, limbo := true, attic := true, host := true } : Touch).le M = true) (hs : Keep M b0 s) :
    KeepOut M b0 (execImageStore desc image s) := by
  unfold execImageStore
  repeat' (first
    | with_reducible assumption | with_reducible refine keepOut_next ?_ | (with_reducible intro _)
    | ((with_reducible refine touch_below hm ?_); rfl) | with_reducible refine runDesc_keep ?_ ?_ ?_
    | with_reducible refine imageDesc_keep ?_ ?_)

theorem execImageLoad_keep {M : Touch} {b0 : State} {desc : Desc} {s : State} (hm : ({ fns := true, ctxs := true, tags := true, plans := true, limbo := true, attic := true, host := true } : Touch).le M = true) (hs : Keep M b0 s) :
    KeepOut M b0 (execImageLoad desc s) := by
  unfold execImageLoad
  repeat' (first
    | with_reducible assumption | with_reducible refine keepOut_next ?_ | (with_reducible intro _)
    | ((with_reducible refine touch_below hm ?_); rfl) | with_reducible refine runDesc_keep ?_ ?_ ?_
    | with_reducible refine imageDesc_keep ?_ ?_)

theorem execImageDelete_keep {M : Touch} {b0 : State} {desc : Desc} {s : State} (hm : ({ fns := true, ctxs := true, tags := true, plans := true, limbo := true, attic := true, host := true } : Touch).le M = true) (hs : Keep M b0 s) :
    KeepOut M b0 (execImageDelete desc s) := by
  unfold execImageDelete
  repeat' (first
    | with_reducible assumption | with_reducible refine keepOut_next ?_ | (with_reducible intro _)
    | ((with_reducible refine touch_below hm ?_); rfl) | with_reducible refine runDesc_keep ?_ ?_ ?_
    | with_reducible refine imageDesc_keep ?_ ?_)

theorem storeComplete_keep {M : Touch} {b0 : State} {s : State} {f : Nat} {id : Nat} (hm : ({ fns := true, ctxs := true, tags := true, plans := true, limbo := true, attic := true, host := true } : Touch).le M = true) (hs : Keep M b0 s) :
    Keep M b0 (storeComplete s f id) := by
  unfold storeComplete
  repeat' (first
    | with_reducible assumption | ((with_reducible refine touch_below hm ?_); rfl) | with_reducible refine settle_keep ?_ ?_
    | with_reducible refine nextImages_keep ?_ ?_ | with_reducible refine endImage_keep ?_ ?_
    | (with_reducible dsimp -zeta only [keep_mk]) | with_reducible refine keep_attic ?_ ?_ | split)

theorem execImageStoreComplete_keep {M : Touch} {b0 : State} {fn : Nat} {imageId : Nat} {s : State} (hm : ({ fns := true, ctxs := true, tags := true, plans := true, limbo := true, attic := true, host := true } : Touch).le M = true) (hs : Keep M b0 s) :
    KeepOut M b0 (execImageStoreComplete fn imageId s) := by
  unfold execImageStoreComplete
  repeat' (first
    | with_reducible assumption | with_reducible refine keepOut_next ?_ | (with_reducible intro _)
    | with_reducible refine storeComplete_keep ?_ ?_ | split)

theorem withdrawImage_keep {M : Touch} {b0 : State} {s : State} {f : Nat} {id : Nat} (hm : ({ plans := true } : Touch).le M = true) (hs : Keep M b0 s) :
    Keep M b0 (withdrawImage s f id) := by
  unfold withdrawImage
  repeat' (first
    | with_reducible assumption | (with_reducible intro _) | with_reducible refine withdrawPlan_keep ?_ ?_
    | with_reducible refine keep_foldl ?_ ?_)

theorem endLoad_keep {M : Touch} {b0 : State} {s : State} {l : Loaded} {code : Nat} (hm : ({ fns := true, ctxs := true, tags := true, host := true } : Touch).le M = true) (hs : Keep M b0 s) :
    Keep M b0 (endLoad s l code) := by
  unfold endLoad
  repeat' (first | with_reducible assumption | with_reducible refine closeOpen_keep ?_ ?_ | split)

theorem loadComplete_keep {M : Touch} {b0 : State} {s : State} {c : Nat} {id : Nat} {bad : Option Nat} (hm : ({ fns := true, ctxs := true, tags := true, plans := true, limbo := true, flog := true, attic := true, mem := true, host := true } : Touch).le M = true) (hs : Keep M b0 s) :
    Keep M b0 (loadComplete s c id bad) := by
  unfold loadComplete
  repeat' (first
    | ((with_reducible intro x); refine keep_cut (m := M) (s := b0) x ?_ (fun _ => ?_); subst x) | (with_reducible intro _)
    | ((with_reducible refine touch_below hm ?_); rfl) | with_reducible refine settle_keep ?_ ?_
    | with_reducible refine endLoad_keep ?_ ?_ | with_reducible refine unloadImages_keep ?_ ?_
    | with_reducible refine logFault_keep ?_ ?_ | with_reducible refine withdrawImage_keep ?_ ?_
    | (with_reducible dsimp -zeta only [keep_mk]) | with_reducible refine keep_attic_mem ?_ ?_ ?_
    | with_reducible refine landImage_ok ?_ | split)
  all_goals assumption

theorem execImageLoadComplete_keep {M : Touch} {b0 : State} {ctx : Nat} {imageId : Nat} {bad : Option Nat} {s : State} (hm : ({ fns := true, ctxs := true, tags := true, plans := true, limbo := true, flog := true, attic := true, mem := true, host := true } : Touch).le M = true) (hs : Keep M b0 s) :
    KeepOut M b0 (execImageLoadComplete ctx imageId bad s) := by
  unfold execImageLoadComplete
  repeat' (first
    | with_reducible assumption | with_reducible refine keepOut_next ?_ | (with_reducible intro _)
    | with_reducible refine loadComplete_keep ?_ ?_ | split)

theorem execHostAccessFail_keep {M : Touch} {b0 : State} {access : HostAccess} {err : HostErr} {addr : DWord} {s : State} (hm : ({ fns := true, ctxs := true, tags := true, plans := true, limbo := true, flog := true, attic := true, host := true } : Touch).le M = true) (hs : Keep M b0 s) :
    KeepOut M b0 (execHostAccessFail access err addr s) := by
  unfold execHostAccessFail
  repeat' (first
    | with_reducible assumption | with_reducible refine keepOut_next ?_ | ((with_reducible refine touch_below hm ?_); rfl)
    | with_reducible refine nextUpdates_keep ?_ ?_ | with_reducible refine nextImages_keep ?_ ?_
    | with_reducible refine accessFail_keep ?_ ?_)

theorem attest_keep {M : Touch} {b0 : State} {s : State} {d : Desc} {t : Nat} (hm : ({ fns := true, ctxs := true, tags := true, host := true } : Touch).le M = true) (hs : Keep M b0 s) :
    Keep M b0 (attest s d t) := by
  unfold attest
  repeat' (first
    | (with_reducible intro _) | ((with_reducible refine touch_below hm ?_); rfl)
    | with_reducible refine finishDesc_keep ?_ ?_ | (with_reducible dsimp -zeta only [keep_mk])
    | with_reducible refine keep_host ?_ ?_ ?_ | with_reducible refine hostWrite_ok ?_ | split)
  all_goals assumption

theorem execAttest_keep {M : Touch} {b0 : State} {desc : Desc} {s : State} (hm : ({ fns := true, ctxs := true, tags := true, plans := true, limbo := true, flog := true, attic := true, host := true } : Touch).le M = true) (hs : Keep M b0 s) :
    KeepOut M b0 (execAttest desc s) := by
  unfold execAttest
  repeat' (first
    | with_reducible assumption | (with_reducible exact keep_refl _ _) | with_reducible refine keepOut_next ?_
    | with_reducible refine keepOut_ite ?_ ?_
    | ((with_reducible intro x); refine keep_cut (m := M) (s := b0) x ?_ (fun _ => ?_); subst x)
    | ((with_reducible intro x); refine keep_cut_fst (m := M) (s := b0) x ?_ (fun _ => ?_); subst x)
    | ((with_reducible intro x); refine keep_cut_snd (m := M) (s := b0) x ?_ (fun _ => ?_); subst x)
    | ((with_reducible intro x); refine keep_cut_some (m := M) (s := b0) x ?_ (fun _ => ?_); subst x)
    | ((with_reducible intro x); refine keep_cut_pair (m := M) (s := b0) x ?_ (fun _ => ?_); subst x)
    | ((with_reducible intro x); refine keep_cut_run (m := M) (s := b0) x ?_ (fun _ => ?_); subst x)
    | ((with_reducible intro x); refine cell_id x ?_; subst x) | ((with_reducible intro x); refine fun_id x ?_; subst x)
    | ((with_reducible intro x); clear_value x) | (with_reducible intro _) | lift_lets
    | ((with_reducible refine touch_below hm ?_); rfl) | with_reducible refine runDesc_keep ?_ ?_ ?_
    | with_reducible refine withHostData_keep ?_ ?_ ?_ | with_reducible refine attest_keep ?_ ?_
    | with_reducible refine keep_elim ?_ ?_ | with_reducible refine keep_getD ?_ ?_
    | with_reducible refine keep_foldl_fst ?_ ?_ | with_reducible refine keep_repeat ?_ ?_
    | with_reducible refine keep_foldl_snd ?_ ?_ | with_reducible refine keep_ite ?_ ?_
    | with_reducible refine keep_foldl ?_ ?_ | with_reducible exact keep_of_fst (by assumption) (by assumption)
    | with_reducible exact keep_enter (by assumption) (by assumption)
    | with_reducible exact keepSome_elim (by assumption) (by assumption)
    | with_reducible exact keepPair_elim (by assumption) (by assumption)
    | with_reducible exact keepPair_elim2 (by assumption) (by assumption)
    | with_reducible exact keep_of_snd (by assumption) (by assumption) | split | with_reducible refine keepSome_bind ?_
    | with_reducible refine keepSome_elim ?_ (by assumption) | (cases ‹_ = some _›) | (with_reducible dsimp only))

end Sys2Proof.Laws
end

