-- ==== Sys2Proof/Laws/KeepCodec.lean ====
section
/-! SUPPORT. What each operation of Machine/Codec.lean may change. -/
namespace Sys2Proof.Laws

open Sys2Proof Sys2Proof.Machine
set_option linter.unusedVariables false

theorem setUpBuffer_keep {M : Touch} {b0 : State} {s : State} {c : Nat} {p : StreamPar} (hm : ({ free := true, mem := true } : Touch).le M = true) (hs : Keep M b0 s) :
    Keep M b0 (setUpBuffer s c p) := by
  unfold setUpBuffer
  repeat' (first
    | with_reducible assumption | (with_reducible exact keep_refl _ _) | with_reducible refine keepOut_next ?_
    | ((with_reducible intro x); refine keep_cut (m := M) (s := b0) x ?_ (fun _ => ?_); subst x)
    | ((with_reducible intro x); refine keep_cut_fst (m := M) (s := b0) x ?_ (fun _ => ?_); subst x)
    | ((with_reducible intro x); refine keep_cut_snd (m := M) (s := b0) x ?_ (fun _ => ?_); subst x)
    | ((with_reducible intro x); refine keep_cut_some (m := M) (s := b0) x ?_ (fun _ => ?_); subst x)
    | ((with_reducible intro x); refine keep_cut_pair (m := M) (s := b0) x ?_ (fun _ => ?_); subst x)
    | ((with_reducible intro x); refine keep_cut_run (m := M) (s := b0) x ?_ (fun _ => ?_); subst x)
    | ((with_reducible intro x); refine cell_id x ?_; subst x) | ((with_reducible intro x); refine fun_id x ?_; subst x)
    | ((with_reducible intro x); clear_value x) | (with_reducible intro _) | lift_lets
    | ((with_reducible refine touch_below hm ?_); rfl) | with_reducible refine freeBytes_keep ?_ ?_
    | with_reducible refine freeBytes_keep_eq ?_ ?_ (by assumption) | with_reducible refine writeVa_keep ?_ ?_
    | with_reducible refine keep_elim ?_ ?_ | with_reducible refine keep_getD ?_ ?_
    | with_reducible refine keep_foldl_fst ?_ ?_ | with_reducible refine keep_repeat ?_ ?_
    | with_reducible refine keep_foldl_snd ?_ ?_ | with_reducible refine keep_ite ?_ ?_
    | with_reducible refine keep_foldl ?_ ?_ | with_reducible exact keep_of_fst (by assumption) (by assumption)
    | with_reducible exact keep_enter (by assumption) (by assumption)
    | with_reducible exact keepSome_elim (by assumption) (by assumption)
    | with_reducible exact keepPair_elim (by assumption) (by assumption)
    | with_reducible exact keepPair_elim2 (by assumption) (by assumption)
    | with_reducible exact keep_of_snd (by assumption) (by assumption) | split | with_reducible refine keepSome_bind ?_
    | with_reducible refine keepSome_elim ?_ (by assumption) | (cases ‹_ = some _›) | (with_reducible dsimp only))

theorem streamStart_keep {M : Touch} {b0 : State} {s : State} {d : Desc} {b : List Byte} {t : Nat} (hm : ({ free := true, fns := true, ctxs := true, tags := true, mem := true, host := true } : Touch).le M = true) (hs : Keep M b0 s) :
    Keep M b0 (streamStart s d b t) := by
  unfold streamStart
  repeat' (first
    | with_reducible assumption | (with_reducible exact keep_refl _ _) | with_reducible refine keepOut_next ?_
    | ((with_reducible intro x); refine keep_cut (m := M) (s := b0) x ?_ (fun _ => ?_); subst x)
    | ((with_reducible intro x); refine keep_cut_fst (m := M) (s := b0) x ?_ (fun _ => ?_); subst x)
    | ((with_reducible intro x); refine keep_cut_snd (m := M) (s := b0) x ?_ (fun _ => ?_); subst x)
    | ((with_reducible intro x); refine keep_cut_some (m := M) (s := b0) x ?_ (fun _ => ?_); subst x)
    | ((with_reducible intro x); refine keep_cut_pair (m := M) (s := b0) x ?_ (fun _ => ?_); subst x)
    | ((with_reducible intro x); refine keep_cut_run (m := M) (s := b0) x ?_ (fun _ => ?_); subst x)
    | ((with_reducible intro x); refine cell_id x ?_; subst x) | ((with_reducible intro x); refine fun_id x ?_; subst x)
    | ((with_reducible intro x); clear_value x) | (with_reducible intro _) | lift_lets
    | ((with_reducible refine touch_below hm ?_); rfl) | with_reducible refine finishDesc_keep ?_ ?_
    | with_reducible refine modCtx_keep ?_ ?_ | with_reducible refine setUpBuffer_keep ?_ ?_
    | with_reducible refine keep_elim ?_ ?_ | with_reducible refine keep_getD ?_ ?_
    | with_reducible refine keep_foldl_fst ?_ ?_ | with_reducible refine keep_repeat ?_ ?_
    | with_reducible refine keep_foldl_snd ?_ ?_ | with_reducible refine keep_ite ?_ ?_
    | with_reducible refine keep_foldl ?_ ?_ | with_reducible exact keep_of_fst (by assumption) (by assumption)
    | with_reducible exact keep_enter (by assumption) (by assumption)
    | with_reducible exact keepSome_elim (by assumption) (by assumption)
    | with_reducible exact keepPair_elim (by assumption) (by assumption)
    | with_reducible exact keepPair_elim2 (by assumption) (by assumption)
    | with_reducible exact keep_of_snd (by assumption) (by assumption) | split | with_reducible refine keepSome_bind ?_
    | with_reducible refine keepSome_elim ?_ (by assumption) | (cases ‹_ = some _›) | (with_reducible dsimp only))

theorem execStreamOpen_keep {M : Touch} {b0 : State} {desc : Desc} {params : List Byte} {s : State} (hm : ({ free := true, fns := true, ctxs := true, tags := true, plans := true, limbo := true, flog := true, attic := true, mem := true, host := true } : Touch).le M = true) (hs : Keep M b0 s) :
    KeepOut M b0 (execStreamOpen desc params s) := by
  unfold execStreamOpen
  repeat' (first
    | with_reducible assumption | (with_reducible exact keep_refl _ _) | with_reducible refine keepOut_next ?_
    | with_reducible refine keepOut_ite ?_ ?_
    | ((with_reducible intro x); refine keep_cut (m := M) (s := b0) x ?_ (fun _ => ?_); subst x)
    | ((with_reducible intro x); refine keep_cut_fst (m := M) (s := b0) x ?_ (fun _ => ?_); subst x)
    | ((with_reducible intro x); refine keep_cut_snd (m := M) (s := b0) x ?_ (fun _ => ?_); subst x)
    | ((with_reducible intro x); refine keep_cut_some (m := M) (s := b0) x ?_ (fun _ => ?_); subst x)
    | ((with_reducible intro x); refine keep_cut_pair (m := M) (s := b0) x ?_ (fun _ => ?_); subst x)
    | ((with_reducible intro x); refine keep_cut_run (m := M) (s := b0) x ?_ (fun _ => ?_); subst x)
    | ((with_reducible intro x); refine cell_id x ?_; subst x) | ((with_reducible intro x); refine fun_id x ?_; subst x)
    | ((with_reducible intro x); clear_value x) | (with_reducible intro _) | lift_lets
    | ((with_reducible refine touch_below hm ?_); rfl) | with_reducible refine runDesc_keep ?_ ?_ ?_
    | with_reducible refine withHostData_keep ?_ ?_ ?_ | with_reducible refine streamStart_keep ?_ ?_
    | with_reducible refine keep_elim ?_ ?_ | with_reducible refine keep_getD ?_ ?_
    | with_reducible refine keep_foldl_fst ?_ ?_ | with_reducible refine keep_repeat ?_ ?_
    | with_reducible refine keep_foldl_snd ?_ ?_ | with_reducible refine keep_ite ?_ ?_
    | with_reducible refine keep_foldl ?_ ?_ | with_reducible exact keep_of_fst (by assumption) (by assumption)
    | with_reducible exact keep_enter (by assumption) (by assumption)
    | with_reducible exact keepSome_elim (by assumption) (by assumption)
    | with_reducible exact keepPair_elim (by assumption) (by assumption)
    | with_reducible exact keepPair_elim2 (by assumption) (by assumption)
    | with_reducible exact keep_of_snd (by assumption) (by assumption) | split | with_reducible refine keepSome_bind ?_
    | with_reducible refine keepSome_elim ?_ (by assumption) | (cases ‹_ = some _›) | (with_reducible dsimp only))

theorem planEnding_keep {M : Touch} {b0 : State} {s : State} {p : Plan} (hm : ({ fns := true, ctxs := true, tags := true, host := true } : Touch).le M = true) (hs : Keep M b0 s) :
    Keep M b0 (planEnding s p) := by
  unfold planEnding
  repeat' (first
    | with_reducible assumption | (with_reducible exact keep_refl _ _) | with_reducible refine keepOut_next ?_
    | ((with_reducible intro x); refine keep_cut (m := M) (s := b0) x ?_ (fun _ => ?_); subst x)
    | ((with_reducible intro x); refine keep_cut_fst (m := M) (s := b0) x ?_ (fun _ => ?_); subst x)
    | ((with_reducible intro x); refine keep_cut_snd (m := M) (s := b0) x ?_ (fun _ => ?_); subst x)
    | ((with_reducible intro x); refine keep_cut_some (m := M) (s := b0) x ?_ (fun _ => ?_); subst x)
    | ((with_reducible intro x); refine keep_cut_pair (m := M) (s := b0) x ?_ (fun _ => ?_); subst x)
    | ((with_reducible intro x); refine keep_cut_run (m := M) (s := b0) x ?_ (fun _ => ?_); subst x)
    | ((with_reducible intro x); refine cell_id x ?_; subst x) | ((with_reducible intro x); refine fun_id x ?_; subst x)
    | ((with_reducible intro x); clear_value x) | (with_reducible intro _) | lift_lets
    | ((with_reducible refine touch_below hm ?_); rfl) | with_reducible refine codecPlanGone_keep ?_ ?_
    | with_reducible refine modCtx_keep ?_ ?_ | with_reducible refine keep_elim ?_ ?_ | with_reducible refine keep_getD ?_ ?_
    | with_reducible refine keep_foldl_fst ?_ ?_ | with_reducible refine keep_repeat ?_ ?_
    | with_reducible refine keep_foldl_snd ?_ ?_ | with_reducible refine keep_ite ?_ ?_
    | with_reducible refine keep_foldl ?_ ?_ | with_reducible exact keep_of_fst (by assumption) (by assumption)
    | with_reducible exact keep_enter (by assumption) (by assumption)
    | with_reducible exact keepSome_elim (by assumption) (by assumption)
    | with_reducible exact keepPair_elim (by assumption) (by assumption)
    | with_reducible exact keepPair_elim2 (by assumption) (by assumption)
    | with_reducible exact keep_of_snd (by assumption) (by assumption) | split | with_reducible refine keepSome_bind ?_
    | with_reducible refine keepSome_elim ?_ (by assumption) | (cases ‹_ = some _›) | (with_reducible dsimp only))

theorem queueJob_keep {M : Touch} {b0 : State} {s : State} {d : Desc} {t : Nat} {ready : Option Nat} {waits : Option (PlanKey × Nat)} (hm : ({ fns := true, ctxs := true } : Touch).le M = true) (hs : Keep M b0 s) :
    Keep M b0 (queueJob s d t ready waits) := by
  unfold queueJob
  repeat' (first
    | with_reducible assumption | (with_reducible exact keep_refl _ _) | with_reducible refine keepOut_next ?_
    | ((with_reducible intro x); refine keep_cut (m := M) (s := b0) x ?_ (fun _ => ?_); subst x)
    | ((with_reducible intro x); refine keep_cut_fst (m := M) (s := b0) x ?_ (fun _ => ?_); subst x)
    | ((with_reducible intro x); refine keep_cut_snd (m := M) (s := b0) x ?_ (fun _ => ?_); subst x)
    | ((with_reducible intro x); refine keep_cut_some (m := M) (s := b0) x ?_ (fun _ => ?_); subst x)
    | ((with_reducible intro x); refine keep_cut_pair (m := M) (s := b0) x ?_ (fun _ => ?_); subst x)
    | ((with_reducible intro x); refine keep_cut_run (m := M) (s := b0) x ?_ (fun _ => ?_); subst x)
    | ((with_reducible intro x); refine cell_id x ?_; subst x) | ((with_reducible intro x); refine fun_id x ?_; subst x)
    | ((with_reducible intro x); clear_value x) | (with_reducible intro _) | lift_lets
    | ((with_reducible refine touch_below hm ?_); rfl) | with_reducible refine modStream_keep ?_ ?_
    | with_reducible refine openDesc_keep ?_ ?_ | with_reducible refine keep_elim ?_ ?_
    | with_reducible refine keep_getD ?_ ?_ | with_reducible refine keep_foldl_fst ?_ ?_
    | with_reducible refine keep_repeat ?_ ?_ | with_reducible refine keep_foldl_snd ?_ ?_
    | with_reducible refine keep_ite ?_ ?_ | with_reducible refine keep_foldl ?_ ?_
    | with_reducible exact keep_of_fst (by assumption) (by assumption)
    | with_reducible exact keep_enter (by assumption) (by assumption)
    | with_reducible exact keepSome_elim (by assumption) (by assumption)
    | with_reducible exact keepPair_elim (by assumption) (by assumption)
    | with_reducible exact keepPair_elim2 (by assumption) (by assumption)
    | with_reducible exact keep_of_snd (by assumption) (by assumption) | split | with_reducible refine keepSome_bind ?_
    | with_reducible refine keepSome_elim ?_ (by assumption) | (cases ‹_ = some _›) | (with_reducible dsimp only))

theorem jobStart_keep {M : Touch} {b0 : State} {s : State} {d : Desc} {t : Nat} (hm : ({ fns := true, ctxs := true, tags := true, host := true } : Touch).le M = true) (hs : Keep M b0 s) :
    Keep M b0 (jobStart s d t) := by
  unfold jobStart
  repeat' (first
    | with_reducible assumption | ((with_reducible refine touch_below hm ?_); rfl)
    | with_reducible refine finishDesc_keep ?_ ?_ | with_reducible refine queueJob_keep ?_ ?_ | split)

theorem execCodecJob_keep {M : Touch} {b0 : State} {desc : Desc} {s : State} (hm : ({ fns := true, ctxs := true, tags := true, plans := true, limbo := true, attic := true, host := true } : Touch).le M = true) (hs : Keep M b0 s) :
    KeepOut M b0 (execCodecJob desc s) := by
  unfold execCodecJob
  repeat' (first
    | with_reducible assumption | with_reducible refine keepOut_next ?_ | (with_reducible intro _)
    | ((with_reducible refine touch_below hm ?_); rfl) | with_reducible refine runDesc_keep ?_ ?_ ?_
    | with_reducible refine jobStart_keep ?_ ?_)

theorem endJob_keep {M : Touch} {b0 : State} {s : State} {c : Nat} {sid : Nat} {p : StreamPar} {j : Job} {code : Nat} (hm : ({ fns := true, ctxs := true, tags := true, flog := true, host := true } : Touch).le M = true) (hs : Keep M b0 s) :
    Keep M b0 (endJob s c sid p j code) := by
  unfold endJob
  repeat' (first
    | with_reducible assumption | ((with_reducible intro x); refine keep_cut (m := M) (s := b0) x ?_ (fun _ => ?_); subst x)
    | (with_reducible intro _) | ((with_reducible refine touch_below hm ?_); rfl) | with_reducible refine modStream_keep ?_ ?_
    | with_reducible refine logFault_keep ?_ ?_ | with_reducible refine postEntry_keep ?_ ?_
    | with_reducible refine dropOpen_keep ?_ ?_ | split | (with_reducible dsimp only))

theorem codecOutput_keep {M : Touch} {b0 : State} {s : State} {k : PlanKey} {out : Nat} {code : Nat} (hm : ({ fns := true, ctxs := true, tags := true, host := true } : Touch).le M = true) (hs : Keep M b0 s) :
    Keep M b0 (codecOutput s k out code) := by
  unfold codecOutput
  repeat' (first
    | with_reducible assumption | (with_reducible intro _) | ((with_reducible refine touch_below hm ?_); rfl)
    | with_reducible refine voidJob_keep ?_ ?_ | with_reducible refine modStream_keep ?_ ?_
    | with_reducible refine keep_foldl ?_ ?_ | split)

theorem codecStart_keep {M : Touch} {b0 : State} {s : State} {c : Nat} {sid : Nat} (hm : ({ fns := true, ctxs := true, tags := true, plans := true, limbo := true, attic := true, host := true } : Touch).le M = true) (hs : Keep M b0 s) :
    Keep M b0 (codecStart s c sid) := by
  unfold codecStart
  repeat' (first
    | with_reducible assumption | ((with_reducible refine touch_below hm ?_); rfl) | with_reducible refine settle_keep ?_ ?_
    | with_reducible refine modStream_keep ?_ ?_ | split)

theorem execCodecJobStart_keep {M : Touch} {b0 : State} {ctx : Nat} {stream : Nat} {s : State} (hm : ({ fns := true, ctxs := true, tags := true, plans := true, limbo := true, attic := true, host := true } : Touch).le M = true) (hs : Keep M b0 s) :
    KeepOut M b0 (execCodecJobStart ctx stream s) := by
  unfold execCodecJobStart
  repeat' (first
    | with_reducible assumption | with_reducible refine keepOut_next ?_ | (with_reducible intro _)
    | with_reducible refine codecStart_keep ?_ ?_ | split)

theorem ringPut_keep {M : Touch} {b0 : State} {s : State} {p : StreamPar} {at_ : Nat} {bs : List Byte} (hm : ({ host := true } : Touch).le M = true) (hs : Keep M b0 s) :
    Keep M b0 (ringPut s p at_ bs) := by
  unfold ringPut
  repeat' (first
    | (with_reducible intro _) | (with_reducible dsimp -zeta only [keep_mk]) | with_reducible refine keep_host ?_ ?_ ?_
    | with_reducible refine hostWrite_ok ?_)
  all_goals assumption

theorem ringPad_keep {M : Touch} {b0 : State} {s : State} {c : Nat} {p : StreamPar} {t : Stream} {n : Nat} (hm : ({ ctxs := true, host := true } : Touch).le M = true) (hs : Keep M b0 s) :
    KeepSome M b0 (ringPad s c p t n) := by
  unfold ringPad
  repeat' (first
    | with_reducible assumption | with_reducible exact keepSome_none | with_reducible refine keepSome_some ?_
    | ((with_reducible refine touch_below hm ?_); rfl) | with_reducible refine modStream_keep ?_ ?_
    | with_reducible refine ringPut_keep ?_ ?_ | split | (with_reducible dsimp only))

theorem ringRecord_keep {M : Touch} {b0 : State} {s : State} {c : Nat} {p : StreamPar} {t : Stream} {j : Job} {au : List Byte} (hm : ({ ctxs := true, host := true } : Touch).le M = true) (hs : Keep M b0 s) :
    KeepSome M b0 (ringRecord s c p t j au) := by
  unfold ringRecord
  repeat' (first
    | with_reducible assumption | with_reducible exact keepSome_none | with_reducible refine keepSome_some ?_
    | ((with_reducible intro x); refine keep_cut_some (m := M) (s := b0) x ?_ (fun _ => ?_); subst x)
    | ((with_reducible refine touch_below hm ?_); rfl) | with_reducible refine ringPut_keep ?_ ?_
    | with_reducible refine modStream_keep ?_ ?_ | split | (with_reducible dsimp only))

theorem outUnit_keep {M : Touch} {b0 : State} {s : State} {p : StreamPar} {t : Stream} {j : Job} (hm : ({ free := true } : Touch).le M = true) (hs : Keep M b0 s) :
    Keep M b0 (outUnit s p t j).2 := by
  unfold outUnit
  repeat' (first
    | with_reducible assumption | (with_reducible exact keep_refl _ _) | with_reducible refine keepOut_next ?_
    | ((with_reducible intro x); refine keep_cut (m := M) (s := b0) x ?_ (fun _ => ?_); subst x)
    | ((with_reducible intro x); refine keep_cut_fst (m := M) (s := b0) x ?_ (fun _ => ?_); subst x)
    | ((with_reducible intro x); refine keep_cut_snd (m := M) (s := b0) x ?_ (fun _ => ?_); subst x)
    | ((with_reducible intro x); refine keep_cut_some (m := M) (s := b0) x ?_ (fun _ => ?_); subst x)
    | ((with_reducible intro x); refine keep_cut_pair (m := M) (s := b0) x ?_ (fun _ => ?_); subst x)
    | ((with_reducible intro x); refine keep_cut_run (m := M) (s := b0) x ?_ (fun _ => ?_); subst x)
    | ((with_reducible intro x); refine cell_id x ?_; subst x) | ((with_reducible intro x); refine fun_id x ?_; subst x)
    | ((with_reducible intro x); clear_value x) | (with_reducible intro _) | lift_lets
    | ((with_reducible refine touch_below hm ?_); rfl) | with_reducible refine freshBits_keep ?_ ?_
    | with_reducible refine freshBits_keep_eq ?_ ?_ (by assumption) | with_reducible refine freeBytes_keep ?_ ?_
    | with_reducible refine freeBytes_keep_eq ?_ ?_ (by assumption) | with_reducible refine keep_elim ?_ ?_
    | with_reducible refine keep_getD ?_ ?_ | with_reducible refine keep_foldl_fst ?_ ?_
    | with_reducible refine keep_repeat ?_ ?_ | with_reducible refine keep_foldl_snd ?_ ?_
    | with_reducible refine keep_ite ?_ ?_ | with_reducible refine keep_foldl ?_ ?_
    | with_reducible exact keep_of_fst (by assumption) (by assumption)
    | with_reducible exact keep_enter (by assumption) (by assumption)
    | with_reducible exact keepSome_elim (by assumption) (by assumption)
    | with_reducible exact keepPair_elim (by assumption) (by assumption)
    | with_reducible exact keepPair_elim2 (by assumption) (by assumption)
    | with_reducible exact keep_of_snd (by assumption) (by assumption) | split | with_reducible refine keepSome_bind ?_
    | with_reducible refine keepSome_elim ?_ (by assumption) | (cases ‹_ = some _›) | (with_reducible dsimp only))
theorem outUnit_keep_eq {M : Touch} {b0 : State} {s : State} {p : StreamPar} {t : Stream} {j : Job} {w9} {u9 : State} (hm : ({ free := true } : Touch).le M = true) (hs : Keep M b0 s) (e9 : outUnit s p t j = (w9, u9)) : Keep M b0 u9 := by
  have := outUnit_keep (M := M) (b0 := b0) (s := s) (p := p) (t := t) (j := j) hm hs; rw [e9] at this; exact this

theorem encodeOut_keep {M : Touch} {b0 : State} {s0 : State} {c : Nat} {p : StreamPar} {t : Stream} {j : Job} (hm : ({ free := true, fns := true, ctxs := true, tags := true, flog := true, host := true } : Touch).le M = true) (hs0 : Keep M b0 s0) :
    Keep M b0 (encodeOut s0 c p t j) := by
  unfold encodeOut
  repeat' (first
    | with_reducible assumption | (with_reducible exact keep_refl _ _) | with_reducible refine keepOut_next ?_
    | ((with_reducible intro x); refine keep_cut (m := M) (s := b0) x ?_ (fun _ => ?_); subst x)
    | ((with_reducible intro x); refine keep_cut_fst (m := M) (s := b0) x ?_ (fun _ => ?_); subst x)
    | ((with_reducible intro x); refine keep_cut_snd (m := M) (s := b0) x ?_ (fun _ => ?_); subst x)
    | ((with_reducible intro x); refine keep_cut_some (m := M) (s := b0) x ?_ (fun _ => ?_); subst x)
    | ((with_reducible intro x); refine keep_cut_pair (m := M) (s := b0) x ?_ (fun _ => ?_); subst x)
    | ((with_reducible intro x); refine keep_cut_run (m := M) (s := b0) x ?_ (fun _ => ?_); subst x)
    | ((with_reducible intro x); refine cell_id x ?_; subst x) | ((with_reducible intro x); refine fun_id x ?_; subst x)
    | ((with_reducible intro x); clear_value x) | (with_reducible intro _) | lift_lets
    | ((with_reducible refine touch_below hm ?_); rfl) | with_reducible refine outUnit_keep ?_ ?_
    | with_reducible refine outUnit_keep_eq ?_ ?_ (by assumption) | with_reducible refine modStream_keep ?_ ?_
    | with_reducible refine ringPad_keep ?_ ?_ | with_reducible refine keepSome_elim (ringPad_keep ?_ ?_) (by assumption)
    | with_reducible refine ringRecord_keep ?_ ?_
    | with_reducible refine keepSome_elim (ringRecord_keep ?_ ?_) (by assumption) | with_reducible refine endJob_keep ?_ ?_
    | with_reducible refine keep_elim ?_ ?_ | with_reducible refine keep_getD ?_ ?_
    | with_reducible refine keep_foldl_fst ?_ ?_ | with_reducible refine keep_repeat ?_ ?_
    | with_reducible refine keep_foldl_snd ?_ ?_ | with_reducible refine keep_ite ?_ ?_
    | with_reducible refine keep_foldl ?_ ?_ | with_reducible exact keep_of_fst (by assumption) (by assumption)
    | with_reducible exact keep_enter (by assumption) (by assumption)
    | with_reducible exact keepSome_elim (by assumption) (by assumption)
    | with_reducible exact keepPair_elim (by assumption) (by assumption)
    | with_reducible exact keepPair_elim2 (by assumption) (by assumption)
    | with_reducible exact keep_of_snd (by assumption) (by assumption) | split | with_reducible refine keepSome_bind ?_
    | with_reducible refine keepSome_elim ?_ (by assumption) | (cases ‹_ = some _›) | (with_reducible dsimp only))

theorem showPicture_keep {M : Touch} {b0 : State} {s : State} {c : Nat} {p : StreamPar} {j : Job} {pic : List Byte} (hm : ({ mem := true } : Touch).le M = true) (hs : Keep M b0 s) :
    Keep M b0 (showPicture s c p j pic) := by
  unfold showPicture
  repeat' (first
    | with_reducible assumption | ((with_reducible intro x); refine keep_cut (m := M) (s := b0) x ?_ (fun _ => ?_); subst x)
    | (with_reducible intro _) | with_reducible refine writeVa_keep ?_ ?_ | split)

theorem outPicture_keep {M : Touch} {b0 : State} {s : State} {p : StreamPar} {t : Stream} {pic : List Byte} (hm : ({ free := true } : Touch).le M = true) (hs : Keep M b0 s) :
    Keep M b0 (outPicture s p t pic).2 := by
  unfold outPicture
  repeat' (first
    | with_reducible assumption | (with_reducible exact keep_refl _ _) | with_reducible refine keepOut_next ?_
    | ((with_reducible intro x); refine keep_cut (m := M) (s := b0) x ?_ (fun _ => ?_); subst x)
    | ((with_reducible intro x); refine keep_cut_fst (m := M) (s := b0) x ?_ (fun _ => ?_); subst x)
    | ((with_reducible intro x); refine keep_cut_snd (m := M) (s := b0) x ?_ (fun _ => ?_); subst x)
    | ((with_reducible intro x); refine keep_cut_some (m := M) (s := b0) x ?_ (fun _ => ?_); subst x)
    | ((with_reducible intro x); refine keep_cut_pair (m := M) (s := b0) x ?_ (fun _ => ?_); subst x)
    | ((with_reducible intro x); refine keep_cut_run (m := M) (s := b0) x ?_ (fun _ => ?_); subst x)
    | ((with_reducible intro x); refine cell_id x ?_; subst x) | ((with_reducible intro x); refine fun_id x ?_; subst x)
    | ((with_reducible intro x); clear_value x) | (with_reducible intro _) | lift_lets
    | ((with_reducible refine touch_below hm ?_); rfl) | with_reducible refine freeBytes_keep ?_ ?_
    | with_reducible refine freeBytes_keep_eq ?_ ?_ (by assumption) | with_reducible refine keep_elim ?_ ?_
    | with_reducible refine keep_getD ?_ ?_ | with_reducible refine keep_foldl_fst ?_ ?_
    | with_reducible refine keep_repeat ?_ ?_ | with_reducible refine keep_foldl_snd ?_ ?_
    | with_reducible refine keep_ite ?_ ?_ | with_reducible refine keep_foldl ?_ ?_
    | with_reducible exact keep_of_fst (by assumption) (by assumption)
    | with_reducible exact keep_enter (by assumption) (by assumption)
    | with_reducible exact keepSome_elim (by assumption) (by assumption)
    | with_reducible exact keepPair_elim (by assumption) (by assumption)
    | with_reducible exact keepPair_elim2 (by assumption) (by assumption)
    | with_reducible exact keep_of_snd (by assumption) (by assumption) | split | with_reducible refine keepSome_bind ?_
    | with_reducible refine keepSome_elim ?_ (by assumption) | (cases ‹_ = some _›) | (with_reducible dsimp only))
theorem outPicture_keep_eq {M : Touch} {b0 : State} {s : State} {p : StreamPar} {t : Stream} {pic : List Byte} {w9} {u9 : State} (hm : ({ free := true } : Touch).le M = true) (hs : Keep M b0 s) (e9 : outPicture s p t pic = (w9, u9)) : Keep M b0 u9 := by
  have := outPicture_keep (M := M) (b0 := b0) (s := s) (p := p) (t := t) (pic := pic) hm hs; rw [e9] at this; exact this

theorem decodeOut_keep {M : Touch} {b0 : State} {s : State} {c : Nat} {p : StreamPar} {t : Stream} {j : Job} (hm : ({ free := true, fns := true, ctxs := true, tags := true, flog := true, mem := true, host := true } : Touch).le M = true) (hs : Keep M b0 s) :
    Keep M b0 (decodeOut s c p t j) := by
  unfold decodeOut
  repeat' (first
    | with_reducible assumption | (with_reducible exact keep_refl _ _) | with_reducible refine keepOut_next ?_
    | ((with_reducible intro x); refine keep_cut (m := M) (s := b0) x ?_ (fun _ => ?_); subst x)
    | ((with_reducible intro x); refine keep_cut_fst (m := M) (s := b0) x ?_ (fun _ => ?_); subst x)
    | ((with_reducible intro x); refine keep_cut_snd (m := M) (s := b0) x ?_ (fun _ => ?_); subst x)
    | ((with_reducible intro x); refine keep_cut_some (m := M) (s := b0) x ?_ (fun _ => ?_); subst x)
    | ((with_reducible intro x); refine keep_cut_pair (m := M) (s := b0) x ?_ (fun _ => ?_); subst x)
    | ((with_reducible intro x); refine keep_cut_run (m := M) (s := b0) x ?_ (fun _ => ?_); subst x)
    | ((with_reducible intro x); refine cell_id x ?_; subst x) | ((with_reducible intro x); refine fun_id x ?_; subst x)
    | ((with_reducible intro x); clear_value x) | (with_reducible intro _) | lift_lets
    | ((with_reducible refine touch_below hm ?_); rfl) | with_reducible refine endJob_keep ?_ ?_
    | with_reducible refine modStream_keep ?_ ?_ | with_reducible refine outPicture_keep ?_ ?_
    | with_reducible refine outPicture_keep_eq ?_ ?_ (by assumption) | with_reducible refine showPicture_keep ?_ ?_
    | with_reducible refine keep_elim ?_ ?_ | with_reducible refine keep_getD ?_ ?_
    | with_reducible refine keep_foldl_fst ?_ ?_ | with_reducible refine keep_repeat ?_ ?_
    | with_reducible refine keep_foldl_snd ?_ ?_ | with_reducible refine keep_ite ?_ ?_
    | with_reducible refine keep_foldl ?_ ?_ | with_reducible exact keep_of_fst (by assumption) (by assumption)
    | with_reducible exact keep_enter (by assumption) (by assumption)
    | with_reducible exact keepSome_elim (by assumption) (by assumption)
    | with_reducible exact keepPair_elim (by assumption) (by assumption)
    | with_reducible exact keepPair_elim2 (by assumption) (by assumption)
    | with_reducible exact keep_of_snd (by assumption) (by assumption) | split | with_reducible refine keepSome_bind ?_
    | with_reducible refine keepSome_elim ?_ (by assumption) | (cases ‹_ = some _›) | (with_reducible dsimp only))

theorem codecRun_keep {M : Touch} {b0 : State} {s : State} {c : Nat} {sid : Nat} {again : Bool} (hm : ({ free := true, fns := true, ctxs := true, tags := true, plans := true, limbo := true, flog := true, attic := true, mem := true, host := true } : Touch).le M = true) (hs : Keep M b0 s) :
    Keep M b0 (codecRun s c sid again) := by
  unfold codecRun
  repeat' (first
    | with_reducible assumption | (with_reducible intro _) | ((with_reducible refine touch_below hm ?_); rfl)
    | with_reducible refine settle_keep ?_ ?_ | with_reducible refine decodeOut_keep ?_ ?_
    | with_reducible refine encodeOut_keep ?_ ?_ | split)

theorem execCodecJobComplete_keep {M : Touch} {b0 : State} {ctx : Nat} {stream : Nat} {s : State} (hm : ({ free := true, fns := true, ctxs := true, tags := true, plans := true, limbo := true, flog := true, attic := true, mem := true, host := true } : Touch).le M = true) (hs : Keep M b0 s) :
    KeepOut M b0 (execCodecJobComplete ctx stream s) := by
  unfold execCodecJobComplete
  repeat' (first
    | with_reducible assumption | with_reducible refine keepOut_next ?_ | (with_reducible intro _)
    | with_reducible refine codecRun_keep ?_ ?_ | split)

theorem ringPoll_keep {M : Touch} {b0 : State} {s : State} {c : Nat} {sid : Nat} {v : DWord} (hm : ({ free := true, fns := true, ctxs := true, tags := true, plans := true, limbo := true, flog := true, attic := true, mem := true, host := true } : Touch).le M = true) (hs : Keep M b0 s) :
    Keep M b0 (ringPoll s c sid v) := by
  unfold ringPoll
  repeat' (first
    | with_reducible assumption | (with_reducible intro _) | ((with_reducible refine touch_below hm ?_); rfl)
    | with_reducible refine codecRun_keep ?_ ?_ | with_reducible refine modStream_keep ?_ ?_ | split)

theorem execStreamRingPoll_keep {M : Touch} {b0 : State} {ctx : Nat} {stream : Nat} {consumed : DWord} {s : State} (hm : ({ free := true, fns := true, ctxs := true, tags := true, plans := true, limbo := true, flog := true, attic := true, mem := true, host := true } : Touch).le M = true) (hs : Keep M b0 s) :
    KeepOut M b0 (execStreamRingPoll ctx stream consumed s) := by
  unfold execStreamRingPoll
  repeat' (first
    | with_reducible assumption | with_reducible refine keepOut_next ?_ | (with_reducible intro _)
    | with_reducible refine ringPoll_keep ?_ ?_ | split)

theorem streamEnd_keep {M : Touch} {b0 : State} {s : State} {d : Desc} {t : Nat} (hm : ({ fns := true, ctxs := true, tags := true, host := true } : Touch).le M = true) (hs : Keep M b0 s) :
    Keep M b0 (streamEnd s d t) := by
  unfold streamEnd
  repeat' (first
    | with_reducible assumption | ((with_reducible refine touch_below hm ?_); rfl)
    | with_reducible refine finishDesc_keep ?_ ?_ | with_reducible refine modStream_keep ?_ ?_
    | with_reducible refine openDesc_keep ?_ ?_ | split | (with_reducible dsimp only))

theorem execStreamClose_keep {M : Touch} {b0 : State} {desc : Desc} {s : State} (hm : ({ fns := true, ctxs := true, tags := true, plans := true, limbo := true, attic := true, host := true } : Touch).le M = true) (hs : Keep M b0 s) :
    KeepOut M b0 (execStreamClose desc s) := by
  unfold execStreamClose
  repeat' (first
    | with_reducible assumption | with_reducible refine keepOut_next ?_ | (with_reducible intro _)
    | ((with_reducible refine touch_below hm ?_); rfl) | with_reducible refine runDesc_keep ?_ ?_ ?_
    | with_reducible refine streamEnd_keep ?_ ?_)

theorem dropStream_keep {M : Touch} {b0 : State} {s : State} {c : Nat} {t : Stream} (hm : ({ fns := true, ctxs := true, tags := true, plans := true, host := true } : Touch).le M = true) (hs : Keep M b0 s) :
    Keep M b0 (dropStream s c t) := by
  unfold dropStream
  repeat' (first
    | with_reducible assumption | ((with_reducible intro x); refine keep_cut (m := M) (s := b0) x ?_ (fun _ => ?_); subst x)
    | (with_reducible intro _) | ((with_reducible refine touch_below hm ?_); rfl) | with_reducible refine voidJob_keep ?_ ?_
    | with_reducible refine modCtx_keep ?_ ?_ | with_reducible refine keepItems_keep ?_ ?_
    | with_reducible refine closeOpen_keep ?_ ?_ | with_reducible refine keep_foldl ?_ ?_ | split
    | (with_reducible dsimp only))

theorem engineFail_keep {M : Touch} {b0 : State} {s : State} {e : Nat} (hm : ({ fns := true, ctxs := true, tags := true, plans := true, limbo := true, flog := true, hw := true, attic := true, host := true } : Touch).le M = true) (hs : Keep M b0 s) :
    Keep M b0 (engineFail s e) := by
  unfold engineFail
  repeat' (first
    | with_reducible assumption | ((with_reducible intro x); refine keep_cut (m := M) (s := b0) x ?_ (fun _ => ?_); subst x)
    | (with_reducible intro _) | lift_lets | ((with_reducible refine touch_below hm ?_); rfl)
    | with_reducible refine logFault_keep ?_ ?_ | with_reducible refine settle_keep ?_ ?_
    | with_reducible refine dropStream_keep ?_ ?_ | (with_reducible dsimp -zeta only [keep_mk])
    | with_reducible refine keep_hw ?_ ?_ | with_reducible refine keep_ctxs ?_ ?_ | with_reducible refine keep_foldl ?_ ?_
    | split)

theorem execCodecEngine_keep {M : Touch} {b0 : State} {engine : Nat} {s : State} (hm : ({ fns := true, ctxs := true, tags := true, plans := true, limbo := true, flog := true, hw := true, attic := true, host := true } : Touch).le M = true) (hs : Keep M b0 s) :
    KeepOut M b0 (execCodecEngine engine s) := by
  unfold execCodecEngine
  repeat' (first
    | with_reducible assumption | with_reducible refine keepOut_next ?_ | (with_reducible intro _)
    | with_reducible refine engineFail_keep ?_ ?_ | split)

end Sys2Proof.Laws
end

