-- ==== Sys2Proof/Laws/KeepAdmit.lean ====
section
/-! SUPPORT. What each operation of Machine/Admit.lean may change. -/
namespace Sys2Proof.Laws

open Sys2Proof Sys2Proof.Machine
set_option linter.unusedVariables false

theorem planStart_keep {M : Touch} {b0 : State} {s : State} {d : Desc} {t : Nat} (hm : ({ fns := true, ctxs := true, tags := true, plans := true, host := true } : Touch).le M = true) (hs : Keep M b0 s) :
    Keep M b0 (planStart s d t) := by
  unfold planStart
  repeat' (first
    | with_reducible assumption | ((with_reducible intro x); refine keep_cut (m := M) (s := b0) x ?_ (fun _ => ?_); subst x)
    | ((with_reducible refine touch_below hm ?_); rfl) | with_reducible refine openDesc_keep ?_ ?_
    | with_reducible refine finishDesc_keep ?_ ?_ | (with_reducible dsimp -zeta only [keep_mk])
    | with_reducible refine keep_plans ?_ ?_ | split | (with_reducible dsimp only))

theorem execPlan_keep {M : Touch} {b0 : State} {desc : Desc} {s : State} (hm : ({ fns := true, ctxs := true, tags := true, plans := true, limbo := true, attic := true, host := true } : Touch).le M = true) (hs : Keep M b0 s) :
    KeepOut M b0 (execPlan desc s) := by
  unfold execPlan
  repeat' (first
    | with_reducible assumption | with_reducible refine keepOut_next ?_ | (with_reducible intro _)
    | ((with_reducible refine touch_below hm ?_); rfl) | with_reducible refine runDesc_keep ?_ ?_ ?_
    | with_reducible refine planStart_keep ?_ ?_)

theorem admitEntry_keep {M : Touch} {b0 : State} {s : State} {c : Nat} {o : OpenDesc} {code : Nat} {aux : Nat} {a : Tick} {b : Tick} (hm : ({ fns := true, ctxs := true, tags := true, host := true } : Touch).le M = true) (hs : Keep M b0 s) :
    Keep M b0 (admitEntry s c o code aux a b) := by
  unfold admitEntry
  repeat' (first
    | with_reducible assumption | ((with_reducible refine touch_below hm ?_); rfl)
    | with_reducible refine postEntry_keep ?_ ?_ | with_reducible refine dropOpen_keep ?_ ?_)

theorem commitPlan_keep {M : Touch} {b0 : State} {s : State} {p : Plan} {o : OpenDesc} {b : PlanBody} {t0 : Nat} {bin : List Byte} (hm : ({ pwr := true, fns := true, ctxs := true, tags := true, plans := true, threads := true, pins := true, host := true } : Touch).le M = true) (hs : Keep M b0 s) :
    Keep M b0 (commitPlan s p o b t0 bin) := by
  unfold commitPlan
  repeat' (first
    | with_reducible assumption | (with_reducible exact keep_refl _ _) | with_reducible refine keepOut_next ?_
    | ((with_reducible intro x); refine keep_cut (m := M) (s := b0) x ?_ (fun _ => ?_); subst x)
    | ((with_reducible intro x); refine keep_cut_fst (m := M) (s := b0) x ?_ (fun _ => ?_); subst x)
    | ((with_reducible intro x); refine keep_cut_snd (m := M) (s := b0) x ?_ (fun _ => ?_); subst x)
    | ((with_reducible intro x); refine keep_cut_some (m := M) (s := b0) x ?_ (fun _ => ?_); subst x)
    | ((with_reducible intro x); refine keep_cut_pair (m := M) (s := b0) x ?_ (fun _ => ?_); subst x)
    | ((with_reducible intro x); refine keep_cut_run (m := M) (s := b0) x ?_ (fun _ => ?_); subst x)
    | ((with_reducible intro x); refine cell_id x ?_; subst x) | ((with_reducible intro x); refine fun_id x ?_; subst x)
    | ((with_reducible intro x); clear_value x) | (with_reducible intro _) | lift_lets
    | ((with_reducible refine touch_below hm ?_); rfl) | with_reducible refine bindPins_keep ?_ ?_
    | with_reducible refine withdrawDecided_keep ?_ ?_ | with_reducible refine admitEntry_keep ?_ ?_
    | with_reducible refine withdrawPlan_keep ?_ ?_ | (with_reducible dsimp -zeta only [keep_mk])
    | with_reducible refine keep_plans_threads_host ?_ ?_ ?_ | with_reducible refine keep_plans_threads ?_ ?_
    | with_reducible refine keep_plans ?_ ?_ | with_reducible refine keep_pwr ?_ ?_ | with_reducible refine hostWrite_ok ?_
    | with_reducible refine writeSlots_ok ?_ | with_reducible refine hostIte_ok ?_ ?_ | with_reducible refine keep_elim ?_ ?_
    | with_reducible refine keep_getD ?_ ?_ | with_reducible refine keep_foldl_fst ?_ ?_
    | with_reducible refine keep_repeat ?_ ?_ | with_reducible refine keep_foldl_snd ?_ ?_
    | with_reducible refine keep_ite ?_ ?_ | with_reducible refine keep_foldl ?_ ?_
    | with_reducible exact keep_of_fst (by assumption) (by assumption)
    | with_reducible exact keep_enter (by assumption) (by assumption)
    | with_reducible exact keepSome_elim (by assumption) (by assumption)
    | with_reducible exact keepPair_elim (by assumption) (by assumption)
    | with_reducible exact keepPair_elim2 (by assumption) (by assumption)
    | with_reducible exact keep_of_snd (by assumption) (by assumption) | split | with_reducible refine keepSome_bind ?_
    | with_reducible refine keepSome_elim ?_ (by assumption) | (cases ‹_ = some _›) | (with_reducible dsimp only))
  all_goals assumption

theorem refusePlan_keep {M : Touch} {b0 : State} {s : State} {p : Plan} {o : OpenDesc} {e : AdmitFail} (hm : ({ fns := true, ctxs := true, tags := true, plans := true, host := true } : Touch).le M = true) (hs : Keep M b0 s) :
    Keep M b0 (refusePlan s p o e) := by
  unfold refusePlan
  repeat' (first
    | with_reducible assumption | ((with_reducible intro x); refine keep_cut (m := M) (s := b0) x ?_ (fun _ => ?_); subst x)
    | ((with_reducible refine touch_below hm ?_); rfl) | with_reducible refine delPlan_keep ?_ ?_
    | with_reducible refine codecPlanGone_keep ?_ ?_ | with_reducible refine withdrawDecided_keep ?_ ?_
    | with_reducible refine admitEntry_keep ?_ ?_)

theorem planAdmission_keep {M : Touch} {b0 : State} {s : State} {k : PlanKey} (hm : ({ pwr := true, fns := true, ctxs := true, tags := true, plans := true, threads := true, pins := true, limbo := true, attic := true, host := true } : Touch).le M = true) (hs : Keep M b0 s) :
    Keep M b0 (planAdmission s k) := by
  unfold planAdmission
  repeat' (first
    | with_reducible assumption | (with_reducible intro _) | ((with_reducible refine touch_below hm ?_); rfl)
    | with_reducible refine settle_keep ?_ ?_ | with_reducible refine commitPlan_keep ?_ ?_
    | with_reducible refine refusePlan_keep ?_ ?_ | split | (with_reducible dsimp only))

theorem execPlanAdmission_keep {M : Touch} {b0 : State} {key : PlanKey} {s : State} (hm : ({ pwr := true, fns := true, ctxs := true, tags := true, plans := true, threads := true, pins := true, limbo := true, attic := true, host := true } : Touch).le M = true) (hs : Keep M b0 s) :
    KeepOut M b0 (execPlanAdmission key s) := by
  unfold execPlanAdmission
  repeat' (first
    | with_reducible assumption | with_reducible refine keepOut_next ?_ | with_reducible refine planAdmission_keep ?_ ?_)

end Sys2Proof.Laws
end

