-- ==== Sys2Proof/Laws/KeepLedger.lean ====
section
/-! SUPPORT. What each operation of Machine/Ledger.lean may change. -/
namespace Sys2Proof.Laws

open Sys2Proof Sys2Proof.Machine
set_option linter.unusedVariables false

theorem buildParts_keep {M : Touch} {b0 : State} {s : State} {p : Plan} {f : Nat} {n : Nat} {l : List (Nat × List (List Byte))} (hm : ({ fns := true, attic := true } : Touch).le M = true) (hs : Keep M b0 s) :
    Keep M b0 (buildParts s p f n l) := by
  induction l generalizing s with
  | nil => exact hs
  | cons x r ih => exact ih (modFn_keep (touch_below hm rfl) (keep_attic (touch_below hm rfl) hs))

theorem makeRecord_keep {M : Touch} {b0 : State} {s : State} {p : Plan} (hm : ({ fns := true, attic := true } : Touch).le M = true) (hs : Keep M b0 s) :
    Keep M b0 (makeRecord s p).1 := by
  unfold makeRecord
  repeat' (first
    | with_reducible assumption | ((with_reducible intro x); refine keep_cut (m := M) (s := b0) x ?_ (fun _ => ?_); subst x)
    | ((with_reducible refine touch_below hm ?_); rfl) | with_reducible refine buildParts_keep ?_ ?_
    | (with_reducible dsimp -zeta only [keep_mk]) | with_reducible refine keep_attic ?_ ?_ | split)
theorem makeRecord_keep_eq {M : Touch} {b0 : State} {s : State} {p : Plan} {w9} {u9 : State} (hm : ({ fns := true, attic := true } : Touch).le M = true) (hs : Keep M b0 s) (e9 : makeRecord s p = (u9, w9)) : Keep M b0 u9 := by
  have := makeRecord_keep (M := M) (b0 := b0) (s := s) (p := p) hm hs; rw [e9] at this; exact this

end Sys2Proof.Laws
end

