-- ==== Sys2Proof/Laws/KeepFinish.lean ====
section
/-! SUPPORT. What each operation of Machine/Finish.lean may change. -/
namespace Sys2Proof.Laws

open Sys2Proof Sys2Proof.Machine
set_option linter.unusedVariables false

theorem queueOutput_keep {M : Touch} {b0 : State} {s : State} {key : PlanKey} {step : Nat} {out : Nat} {c : Byte × Byte} (hm : ({ fns := true, ctxs := true, tags := true, plans := true, host := true } : Touch).le M = true) (hs : Keep M b0 s) :
    Keep M b0 (queueOutput s key step out c) := by
  unfold queueOutput
  repeat' (first
    | with_reducible assumption | ((with_reducible intro x); refine keep_cut (m := M) (s := b0) x ?_ (fun _ => ?_); subst x)
    | lift_lets | ((with_reducible refine touch_below hm ?_); rfl) | with_reducible refine postPlanEntry_keep ?_ ?_
    | with_reducible refine codecOutput_keep ?_ ?_ | with_reducible refine modPlan_keep ?_ ?_ | split
    | (with_reducible dsimp only))

theorem queueOutputs_keep {M : Touch} {b0 : State} {s : State} {p : Plan} {r : StepRun} (hm : ({ fns := true, ctxs := true, tags := true, plans := true, host := true } : Touch).le M = true) (hs : Keep M b0 s) :
    Keep M b0 (queueOutputs s p r) := by
  unfold queueOutputs
  repeat' (first
    | with_reducible assumption | (with_reducible intro _) | with_reducible refine queueOutput_keep ?_ ?_
    | with_reducible refine keep_foldl ?_ ?_ | split)

theorem dropPlan_keep {M : Touch} {b0 : State} {s : State} {p : Plan} (hm : ({ pwr := true, tags := true, plans := true, threads := true, preds := true, links := true } : Touch).le M = true) (hs : Keep M b0 s) :
    Keep M b0 (dropPlan s p) := by
  unfold dropPlan
  repeat' (first
    | with_reducible assumption | ((with_reducible intro x); refine keep_cut (m := M) (s := b0) x ?_ (fun _ => ?_); subst x)
    | ((with_reducible refine touch_below hm ?_); rfl) | with_reducible refine delPlan_keep ?_ ?_
    | (with_reducible dsimp -zeta only [keep_mk]) | with_reducible refine keep_pwr_tags_threads_preds_links ?_ ?_
    | (with_reducible dsimp only))

theorem looseDigests_keep {M : Touch} {b0 : State} {c : Nat} {b : PlanBody} {s : State} {l : List OutStat} (hm : ({ free := true } : Touch).le M = true) (hs : Keep M b0 s) :
    Keep M b0 (looseDigests c b s l).2 := by
  induction l generalizing s with
  | nil => exact hs
  | cons o r ih =>
    unfold looseDigests
    split
    · exact ih (freeBytes_keep (touch_below hm rfl) hs)
    · exact ih hs
theorem looseDigests_keep_eq {M : Touch} {b0 : State} {c : Nat} {b : PlanBody} {s : State} {l : List OutStat} {w9} {u9 : State} (hm : ({ free := true } : Touch).le M = true) (hs : Keep M b0 s) (e9 : looseDigests c b s l = (w9, u9)) : Keep M b0 u9 := by
  have := looseDigests_keep (M := M) (b0 := b0) (c := c) (b := b) (s := s) (l := l) hm hs; rw [e9] at this; exact this

theorem recordPlan_keep {M : Touch} {b0 : State} {s : State} {p : Plan} (hm : ({ free := true } : Touch).le M = true) (hs : Keep M b0 s) :
    Keep M b0 (recordPlan s p).2 := by
  unfold recordPlan
  repeat' (first
    | with_reducible assumption | (with_reducible exact keep_refl _ _) | with_reducible refine keepOut_next ?_
    | ((with_reducible intro x); refine keep_cut (m := M) (s := b0) x ?_ (fun _ => ?_); subst x)
    | ((with_reducible intro x); refine keep_cut_fst (m := M) (s := b0) x ?_ (fun _ => ?_); subst x)
    | ((with_reducible intro x); refine keep_cut_snd (m := M) (s := b0) x ?_ (fun _ => ?_); subst x)
    | ((with_reducible intro x); refine keep_cut_some (m := M) (s := b0) x ?_ (fun _ => ?_); subst x)
    | ((with_reducible intro x); refine keep_cut_pair (m := M) (s := b0) x ?_ (fun _ => ?_); subst x)
    | ((with_reducible intro x); refine keep_cut_run (m := M) (s := b0) x ?_ (fun _ => ?_); subst x)
    | ((with_reducible intro x); refine cell_id x ?_; subst x) | ((with_reducible intro x); refine fun_id x ?_; subst x)
    | ((with_reducible intro x); clear_value x) | (with_reducible intro _) | lift_lets
    | ((with_reducible refine touch_below hm ?_); rfl) | with_reducible refine looseDigests_keep ?_ ?_
    | with_reducible refine looseDigests_keep_eq ?_ ?_ (by assumption) | with_reducible refine keep_elim ?_ ?_
    | with_reducible refine keep_getD ?_ ?_ | with_reducible refine keep_foldl_fst ?_ ?_
    | with_reducible refine keep_repeat ?_ ?_ | with_reducible refine keep_foldl_snd ?_ ?_
    | with_reducible refine keep_ite ?_ ?_ | with_reducible refine keep_foldl ?_ ?_
    | with_reducible exact keep_of_fst (by assumption) (by assumption)
    | with_reducible exact keep_enter (by assumption) (by assumption)
    | with_reducible exact keepSome_elim (by assumption) (by assumption)
    | with_reducible exact keepPair_elim (by assumption) (by assumption)
    | with_reducible exact keepPair_elim2 (by assumption) (by assumption)
    | with_reducible exact keep_of_snd (by assumption) (by assumption) | split | with_reducible refine keepSome_bind ?_
    | with_reducible refine keepSome_elim ?_ (by assumption) | (cases ‹_ = some _›) | (with_reducible dsimp only))
theorem recordPlan_keep_eq {M : Touch} {b0 : State} {s : State} {p : Plan} {w9} {u9 : State} (hm : ({ free := true } : Touch).le M = true) (hs : Keep M b0 s) (e9 : recordPlan s p = (w9, u9)) : Keep M b0 u9 := by
  have := recordPlan_keep (M := M) (b0 := b0) (s := s) (p := p) hm hs; rw [e9] at this; exact this

theorem endPlan_keep {M : Touch} {b0 : State} {s : State} {p : Plan} (hm : ({ free := true, dev := true, pwr := true, fns := true, ctxs := true, tags := true, plans := true, threads := true, preds := true, tables := true, frames := true, decs := true, pins := true, limbo := true, flog := true, links := true, attic := true, mem := true, host := true } : Touch).le M = true) (hs : Keep M b0 s) :
    Keep M b0 (endPlan s p) := by
  unfold endPlan
  repeat' (first
    | with_reducible assumption | (with_reducible exact keep_refl _ _) | with_reducible refine keepOut_next ?_
    | ((with_reducible intro x); refine keep_cut (m := M) (s := b0) x ?_ (fun _ => ?_); subst x)
    | ((with_reducible intro x); refine keep_cut_fst (m := M) (s := b0) x ?_ (fun _ => ?_); subst x)
    | ((with_reducible intro x); refine keep_cut_snd (m := M) (s := b0) x ?_ (fun _ => ?_); subst x)
    | ((with_reducible intro x); refine keep_cut_some (m := M) (s := b0) x ?_ (fun _ => ?_); subst x)
    | ((with_reducible intro x); refine keep_cut_pair (m := M) (s := b0) x ?_ (fun _ => ?_); subst x)
    | ((with_reducible intro x); refine keep_cut_run (m := M) (s := b0) x ?_ (fun _ => ?_); subst x)
    | ((with_reducible intro x); refine cell_id x ?_; subst x) | ((with_reducible intro x); refine fun_id x ?_; subst x)
    | ((with_reducible intro x); clear_value x) | (with_reducible intro _) | lift_lets
    | ((with_reducible refine touch_below hm ?_); rfl) | with_reducible refine recordPlan_keep ?_ ?_
    | with_reducible refine recordPlan_keep_eq ?_ ?_ (by assumption) | with_reducible refine makeRecord_keep ?_ ?_
    | with_reducible refine makeRecord_keep_eq ?_ ?_ (by assumption) | with_reducible refine postPlanEntry_keep ?_ ?_
    | with_reducible refine drive_keep ?_ ?_ | with_reducible refine settle_keep ?_ ?_
    | with_reducible refine planEnding_keep ?_ ?_ | with_reducible refine endPins_keep ?_ ?_
    | with_reducible refine dropPlan_keep ?_ ?_ | with_reducible refine keep_elim ?_ ?_
    | with_reducible refine keep_getD ?_ ?_ | with_reducible refine keep_foldl_fst ?_ ?_
    | with_reducible refine keep_repeat ?_ ?_ | with_reducible refine keep_foldl_snd ?_ ?_
    | with_reducible refine keep_ite ?_ ?_ | with_reducible refine keep_foldl ?_ ?_
    | with_reducible exact keep_of_fst (by assumption) (by assumption)
    | with_reducible exact keep_enter (by assumption) (by assumption)
    | with_reducible exact keepSome_elim (by assumption) (by assumption)
    | with_reducible exact keepPair_elim (by assumption) (by assumption)
    | with_reducible exact keepPair_elim2 (by assumption) (by assumption)
    | with_reducible exact keep_of_snd (by assumption) (by assumption) | split | with_reducible refine keepSome_bind ?_
    | with_reducible refine keepSome_elim ?_ (by assumption) | (cases ‹_ = some _›) | (with_reducible dsimp only))

theorem settleEnd_keep {M : Touch} {b0 : State} {s : State} {key : PlanKey} (hm : ({ free := true, dev := true, pwr := true, fns := true, ctxs := true, tags := true, plans := true, threads := true, preds := true, tables := true, frames := true, decs := true, pins := true, limbo := true, flog := true, links := true, attic := true, mem := true, host := true } : Touch).le M = true) (hs : Keep M b0 s) :
    Keep M b0 (settleEnd s key) := by
  unfold settleEnd
  repeat' (first
    | with_reducible assumption | (with_reducible intro _) | with_reducible refine endPlan_keep ?_ ?_ | split)

theorem spoilResults_keep {M : Touch} {b0 : State} {s : State} {p : Plan} (hm : ({ free := true, mem := true } : Touch).le M = true) (hs : Keep M b0 s) :
    Keep M b0 (spoilResults s p) := by
  unfold spoilResults
  repeat' (first
    | with_reducible assumption | (with_reducible exact keep_refl _ _) | with_reducible refine keepOut_next ?_
    | ((with_reducible intro x); refine keep_cut (m := M) (s := b0) x ?_ (fun _ => ?_); subst x)
    | ((with_reducible intro x); refine keep_cut_fst (m := M) (s := b0) x ?_ (fun _ => ?_); subst x)
    | ((with_reducible intro x); refine keep_cut_snd (m := M) (s := b0) x ?_ (fun _ => ?_); subst x)
    | ((with_reducible intro x); refine keep_cut_some (m := M) (s := b0) x ?_ (fun _ => ?_); subst x)
    | ((with_reducible intro x); refine keep_cut_pair (m := M) (s := b0) x ?_ (fun _ => ?_); subst x)
    | ((with_reducible intro x); refine keep_cut_run (m := M) (s := b0) x ?_ (fun _ => ?_); subst x)
    | ((with_reducible intro x); refine cell_id x ?_; subst x) | ((with_reducible intro x); refine fun_id x ?_; subst x)
    | ((with_reducible intro x); clear_value x) | (with_reducible intro _) | lift_lets
    | ((with_reducible refine touch_below hm ?_); rfl) | with_reducible refine freeBytes_keep ?_ ?_
    | with_reducible refine freeBytes_keep_eq ?_ ?_ (by assumption) | with_reducible refine writeVa_keep ?_ ?_
    | with_reducible refine keep_elim ?_ ?_ | with_reducible refine keep_getD ?_ ?_
    | with_reducible refine keep_foldl_fst ?_ ?_ | with_reducible refine keep_repeat ?_ ?_
    | with_reducible refine keep_foldl_snd ?_ ?_ | with_reducible refine keep_ite ?_ ?_
    | with_reducible refine keep_foldl ?_ ?_ | with_reducible exact keep_of_fst (by assumption) (by assumption)
    | with_reducible exact keep_enter (by assumption) (by assumption)
    | with_reducible exact keepSome_elim (by assumption) (by assumption)
    | with_reducible exact keepPair_elim (by assumption) (by assumption)
    | with_reducible exact keepPair_elim2 (by assumption) (by assumption)
    | with_reducible exact keep_of_snd (by assumption) (by assumption) | split | with_reducible refine keepSome_bind ?_
    | with_reducible refine keepSome_elim ?_ (by assumption) | (cases ‹_ = some _›) | (with_reducible dsimp only))

theorem finishStep_keep {M : Touch} {b0 : State} {s : State} {key : PlanKey} (hm : ({ free := true, dev := true, pwr := true, fns := true, ctxs := true, tags := true, plans := true, threads := true, preds := true, tables := true, frames := true, decs := true, pins := true, limbo := true, flog := true, links := true, attic := true, mem := true, host := true } : Touch).le M = true) (hs : Keep M b0 s) :
    Keep M b0 (finishStep s key) := by
  unfold finishStep
  repeat' (first
    | with_reducible assumption | (with_reducible exact keep_refl _ _) | with_reducible refine keepOut_next ?_
    | ((with_reducible intro x); refine keep_cut (m := M) (s := b0) x ?_ (fun _ => ?_); subst x)
    | ((with_reducible intro x); refine keep_cut_fst (m := M) (s := b0) x ?_ (fun _ => ?_); subst x)
    | ((with_reducible intro x); refine keep_cut_snd (m := M) (s := b0) x ?_ (fun _ => ?_); subst x)
    | ((with_reducible intro x); refine keep_cut_some (m := M) (s := b0) x ?_ (fun _ => ?_); subst x)
    | ((with_reducible intro x); refine keep_cut_pair (m := M) (s := b0) x ?_ (fun _ => ?_); subst x)
    | ((with_reducible intro x); refine keep_cut_run (m := M) (s := b0) x ?_ (fun _ => ?_); subst x)
    | ((with_reducible intro x); refine cell_id x ?_; subst x) | ((with_reducible intro x); refine fun_id x ?_; subst x)
    | ((with_reducible intro x); clear_value x) | (with_reducible intro _) | lift_lets
    | ((with_reducible refine touch_below hm ?_); rfl) | with_reducible refine spoilResults_keep ?_ ?_
    | with_reducible refine modPlan_keep ?_ ?_ | with_reducible refine settleEnd_keep ?_ ?_
    | with_reducible refine queueOutputs_keep ?_ ?_ | with_reducible refine keep_elim ?_ ?_
    | with_reducible refine keep_getD ?_ ?_ | with_reducible refine keep_foldl_fst ?_ ?_
    | with_reducible refine keep_repeat ?_ ?_ | with_reducible refine keep_foldl_snd ?_ ?_
    | with_reducible refine keep_ite ?_ ?_ | with_reducible refine keep_foldl ?_ ?_
    | with_reducible exact keep_of_fst (by assumption) (by assumption)
    | with_reducible exact keep_enter (by assumption) (by assumption)
    | with_reducible exact keepSome_elim (by assumption) (by assumption)
    | with_reducible exact keepPair_elim (by assumption) (by assumption)
    | with_reducible exact keepPair_elim2 (by assumption) (by assumption)
    | with_reducible exact keep_of_snd (by assumption) (by assumption) | split | with_reducible refine keepSome_bind ?_
    | with_reducible refine keepSome_elim ?_ (by assumption) | (cases ‹_ = some _›) | (with_reducible dsimp only))

theorem execStepFinish_keep {M : Touch} {b0 : State} {key : PlanKey} {s : State} (hm : ({ free := true, dev := true, pwr := true, fns := true, ctxs := true, tags := true, plans := true, threads := true, preds := true, tables := true, frames := true, decs := true, pins := true, limbo := true, flog := true, links := true, attic := true, mem := true, host := true } : Touch).le M = true) (hs : Keep M b0 s) :
    KeepOut M b0 (execStepFinish key s) := by
  unfold execStepFinish
  repeat' (first
    | with_reducible assumption | with_reducible refine keepOut_next ?_ | (with_reducible intro _)
    | with_reducible refine finishStep_keep ?_ ?_ | split)

end Sys2Proof.Laws
end

