-- ==== Sys2Proof/Laws/KeepMiss.lean ====
section
/-! SUPPORT. What each operation of Machine/Miss.lean may change. -/
namespace Sys2Proof.Laws

open Sys2Proof Sys2Proof.Machine
set_option linter.unusedVariables false

theorem smear_keep {M : Touch} {b0 : State} {s : State} {q : Tid × Range} (hm : ({ free := true, mem := true } : Touch).le M = true) (hs : Keep M b0 s) :
    Keep M b0 (smear s q) := by
  unfold smear
  repeat' (first
    | with_reducible assumption | (with_reducible exact keep_refl _ _) | with_reducible refine keepOut_next ?_
    | ((with_reducible intro x); refine keep_cut (m := M) (s := b0) x ?_ (fun _ => ?_); subst x)
    | ((with_reducible intro x); refine keep_cut_fst (m := M) (s := b0) x ?_ (fun _ => ?_); subst x)
    | ((with_reducible intro x); refine keep_cut_snd (m := M) (s := b0) x ?_ (fun _ => ?_); subst x)
    | ((with_reducible intro x); refine keep_cut_some (m := M) (s := b0) x ?_ (fun _ => ?_); subst x)
    | ((with_reducible intro x); refine keep_cut_pair (m := M) (s := b0) x ?_ (fun _ => ?_); subst x)
    | ((with_reducible intro x); refine keep_cut_run (m := M) (s := b0) x ?_ (fun _ => ?_); subst x)
    | ((with_reducible intro x); refine cell_id x ?_; subst x) | ((with_reducible intro x); refine fun_id x ?_; subst x)
    | ((with_reducible intro x); clear_value x) | (with_reducible intro _) | lift_lets
    | ((with_reducible refine touch_below hm ?_); rfl) | with_reducible refine freeWindow_keep ?_ ?_
    | with_reducible refine freeBytes_keep ?_ ?_ | with_reducible refine freeBytes_keep_eq ?_ ?_ (by assumption)
    | with_reducible refine writeVa_keep ?_ ?_ | (with_reducible dsimp -zeta only [keep_mk])
    | with_reducible refine keep_mem ?_ ?_ ?_ | with_reducible refine writeTile_ok ?_ | with_reducible refine mmaMem_ok ?_
    | with_reducible refine zeroTiles_ok ?_ | with_reducible refine accOutMem_ok ?_ | with_reducible refine nestMmas_ok ?_
    | with_reducible refine nestOuts_ok ?_ | with_reducible refine nestRun_ok ?_ | with_reducible refine nestEmpty_ok ?_
    | with_reducible refine landImage_ok ?_ | with_reducible refine switchBanks_ok ?_ | with_reducible refine scrub_ok ?_
    | with_reducible refine writeVaMem_ok ?_ | with_reducible refine runIn_ok ?_ | with_reducible refine runOut_ok ?_
    | with_reducible refine statusWrite_ok ?_ | with_reducible refine lateZero_ok ?_ | with_reducible refine expandGroup_ok ?_
    | with_reducible refine expandBlock_ok ?_ | with_reducible refine landBlock_ok ?_ | with_reducible refine landBlocks_ok ?_
    | with_reducible refine wipe_ok ?_ | with_reducible refine clearWindows_ok ?_ | with_reducible refine firstWindows_ok ?_
    | with_reducible refine memPut_ok ?_ | with_reducible refine memWrite_ok ?_ | with_reducible refine memFilter_ok ?_
    | with_reducible refine memFold_ok ?_ ?_ | with_reducible refine memIte_ok ?_ ?_ | with_reducible refine keep_elim ?_ ?_
    | with_reducible refine keep_getD ?_ ?_ | with_reducible refine keep_foldl_fst ?_ ?_
    | with_reducible refine keep_repeat ?_ ?_ | with_reducible refine keep_foldl_snd ?_ ?_
    | with_reducible refine keep_ite ?_ ?_ | with_reducible refine keep_foldl ?_ ?_
    | with_reducible exact keep_of_fst (by assumption) (by assumption)
    | with_reducible exact keep_enter (by assumption) (by assumption)
    | with_reducible exact keepSome_elim (by assumption) (by assumption)
    | with_reducible exact keepPair_elim (by assumption) (by assumption)
    | with_reducible exact keepPair_elim2 (by assumption) (by assumption)
    | with_reducible exact keep_of_snd (by assumption) (by assumption) | split | with_reducible refine keepSome_bind ?_
    | with_reducible refine keepSome_elim ?_ (by assumption) | (cases ‹_ = some _›) | (with_reducible dsimp only))
  all_goals assumption

theorem closeBound_keep {M : Touch} {b0 : State} {s : State} {key : PlanKey} {k : Nat} {n : Nat} (hm : ({ threads := true, links := true } : Touch).le M = true) (hs : Keep M b0 s) :
    Keep M b0 (closeBound s key k n) := by
  unfold closeBound
  repeat' (first
    | with_reducible assumption | (with_reducible exact keep_refl _ _) | with_reducible refine keepOut_next ?_
    | ((with_reducible intro x); refine keep_cut (m := M) (s := b0) x ?_ (fun _ => ?_); subst x)
    | ((with_reducible intro x); refine keep_cut_fst (m := M) (s := b0) x ?_ (fun _ => ?_); subst x)
    | ((with_reducible intro x); refine keep_cut_snd (m := M) (s := b0) x ?_ (fun _ => ?_); subst x)
    | ((with_reducible intro x); refine keep_cut_some (m := M) (s := b0) x ?_ (fun _ => ?_); subst x)
    | ((with_reducible intro x); refine keep_cut_pair (m := M) (s := b0) x ?_ (fun _ => ?_); subst x)
    | ((with_reducible intro x); refine keep_cut_run (m := M) (s := b0) x ?_ (fun _ => ?_); subst x)
    | ((with_reducible intro x); refine cell_id x ?_; subst x) | ((with_reducible intro x); refine fun_id x ?_; subst x)
    | ((with_reducible intro x); clear_value x) | (with_reducible intro _) | lift_lets
    | ((with_reducible refine touch_below hm ?_); rfl) | (with_reducible dsimp -zeta only [keep_mk])
    | with_reducible refine keep_threads ?_ ?_ | with_reducible refine keep_links ?_ ?_
    | with_reducible refine keep_elim ?_ ?_ | with_reducible refine keep_getD ?_ ?_
    | with_reducible refine keep_foldl_fst ?_ ?_ | with_reducible refine keep_repeat ?_ ?_
    | with_reducible refine keep_foldl_snd ?_ ?_ | with_reducible refine keep_ite ?_ ?_
    | with_reducible refine keep_foldl ?_ ?_ | with_reducible exact keep_of_fst (by assumption) (by assumption)
    | with_reducible exact keep_enter (by assumption) (by assumption)
    | with_reducible exact keepSome_elim (by assumption) (by assumption)
    | with_reducible exact keepPair_elim (by assumption) (by assumption)
    | with_reducible exact keepPair_elim2 (by assumption) (by assumption)
    | with_reducible exact keep_of_snd (by assumption) (by assumption) | split | with_reducible refine keepSome_bind ?_
    | with_reducible refine keepSome_elim ?_ (by assumption) | (cases ‹_ = some _›) | (with_reducible dsimp only))

theorem closeStep_keep {M : Touch} {b0 : State} {s : State} {key : PlanKey} {k : Nat} {n : Nat} (hm : ({ plans := true, threads := true, preds := true, tables := true, frames := true, decs := true, links := true } : Touch).le M = true) (hs : Keep M b0 s) :
    Keep M b0 (closeStep s key k n) := by
  unfold closeStep
  repeat' (first
    | with_reducible assumption | (with_reducible exact keep_refl _ _) | with_reducible refine keepOut_next ?_
    | ((with_reducible intro x); refine keep_cut (m := M) (s := b0) x ?_ (fun _ => ?_); subst x)
    | ((with_reducible intro x); refine keep_cut_fst (m := M) (s := b0) x ?_ (fun _ => ?_); subst x)
    | ((with_reducible intro x); refine keep_cut_snd (m := M) (s := b0) x ?_ (fun _ => ?_); subst x)
    | ((with_reducible intro x); refine keep_cut_some (m := M) (s := b0) x ?_ (fun _ => ?_); subst x)
    | ((with_reducible intro x); refine keep_cut_pair (m := M) (s := b0) x ?_ (fun _ => ?_); subst x)
    | ((with_reducible intro x); refine keep_cut_run (m := M) (s := b0) x ?_ (fun _ => ?_); subst x)
    | ((with_reducible intro x); refine cell_id x ?_; subst x) | ((with_reducible intro x); refine fun_id x ?_; subst x)
    | ((with_reducible intro x); clear_value x) | (with_reducible intro _) | lift_lets
    | ((with_reducible refine touch_below hm ?_); rfl) | with_reducible refine closeBound_keep ?_ ?_
    | with_reducible refine closeSessions_keep ?_ ?_ | (with_reducible dsimp -zeta only [keep_mk])
    | with_reducible refine keep_preds_links ?_ ?_ | with_reducible refine keep_preds ?_ ?_
    | with_reducible refine keep_elim ?_ ?_ | with_reducible refine keep_getD ?_ ?_
    | with_reducible refine keep_foldl_fst ?_ ?_ | with_reducible refine keep_repeat ?_ ?_
    | with_reducible refine keep_foldl_snd ?_ ?_ | with_reducible refine keep_ite ?_ ?_
    | with_reducible refine keep_foldl ?_ ?_ | with_reducible exact keep_of_fst (by assumption) (by assumption)
    | with_reducible exact keep_enter (by assumption) (by assumption)
    | with_reducible exact keepSome_elim (by assumption) (by assumption)
    | with_reducible exact keepPair_elim (by assumption) (by assumption)
    | with_reducible exact keepPair_elim2 (by assumption) (by assumption)
    | with_reducible exact keep_of_snd (by assumption) (by assumption) | split | with_reducible refine keepSome_bind ?_
    | with_reducible refine keepSome_elim ?_ (by assumption) | (cases ‹_ = some _›) | (with_reducible dsimp only))

theorem quitRoom_keep {M : Touch} {b0 : State} {s : State} {t : Tid} (hm : ({ free := true, threads := true } : Touch).le M = true) (hs : Keep M b0 s) :
    Keep M b0 (quitRoom s t) := by
  unfold quitRoom
  repeat' (first
    | with_reducible assumption | ((with_reducible refine touch_below hm ?_); rfl) | with_reducible refine freeBit_keep ?_ ?_
    | with_reducible refine modTh_keep ?_ ?_)

theorem abandon_keep {M : Touch} {b0 : State} {s : State} {key : PlanKey} (hm : ({ free := true, plans := true, threads := true, preds := true, tables := true, frames := true, decs := true, links := true, mem := true } : Touch).le M = true) (hs : Keep M b0 s) :
    Keep M b0 (abandon s key) := by
  unfold abandon
  repeat' (first
    | with_reducible assumption | ((with_reducible intro x); refine keep_cut (m := M) (s := b0) x ?_ (fun _ => ?_); subst x)
    | (with_reducible intro _) | ((with_reducible refine touch_below hm ?_); rfl) | with_reducible refine smear_keep ?_ ?_
    | with_reducible refine quitRoom_keep ?_ ?_ | with_reducible refine modPlan_keep ?_ ?_
    | with_reducible refine closeStep_keep ?_ ?_ | with_reducible refine keep_foldl ?_ ?_ | split)

theorem spoil_keep {M : Touch} {b0 : State} {s : State} {key : PlanKey} (hm : ({ free := true, plans := true, mem := true } : Touch).le M = true) (hs : Keep M b0 s) :
    Keep M b0 (spoil s key) := by
  unfold spoil
  repeat' (first
    | with_reducible assumption | ((with_reducible intro x); refine keep_cut (m := M) (s := b0) x ?_ (fun _ => ?_); subst x)
    | (with_reducible intro _) | ((with_reducible refine touch_below hm ?_); rfl) | with_reducible refine smear_keep ?_ ?_
    | with_reducible refine modPlan_keep ?_ ?_ | with_reducible refine freeBit_keep ?_ ?_
    | with_reducible refine keep_foldl ?_ ?_ | split | (with_reducible dsimp only))

theorem freeze_keep {M : Touch} {b0 : State} {s : State} {key : PlanKey} (hm : ({ free := true, plans := true, threads := true, preds := true, tables := true, frames := true, decs := true, links := true, mem := true } : Touch).le M = true) (hs : Keep M b0 s) :
    Keep M b0 (freeze s key) := by
  unfold freeze
  repeat' (first
    | with_reducible assumption | ((with_reducible intro x); refine keep_cut (m := M) (s := b0) x ?_ (fun _ => ?_); subst x)
    | ((with_reducible refine touch_below hm ?_); rfl) | with_reducible refine closeStep_keep ?_ ?_
    | with_reducible refine spoil_keep ?_ ?_ | with_reducible refine modPlan_keep ?_ ?_
    | (with_reducible dsimp -zeta only [keep_mk]) | with_reducible refine keep_threads ?_ ?_ | split)

theorem slideBy_keep {M : Touch} {b0 : State} {s : State} {u0 : Nat} {t : Nat} {d : Nat} (hm : ({ free := true, plans := true, threads := true, preds := true, tables := true, frames := true, decs := true, resumeAt := true, links := true, mem := true } : Touch).le M = true) (hs : Keep M b0 s) :
    Keep M b0 (slideBy s u0 t d) := by
  unfold slideBy
  repeat' (first
    | with_reducible assumption | ((with_reducible intro x); refine keep_cut (m := M) (s := b0) x ?_ (fun _ => ?_); subst x)
    | (with_reducible intro _) | ((with_reducible refine touch_below hm ?_); rfl) | with_reducible refine freeze_keep ?_ ?_
    | (with_reducible dsimp -zeta only [keep_mk]) | with_reducible refine keep_plans_resumeAt ?_ ?_
    | with_reducible refine keep_foldl ?_ ?_ | split | (with_reducible dsimp only))

theorem missRecords_keep {M : Touch} {b0 : State} {s : State} {key : PlanKey} {k : Nat} {rooms : List Nat} {cause : Byte} {action : Nat} (hm : ({ dev := true, plans := true, flog := true, links := true } : Touch).le M = true) (hs : Keep M b0 s) :
    Keep M b0 (missRecords s key k rooms cause action) := by
  unfold missRecords
  repeat' (first
    | with_reducible assumption | (with_reducible intro _) | with_reducible refine raisePlan_keep ?_ ?_
    | with_reducible refine keep_foldl ?_ ?_ | split | (with_reducible dsimp only))

theorem countMiss_keep {M : Touch} {b0 : State} {s : State} {c : Nat} (hm : ({ ctxs := true, flog := true } : Touch).le M = true) (hs : Keep M b0 s) :
    Keep M b0 (countMiss s c) := by
  unfold countMiss
  repeat' (first
    | with_reducible assumption | ((with_reducible intro x); refine keep_cut (m := M) (s := b0) x ?_ (fun _ => ?_); subst x)
    | ((with_reducible refine touch_below hm ?_); rfl) | with_reducible refine modCtx_keep ?_ ?_
    | (with_reducible dsimp -zeta only [keep_mk]) | with_reducible refine keep_flog ?_ ?_ | (with_reducible dsimp only))

theorem stopPlan_keep {M : Touch} {b0 : State} {s : State} {key : PlanKey} {code : Byte} {cause : Byte} (hm : ({ free := true, plans := true, threads := true, preds := true, tables := true, frames := true, decs := true, links := true, mem := true } : Touch).le M = true) (hs : Keep M b0 s) :
    Keep M b0 (stopPlan s key code cause) := by
  unfold stopPlan
  repeat' (first
    | with_reducible assumption | ((with_reducible refine touch_below hm ?_); rfl) | with_reducible refine modPlan_keep ?_ ?_
    | with_reducible refine abandon_keep ?_ ?_)

theorem degradeItem_keep {M : Touch} {b0 : State} {s : State} {key : PlanKey} {j : Nat} (hm : ({ plans := true } : Touch).le M = true) (hs : Keep M b0 s) :
    Keep M b0 (degradeItem s key j) := by
  unfold degradeItem
  repeat' (first | with_reducible assumption | with_reducible refine addItem_keep ?_ ?_)

theorem applyPolicy_keep {M : Touch} {b0 : State} {s : State} {p : Plan} {k : Nat} {live : Bool} {cause : Byte} {pol : Policy} (hm : ({ free := true, plans := true, threads := true, preds := true, tables := true, frames := true, decs := true, links := true, mem := true } : Touch).le M = true) (hs : Keep M b0 s) :
    Keep M b0 (applyPolicy s p k live cause pol) := by
  unfold applyPolicy
  repeat' (first
    | with_reducible assumption | (with_reducible intro _) | ((with_reducible refine touch_below hm ?_); rfl)
    | with_reducible refine stopPlan_keep ?_ ?_ | with_reducible refine modPlan_keep ?_ ?_
    | with_reducible refine degradeItem_keep ?_ ?_ | with_reducible refine abandon_keep ?_ ?_ | split)

theorem missStep_keep {M : Touch} {b0 : State} {s : State} {key : PlanKey} {k : Nat} {live : Bool} {why : Option Byte} (hm : ({ free := true, dev := true, ctxs := true, plans := true, threads := true, preds := true, tables := true, frames := true, decs := true, flog := true, links := true, mem := true } : Touch).le M = true) (hs : Keep M b0 s) :
    Keep M b0 (missStep s key k live why) := by
  unfold missStep
  repeat' (first
    | with_reducible assumption | ((with_reducible intro x); refine keep_cut (m := M) (s := b0) x ?_ (fun _ => ?_); subst x)
    | (with_reducible intro _) | ((with_reducible refine touch_below hm ?_); rfl)
    | with_reducible refine missRecords_keep ?_ ?_ | with_reducible refine countMiss_keep ?_ ?_
    | with_reducible refine modPlan_keep ?_ ?_ | with_reducible refine applyPolicy_keep ?_ ?_ | split)

theorem watchPlan_keep {M : Touch} {b0 : State} {s : State} {n : Nat} {key : PlanKey} {why : Option Byte} (hm : ({ free := true, dev := true, ctxs := true, plans := true, threads := true, preds := true, tables := true, frames := true, decs := true, flog := true, links := true, mem := true } : Touch).le M = true) (hs : Keep M b0 s) :
    Keep M b0 (watchPlan s n key why) := by
  unfold watchPlan
  repeat' (first
    | with_reducible assumption | (with_reducible intro _) | with_reducible refine missStep_keep ?_ ?_
    | with_reducible refine keep_foldl ?_ ?_ | split)

theorem stopOutputs_keep {M : Touch} {b0 : State} {s : State} {p : Plan} (hm : ({ fns := true, ctxs := true, tags := true, plans := true, host := true } : Touch).le M = true) (hs : Keep M b0 s) :
    Keep M b0 (stopOutputs s p) := by
  unfold stopOutputs
  repeat' (first
    | with_reducible assumption | ((with_reducible intro x); refine keep_cut (m := M) (s := b0) x ?_ (fun _ => ?_); subst x)
    | (with_reducible intro _) | ((with_reducible refine touch_below hm ?_); rfl)
    | with_reducible refine queueOutput_keep ?_ ?_ | with_reducible refine modPlan_keep ?_ ?_
    | with_reducible refine keep_foldl ?_ ?_ | split)

theorem finishStops_keep {M : Touch} {b0 : State} {s : State} (hm : ({ free := true, dev := true, pwr := true, fns := true, ctxs := true, tags := true, plans := true, threads := true, preds := true, tables := true, frames := true, decs := true, pins := true, limbo := true, flog := true, links := true, attic := true, mem := true, host := true } : Touch).le M = true) (hs : Keep M b0 s) :
    Keep M b0 (finishStops s) := by
  unfold finishStops
  repeat' (first
    | with_reducible assumption | (with_reducible exact keep_refl _ _) | with_reducible refine keepOut_next ?_
    | ((with_reducible intro x); refine keep_cut (m := M) (s := b0) x ?_ (fun _ => ?_); subst x)
    | ((with_reducible intro x); refine keep_cut_fst (m := M) (s := b0) x ?_ (fun _ => ?_); subst x)
    | ((with_reducible intro x); refine keep_cut_snd (m := M) (s := b0) x ?_ (fun _ => ?_); subst x)
    | ((with_reducible intro x); refine keep_cut_some (m := M) (s := b0) x ?_ (fun _ => ?_); subst x)
    | ((with_reducible intro x); refine keep_cut_pair (m := M) (s := b0) x ?_ (fun _ => ?_); subst x)
    | ((with_reducible intro x); refine keep_cut_run (m := M) (s := b0) x ?_ (fun _ => ?_); subst x)
    | ((with_reducible intro x); refine cell_id x ?_; subst x) | ((with_reducible intro x); refine fun_id x ?_; subst x)
    | ((with_reducible intro x); clear_value x) | (with_reducible intro _) | lift_lets
    | ((with_reducible refine touch_below hm ?_); rfl) | with_reducible refine stopOutputs_keep ?_ ?_
    | with_reducible refine settleEnd_keep ?_ ?_ | with_reducible refine keep_elim ?_ ?_
    | with_reducible refine keep_getD ?_ ?_ | with_reducible refine keep_foldl_fst ?_ ?_
    | with_reducible refine keep_repeat ?_ ?_ | with_reducible refine keep_foldl_snd ?_ ?_
    | with_reducible refine keep_ite ?_ ?_ | with_reducible refine keep_foldl ?_ ?_
    | with_reducible exact keep_of_fst (by assumption) (by assumption)
    | with_reducible exact keep_enter (by assumption) (by assumption)
    | with_reducible exact keepSome_elim (by assumption) (by assumption)
    | with_reducible exact keepPair_elim (by assumption) (by assumption)
    | with_reducible exact keepPair_elim2 (by assumption) (by assumption)
    | with_reducible exact keep_of_snd (by assumption) (by assumption) | split | with_reducible refine keepSome_bind ?_
    | with_reducible refine keepSome_elim ?_ (by assumption) | (cases ‹_ = some _›) | (with_reducible dsimp only))

end Sys2Proof.Laws
end

