-- ==== Sys2Proof/Laws/KeepRelease.lean ====
section
/-! SUPPORT. What each operation of Machine/Release.lean may change. -/
namespace Sys2Proof.Laws

open Sys2Proof Sys2Proof.Machine
set_option linter.unusedVariables false

theorem decidePlanTick_keep {M : Touch} {b0 : State} {s : State} {n : Nat} {key : PlanKey} (hm : ({ free := true, dev := true, ctxs := true, plans := true, threads := true, preds := true, tables := true, frames := true, decs := true, flog := true, slideP := true, links := true, mem := true } : Touch).le M = true) (hs : Keep M b0 s) :
    Keep M b0 (decidePlanTick s n key) := by
  unfold decidePlanTick
  repeat' (first
    | with_reducible assumption | (with_reducible intro _) | ((with_reducible refine touch_below hm ?_); rfl)
    | with_reducible refine stopPlan_keep ?_ ?_ | with_reducible refine freeBit_keep ?_ ?_
    | with_reducible refine freeze_keep ?_ ?_ | with_reducible refine watchPlan_keep ?_ ?_
    | (with_reducible dsimp -zeta only [keep_mk]) | with_reducible refine keep_slideP ?_ ?_ | split)

theorem watch_keep {M : Touch} {b0 : State} {s : State} {n : Nat} (hm : ({ free := true, dev := true, ctxs := true, plans := true, threads := true, preds := true, tables := true, frames := true, decs := true, flog := true, slideP := true, links := true, mem := true } : Touch).le M = true) (hs : Keep M b0 s) :
    Keep M b0 (watch s n) := by
  unfold watch
  repeat' (first
    | with_reducible assumption | (with_reducible intro _) | with_reducible refine decidePlanTick_keep ?_ ?_
    | with_reducible refine keep_foldl ?_ ?_)

theorem stopWithdrawn_keep {M : Touch} {b0 : State} {s : State} (hm : ({ free := true, plans := true, threads := true, preds := true, tables := true, frames := true, decs := true, links := true, mem := true } : Touch).le M = true) (hs : Keep M b0 s) :
    Keep M b0 (stopWithdrawn s) := by
  unfold stopWithdrawn
  repeat' (first
    | with_reducible assumption | (with_reducible intro _) | with_reducible refine stopPlan_keep ?_ ?_
    | with_reducible refine keep_foldl ?_ ?_ | split)

theorem loadImage_keep {M : Touch} {b0 : State} {s : State} {p : Plan} {im : ImageRec} (hm : ({ free := true } : Touch).le M = true) (hs : Keep M b0 s) :
    Keep M b0 (loadImage s p im).2 := by
  unfold loadImage
  repeat' (first
    | with_reducible assumption | (with_reducible exact keep_refl _ _) | with_reducible refine keepOut_next ?_
    | ((with_reducible intro x); refine keep_cut (m := M) (s := b0) x ?_ (fun _ => ?_); subst x)
    | ((with_reducible intro x); refine keep_cut_fst (m := M) (s := b0) x ?_ (fun _ => ?_); subst x)
    | ((with_reducible intro x); refine keep_cut_snd (m := M) (s := b0) x ?_ (fun _ => ?_); subst x)
    | ((with_reducible intro x); refine keep_cut_some (m := M) (s := b0) x ?_ (fun _ => ?_); subst x)
    | ((with_reducible intro x); refine keep_cut_pair (m := M) (s := b0) x ?_ (fun _ => ?_); subst x)
    | ((with_reducible intro x); refine keep_cut_run (m := M) (s := b0) x ?_ (fun _ => ?_); subst x)
    | ((with_reducible intro x); refine cell_id x ?_; subst x) | ((with_reducible intro x); refine fun_id x ?_; subst x)
    | ((with_reducible intro x); clear_value x) | (with_reducible intro _) | lift_lets
    | ((with_reducible refine touch_below hm ?_); rfl) | with_reducible refine freeBytes_keep ?_ ?_
    | with_reducible refine freeBytes_keep_eq ?_ ?_ (by assumption) | with_reducible refine keep_elim ?_ ?_
    | with_reducible refine keep_getD ?_ ?_ | with_reducible refine keep_foldl_fst ?_ ?_
    | with_reducible refine keep_repeat ?_ ?_ | with_reducible refine keep_foldl_snd ?_ ?_
    | with_reducible refine keep_ite ?_ ?_ | with_reducible refine keep_foldl ?_ ?_
    | with_reducible exact keep_of_fst (by assumption) (by assumption)
    | with_reducible exact keep_enter (by assumption) (by assumption)
    | with_reducible exact keepSome_elim (by assumption) (by assumption)
    | with_reducible exact keepPair_elim (by assumption) (by assumption)
    | with_reducible exact keepPair_elim2 (by assumption) (by assumption)
    | with_reducible exact keep_of_snd (by assumption) (by assumption) | split | with_reducible refine keepSome_bind ?_
    | with_reducible refine keepSome_elim ?_ (by assumption) | (cases ‹_ = some _›) | (with_reducible dsimp only))
theorem loadImage_keep_eq {M : Touch} {b0 : State} {s : State} {p : Plan} {im : ImageRec} {w9} {u9 : State} (hm : ({ free := true } : Touch).le M = true) (hs : Keep M b0 s) (e9 : loadImage s p im = (w9, u9)) : Keep M b0 u9 := by
  have := loadImage_keep (M := M) (b0 := b0) (s := s) (p := p) (im := im) hm hs; rw [e9] at this; exact this

theorem firstLoad_keep {M : Touch} {b0 : State} {s : State} {p : Plan} {b : PlanBody} {r : RoomRec} {im : ImageRec} (hm : ({ free := true, mem := true } : Touch).le M = true) (hs : Keep M b0 s) :
    Keep M b0 (firstLoad s p b r im) := by
  unfold firstLoad
  repeat' (first
    | with_reducible assumption | (with_reducible exact keep_refl _ _) | with_reducible refine keepOut_next ?_
    | ((with_reducible intro x); refine keep_cut (m := M) (s := b0) x ?_ (fun _ => ?_); subst x)
    | ((with_reducible intro x); refine keep_cut_fst (m := M) (s := b0) x ?_ (fun _ => ?_); subst x)
    | ((with_reducible intro x); refine keep_cut_snd (m := M) (s := b0) x ?_ (fun _ => ?_); subst x)
    | ((with_reducible intro x); refine keep_cut_some (m := M) (s := b0) x ?_ (fun _ => ?_); subst x)
    | ((with_reducible intro x); refine keep_cut_pair (m := M) (s := b0) x ?_ (fun _ => ?_); subst x)
    | ((with_reducible intro x); refine keep_cut_run (m := M) (s := b0) x ?_ (fun _ => ?_); subst x)
    | ((with_reducible intro x); refine cell_id x ?_; subst x) | ((with_reducible intro x); refine fun_id x ?_; subst x)
    | ((with_reducible intro x); clear_value x) | (with_reducible intro _) | lift_lets
    | ((with_reducible refine touch_below hm ?_); rfl) | with_reducible refine loadImage_keep ?_ ?_
    | with_reducible refine loadImage_keep_eq ?_ ?_ (by assumption) | (with_reducible dsimp -zeta only [keep_mk])
    | with_reducible refine keep_mem ?_ ?_ ?_ | with_reducible refine writeTile_ok ?_ | with_reducible refine mmaMem_ok ?_
    | with_reducible refine zeroTiles_ok ?_ | with_reducible refine accOutMem_ok ?_ | with_reducible refine nestMmas_ok ?_
    | with_reducible refine nestOuts_ok ?_ | with_reducible refine nestRun_ok ?_ | with_reducible refine nestEmpty_ok ?_
    | with_reducible refine landImage_ok ?_ | with_reducible refine switchBanks_ok ?_ | with_reducible refine scrub_ok ?_
    | with_reducible refine writeVaMem_ok ?_ | with_reducible refine runIn_ok ?_ | with_reducible refine runOut_ok ?_
    | with_reducible refine statusWrite_ok ?_ | with_reducible refine lateZero_ok ?_ | with_reducible refine expandGroup_ok ?_
    | with_reducible refine expandBlock_ok ?_ | with_reducible refine landBlock_ok ?_ | with_reducible refine landBlocks_ok ?_
    | with_reducible refine wipe_ok ?_ | with_reducible refine clearWindows_ok ?_ | with_reducible refine firstWindows_ok ?_
    | with_reducible refine memPut_ok ?_ | with_reducible refine memWrite_ok ?_ | with_reducible refine memFilter_ok ?_
    | with_reducible refine memFold_ok ?_ ?_ | with_reducible refine memIte_ok ?_ ?_ | with_reducible refine keep_elim ?_ ?_
    | with_reducible refine keep_getD ?_ ?_ | with_reducible refine keep_foldl_fst ?_ ?_
    | with_reducible refine keep_repeat ?_ ?_ | with_reducible refine keep_foldl_snd ?_ ?_
    | with_reducible refine keep_ite ?_ ?_ | with_reducible refine keep_foldl ?_ ?_
    | with_reducible exact keep_of_fst (by assumption) (by assumption)
    | with_reducible exact keep_enter (by assumption) (by assumption)
    | with_reducible exact keepSome_elim (by assumption) (by assumption)
    | with_reducible exact keepPair_elim (by assumption) (by assumption)
    | with_reducible exact keepPair_elim2 (by assumption) (by assumption)
    | with_reducible exact keep_of_snd (by assumption) (by assumption) | split | with_reducible refine keepSome_bind ?_
    | with_reducible refine keepSome_elim ?_ (by assumption) | (cases ‹_ = some _›) | (with_reducible dsimp only))
  all_goals assumption

theorem undefVectors_keep {M : Touch} {b0 : State} {s : State} {t : Tid} (hm : ({ free := true, threads := true } : Touch).le M = true) (hs : Keep M b0 s) :
    Keep M b0 (undefVectors s t) := by
  unfold undefVectors
  repeat' (first
    | with_reducible assumption | ((with_reducible refine touch_below hm ?_); rfl)
    | with_reducible refine freshBits_keep ?_ ?_ | with_reducible refine modTh_keep ?_ ?_)

theorem passRoom_keep {M : Touch} {b0 : State} {s : State} {key : PlanKey} {t : Tid} (hm : ({ plans := true, threads := true } : Touch).le M = true) (hs : Keep M b0 s) :
    Keep M b0 (passRoom s key t) := by
  unfold passRoom
  repeat' (first
    | with_reducible assumption | ((with_reducible refine touch_below hm ?_); rfl) | with_reducible refine setCause_keep ?_ ?_
    | with_reducible refine modTh_keep ?_ ?_)

theorem releaseRoom_keep {M : Touch} {b0 : State} {s : State} {key : PlanKey} {k : Nat} {room : Nat} (hm : ({ free := true, plans := true, threads := true, mem := true } : Touch).le M = true) (hs : Keep M b0 s) :
    Keep M b0 (releaseRoom s key k room) := by
  unfold releaseRoom
  repeat' (first
    | with_reducible assumption | (with_reducible exact keep_refl _ _) | with_reducible refine keepOut_next ?_
    | ((with_reducible intro x); refine keep_cut (m := M) (s := b0) x ?_ (fun _ => ?_); subst x)
    | ((with_reducible intro x); refine keep_cut_fst (m := M) (s := b0) x ?_ (fun _ => ?_); subst x)
    | ((with_reducible intro x); refine keep_cut_snd (m := M) (s := b0) x ?_ (fun _ => ?_); subst x)
    | ((with_reducible intro x); refine keep_cut_some (m := M) (s := b0) x ?_ (fun _ => ?_); subst x)
    | ((with_reducible intro x); refine keep_cut_pair (m := M) (s := b0) x ?_ (fun _ => ?_); subst x)
    | ((with_reducible intro x); refine keep_cut_run (m := M) (s := b0) x ?_ (fun _ => ?_); subst x)
    | ((with_reducible intro x); refine cell_id x ?_; subst x) | ((with_reducible intro x); refine fun_id x ?_; subst x)
    | ((with_reducible intro x); clear_value x) | (with_reducible intro _) | lift_lets
    | ((with_reducible refine touch_below hm ?_); rfl) | with_reducible refine passRoom_keep ?_ ?_
    | with_reducible refine firstLoad_keep ?_ ?_ | with_reducible refine modTh_keep ?_ ?_
    | with_reducible refine undefVectors_keep ?_ ?_ | with_reducible refine keep_elim ?_ ?_
    | with_reducible refine keep_getD ?_ ?_ | with_reducible refine keep_foldl_fst ?_ ?_
    | with_reducible refine keep_repeat ?_ ?_ | with_reducible refine keep_foldl_snd ?_ ?_
    | with_reducible refine keep_ite ?_ ?_ | with_reducible refine keep_foldl ?_ ?_
    | with_reducible exact keep_of_fst (by assumption) (by assumption)
    | with_reducible exact keep_enter (by assumption) (by assumption)
    | with_reducible exact keepSome_elim (by assumption) (by assumption)
    | with_reducible exact keepPair_elim (by assumption) (by assumption)
    | with_reducible exact keepPair_elim2 (by assumption) (by assumption)
    | with_reducible exact keep_of_snd (by assumption) (by assumption) | split | with_reducible refine keepSome_bind ?_
    | with_reducible refine keepSome_elim ?_ (by assumption) | (cases ‹_ = some _›) | (with_reducible dsimp only))

theorem shapeFault_keep {M : Touch} {b0 : State} {s : State} {p : Plan} {b : PlanBody} {k : Nat} {l : List (Option DWord)} (hm : ({ dev := true, plans := true, flog := true, links := true } : Touch).le M = true) (hs : Keep M b0 s) :
    Keep M b0 (shapeFault s p b k l) := by
  unfold shapeFault
  repeat' (first
    | with_reducible assumption | (with_reducible intro _) | with_reducible refine raisePlan_keep ?_ ?_
    | with_reducible refine keep_foldl ?_ ?_ | split)

theorem releaseStep_keep {M : Touch} {b0 : State} {s : State} {p : Plan} {b : PlanBody} {k : Nat} (hm : ({ free := true, dev := true, pwr := true, fns := true, ctxs := true, tags := true, plans := true, threads := true, preds := true, tables := true, frames := true, decs := true, pins := true, limbo := true, flog := true, links := true, attic := true, mem := true, host := true } : Touch).le M = true) (hs : Keep M b0 s) :
    Keep M b0 (releaseStep s p b k) := by
  unfold releaseStep
  repeat' (first
    | with_reducible assumption | ((with_reducible intro x); refine keep_cut (m := M) (s := b0) x ?_ (fun _ => ?_); subst x)
    | (with_reducible intro _) | ((with_reducible refine touch_below hm ?_); rfl) | with_reducible refine modPlan_keep ?_ ?_
    | with_reducible refine shapeFault_keep ?_ ?_ | with_reducible refine finishStep_keep ?_ ?_
    | with_reducible refine releaseRoom_keep ?_ ?_ | with_reducible refine keep_foldl ?_ ?_ | split
    | (with_reducible dsimp only))

theorem releasePlan_keep {M : Touch} {b0 : State} {s : State} {key : PlanKey} (hm : ({ free := true, dev := true, pwr := true, fns := true, ctxs := true, tags := true, plans := true, threads := true, preds := true, tables := true, frames := true, decs := true, pins := true, limbo := true, flog := true, links := true, attic := true, mem := true, host := true } : Touch).le M = true) (hs : Keep M b0 s) :
    Keep M b0 (releasePlan s key) := by
  unfold releasePlan
  repeat' (first
    | with_reducible assumption | (with_reducible intro _) | with_reducible refine releaseStep_keep ?_ ?_ | split)

theorem freezeAll_keep {M : Touch} {b0 : State} {s : State} (hm : ({ free := true, plans := true, threads := true, preds := true, tables := true, frames := true, decs := true, links := true, mem := true } : Touch).le M = true) (hs : Keep M b0 s) :
    Keep M b0 (freezeAll s) := by
  unfold freezeAll
  repeat' (first
    | with_reducible assumption | (with_reducible intro _) | with_reducible refine freeze_keep ?_ ?_
    | with_reducible refine keep_foldl ?_ ?_)

theorem releaseTables_keep {M : Touch} {b0 : State} {s : State} (hm : ({ fns := true, ctxs := true, tags := true, tables := true, frames := true, decs := true, mem := true, host := true } : Touch).le M = true) (hs : Keep M b0 s) :
    Keep M b0 (releaseTables s) := by
  unfold releaseTables
  repeat' (first
    | with_reducible assumption | (with_reducible exact keep_refl _ _) | with_reducible refine keepOut_next ?_
    | ((with_reducible intro x); refine keep_cut (m := M) (s := b0) x ?_ (fun _ => ?_); subst x)
    | ((with_reducible intro x); refine keep_cut_fst (m := M) (s := b0) x ?_ (fun _ => ?_); subst x)
    | ((with_reducible intro x); refine keep_cut_snd (m := M) (s := b0) x ?_ (fun _ => ?_); subst x)
    | ((with_reducible intro x); refine keep_cut_some (m := M) (s := b0) x ?_ (fun _ => ?_); subst x)
    | ((with_reducible intro x); refine keep_cut_pair (m := M) (s := b0) x ?_ (fun _ => ?_); subst x)
    | ((with_reducible intro x); refine keep_cut_run (m := M) (s := b0) x ?_ (fun _ => ?_); subst x)
    | ((with_reducible intro x); refine cell_id x ?_; subst x) | ((with_reducible intro x); refine fun_id x ?_; subst x)
    | ((with_reducible intro x); clear_value x) | (with_reducible intro _) | lift_lets
    | ((with_reducible refine touch_below hm ?_); rfl) | with_reducible refine kvReleaseAll_keep ?_ ?_
    | with_reducible refine returnFrames_keep ?_ ?_ | with_reducible refine registerPublishes_keep ?_ ?_
    | with_reducible refine addrRelease_keep ?_ ?_ | with_reducible refine pageWriteWaits_keep ?_ ?_
    | with_reducible refine keep_elim ?_ ?_ | with_reducible refine keep_getD ?_ ?_
    | with_reducible refine keep_foldl_fst ?_ ?_ | with_reducible refine keep_repeat ?_ ?_
    | with_reducible refine keep_foldl_snd ?_ ?_ | with_reducible refine keep_ite ?_ ?_
    | with_reducible refine keep_foldl ?_ ?_ | with_reducible exact keep_of_fst (by assumption) (by assumption)
    | with_reducible exact keep_enter (by assumption) (by assumption)
    | with_reducible exact keepSome_elim (by assumption) (by assumption)
    | with_reducible exact keepPair_elim (by assumption) (by assumption)
    | with_reducible exact keepPair_elim2 (by assumption) (by assumption)
    | with_reducible exact keep_of_snd (by assumption) (by assumption) | split | with_reducible refine keepSome_bind ?_
    | with_reducible refine keepSome_elim ?_ (by assumption) | (cases ‹_ = some _›) | (with_reducible dsimp only))

theorem releasePlans_keep {M : Touch} {b0 : State} {s : State} (hm : ({ free := true, dev := true, pwr := true, fns := true, ctxs := true, tags := true, plans := true, threads := true, preds := true, tables := true, frames := true, decs := true, pins := true, limbo := true, flog := true, links := true, attic := true, mem := true, host := true } : Touch).le M = true) (hs : Keep M b0 s) :
    Keep M b0 (releasePlans s) := by
  unfold releasePlans
  repeat' (first
    | with_reducible assumption | ((with_reducible intro x); refine keep_cut (m := M) (s := b0) x ?_ (fun _ => ?_); subst x)
    | (with_reducible intro _) | ((with_reducible refine touch_below hm ?_); rfl)
    | with_reducible refine releasePlan_keep ?_ ?_ | (with_reducible dsimp -zeta only [keep_mk])
    | with_reducible refine keep_plans ?_ ?_ | with_reducible refine keep_foldl ?_ ?_)

theorem asOfEnd_keep {M : Touch} {b0 : State} {f : State → State} {s : State} (hm : ({ tick := true } : Touch).le M = true) (hf : ∀ a, Keep M b0 a → Keep M b0 (f a)) (hs : Keep M b0 s) :
    Keep M b0 (asOfEnd f s) := by
  unfold asOfEnd
  repeat' (first
    | with_reducible assumption | (with_reducible exact keep_refl _ _) | with_reducible refine keepOut_next ?_
    | ((with_reducible intro x); refine keep_cut (m := M) (s := b0) x ?_ (fun _ => ?_); subst x)
    | ((with_reducible intro x); refine keep_cut_fst (m := M) (s := b0) x ?_ (fun _ => ?_); subst x)
    | ((with_reducible intro x); refine keep_cut_snd (m := M) (s := b0) x ?_ (fun _ => ?_); subst x)
    | ((with_reducible intro x); refine keep_cut_some (m := M) (s := b0) x ?_ (fun _ => ?_); subst x)
    | ((with_reducible intro x); refine keep_cut_pair (m := M) (s := b0) x ?_ (fun _ => ?_); subst x)
    | ((with_reducible intro x); refine keep_cut_run (m := M) (s := b0) x ?_ (fun _ => ?_); subst x)
    | ((with_reducible intro x); refine cell_id x ?_; subst x) | ((with_reducible intro x); refine fun_id x ?_; subst x)
    | ((with_reducible intro x); clear_value x) | (with_reducible intro _) | lift_lets
    | ((with_reducible refine touch_below hm ?_); rfl) | (with_reducible dsimp -zeta only [keep_mk])
    | with_reducible refine keep_tick ?_ ?_ | with_reducible refine hf _ ?_ | with_reducible refine keep_elim ?_ ?_
    | with_reducible refine keep_getD ?_ ?_ | with_reducible refine keep_foldl_fst ?_ ?_
    | with_reducible refine keep_repeat ?_ ?_ | with_reducible refine keep_foldl_snd ?_ ?_
    | with_reducible refine keep_ite ?_ ?_ | with_reducible refine keep_foldl ?_ ?_
    | with_reducible exact keep_of_fst (by assumption) (by assumption)
    | with_reducible exact keep_enter (by assumption) (by assumption)
    | with_reducible exact keepSome_elim (by assumption) (by assumption)
    | with_reducible exact keepPair_elim (by assumption) (by assumption)
    | with_reducible exact keepPair_elim2 (by assumption) (by assumption)
    | with_reducible exact keep_of_snd (by assumption) (by assumption) | split | with_reducible refine keepSome_bind ?_
    | with_reducible refine keepSome_elim ?_ (by assumption) | (cases ‹_ = some _›) | (with_reducible dsimp only))

theorem lateWatch_keep {M : Touch} {b0 : State} {s : State} (hm : ({ free := true, dev := true, tick := true, pwr := true, fns := true, ctxs := true, tags := true, plans := true, threads := true, preds := true, tables := true, frames := true, decs := true, pins := true, limbo := true, flog := true, slideP := true, links := true, attic := true, mem := true, host := true } : Touch).le M = true) (hs : Keep M b0 s) :
    Keep M b0 (lateWatch s) := by
  unfold lateWatch
  repeat' (first
    | with_reducible assumption | (with_reducible exact keep_refl _ _) | with_reducible refine keepOut_next ?_
    | ((with_reducible intro x); refine keep_cut (m := M) (s := b0) x ?_ (fun _ => ?_); subst x)
    | ((with_reducible intro x); refine keep_cut_fst (m := M) (s := b0) x ?_ (fun _ => ?_); subst x)
    | ((with_reducible intro x); refine keep_cut_snd (m := M) (s := b0) x ?_ (fun _ => ?_); subst x)
    | ((with_reducible intro x); refine keep_cut_some (m := M) (s := b0) x ?_ (fun _ => ?_); subst x)
    | ((with_reducible intro x); refine keep_cut_pair (m := M) (s := b0) x ?_ (fun _ => ?_); subst x)
    | ((with_reducible intro x); refine keep_cut_run (m := M) (s := b0) x ?_ (fun _ => ?_); subst x)
    | ((with_reducible intro x); refine cell_id x ?_; subst x) | ((with_reducible intro x); refine fun_id x ?_; subst x)
    | ((with_reducible intro x); clear_value x) | (with_reducible intro _) | lift_lets
    | ((with_reducible refine touch_below hm ?_); rfl) | with_reducible refine finishStops_keep ?_ ?_
    | with_reducible refine asOfEnd_keep ?_ ?_ ?_ | with_reducible refine watch_keep ?_ ?_
    | with_reducible refine keep_elim ?_ ?_ | with_reducible refine keep_getD ?_ ?_
    | with_reducible refine keep_foldl_fst ?_ ?_ | with_reducible refine keep_repeat ?_ ?_
    | with_reducible refine keep_foldl_snd ?_ ?_ | with_reducible refine keep_ite ?_ ?_
    | with_reducible refine keep_foldl ?_ ?_ | with_reducible exact keep_of_fst (by assumption) (by assumption)
    | with_reducible exact keep_enter (by assumption) (by assumption)
    | with_reducible exact keepSome_elim (by assumption) (by assumption)
    | with_reducible exact keepPair_elim (by assumption) (by assumption)
    | with_reducible exact keepPair_elim2 (by assumption) (by assumption)
    | with_reducible exact keep_of_snd (by assumption) (by assumption) | split | with_reducible refine keepSome_bind ?_
    | with_reducible refine keepSome_elim ?_ (by assumption) | (cases ‹_ = some _›) | (with_reducible dsimp only))

theorem settleRecovery_keep {M : Touch} {b0 : State} {s : State} (hm : ({ free := true, dev := true, tick := true, pwr := true, fns := true, ctxs := true, tags := true, plans := true, threads := true, preds := true, tables := true, frames := true, decs := true, pins := true, limbo := true, flog := true, recov := true, slideP := true, links := true, attic := true, mem := true, host := true } : Touch).le M = true) (hs : Keep M b0 s) :
    Keep M b0 (settleRecovery s) := by
  unfold settleRecovery
  repeat' (first
    | with_reducible assumption | (with_reducible exact keep_refl _ _) | with_reducible refine keepOut_next ?_
    | ((with_reducible intro x); refine keep_cut (m := M) (s := b0) x ?_ (fun _ => ?_); subst x)
    | ((with_reducible intro x); refine keep_cut_fst (m := M) (s := b0) x ?_ (fun _ => ?_); subst x)
    | ((with_reducible intro x); refine keep_cut_snd (m := M) (s := b0) x ?_ (fun _ => ?_); subst x)
    | ((with_reducible intro x); refine keep_cut_some (m := M) (s := b0) x ?_ (fun _ => ?_); subst x)
    | ((with_reducible intro x); refine keep_cut_pair (m := M) (s := b0) x ?_ (fun _ => ?_); subst x)
    | ((with_reducible intro x); refine keep_cut_run (m := M) (s := b0) x ?_ (fun _ => ?_); subst x)
    | ((with_reducible intro x); refine cell_id x ?_; subst x) | ((with_reducible intro x); refine fun_id x ?_; subst x)
    | ((with_reducible intro x); clear_value x) | (with_reducible intro _) | lift_lets
    | ((with_reducible refine touch_below hm ?_); rfl) | with_reducible refine freezeAll_keep ?_ ?_
    | with_reducible refine lateWatch_keep ?_ ?_ | (with_reducible dsimp -zeta only [keep_mk])
    | with_reducible refine keep_recov ?_ ?_ | with_reducible refine keep_elim ?_ ?_ | with_reducible refine keep_getD ?_ ?_
    | with_reducible refine keep_foldl_fst ?_ ?_ | with_reducible refine keep_repeat ?_ ?_
    | with_reducible refine keep_foldl_snd ?_ ?_ | with_reducible refine keep_ite ?_ ?_
    | with_reducible refine keep_foldl ?_ ?_ | with_reducible exact keep_of_fst (by assumption) (by assumption)
    | with_reducible exact keep_enter (by assumption) (by assumption)
    | with_reducible exact keepSome_elim (by assumption) (by assumption)
    | with_reducible exact keepPair_elim (by assumption) (by assumption)
    | with_reducible exact keepPair_elim2 (by assumption) (by assumption)
    | with_reducible exact keep_of_snd (by assumption) (by assumption) | split | with_reducible refine keepSome_bind ?_
    | with_reducible refine keepSome_elim ?_ (by assumption) | (cases ‹_ = some _›) | (with_reducible dsimp only))

theorem passRelease_keep {M : Touch} {b0 : State} {s : State} (hm : ({ tick := true } : Touch).le M = true) (hs : Keep M b0 s) :
    Keep M b0 (passRelease s) := by
  unfold passRelease
  repeat' (first
    | with_reducible assumption | (with_reducible dsimp -zeta only [keep_mk]) | with_reducible refine keep_tick ?_ ?_)

theorem releasePoint_keep {M : Touch} {b0 : State} {s : State} (hm : ({ free := true, dev := true, tick := true, pwr := true, fns := true, ctxs := true, tags := true, plans := true, threads := true, preds := true, tables := true, frames := true, decs := true, pins := true, limbo := true, flog := true, recov := true, slideP := true, links := true, attic := true, mem := true, host := true } : Touch).le M = true) (hs : Keep M b0 s) :
    Keep M b0 (releasePoint s) := by
  unfold releasePoint
  repeat' (first
    | with_reducible assumption | ((with_reducible intro x); refine keep_cut (m := M) (s := b0) x ?_ (fun _ => ?_); subst x)
    | (with_reducible intro _) | ((with_reducible refine touch_below hm ?_); rfl)
    | with_reducible refine passRelease_keep ?_ ?_ | with_reducible refine releaseTables_keep ?_ ?_
    | with_reducible refine settleRecovery_keep ?_ ?_ | with_reducible refine releasePlans_keep ?_ ?_
    | with_reducible refine tickWaits_keep ?_ ?_ | with_reducible refine retryStores_keep ?_ ?_
    | with_reducible refine drive_keep ?_ ?_ | with_reducible refine settle_keep ?_ ?_
    | with_reducible refine keep_foldl ?_ ?_ | split)

theorem execReleasePoint_keep {M : Touch} {b0 : State} {s : State} (hm : ({ free := true, dev := true, tick := true, pwr := true, fns := true, ctxs := true, tags := true, plans := true, threads := true, preds := true, tables := true, frames := true, decs := true, pins := true, limbo := true, flog := true, recov := true, slideP := true, links := true, attic := true, mem := true, host := true } : Touch).le M = true) (hs : Keep M b0 s) :
    KeepOut M b0 (execReleasePoint s) := by
  unfold execReleasePoint
  repeat' (first
    | with_reducible assumption | with_reducible refine keepOut_next ?_ | with_reducible refine releasePoint_keep ?_ ?_)

end Sys2Proof.Laws
end

