-- ==== Sys2Proof/Laws/KeepBoundary.lean ====
section
/-! SUPPORT. What each operation of Machine/Boundary.lean may change. -/
namespace Sys2Proof.Laws

open Sys2Proof Sys2Proof.Machine
set_option linter.unusedVariables false

theorem promiseCheck_keep {M : Touch} {b0 : State} {s : State} {n : Nat} {p : Plan} (hm : ({ dev := true, plans := true, flog := true, links := true } : Touch).le M = true) (hs : Keep M b0 s) :
    Keep M b0 (promiseCheck s n p) := by
  unfold promiseCheck
  repeat' (first
    | with_reducible assumption | (with_reducible intro _) | ((with_reducible refine touch_below hm ?_); rfl)
    | with_reducible refine modPlan_keep ?_ ?_ | with_reducible refine raisePlan_keep ?_ ?_
    | with_reducible refine keep_foldl ?_ ?_)

theorem portLoss_keep {M : Touch} {b0 : State} {s : State} {n : Nat} (hm : ({ recov := true } : Touch).le M = true) (hs : Keep M b0 s) :
    Keep M b0 (portLoss s n) := by
  unfold portLoss
  repeat' (first
    | with_reducible assumption | (with_reducible intro _) | (with_reducible dsimp -zeta only [keep_mk])
    | with_reducible refine keep_recov ?_ ?_ | split)

theorem applyDue_keep {M : Touch} {b0 : State} {s : State} {v : Nat × Nat} (hm : ({ free := true, plans := true, threads := true, preds := true, tables := true, frames := true, decs := true, resumeAt := true, links := true, mem := true } : Touch).le M = true) (hs : Keep M b0 s) :
    Keep M b0 (applyDue s v) := by
  unfold applyDue
  repeat' (first | with_reducible assumption | with_reducible refine slideBy_keep ?_ ?_)

theorem applySlides_keep {M : Touch} {b0 : State} {s : State} {n : Nat} (hm : ({ free := true, plans := true, threads := true, preds := true, tables := true, frames := true, decs := true, resumeAt := true, slideDue := true, links := true, mem := true } : Touch).le M = true) (hs : Keep M b0 s) :
    Keep M b0 (applySlides s n) := by
  unfold applySlides
  repeat' (first
    | with_reducible assumption | (with_reducible intro _) | ((with_reducible refine touch_below hm ?_); rfl)
    | with_reducible refine applyDue_keep ?_ ?_ | (with_reducible dsimp -zeta only [keep_mk])
    | with_reducible refine keep_slideDue ?_ ?_ | with_reducible refine keep_foldl ?_ ?_)

theorem decideTick_keep {M : Touch} {b0 : State} {s : State} {n : Nat} (hm : ({ free := true, dev := true, ctxs := true, plans := true, threads := true, preds := true, tables := true, frames := true, decs := true, flog := true, slideP := true, links := true, mem := true } : Touch).le M = true) (hs : Keep M b0 s) :
    Keep M b0 (decideTick s n) := by
  unfold decideTick
  repeat' (first
    | with_reducible assumption | (with_reducible intro _) | ((with_reducible refine touch_below hm ?_); rfl)
    | with_reducible refine stopWithdrawn_keep ?_ ?_ | with_reducible refine watch_keep ?_ ?_
    | with_reducible refine freezeAll_keep ?_ ?_ | split)

theorem lastTickEnds_keep {M : Touch} {b0 : State} {s : State} {n : Nat} {p : Plan} (hm : ({ free := true, plans := true, threads := true, preds := true, tables := true, frames := true, decs := true, links := true, mem := true } : Touch).le M = true) (hs : Keep M b0 s) :
    Keep M b0 (lastTickEnds s n p) := by
  unfold lastTickEnds
  repeat' (first
    | with_reducible assumption | (with_reducible intro _) | ((with_reducible refine touch_below hm ?_); rfl)
    | with_reducible refine stopPlan_keep ?_ ?_ | with_reducible refine modPlan_keep ?_ ?_ | split)

theorem finishSteps_keep {M : Touch} {b0 : State} {s : State} (hm : ({ free := true, dev := true, pwr := true, fns := true, ctxs := true, tags := true, plans := true, threads := true, preds := true, tables := true, frames := true, decs := true, pins := true, limbo := true, flog := true, links := true, attic := true, mem := true, host := true } : Touch).le M = true) (hs : Keep M b0 s) :
    Keep M b0 (finishSteps s) := by
  unfold finishSteps
  repeat' (first
    | with_reducible assumption | (with_reducible intro _) | with_reducible refine finishStep_keep ?_ ?_
    | with_reducible refine keep_foldl ?_ ?_)

theorem endTick_keep {M : Touch} {b0 : State} {s : State} {n : Nat} (hm : ({ free := true, dev := true, ctxs := true, plans := true, threads := true, preds := true, tables := true, frames := true, decs := true, flog := true, slideP := true, links := true, mem := true } : Touch).le M = true) (hs : Keep M b0 s) :
    Keep M b0 (endTick s n) := by
  unfold endTick
  repeat' (first
    | with_reducible assumption | ((with_reducible intro x); refine keep_cut (m := M) (s := b0) x ?_ (fun _ => ?_); subst x)
    | (with_reducible intro _) | ((with_reducible refine touch_below hm ?_); rfl)
    | with_reducible refine decideTick_keep ?_ ?_ | with_reducible refine promiseCheck_keep ?_ ?_
    | with_reducible refine lastTickEnds_keep ?_ ?_ | with_reducible refine keep_foldl ?_ ?_)

theorem latchBooks_keep {M : Touch} {b0 : State} {s : State} {n : Nat} (hm : ({ books := true, links := true } : Touch).le M = true) (hs : Keep M b0 s) :
    Keep M b0 (latchBooks s n) := by
  unfold latchBooks
  repeat' (first
    | with_reducible assumption | (with_reducible dsimp -zeta only [keep_mk]) | with_reducible refine keep_books_links ?_ ?_
    | (with_reducible dsimp only))

theorem takeDues_keep {M : Touch} {b0 : State} {s : State} (hm : ({ pwr := true, threads := true } : Touch).le M = true) (hs : Keep M b0 s) :
    Keep M b0 (takeDues s) := by
  unfold takeDues
  repeat' (first
    | with_reducible assumption | (with_reducible dsimp -zeta only [keep_mk]) | with_reducible refine keep_pwr_threads ?_ ?_)

theorem closeEnergy_keep {M : Touch} {b0 : State} {s : State} (hm : ({ pwr := true } : Touch).le M = true) (hs : Keep M b0 s) :
    Keep M b0 (closeEnergy s) := by
  unfold closeEnergy
  repeat' (first
    | with_reducible assumption | (with_reducible dsimp -zeta only [keep_mk]) | with_reducible refine keep_pwr ?_ ?_
    | (with_reducible dsimp only))

theorem closeHeat_keep {M : Touch} {b0 : State} {s : State} (hm : ({ pwr := true } : Touch).le M = true) (hs : Keep M b0 s) :
    Keep M b0 (closeHeat s) := by
  unfold closeHeat
  repeat' (first
    | with_reducible assumption | (with_reducible dsimp -zeta only [keep_mk]) | with_reducible refine keep_pwr ?_ ?_)

theorem closeDroops_keep {M : Touch} {b0 : State} {s : State} {len : Nat} {b : Nat} (hm : ({ pwr := true } : Touch).le M = true) (hs : Keep M b0 s) :
    Keep M b0 (closeDroops s len b) := by
  unfold closeDroops
  repeat' (first
    | with_reducible assumption | (with_reducible dsimp -zeta only [keep_mk]) | with_reducible refine keep_pwr ?_ ?_
    | (with_reducible dsimp only))

theorem switchThread_keep {M : Touch} {b0 : State} {s : State} {x : Thread} (hm : ({ threads := true, mem := true } : Touch).le M = true) (hs : Keep M b0 s) :
    Keep M b0 (switchThread s x) := by
  unfold switchThread
  repeat' (first
    | (with_reducible intro _) | ((with_reducible refine touch_below hm ?_); rfl) | with_reducible refine modTh_keep ?_ ?_
    | (with_reducible dsimp -zeta only [keep_mk]) | with_reducible refine keep_mem ?_ ?_ ?_
    | with_reducible refine switchBanks_ok ?_ | split)
  all_goals assumption

theorem insertOne_keep {M : Touch} {b0 : State} {acc : State × List (Nat × Nat)} {key : PlanKey} (hm : ({ plans := true, mem := true } : Touch).le M = true) (hacc : Keep M b0 acc.1) :
    Keep M b0 (insertOne acc key).1 := by
  rcases acc with ⟨_, _⟩
  unfold insertOne
  dsimp -zeta only
  repeat' (first
    | with_reducible assumption | ((with_reducible intro x); refine keep_cut (m := M) (s := b0) x ?_ (fun _ => ?_); subst x)
    | ((with_reducible refine touch_below hm ?_); rfl) | with_reducible refine writeVa_keep ?_ ?_
    | with_reducible refine modPlan_keep ?_ ?_ | with_reducible refine addItem_keep ?_ ?_ | split
    | (with_reducible dsimp only))
theorem insertOne_keep_eq {M : Touch} {b0 : State} {acc : State × List (Nat × Nat)} {key : PlanKey} {w9} {u9 : State} (hm : ({ plans := true, mem := true } : Touch).le M = true) (hacc : Keep M b0 acc.1) (e9 : insertOne acc key = (u9, w9)) : Keep M b0 u9 := by
  have := insertOne_keep (M := M) (b0 := b0) (acc := acc) (key := key) hm hacc; rw [e9] at this; exact this

theorem insertSteps_keep {M : Touch} {b0 : State} {s : State} (hm : ({ plans := true, mem := true } : Touch).le M = true) (hs : Keep M b0 s) :
    Keep M b0 (insertSteps s) := by
  unfold insertSteps
  repeat' (first
    | with_reducible assumption | (with_reducible intro _) | with_reducible refine insertOne_keep ?_ ?_
    | with_reducible refine keep_foldl_fst ?_ ?_)

theorem beginTick_keep {M : Touch} {b0 : State} {s : State} {b : Nat} (hm : ({ now := true, tick := true, flog := true } : Touch).le M = true) (hs : Keep M b0 s) :
    Keep M b0 (beginTick s b) := by
  unfold beginTick
  repeat' (first
    | with_reducible assumption | ((with_reducible refine touch_below hm ?_); rfl)
    | with_reducible refine tickEvent_keep ?_ ?_ | (with_reducible dsimp -zeta only [keep_mk])
    | with_reducible refine keep_now_tick ?_ ?_)

theorem closeTick_keep {M : Touch} {b0 : State} {s : State} {n : Nat} (hm : ({ free := true, dev := true, pwr := true, fns := true, ctxs := true, tags := true, plans := true, threads := true, preds := true, tables := true, frames := true, decs := true, pins := true, limbo := true, flog := true, recov := true, resumeAt := true, slideDue := true, links := true, attic := true, mem := true, host := true } : Touch).le M = true) (hs : Keep M b0 s) :
    Keep M b0 (closeTick s n) := by
  unfold closeTick
  repeat' (first
    | with_reducible assumption | ((with_reducible refine touch_below hm ?_); rfl)
    | with_reducible refine applySlides_keep ?_ ?_ | with_reducible refine portLoss_keep ?_ ?_
    | with_reducible refine closeEnergy_keep ?_ ?_ | with_reducible refine takeDues_keep ?_ ?_
    | with_reducible refine finishSteps_keep ?_ ?_)

theorem newTick_keep {M : Touch} {b0 : State} {s : State} {n : Nat} {len : Nat} (hm : ({ free := true, dev := true, pwr := true, fns := true, ctxs := true, tags := true, plans := true, threads := true, preds := true, tables := true, frames := true, decs := true, pins := true, limbo := true, flog := true, links := true, attic := true, mem := true, host := true } : Touch).le M = true) (hs : Keep M b0 s) :
    Keep M b0 (newTick s n len) := by
  unfold newTick
  repeat' (first
    | with_reducible assumption | (with_reducible exact keep_refl _ _) | with_reducible refine keepOut_next ?_
    | ((with_reducible intro x); refine keep_cut (m := M) (s := b0) x ?_ (fun _ => ?_); subst x)
    | ((with_reducible intro x); refine keep_cut_fst (m := M) (s := b0) x ?_ (fun _ => ?_); subst x)
    | ((with_reducible intro x); refine keep_cut_snd (m := M) (s := b0) x ?_ (fun _ => ?_); subst x)
    | ((with_reducible intro x); refine keep_cut_some (m := M) (s := b0) x ?_ (fun _ => ?_); subst x)
    | ((with_reducible intro x); refine keep_cut_pair (m := M) (s := b0) x ?_ (fun _ => ?_); subst x)
    | ((with_reducible intro x); refine keep_cut_run (m := M) (s := b0) x ?_ (fun _ => ?_); subst x)
    | ((with_reducible intro x); refine cell_id x ?_; subst x) | ((with_reducible intro x); refine fun_id x ?_; subst x)
    | ((with_reducible intro x); clear_value x) | (with_reducible intro _) | lift_lets
    | ((with_reducible refine touch_below hm ?_); rfl) | with_reducible refine finishStops_keep ?_ ?_
    | with_reducible refine markVecs_keep ?_ ?_ | with_reducible refine switchThread_keep ?_ ?_
    | with_reducible refine retireGens_keep ?_ ?_ | with_reducible refine latchExtents_keep ?_ ?_
    | with_reducible refine insertSteps_keep ?_ ?_ | with_reducible refine dropPages_keep ?_ ?_
    | with_reducible refine boundaryCaps_keep ?_ ?_ | with_reducible refine closeHeat_keep ?_ ?_
    | with_reducible refine closeDroops_keep ?_ ?_ | with_reducible refine nextUpdates_keep ?_ ?_
    | with_reducible refine nextImages_keep ?_ ?_ | with_reducible refine sendMarkers_keep ?_ ?_
    | with_reducible refine drive_keep ?_ ?_ | with_reducible refine settle_keep ?_ ?_
    | with_reducible refine settleEnd_keep ?_ ?_ | with_reducible refine keep_elim ?_ ?_
    | with_reducible refine keep_getD ?_ ?_ | with_reducible refine keep_foldl_fst ?_ ?_
    | with_reducible refine keep_repeat ?_ ?_ | with_reducible refine keep_foldl_snd ?_ ?_
    | with_reducible refine keep_ite ?_ ?_ | with_reducible refine keep_foldl ?_ ?_
    | with_reducible exact keep_of_fst (by assumption) (by assumption)
    | with_reducible exact keep_enter (by assumption) (by assumption)
    | with_reducible exact keepSome_elim (by assumption) (by assumption)
    | with_reducible exact keepPair_elim (by assumption) (by assumption)
    | with_reducible exact keepPair_elim2 (by assumption) (by assumption)
    | with_reducible exact keep_of_snd (by assumption) (by assumption) | split | with_reducible refine keepSome_bind ?_
    | with_reducible refine keepSome_elim ?_ (by assumption) | (cases ‹_ = some _›) | (with_reducible dsimp only))

theorem boundary_keep {M : Touch} {b0 : State} {s : State} (hm : ({ free := true, now := true, dev := true, tick := true, pwr := true, fns := true, ctxs := true, tags := true, plans := true, threads := true, preds := true, tables := true, frames := true, decs := true, pins := true, limbo := true, flog := true, recov := true, slideP := true, resumeAt := true, slideDue := true, books := true, links := true, attic := true, mem := true, host := true } : Touch).le M = true) (hs : Keep M b0 s) :
    Keep M b0 (boundary s) := by
  unfold boundary
  repeat' (first
    | with_reducible assumption | (with_reducible intro _) | ((with_reducible refine touch_below hm ?_); rfl)
    | with_reducible refine sendMarkers_keep ?_ ?_ | with_reducible refine beginTick_keep ?_ ?_
    | with_reducible refine newTick_keep ?_ ?_ | with_reducible refine latchBooks_keep ?_ ?_
    | with_reducible refine endTick_keep ?_ ?_ | with_reducible refine closeTick_keep ?_ ?_ | split)

theorem execTickBoundary_keep {M : Touch} {b0 : State} {s : State} (hm : ({ free := true, now := true, dev := true, tick := true, pwr := true, fns := true, ctxs := true, tags := true, plans := true, threads := true, preds := true, tables := true, frames := true, decs := true, pins := true, limbo := true, flog := true, recov := true, slideP := true, resumeAt := true, slideDue := true, books := true, links := true, attic := true, mem := true, host := true } : Touch).le M = true) (hs : Keep M b0 s) :
    KeepOut M b0 (execTickBoundary s) := by
  unfold execTickBoundary
  repeat' (first
    | with_reducible assumption | with_reducible refine keepOut_next ?_ | with_reducible refine boundary_keep ?_ ?_)

theorem boilerSample_keep {M : Touch} {b0 : State} {s : State} {boiler : Nat} {energies : List Nat} (hm : ({ pwr := true } : Touch).le M = true) (hs : Keep M b0 s) :
    Keep M b0 (boilerSample s boiler energies) := by
  unfold boilerSample
  repeat' (first
    | with_reducible assumption | (with_reducible intro _) | (with_reducible dsimp -zeta only [keep_mk])
    | with_reducible refine keep_pwr ?_ ?_ | split)

theorem execBoilerSample_keep {M : Touch} {b0 : State} {boiler : Nat} {energies : List Nat} {s : State} (hm : ({ pwr := true } : Touch).le M = true) (hs : Keep M b0 s) :
    KeepOut M b0 (execBoilerSample boiler energies s) := by
  unfold execBoilerSample
  repeat' (first
    | with_reducible assumption | with_reducible refine keepOut_next ?_ | with_reducible refine boilerSample_keep ?_ ?_)

theorem tokenOverrun_keep {M : Touch} {b0 : State} {s : State} {d : PlanKey × Nat × Nat × Nat} (hm : ({ dev := true, pwr := true, plans := true, flog := true, links := true } : Touch).le M = true) (hs : Keep M b0 s) :
    Keep M b0 (tokenOverrun s d) := by
  unfold tokenOverrun
  repeat' (first
    | with_reducible assumption | ((with_reducible intro x); refine keep_cut (m := M) (s := b0) x ?_ (fun _ => ?_); subst x)
    | (with_reducible intro _) | ((with_reducible refine touch_below hm ?_); rfl) | with_reducible refine raisePlan_keep ?_ ?_
    | with_reducible refine raise_keep ?_ ?_ | (with_reducible dsimp -zeta only [keep_mk])
    | with_reducible refine keep_pwr ?_ ?_ | split | (with_reducible dsimp only))

theorem settleTokens_keep {M : Touch} {b0 : State} {s : State} (hm : ({ dev := true, pwr := true, plans := true, flog := true, links := true } : Touch).le M = true) (hs : Keep M b0 s) :
    Keep M b0 (settleTokens s) := by
  unfold settleTokens
  repeat' (first
    | with_reducible assumption | ((with_reducible intro x); refine keep_cut (m := M) (s := b0) x ?_ (fun _ => ?_); subst x)
    | (with_reducible intro _) | ((with_reducible refine touch_below hm ?_); rfl)
    | with_reducible refine tokenOverrun_keep ?_ ?_ | (with_reducible dsimp -zeta only [keep_mk])
    | with_reducible refine keep_pwr ?_ ?_ | with_reducible refine keep_foldl ?_ ?_ | split | (with_reducible dsimp only))

theorem execTokenSettlement_keep {M : Touch} {b0 : State} {s : State} (hm : ({ dev := true, pwr := true, plans := true, flog := true, links := true } : Touch).le M = true) (hs : Keep M b0 s) :
    KeepOut M b0 (execTokenSettlement s) := by
  unfold execTokenSettlement
  repeat' (first
    | with_reducible assumption | with_reducible refine keepOut_next ?_ | with_reducible refine settleTokens_keep ?_ ?_)

theorem auditRecord_keep {M : Touch} {b0 : State} {s : State} {q : Nat × Nat} (hm : ({ dev := true, tick := true, flog := true, links := true } : Touch).le M = true) (hs : Keep M b0 s) :
    Keep M b0 (auditRecord s q) := by
  unfold auditRecord
  repeat' (first
    | with_reducible assumption | ((with_reducible intro x); refine keep_cut (m := M) (s := b0) x ?_ (fun _ => ?_); subst x)
    | (with_reducible intro _) | ((with_reducible refine touch_below hm ?_); rfl) | with_reducible refine failStop_keep ?_ ?_
    | with_reducible refine logFault_keep ?_ ?_ | (with_reducible dsimp -zeta only [keep_mk])
    | with_reducible refine keep_tick ?_ ?_ | split)

theorem recount_keep {M : Touch} {b0 : State} {s : State} {q : Recount} (hm : ({ pwr := true, ctxs := true, tags := true, threads := true, frames := true, links := true } : Touch).le M = true) (hs : Keep M b0 s) :
    Keep M b0 (recount s q) := by
  unfold recount
  repeat' (first
    | with_reducible assumption | (with_reducible exact keep_refl _ _) | with_reducible refine keepOut_next ?_
    | ((with_reducible intro x); refine keep_cut (m := M) (s := b0) x ?_ (fun _ => ?_); subst x)
    | ((with_reducible intro x); refine keep_cut_fst (m := M) (s := b0) x ?_ (fun _ => ?_); subst x)
    | ((with_reducible intro x); refine keep_cut_snd (m := M) (s := b0) x ?_ (fun _ => ?_); subst x)
    | ((with_reducible intro x); refine keep_cut_some (m := M) (s := b0) x ?_ (fun _ => ?_); subst x)
    | ((with_reducible intro x); refine keep_cut_pair (m := M) (s := b0) x ?_ (fun _ => ?_); subst x)
    | ((with_reducible intro x); refine keep_cut_run (m := M) (s := b0) x ?_ (fun _ => ?_); subst x)
    | ((with_reducible intro x); refine cell_id x ?_; subst x) | ((with_reducible intro x); refine fun_id x ?_; subst x)
    | ((with_reducible intro x); clear_value x) | (with_reducible intro _) | lift_lets
    | ((with_reducible refine touch_below hm ?_); rfl) | (with_reducible dsimp -zeta only [keep_mk])
    | with_reducible refine keep_pwr_ctxs_tags_threads_frames_links ?_ ?_
    | with_reducible refine keep_pwr_ctxs_tags_threads_frames ?_ ?_ | with_reducible refine keep_pwr_ctxs_tags_threads ?_ ?_
    | with_reducible refine keep_pwr_ctxs_tags ?_ ?_ | with_reducible refine keep_pwr_ctxs ?_ ?_
    | with_reducible refine keep_pwr ?_ ?_ | with_reducible refine keep_elim ?_ ?_ | with_reducible refine keep_getD ?_ ?_
    | with_reducible refine keep_foldl_fst ?_ ?_ | with_reducible refine keep_repeat ?_ ?_
    | with_reducible refine keep_foldl_snd ?_ ?_ | with_reducible refine keep_ite ?_ ?_
    | with_reducible refine keep_foldl ?_ ?_ | with_reducible exact keep_of_fst (by assumption) (by assumption)
    | with_reducible exact keep_enter (by assumption) (by assumption)
    | with_reducible exact keepSome_elim (by assumption) (by assumption)
    | with_reducible exact keepPair_elim (by assumption) (by assumption)
    | with_reducible exact keepPair_elim2 (by assumption) (by assumption)
    | with_reducible exact keep_of_snd (by assumption) (by assumption) | split | with_reducible refine keepSome_bind ?_
    | with_reducible refine keepSome_elim ?_ (by assumption) | (cases ‹_ = some _›) | (with_reducible dsimp only))

theorem audit_keep {M : Touch} {b0 : State} {s : State} (hm : ({ dev := true, tick := true, pwr := true, ctxs := true, tags := true, threads := true, frames := true, flog := true, books := true, badBooks := true, fullAudit := true, links := true } : Touch).le M = true) (hs : Keep M b0 s) :
    Keep M b0 (audit s) := by
  unfold audit
  repeat' (first
    | with_reducible assumption | (with_reducible exact keep_refl _ _) | with_reducible refine keepOut_next ?_
    | ((with_reducible intro x); refine keep_cut (m := M) (s := b0) x ?_ (fun _ => ?_); subst x)
    | ((with_reducible intro x); refine keep_cut_fst (m := M) (s := b0) x ?_ (fun _ => ?_); subst x)
    | ((with_reducible intro x); refine keep_cut_snd (m := M) (s := b0) x ?_ (fun _ => ?_); subst x)
    | ((with_reducible intro x); refine keep_cut_some (m := M) (s := b0) x ?_ (fun _ => ?_); subst x)
    | ((with_reducible intro x); refine keep_cut_pair (m := M) (s := b0) x ?_ (fun _ => ?_); subst x)
    | ((with_reducible intro x); refine keep_cut_run (m := M) (s := b0) x ?_ (fun _ => ?_); subst x)
    | ((with_reducible intro x); refine cell_id x ?_; subst x) | ((with_reducible intro x); refine fun_id x ?_; subst x)
    | ((with_reducible intro x); clear_value x) | (with_reducible intro _) | lift_lets
    | ((with_reducible refine touch_below hm ?_); rfl) | with_reducible refine recount_keep ?_ ?_
    | with_reducible refine auditRecord_keep ?_ ?_ | (with_reducible dsimp -zeta only [keep_mk])
    | with_reducible refine keep_books_badBooks_fullAudit_links ?_ ?_
    | with_reducible refine keep_books_badBooks_fullAudit ?_ ?_ | with_reducible refine keep_books_badBooks ?_ ?_
    | with_reducible refine keep_books ?_ ?_ | with_reducible refine keep_elim ?_ ?_ | with_reducible refine keep_getD ?_ ?_
    | with_reducible refine keep_foldl_fst ?_ ?_ | with_reducible refine keep_repeat ?_ ?_
    | with_reducible refine keep_foldl_snd ?_ ?_ | with_reducible refine keep_ite ?_ ?_
    | with_reducible refine keep_foldl ?_ ?_ | with_reducible exact keep_of_fst (by assumption) (by assumption)
    | with_reducible exact keep_enter (by assumption) (by assumption)
    | with_reducible exact keepSome_elim (by assumption) (by assumption)
    | with_reducible exact keepPair_elim (by assumption) (by assumption)
    | with_reducible exact keepPair_elim2 (by assumption) (by assumption)
    | with_reducible exact keep_of_snd (by assumption) (by assumption) | split | with_reducible refine keepSome_bind ?_
    | with_reducible refine keepSome_elim ?_ (by assumption) | (cases ‹_ = some _›) | (with_reducible dsimp only))

theorem execBookAudit_keep {M : Touch} {b0 : State} {s : State} (hm : ({ dev := true, tick := true, pwr := true, ctxs := true, tags := true, threads := true, frames := true, flog := true, books := true, badBooks := true, fullAudit := true, links := true } : Touch).le M = true) (hs : Keep M b0 s) :
    KeepOut M b0 (execBookAudit s) := by
  unfold execBookAudit
  repeat' (first
    | with_reducible assumption | with_reducible refine keepOut_next ?_ | with_reducible refine audit_keep ?_ ?_)

end Sys2Proof.Laws
end

