-- ==== Sys2Proof/Laws/KeepRecover.lean ====
section
/-! SUPPORT. What each operation of Machine/Recover.lean may change. -/
namespace Sys2Proof.Laws

open Sys2Proof Sys2Proof.Machine
set_option linter.unusedVariables false

theorem retire_keep {M : Touch} {b0 : State} {s : State} {q : Part} (hm : ({ hw := true } : Touch).le M = true) (hs : Keep M b0 s) :
    Keep M b0 (retire s q) := by
  unfold retire
  repeat' (first
    | with_reducible assumption | (with_reducible dsimp -zeta only [keep_mk]) | with_reducible refine keep_hw ?_ ?_)

theorem scrambleWords_keep {M : Touch} {b0 : State} {s : State} {room : Nat} {ws : List Nat} (hm : ({ free := true, mem := true } : Touch).le M = true) (hs : Keep M b0 s) :
    Keep M b0 (scrambleWords s room ws) := by
  unfold scrambleWords
  repeat' (first
    | (with_reducible intro _) | ((with_reducible refine touch_below hm ?_); rfl) | with_reducible refine freeBytes_keep ?_ ?_
    | (with_reducible dsimp -zeta only [keep_mk]) | with_reducible refine keep_mem ?_ ?_ ?_
    | with_reducible refine memWrite_ok ?_ | with_reducible refine keep_foldl ?_ ?_)
  all_goals assumption

theorem scramble_keep {M : Touch} {b0 : State} {s : State} {l : Lost} {room : Nat} {lo : Nat} {n : Nat} (hm : ({ free := true, mem := true } : Touch).le M = true) (hs : Keep M b0 s) :
    Keep M b0 (scramble s l room lo n) := by
  unfold scramble
  repeat' (first
    | (with_reducible intro _) | ((with_reducible refine touch_below hm ?_); rfl) | with_reducible refine freeBytes_keep ?_ ?_
    | with_reducible refine scrambleWords_keep ?_ ?_ | (with_reducible dsimp -zeta only [keep_mk])
    | with_reducible refine keep_mem ?_ ?_ ?_ | with_reducible refine memWrite_ok ?_ | split)
  all_goals assumption

theorem reloadImem_keep {M : Touch} {b0 : State} {s : State} {l : Lost} {p : Plan} {im : ImageRec} {r : RoomRec} (hm : ({ free := true, mem := true } : Touch).le M = true) (hs : Keep M b0 s) :
    Keep M b0 (reloadImem s l p im r) := by
  unfold reloadImem
  repeat' (first
    | with_reducible assumption | (with_reducible exact keep_refl _ _) | with_reducible refine keepOut_next ?_
    | ((with_reducible intro x); refine keep_cut (m := M) (s := b0) x ?_ (fun _ => ?_); subst x)
    | ((with_reducible intro x); refine keep_cut_fst (m := M) (s := b0) x ?_ (fun _ => ?_); subst x)
    | ((with_reducible intro x); refine keep_cut_snd (m := M) (s := b0) x ?_ (fun _ => ?_); subst x)
    | ((with_reducible intro x); refine keep_cut_some (m := M) (s := b0) x ?_ (fun _ => ?_); subst x)
    | ((with_reducible intro x); refine keep_cut_pair (m := M) (s := b0) x ?_ (fun _ => ?_); subst x)
    | ((with_reducible intro x); refine keep_cut_run (m := M) (s := b0) x ?_ (fun _ => ?_); subst x)
    | ((with_reducible intro x); refine cell_id x ?_; subst x) | ((with_reducible intro x); refine fun_id x ?_; subst x)
    | ((with_reducible intro x); clear_value x) | (with_reducible intro _) | lift_lets
    | ((with_reducible refine touch_below hm ?_); rfl) | with_reducible refine loadImage_keep ?_ ?_
    | with_reducible refine loadImage_keep_eq ?_ ?_ (by assumption) | (with_reducible dsimp -zeta only [keep_mk])
    | with_reducible refine keep_mem ?_ ?_ ?_ | with_reducible refine writeTile_ok ?_ | with_reducible refine mmaMem_ok ?_
    | with_reducible refine zeroTiles_ok ?_ | with_reducible refine accOutMem_ok ?_ | with_reducible refine nestMmas_ok ?_
    | with_reducible refine nestOuts_ok ?_ | with_reducible refine nestRun_ok ?_ | with_reducible refine nestEmpty_ok ?_
    | with_reducible refine landImage_ok ?_ | with_reducible refine switchBanks_ok ?_ | with_reducible refine scrub_ok ?_
    | with_reducible refine writeVaMem_ok ?_ | with_reducible refine runIn_ok ?_ | with_reducible refine runOut_ok ?_
    | with_reducible refine statusWrite_ok ?_ | with_reducible refine lateZero_ok ?_ | with_reducible refine expandGroup_ok ?_
    | with_reducible refine expandBlock_ok ?_ | with_reducible refine landBlock_ok ?_ | with_reducible refine landBlocks_ok ?_
    | with_reducible refine wipe_ok ?_ | with_reducible refine clearWindows_ok ?_ | with_reducible refine firstWindows_ok ?_
    | with_reducible refine memPut_ok ?_ | with_reducible refine memWrite_ok ?_ | with_reducible refine memFilter_ok ?_
    | with_reducible refine memFold_ok ?_ ?_ | with_reducible refine memIte_ok ?_ ?_ | with_reducible refine keep_elim ?_ ?_
    | with_reducible refine keep_getD ?_ ?_ | with_reducible refine keep_foldl_fst ?_ ?_
    | with_reducible refine keep_repeat ?_ ?_ | with_reducible refine keep_foldl_snd ?_ ?_
    | with_reducible refine keep_ite ?_ ?_ | with_reducible refine keep_foldl ?_ ?_
    | with_reducible exact keep_of_fst (by assumption) (by assumption)
    | with_reducible exact keep_enter (by assumption) (by assumption)
    | with_reducible exact keepSome_elim (by assumption) (by assumption)
    | with_reducible exact keepPair_elim (by assumption) (by assumption)
    | with_reducible exact keepPair_elim2 (by assumption) (by assumption)
    | with_reducible exact keep_of_snd (by assumption) (by assumption) | split | with_reducible refine keepSome_bind ?_
    | with_reducible refine keepSome_elim ?_ (by assumption) | (cases ‹_ = some _›) | (with_reducible dsimp only))
  all_goals assumption

theorem refillTables_keep {M : Touch} {b0 : State} {s : State} {l : Lost} {b : PlanBody} {r : RoomRec} {x : Thread} (hm : ({ free := true, mem := true } : Touch).le M = true) (hs : Keep M b0 s) :
    Keep M b0 (refillTables s l b r x) := by
  unfold refillTables
  repeat' (first
    | ((with_reducible intro x); refine keep_cut (m := M) (s := b0) x ?_ (fun _ => ?_); subst x) | (with_reducible intro _)
    | ((with_reducible refine touch_below hm ?_); rfl) | with_reducible refine scramble_keep ?_ ?_
    | (with_reducible dsimp -zeta only [keep_mk]) | with_reducible refine keep_mem ?_ ?_ ?_
    | with_reducible refine memWrite_ok ?_ | with_reducible refine memFold_ok ?_ ?_ | split | (with_reducible dsimp only))
  all_goals assumption

theorem dataWindow_keep {M : Touch} {b0 : State} {s : State} {l : Lost} {restore : Bool} {room : Nat} {w : Nat × Nat} (hm : ({ free := true, mem := true } : Touch).le M = true) (hs : Keep M b0 s) :
    Keep M b0 (dataWindow s l restore room w) := by
  unfold dataWindow
  repeat' (first
    | (with_reducible intro _) | ((with_reducible refine touch_below hm ?_); rfl) | with_reducible refine scramble_keep ?_ ?_
    | (with_reducible dsimp -zeta only [keep_mk]) | with_reducible refine keep_mem ?_ ?_ ?_ | with_reducible refine wipe_ok ?_
    | split)
  all_goals assumption

theorem movePlan_keep {M : Touch} {b0 : State} {s : State} {l : Lost} {room : Nat} {p : Plan} (hm : ({ free := true, threads := true, mem := true } : Touch).le M = true) (hs : Keep M b0 s) :
    Keep M b0 (movePlan s l room p) := by
  unfold movePlan
  repeat' (first
    | with_reducible assumption | (with_reducible exact keep_refl _ _) | with_reducible refine keepOut_next ?_
    | ((with_reducible intro x); refine keep_cut (m := M) (s := b0) x ?_ (fun _ => ?_); subst x)
    | ((with_reducible intro x); refine keep_cut_fst (m := M) (s := b0) x ?_ (fun _ => ?_); subst x)
    | ((with_reducible intro x); refine keep_cut_snd (m := M) (s := b0) x ?_ (fun _ => ?_); subst x)
    | ((with_reducible intro x); refine keep_cut_some (m := M) (s := b0) x ?_ (fun _ => ?_); subst x)
    | ((with_reducible intro x); refine keep_cut_pair (m := M) (s := b0) x ?_ (fun _ => ?_); subst x)
    | ((with_reducible intro x); refine keep_cut_run (m := M) (s := b0) x ?_ (fun _ => ?_); subst x)
    | ((with_reducible intro x); refine cell_id x ?_; subst x) | ((with_reducible intro x); refine fun_id x ?_; subst x)
    | ((with_reducible intro x); clear_value x) | (with_reducible intro _) | lift_lets
    | ((with_reducible refine touch_below hm ?_); rfl) | with_reducible refine modTh_keep ?_ ?_
    | with_reducible refine refillTables_keep ?_ ?_ | with_reducible refine reloadImem_keep ?_ ?_
    | with_reducible refine dataWindow_keep ?_ ?_ | (with_reducible dsimp -zeta only [keep_mk])
    | with_reducible refine keep_threads ?_ ?_ | with_reducible refine keep_elim ?_ ?_ | with_reducible refine keep_getD ?_ ?_
    | with_reducible refine keep_foldl_fst ?_ ?_ | with_reducible refine keep_repeat ?_ ?_
    | with_reducible refine keep_foldl_snd ?_ ?_ | with_reducible refine keep_ite ?_ ?_
    | with_reducible refine keep_foldl ?_ ?_ | with_reducible exact keep_of_fst (by assumption) (by assumption)
    | with_reducible exact keep_enter (by assumption) (by assumption)
    | with_reducible exact keepSome_elim (by assumption) (by assumption)
    | with_reducible exact keepPair_elim (by assumption) (by assumption)
    | with_reducible exact keepPair_elim2 (by assumption) (by assumption)
    | with_reducible exact keep_of_snd (by assumption) (by assumption) | split | with_reducible refine keepSome_bind ?_
    | with_reducible refine keepSome_elim ?_ (by assumption) | (cases ‹_ = some _›) | (with_reducible dsimp only))

theorem rerunLate_keep {M : Touch} {b0 : State} {s : State} {p : Plan} (hm : ({ free := true, plans := true, threads := true, preds := true, tables := true, frames := true, decs := true, links := true, mem := true } : Touch).le M = true) (hs : Keep M b0 s) :
    Keep M b0 (rerunLate s p) := by
  unfold rerunLate
  repeat' (first
    | with_reducible assumption | (with_reducible intro _) | ((with_reducible refine touch_below hm ?_); rfl)
    | with_reducible refine modPlan_keep ?_ ?_ | with_reducible refine freeze_keep ?_ ?_ | split)

theorem noteSub_keep {M : Touch} {b0 : State} {logged : Bool} {s : State} {sp : Nat} {p : Plan} (hm : ({ plans := true } : Touch).le M = true) (hs : Keep M b0 s) :
    Keep M b0 (noteSub logged s sp p) := by
  unfold noteSub
  repeat' (first | with_reducible assumption | with_reducible refine modPlan_keep ?_ ?_ | split)

theorem roomFault_keep {M : Touch} {b0 : State} {s : State} {room : Nat} {unit : Nat} {permanent : Bool} {l : Lost} (hm : ({ free := true, dev := true, plans := true, threads := true, preds := true, tables := true, frames := true, decs := true, flog := true, hw := true, recov := true, links := true, mem := true } : Touch).le M = true) (hs : Keep M b0 s) :
    Keep M b0 (roomFault s room unit permanent l) := by
  unfold roomFault
  repeat' (first
    | with_reducible assumption | ((with_reducible intro x); refine keep_cut (m := M) (s := b0) x ?_ (fun _ => ?_); subst x)
    | (with_reducible intro _) | ((with_reducible refine touch_below hm ?_); rfl) | with_reducible refine failStop_keep ?_ ?_
    | with_reducible refine logFault_keep ?_ ?_ | with_reducible refine noteSub_keep ?_ ?_
    | with_reducible refine joinRecov_keep ?_ ?_ | with_reducible refine retire_keep ?_ ?_
    | with_reducible refine movePlan_keep ?_ ?_ | with_reducible refine rerunLate_keep ?_ ?_
    | (with_reducible dsimp -zeta only [keep_mk]) | with_reducible refine keep_hw ?_ ?_
    | with_reducible refine keep_foldl ?_ ?_ | split | (with_reducible dsimp only))

theorem execRoomHw_keep {M : Touch} {b0 : State} {room : Nat} {unit : Nat} {permanent : Bool} {badWords : List Nat} {s : State} (hm : ({ free := true, dev := true, plans := true, threads := true, preds := true, tables := true, frames := true, decs := true, flog := true, hw := true, recov := true, links := true, mem := true } : Touch).le M = true) (hs : Keep M b0 s) :
    KeepOut M b0 (execRoomHw room unit permanent badWords s) := by
  unfold execRoomHw
  repeat' (first
    | with_reducible assumption | with_reducible refine keepOut_next ?_ | (with_reducible intro _)
    | with_reducible refine roomFault_keep ?_ ?_ | split)

theorem execRoomWatchdogTimeout_keep {M : Touch} {b0 : State} {room : Nat} {s : State} (hm : ({ free := true, dev := true, plans := true, threads := true, preds := true, tables := true, frames := true, decs := true, flog := true, hw := true, recov := true, links := true, mem := true } : Touch).le M = true) (hs : Keep M b0 s) :
    KeepOut M b0 (execRoomWatchdogTimeout room s) := by
  unfold execRoomWatchdogTimeout
  repeat' (first
    | with_reducible assumption | with_reducible refine keepOut_next ?_ | (with_reducible intro _)
    | with_reducible refine roomFault_keep ?_ ?_ | split)

theorem restoreTimeout_keep {M : Touch} {b0 : State} {s : State} {t : Tid} (hm : ({ threads := true } : Touch).le M = true) (hs : Keep M b0 s) :
    Keep M b0 (restoreTimeout s t) := by
  unfold restoreTimeout
  repeat' (first | with_reducible assumption | (with_reducible intro _) | with_reducible refine modTh_keep ?_ ?_ | split)

theorem execRestoreTimeout_keep {M : Touch} {b0 : State} {t : Tid} {s : State} (hm : ({ threads := true } : Touch).le M = true) (hs : Keep M b0 s) :
    KeepOut M b0 (execRestoreTimeout t s) := by
  unfold execRestoreTimeout
  repeat' (first
    | with_reducible assumption | with_reducible refine keepOut_next ?_ | with_reducible refine restoreTimeout_keep ?_ ?_)

theorem spareTest_keep {M : Touch} {b0 : State} {s : State} {wing : Nat} {spare : Nat} {pass : Bool} (hm : ({ flog := true, hw := true, attic := true } : Touch).le M = true) (hs : Keep M b0 s) :
    Keep M b0 (spareTest s wing spare pass) := by
  unfold spareTest
  repeat' (first
    | with_reducible assumption | ((with_reducible intro x); refine keep_cut (m := M) (s := b0) x ?_ (fun _ => ?_); subst x)
    | (with_reducible intro _) | ((with_reducible refine touch_below hm ?_); rfl) | with_reducible refine logFault_keep ?_ ?_
    | with_reducible refine retire_keep ?_ ?_ | (with_reducible dsimp -zeta only [keep_mk])
    | with_reducible refine keep_attic ?_ ?_ | split | (with_reducible dsimp only))

theorem execSpareSelfTest_keep {M : Touch} {b0 : State} {wing : Nat} {spare : Nat} {pass : Bool} {s : State} (hm : ({ flog := true, hw := true, attic := true } : Touch).le M = true) (hs : Keep M b0 s) :
    KeepOut M b0 (execSpareSelfTest wing spare pass s) := by
  unfold execSpareSelfTest
  repeat' (first
    | with_reducible assumption | with_reducible refine keepOut_next ?_ | with_reducible refine spareTest_keep ?_ ?_)

theorem repairWrite_keep {M : Touch} {b0 : State} {s : State} (hm : ({ attic := true } : Touch).le M = true) (hs : Keep M b0 s) :
    Keep M b0 (repairWrite s) := by
  unfold repairWrite
  repeat' (first
    | with_reducible assumption | (with_reducible dsimp -zeta only [keep_mk]) | with_reducible refine keep_attic ?_ ?_)

theorem execRepairMapWrite_keep {M : Touch} {b0 : State} {s : State} (hm : ({ attic := true } : Touch).le M = true) (hs : Keep M b0 s) :
    KeepOut M b0 (execRepairMapWrite s) := by
  unfold execRepairMapWrite
  repeat' (first
    | with_reducible assumption | with_reducible refine keepOut_next ?_ | (with_reducible intro _)
    | with_reducible refine repairWrite_keep ?_ ?_ | split)

theorem floorCoreFail_keep {M : Touch} {b0 : State} {s : State} {floor : Nat} {core : Nat} {missed : Bool} (hm : ({ dev := true, flog := true, hw := true, recov := true, links := true } : Touch).le M = true) (hs : Keep M b0 s) :
    Keep M b0 (floorCoreFail s floor core missed) := by
  unfold floorCoreFail
  repeat' (first
    | with_reducible assumption | ((with_reducible intro x); refine keep_cut (m := M) (s := b0) x ?_ (fun _ => ?_); subst x)
    | (with_reducible intro _) | ((with_reducible refine touch_below hm ?_); rfl) | with_reducible refine failStop_keep ?_ ?_
    | with_reducible refine logFault_keep ?_ ?_ | with_reducible refine retire_keep ?_ ?_
    | with_reducible refine joinRecov_keep ?_ ?_ | split | (with_reducible dsimp only))

theorem execFloorCoreFailure_keep {M : Touch} {b0 : State} {floor : Nat} {core : Nat} {missed : Bool} {s : State} (hm : ({ dev := true, flog := true, hw := true, recov := true, links := true } : Touch).le M = true) (hs : Keep M b0 s) :
    KeepOut M b0 (execFloorCoreFailure floor core missed s) := by
  unfold execFloorCoreFailure
  repeat' (first
    | with_reducible assumption | with_reducible refine keepOut_next ?_ | with_reducible refine floorCoreFail_keep ?_ ?_)

theorem hallCoreFail_keep {M : Touch} {b0 : State} {s : State} {core : Nat} (hm : ({ dev := true, flog := true, hw := true, recov := true, links := true, attic := true } : Touch).le M = true) (hs : Keep M b0 s) :
    Keep M b0 (hallCoreFail s core) := by
  unfold hallCoreFail
  repeat' (first
    | with_reducible assumption | ((with_reducible intro x); refine keep_cut (m := M) (s := b0) x ?_ (fun _ => ?_); subst x)
    | (with_reducible intro _) | ((with_reducible refine touch_below hm ?_); rfl) | with_reducible refine failStop_keep ?_ ?_
    | with_reducible refine logFault_keep ?_ ?_ | with_reducible refine retire_keep ?_ ?_
    | with_reducible refine joinRecov_keep ?_ ?_ | (with_reducible dsimp -zeta only [keep_mk])
    | with_reducible refine keep_hw ?_ ?_ | with_reducible refine keep_attic ?_ ?_ | split | (with_reducible dsimp only))

theorem execHallCoreFailure_keep {M : Touch} {b0 : State} {core : Nat} {s : State} (hm : ({ dev := true, flog := true, hw := true, recov := true, links := true, attic := true } : Touch).le M = true) (hs : Keep M b0 s) :
    KeepOut M b0 (execHallCoreFailure core s) := by
  unfold execHallCoreFailure
  repeat' (first
    | with_reducible assumption | with_reducible refine keepOut_next ?_ | with_reducible refine hallCoreFail_keep ?_ ?_)

theorem hallSilent_keep {M : Touch} {b0 : State} {s : State} (hm : ({ free := true, dev := true, flog := true, links := true } : Touch).le M = true) (hs : Keep M b0 s) :
    Keep M b0 (hallSilent s) := by
  unfold hallSilent
  repeat' (first
    | with_reducible assumption | (with_reducible intro _) | ((with_reducible refine touch_below hm ?_); rfl)
    | with_reducible refine freshBits_keep ?_ ?_ | with_reducible refine failStop_keep ?_ ?_ | split)

theorem execHallWatchdog_keep {M : Touch} {b0 : State} {s : State} (hm : ({ free := true, dev := true, flog := true, links := true } : Touch).le M = true) (hs : Keep M b0 s) :
    KeepOut M b0 (execHallWatchdog s) := by
  unfold execHallWatchdog
  repeat' (first
    | with_reducible assumption | with_reducible refine keepOut_next ?_ | with_reducible refine hallSilent_keep ?_ ?_)

theorem execDieFail_keep {M : Touch} {b0 : State} {cls : Nat} {index : Nat} {s : State} (hm : ({ dev := true, flog := true, links := true } : Touch).le M = true) (hs : Keep M b0 s) :
    KeepOut M b0 (execDieFail cls index s) := by
  unfold execDieFail
  repeat' (first
    | with_reducible assumption | with_reducible refine keepOut_next ?_ | (with_reducible intro _)
    | with_reducible refine failStop_keep ?_ ?_ | split)

theorem eccFixed_keep {M : Touch} {b0 : State} {s : State} {t : EccTier} {addr : Nat} (hm : ({ flog := true, hw := true } : Touch).le M = true) (hs : Keep M b0 s) :
    Keep M b0 (eccFixed s t addr) := by
  unfold eccFixed
  repeat' (first
    | with_reducible assumption | ((with_reducible intro x); refine keep_cut (m := M) (s := b0) x ?_ (fun _ => ?_); subst x)
    | ((with_reducible refine touch_below hm ?_); rfl) | with_reducible refine logFault_keep ?_ ?_
    | (with_reducible dsimp -zeta only [keep_mk]) | with_reducible refine keep_hw ?_ ?_ | split)

theorem eccBad_keep {M : Touch} {b0 : State} {s : State} {t : EccTier} {addr : Nat} (hm : ({ free := true, dev := true, plans := true, threads := true, preds := true, tables := true, frames := true, decs := true, flog := true, hw := true, recov := true, links := true, mem := true } : Touch).le M = true) (hs : Keep M b0 s) :
    Keep M b0 (eccBad s t addr) := by
  unfold eccBad
  repeat' (first
    | with_reducible assumption | (with_reducible intro _) | ((with_reducible refine touch_below hm ?_); rfl)
    | with_reducible refine roomFault_keep ?_ ?_ | with_reducible refine logFault_keep ?_ ?_
    | with_reducible refine failStop_keep ?_ ?_ | split)

theorem execMemoryEccEvent_keep {M : Touch} {b0 : State} {tier : EccTier} {addr : Nat} {correctable : Bool} {s : State} (hm : ({ free := true, dev := true, plans := true, threads := true, preds := true, tables := true, frames := true, decs := true, flog := true, hw := true, recov := true, links := true, mem := true } : Touch).le M = true) (hs : Keep M b0 s) :
    KeepOut M b0 (execMemoryEccEvent tier addr correctable s) := by
  unfold execMemoryEccEvent
  repeat' (first
    | with_reducible assumption | with_reducible refine keepOut_next ?_ | (with_reducible intro _)
    | ((with_reducible refine touch_below hm ?_); rfl) | with_reducible refine eccFixed_keep ?_ ?_
    | with_reducible refine eccBad_keep ?_ ?_ | split)

theorem execPatrolScrub_keep {M : Touch} {b0 : State} {cellar : Nat} {channel : Nat} {lines : Nat} {s : State} (hm : ({ flog := true } : Touch).le M = true) (hs : Keep M b0 s) :
    KeepOut M b0 (execPatrolScrub cellar channel lines s) := by
  unfold execPatrolScrub
  repeat' (first
    | with_reducible assumption | with_reducible refine keepOut_next ?_ | (with_reducible intro _)
    | with_reducible refine logFault_keep ?_ ?_ | split)

theorem execCellarLoss_keep {M : Touch} {b0 : State} {cellar : Nat} {channel : Nat} {s : State} (hm : ({ dev := true, flog := true, links := true } : Touch).le M = true) (hs : Keep M b0 s) :
    KeepOut M b0 (execCellarLoss cellar channel s) := by
  unfold execCellarLoss
  repeat' (first
    | with_reducible assumption | with_reducible refine keepOut_next ?_ | (with_reducible intro _)
    | with_reducible refine failStop_keep ?_ ?_ | split)

theorem laneLost_keep {M : Touch} {b0 : State} {s : State} {i : Nat} {lane : Nat} (hm : ({ tick := true, plans := true, flog := true, recov := true, links := true } : Touch).le M = true) (hs : Keep M b0 s) :
    Keep M b0 (laneLost s i lane) := by
  unfold laneLost
  repeat' (first
    | with_reducible assumption | ((with_reducible intro x); refine keep_cut (m := M) (s := b0) x ?_ (fun _ => ?_); subst x)
    | (with_reducible intro _) | ((with_reducible refine touch_below hm ?_); rfl) | with_reducible refine modPort_keep ?_ ?_
    | with_reducible refine leaveUp_keep ?_ ?_ | with_reducible refine logFault_keep ?_ ?_
    | with_reducible refine joinRecov_keep ?_ ?_ | split | (with_reducible dsimp only))

theorem execLaneLost_keep {M : Touch} {b0 : State} {port : Nat} {lane : Nat} {s : State} (hm : ({ tick := true, plans := true, flog := true, recov := true, links := true } : Touch).le M = true) (hs : Keep M b0 s) :
    KeepOut M b0 (execLaneLost port lane s) := by
  unfold execLaneLost
  repeat' (first
    | with_reducible assumption | with_reducible refine keepOut_next ?_ | with_reducible refine laneLost_keep ?_ ?_)

theorem sendSlides_keep {M : Touch} {b0 : State} {s : State} {data : List Byte} (hm : ({ links := true } : Touch).le M = true) (hs : Keep M b0 s) :
    Keep M b0 (sendSlides s data) := by
  unfold sendSlides
  repeat' (first
    | with_reducible assumption | (with_reducible intro _) | with_reducible refine sendFw_keep ?_ ?_
    | with_reducible refine keep_foldl ?_ ?_)

theorem noteSlide_keep {M : Touch} {b0 : State} {s : State} {origin : Nat} {t : Tick} {d : Nat} (hm : ({ slides := true } : Touch).le M = true) (hs : Keep M b0 s) :
    Keep M b0 (noteSlide s origin t d) := by
  unfold noteSlide
  repeat' (first
    | with_reducible assumption | (with_reducible dsimp -zeta only [keep_mk]) | with_reducible refine keep_slides ?_ ?_)

theorem slideFor_keep {M : Touch} {b0 : State} {s : State} {t : Nat} {old : Nat} {d : Nat} (hm : ({ free := true, plans := true, threads := true, preds := true, tables := true, frames := true, decs := true, resumeAt := true, slideDue := true, links := true, mem := true } : Touch).le M = true) (hs : Keep M b0 s) :
    Keep M b0 (slideFor s t old d) := by
  unfold slideFor
  repeat' (first
    | with_reducible assumption | (with_reducible intro _) | ((with_reducible refine touch_below hm ?_); rfl)
    | with_reducible refine slideBy_keep ?_ ?_ | (with_reducible dsimp -zeta only [keep_mk])
    | with_reducible refine keep_slideDue ?_ ?_ | split | (with_reducible dsimp only))

theorem slideNow_keep {M : Touch} {b0 : State} {s : State} {r : Recov} (hm : ({ free := true, plans := true, threads := true, preds := true, tables := true, frames := true, decs := true, slides := true, resumeAt := true, slideDue := true, links := true, mem := true } : Touch).le M = true) (hs : Keep M b0 s) :
    Keep M b0 (slideNow s r) := by
  unfold slideNow
  repeat' (first
    | with_reducible assumption | (with_reducible intro _) | ((with_reducible refine touch_below hm ?_); rfl)
    | with_reducible refine slideFor_keep ?_ ?_ | with_reducible refine noteSlide_keep ?_ ?_
    | with_reducible refine sendSlides_keep ?_ ?_ | split | (with_reducible dsimp only))

theorem endRecovery_keep {M : Touch} {b0 : State} {s : State} {r : Recov} (hm : ({ recov := true, fullAudit := true, attic := true } : Touch).le M = true) (hs : Keep M b0 s) :
    Keep M b0 (endRecovery s r) := by
  unfold endRecovery
  repeat' (first
    | with_reducible assumption | (with_reducible exact keep_refl _ _) | with_reducible refine keepOut_next ?_
    | ((with_reducible intro x); refine keep_cut (m := M) (s := b0) x ?_ (fun _ => ?_); subst x)
    | ((with_reducible intro x); refine keep_cut_fst (m := M) (s := b0) x ?_ (fun _ => ?_); subst x)
    | ((with_reducible intro x); refine keep_cut_snd (m := M) (s := b0) x ?_ (fun _ => ?_); subst x)
    | ((with_reducible intro x); refine keep_cut_some (m := M) (s := b0) x ?_ (fun _ => ?_); subst x)
    | ((with_reducible intro x); refine keep_cut_pair (m := M) (s := b0) x ?_ (fun _ => ?_); subst x)
    | ((with_reducible intro x); refine keep_cut_run (m := M) (s := b0) x ?_ (fun _ => ?_); subst x)
    | ((with_reducible intro x); refine cell_id x ?_; subst x) | ((with_reducible intro x); refine fun_id x ?_; subst x)
    | ((with_reducible intro x); clear_value x) | (with_reducible intro _) | lift_lets
    | ((with_reducible refine touch_below hm ?_); rfl) | (with_reducible dsimp -zeta only [keep_mk])
    | with_reducible refine keep_recov_fullAudit_attic ?_ ?_ | with_reducible refine keep_recov_fullAudit ?_ ?_
    | with_reducible refine keep_recov ?_ ?_ | with_reducible refine keep_elim ?_ ?_ | with_reducible refine keep_getD ?_ ?_
    | with_reducible refine keep_foldl_fst ?_ ?_ | with_reducible refine keep_repeat ?_ ?_
    | with_reducible refine keep_foldl_snd ?_ ?_ | with_reducible refine keep_ite ?_ ?_
    | with_reducible refine keep_foldl ?_ ?_ | with_reducible exact keep_of_fst (by assumption) (by assumption)
    | with_reducible exact keep_enter (by assumption) (by assumption)
    | with_reducible exact keepSome_elim (by assumption) (by assumption)
    | with_reducible exact keepPair_elim (by assumption) (by assumption)
    | with_reducible exact keepPair_elim2 (by assumption) (by assumption)
    | with_reducible exact keep_of_snd (by assumption) (by assumption) | split | with_reducible refine keepSome_bind ?_
    | with_reducible refine keepSome_elim ?_ (by assumption) | (cases ‹_ = some _›) | (with_reducible dsimp only))

theorem serviceResume_keep {M : Touch} {b0 : State} {s : State} {time : Nat} (hm : ({ free := true, now := true, dev := true, tick := true, pwr := true, fns := true, ctxs := true, tags := true, plans := true, threads := true, preds := true, tables := true, frames := true, decs := true, pins := true, limbo := true, flog := true, recov := true, slideP := true, slides := true, resumeAt := true, slideDue := true, fullAudit := true, links := true, attic := true, mem := true, host := true } : Touch).le M = true) (hs : Keep M b0 s) :
    Keep M b0 (serviceResume s time) := by
  unfold serviceResume
  repeat' (first
    | with_reducible assumption | (with_reducible exact keep_refl _ _) | with_reducible refine keepOut_next ?_
    | ((with_reducible intro x); refine keep_cut (m := M) (s := b0) x ?_ (fun _ => ?_); subst x)
    | ((with_reducible intro x); refine keep_cut_fst (m := M) (s := b0) x ?_ (fun _ => ?_); subst x)
    | ((with_reducible intro x); refine keep_cut_snd (m := M) (s := b0) x ?_ (fun _ => ?_); subst x)
    | ((with_reducible intro x); refine keep_cut_some (m := M) (s := b0) x ?_ (fun _ => ?_); subst x)
    | ((with_reducible intro x); refine keep_cut_pair (m := M) (s := b0) x ?_ (fun _ => ?_); subst x)
    | ((with_reducible intro x); refine keep_cut_run (m := M) (s := b0) x ?_ (fun _ => ?_); subst x)
    | ((with_reducible intro x); refine cell_id x ?_; subst x) | ((with_reducible intro x); refine fun_id x ?_; subst x)
    | ((with_reducible intro x); clear_value x) | (with_reducible intro _) | lift_lets
    | ((with_reducible refine touch_below hm ?_); rfl) | with_reducible refine endRecovery_keep ?_ ?_
    | with_reducible refine slideNow_keep ?_ ?_ | with_reducible refine lateWatch_keep ?_ ?_
    | with_reducible refine drive_keep ?_ ?_ | with_reducible refine settle_keep ?_ ?_
    | (with_reducible dsimp -zeta only [keep_mk]) | with_reducible refine keep_now ?_ ?_
    | with_reducible refine keep_elim ?_ ?_ | with_reducible refine keep_getD ?_ ?_
    | with_reducible refine keep_foldl_fst ?_ ?_ | with_reducible refine keep_repeat ?_ ?_
    | with_reducible refine keep_foldl_snd ?_ ?_ | with_reducible refine keep_ite ?_ ?_
    | with_reducible refine keep_foldl ?_ ?_ | with_reducible exact keep_of_fst (by assumption) (by assumption)
    | with_reducible exact keep_enter (by assumption) (by assumption)
    | with_reducible exact keepSome_elim (by assumption) (by assumption)
    | with_reducible exact keepPair_elim (by assumption) (by assumption)
    | with_reducible exact keepPair_elim2 (by assumption) (by assumption)
    | with_reducible exact keep_of_snd (by assumption) (by assumption) | split | with_reducible refine keepSome_bind ?_
    | with_reducible refine keepSome_elim ?_ (by assumption) | (cases ‹_ = some _›) | (with_reducible dsimp only))

theorem execServiceResume_keep {M : Touch} {b0 : State} {time : Nat} {s : State} (hm : ({ free := true, now := true, dev := true, tick := true, pwr := true, fns := true, ctxs := true, tags := true, plans := true, threads := true, preds := true, tables := true, frames := true, decs := true, pins := true, limbo := true, flog := true, recov := true, slideP := true, slides := true, resumeAt := true, slideDue := true, fullAudit := true, links := true, attic := true, mem := true, host := true } : Touch).le M = true) (hs : Keep M b0 s) :
    KeepOut M b0 (execServiceResume time s) := by
  unfold execServiceResume
  repeat' (first
    | with_reducible assumption | with_reducible refine keepOut_next ?_ | with_reducible refine serviceResume_keep ?_ ?_)

theorem hopMsg_keep {M : Touch} {b0 : State} {s : State} {dest : Nat} {bs : List Byte} (hm : ({ links := true } : Touch).le M = true) (hs : Keep M b0 s) :
    Keep M b0 (hopMsg s dest bs) := by
  unfold hopMsg
  repeat' (first
    | with_reducible assumption | (with_reducible exact keep_refl _ _) | with_reducible refine keepOut_next ?_
    | ((with_reducible intro x); refine keep_cut (m := M) (s := b0) x ?_ (fun _ => ?_); subst x)
    | ((with_reducible intro x); refine keep_cut_fst (m := M) (s := b0) x ?_ (fun _ => ?_); subst x)
    | ((with_reducible intro x); refine keep_cut_snd (m := M) (s := b0) x ?_ (fun _ => ?_); subst x)
    | ((with_reducible intro x); refine keep_cut_some (m := M) (s := b0) x ?_ (fun _ => ?_); subst x)
    | ((with_reducible intro x); refine keep_cut_pair (m := M) (s := b0) x ?_ (fun _ => ?_); subst x)
    | ((with_reducible intro x); refine keep_cut_run (m := M) (s := b0) x ?_ (fun _ => ?_); subst x)
    | ((with_reducible intro x); refine cell_id x ?_; subst x) | ((with_reducible intro x); refine fun_id x ?_; subst x)
    | ((with_reducible intro x); clear_value x) | (with_reducible intro _) | lift_lets
    | ((with_reducible refine touch_below hm ?_); rfl) | with_reducible refine modPort_keep ?_ ?_
    | with_reducible refine keep_elim ?_ ?_ | with_reducible refine keep_getD ?_ ?_
    | with_reducible refine keep_foldl_fst ?_ ?_ | with_reducible refine keep_repeat ?_ ?_
    | with_reducible refine keep_foldl_snd ?_ ?_ | with_reducible refine keep_ite ?_ ?_
    | with_reducible refine keep_foldl ?_ ?_ | with_reducible exact keep_of_fst (by assumption) (by assumption)
    | with_reducible exact keep_enter (by assumption) (by assumption)
    | with_reducible exact keepSome_elim (by assumption) (by assumption)
    | with_reducible exact keepPair_elim (by assumption) (by assumption)
    | with_reducible exact keepPair_elim2 (by assumption) (by assumption)
    | with_reducible exact keep_of_snd (by assumption) (by assumption) | split | with_reducible refine keepSome_bind ?_
    | with_reducible refine keepSome_elim ?_ (by assumption) | (cases ‹_ = some _›) | (with_reducible dsimp only))

theorem passOn_keep {M : Touch} {b0 : State} {s : State} {m : Msg} (hm : ({ links := true } : Touch).le M = true) (hs : Keep M b0 s) :
    Keep M b0 (passOn s m) := by
  unfold passOn
  repeat' (first
    | with_reducible assumption | (with_reducible exact keep_refl _ _) | with_reducible refine keepOut_next ?_
    | ((with_reducible intro x); refine keep_cut (m := M) (s := b0) x ?_ (fun _ => ?_); subst x)
    | ((with_reducible intro x); refine keep_cut_fst (m := M) (s := b0) x ?_ (fun _ => ?_); subst x)
    | ((with_reducible intro x); refine keep_cut_snd (m := M) (s := b0) x ?_ (fun _ => ?_); subst x)
    | ((with_reducible intro x); refine keep_cut_some (m := M) (s := b0) x ?_ (fun _ => ?_); subst x)
    | ((with_reducible intro x); refine keep_cut_pair (m := M) (s := b0) x ?_ (fun _ => ?_); subst x)
    | ((with_reducible intro x); refine keep_cut_run (m := M) (s := b0) x ?_ (fun _ => ?_); subst x)
    | ((with_reducible intro x); refine cell_id x ?_; subst x) | ((with_reducible intro x); refine fun_id x ?_; subst x)
    | ((with_reducible intro x); clear_value x) | (with_reducible intro _) | lift_lets
    | ((with_reducible refine touch_below hm ?_); rfl) | with_reducible refine hopMsg_keep ?_ ?_
    | with_reducible refine releaseMsg_keep ?_ ?_ | with_reducible refine takeMsg_keep ?_ ?_
    | with_reducible refine putMsg_keep ?_ ?_ | with_reducible refine keep_elim ?_ ?_ | with_reducible refine keep_getD ?_ ?_
    | with_reducible refine keep_foldl_fst ?_ ?_ | with_reducible refine keep_repeat ?_ ?_
    | with_reducible refine keep_foldl_snd ?_ ?_ | with_reducible refine keep_ite ?_ ?_
    | with_reducible refine keep_foldl ?_ ?_ | with_reducible exact keep_of_fst (by assumption) (by assumption)
    | with_reducible exact keep_enter (by assumption) (by assumption)
    | with_reducible exact keepSome_elim (by assumption) (by assumption)
    | with_reducible exact keepPair_elim (by assumption) (by assumption)
    | with_reducible exact keepPair_elim2 (by assumption) (by assumption)
    | with_reducible exact keep_of_snd (by assumption) (by assumption) | split | with_reducible refine keepSome_bind ?_
    | with_reducible refine keepSome_elim ?_ (by assumption) | (cases ‹_ = some _›) | (with_reducible dsimp only))

theorem takeSlide_keep {M : Touch} {b0 : State} {s : State} {m : Msg} (hm : ({ free := true, plans := true, threads := true, preds := true, tables := true, frames := true, decs := true, flog := true, slideP := true, slides := true, resumeAt := true, slideDue := true, links := true, mem := true } : Touch).le M = true) (hs : Keep M b0 s) :
    Keep M b0 (takeSlide s m) := by
  unfold takeSlide
  repeat' (first
    | with_reducible assumption | ((with_reducible intro x); refine keep_cut (m := M) (s := b0) x ?_ (fun _ => ?_); subst x)
    | (with_reducible intro _) | ((with_reducible refine touch_below hm ?_); rfl)
    | with_reducible refine sendSlides_keep ?_ ?_ | with_reducible refine logFault_keep ?_ ?_
    | with_reducible refine slideFor_keep ?_ ?_ | with_reducible refine noteSlide_keep ?_ ?_
    | (with_reducible dsimp -zeta only [keep_mk]) | with_reducible refine keep_slideP ?_ ?_ | split
    | (with_reducible dsimp only))

theorem slideIn_keep {M : Touch} {b0 : State} {s : State} {m : Msg} (hm : ({ free := true, dev := true, plans := true, threads := true, preds := true, tables := true, frames := true, decs := true, flog := true, slideP := true, slides := true, resumeAt := true, slideDue := true, links := true, mem := true } : Touch).le M = true) (hs : Keep M b0 s) :
    Keep M b0 (slideIn s m) := by
  unfold slideIn
  repeat' (first
    | with_reducible assumption | (with_reducible intro _) | ((with_reducible refine touch_below hm ?_); rfl)
    | with_reducible refine passOn_keep ?_ ?_ | with_reducible refine drive_keep ?_ ?_
    | with_reducible refine takeSlide_keep ?_ ?_ | with_reducible refine releaseMsg_keep ?_ ?_
    | with_reducible refine bumpRx_keep ?_ ?_ | split)

theorem execSlide_keep {M : Touch} {b0 : State} {msg : Msg} {s : State} (hm : ({ free := true, dev := true, plans := true, threads := true, preds := true, tables := true, frames := true, decs := true, flog := true, slideP := true, slides := true, resumeAt := true, slideDue := true, links := true, mem := true } : Touch).le M = true) (hs : Keep M b0 s) :
    KeepOut M b0 (execSlide msg s) := by
  unfold execSlide
  repeat' (first
    | with_reducible assumption | with_reducible refine keepOut_next ?_ | with_reducible refine slideIn_keep ?_ ?_)

theorem missWaiting_keep {M : Touch} {b0 : State} {s : State} {p : Plan} (hm : ({ free := true, dev := true, ctxs := true, plans := true, threads := true, preds := true, tables := true, frames := true, decs := true, flog := true, links := true, mem := true } : Touch).le M = true) (hs : Keep M b0 s) :
    Keep M b0 (missWaiting s p) := by
  unfold missWaiting
  repeat' (first
    | with_reducible assumption | (with_reducible intro _) | ((with_reducible refine touch_below hm ?_); rfl)
    | with_reducible refine missStep_keep ?_ ?_ | with_reducible refine modPlan_keep ?_ ?_ | split)

theorem endPending_keep {M : Touch} {b0 : State} {s : State} (hm : ({ free := true, dev := true, pwr := true, fns := true, ctxs := true, tags := true, plans := true, threads := true, preds := true, tables := true, frames := true, decs := true, pins := true, limbo := true, flog := true, slideP := true, resumeAt := true, links := true, attic := true, mem := true, host := true } : Touch).le M = true) (hs : Keep M b0 s) :
    Keep M b0 (endPending s) := by
  unfold endPending
  repeat' (first
    | with_reducible assumption | (with_reducible exact keep_refl _ _) | with_reducible refine keepOut_next ?_
    | ((with_reducible intro x); refine keep_cut (m := M) (s := b0) x ?_ (fun _ => ?_); subst x)
    | ((with_reducible intro x); refine keep_cut_fst (m := M) (s := b0) x ?_ (fun _ => ?_); subst x)
    | ((with_reducible intro x); refine keep_cut_snd (m := M) (s := b0) x ?_ (fun _ => ?_); subst x)
    | ((with_reducible intro x); refine keep_cut_some (m := M) (s := b0) x ?_ (fun _ => ?_); subst x)
    | ((with_reducible intro x); refine keep_cut_pair (m := M) (s := b0) x ?_ (fun _ => ?_); subst x)
    | ((with_reducible intro x); refine keep_cut_run (m := M) (s := b0) x ?_ (fun _ => ?_); subst x)
    | ((with_reducible intro x); refine cell_id x ?_; subst x) | ((with_reducible intro x); refine fun_id x ?_; subst x)
    | ((with_reducible intro x); clear_value x) | (with_reducible intro _) | lift_lets
    | ((with_reducible refine touch_below hm ?_); rfl) | with_reducible refine missWaiting_keep ?_ ?_
    | with_reducible refine finishStops_keep ?_ ?_ | with_reducible refine slideBy_keep ?_ ?_
    | (with_reducible dsimp -zeta only [keep_mk]) | with_reducible refine keep_slideP ?_ ?_
    | with_reducible refine keep_elim ?_ ?_ | with_reducible refine keep_getD ?_ ?_
    | with_reducible refine keep_foldl_fst ?_ ?_ | with_reducible refine keep_repeat ?_ ?_
    | with_reducible refine keep_foldl_snd ?_ ?_ | with_reducible refine keep_ite ?_ ?_
    | with_reducible refine keep_foldl ?_ ?_ | with_reducible exact keep_of_fst (by assumption) (by assumption)
    | with_reducible exact keep_enter (by assumption) (by assumption)
    | with_reducible exact keepSome_elim (by assumption) (by assumption)
    | with_reducible exact keepPair_elim (by assumption) (by assumption)
    | with_reducible exact keepPair_elim2 (by assumption) (by assumption)
    | with_reducible exact keep_of_snd (by assumption) (by assumption) | split | with_reducible refine keepSome_bind ?_
    | with_reducible refine keepSome_elim ?_ (by assumption) | (cases ‹_ = some _›) | (with_reducible dsimp only))

theorem peerSilent_keep {M : Touch} {b0 : State} {s : State} (hm : ({ free := true, dev := true, pwr := true, fns := true, ctxs := true, tags := true, plans := true, threads := true, preds := true, tables := true, frames := true, decs := true, pins := true, limbo := true, flog := true, slideP := true, resumeAt := true, links := true, attic := true, mem := true, host := true } : Touch).le M = true) (hs : Keep M b0 s) :
    Keep M b0 (peerSilent s) := by
  unfold peerSilent
  repeat' (first
    | with_reducible assumption | (with_reducible intro _) | ((with_reducible refine touch_below hm ?_); rfl)
    | with_reducible refine drive_keep ?_ ?_ | with_reducible refine settle_keep ?_ ?_
    | with_reducible refine endPending_keep ?_ ?_ | with_reducible refine logFault_keep ?_ ?_ | split)

theorem execPeerSilent_keep {M : Touch} {b0 : State} {s : State} (hm : ({ free := true, dev := true, pwr := true, fns := true, ctxs := true, tags := true, plans := true, threads := true, preds := true, tables := true, frames := true, decs := true, pins := true, limbo := true, flog := true, slideP := true, resumeAt := true, links := true, attic := true, mem := true, host := true } : Touch).le M = true) (hs : Keep M b0 s) :
    KeepOut M b0 (execPeerSilent s) := by
  unfold execPeerSilent
  repeat' (first
    | with_reducible assumption | with_reducible refine keepOut_next ?_ | with_reducible refine peerSilent_keep ?_ ?_)

theorem blamePartner_keep {M : Touch} {b0 : State} {f : Nat} {s : State} {p : Plan} (hm : ({ plans := true } : Touch).le M = true) (hs : Keep M b0 s) :
    Keep M b0 (blamePartner f s p) := by
  unfold blamePartner
  repeat' (first
    | with_reducible assumption | (with_reducible intro _) | with_reducible refine setCause_keep ?_ ?_ | split)

theorem partnerFailed_keep {M : Touch} {b0 : State} {s : State} {f : Nat} {port : Nat} (hm : ({ free := true, dev := true, tick := true, pwr := true, fns := true, ctxs := true, tags := true, plans := true, threads := true, preds := true, tables := true, frames := true, decs := true, pins := true, limbo := true, flog := true, slideP := true, resumeAt := true, links := true, attic := true, mem := true, host := true } : Touch).le M = true) (hs : Keep M b0 s) :
    Keep M b0 (partnerFailed s f port) := by
  unfold partnerFailed
  repeat' (first
    | with_reducible assumption | ((with_reducible intro x); refine keep_cut (m := M) (s := b0) x ?_ (fun _ => ?_); subst x)
    | (with_reducible intro _) | ((with_reducible refine touch_below hm ?_); rfl)
    | with_reducible refine blamePartner_keep ?_ ?_ | with_reducible refine drive_keep ?_ ?_
    | with_reducible refine settle_keep ?_ ?_ | with_reducible refine endPending_keep ?_ ?_
    | with_reducible refine leaveUp_keep ?_ ?_ | with_reducible refine keep_foldl ?_ ?_)

theorem failstopIn_keep {M : Touch} {b0 : State} {s : State} {m : Msg} (hm : ({ free := true, dev := true, tick := true, pwr := true, fns := true, ctxs := true, tags := true, plans := true, threads := true, preds := true, tables := true, frames := true, decs := true, pins := true, limbo := true, flog := true, slideP := true, resumeAt := true, links := true, attic := true, mem := true, host := true } : Touch).le M = true) (hs : Keep M b0 s) :
    Keep M b0 (failstopIn s m) := by
  unfold failstopIn
  repeat' (first
    | with_reducible assumption | (with_reducible intro _) | ((with_reducible refine touch_below hm ?_); rfl)
    | with_reducible refine passOn_keep ?_ ?_ | with_reducible refine partnerFailed_keep ?_ ?_
    | with_reducible refine releaseMsg_keep ?_ ?_ | with_reducible refine bumpRx_keep ?_ ?_ | split)

theorem execFailstopMessage_keep {M : Touch} {b0 : State} {msg : Msg} {s : State} (hm : ({ free := true, dev := true, tick := true, pwr := true, fns := true, ctxs := true, tags := true, plans := true, threads := true, preds := true, tables := true, frames := true, decs := true, pins := true, limbo := true, flog := true, slideP := true, resumeAt := true, links := true, attic := true, mem := true, host := true } : Touch).le M = true) (hs : Keep M b0 s) :
    KeepOut M b0 (execFailstopMessage msg s) := by
  unfold execFailstopMessage
  repeat' (first
    | with_reducible assumption | with_reducible refine keepOut_next ?_ | with_reducible refine failstopIn_keep ?_ ?_)

theorem execFailstopFlit_keep {M : Touch} {b0 : State} {port : Nat} {flit : List Byte} {s : State} (hm : ({ free := true, dev := true, tick := true, pwr := true, fns := true, ctxs := true, tags := true, plans := true, threads := true, preds := true, tables := true, frames := true, decs := true, pins := true, limbo := true, flog := true, slideP := true, resumeAt := true, links := true, attic := true, mem := true, host := true } : Touch).le M = true) (hs : Keep M b0 s) :
    KeepOut M b0 (execFailstopFlit port flit s) := by
  unfold execFailstopFlit
  repeat' (first
    | with_reducible assumption | with_reducible refine keepOut_next ?_ | (with_reducible intro _)
    | ((with_reducible refine touch_below hm ?_); rfl) | with_reducible refine rxFlit_keep ?_ ?_ ?_
    | with_reducible refine partnerFailed_keep ?_ ?_ | split)

theorem announce_keep {M : Touch} {b0 : State} {s : State} (hm : ({ dev := true, links := true } : Touch).le M = true) (hs : Keep M b0 s) :
    Keep M b0 (announce s) := by
  unfold announce
  repeat' (first
    | with_reducible assumption | ((with_reducible intro x); refine keep_cut (m := M) (s := b0) x ?_ (fun _ => ?_); subst x)
    | (with_reducible intro _) | ((with_reducible refine touch_below hm ?_); rfl) | with_reducible refine sendFw_keep ?_ ?_
    | (with_reducible dsimp -zeta only [keep_mk]) | with_reducible refine keep_dev_links ?_ ?_
    | with_reducible refine keep_foldl ?_ ?_ | split | (with_reducible dsimp only))

theorem failstopNow_keep {M : Touch} {b0 : State} {s : State} {code : BitVec 16} {d0 : DWord} {d1 : DWord} (hm : ({ dev := true, flog := true, links := true } : Touch).le M = true) (hs : Keep M b0 s) :
    Keep M b0 (failstopNow s code d0 d1) := by
  unfold failstopNow
  repeat' (first
    | with_reducible assumption | (with_reducible intro _) | ((with_reducible refine touch_below hm ?_); rfl)
    | with_reducible refine announce_keep ?_ ?_ | with_reducible refine failStop_keep ?_ ?_ | split)

theorem execFailstop_keep {M : Touch} {b0 : State} {code : BitVec 16} {detail0 : DWord} {detail1 : DWord} {s : State} (hm : ({ dev := true, flog := true, links := true } : Touch).le M = true) (hs : Keep M b0 s) :
    KeepOut M b0 (execFailstop code detail0 detail1 s) := by
  unfold execFailstop
  repeat' (first
    | with_reducible assumption | with_reducible refine keepOut_next ?_ | with_reducible refine failstopNow_keep ?_ ?_)

theorem saveLog_keep {M : Touch} {b0 : State} {s : State} (hm : ({ dev := true, attic := true } : Touch).le M = true) (hs : Keep M b0 s) :
    Keep M b0 (saveLog s) := by
  unfold saveLog
  repeat' (first
    | with_reducible assumption | (with_reducible intro _) | (with_reducible dsimp -zeta only [keep_mk])
    | with_reducible refine keep_dev_attic ?_ ?_ | split)

theorem execFaultLogSave_keep {M : Touch} {b0 : State} {s : State} (hm : ({ dev := true, attic := true } : Touch).le M = true) (hs : Keep M b0 s) :
    KeepOut M b0 (execFaultLogSave s) := by
  unfold execFaultLogSave
  repeat' (first
    | with_reducible assumption | with_reducible refine keepOut_next ?_ | (with_reducible intro _)
    | with_reducible refine saveLog_keep ?_ ?_ | split)

end Sys2Proof.Laws
end

