-- ==== Sys2Proof/Laws/KeepModule.lean ====
section
/-! SUPPORT. What each operation of Machine/Module.lean may change. -/
namespace Sys2Proof.Laws

open Sys2Proof Sys2Proof.Machine
set_option linter.unusedVariables false

theorem heatSample_keep {M : Touch} {b0 : State} {s : State} {floor : Nat} {temp : Nat} (hm : ({ pwr := true } : Touch).le M = true) (hs : Keep M b0 s) :
    Keep M b0 (heatSample s floor temp) := by
  unfold heatSample
  repeat' (first
    | with_reducible assumption | (with_reducible dsimp -zeta only [keep_mk]) | with_reducible refine keep_pwr ?_ ?_
    | (with_reducible dsimp only))

theorem heatTrip_keep {M : Touch} {b0 : State} {s : State} {floor : Nat} {temp : Nat} (hm : ({ dev := true, pwr := true, flog := true, links := true } : Touch).le M = true) (hs : Keep M b0 s) :
    Keep M b0 (heatTrip s floor temp) := by
  unfold heatTrip
  repeat' (first
    | with_reducible assumption | ((with_reducible intro x); refine keep_cut (m := M) (s := b0) x ?_ (fun _ => ?_); subst x)
    | (with_reducible intro _) | ((with_reducible refine touch_below hm ?_); rfl) | with_reducible refine failStop_keep ?_ ?_
    | (with_reducible dsimp -zeta only [keep_mk]) | with_reducible refine keep_pwr ?_ ?_ | split | (with_reducible dsimp only))

theorem execThermalEvent_keep {M : Touch} {b0 : State} {floor : Nat} {temp : Nat} {s : State} (hm : ({ dev := true, pwr := true, flog := true, links := true } : Touch).le M = true) (hs : Keep M b0 s) :
    KeepOut M b0 (execThermalEvent floor temp s) := by
  unfold execThermalEvent
  repeat' (first
    | with_reducible assumption | with_reducible refine keepOut_next ?_ | (with_reducible intro _)
    | ((with_reducible refine touch_below hm ?_); rfl) | with_reducible refine heatTrip_keep ?_ ?_
    | with_reducible refine heatSample_keep ?_ ?_ | split)

theorem droopBegin_keep {M : Touch} {b0 : State} {s : State} {floor : Nat} {time : Nat} (hm : ({ now := true, pwr := true } : Touch).le M = true) (hs : Keep M b0 s) :
    Keep M b0 (droopBegin s floor time) := by
  unfold droopBegin
  repeat' (first
    | with_reducible assumption | (with_reducible intro _) | (with_reducible dsimp -zeta only [keep_mk])
    | with_reducible refine keep_now_pwr ?_ ?_ | split)

theorem execDroopDetect_keep {M : Touch} {b0 : State} {floor : Nat} {time : Nat} {s : State} (hm : ({ now := true, pwr := true } : Touch).le M = true) (hs : Keep M b0 s) :
    KeepOut M b0 (execDroopDetect floor time s) := by
  unfold execDroopDetect
  repeat' (first
    | with_reducible assumption | with_reducible refine keepOut_next ?_ | with_reducible refine droopBegin_keep ?_ ?_)

theorem droopEnd_keep {M : Touch} {b0 : State} {s : State} {floor : Nat} {time : Nat} (hm : ({ now := true, pwr := true } : Touch).le M = true) (hs : Keep M b0 s) :
    Keep M b0 (droopEnd s floor time) := by
  unfold droopEnd
  repeat' (first
    | with_reducible assumption | (with_reducible intro _) | (with_reducible dsimp -zeta only [keep_mk])
    | with_reducible refine keep_now_pwr ?_ ?_ | split)

theorem execDroopRecovery_keep {M : Touch} {b0 : State} {floor : Nat} {time : Nat} {s : State} (hm : ({ now := true, pwr := true } : Touch).le M = true) (hs : Keep M b0 s) :
    KeepOut M b0 (execDroopRecovery floor time s) := by
  unfold execDroopRecovery
  repeat' (first
    | with_reducible assumption | with_reducible refine keepOut_next ?_ | with_reducible refine droopEnd_keep ?_ ?_)

theorem stepBack_keep {M : Touch} {b0 : State} {s : State} {floor : Nat} (hm : ({ pwr := true } : Touch).le M = true) (hs : Keep M b0 s) :
    Keep M b0 (stepBack s floor) := by
  unfold stepBack
  repeat' (first
    | with_reducible assumption | (with_reducible intro _) | (with_reducible dsimp -zeta only [keep_mk])
    | with_reducible refine keep_pwr ?_ ?_ | split)

theorem execSetpointStepBack_keep {M : Touch} {b0 : State} {floor : Nat} {s : State} (hm : ({ pwr := true } : Touch).le M = true) (hs : Keep M b0 s) :
    KeepOut M b0 (execSetpointStepBack floor s) := by
  unfold execSetpointStepBack
  repeat' (first
    | with_reducible assumption | with_reducible refine keepOut_next ?_ | with_reducible refine stepBack_keep ?_ ?_)

theorem boardCap_keep {M : Touch} {b0 : State} {s : State} {exc : Bool} {watts : Nat} (hm : ({ pwr := true } : Touch).le M = true) (hs : Keep M b0 s) :
    Keep M b0 (boardCap s exc watts) := by
  unfold boardCap
  repeat' (first
    | with_reducible assumption | ((with_reducible intro x); refine keep_cut (m := M) (s := b0) x ?_ (fun _ => ?_); subst x)
    | (with_reducible intro _) | with_reducible refine lowerCaps_keep ?_ ?_ | (with_reducible dsimp -zeta only [keep_mk])
    | with_reducible refine keep_pwr ?_ ?_ | split | (with_reducible dsimp only))

theorem execBoardCapWrite_keep {M : Touch} {b0 : State} {exc : Bool} {watts : Nat} {s : State} (hm : ({ pwr := true } : Touch).le M = true) (hs : Keep M b0 s) :
    KeepOut M b0 (execBoardCapWrite exc watts s) := by
  unfold execBoardCapWrite
  repeat' (first
    | with_reducible assumption | with_reducible refine keepOut_next ?_ | with_reducible refine boardCap_keep ?_ ?_)

theorem sensorValue_keep {M : Touch} {b0 : State} {s : State} {q : Sensor} (hm : ({ free := true } : Touch).le M = true) (hs : Keep M b0 s) :
    Keep M b0 (sensorValue s q).2 := by
  unfold sensorValue
  repeat' (first | with_reducible assumption | with_reducible refine freshBits_keep_eq ?_ ?_ (by assumption) | split)
theorem sensorValue_keep_eq {M : Touch} {b0 : State} {s : State} {q : Sensor} {w9} {u9 : State} (hm : ({ free := true } : Touch).le M = true) (hs : Keep M b0 s) (e9 : sensorValue s q = (w9, u9)) : Keep M b0 u9 := by
  have := sensorValue_keep (M := M) (b0 := b0) (s := s) (q := q) hm hs; rw [e9] at this; exact this

theorem sensorRead_keep {M : Touch} {b0 : State} {s : State} {q : Sensor} (hm : ({ free := true, dev := true } : Touch).le M = true) (hs : Keep M b0 s) :
    Keep M b0 (sensorRead s q) := by
  unfold sensorRead
  repeat' (first
    | with_reducible assumption | (with_reducible intro _) | ((with_reducible refine touch_below hm ?_); rfl)
    | with_reducible refine sensorValue_keep ?_ ?_ | (with_reducible dsimp -zeta only [keep_mk])
    | with_reducible refine keep_dev ?_ ?_ | split)

theorem execPldmSensorRead_keep {M : Touch} {b0 : State} {sensor : Sensor} {s : State} (hm : ({ free := true, dev := true } : Touch).le M = true) (hs : Keep M b0 s) :
    KeepOut M b0 (execPldmSensorRead sensor s) := by
  unfold execPldmSensorRead
  repeat' (first
    | with_reducible assumption | with_reducible refine keepOut_next ?_ | with_reducible refine sensorRead_keep ?_ ?_)

theorem execJtagInstruction_keep {M : Touch} {b0 : State} {ins : JtagIns} {s : State} (hm : ({ dev := true } : Touch).le M = true) (hs : Keep M b0 s) :
    KeepOut M b0 (execJtagInstruction ins s) := by
  unfold execJtagInstruction
  repeat' (first
    | with_reducible assumption | with_reducible refine keepOut_next ?_ | (with_reducible intro _)
    | (with_reducible dsimp -zeta only [keep_mk]) | with_reducible refine keep_dev ?_ ?_ | split)

theorem coldState_keep {M : Touch} {b0 : State} {s : State} (hm : ({ dev := true, tick := true, pwr := true, fns := true, ctxs := true, tags := true, plans := true, threads := true, preds := true, tables := true, frames := true, decs := true, pins := true, limbo := true, flog := true, hw := true, recov := true, slideP := true, slides := true, resumeAt := true, slideDue := true, books := true, badBooks := true, fullAudit := true, links := true, attic := true, mem := true } : Touch).le M = true) (hs : Keep M b0 s) :
    Keep M b0 (coldState s) := by
  unfold coldState
  show KeepMk _ _ _ _ _ _ _ _ _ _ _ _ _ _ _ _ _ _ _ _ _ _ _ _ _ _ _ _ _ _ _ _ _
  exact keep_cold (touch_below hm rfl) (fun _ => rfl) hs

theorem supplyGone_keep {M : Touch} {b0 : State} {s : State} (hm : ({ dev := true, tick := true, pwr := true, fns := true, ctxs := true, tags := true, plans := true, threads := true, preds := true, tables := true, frames := true, decs := true, pins := true, limbo := true, flog := true, hw := true, recov := true, slideP := true, slides := true, resumeAt := true, slideDue := true, books := true, badBooks := true, fullAudit := true, links := true, attic := true, mem := true } : Touch).le M = true) (hs : Keep M b0 s) :
    Keep M b0 (supplyGone s) := by
  unfold supplyGone
  repeat' (first
    | with_reducible assumption | ((with_reducible intro x); refine keep_cut (m := M) (s := b0) x ?_ (fun _ => ?_); subst x)
    | (with_reducible intro _) | ((with_reducible refine touch_below hm ?_); rfl) | with_reducible refine coldState_keep ?_ ?_
    | (with_reducible dsimp -zeta only [keep_mk]) | with_reducible refine keep_pwr ?_ ?_ | split | (with_reducible dsimp only))

theorem execSupplyLoss_keep {M : Touch} {b0 : State} {s : State} (hm : ({ dev := true, tick := true, pwr := true, fns := true, ctxs := true, tags := true, plans := true, threads := true, preds := true, tables := true, frames := true, decs := true, pins := true, limbo := true, flog := true, hw := true, recov := true, slideP := true, slides := true, resumeAt := true, slideDue := true, books := true, badBooks := true, fullAudit := true, links := true, attic := true, mem := true } : Touch).le M = true) (hs : Keep M b0 s) :
    KeepOut M b0 (execSupplyLoss s) := by
  unfold execSupplyLoss
  repeat' (first
    | with_reducible assumption | with_reducible refine keepOut_next ?_ | with_reducible refine supplyGone_keep ?_ ?_)

theorem supplyUp_keep {M : Touch} {b0 : State} {s : State} {sel1 : Bool} {sel0 : Bool} (hm : ({ dev := true, pwr := true } : Touch).le M = true) (hs : Keep M b0 s) :
    Keep M b0 (supplyUp s sel1 sel0) := by
  unfold supplyUp
  repeat' (first
    | with_reducible assumption | (with_reducible intro _) | (with_reducible dsimp -zeta only [keep_mk])
    | with_reducible refine keep_dev_pwr ?_ ?_ | split)

theorem execSupplyInRange_keep {M : Touch} {b0 : State} {sel1 : Bool} {sel0 : Bool} {s : State} (hm : ({ dev := true, pwr := true } : Touch).le M = true) (hs : Keep M b0 s) :
    KeepOut M b0 (execSupplyInRange sel1 sel0 s) := by
  unfold execSupplyInRange
  repeat' (first
    | with_reducible assumption | with_reducible refine keepOut_next ?_ | with_reducible refine supplyUp_keep ?_ ?_)

theorem clockLost_keep {M : Touch} {b0 : State} {s : State} (hm : ({ dev := true, pwr := true, flog := true, links := true } : Touch).le M = true) (hs : Keep M b0 s) :
    Keep M b0 (clockLost s) := by
  unfold clockLost
  repeat' (first
    | with_reducible assumption | ((with_reducible intro x); refine keep_cut (m := M) (s := b0) x ?_ (fun _ => ?_); subst x)
    | (with_reducible intro _) | ((with_reducible refine touch_below hm ?_); rfl) | with_reducible refine failStop_keep ?_ ?_
    | (with_reducible dsimp -zeta only [keep_mk]) | with_reducible refine keep_pwr ?_ ?_ | split | (with_reducible dsimp only))

theorem execRefclkLoss_keep {M : Touch} {b0 : State} {s : State} (hm : ({ dev := true, pwr := true, flog := true, links := true } : Touch).le M = true) (hs : Keep M b0 s) :
    KeepOut M b0 (execRefclkLoss s) := by
  unfold execRefclkLoss
  repeat' (first
    | with_reducible assumption | with_reducible refine keepOut_next ?_ | with_reducible refine clockLost_keep ?_ ?_)

theorem perstDown_keep {M : Touch} {b0 : State} {s : State} (hm : ({ dev := true, tick := true, pwr := true, fns := true, ctxs := true, tags := true, plans := true, threads := true, preds := true, tables := true, frames := true, decs := true, pins := true, limbo := true, flog := true, hw := true, recov := true, slideP := true, slides := true, resumeAt := true, slideDue := true, books := true, badBooks := true, fullAudit := true, links := true, attic := true, mem := true } : Touch).le M = true) (hs : Keep M b0 s) :
    Keep M b0 (perstDown s) := by
  unfold perstDown
  repeat' (first
    | with_reducible assumption | ((with_reducible intro x); refine keep_cut (m := M) (s := b0) x ?_ (fun _ => ?_); subst x)
    | (with_reducible intro _) | ((with_reducible refine touch_below hm ?_); rfl) | with_reducible refine coldState_keep ?_ ?_
    | with_reducible refine saveLog_keep ?_ ?_ | (with_reducible dsimp -zeta only [keep_mk])
    | with_reducible refine keep_dev_pwr ?_ ?_ | split | (with_reducible dsimp only))

theorem execPerstAssert_keep {M : Touch} {b0 : State} {s : State} (hm : ({ dev := true, tick := true, pwr := true, fns := true, ctxs := true, tags := true, plans := true, threads := true, preds := true, tables := true, frames := true, decs := true, pins := true, limbo := true, flog := true, hw := true, recov := true, slideP := true, slides := true, resumeAt := true, slideDue := true, books := true, badBooks := true, fullAudit := true, links := true, attic := true, mem := true } : Touch).le M = true) (hs : Keep M b0 s) :
    KeepOut M b0 (execPerstAssert s) := by
  unfold execPerstAssert
  repeat' (first
    | with_reducible assumption | with_reducible refine keepOut_next ?_ | with_reducible refine perstDown_keep ?_ ?_)

theorem bootCfg_keep {M : Touch} {b0 : State} {s : State} (hm : ({ attic := true } : Touch).le M = true) (hs : Keep M b0 s) :
    Keep M b0 (bootCfg s).1 := by
  unfold bootCfg
  repeat' (first
    | with_reducible assumption | (with_reducible dsimp -zeta only [keep_mk]) | with_reducible refine keep_attic ?_ ?_ | split
    | (with_reducible dsimp only))
theorem bootCfg_keep_eq {M : Touch} {b0 : State} {s : State} {w9} {u9 : State} (hm : ({ attic := true } : Touch).le M = true) (hs : Keep M b0 s) (e9 : bootCfg s = (u9, w9)) : Keep M b0 u9 := by
  have := bootCfg_keep (M := M) (b0 := b0) (s := s) hm hs; rw [e9] at this; exact this

theorem bootLog_keep {M : Touch} {b0 : State} {s : State} (hm : ({ flog := true, attic := true } : Touch).le M = true) (hs : Keep M b0 s) :
    Keep M b0 (bootLog s) := by
  unfold bootLog
  repeat' (first
    | with_reducible assumption | ((with_reducible intro x); refine keep_cut (m := M) (s := b0) x ?_ (fun _ => ?_); subst x)
    | ((with_reducible refine touch_below hm ?_); rfl) | with_reducible refine logFault_keep ?_ ?_
    | (with_reducible dsimp -zeta only [keep_mk]) | with_reducible refine keep_flog_attic ?_ ?_ | split
    | (with_reducible dsimp only))

theorem bootSettings_keep {M : Touch} {b0 : State} {s : State} {c : Cfg} (hm : ({ dev := true, pwr := true } : Touch).le M = true) (hs : Keep M b0 s) :
    Keep M b0 (bootSettings s c) := by
  unfold bootSettings
  repeat' (first
    | with_reducible assumption | ((with_reducible refine touch_below hm ?_); rfl)
    | with_reducible refine boundaryCaps_keep ?_ ?_ | (with_reducible dsimp -zeta only [keep_mk])
    | with_reducible refine keep_dev_pwr ?_ ?_)

theorem bootBundle_keep {M : Touch} {b0 : State} {s : State} {k : Bool} (hm : ({ dev := true } : Touch).le M = true) (hs : Keep M b0 s) :
    Keep M b0 (bootBundle s k) := by
  unfold bootBundle
  repeat' (first
    | with_reducible assumption | (with_reducible dsimp -zeta only [keep_mk]) | with_reducible refine keep_dev ?_ ?_)

theorem enterService_keep {M : Touch} {b0 : State} {s : State} {c : Cfg} {time : Nat} (hm : ({ now := true, dev := true, tick := true, pwr := true, flog := true, links := true } : Touch).le M = true) (hs : Keep M b0 s) :
    Keep M b0 (enterService s c time) := by
  unfold enterService
  repeat' (first
    | with_reducible assumption | ((with_reducible intro x); refine keep_cut (m := M) (s := b0) x ?_ (fun _ => ?_); subst x)
    | (with_reducible intro _) | lift_lets | ((with_reducible refine touch_below hm ?_); rfl)
    | with_reducible refine tickEvent_keep ?_ ?_ | (with_reducible dsimp -zeta only [keep_mk])
    | with_reducible refine keep_now_dev_pwr_links ?_ ?_ | with_reducible refine keep_tick ?_ ?_)

theorem enterRecovery_keep {M : Touch} {b0 : State} {s : State} {l : List BootFault} (hm : ({ dev := true, flog := true } : Touch).le M = true) (hs : Keep M b0 s) :
    Keep M b0 (enterRecovery s l) := by
  unfold enterRecovery
  repeat' (first
    | with_reducible assumption | ((with_reducible intro x); refine keep_cut (m := M) (s := b0) x ?_ (fun _ => ?_); subst x)
    | (with_reducible intro _) | ((with_reducible refine touch_below hm ?_); rfl) | with_reducible refine logFault_keep ?_ ?_
    | (with_reducible dsimp -zeta only [keep_mk]) | with_reducible refine keep_dev ?_ ?_
    | with_reducible refine keep_foldl ?_ ?_)

theorem bootHw_keep {M : Touch} {b0 : State} {s : State} {l : List Part} {failed : List Part} (hm : ({ hw := true, attic := true } : Touch).le M = true) (hs : Keep M b0 s) :
    Keep M b0 (bootHw s l failed) := by
  unfold bootHw
  repeat' (first
    | with_reducible assumption | (with_reducible dsimp -zeta only [keep_mk]) | with_reducible refine keep_hw_attic ?_ ?_)

theorem startUp_keep {M : Touch} {b0 : State} {s : State} {time : Nat} {obs : BootObs} (hm : ({ now := true, dev := true, tick := true, pwr := true, flog := true, hw := true, links := true, attic := true } : Touch).le M = true) (hs : Keep M b0 s) :
    Keep M b0 (startUp s time obs) := by
  unfold startUp
  repeat' (first
    | with_reducible assumption | (with_reducible exact keep_refl _ _) | with_reducible refine keepOut_next ?_
    | ((with_reducible intro x); refine keep_cut (m := M) (s := b0) x ?_ (fun _ => ?_); subst x)
    | ((with_reducible intro x); refine keep_cut_fst (m := M) (s := b0) x ?_ (fun _ => ?_); subst x)
    | ((with_reducible intro x); refine keep_cut_snd (m := M) (s := b0) x ?_ (fun _ => ?_); subst x)
    | ((with_reducible intro x); refine keep_cut_some (m := M) (s := b0) x ?_ (fun _ => ?_); subst x)
    | ((with_reducible intro x); refine keep_cut_pair (m := M) (s := b0) x ?_ (fun _ => ?_); subst x)
    | ((with_reducible intro x); refine keep_cut_run (m := M) (s := b0) x ?_ (fun _ => ?_); subst x)
    | ((with_reducible intro x); refine cell_id x ?_; subst x) | ((with_reducible intro x); refine fun_id x ?_; subst x)
    | ((with_reducible intro x); clear_value x) | (with_reducible intro _) | lift_lets
    | ((with_reducible refine touch_below hm ?_); rfl) | with_reducible refine bootLog_keep ?_ ?_
    | with_reducible refine bootCfg_keep ?_ ?_ | with_reducible refine bootCfg_keep_eq ?_ ?_ (by assumption)
    | with_reducible refine bootSettings_keep ?_ ?_ | with_reducible refine bootBundle_keep ?_ ?_
    | with_reducible refine fillBoot_keep ?_ ?_ | with_reducible refine fillSlots_keep ?_ ?_
    | with_reducible refine bootHw_keep ?_ ?_ | with_reducible refine enterService_keep ?_ ?_
    | with_reducible refine enterRecovery_keep ?_ ?_ | (with_reducible dsimp -zeta only [keep_mk])
    | with_reducible refine keep_now_dev_pwr ?_ ?_ | with_reducible refine keep_now_dev ?_ ?_
    | with_reducible refine keep_now ?_ ?_ | with_reducible refine keep_elim ?_ ?_ | with_reducible refine keep_getD ?_ ?_
    | with_reducible refine keep_foldl_fst ?_ ?_ | with_reducible refine keep_repeat ?_ ?_
    | with_reducible refine keep_foldl_snd ?_ ?_ | with_reducible refine keep_ite ?_ ?_
    | with_reducible refine keep_foldl ?_ ?_ | with_reducible exact keep_of_fst (by assumption) (by assumption)
    | with_reducible exact keep_enter (by assumption) (by assumption)
    | with_reducible exact keepSome_elim (by assumption) (by assumption)
    | with_reducible exact keepPair_elim (by assumption) (by assumption)
    | with_reducible exact keepPair_elim2 (by assumption) (by assumption)
    | with_reducible exact keep_of_snd (by assumption) (by assumption) | split | with_reducible refine keepSome_bind ?_
    | with_reducible refine keepSome_elim ?_ (by assumption) | (cases ‹_ = some _›) | (with_reducible dsimp only))

theorem execPerstRelease_keep {M : Touch} {b0 : State} {time : Nat} {obs : BootObs} {s : State} (hm : ({ now := true, dev := true, tick := true, pwr := true, flog := true, hw := true, links := true, attic := true } : Touch).le M = true) (hs : Keep M b0 s) :
    KeepOut M b0 (execPerstRelease time obs s) := by
  unfold execPerstRelease
  repeat' (first
    | with_reducible assumption | with_reducible refine keepOut_next ?_ | (with_reducible intro _)
    | with_reducible refine startUp_keep ?_ ?_ | split)

end Sys2Proof.Laws
end

