-- ==== Sys2Proof/Laws/State.lean ====
section
/-! SUPPORT. What the named updates of the state leave as it is, and what a read finds after an update. -/
namespace Sys2Proof.Laws

open Sys2Proof Sys2Proof.Machine

/-! ## setFn -/

@[simp] theorem setFn_pending (s : State) (f : Nat) (p : FnPage) : (setFn s f p).pending = s.pending := rfl
@[simp] theorem setFn_free (s : State) (f : Nat) (p : FnPage) : (setFn s f p).free = s.free := rfl
@[simp] theorem setFn_now (s : State) (f : Nat) (p : FnPage) : (setFn s f p).now = s.now := rfl
@[simp] theorem setFn_dev (s : State) (f : Nat) (p : FnPage) : (setFn s f p).dev = s.dev := rfl
@[simp] theorem setFn_tick (s : State) (f : Nat) (p : FnPage) : (setFn s f p).tick = s.tick := rfl
@[simp] theorem setFn_pwr (s : State) (f : Nat) (p : FnPage) : (setFn s f p).pwr = s.pwr := rfl
@[simp] theorem setFn_ctxs (s : State) (f : Nat) (p : FnPage) : (setFn s f p).ctxs = s.ctxs := rfl
@[simp] theorem setFn_tags (s : State) (f : Nat) (p : FnPage) : (setFn s f p).tags = s.tags := rfl
@[simp] theorem setFn_plans (s : State) (f : Nat) (p : FnPage) : (setFn s f p).plans = s.plans := rfl
@[simp] theorem setFn_threads (s : State) (f : Nat) (p : FnPage) : (setFn s f p).threads = s.threads := rfl
@[simp] theorem setFn_preds (s : State) (f : Nat) (p : FnPage) : (setFn s f p).preds = s.preds := rfl
@[simp] theorem setFn_tables (s : State) (f : Nat) (p : FnPage) : (setFn s f p).tables = s.tables := rfl
@[simp] theorem setFn_frames (s : State) (f : Nat) (p : FnPage) : (setFn s f p).frames = s.frames := rfl
@[simp] theorem setFn_decs (s : State) (f : Nat) (p : FnPage) : (setFn s f p).decs = s.decs := rfl
@[simp] theorem setFn_pins (s : State) (f : Nat) (p : FnPage) : (setFn s f p).pins = s.pins := rfl
@[simp] theorem setFn_limbo (s : State) (f : Nat) (p : FnPage) : (setFn s f p).limbo = s.limbo := rfl
@[simp] theorem setFn_flog (s : State) (f : Nat) (p : FnPage) : (setFn s f p).flog = s.flog := rfl
@[simp] theorem setFn_hw (s : State) (f : Nat) (p : FnPage) : (setFn s f p).hw = s.hw := rfl
@[simp] theorem setFn_recov (s : State) (f : Nat) (p : FnPage) : (setFn s f p).recov = s.recov := rfl
@[simp] theorem setFn_slideP (s : State) (f : Nat) (p : FnPage) : (setFn s f p).slideP = s.slideP := rfl
@[simp] theorem setFn_slides (s : State) (f : Nat) (p : FnPage) : (setFn s f p).slides = s.slides := rfl
@[simp] theorem setFn_resumeAt (s : State) (f : Nat) (p : FnPage) : (setFn s f p).resumeAt = s.resumeAt := rfl
@[simp] theorem setFn_slideDue (s : State) (f : Nat) (p : FnPage) : (setFn s f p).slideDue = s.slideDue := rfl
@[simp] theorem setFn_books (s : State) (f : Nat) (p : FnPage) : (setFn s f p).books = s.books := rfl
@[simp] theorem setFn_badBooks (s : State) (f : Nat) (p : FnPage) : (setFn s f p).badBooks = s.badBooks := rfl
@[simp] theorem setFn_fullAudit (s : State) (f : Nat) (p : FnPage) : (setFn s f p).fullAudit = s.fullAudit := rfl
@[simp] theorem setFn_links (s : State) (f : Nat) (p : FnPage) : (setFn s f p).links = s.links := rfl
@[simp] theorem setFn_attic (s : State) (f : Nat) (p : FnPage) : (setFn s f p).attic = s.attic := rfl
@[simp] theorem setFn_mem (s : State) (f : Nat) (p : FnPage) : (setFn s f p).mem = s.mem := rfl
@[simp] theorem setFn_host (s : State) (f : Nat) (p : FnPage) : (setFn s f p).host = s.host := rfl

/-! ## modFn -/

@[simp] theorem modFn_pending (s : State) (f : Nat) (g : FnPage → FnPage) : (modFn s f g).pending = s.pending := rfl
@[simp] theorem modFn_free (s : State) (f : Nat) (g : FnPage → FnPage) : (modFn s f g).free = s.free := rfl
@[simp] theorem modFn_now (s : State) (f : Nat) (g : FnPage → FnPage) : (modFn s f g).now = s.now := rfl
@[simp] theorem modFn_dev (s : State) (f : Nat) (g : FnPage → FnPage) : (modFn s f g).dev = s.dev := rfl
@[simp] theorem modFn_tick (s : State) (f : Nat) (g : FnPage → FnPage) : (modFn s f g).tick = s.tick := rfl
@[simp] theorem modFn_pwr (s : State) (f : Nat) (g : FnPage → FnPage) : (modFn s f g).pwr = s.pwr := rfl
@[simp] theorem modFn_ctxs (s : State) (f : Nat) (g : FnPage → FnPage) : (modFn s f g).ctxs = s.ctxs := rfl
@[simp] theorem modFn_tags (s : State) (f : Nat) (g : FnPage → FnPage) : (modFn s f g).tags = s.tags := rfl
@[simp] theorem modFn_plans (s : State) (f : Nat) (g : FnPage → FnPage) : (modFn s f g).plans = s.plans := rfl
@[simp] theorem modFn_threads (s : State) (f : Nat) (g : FnPage → FnPage) : (modFn s f g).threads = s.threads := rfl
@[simp] theorem modFn_preds (s : State) (f : Nat) (g : FnPage → FnPage) : (modFn s f g).preds = s.preds := rfl
@[simp] theorem modFn_tables (s : State) (f : Nat) (g : FnPage → FnPage) : (modFn s f g).tables = s.tables := rfl
@[simp] theorem modFn_frames (s : State) (f : Nat) (g : FnPage → FnPage) : (modFn s f g).frames = s.frames := rfl
@[simp] theorem modFn_decs (s : State) (f : Nat) (g : FnPage → FnPage) : (modFn s f g).decs = s.decs := rfl
@[simp] theorem modFn_pins (s : State) (f : Nat) (g : FnPage → FnPage) : (modFn s f g).pins = s.pins := rfl
@[simp] theorem modFn_limbo (s : State) (f : Nat) (g : FnPage → FnPage) : (modFn s f g).limbo = s.limbo := rfl
@[simp] theorem modFn_flog (s : State) (f : Nat) (g : FnPage → FnPage) : (modFn s f g).flog = s.flog := rfl
@[simp] theorem modFn_hw (s : State) (f : Nat) (g : FnPage → FnPage) : (modFn s f g).hw = s.hw := rfl
@[simp] theorem modFn_recov (s : State) (f : Nat) (g : FnPage → FnPage) : (modFn s f g).recov = s.recov := rfl
@[simp] theorem modFn_slideP (s : State) (f : Nat) (g : FnPage → FnPage) : (modFn s f g).slideP = s.slideP := rfl
@[simp] theorem modFn_slides (s : State) (f : Nat) (g : FnPage → FnPage) : (modFn s f g).slides = s.slides := rfl
@[simp] theorem modFn_resumeAt (s : State) (f : Nat) (g : FnPage → FnPage) : (modFn s f g).resumeAt = s.resumeAt := rfl
@[simp] theorem modFn_slideDue (s : State) (f : Nat) (g : FnPage → FnPage) : (modFn s f g).slideDue = s.slideDue := rfl
@[simp] theorem modFn_books (s : State) (f : Nat) (g : FnPage → FnPage) : (modFn s f g).books = s.books := rfl
@[simp] theorem modFn_badBooks (s : State) (f : Nat) (g : FnPage → FnPage) : (modFn s f g).badBooks = s.badBooks := rfl
@[simp] theorem modFn_fullAudit (s : State) (f : Nat) (g : FnPage → FnPage) : (modFn s f g).fullAudit = s.fullAudit := rfl
@[simp] theorem modFn_links (s : State) (f : Nat) (g : FnPage → FnPage) : (modFn s f g).links = s.links := rfl
@[simp] theorem modFn_attic (s : State) (f : Nat) (g : FnPage → FnPage) : (modFn s f g).attic = s.attic := rfl
@[simp] theorem modFn_mem (s : State) (f : Nat) (g : FnPage → FnPage) : (modFn s f g).mem = s.mem := rfl
@[simp] theorem modFn_host (s : State) (f : Nat) (g : FnPage → FnPage) : (modFn s f g).host = s.host := rfl

/-! ## setCtx -/

@[simp] theorem setCtx_pending (s : State) (c : Nat) (x : Ctx) : (setCtx s c x).pending = s.pending := rfl
@[simp] theorem setCtx_free (s : State) (c : Nat) (x : Ctx) : (setCtx s c x).free = s.free := rfl
@[simp] theorem setCtx_now (s : State) (c : Nat) (x : Ctx) : (setCtx s c x).now = s.now := rfl
@[simp] theorem setCtx_dev (s : State) (c : Nat) (x : Ctx) : (setCtx s c x).dev = s.dev := rfl
@[simp] theorem setCtx_tick (s : State) (c : Nat) (x : Ctx) : (setCtx s c x).tick = s.tick := rfl
@[simp] theorem setCtx_pwr (s : State) (c : Nat) (x : Ctx) : (setCtx s c x).pwr = s.pwr := rfl
@[simp] theorem setCtx_fns (s : State) (c : Nat) (x : Ctx) : (setCtx s c x).fns = s.fns := rfl
@[simp] theorem setCtx_tags (s : State) (c : Nat) (x : Ctx) : (setCtx s c x).tags = s.tags := rfl
@[simp] theorem setCtx_plans (s : State) (c : Nat) (x : Ctx) : (setCtx s c x).plans = s.plans := rfl
@[simp] theorem setCtx_threads (s : State) (c : Nat) (x : Ctx) : (setCtx s c x).threads = s.threads := rfl
@[simp] theorem setCtx_preds (s : State) (c : Nat) (x : Ctx) : (setCtx s c x).preds = s.preds := rfl
@[simp] theorem setCtx_tables (s : State) (c : Nat) (x : Ctx) : (setCtx s c x).tables = s.tables := rfl
@[simp] theorem setCtx_frames (s : State) (c : Nat) (x : Ctx) : (setCtx s c x).frames = s.frames := rfl
@[simp] theorem setCtx_decs (s : State) (c : Nat) (x : Ctx) : (setCtx s c x).decs = s.decs := rfl
@[simp] theorem setCtx_pins (s : State) (c : Nat) (x : Ctx) : (setCtx s c x).pins = s.pins := rfl
@[simp] theorem setCtx_limbo (s : State) (c : Nat) (x : Ctx) : (setCtx s c x).limbo = s.limbo := rfl
@[simp] theorem setCtx_flog (s : State) (c : Nat) (x : Ctx) : (setCtx s c x).flog = s.flog := rfl
@[simp] theorem setCtx_hw (s : State) (c : Nat) (x : Ctx) : (setCtx s c x).hw = s.hw := rfl
@[simp] theorem setCtx_recov (s : State) (c : Nat) (x : Ctx) : (setCtx s c x).recov = s.recov := rfl
@[simp] theorem setCtx_slideP (s : State) (c : Nat) (x : Ctx) : (setCtx s c x).slideP = s.slideP := rfl
@[simp] theorem setCtx_slides (s : State) (c : Nat) (x : Ctx) : (setCtx s c x).slides = s.slides := rfl
@[simp] theorem setCtx_resumeAt (s : State) (c : Nat) (x : Ctx) : (setCtx s c x).resumeAt = s.resumeAt := rfl
@[simp] theorem setCtx_slideDue (s : State) (c : Nat) (x : Ctx) : (setCtx s c x).slideDue = s.slideDue := rfl
@[simp] theorem setCtx_books (s : State) (c : Nat) (x : Ctx) : (setCtx s c x).books = s.books := rfl
@[simp] theorem setCtx_badBooks (s : State) (c : Nat) (x : Ctx) : (setCtx s c x).badBooks = s.badBooks := rfl
@[simp] theorem setCtx_fullAudit (s : State) (c : Nat) (x : Ctx) : (setCtx s c x).fullAudit = s.fullAudit := rfl
@[simp] theorem setCtx_links (s : State) (c : Nat) (x : Ctx) : (setCtx s c x).links = s.links := rfl
@[simp] theorem setCtx_attic (s : State) (c : Nat) (x : Ctx) : (setCtx s c x).attic = s.attic := rfl
@[simp] theorem setCtx_mem (s : State) (c : Nat) (x : Ctx) : (setCtx s c x).mem = s.mem := rfl
@[simp] theorem setCtx_host (s : State) (c : Nat) (x : Ctx) : (setCtx s c x).host = s.host := rfl

/-! ## modCtx -/

@[simp] theorem modCtx_pending (s : State) (c : Nat) (g : Ctx → Ctx) : (modCtx s c g).pending = s.pending := rfl
@[simp] theorem modCtx_free (s : State) (c : Nat) (g : Ctx → Ctx) : (modCtx s c g).free = s.free := rfl
@[simp] theorem modCtx_now (s : State) (c : Nat) (g : Ctx → Ctx) : (modCtx s c g).now = s.now := rfl
@[simp] theorem modCtx_dev (s : State) (c : Nat) (g : Ctx → Ctx) : (modCtx s c g).dev = s.dev := rfl
@[simp] theorem modCtx_tick (s : State) (c : Nat) (g : Ctx → Ctx) : (modCtx s c g).tick = s.tick := rfl
@[simp] theorem modCtx_pwr (s : State) (c : Nat) (g : Ctx → Ctx) : (modCtx s c g).pwr = s.pwr := rfl
@[simp] theorem modCtx_fns (s : State) (c : Nat) (g : Ctx → Ctx) : (modCtx s c g).fns = s.fns := rfl
@[simp] theorem modCtx_tags (s : State) (c : Nat) (g : Ctx → Ctx) : (modCtx s c g).tags = s.tags := rfl
@[simp] theorem modCtx_plans (s : State) (c : Nat) (g : Ctx → Ctx) : (modCtx s c g).plans = s.plans := rfl
@[simp] theorem modCtx_threads (s : State) (c : Nat) (g : Ctx → Ctx) : (modCtx s c g).threads = s.threads := rfl
@[simp] theorem modCtx_preds (s : State) (c : Nat) (g : Ctx → Ctx) : (modCtx s c g).preds = s.preds := rfl
@[simp] theorem modCtx_tables (s : State) (c : Nat) (g : Ctx → Ctx) : (modCtx s c g).tables = s.tables := rfl
@[simp] theorem modCtx_frames (s : State) (c : Nat) (g : Ctx → Ctx) : (modCtx s c g).frames = s.frames := rfl
@[simp] theorem modCtx_decs (s : State) (c : Nat) (g : Ctx → Ctx) : (modCtx s c g).decs = s.decs := rfl
@[simp] theorem modCtx_pins (s : State) (c : Nat) (g : Ctx → Ctx) : (modCtx s c g).pins = s.pins := rfl
@[simp] theorem modCtx_limbo (s : State) (c : Nat) (g : Ctx → Ctx) : (modCtx s c g).limbo = s.limbo := rfl
@[simp] theorem modCtx_flog (s : State) (c : Nat) (g : Ctx → Ctx) : (modCtx s c g).flog = s.flog := rfl
@[simp] theorem modCtx_hw (s : State) (c : Nat) (g : Ctx → Ctx) : (modCtx s c g).hw = s.hw := rfl
@[simp] theorem modCtx_recov (s : State) (c : Nat) (g : Ctx → Ctx) : (modCtx s c g).recov = s.recov := rfl
@[simp] theorem modCtx_slideP (s : State) (c : Nat) (g : Ctx → Ctx) : (modCtx s c g).slideP = s.slideP := rfl
@[simp] theorem modCtx_slides (s : State) (c : Nat) (g : Ctx → Ctx) : (modCtx s c g).slides = s.slides := rfl
@[simp] theorem modCtx_resumeAt (s : State) (c : Nat) (g : Ctx → Ctx) : (modCtx s c g).resumeAt = s.resumeAt := rfl
@[simp] theorem modCtx_slideDue (s : State) (c : Nat) (g : Ctx → Ctx) : (modCtx s c g).slideDue = s.slideDue := rfl
@[simp] theorem modCtx_books (s : State) (c : Nat) (g : Ctx → Ctx) : (modCtx s c g).books = s.books := rfl
@[simp] theorem modCtx_badBooks (s : State) (c : Nat) (g : Ctx → Ctx) : (modCtx s c g).badBooks = s.badBooks := rfl
@[simp] theorem modCtx_fullAudit (s : State) (c : Nat) (g : Ctx → Ctx) : (modCtx s c g).fullAudit = s.fullAudit := rfl
@[simp] theorem modCtx_links (s : State) (c : Nat) (g : Ctx → Ctx) : (modCtx s c g).links = s.links := rfl
@[simp] theorem modCtx_attic (s : State) (c : Nat) (g : Ctx → Ctx) : (modCtx s c g).attic = s.attic := rfl
@[simp] theorem modCtx_mem (s : State) (c : Nat) (g : Ctx → Ctx) : (modCtx s c g).mem = s.mem := rfl
@[simp] theorem modCtx_host (s : State) (c : Nat) (g : Ctx → Ctx) : (modCtx s c g).host = s.host := rfl

/-! ## modPlan -/

@[simp] theorem modPlan_pending (s : State) (k : PlanKey) (g : Plan → Plan) : (modPlan s k g).pending = s.pending := rfl
@[simp] theorem modPlan_free (s : State) (k : PlanKey) (g : Plan → Plan) : (modPlan s k g).free = s.free := rfl
@[simp] theorem modPlan_now (s : State) (k : PlanKey) (g : Plan → Plan) : (modPlan s k g).now = s.now := rfl
@[simp] theorem modPlan_dev (s : State) (k : PlanKey) (g : Plan → Plan) : (modPlan s k g).dev = s.dev := rfl
@[simp] theorem modPlan_tick (s : State) (k : PlanKey) (g : Plan → Plan) : (modPlan s k g).tick = s.tick := rfl
@[simp] theorem modPlan_pwr (s : State) (k : PlanKey) (g : Plan → Plan) : (modPlan s k g).pwr = s.pwr := rfl
@[simp] theorem modPlan_fns (s : State) (k : PlanKey) (g : Plan → Plan) : (modPlan s k g).fns = s.fns := rfl
@[simp] theorem modPlan_ctxs (s : State) (k : PlanKey) (g : Plan → Plan) : (modPlan s k g).ctxs = s.ctxs := rfl
@[simp] theorem modPlan_tags (s : State) (k : PlanKey) (g : Plan → Plan) : (modPlan s k g).tags = s.tags := rfl
@[simp] theorem modPlan_threads (s : State) (k : PlanKey) (g : Plan → Plan) : (modPlan s k g).threads = s.threads := rfl
@[simp] theorem modPlan_preds (s : State) (k : PlanKey) (g : Plan → Plan) : (modPlan s k g).preds = s.preds := rfl
@[simp] theorem modPlan_tables (s : State) (k : PlanKey) (g : Plan → Plan) : (modPlan s k g).tables = s.tables := rfl
@[simp] theorem modPlan_frames (s : State) (k : PlanKey) (g : Plan → Plan) : (modPlan s k g).frames = s.frames := rfl
@[simp] theorem modPlan_decs (s : State) (k : PlanKey) (g : Plan → Plan) : (modPlan s k g).decs = s.decs := rfl
@[simp] theorem modPlan_pins (s : State) (k : PlanKey) (g : Plan → Plan) : (modPlan s k g).pins = s.pins := rfl
@[simp] theorem modPlan_limbo (s : State) (k : PlanKey) (g : Plan → Plan) : (modPlan s k g).limbo = s.limbo := rfl
@[simp] theorem modPlan_flog (s : State) (k : PlanKey) (g : Plan → Plan) : (modPlan s k g).flog = s.flog := rfl
@[simp] theorem modPlan_hw (s : State) (k : PlanKey) (g : Plan → Plan) : (modPlan s k g).hw = s.hw := rfl
@[simp] theorem modPlan_recov (s : State) (k : PlanKey) (g : Plan → Plan) : (modPlan s k g).recov = s.recov := rfl
@[simp] theorem modPlan_slideP (s : State) (k : PlanKey) (g : Plan → Plan) : (modPlan s k g).slideP = s.slideP := rfl
@[simp] theorem modPlan_slides (s : State) (k : PlanKey) (g : Plan → Plan) : (modPlan s k g).slides = s.slides := rfl
@[simp] theorem modPlan_resumeAt (s : State) (k : PlanKey) (g : Plan → Plan) : (modPlan s k g).resumeAt = s.resumeAt := rfl
@[simp] theorem modPlan_slideDue (s : State) (k : PlanKey) (g : Plan → Plan) : (modPlan s k g).slideDue = s.slideDue := rfl
@[simp] theorem modPlan_books (s : State) (k : PlanKey) (g : Plan → Plan) : (modPlan s k g).books = s.books := rfl
@[simp] theorem modPlan_badBooks (s : State) (k : PlanKey) (g : Plan → Plan) : (modPlan s k g).badBooks = s.badBooks := rfl
@[simp] theorem modPlan_fullAudit (s : State) (k : PlanKey) (g : Plan → Plan) : (modPlan s k g).fullAudit = s.fullAudit := rfl
@[simp] theorem modPlan_links (s : State) (k : PlanKey) (g : Plan → Plan) : (modPlan s k g).links = s.links := rfl
@[simp] theorem modPlan_attic (s : State) (k : PlanKey) (g : Plan → Plan) : (modPlan s k g).attic = s.attic := rfl
@[simp] theorem modPlan_mem (s : State) (k : PlanKey) (g : Plan → Plan) : (modPlan s k g).mem = s.mem := rfl
@[simp] theorem modPlan_host (s : State) (k : PlanKey) (g : Plan → Plan) : (modPlan s k g).host = s.host := rfl

/-! ## delPlan -/

@[simp] theorem delPlan_pending (s : State) (k : PlanKey) : (delPlan s k).pending = s.pending := rfl
@[simp] theorem delPlan_free (s : State) (k : PlanKey) : (delPlan s k).free = s.free := rfl
@[simp] theorem delPlan_now (s : State) (k : PlanKey) : (delPlan s k).now = s.now := rfl
@[simp] theorem delPlan_dev (s : State) (k : PlanKey) : (delPlan s k).dev = s.dev := rfl
@[simp] theorem delPlan_tick (s : State) (k : PlanKey) : (delPlan s k).tick = s.tick := rfl
@[simp] theorem delPlan_pwr (s : State) (k : PlanKey) : (delPlan s k).pwr = s.pwr := rfl
@[simp] theorem delPlan_fns (s : State) (k : PlanKey) : (delPlan s k).fns = s.fns := rfl
@[simp] theorem delPlan_ctxs (s : State) (k : PlanKey) : (delPlan s k).ctxs = s.ctxs := rfl
@[simp] theorem delPlan_tags (s : State) (k : PlanKey) : (delPlan s k).tags = s.tags := rfl
@[simp] theorem delPlan_threads (s : State) (k : PlanKey) : (delPlan s k).threads = s.threads := rfl
@[simp] theorem delPlan_preds (s : State) (k : PlanKey) : (delPlan s k).preds = s.preds := rfl
@[simp] theorem delPlan_tables (s : State) (k : PlanKey) : (delPlan s k).tables = s.tables := rfl
@[simp] theorem delPlan_frames (s : State) (k : PlanKey) : (delPlan s k).frames = s.frames := rfl
@[simp] theorem delPlan_decs (s : State) (k : PlanKey) : (delPlan s k).decs = s.decs := rfl
@[simp] theorem delPlan_pins (s : State) (k : PlanKey) : (delPlan s k).pins = s.pins := rfl
@[simp] theorem delPlan_limbo (s : State) (k : PlanKey) : (delPlan s k).limbo = s.limbo := rfl
@[simp] theorem delPlan_flog (s : State) (k : PlanKey) : (delPlan s k).flog = s.flog := rfl
@[simp] theorem delPlan_hw (s : State) (k : PlanKey) : (delPlan s k).hw = s.hw := rfl
@[simp] theorem delPlan_recov (s : State) (k : PlanKey) : (delPlan s k).recov = s.recov := rfl
@[simp] theorem delPlan_slideP (s : State) (k : PlanKey) : (delPlan s k).slideP = s.slideP := rfl
@[simp] theorem delPlan_slides (s : State) (k : PlanKey) : (delPlan s k).slides = s.slides := rfl
@[simp] theorem delPlan_resumeAt (s : State) (k : PlanKey) : (delPlan s k).resumeAt = s.resumeAt := rfl
@[simp] theorem delPlan_slideDue (s : State) (k : PlanKey) : (delPlan s k).slideDue = s.slideDue := rfl
@[simp] theorem delPlan_books (s : State) (k : PlanKey) : (delPlan s k).books = s.books := rfl
@[simp] theorem delPlan_badBooks (s : State) (k : PlanKey) : (delPlan s k).badBooks = s.badBooks := rfl
@[simp] theorem delPlan_fullAudit (s : State) (k : PlanKey) : (delPlan s k).fullAudit = s.fullAudit := rfl
@[simp] theorem delPlan_links (s : State) (k : PlanKey) : (delPlan s k).links = s.links := rfl
@[simp] theorem delPlan_attic (s : State) (k : PlanKey) : (delPlan s k).attic = s.attic := rfl
@[simp] theorem delPlan_mem (s : State) (k : PlanKey) : (delPlan s k).mem = s.mem := rfl
@[simp] theorem delPlan_host (s : State) (k : PlanKey) : (delPlan s k).host = s.host := rfl

/-! ## modPort -/

@[simp] theorem modPort_pending (s : State) (n : Nat) (g : Port → Port) : (modPort s n g).pending = s.pending := rfl
@[simp] theorem modPort_free (s : State) (n : Nat) (g : Port → Port) : (modPort s n g).free = s.free := rfl
@[simp] theorem modPort_now (s : State) (n : Nat) (g : Port → Port) : (modPort s n g).now = s.now := rfl
@[simp] theorem modPort_dev (s : State) (n : Nat) (g : Port → Port) : (modPort s n g).dev = s.dev := rfl
@[simp] theorem modPort_tick (s : State) (n : Nat) (g : Port → Port) : (modPort s n g).tick = s.tick := rfl
@[simp] theorem modPort_pwr (s : State) (n : Nat) (g : Port → Port) : (modPort s n g).pwr = s.pwr := rfl
@[simp] theorem modPort_fns (s : State) (n : Nat) (g : Port → Port) : (modPort s n g).fns = s.fns := rfl
@[simp] theorem modPort_ctxs (s : State) (n : Nat) (g : Port → Port) : (modPort s n g).ctxs = s.ctxs := rfl
@[simp] theorem modPort_tags (s : State) (n : Nat) (g : Port → Port) : (modPort s n g).tags = s.tags := rfl
@[simp] theorem modPort_plans (s : State) (n : Nat) (g : Port → Port) : (modPort s n g).plans = s.plans := rfl
@[simp] theorem modPort_threads (s : State) (n : Nat) (g : Port → Port) : (modPort s n g).threads = s.threads := rfl
@[simp] theorem modPort_preds (s : State) (n : Nat) (g : Port → Port) : (modPort s n g).preds = s.preds := rfl
@[simp] theorem modPort_tables (s : State) (n : Nat) (g : Port → Port) : (modPort s n g).tables = s.tables := rfl
@[simp] theorem modPort_frames (s : State) (n : Nat) (g : Port → Port) : (modPort s n g).frames = s.frames := rfl
@[simp] theorem modPort_decs (s : State) (n : Nat) (g : Port → Port) : (modPort s n g).decs = s.decs := rfl
@[simp] theorem modPort_pins (s : State) (n : Nat) (g : Port → Port) : (modPort s n g).pins = s.pins := rfl
@[simp] theorem modPort_limbo (s : State) (n : Nat) (g : Port → Port) : (modPort s n g).limbo = s.limbo := rfl
@[simp] theorem modPort_flog (s : State) (n : Nat) (g : Port → Port) : (modPort s n g).flog = s.flog := rfl
@[simp] theorem modPort_hw (s : State) (n : Nat) (g : Port → Port) : (modPort s n g).hw = s.hw := rfl
@[simp] theorem modPort_recov (s : State) (n : Nat) (g : Port → Port) : (modPort s n g).recov = s.recov := rfl
@[simp] theorem modPort_slideP (s : State) (n : Nat) (g : Port → Port) : (modPort s n g).slideP = s.slideP := rfl
@[simp] theorem modPort_slides (s : State) (n : Nat) (g : Port → Port) : (modPort s n g).slides = s.slides := rfl
@[simp] theorem modPort_resumeAt (s : State) (n : Nat) (g : Port → Port) : (modPort s n g).resumeAt = s.resumeAt := rfl
@[simp] theorem modPort_slideDue (s : State) (n : Nat) (g : Port → Port) : (modPort s n g).slideDue = s.slideDue := rfl
@[simp] theorem modPort_books (s : State) (n : Nat) (g : Port → Port) : (modPort s n g).books = s.books := rfl
@[simp] theorem modPort_badBooks (s : State) (n : Nat) (g : Port → Port) : (modPort s n g).badBooks = s.badBooks := rfl
@[simp] theorem modPort_fullAudit (s : State) (n : Nat) (g : Port → Port) : (modPort s n g).fullAudit = s.fullAudit := rfl
@[simp] theorem modPort_attic (s : State) (n : Nat) (g : Port → Port) : (modPort s n g).attic = s.attic := rfl
@[simp] theorem modPort_mem (s : State) (n : Nat) (g : Port → Port) : (modPort s n g).mem = s.mem := rfl
@[simp] theorem modPort_host (s : State) (n : Nat) (g : Port → Port) : (modPort s n g).host = s.host := rfl

/-! ## logFault -/

@[simp] theorem logFault_pending (s : State) (f : FaultIn) : (logFault s f).pending = s.pending := rfl
@[simp] theorem logFault_free (s : State) (f : FaultIn) : (logFault s f).free = s.free := rfl
@[simp] theorem logFault_now (s : State) (f : FaultIn) : (logFault s f).now = s.now := rfl
@[simp] theorem logFault_dev (s : State) (f : FaultIn) : (logFault s f).dev = s.dev := rfl
@[simp] theorem logFault_tick (s : State) (f : FaultIn) : (logFault s f).tick = s.tick := rfl
@[simp] theorem logFault_pwr (s : State) (f : FaultIn) : (logFault s f).pwr = s.pwr := rfl
@[simp] theorem logFault_fns (s : State) (f : FaultIn) : (logFault s f).fns = s.fns := rfl
@[simp] theorem logFault_ctxs (s : State) (f : FaultIn) : (logFault s f).ctxs = s.ctxs := rfl
@[simp] theorem logFault_tags (s : State) (f : FaultIn) : (logFault s f).tags = s.tags := rfl
@[simp] theorem logFault_plans (s : State) (f : FaultIn) : (logFault s f).plans = s.plans := rfl
@[simp] theorem logFault_threads (s : State) (f : FaultIn) : (logFault s f).threads = s.threads := rfl
@[simp] theorem logFault_preds (s : State) (f : FaultIn) : (logFault s f).preds = s.preds := rfl
@[simp] theorem logFault_tables (s : State) (f : FaultIn) : (logFault s f).tables = s.tables := rfl
@[simp] theorem logFault_frames (s : State) (f : FaultIn) : (logFault s f).frames = s.frames := rfl
@[simp] theorem logFault_decs (s : State) (f : FaultIn) : (logFault s f).decs = s.decs := rfl
@[simp] theorem logFault_pins (s : State) (f : FaultIn) : (logFault s f).pins = s.pins := rfl
@[simp] theorem logFault_limbo (s : State) (f : FaultIn) : (logFault s f).limbo = s.limbo := rfl
@[simp] theorem logFault_hw (s : State) (f : FaultIn) : (logFault s f).hw = s.hw := rfl
@[simp] theorem logFault_recov (s : State) (f : FaultIn) : (logFault s f).recov = s.recov := rfl
@[simp] theorem logFault_slideP (s : State) (f : FaultIn) : (logFault s f).slideP = s.slideP := rfl
@[simp] theorem logFault_slides (s : State) (f : FaultIn) : (logFault s f).slides = s.slides := rfl
@[simp] theorem logFault_resumeAt (s : State) (f : FaultIn) : (logFault s f).resumeAt = s.resumeAt := rfl
@[simp] theorem logFault_slideDue (s : State) (f : FaultIn) : (logFault s f).slideDue = s.slideDue := rfl
@[simp] theorem logFault_books (s : State) (f : FaultIn) : (logFault s f).books = s.books := rfl
@[simp] theorem logFault_badBooks (s : State) (f : FaultIn) : (logFault s f).badBooks = s.badBooks := rfl
@[simp] theorem logFault_fullAudit (s : State) (f : FaultIn) : (logFault s f).fullAudit = s.fullAudit := rfl
@[simp] theorem logFault_links (s : State) (f : FaultIn) : (logFault s f).links = s.links := rfl
@[simp] theorem logFault_attic (s : State) (f : FaultIn) : (logFault s f).attic = s.attic := rfl
@[simp] theorem logFault_mem (s : State) (f : FaultIn) : (logFault s f).mem = s.mem := rfl
@[simp] theorem logFault_host (s : State) (f : FaultIn) : (logFault s f).host = s.host := rfl

/-! ## modTh -/

@[simp] theorem modTh_pending (s : State) (t : Tid) (g : Thread → Thread) : (modTh s t g).pending = s.pending := rfl
@[simp] theorem modTh_free (s : State) (t : Tid) (g : Thread → Thread) : (modTh s t g).free = s.free := rfl
@[simp] theorem modTh_now (s : State) (t : Tid) (g : Thread → Thread) : (modTh s t g).now = s.now := rfl
@[simp] theorem modTh_dev (s : State) (t : Tid) (g : Thread → Thread) : (modTh s t g).dev = s.dev := rfl
@[simp] theorem modTh_tick (s : State) (t : Tid) (g : Thread → Thread) : (modTh s t g).tick = s.tick := rfl
@[simp] theorem modTh_pwr (s : State) (t : Tid) (g : Thread → Thread) : (modTh s t g).pwr = s.pwr := rfl
@[simp] theorem modTh_fns (s : State) (t : Tid) (g : Thread → Thread) : (modTh s t g).fns = s.fns := rfl
@[simp] theorem modTh_ctxs (s : State) (t : Tid) (g : Thread → Thread) : (modTh s t g).ctxs = s.ctxs := rfl
@[simp] theorem modTh_tags (s : State) (t : Tid) (g : Thread → Thread) : (modTh s t g).tags = s.tags := rfl
@[simp] theorem modTh_plans (s : State) (t : Tid) (g : Thread → Thread) : (modTh s t g).plans = s.plans := rfl
@[simp] theorem modTh_preds (s : State) (t : Tid) (g : Thread → Thread) : (modTh s t g).preds = s.preds := rfl
@[simp] theorem modTh_tables (s : State) (t : Tid) (g : Thread → Thread) : (modTh s t g).tables = s.tables := rfl
@[simp] theorem modTh_frames (s : State) (t : Tid) (g : Thread → Thread) : (modTh s t g).frames = s.frames := rfl
@[simp] theorem modTh_decs (s : State) (t : Tid) (g : Thread → Thread) : (modTh s t g).decs = s.decs := rfl
@[simp] theorem modTh_pins (s : State) (t : Tid) (g : Thread → Thread) : (modTh s t g).pins = s.pins := rfl
@[simp] theorem modTh_limbo (s : State) (t : Tid) (g : Thread → Thread) : (modTh s t g).limbo = s.limbo := rfl
@[simp] theorem modTh_flog (s : State) (t : Tid) (g : Thread → Thread) : (modTh s t g).flog = s.flog := rfl
@[simp] theorem modTh_hw (s : State) (t : Tid) (g : Thread → Thread) : (modTh s t g).hw = s.hw := rfl
@[simp] theorem modTh_recov (s : State) (t : Tid) (g : Thread → Thread) : (modTh s t g).recov = s.recov := rfl
@[simp] theorem modTh_slideP (s : State) (t : Tid) (g : Thread → Thread) : (modTh s t g).slideP = s.slideP := rfl
@[simp] theorem modTh_slides (s : State) (t : Tid) (g : Thread → Thread) : (modTh s t g).slides = s.slides := rfl
@[simp] theorem modTh_resumeAt (s : State) (t : Tid) (g : Thread → Thread) : (modTh s t g).resumeAt = s.resumeAt := rfl
@[simp] theorem modTh_slideDue (s : State) (t : Tid) (g : Thread → Thread) : (modTh s t g).slideDue = s.slideDue := rfl
@[simp] theorem modTh_books (s : State) (t : Tid) (g : Thread → Thread) : (modTh s t g).books = s.books := rfl
@[simp] theorem modTh_badBooks (s : State) (t : Tid) (g : Thread → Thread) : (modTh s t g).badBooks = s.badBooks := rfl
@[simp] theorem modTh_fullAudit (s : State) (t : Tid) (g : Thread → Thread) : (modTh s t g).fullAudit = s.fullAudit := rfl
@[simp] theorem modTh_links (s : State) (t : Tid) (g : Thread → Thread) : (modTh s t g).links = s.links := rfl
@[simp] theorem modTh_attic (s : State) (t : Tid) (g : Thread → Thread) : (modTh s t g).attic = s.attic := rfl
@[simp] theorem modTh_mem (s : State) (t : Tid) (g : Thread → Thread) : (modTh s t g).mem = s.mem := rfl
@[simp] theorem modTh_host (s : State) (t : Tid) (g : Thread → Thread) : (modTh s t g).host = s.host := rfl

/-! ## putTh -/

@[simp] theorem putTh_pending (s : State) (x : Thread) : (putTh s x).pending = s.pending := rfl
@[simp] theorem putTh_free (s : State) (x : Thread) : (putTh s x).free = s.free := rfl
@[simp] theorem putTh_now (s : State) (x : Thread) : (putTh s x).now = s.now := rfl
@[simp] theorem putTh_dev (s : State) (x : Thread) : (putTh s x).dev = s.dev := rfl
@[simp] theorem putTh_tick (s : State) (x : Thread) : (putTh s x).tick = s.tick := rfl
@[simp] theorem putTh_pwr (s : State) (x : Thread) : (putTh s x).pwr = s.pwr := rfl
@[simp] theorem putTh_fns (s : State) (x : Thread) : (putTh s x).fns = s.fns := rfl
@[simp] theorem putTh_ctxs (s : State) (x : Thread) : (putTh s x).ctxs = s.ctxs := rfl
@[simp] theorem putTh_tags (s : State) (x : Thread) : (putTh s x).tags = s.tags := rfl
@[simp] theorem putTh_plans (s : State) (x : Thread) : (putTh s x).plans = s.plans := rfl
@[simp] theorem putTh_preds (s : State) (x : Thread) : (putTh s x).preds = s.preds := rfl
@[simp] theorem putTh_tables (s : State) (x : Thread) : (putTh s x).tables = s.tables := rfl
@[simp] theorem putTh_frames (s : State) (x : Thread) : (putTh s x).frames = s.frames := rfl
@[simp] theorem putTh_decs (s : State) (x : Thread) : (putTh s x).decs = s.decs := rfl
@[simp] theorem putTh_pins (s : State) (x : Thread) : (putTh s x).pins = s.pins := rfl
@[simp] theorem putTh_limbo (s : State) (x : Thread) : (putTh s x).limbo = s.limbo := rfl
@[simp] theorem putTh_flog (s : State) (x : Thread) : (putTh s x).flog = s.flog := rfl
@[simp] theorem putTh_hw (s : State) (x : Thread) : (putTh s x).hw = s.hw := rfl
@[simp] theorem putTh_recov (s : State) (x : Thread) : (putTh s x).recov = s.recov := rfl
@[simp] theorem putTh_slideP (s : State) (x : Thread) : (putTh s x).slideP = s.slideP := rfl
@[simp] theorem putTh_slides (s : State) (x : Thread) : (putTh s x).slides = s.slides := rfl
@[simp] theorem putTh_resumeAt (s : State) (x : Thread) : (putTh s x).resumeAt = s.resumeAt := rfl
@[simp] theorem putTh_slideDue (s : State) (x : Thread) : (putTh s x).slideDue = s.slideDue := rfl
@[simp] theorem putTh_books (s : State) (x : Thread) : (putTh s x).books = s.books := rfl
@[simp] theorem putTh_badBooks (s : State) (x : Thread) : (putTh s x).badBooks = s.badBooks := rfl
@[simp] theorem putTh_fullAudit (s : State) (x : Thread) : (putTh s x).fullAudit = s.fullAudit := rfl
@[simp] theorem putTh_links (s : State) (x : Thread) : (putTh s x).links = s.links := rfl
@[simp] theorem putTh_attic (s : State) (x : Thread) : (putTh s x).attic = s.attic := rfl
@[simp] theorem putTh_mem (s : State) (x : Thread) : (putTh s x).mem = s.mem := rfl
@[simp] theorem putTh_host (s : State) (x : Thread) : (putTh s x).host = s.host := rfl

/-! ## Reads after updates -/

theorem find_updFirst_eq {A : Type} {p : A → Bool} {g : A → A} (hg : ∀ a, p a = true → p (g a) = true) {l : List A} {a : A}
    (h : l.find? p = some a) : (updFirst p g l).find? p = some (g a) := by
  induction l with
  | nil => cases h
  | cons x r ih =>
    by_cases hx : p x = true
    · simp only [List.find?_cons, hx, Option.some.injEq] at h
      subst h
      simp only [updFirst, hx, if_true, List.find?_cons, hg x hx]
    · simp only [List.find?_cons, hx] at h
      simp only [updFirst, hx, Bool.false_eq_true, if_false, List.find?_cons]
      exact ih h

theorem find_updFirst_ne {A : Type} {p q : A → Bool} {g : A → A} (hp : ∀ a, p a = true → q a = false ∧ q (g a) = false) {l : List A} :
    (updFirst p g l).find? q = l.find? q := by
  induction l with
  | nil => rfl
  | cons x r ih =>
    by_cases hx : p x = true
    · simp only [updFirst, hx, if_true, List.find?_cons, (hp x hx).1, (hp x hx).2]
    · simp only [updFirst, hx, Bool.false_eq_true, if_false, List.find?_cons, ih]

theorem getTh_tid {s : State} {t : Tid} {x : Thread} (h : getTh s t = some x) : x.tid = t := by
  simpa using List.find?_some h

theorem getTh_modTh_eq {s : State} {t : Tid} {x : Thread} {g : Thread → Thread} (h : getTh s t = some x) (hg : ∀ y, (g y).tid = y.tid) :
    getTh (modTh s t g) t = some (g x) :=
  find_updFirst_eq (fun a ha => by rw [hg]; exact ha) h

theorem getTh_modTh_ne {s : State} {t u : Tid} {g : Thread → Thread} (hg : ∀ y, (g y).tid = y.tid) (h : u ≠ t) :
    getTh (modTh s t g) u = getTh s u :=
  find_updFirst_ne (fun a ha => by
    have ha : a.tid = t := by simpa using ha
    simp only [hg, ha, beq_eq_false_iff_ne, ne_eq, and_self]
    exact fun e => h e.symm)

theorem getTh_putTh_eq {s : State} {x y : Thread} (h : getTh s x.tid = some y) : getTh (putTh s x) x.tid = some x := by
  unfold putTh getTh modTh
  dsimp only
  refine (find_updFirst_eq (p := fun z : Thread => z.tid == x.tid) (g := fun _ => x) (fun a _ => by simp) h)

theorem getTh_putTh_ne {s : State} {x : Thread} {t : Tid} (h : t ≠ x.tid) : getTh (putTh s x) t = getTh s t := by
  unfold putTh getTh modTh
  dsimp only
  refine find_updFirst_ne (fun a ha => ?_)
  have ha : a.tid = x.tid := by simpa using ha
  simp only [ha, beq_eq_false_iff_ne, ne_eq, and_self]
  exact fun e => h e.symm

theorem getPlan_key {s : State} {k : PlanKey} {p : Plan} (h : getPlan s k = some p) : p.key = k := by
  simpa using List.find?_some h

theorem getPlan_modPlan_eq {s : State} {k : PlanKey} {p : Plan} {g : Plan → Plan} (h : getPlan s k = some p) (hg : ∀ q, (g q).key = q.key) :
    getPlan (modPlan s k g) k = some (g p) :=
  find_updFirst_eq (fun a ha => by rw [hg]; exact ha) h

theorem getPlan_modPlan_ne {s : State} {k l : PlanKey} {g : Plan → Plan} (hg : ∀ q, (g q).key = q.key) (h : l ≠ k) :
    getPlan (modPlan s k g) l = getPlan s l :=
  find_updFirst_ne (fun a ha => by
    have ha : a.key = k := by simpa using ha
    simp only [hg, ha, beq_eq_false_iff_ne, ne_eq, and_self]
    exact fun e => h e.symm)

theorem getFn_setFn_eq {s : State} {f : Nat} {p : FnPage} : getFn (setFn s f p) f = p := by
  simp [getFn, setFn, aGet_aSet_eq]

theorem getFn_setFn_ne {s : State} {f g : Nat} {p : FnPage} (h : g ≠ f) : getFn (setFn s f p) g = getFn s g := by
  simp [getFn, setFn, aGet_aSet_ne h]

theorem getCtx_setCtx_eq {s : State} {c : Nat} {x : Ctx} : getCtx (setCtx s c x) c = x := by
  simp [getCtx, setCtx, aGet_aSet_eq]

theorem getCtx_setCtx_ne {s : State} {c d : Nat} {x : Ctx} (h : d ≠ c) : getCtx (setCtx s c x) d = getCtx s d := by
  simp [getCtx, setCtx, aGet_aSet_ne h]

theorem getPort_modPort_eq {s : State} {n : Nat} {q : Port} {g : Port → Port} (h : s.links.ports[n]? = some q) :
    getPort (modPort s n g) n = g q := by
  unfold getPort modPort
  dsimp only
  generalize s.links.ports = l at *
  induction l generalizing n with
  | nil => cases h
  | cons x r ih =>
    cases n with
    | zero => simp at h; simp [upd, h]
    | succ n => simp at h; simpa [upd] using ih h

theorem getPort_modPort_ne {s : State} {n m : Nat} {g : Port → Port} (h : m ≠ n) : getPort (modPort s n g) m = getPort s m := by
  unfold getPort modPort
  dsimp only
  generalize s.links.ports = l
  induction l generalizing n m with
  | nil => rfl
  | cons x r ih =>
    cases n with
    | zero => cases m with
      | zero => exact absurd rfl h
      | succ m => simp [upd]
    | succ n => cases m with
      | zero => simp [upd]
      | succ m => simpa [upd] using ih (fun e => h (by rw [e]))

end Sys2Proof.Laws
end

