-- ==== Sys2Proof/Laws/Rooms.lean ====
section
/-! SUPPORT. What the issue of a room instruction does, said once: the program that issues, its registers, the ranges it notes. -/
namespace Sys2Proof.Laws

open Sys2Proof Sys2Proof.Machine

/-! ## The program that issues -/

/-- What an issue context is made of. -/
theorem enter_facts {s : State} {t : Tid} {c : RC} (h : enter s t = some c) :
    c.s = s ∧ getTh s t = some c.th ∧ getPlan s t.key = some c.p ∧ c.p.body = some c.b ∧ roomRec c.b t.room = some c.r
      ∧ issues s c.th = true := by
  unfold enter at h
  split at h <;> try contradiction
  rename_i x p hx hp
  split at h <;> try contradiction
  rename_i b hb
  split at h <;> try contradiction
  rename_i r hr
  split at h <;> try contradiction
  split at h <;> try contradiction
  rename_i hi
  cases h
  exact ⟨rfl, hx, hp, hb, hr, hi⟩

theorem enter_tid {s : State} {t : Tid} {c : RC} (h : enter s t = some c) : c.th.tid = t := getTh_tid (enter_facts h).2.1

/-- An instruction whose condition is met runs its body. -/
theorem runIns_issues {s : State} {t : Tid} {i : RoomIns} {c : RC} {body : RC → State} (h : issuesAt s t i c) :
    runIns s t i body = body c := by
  obtain ⟨he, hp, hm⟩ := h
  unfold runIns
  rw [he]
  dsimp only
  rw [if_neg (by omega), hm]
  rfl

/-- An instruction whose condition is not met passes. -/
theorem runIns_passes {s : State} {t : Tid} {i : RoomIns} {c : RC} {body : RC → State} (he : enter s t = some c)
    (hp : c.th.pc < c.im.codeWords) (hm : predMet c.th i = false) : runIns s t i body = putTh s (advance1 c.th) := by
  unfold runIns
  rw [he]
  dsimp only
  rw [if_neg (by omega), hm]
  rfl

/-! ## Registers -/

@[simp] theorem advance_tid (x : Thread) (a b : Nat) : (advance x a b).tid = x.tid := rfl
@[simp] theorem advance_regs (x : Thread) (a b : Nat) : (advance x a b).regs = x.regs := rfl
@[simp] theorem advance_vregs (x : Thread) (a b : Nat) : (advance x a b).vregs = x.vregs := rfl
@[simp] theorem advance_masks (x : Thread) (a b : Nat) : (advance x a b).masks = x.masks := rfl
@[simp] theorem advance_preds (x : Thread) (a b : Nat) : (advance x a b).preds = x.preds := rfl
@[simp] theorem advance_calls (x : Thread) (a b : Nat) : (advance x a b).calls = x.calls := rfl
theorem advance_pc (x : Thread) (a b : Nat) : ((advance x a b).pc, (advance x a b).reps) = repAdvance a b x.reps := rfl

theorem bitOf_testBit (x n : Nat) : bitOf x n = x.testBit n := by
  rw [Nat.testBit_eq_decide_div_mod_eq]; rfl

theorem predBit_setPredBit_eq {p : Byte} {n : Nat} {v : Bool} (h : n ≠ 0) (h8 : n < 8) : predBit (setPredBit p n v) n = v := by
  have hz : (n == 0) = false := by simpa using h
  cases v
  · simp only [predBit, setPredBit, h, if_false, hz, Bool.false_or, bitOf_testBit, Bool.false_eq_true, BitVec.testBit_toNat, BitVec.getLsbD_and, BitVec.getLsbD_not]
    simp [h8]
  · simp only [predBit, setPredBit, h, if_false, hz, Bool.false_or, bitOf_testBit, if_true, BitVec.testBit_toNat, BitVec.getLsbD_or]
    simp [h8]

theorem predBit_setPredBit_ne {p : Byte} {n m : Nat} {v : Bool} (h : m ≠ n) : predBit (setPredBit p n v) m = predBit p m := by
  unfold predBit setPredBit
  by_cases h0 : n = 0
  · simp [h0]
  · congr 1
    have e : ((1 : Byte) <<< n).getLsbD m = false := by
      rw [BitVec.getLsbD_shiftLeft]
      by_cases hm : m < n
      · simp [hm]
      · have : m - n ≠ 0 := by omega
        simp [BitVec.getLsbD_one, this]
    cases v
    · simp only [h0, if_false, bitOf_testBit, Bool.false_eq_true, BitVec.testBit_toNat, BitVec.getLsbD_and, BitVec.getLsbD_not, e]
      by_cases h8 : m < 8
      · simp [h8]
      · simp [BitVec.getLsbD_of_ge _ _ (by omega : 8 ≤ m)]
    · simp only [h0, if_false, bitOf_testBit, if_true, BitVec.testBit_toNat, BitVec.getLsbD_or, e, Bool.or_false]

/-- Two programs with the same registers, place and function tables. -/
structure sameRegs (x y : Thread) : Prop where
  tid : y.tid = x.tid
  regs : y.regs = x.regs
  vregs : y.vregs = x.vregs
  masks : y.masks = x.masks
  preds : y.preds = x.preds
  calls : y.calls = x.calls
  pc : y.pc = x.pc
  reps : y.reps = x.reps
  active : y.active = x.active
  filled : y.filled = x.filled
  wall : y.wall = x.wall
  walks : y.walks = x.walks
  atoms : y.atoms = x.atoms
  predq : y.predq = x.predq
  stat : y.stat = x.stat

theorem sameRegs_refl (x : Thread) : sameRegs x x := by constructor <;> rfl

theorem sameRegs_trans {x y z : Thread} (h : sameRegs x y) (g : sameRegs y z) : sameRegs x z := by
  constructor
  · rw [g.tid, h.tid]
  · rw [g.regs, h.regs]
  · rw [g.vregs, h.vregs]
  · rw [g.masks, h.masks]
  · rw [g.preds, h.preds]
  · rw [g.calls, h.calls]
  · rw [g.pc, h.pc]
  · rw [g.reps, h.reps]
  · rw [g.active, h.active]
  · rw [g.filled, h.filled]
  · rw [g.wall, h.wall]
  · rw [g.walks, h.walks]
  · rw [g.atoms, h.atoms]
  · rw [g.predq, h.predq]
  · rw [g.stat, h.stat]

theorem noteRead_sameRegs (x : Thread) (r : Range) : sameRegs x (noteRead x r) := by
  unfold noteRead; split <;> constructor <;> rfl

theorem noteWrite_sameRegs (x : Thread) (r : Range) : sameRegs x (noteWrite x r) := by
  unfold noteWrite; split <;> constructor <;> rfl

theorem noteAll_sameRegs (x : Thread) (rs ws : List Range) : sameRegs x (noteAll x rs ws) := by
  unfold noteAll
  have hr : ∀ (l : List Range) (y : Thread), sameRegs x y → sameRegs x (l.foldl noteRead y) := by
    intro l; induction l with
    | nil => intro y h; exact h
    | cons a r ih => intro y h; exact ih _ (sameRegs_trans h (noteRead_sameRegs y a))
  have hw : ∀ (l : List Range) (y : Thread), sameRegs x y → sameRegs x (l.foldl noteWrite y) := by
    intro l; induction l with
    | nil => intro y h; exact h
    | cons a r ih => intro y h; exact ih _ (sameRegs_trans h (noteWrite_sameRegs y a))
  exact hw ws _ (hr rs x (sameRegs_refl x))

theorem noteCtxRead_sameRegs (s : State) (x : Thread) (r : Range) : sameRegs x (noteCtxRead s x r) := by
  unfold noteCtxRead; split
  · exact sameRegs_refl x
  · exact noteRead_sameRegs x r

theorem noteCtxWrite_sameRegs (s : State) (x : Thread) (r : Range) : sameRegs x (noteCtxWrite s x r) := by
  unfold noteCtxWrite
  dsimp only
  split
  · exact sameRegs_trans (noteWrite_sameRegs x r) (by constructor <;> rfl)
  · exact noteWrite_sameRegs x r

theorem noteCtx_sameRegs (s : State) (x : Thread) (rs ws : List Range) : sameRegs x (noteCtx s x rs ws) := by
  unfold noteCtx
  have hr : ∀ (l : List Range) (y : Thread), sameRegs x y → sameRegs x (l.foldl (noteCtxRead s) y) := by
    intro l; induction l with
    | nil => intro y h; exact h
    | cons a r ih => intro y h; exact ih _ (sameRegs_trans h (noteCtxRead_sameRegs s y a))
  have hw : ∀ (l : List Range) (y : Thread), sameRegs x y → sameRegs x (l.foldl (noteCtxWrite s) y) := by
    intro l; induction l with
    | nil => intro y h; exact h
    | cons a r ih => intro y h; exact ih _ (sameRegs_trans h (noteCtxWrite_sameRegs s y a))
  exact hw ws _ (hr rs x (sameRegs_refl x))

theorem noteVa_sameRegs (s : State) (x : Thread) (rs ws : List (Nat × Nat)) : sameRegs x (noteVa s x rs ws) := noteCtx_sameRegs _ _ _ _

theorem sReg_setS_eq (x : Thread) (d : BitVec 5) (v : DWord) : sReg (setS x d.toNat v) d.toNat = if d = 0 then 0 else v := by
  have hd : d.toNat < 32 := d.isLt
  by_cases h : d = 0
  · subst h; rfl
  · have h0 : d.toNat ≠ 0 := fun e => h (BitVec.eq_of_toNat_eq e)
    simp only [sReg, setS, h0, h, if_false, Vector.getElem?_setIfInBounds_self, hd, if_true, Option.getD_some]

theorem sReg_setS_ne (x : Thread) {d n : Nat} (v : DWord) (h : n ≠ d) : sReg (setS x d v) n = sReg x n := by
  unfold sReg setS
  by_cases hd : d = 0
  · simp [hd]
  · simp [hd, Vector.getElem?_setIfInBounds_ne (Ne.symm h)]

theorem vReg_setV_eq (x : Thread) {d : Nat} (v : List Word) (hd : d < 32) : vReg (setV x d v) d = v := by
  unfold vReg setV
  simp [hd]

theorem vReg_setV_ne (x : Thread) {d n : Nat} (v : List Word) (h : n ≠ d) : vReg (setV x d v) n = vReg x n := by
  unfold vReg setV
  simp [Vector.getElem?_setIfInBounds_ne (Ne.symm h)]

theorem mReg_setM_eq (x : Thread) {d : Nat} (v : DWord) (h : d % 8 ≠ 0) : mReg (setM x d v) d = v := by
  have hd : d % 8 < 8 := Nat.mod_lt _ (by decide)
  unfold mReg setM
  simp [h, hd]

theorem mReg_setM_ne (x : Thread) {d n : Nat} (v : DWord) (h : n % 8 ≠ d % 8) : mReg (setM x d v) n = mReg x n := by
  unfold mReg setM
  by_cases hd : d % 8 = 0
  · simp [hd]
  · simp [hd, Vector.getElem?_setIfInBounds_ne (Ne.symm h)]

theorem keepsRegs_same {x y : Thread} (h : sameRegs x y) (ss vs ms ps : List Nat) : keepsRegs x y ss vs ms ps := by
  simp [keepsRegs, sReg, vReg, mReg, h.regs, h.vregs, h.masks, h.preds, h.calls]

theorem keepsRegs_advance {x y : Thread} {ss vs ms ps : List Nat} (a b : Nat) (h : keepsRegs x y ss vs ms ps) :
    keepsRegs x (advance y a b) ss vs ms ps := h

theorem keepsRegs_setS {x y : Thread} (h : sameRegs x y) (d : Nat) (v : DWord) : keepsRegs x (setS y d v) [d] [] [] [] := by
  have k := keepsRegs_same h [] [] [] []
  refine ⟨fun n hn => ?_, fun n _ => ?_, fun n _ => ?_, fun n hn _ => ?_, ?_⟩
  · rw [sReg_setS_ne _ _ (by simpa using hn)]; exact k.1 n (by simp)
  · rw [← k.2.1 n (by simp)]; unfold setS; split <;> rfl
  · rw [← k.2.2.1 n (by simp)]; unfold setS; split <;> rfl
  · rw [← k.2.2.2.1 n hn (by simp)]; unfold setS; split <;> rfl
  · rw [← k.2.2.2.2]; unfold setS; split <;> rfl

theorem keepsRegs_setV {x y : Thread} (h : sameRegs x y) (d : Nat) (v : List Word) : keepsRegs x (setV y d v) [] [d] [] [] := by
  have k := keepsRegs_same h [] [] [] []
  refine ⟨fun n _ => ?_, fun n hn => ?_, fun n _ => ?_, fun n hn _ => ?_, ?_⟩
  · rw [← k.1 n (by simp)]; rfl
  · rw [vReg_setV_ne _ _ (by simpa using hn)]; exact k.2.1 n (by simp)
  · rw [← k.2.2.1 n (by simp)]; rfl
  · rw [← k.2.2.2.1 n hn (by simp)]; rfl
  · rw [← k.2.2.2.2]; rfl

theorem keepsRegs_setM {x y : Thread} (h : sameRegs x y) (d : Nat) (v : DWord) : keepsRegs x (setM y d v) [] [] [d % 8] [] := by
  have k := keepsRegs_same h [] [] [] []
  refine ⟨fun n _ => ?_, fun n _ => ?_, fun n hn => ?_, fun n hn _ => ?_, ?_⟩
  · rw [← k.1 n (by simp)]; unfold setM; split <;> rfl
  · rw [← k.2.1 n (by simp)]; unfold setM; split <;> rfl
  · rw [mReg_setM_ne _ _ (by simpa using hn)]; exact k.2.2.1 n (by simp)
  · rw [← k.2.2.2.1 n hn (by simp)]; unfold setM; split <;> rfl
  · rw [← k.2.2.2.2]; unfold setM; split <;> rfl

theorem goesOn_advance1 {x y : Thread} (h : y.pc = x.pc) (g : y.reps = x.reps) : goesOn x (advance1 y) := by
  unfold goesOn advance1
  rw [advance_pc, h, g]

@[simp] theorem setS_tid (x : Thread) (n : Nat) (v : DWord) : (setS x n v).tid = x.tid := by unfold setS; split <;> rfl
@[simp] theorem setS_pc (x : Thread) (n : Nat) (v : DWord) : (setS x n v).pc = x.pc := by unfold setS; split <;> rfl
@[simp] theorem setS_reps (x : Thread) (n : Nat) (v : DWord) : (setS x n v).reps = x.reps := by unfold setS; split <;> rfl
@[simp] theorem setM_tid (x : Thread) (n : Nat) (v : DWord) : (setM x n v).tid = x.tid := by unfold setM; split <;> rfl
@[simp] theorem setM_pc (x : Thread) (n : Nat) (v : DWord) : (setM x n v).pc = x.pc := by unfold setM; split <;> rfl
@[simp] theorem setM_reps (x : Thread) (n : Nat) (v : DWord) : (setM x n v).reps = x.reps := by unfold setM; split <;> rfl
@[simp] theorem setV_tid (x : Thread) (n : Nat) (v : List Word) : (setV x n v).tid = x.tid := rfl
@[simp] theorem setV_pc (x : Thread) (n : Nat) (v : List Word) : (setV x n v).pc = x.pc := rfl
@[simp] theorem setV_reps (x : Thread) (n : Nat) (v : List Word) : (setV x n v).reps = x.reps := rfl

/-! ## The state after an issue -/

theorem regOnly_putTh {s : State} {t : Tid} {x y : Thread} (h : getTh s t = some x) (ht : y.tid = t) : regOnly s (putTh s y) t y := by
  subst ht
  refine ⟨getTh_putTh_eq h, fun t' ht' => getTh_putTh_ne ht', rfl⟩

theorem memOnly_putTh {s : State} {t : Tid} {x y : Thread} {m : List Host.Cell} (h : getTh s t = some x) (ht : y.tid = t) :
    memOnly s (putTh { s with mem := m } y) t y := by
  subst ht
  refine ⟨getTh_putTh_eq (s := { s with mem := m }) h, fun t' ht' => (getTh_putTh_ne (s := { s with mem := m }) ht').trans rfl, rfl⟩

/-- R126: what an issue to a unit does: the program with its outstanding instruction, its registers as before. -/
theorem issue_runs {c : RC} {u : Nat} {rs ws : List Range} {e : OutEnd} (hu : u ≠ 7) (h : mayIssue c u rs ws) :
    ∃ x0, sameRegs c.th x0 ∧ ∀ g, c.issue u rs ws e g = putTh (g c.s x0).1 (advance1 (g c.s x0).2) := by
  unfold mayIssue at h
  rw [if_neg hu] at h
  obtain ⟨l, hl⟩ := Option.isSome_iff_exists.mp h
  refine ⟨{ noteAll c.th (windowRanges rs) (windowRanges ws) with
    outs := l ++ [{ unit := u, reads := rs, writes := ws, ends := e }] }, ?_, fun g => ?_⟩
  · exact sameRegs_trans (noteAll_sameRegs _ _ _) (by constructor <;> rfl)
  · unfold RC.issue
    rw [hl]

/-- R126: what an issue to the sequencer's own port does. -/
theorem seq_runs {c : RC} {rs ws : List Range} (h : mayIssue c 7 rs ws) :
    ∃ x0, sameRegs c.th x0 ∧ ∀ g, c.seq rs ws g = putTh (g c.s x0).1 (advance1 (g c.s x0).2) := by
  unfold mayIssue at h
  rw [if_pos rfl] at h
  obtain ⟨l, hl⟩ := Option.isSome_iff_exists.mp h
  refine ⟨{ noteAll c.th (windowRanges rs) (windowRanges ws) with outs := l }, ?_, fun g => ?_⟩
  · exact sameRegs_trans (noteAll_sameRegs _ _ _) (by constructor <;> rfl)
  · unfold RC.seq
    rw [hl]

/-! ## Results of the usual shapes -/

theorem scalarDone_put {s : State} {t : Tid} {x y : Thread} {d : BitVec 5} {v : DWord} (hx : getTh s t = some x) (ht : x.tid = t)
    (h : sameRegs x y) : scalarDone s (putTh s (advance1 (setS y d.toNat v))) t x d v :=
  ⟨_, regOnly_putTh hx (by simp [advance1, h.tid, ht]), sReg_setS_eq _ _ _, keepsRegs_advance _ _ (keepsRegs_setS h _ _),
    goesOn_advance1 (by simp [h.pc]) (by simp [h.reps])⟩

theorem vectorDone_put {s : State} {t : Tid} {x y : Thread} {d : Nat} {v : List Word} (hx : getTh s t = some x) (ht : x.tid = t)
    (h : sameRegs x y) (hd : d < 32) : vectorDone s (putTh s (advance1 (setV y d v))) t x d v :=
  ⟨_, regOnly_putTh hx (by simp [advance1, h.tid, ht]), vReg_setV_eq _ _ hd, keepsRegs_advance _ _ (keepsRegs_setV h _ _),
    goesOn_advance1 (by simp [h.pc]) (by simp [h.reps])⟩

theorem storeDone_put {s : State} {t : Tid} {x y : Thread} {a : Nat} {bs : List Byte} (hx : getTh s t = some x) (ht : x.tid = t)
    (h : sameRegs x y) (w : MemOk s = true) : storeDone s (putTh { s with mem := memWrite s.mem a bs } (advance1 y)) t x a bs := by
  have wm : Memory.wf s.mem = true := by simp only [MemOk, Bool.and_eq_true] at w; exact w.1
  exact ⟨_, memOnly_putTh hx (by simp [advance1, h.tid, ht]), keepsRegs_same h _ _ _ _,
    goesOn_advance1 h.pc h.reps, memRead_memWrite wm, fun b hb => memByte_memWrite_out hb⟩

/-! ## Refusals -/

theorem raise_threads (s : State) (f : FaultIn) : (raise s f).threads = s.threads ∧ (raise s f).mem = s.mem := by
  unfold raise failStop; split
  · split <;> exact ⟨rfl, rfl⟩
  · exact ⟨rfl, rfl⟩

theorem raisePlan_threads (s : State) (k : PlanKey) (f : FaultIn) (n : Nat) : (raisePlan s k f n).threads = s.threads ∧ (raisePlan s k f n).mem = s.mem := by
  unfold raisePlan
  dsimp only
  split
  · split
    · exact raise_threads _ _
    · exact raise_threads _ _
  · exact raise_threads _ _

/-- R156: a refusal stops a running program and changes no register and no memory. -/
theorem refuseFor_facts {s : State} {t : Tid} {x : Thread} {k code pc d1 : Nat} {cause : Byte} (hx : getTh s t = some x) (hr : x.stat = .running) :
    (∃ y, getTh (refuseFor s t k code pc d1 cause) t = some y ∧ y.stat = .refused ∧ keepsRegs x y [] [] [] [] ∧ y.pc = x.pc)
      ∧ (refuseFor s t k code pc d1 cause).mem = s.mem := by
  unfold refuseFor
  dsimp only
  generalize hs : raisePlan s t.key _ 127 = s1
  have ht : s1.threads = s.threads := by rw [← hs]; exact (raisePlan_threads _ _ _ _).1
  have hm : s1.mem = s.mem := by rw [← hs]; exact (raisePlan_threads _ _ _ _).2
  generalize (getPlan s t.key).any _ = o
  have he : refuseThread o x = { x with stat := .refused } := by unfold refuseThread; rw [hr]; rfl
  have h1 : getTh (modTh s1 t (refuseThread o)) t = some (refuseThread o x) := by
    refine getTh_modTh_eq (x := x) ?_ (fun y => ?_)
    · unfold getTh at *; rw [ht]; exact hx
    · unfold refuseThread; split <;> rfl
  rw [he] at h1
  exact ⟨⟨{ x with stat := .refused }, h1, rfl, ⟨fun _ _ => rfl, fun _ _ => rfl, fun _ _ => rfl, fun _ _ _ => rfl, rfl⟩, rfl⟩, hm⟩

theorem refuseRoom_facts {s : State} {t : Tid} {x : Thread} {k code pc d1 : Nat} (hx : getTh s t = some x) (hr : x.stat = .running) :
    (∃ y, getTh (refuseRoom s t k code pc d1) t = some y ∧ y.stat = .refused ∧ keepsRegs x y [] [] [] [] ∧ y.pc = x.pc)
      ∧ (refuseRoom s t k code pc d1).mem = s.mem := refuseFor_facts hx hr

end Sys2Proof.Laws
end

