-- ==== Sys2Proof/WellFormed.lean ====
section
/-! DEFINITION. Which commands are well formed: the ranges that the manual gives to what a command names. A command out of range
names nothing that exists; exec leaves the state as it is for most of them, and the statements about commands say which range they need. -/
namespace Sys2Proof

/-- R83: function 0 is the PF, 1 to 63 the VFs. -/
def fnOk (f : Nat) : Bool := decide (f < 64)

/-- R91: contexts 0 to 16,383. -/
def ctxOk (c : Nat) : Bool := decide (c < 16384)

/-- R12: logical rooms 0 to 6,143. -/
def roomIndexOk (r : Nat) : Bool := decide (r < 6144)

/-- R104, R107: a plan of a context; `plan_id` has 16 bits. -/
def keyOk (k : PlanKey) : Bool := ctxOk k.ctx && decide (k.id < 65536)

/-- R129, R130: a room program. -/
def tidOk (t : Tid) : Bool := keyOk t.key && roomIndexOk t.room

/-- R104: a descriptor of a context. -/
def descOk (d : Desc) : Bool := ctxOk d.ctx

/-- R306: ports 0 to 17. -/
def portOk (p : Nat) : Bool := decide (p < 18)

/-- R312: a flit has 256 bytes. -/
def flitOk (bs : List Byte) : Bool := decide (bs.length = 256)

/-- R315, R318: a message of a port and channel, with its 16-byte header. -/
def msgOk (m : Msg) : Bool := portOk m.port && decide (m.vc < 8) && decide (16 ≤ m.bytes.length)

/-- R121: vectors 0 to 31. -/
def vectorOk (v : Nat) : Bool := decide (v < 32)

/-- R10: floors 0 to 7. -/
def floorOk (f : Nat) : Bool := decide (f < 8)

/-- R13: slots 0 to 65 of wings 0 to 95; four floor cores of a floor; hall cores 0 to 15. -/
def partOk : Part → Bool
  | .room wing slot => decide (wing < 96) && decide (slot < 66)
  | .floorCore floor core => floorOk floor && decide (core < 4)
  | .hallCore core => decide (core < 16)

/-- R10, R15, R303: the room memories; 16 cellars with 96 channels and one pantry slice each. -/
def tierOk : EccTier → Bool
  | .roomMem room unit => roomIndexOk room && decide (6 ≤ unit) && decide (unit ≤ 9)
  | .wall room => roomIndexOk room
  | .pantryClean slice => decide (slice < 16)
  | .pantryState slice => decide (slice < 16)
  | .cellar => true
  | .attic => true

/-- R10: the dies of a class. -/
def dieOk (cls index : Nat) : Bool :=
  match cls with
  | 0 => decide (index < 8)
  | 1 => decide (index < 16)
  | 2 => decide (index < 4)
  | 3 => decide (index < 6)
  | 4 => decide (index < 1)
  | 5 => decide (index < 1)
  | 6 => decide (index < 4)
  | _ => false

/-- R95, R436: writes of 1 to 8 bytes: the block drops all but aligned ones of 4 or 8. -/
def sizeOk (n : Nat) : Bool := decide (1 ≤ n ∧ n ≤ 8)

/-- R418: a sensor of the module. -/
def sensorOk : Sensor → Bool
  | .junction floor => floorOk floor
  | _ => true

/-- R88: whose access it was. -/
def accessOk : HostAccess → Bool
  | .sqRead ctx => ctxOk ctx
  | .entryWrite ctx => ctxOk ctx
  | .data ctx _ => ctxOk ctx
  | .faultRing fn => fnOk fn
  | .ledgerRing fn => fnOk fn

/-- R83, R379: a slot of the certificate chains, a function and one of its streams. -/
def spdmOk : SpdmReq → Bool
  | .getCertificate slot => decide (slot < 8)
  | .setIdeKeys fn _ => fnOk fn
  | .other _ => true

/-- R425: what start-up finds concerns parts that exist. -/
def obsOk (o : BootObs) : Bool :=
  o.lostChannels.all (fun c => decide (c.1 < 16) && decide (c.2 < 96)) && o.failedParts.all partOk

/-- The well-formed commands: everything that a command names exists. -/
def Instr.wf : Instr → Bool
  | .tickBoundary => true
  | .reclaimSetFix => true
  | .releasePoint => true
  | .tokenSettlement => true
  | .bookAudit => true
  | .boilerSample boiler _ => decide (boiler < 4)
  | .tickInEdge _ => true
  | .tickFlitReceive port _ flit => portOk port && flitOk flit
  | .referenceMissing _ => true
  | .holdoverTimeout => true
  | .tickEnable _ _ => true
  | .tickDisable _ _ => true
  | .tickSourceChange _ _ => true
  | .tickAltSourceChange _ _ => true
  | .tickOutEnable _ _ => true
  | .tickPeriodWrite _ => true
  | .tickSysOffsetLoWrite _ => true
  | .tickSysOffsetHiWrite _ => true
  | .tickNowLoRead => true
  | .pwrMetLoRead => true
  | .flogNewestLoRead => true
  | .pwrCapWrite _ => true
  | .w1cFlagClear fn offset _ _ => fnOk fn && decide (offset < 2097152)
  | .registerWrite fn offset size _ _ => fnOk fn && decide (offset < 2097152) && sizeOk size
  | .crOpen fn _ => fnOk fn
  | .crClose fn _ => fnOk fn
  | .crReset fn _ => fnOk fn
  | .faultRingEnable fn _ => fnOk fn
  | .ledgerRingEnable fn _ => fnOk fn
  | .msixModWrite fn vector _ => fnOk fn && vectorOk vector
  | .contextAssignWrite ctx word _ => ctxOk ctx && decide (word < 4)
  | .doorbellSqCq fn offset size _ => fnOk fn && decide (offset < 1048576) && sizeOk size
  | .doorbellFaultHead fn line size _ => fnOk fn && decide (line < 16384) && sizeOk size
  | .doorbellLedgerHead fn line size _ => fnOk fn && decide (line < 16384) && sizeOk size
  | .descriptorFetchTimeout ctx => ctxOk ctx
  | .completionWrite ctx => ctxOk ctx
  | .nop desc => descOk desc
  | .badOpcode _ desc => descOk desc
  | .plan desc => descOk desc
  | .planAdmission key => keyOk key
  | .planWithdraw desc => descOk desc
  | .move desc _ => descOk desc
  | .pageWrite desc _ => descOk desc
  | .pagePublish desc => descOk desc
  | .pageCreate desc => descOk desc
  | .pageDestroy desc => descOk desc
  | .tickWait desc => descOk desc
  | .ctxOpen desc => descOk desc
  | .ctxClose desc => descOk desc
  | .imageStore desc _ => descOk desc
  | .imageLoad desc => descOk desc
  | .imageLoadComplete ctx imageId _ => ctxOk ctx && decide (imageId < 4294967296)
  | .imageDelete desc => descOk desc
  | .fwUpdate desc _ => descOk desc
  | .configUpdate desc _ => descOk desc
  | .attest desc => descOk desc
  | .streamOpen desc _ => descOk desc
  | .codecJob desc => descOk desc
  | .codecJobStart ctx stream => ctxOk ctx && decide (stream < 256)
  | .codecJobComplete ctx stream => ctxOk ctx && decide (stream < 256)
  | .streamClose desc => descOk desc
  | .streamRingPoll ctx stream _ => ctxOk ctx && decide (stream < 256)
  | .codecEngine engine => decide (engine < 16)
  | .ledgerRecordWrite fn => fnOk fn
  | .faultRecordWrite fn => fnOk fn
  | .hostAccessFail access _ _ => accessOk access
  | .atsInvalidation fn _ => fnOk fn
  | .ideTlpOutsideStream fn => fnOk fn
  | .ideStreamLoss fn => fnOk fn
  | .doeSpdmRequest request => spdmOk request
  | .msixDelayExpiry fn vector => fnOk fn && vectorOk vector
  | .msixPerTick => true
  | .flrVf fn => fnOk fn
  | .flrPf => true
  | .powerStateWrite fn _ => fnOk fn
  | .roomNop t _ => tidOk t
  | .stepEnd t _ => tidOk t
  | .progEnd t _ => tidOk t
  | .jump t _ => tidOk t
  | .call t _ => tidOk t
  | .ret t _ => tidOk t
  | .repeatLoop t _ => tidOk t
  | .trap t _ => tidOk t
  | .sadd t _ => tidOk t
  | .ssub t _ => tidOk t
  | .smul t _ => tidOk t
  | .sand t _ => tidOk t
  | .sor t _ => tidOk t
  | .sxor t _ => tidOk t
  | .sshl t _ => tidOk t
  | .sshr t _ => tidOk t
  | .smin t _ => tidOk t
  | .smax t _ => tidOk t
  | .sli t _ => tidOk t
  | .scmp t _ => tidOk t
  | .sldc t _ => tidOk t
  | .srd t _ => tidOk t
  | .sld t _ => tidOk t
  | .sst t _ => tidOk t
  | .mmaF t _ => tidOk t
  | .mmaB0 t _ => tidOk t
  | .mmaB1 t _ => tidOk t
  | .accZero t _ => tidOk t
  | .accOut t _ => tidOk t
  | .accIn t _ => tidOk t
  | .nest t _ => tidOk t
  | .vld t _ => tidOk t
  | .vst t _ => tidOk t
  | .vlda t _ => tidOk t
  | .vsta t _ => tidOk t
  | .vadd t _ => tidOk t
  | .vsub t _ => tidOk t
  | .vmul t _ => tidOk t
  | .vfma t _ => tidOk t
  | .vmax t _ => tidOk t
  | .vmin t _ => tidOk t
  | .vcmp t _ => tidOk t
  | .vsel t _ => tidOk t
  | .vbc t _ => tidOk t
  | .vred t _ => tidOk t
  | .vidx t _ => tidOk t
  | .vrng t _ => tidOk t
  | .fnTable t _ => tidOk t
  | .fnMicro t _ => tidOk t
  | .rstat t _ => tidOk t
  | .tblLoad t _ => tidOk t
  | .dmaIn t _ => tidOk t
  | .dmaOut t _ => tidOk t
  | .dmaLate t => tidOk t
  | .wallPut t _ => tidOk t
  | .haloLand t dir => tidOk t && decide (dir < 4)
  | .haloWait t _ => tidOk t
  | .gather t _ => tidOk t
  | .walkChunkLand t slot => tidOk t && decide (slot < 4)
  | .store t _ => tidOk t
  | .verifyOpen t _ => tidOk t
  | .commit t _ => tidOk t
  | .frameDecrementArrive _ => true
  | .porchSend t _ => tidOk t
  | .porchRecv t _ => tidOk t
  | .announce msg => msgOk msg
  | .piece msg => msgOk msg
  | .patom t _ => tidOk t
  | .patomPerform t => tidOk t
  | .pred t _ => tidOk t
  | .predContribution t => tidOk t
  | .flagSet t _ => tidOk t
  | .flagWait t _ => tidOk t
  | .flagWaitComplete t => tidOk t
  | .fence t _ => tidOk t
  | .unitWait t _ => tidOk t
  | .instructionComplete t unit => tidOk t && decide (unit < 7)
  | .stepFinish key => keyOk key
  | .roomHw room unit _ _ => roomIndexOk room && decide (unit ≤ 11)
  | .roomWatchdogTimeout room => roomIndexOk room
  | .restoreTimeout t => tidOk t
  | .serviceResume _ => true
  | .repairMapWrite => true
  | .spareSelfTest wing spare _ => decide (wing < 96) && decide (spare < 2)
  | .floorCoreFailure floor core _ => floorOk floor && decide (core < 4)
  | .hallCoreFailure core => decide (core < 16)
  | .hallWatchdog => true
  | .dieFail cls index => dieOk cls index
  | .memoryEccEvent tier _ _ => tierOk tier
  | .patrolScrub cellar channel _ => decide (cellar < 16) && decide (channel < 96)
  | .cellarLoss cellar channel => decide (cellar < 16) && decide (channel < 96)
  | .failstop code _ _ => decide (0x0500 ≤ code.toNat) && decide (code.toNat ≤ 0x0507)
  | .faultLogSave => true
  | .slide msg => msgOk msg
  | .peerSilent => true
  | .failstopMessage msg => msgOk msg
  | .trainingComplete port _ rate half => portOk port && decide (rate < 3) && decide (half < 2)
  | .trainingRetry port => portOk port
  | .helloSend port => portOk port
  | .hello port flit => portOk port && flitOk flit
  | .helloAck port flit => portOk port && flitOk flit
  | .dataFlitReceive port flit => portOk port && flitOk flit
  | .nak port flit => portOk port && flitOk flit
  | .idleFlitReceive port flit => portOk port && flitOk flit
  | .replayTimerExpiry port _ => portOk port
  | .echoSend port _ => portOk port
  | .echo port _ flit => portOk port && flitOk flit
  | .echoReply port _ flit => portOk port && flitOk flit
  | .failstopFlit port flit => portOk port && flitOk flit
  | .laneLost port lane => portOk port && decide (lane < 8)
  | .deliveredSend => true
  | .delivered msg => msgOk msg
  | .priorityFlowControl port priority => portOk port && decide (priority < 8)
  | .thermalEvent floor _ => floorOk floor
  | .droopDetect floor _ => floorOk floor
  | .setpointStepBack floor => floorOk floor
  | .boardCapWrite _ _ => true
  | .pldmSensorRead sensor => sensorOk sensor
  | .jtagInstruction _ => true
  | .supplyInRange _ _ => true
  | .supplyLoss => true
  | .refclkLoss => true
  | .perstAssert => true
  | .perstRelease _ obs => obsOk obs
  | .moveComplete ctx _ => ctxOk ctx
  | .imageStoreComplete fn imageId => fnOk fn && decide (imageId < 4294967296)
  | .fwUpdateComplete _ => true
  | .configUpdateComplete _ => true
  | .trainingFailed port => portOk port
  | .droopRecovery floor _ => floorOk floor
  | .vfEnableWrite _ numVfs => decide (numVfs < 64)
  | .msixVectorMaskWrite fn vector _ => fnOk fn && vector.all vectorOk
  | .pfcPauseExpiry port priority => portOk port && decide (priority < 8)

end Sys2Proof
end

