-- ==== Sys2Proof/Tests/Slice0.lean ====
section
/-! SUPPORT. Tests: ill-formed commands, small steps of each family with results worked out from the manual, and for every statement a
state and operands that meet its hypotheses together. -/
namespace Sys2Proof.Tests
open Sys2Proof.Machine

/-! ## A small machine

A device in service, its tick generator at tick 7 past the release point, context 3 open for function 0 with one plan, whose step runs
on rooms 5 and 6 of wing 0. -/

/-- The image of the plan's rooms: 16 code words, its descriptors at offset 128. -/
def imgA : ImageRec :=
  { offset := 0, length := 4096, codeWords := 16, entry := 0, descOff := 128, descLen := 1024, constOff := 1152, constLen := 64 }

/-- A room record: two scratchpad granules, four tiles. -/
def recA (room : Nat) : RoomRec :=
  { room := room, image := 0, spadBase := 0, spadLen := 2, accBase := 0, accLen := 4, imemBase := 0, imemLen := 1, tblBase := 0, tblLen := 8 }

def bodyA : PlanBody :=
  { period := 100000, budget := 0, defPolicy := 0, startMode := 0, startTick := 0,
    steps := List.replicate 3 { demands := [⟨0, 5, 1400⟩, ⟨0, 6, 1400⟩], cheaper := [], policy := 0, bound := false, hasCheaper := false },
    recompute := none, outputs := [(1, 4)], images := [imgA], rooms := [recA 5, recA 6], epoch := 0, reference := false, shape := [],
    inputDigest := [], replayCount := 0, replayAddr := 0, ranges := [], tables := [], micros := [], preloads := [], recompAddr := 0,
    recompMax := 0, walkTables := [], pins := [], collTag := none, groups := [], colls := [], training := none, weights := [] }

/-- A descriptor of context 3 with all body words 0, its interrupt waived. -/
def descA : Desc :=
  { ctx := 3, fence := false, noIrq := true, rsvA := 0, planId := 9, rsvB := 0, userId := 0x77, w10 := 0, w18 := 0, w20 := 0, w28 := 0,
    w30 := 0, w38 := 0 }

def keyA : PlanKey := { ctx := 3, id := 9 }
def tidA : Tid := { key := keyA, room := 5 }
def tidB : Tid := { key := keyA, room := 6 }

def runA : StepRun := { k := 0, cheaper := false, tick := 7, released := true, rooms := [5, 6] }

def planA : Plan :=
  { key := keyA, desc := descA, tag := 1, phase := .admitted, body := some bodyA, t0 := 7, run := some runA,
    outs := [{ step := 1, outId := 4, promised := 8 }] }

/-- A room program that runs, with registers s1 to s3 and p1 set. -/
def thA (v1 v2 v3 : DWord) : Thread :=
  { tid := tidA, stat := .running, fresh := false,
    regs := (((Vector.replicate 32 0).setIfInBounds 1 v1).setIfInBounds 2 v2).setIfInBounds 3 v3, preds := 3 }

def thB : Thread := { tid := tidB, stat := .running, fresh := false }

/-- Context 3, open, with rings of 64 entries; its extents 0 and 1 are mapped, the second read only. -/
def ctxA : Ctx :=
  { state := .opened, func := 0, sqBase := 0x10000, cqBase := 0x20000, sqLog2 := 6, cqLog2 := 6
    addr := { cur := [(0, { lo := 1, hi := 1, extents := [0] }), (1, { lo := 0x100002001, hi := 1, extents := [1] })] } }

/-- The device in service. -/
def devA : State :=
  { State.reset with
    dev := { state := .inService }, pwr := { perst := false, rails := true, array := true }
    tick := { ctl := 1, state := .running, inUse := .internal, num := 7, begun := true, released := true, aligned := true,
              lastB := 1000, nextB := some 1601000 } }

/-- The device with the plan and its two room programs. -/
def roomsA (x : Thread) (m : List Host.Cell) : State :=
  { devA with ctxs := [(3, ctxA)], plans := [planA], threads := [x, thB], mem := m }

/-- The room program of `x` about to issue. -/
def rcA (x : Thread) (m : List Host.Cell) : RC := { s := roomsA x m, th := x, p := planA, b := bodyA, r := recA 5, im := imgA, k := 0 }

/-- An instruction word under p0, with its registers and immediate. -/
def insA (d a b : BitVec 5) (imm : Word) : RoomIns := { pred := 0, pneg := false, d := d, a := a, b := b, c := 0, imm := imm }

/-! ## Witnesses of the statements about room programs

Each theorem meets together the hypotheses of the statement that its name names, clause by clause, at a boundary where the clause has
one. `mayIssue` of every unit and range holds where nothing is outstanding. -/

theorem mayIssue_idle (c : RC) (h : c.th.outs = []) (unit : Nat) (reads writes : List Range) : mayIssue c unit reads writes := by
  unfold mayIssue holdFor holdSeq; rw [h]; split <;> simp [outRoom, queueRoom]

/-- PredicateNotMetPasses: p2 is false. -/
theorem wit_PredicateNotMetPasses :
    enter (roomsA (thA 0 0 0) []) tidA = some (rcA (thA 0 0 0) []) ∧ (thA 0 0 0).pc < imgA.codeWords
    ∧ predMet (thA 0 0 0) { insA 0 0 0 0 with pred := 2 } = false := ⟨rfl, by decide, by decide⟩

/-- ScalarOperations, and every statement whose one hypothesis is the issue: p1 is true, and p2 negated. -/
theorem wit_issues (v1 v2 v3 : DWord) (m : List Host.Cell) (d a b : BitVec 5) (imm : Word) :
    issuesAt (roomsA (thA v1 v2 v3) m) tidA (insA d a b imm) (rcA (thA v1 v2 v3) m) := ⟨rfl, (by show 0 < 16; decide), rfl⟩

theorem wit_ScalarOperations :
    issuesAt (roomsA (thA 1 2 3) []) tidA (insA 4 1 2 0) (rcA (thA 1 2 3) [])
    ∧ predMet (thA 1 2 3) { insA 0 0 0 0 with pred := 1 } = true
    ∧ predMet (thA 1 2 3) { insA 0 0 0 0 with pred := 2, pneg := true } = true := ⟨wit_issues .., by decide, by decide⟩

/-- R138, R140: SADD s4, s1, s2 under p1, its word put together by hand: the opcode, then pred, d, a and b. -/
def wordSadd : Nat := 0x10 + 1 * 2 ^ 8 + 4 * 2 ^ 12 + 1 * 2 ^ 17 + 2 * 2 ^ 22

/-- The code of room 5 starting with one word. -/
def codeMem (w : Nat) : List Host.Cell := memWrite [] (imemAddr 5 0x20) (leBytes w 8)

/-- ScalarOperations: the words whose command the statement names, and one of no command. -/
theorem wit_ScalarOperations_word :
    (∀ m, enter (roomsA (thA 1 2 3) m) tidA = some (rcA (thA 1 2 3) m)) ∧ (rcA (thA 1 2 3) []).th.pc < (rcA (thA 1 2 3) []).im.codeWords
    ∧ ∀ op ∈ [0x10, 0x1B, 0x1F, 0x20, 0x33, 0x64, 0x65], (rcA (thA 1 2 3) (codeMem op)).word % 256 = op := ⟨fun _ => rfl, by decide, by decide⟩

theorem test_nextCommand_sadd :
    nextCommand (roomsA (thA 1 2 3) (codeMem wordSadd)) tidA = some (.sadd tidA { insA 4 1 2 0 with pred := 1 }) := by decide

/-- ScratchpadWords: the last word of the window. -/
theorem wit_ScratchpadWords :
    let c := rcA (thA 32760 5 0) []
    issuesAt (roomsA (thA 32760 5 0) []) tidA (insA 4 1 2 0) c ∧ MemOk (roomsA (thA 32760 5 0) []) = true
    ∧ (sReg c.th 1 + (0 : Word).signExtend 64).toNat + 8 = c.spadLen ∧ (sReg c.th 1).toNat % 8 = 0
    ∧ mayIssue c 7 [rSpad 32760 8] [] ∧ mayIssue c 7 [] [rSpad 32760 8] :=
  ⟨wit_issues .., by decide, by decide, by decide, mayIssue_idle _ rfl .., mayIssue_idle _ rfl ..⟩

/-- A program deep in calls and loops. -/
def thDeep (calls : Nat) (reps : Nat) : Thread :=
  { thA 1 0 0 with calls := List.replicate calls 3, reps := List.replicate reps { start := 0, len := 9, left := 2 } }

/-- ControlFlow: the eighth CALL, a RET, the fourth REPEAT of one pass, a REPEAT of none. -/
theorem wit_ControlFlow :
    (issuesAt (roomsA (thDeep 7 3) []) tidA (insA 0 1 0 4) (rcA (thDeep 7 3) []) ∧ (thDeep 7 3).calls.length < 8
      ∧ (thDeep 7 3).calls = 3 :: List.replicate 6 3 ∧ (sReg (thDeep 7 3) 1).toNat % 2 ^ 32 = 1 ∧ (thDeep 7 3).reps.length < 4)
    ∧ issuesAt (roomsA (thDeep 7 3) []) tidA (insA 0 0 0 4) (rcA (thDeep 7 3) []) ∧ (sReg (thDeep 7 3) 0).toNat % 2 ^ 32 = 0 :=
  ⟨⟨⟨rfl, by decide, by decide⟩, by decide, by decide, by decide, by decide⟩, ⟨rfl, by decide, by decide⟩, by decide⟩

/-- RoomRefusals: the ninth CALL, a RET with the stack empty, the fifth REPEAT, a word that leaves the window, a misaligned one. -/
theorem wit_RoomRefusals :
    (issuesAt (roomsA (thDeep 8 4) []) tidA (insA 0 1 0 4) (rcA (thDeep 8 4) []) ∧ 8 ≤ (thDeep 8 4).calls.length
      ∧ (sReg (thDeep 8 4) 1).toNat % 2 ^ 32 ≠ 0 ∧ 4 ≤ (thDeep 8 4).reps.length
      ∧ (sReg (thDeep 8 4) 1 + (4 : Word).signExtend 64).toNat % 8 ≠ 0)
    ∧ issuesAt (roomsA (thA 32768 0 0) []) tidA (insA 0 1 0 0) (rcA (thA 32768 0 0) []) ∧ (thA 32768 0 0).calls = []
    ∧ (rcA (thA 32768 0 0) []).spadLen < (sReg (thA 32768 0 0) 1 + (0 : Word).signExtend 64).toNat + 8 :=
  ⟨⟨⟨rfl, by decide, by decide⟩, by decide, by decide, by decide, by decide⟩, wit_issues .., by decide, by decide⟩

/-- ArrayMultiply: an MMA of k = 32 into the last tile of the window; one into the tile behind it is refused, as are the accumulator
instructions on it. -/
theorem wit_ArrayMultiply :
    let c := rcA (thA 0 4096 8192) []
    let d : MmaAddr := { a := 4096, b := 8192, sa := 0, sb := 0 }
    issuesAt (roomsA (thA 0 4096 8192) []) tidA (insA 0 2 3 0x10003) c ∧ MemOk (roomsA (thA 0 4096 8192) []) = true
    ∧ mmaLegal c (mmaImm 0x10003) d = true ∧ mayIssue c 0 (mmaReads (mmaImm 0x10003) d) [rTile 3 1]
    ∧ mmaLegal c (mmaImm 0x10004) d = false ∧ c.r.accLen ≤ (4 : Word).toNat % 32
    ∧ c.r.accLen < (3 + 32 : Word).toNat % 32 + ((3 + 32 : Word).toNat / 32 % 32 + 1) ∧ c.r.accLen ≤ (accImm 4).tile :=
  ⟨wit_issues .., by decide, by decide, mayIssue_idle _ rfl .., by decide, by decide, by decide, by decide⟩

/-- AccumulatorPort: the last two tiles cleared; the last tile filled, and written out without and with scales. -/
theorem wit_AccumulatorPort :
    let c := rcA (thA 4096 8192 0) []
    issuesAt (roomsA (thA 4096 8192 0) []) tidA (insA 0 1 2 0x22) c ∧ MemOk (roomsA (thA 4096 8192 0) []) = true
    ∧ (0x22 : Word).toNat % 32 + ((0x22 : Word).toNat / 32 % 32 + 1) = c.r.accLen ∧ mayIssue c 3 [] [rTile 2 2]
    ∧ c.inSpad 4096 4096 64 = true ∧ (3 : Word).toNat % 32 < c.r.accLen ∧ (accImm 3).scale = 0
    ∧ c.inSpad 4096 (cTile (accImm 3)) 64 = true ∧ (accImm 0x203).scale ≠ 0 ∧ c.inSpad 8192 (csTile (accImm 0x203)) 64 = true
    ∧ (accImm 0x203).tile < c.r.accLen :=
  ⟨wit_issues .., by decide, by decide, mayIssue_idle _ rfl .., by decide, by decide, by decide, by decide, by decide, by decide, by decide⟩

/-- A plain one-level nest of bound `n`, its buffers `len` bytes each from 0 and 4,096, as the bytes of its descriptor. -/
def nestDesc (n len w : Nat) : List Byte :=
  leBytes (2 ^ 10) 4 ++ leBytes 0x10000 4 ++ leBytes 0 8 ++ leBytes 0 4 ++ leBytes len 4 ++ leBytes 4096 4 ++ leBytes len 4
  ++ leBytes 0 32 ++ leBytes (n + w * 2 ^ 16) 4 ++ leBytes (1 + w * 2 ^ 16) 4 ++ leBytes 0 24

/-- The device memory that holds a descriptor of the plan's image, at offset 0 of its descriptors, on room 5. -/
def descMem (bs : List Byte) : List Host.Cell := memWrite [] (imemAddr 5 128) bs

/-- The nest that the room program reads. -/
def nestA (bs : List Byte) : Nest :=
  let c := rcA (thA 0 0 0) (descMem bs)
  nestOf (c.desc 0 (nestBytes (fieldAt (c.desc 0 64) 0 10 3)))

/-- LoopNest: two passes over buffers that just hold an operand; the same in buffers one byte short; no pass; a dynamic count where the
plan has no shape. -/
theorem wit_LoopNest :
    let c := fun (bs : List Byte) => rcA (thA 0 0 0) (descMem bs)
    let good := nestDesc 2 4096 0
    (issuesAt (roomsA (thA 0 0 0) (descMem good)) tidA (insA 0 0 0 0) (c good)
      ∧ levelCounts (c good) (nestA good).levels = .ok [2] ∧ nestLegal (c good) (nestA good) ((nestA good).levels.zip [2]) = true)
    ∧ (levelCounts (c (nestDesc 2 4095 0)) (nestA (nestDesc 2 4095 0)).levels = .ok [2]
      ∧ nestLegal (c (nestDesc 2 4095 0)) (nestA (nestDesc 2 4095 0)) ((nestA (nestDesc 2 4095 0)).levels.zip [2]) = false)
    ∧ (levelCounts (c (nestDesc 0 4096 0)) (nestA (nestDesc 0 4096 0)).levels = .ok [0] ∧ freeZero (nestA (nestDesc 0 4096 0)) [0] = true)
    ∧ levelCounts (c (nestDesc 0 4096 1)) (nestA (nestDesc 0 4096 1)).levels = .error 0
    ∧ (∀ unit reads writes, mayIssue (c good) unit reads writes) :=
  ⟨⟨wit_issues .., rfl, by decide⟩, ⟨rfl, by decide⟩, ⟨rfl, by decide⟩, rfl, mayIssue_idle _ rfl⟩

/-- LoopNest: the NEST reads the place of a halo under way, and of one that has landed beyond C; not of one that C has reached. -/
theorem wit_LoopNest_soon :
    let d := nestA (nestDesc 2 4096 0)
    let h : Halo := { step := 1, dst := 0, bytes := [1] }
    let x := { thA 0 0 0 with inbound := [(2, h)] }
    let y := { thA 0 0 0 with landed := [(2, h)] }
    (issuesAt (roomsA x (descMem (nestDesc 2 4096 0))) tidA (insA 0 0 0 0) (rcA x (descMem (nestDesc 2 4096 0))))
    ∧ levelCounts (rcA x (descMem (nestDesc 2 4096 0))) d.levels = .ok [2]
    ∧ nestLegal (rcA x (descMem (nestDesc 2 4096 0))) d (d.levels.zip [2]) = true
    ∧ (∀ unit reads writes, mayIssue (rcA x (descMem (nestDesc 2 4096 0))) unit reads writes)
    ∧ readsOpenHalo x (nestRead d [2]) = true ∧ readsOpenHalo y (nestRead d [2]) = true
    ∧ readsOpenHalo { y with wall := { f := [0, 0, 1, 0], c := [0, 0, 1, 0] } } (nestRead d [2]) = false :=
  ⟨⟨rfl, by decide, rfl⟩, rfl, by decide, mayIssue_idle _ rfl, by decide, by decide, by decide⟩

/-- VectorArithmetic, VectorCompareAndReduce, VectorLoadsAndStores and FunctionUnit: the last group of the window, the last tile, a slot
with a table and mode 0 of RSTAT on v30. -/
theorem wit_VectorAndFunctionUnit :
    let s := roomsA { thA 32512 0 0 with active := [(0, 0)] } []
    let c := rcA { thA 32512 0 0 with active := [(0, 0)] } []
    issuesAt s tidA (insA 30 1 2 3) c ∧ MemOk s = true ∧ (∀ unit reads writes, mayIssue c unit reads writes)
    ∧ c.inSpad (sReg c.th 1 + (0 : Word).signExtend 64).toNat (2 * groupBytes 0) 8 = true
    ∧ (sReg c.th 1).toNat + 2 * groupBytes 0 = c.spadLen ∧ (3 : Word).toNat % 32 < c.r.accLen
    ∧ aGet c.th.active ((0 : Word).toNat % 8) = some 0 ∧ (30 : BitVec 5).toNat < 31 :=
  ⟨⟨rfl, by decide, by decide⟩, by decide, mayIssue_idle _ rfl, by decide, by decide, by decide, rfl, by decide⟩

/-- A STRIDED descriptor of two pieces of 64 bytes, its context strides `st`, with a late limit `late` and its status line at 4,096. -/
def dmaDesc (st late : Nat) : List Byte :=
  leBytes 0 4 ++ leBytes 64 4 ++ leBytes 2 2 ++ leBytes 1 2 ++ leBytes st 4 ++ leBytes 64 4 ++ leBytes 0 20 ++ leBytes late 4
  ++ leBytes 4096 4 ++ leBytes 0 16

/-- WingDma: two pieces in the last bytes of the window and of the extent; with a late limit; a destination and a source outside; a
late transfer under way. -/
theorem wit_WingDma :
    let s := fun (late : Nat) (v1 v2 : DWord) => roomsA (thA v1 v2 0) (descMem (dmaDesc 64 late))
    let c := fun (late : Nat) (v1 v2 : DWord) => rcA (thA v1 v2 0) (descMem (dmaDesc 64 late))
    let d := fun (late : Nat) => dmaOf (dmaDesc 64 late)
    (∀ late v1 v2, issuesAt (s late v1 v2) tidA (insA 0 1 2 0) (c late v1 v2))
    ∧ (c 0 0 0).desc 0 64 = dmaDesc 64 0 ∧ (c 1 0 0).desc 0 64 = dmaDesc 64 1
    ∧ (d 0).late = 0 ∧ (d 0).bad (c 0 32640 2097024) 32640 2097024 false = none
    ∧ (d 0).bad (c 0 32640 2097024) 32640 2097024 true = none
    ∧ (d 1).late ≠ 0 ∧ (d 1).bad (c 1 0 0) 0 0 false = none ∧ replaying (c 1 0 0).p = false
    ∧ (d 0).bad (c 0 32648 0) 32648 0 false = some 32648 ∧ (d 0).bad (c 0 0 2097152) 0 2097152 true = some 2097152
    ∧ (∀ late v1 v2 unit reads writes, mayIssue (c late v1 v2) unit reads writes) :=
  ⟨fun _ _ _ => wit_issues .., by decide, by decide, by decide, by decide, by decide, by decide, by decide, by decide, by decide,
    by decide, fun _ _ _ => mayIssue_idle _ rfl⟩

def thLate : Thread := { thA 0 0 0 with lates := [{ desc := dmaDesc 64 1, sa := 0, sb := 0, pc := 0, occ := 0 }] }

theorem wit_WingDma_late :
    alive (roomsA thLate []) = true ∧ getTh (roomsA thLate []) tidA = some thLate ∧ running thLate
    ∧ thLate.lates = { desc := dmaDesc 64 1, sa := 0, sb := 0, pc := 0, occ := 0 } :: []
    ∧ getPlan (roomsA thLate []) tidA.key = some planA ∧ planA.run = some runA ∧ thRec (roomsA thLate []) tidA = some (recA 5) :=
  ⟨by decide, rfl, rfl, rfl, rfl, rfl, rfl⟩

/-- Wall state with step register `n`. -/
def thWall (n : Word) (v1 v2 : DWord) : Thread := { thA v1 v2 0 with wall := { step := n } }

/-- WallAndHalos: room 5 puts to room 6 in its east, the last 8 bytes of both windows. Step 1 goes, step 2 is held, an empty put
advances below the top and is refused at it; room 5 has no northern neighbour and no western one in the plan. -/
theorem wit_WallAndHalos_put :
    let s := fun (n : Word) (v1 v2 : DWord) => roomsA (thWall n v1 v2) []
    let c := fun (n : Word) (v1 v2 : DWord) => rcA (thWall n v1 v2) []
    (∀ n v1 v2 imm, issuesAt (s n v1 v2) tidA (insA 0 1 2 imm) (c n v1 v2))
    ∧ (∀ n v1 v2 unit reads writes, mayIssue (c n v1 v2) unit reads writes)
    ∧ (sReg (thWall 1 0 0) 2).toNat = 0 ∧ (thWall 1 0 0).wall.step ≠ 0xFFFFFFFF ∧ (thWall 0xFFFFFFFF 0 0).wall.step = 0xFFFFFFFF
    ∧ (neighbour 5 0).bind (roomRec bodyA) = none ∧ (neighbour 5 3).bind (roomRec bodyA) = none
    ∧ (sReg (thWall 1 32760 8) 2).toNat = 8 ∧ (neighbour 5 2).bind (roomRec bodyA) = some (recA 6)
    ∧ (sReg (thWall 1 32760 8) 1).toNat + 8 = (c 1 32760 8).spadLen ∧ 32760 + 8 = (recA 6).spadLen * 16384
    ∧ (thWall 1 32760 8).held = [] ∧ getTh (s 1 32760 8) tidB = some thB ∧ tidB ≠ tidA
    ∧ (thWall 1 0 8).wall.step.toNat = wallC thB (opposite 2) + 1 ∧ (thWall 2 0 8).wall.step.toNat > wallC thB (opposite 2) + 1 :=
  ⟨fun _ _ _ _ => ⟨rfl, (by show 0 < 16; decide), rfl⟩, fun _ _ _ => mayIssue_idle _ rfl, by decide, by decide, by decide, by decide, by decide, by decide,
    by decide, by decide, by decide, rfl, rfl, by decide, by decide, by decide⟩

/-- WallAndHalos: HALO_WAIT for step 1 waits, for step 0 passes; the halo of a neighbour lands. -/
def thHalo : Thread := { thA 0 0 0 with inbound := [(2, { step := 1, dst := 32764, bytes := [1, 2, 3, 4] })] }

theorem wit_WallAndHalos_wait :
    issuesAt (roomsA (thA 1 0 0) []) tidA (insA 0 1 0 0) (rcA (thA 1 0 0) [])
    ∧ wallF (thA 1 0 0) 0 < ((sReg (thA 1 0 0) 1).setWidth 32 : Word).toNat
    ∧ ((sReg (thA 1 0 0) 0).setWidth 32 : Word).toNat ≤ wallF (thA 1 0 0) 0 ∧ neighbour tidA.room 0 = none
    ∧ 0 < (thA 1 0 0).wall.c.length
    ∧ alive (roomsA thHalo []) = true ∧ MemOk (roomsA thHalo []) = true ∧ getTh (roomsA thHalo []) tidA = some thHalo ∧ running thHalo
    ∧ thRec (roomsA thHalo []) tidA = some (recA 5) ∧ firstInbound thHalo.inbound 2 = some { step := 1, dst := 32764, bytes := [1, 2, 3, 4] }
    ∧ (∀ y ∈ (roomsA thHalo []).threads, y.stat = .running) ∧ 2 < thHalo.wall.f.length :=
  ⟨wit_issues .., by decide, by decide, by decide, by decide, by decide, by decide, rfl, rfl, rfl, rfl, by decide, by decide⟩

/-- WallAndHalos: the halo lands where the MMAs of a NEST read that still runs, and where they do not. -/
theorem wit_WallAndHalos_nest :
    let o : Out := { unit := 0, reads := [rSpad 0 32768], writes := [rTile 0 1], ends := .unit, nestR := [rSpad 32764 4], nestW := [rTile 0 1] }
    let h : Halo := { step := 1, dst := 32764, bytes := [1, 2, 3, 4] }
    let x := { thHalo with outs := [o] }
    alive (roomsA x []) = true ∧ MemOk (roomsA x []) = true ∧ getTh (roomsA x []) tidA = some x ∧ running x
    ∧ thRec (roomsA x []) tidA = some (recA 5) ∧ firstInbound x.inbound 2 = some h ∧ spoiledNests x h = [rTile 0 1]
    ∧ spoiledNests thHalo h = [] ∧ spoiledNests { thHalo with outs := [{ o with nestR := [rSpad 0 32764] }] } h = [] :=
  ⟨by decide, by decide, rfl, rfl, rfl, rfl, by decide, by decide, by decide⟩

/-- PantryFlags: the last word of the writable extent; a misaligned one; the read-only extent. -/
theorem wit_PantryFlags :
    issuesAt (roomsA (thA 2097144 0 0) []) tidA (insA 0 1 2 0) (rcA (thA 2097144 0 0) []) ∧ MemOk (roomsA (thA 2097144 0 0) []) = true
    ∧ (flagPa (roomsA (thA 2097144 0 0) []) keyA 2097144 true).isSome = true
    ∧ (flagPa (roomsA (thA 2097152 0 0) []) keyA 2097152 false).isSome = true
    ∧ flagPa (roomsA (thA 2097152 0 0) []) keyA 2097152 true = none ∧ flagPa (roomsA (thA 4 0 0) []) keyA 4 false = none
    ∧ ctxBusy (thA 2097144 0 0) true [(2097144, 8)] [(2097144, 8)] = false ∧ fencedOff (thA 2097144 0 0) = false :=
  ⟨wit_issues .., by decide, by decide, by decide, by decide, by decide, by decide, by decide⟩

def thFlag (v : DWord) (eq : Bool) : Thread := { thA 0 0 0 with stat := .waiting (.flag 0 v eq) }

theorem wit_PantryFlags_complete :
    let s := fun v eq => roomsA (thFlag v eq) []
    (∀ v eq, alive (s v eq) = true ∧ getTh (s v eq) tidA = some (thFlag v eq) ∧ roomHeld (s v eq) (thFlag v eq) = false)
    ∧ leNat (memRead (s 0 true).mem 0 8) = 0 ∧ ¬((1 : DWord).toNat ≤ leNat (memRead (s 1 false).mem 0 8)) :=
  ⟨fun _ _ => ⟨rfl, rfl, rfl⟩, by decide, by decide⟩

/-- PantryAtomics: an atomic of 32 bits at 4 and of 64 bits at 8, with and without a result; performed with and without one. -/
def thAtom (ret : Option Nat) : Thread :=
  { thA 4 8 0 with atoms := [{ pa := 8, va := 8, aop := 0, w32 := false, ret := ret, val := 1, cmp := 0 }],
                   stat := if ret.isSome then .waiting (.atom 4) else .running }

theorem wit_PantryAtomics :
    (∀ imm, issuesAt (roomsA (thA 4 8 0) []) tidA (insA 4 1 2 imm) (rcA (thA 4 8 0) []))
    ∧ (sReg (thA 4 8 0) 1).toNat % 4 = 0 ∧ (0x10 : Word).getLsbD 4 = true ∧ (sReg (thA 4 8 0) 2).toNat % 8 = 0
    ∧ planRangeOk (roomsA (thA 4 8 0) []) keyA 4 4 true = true ∧ planRangeOk (roomsA (thA 4 8 0) []) keyA 8 8 true = true
    ∧ ctxBusy (thA 4 8 0) false [(4, 4)] [(4, 4)] = false ∧ (paOf (roomsA (thA 4 8 0) []) 3 4).isSome = true
    ∧ (∀ unit reads writes, mayIssue (rcA (thA 4 8 0) []) unit reads writes)
    ∧ (∀ ret, alive (roomsA (thAtom ret) []) = true ∧ MemOk (roomsA (thAtom ret) []) = true
      ∧ getTh (roomsA (thAtom ret) []) tidA = some (thAtom ret)) ∧ running (thAtom none) :=
  ⟨wit_issues _ _ _ _ _ _ _, by decide, by decide, by decide, by decide, by decide, by decide, by decide, mayIssue_idle _ rfl,
    fun r => ⟨rfl, rfl, by cases r <;> rfl⟩, rfl⟩

/-- WingDma, PantryFlags and PantryAtomics: an atomic to 8 has still to come, and a write of the room stands before a FENCE WRITES. -/
theorem wit_ctxBusy_fencedOff :
    (∀ imm, issuesAt (roomsA (thAtom none) []) tidA (insA 4 2 1 imm) (rcA (thAtom none) [])) ∧ ctxBusy (thAtom none) true [(8, 8)] [] = true
    ∧ ctxBusy (thAtom none) true [] [(0, 64)] = true ∧ (flagPa (roomsA (thAtom none) []) keyA 8 true).isSome = true
    ∧ ctxBusy { thA 0 0 0 with predq := [{ desc := leBytes 0 16 ++ leBytes 0 8 ++ leBytes 8 8, leaf := 0, vals := [] }] } false [(8, 8)] [(8, 8)]
        = true
    ∧ fencedOff { thA 0 0 0 with outs := [{ unit := 6, reads := [], writes := [], ends := .atom, fenced := true }] } = true :=
  ⟨fun _ => ⟨rfl, (by show 0 < 16; decide), rfl⟩, by decide, by decide, by decide, by decide, by decide⟩

/-- PantryReductions: two leaves of 16 elements for address 0, the flag at 2,097,144; a window that does not hold the partial. -/
def predDesc : List Byte :=
  leBytes 0 4 ++ leBytes 2 4 ++ leBytes 16 4 ++ leBytes 0 4 ++ leBytes 0 8 ++ leBytes 2097144 8 ++ leBytes 1 8 ++ leBytes 0 24

def thPred (leaf : Nat) : Thread := { thA 0 0 0 with predq := [{ desc := predDesc, leaf := leaf, vals := List.replicate 16 0 }] }

/-- The instance with its first leaf there. -/
def predHalf (leaf : Nat) : State :=
  { roomsA (thPred leaf) [] with
    preds := [{ key := keyA, redId := 0, step := 0, desc := predDesc, leaves := [(0, List.replicate 16 0)] }] }

theorem wit_PantryReductions :
    let c := fun v => rcA (thA v 0 0) (descMem predDesc)
    (∀ v, issuesAt (roomsA (thA v 0 0) (descMem predDesc)) tidA (insA 0 1 2 0) (c v)) ∧ (c 0).desc 0 64 = predDesc
    ∧ predBad (c 32704) predDesc 32704 = none ∧ predBad (c 32705) predDesc 32705 = some 32705
    ∧ (∀ v unit reads writes, mayIssue (c v) unit reads writes)
    ∧ (∀ l, alive (predHalf l) = true ∧ getTh (predHalf l) tidA = some (thPred l) ∧ running (thPred l))
    ∧ (∀ l, (predHalf l).preds.find? (samePred keyA 0 0)
        = some { key := keyA, redId := 0, step := 0, desc := predDesc, leaves := [(0, List.replicate 16 0)] })
    ∧ predAgrees { key := keyA, redId := 0, step := 0, desc := predDesc, leaves := [(0, List.replicate 16 0)] }
        { desc := predDesc, leaf := 1, vals := List.replicate 16 0 } = true
    ∧ predAgrees { key := keyA, redId := 0, step := 0, desc := predDesc, leaves := [(0, List.replicate 16 0)] }
        { desc := predDesc, leaf := 0, vals := List.replicate 16 0 } = false
    ∧ [(0, List.replicate 16 (0 : Word)), (1, List.replicate 16 0)].length = fieldAt predDesc 4 0 9
    ∧ (∀ l, predWaits (predHalf l) keyA 0 0 predDesc = false) ∧ predWaits (roomsA (thPred 0) []) keyA 0 0 predDesc = true :=
  ⟨fun _ => wit_issues .., by decide, by decide, by decide, fun _ => mayIssue_idle _ rfl, fun _ => ⟨rfl, rfl, rfl⟩, fun _ => rfl, by decide,
    by decide, by decide, fun _ => rfl, by decide⟩

/-- A program with an MMA outstanding, and one with a pantry reduction. -/
def thBusy : Thread := { thA 0 0 0 with outs := [{ unit := 0, reads := [], writes := [rTile 0 1], ends := .unit }] }

/-- WaitsAndCompletions and StepAndProgramEnd: nothing outstanding; an MMA outstanding, which unit mask 1 and the full FENCE wait for and
mask 2 and the FENCE of writes do not. -/
theorem wit_WaitsAndEnds :
    issuesAt (roomsA (thA 0 0 0) []) tidA (insA 0 0 0 1) (rcA (thA 0 0 0) []) ∧ (rcA (thA 0 0 0) []).th.outs = []
    ∧ (∀ imm, issuesAt (roomsA thBusy []) tidA (insA 0 0 0 imm) (rcA thBusy [])) ∧ thBusy.outs ≠ []
    ∧ (∃ o ∈ thBusy.outs, ((1 : Word).toNat % 128).testBit o.unit = true) ∧ (∀ o ∈ thBusy.outs, ((2 : Word).toNat % 128).testBit o.unit = false)
    ∧ (0 : Word).getLsbD 0 = false ∧ (1 : Word).getLsbD 0 = true ∧ (∀ o ∈ thBusy.outs, leavingWrite o = false)
    ∧ porchQuiet (roomsA thBusy []) ∧ thBusy.restore = false
    ∧ alive (roomsA thBusy []) = true ∧ getTh (roomsA thBusy []) tidA = some thBusy ∧ running thBusy
    ∧ thBusy.outs.find? (unitEnds 0) = some { unit := 0, reads := [], writes := [rTile 0 1], ends := .unit } ∧ OutEnd.unit ≠ .late :=
  ⟨wit_issues .., rfl, fun _ => ⟨rfl, (by show 0 < 16; decide), rfl⟩, by decide, by decide, by decide, by decide, by decide, by decide,
    ⟨by decide, rfl⟩, rfl, rfl, rfl, rfl, rfl, by decide⟩

/-! ## Witnesses of the statements about the tick generator and the set-up registers -/

theorem serves (s : State) (h : barOpen s 0 = true) (h1 : s.dev.state = .inService) (h2 : s.dev.failstop = false) : registersServe s 0 :=
  ⟨h, h1, h2⟩

/-- The device with the tick generator in a state. -/
def tickIn (x : TickState) (ctl : Word) : State := { devA with tick := { devA.tick with state := x, ctl := ctl } }

/-- TickControl: SOURCE 3, UPSTREAM 18, a disable with a plan; STOPPED with INTERNAL and PIN; ACQUIRING to INTERNAL; RUNNING off. -/
theorem wit_TickControl :
    (∀ x c, registersServe (tickIn x c) 0) ∧ registersServe (roomsA thB []) 0
    ∧ wbits (7 : Word) 1 2 = 3 ∧ 17 < wbits (0x241 : Word) 5 5
    ∧ (wbit (0 : Word) 0 = false ∧ wbit (roomsA thB []).tick.ctl 0 = true ∧ anyPlan (roomsA thB []) = true)
    ∧ (∀ v ∈ [(1 : Word), 3, 0], ∀ x c, ¬(wbits v 1 2 = 3 ∨ wbits v 3 2 = 3 ∨ 17 < wbits v 5 5 ∨ 17 < wbits v 10 5 ∨
      (wbit v 0 = false ∧ wbit (tickIn x c).tick.ctl 0 = true ∧ anyPlan (tickIn x c) = true)))
    ∧ wbit (1 : Word) 0 = true ∧ (tickIn .stopped 0).tick.state = .stopped ∧ wbits (1 : Word) 1 2 = 0 ∧ wbits (3 : Word) 1 2 ≠ 0
    ∧ (tickIn .acquiring 3).tick.state = .acquiring ∧ wbit (0 : Word) 0 = false ∧ (tickIn .running 1).tick.state ≠ .stopped := by
  refine ⟨fun _ _ => ⟨rfl, rfl, rfl⟩, ⟨rfl, rfl, rfl⟩, by decide, by decide, by decide, fun v h x c => ?_, by decide, rfl, by decide, by decide,
    rfl, by decide, by decide⟩
  have p : anyPlan (tickIn x c) = false := rfl
  simp only [p, Bool.false_eq_true, and_false, or_false]
  simp only [List.mem_cons, List.not_mem_nil, or_false] at h
  rcases h with rfl | rfl | rfl <;> decide

/-- A stream of context 3 that is bound to ticks. -/
def boundState : State :=
  { devA with ctxs := [(3, { ctxA with streams := [{ sid := 0, params := leBytes (2 ^ 10) 128, engines := [0] }] })] }

/-- TickPeriodAndOffset: 9,999; 10,000,000 with a plan, with a bound stream, and with neither; the offset in and out of reach. -/
theorem wit_TickPeriodAndOffset :
    registersServe devA 0 ∧ wbits (9999 : Word) 0 24 < 10000 ∧ wbits (10000000 : Word) 0 24 ≤ 10000000
    ∧ wbits (10000000 : Word) 0 24 ≠ (periodReg devA.tick).toNat
    ∧ (registersServe (roomsA thB []) 0 ∧ (roomsA thB []).tick.state ≠ .stopped ∧ anyPlan (roomsA thB []) = true)
    ∧ (registersServe boundState 0 ∧ boundStream boundState = true) ∧ anyPlan devA = false ∧ boundStream devA = false
    ∧ ticking devA.tick = true ∧ ticking (tickIn .stopped 0).tick = false ∧ boundStream (tickIn .stopped 0) = false
    ∧ (registersServe (tickIn .acquiring 3) 0 ∧ offsetWritable (tickIn .acquiring 3).tick = true) ∧ offsetWritable devA.tick = false :=
  ⟨⟨rfl, rfl, rfl⟩, by decide, by decide, by decide, ⟨⟨rfl, rfl, rfl⟩, by decide, by decide⟩, ⟨⟨rfl, rfl, rfl⟩, by decide⟩, by decide,
    by decide, by decide, by decide, by decide, ⟨⟨rfl, rfl, rfl⟩, by decide⟩, by decide⟩

/-- A generator on its PIN source. -/
def pinState (x : TickState) (lock : Bool) (last : Nat) (miss : Nat) : State :=
  { devA with
    tick := { devA.tick with state := x, ctl := 3, inUse := .pin, lastB := 1600000, nextB := some 3200000
                             prim := { locked := lock, last := some last, count := 3, missing := miss } } }

theorem ctlSource_three (t : TickGen) (h : t.ctl = 3) : ctlSource t = .pin ∧ altSource t = none := by
  unfold ctlSource altSource; rw [h]; exact ⟨rfl, rfl⟩

/-- TickReferences: a fourth reference 10 ns early; one 200 ns from the boundary, one further off; a reference that is missing once
and twice; HOLDOVER. -/
theorem wit_TickReferences :
    (∀ x l n m, tickOn (pinState x l n m) = true ∧ ctlSource (pinState x l n m).tick = .pin ∧ altSource (pinState x l n m).tick = none
      ∧ (pinState x l n m).tick.prev = none ∧ (pinState x l n m).tick.onAlt = false)
    ∧ 1600000 + periodUnits (pinState .acquiring false 1600000 0).tick ≤ 3199984 + 16
    ∧ 3199984 ≤ 1600000 + periodUnits (pinState .acquiring false 1600000 0).tick + 16
    ∧ ((pinState .running true 1600000 0).tick.prim.locked = true ∧ (pinState .running true 1600000 0).tick.begun = true)
    ∧ refWindow < gap 1600000 3199680 ∧ gap 3200000 3199680 ≤ refWindow ∧ refWindow < gap 3200000 3199679
    ∧ 1000 + refWindow < (pinState .running true 1000 1).tick.lastB ∧ (pinState .running true 1000 1).tick.alt.locked = false :=
  ⟨fun _ _ _ _ => ⟨rfl, (ctlSource_three _ rfl).1, (ctlSource_three _ rfl).2, rfl, rfl⟩, by decide, by decide, ⟨rfl, rfl⟩, by decide, by decide, by decide, by decide, rfl⟩

/-- The device with port 2 UP. -/
def portUp : State := { devA with links := { devA.links with ports := devA.links.ports.set 2 { mode := .native, state := .up } } }

theorem crcBit_lt (c : Nat) (h : c < 2 ^ 32) : crcBit c < 2 ^ 32 := by
  unfold crcBit
  split
  · exact Nat.xor_lt_two_pow (by omega) (by decide)
  · omega

theorem crcByte_lt (c : Nat) (b : Byte) (h : c < 2 ^ 32) : crcByte c b < 2 ^ 32 := by
  have h0 : c ^^^ b.toNat < 2 ^ 32 := Nat.xor_lt_two_pow h (by have := b.isLt; omega)
  have go : ∀ n x, x < 2 ^ 32 → Nat.repeat crcBit n x < 2 ^ 32 := by
    intro n; induction n with
    | zero => intro x hx; exact hx
    | succ n ih => intro x hx; exact crcBit_lt _ (ih x hx)
  exact go 8 _ h0

theorem crc32_lt (bs : List Byte) : crc32 bs < 2 ^ 32 := by
  have go : ∀ (l : List Byte) c, c < 2 ^ 32 → l.foldl crcByte c < 2 ^ 32 := by
    intro l; induction l with
    | nil => intro c h; exact h
    | cons b l ih => intro c h; exact ih _ (crcByte_lt c b h)
  exact Nat.xor_lt_two_pow (go bs _ (by decide)) (by decide)

theorem leNat_leBytes (k n : Nat) (h : n < 256 ^ k) : leNat (leBytes n k) = n := by
  induction k generalizing n with
  | zero => simp only [Nat.pow_zero] at h; simp only [leBytes, leNat]; omega
  | succ k ih =>
    have : n / 256 < 256 ^ k := by rw [Nat.pow_succ] at h; omega
    simp only [leBytes, leNat, ih _ this, BitVec.toNat_ofNat]; omega

theorem leBytes_length (k n : Nat) : (leBytes n k).length = k := by
  induction k generalizing n with
  | zero => rfl
  | succ k ih => simp only [leBytes, List.length_cons, ih]

/-- The 252 bytes of a flit with their CRC. -/
def withCrc (x : List Byte) : List Byte := x ++ leBytes (crc32 x) 4

/-- A flit with its CRC is read: its header is that of its first bytes. -/
theorem parse_withCrc (x : List Byte) (h : x.length = 252) (k : bits (getLE x 0 8) 0 4 ≤ 4) :
    (parseFlit (withCrc x)).map (fun f => (f.kind, f.vc, f.ack, f.seq)) = some (bits (getLE x 0 8) 0 4, bits (getLE x 0 8) 4 3,
      BitVec.ofNat 16 (bits (getLE x 0 8) 40 16), BitVec.ofNat 16 (bits (getLE x 0 8) 24 16)) := by
  have l : (withCrc x).length = 256 := by simp [withCrc, leBytes_length, h]
  have t : (withCrc x).take 252 = x := by rw [withCrc, List.take_append_of_le_length (by omega), List.take_of_length_le (by omega)]
  have c : getLE (withCrc x) 252 4 = crc32 x := by
    have : slice (withCrc x) 252 4 = leBytes (crc32 x) 4 := by
      unfold slice withCrc
      rw [List.drop_append_of_le_length (by omega), List.drop_of_length_le (by omega), List.nil_append,
        List.take_of_length_le (Nat.le_of_eq (leBytes_length _ _))]
    rw [getLE, this]; exact leNat_leBytes 4 _ (by have := crc32_lt x; omega)
  have g : getLE (withCrc x) 0 8 = getLE x 0 8 := by
    unfold getLE slice withCrc
    rw [List.drop_zero, List.drop_zero, List.take_append_of_le_length (by omega)]
  simp [parseFlit, l, t, c, g, k]

/-- The same with its start-of-message bit. -/
theorem parse_withCrc_som (x : List Byte) (h : x.length = 252) (f : FlitIn)
    (e : parseFlit (withCrc x) = some f) : f.som = bitOf (getLE x 0 8) 7 := by
  have g : getLE (withCrc x) 0 8 = getLE x 0 8 := by
    unfold getLE slice withCrc
    rw [List.drop_zero, List.drop_zero, List.take_append_of_le_length (by omega)]
  unfold parseFlit at e
  simp only [g] at e
  split at e
  · exact (Option.some.inj e) ▸ rfl
  · cases e

/-- The same with the payload: the 244 bytes behind the header. -/
theorem parse_withCrc_payload (x : List Byte) (h : x.length = 252) (k : bits (getLE x 0 8) 0 4 ≤ 4) :
    ∃ f, parseFlit (withCrc x) = some f ∧ f.kind = bits (getLE x 0 8) 0 4 ∧ f.seq = BitVec.ofNat 16 (bits (getLE x 0 8) 24 16)
      ∧ f.payload = x.drop 8 := by
  have p := parse_withCrc x h k
  cases e : parseFlit (withCrc x) with
  | none => rw [e] at p; cases p
  | some f =>
    rw [e] at p
    simp only [Option.map_some, Option.some.injEq, Prod.mk.injEq] at p
    refine ⟨f, rfl, p.1, p.2.2.2, ?_⟩
    have s : slice (withCrc x) 8 244 = x.drop 8 := by
      unfold slice withCrc
      rw [List.drop_append_of_le_length (by omega), List.take_append_of_le_length (by rw [List.length_drop]; omega),
        List.take_of_length_le (by rw [List.length_drop]; omega)]
    rw [← s]
    unfold parseFlit at e
    simp only [] at e
    split at e
    · exact (Option.some.inj e) ▸ rfl
    · cases e

/-- A flit of a kind with no payload. -/
def flitOf (kind : Nat) : List Byte := withCrc (leBytes kind 8 ++ zeros 244)

theorem wit_TickReferences_flit :
    alive portUp = true ∧ (getPort portUp 2).state = .up ∧ 2 < portUp.links.ports.length ∧ rolesOf portUp.tick .porch 2 = []
    ∧ parseFlit [] = none := ⟨rfl, rfl, by decide, rfl, rfl⟩

/-- A TICK flit and a NOP flit are read. -/
theorem wit_TickReferences_kinds : (parseFlit (flitOf 3)).map (·.kind) = some 3 ∧ (parseFlit (flitOf 4)).map (·.kind) = some 4 := by
  have h3 := parse_withCrc (leBytes 3 8 ++ zeros 244) (by rw [List.length_append, leBytes_length, zeros, List.length_replicate]) (by decide)
  have h4 := parse_withCrc (leBytes 4 8 ++ zeros 244) (by rw [List.length_append, leBytes_length, zeros, List.length_replicate]) (by decide)
  unfold flitOf
  constructor
  · revert h3; cases parseFlit (withCrc (leBytes 3 8 ++ zeros 244)) with
    | none => intro h; exact absurd h (by decide)
    | some f => intro h; simp only [Option.map_some, Option.some.injEq, Prod.mk.injEq] at h ⊢; exact h.1
  · revert h4; cases parseFlit (withCrc (leBytes 4 8 ++ zeros 244)) with
    | none => intro h; exact absurd h (by decide)
    | some f => intro h; simp only [Option.map_some, Option.some.injEq, Prod.mk.injEq] at h ⊢; exact h.1

/-- LatchingReads and StatusFlagClears: the PF's registers in service and in recovery. -/
theorem wit_Registers :
    barOpen devA 0 = true ∧ barOpen { devA with dev := { state := .recovery } } 0 = true ∧ devA.dev.state ≠ .recovery
    ∧ wbit (0x200 : Word) 9 = true ∧ wbit (0 : Word) 9 = false ∧ (getFn devA 0).present = true ∧ (getFn devA 33).present = false
    ∧ ((2 : Nat) ≠ 4 ∨ 2 % 4 ≠ 0) ∧ ((2 : Nat) ≠ 8 ∨ 2 % 8 ≠ 0) :=
  ⟨rfl, rfl, by decide, by decide, by decide, by decide, by decide, by decide, by decide⟩

/-- PowerCapAndWriteSizes: C of 1,490 W and 7,010 W, X below C and above 8,500 W, the legal ends; sizes 4 at 2 and 8 at 4; CR_CFG with its
context CLOSED, and OPEN. -/
def ctxZero : State := { devA with ctxs := [(0, { ctxA with func := 0 })] }

theorem wit_PowerCapAndWriteSizes :
    registersServe devA 0 ∧ wbits (149 + 850 * 2 ^ 16 : Word) 0 10 < 150 ∧ 700 < wbits (701 : Word) 0 10
    ∧ wbits (700 + 699 * 2 ^ 16 : Word) 16 10 < wbits (700 + 699 * 2 ^ 16 : Word) 0 10 ∧ 850 < wbits (851 * 2 ^ 16 : Word) 16 10
    ∧ (150 ≤ wbits (150 + 150 * 2 ^ 16 : Word) 0 10 ∧ wbits (150 + 150 * 2 ^ 16 : Word) 16 10 ≤ 850)
    ∧ (((4 : Nat) ≠ 4 ∨ 2 % 4 ≠ 0) ∧ ((4 : Nat) ≠ 8 ∨ 2 % 8 ≠ 0)) ∧ (((8 : Nat) ≠ 4 ∨ 4 % 4 ≠ 0) ∧ ((8 : Nat) ≠ 8 ∨ 4 % 8 ≠ 0))
    ∧ controlClosed devA 0 = true ∧ registersServe ctxZero 0 ∧ controlClosed ctxZero 0 = false :=
  ⟨⟨rfl, rfl, rfl⟩, by decide, by decide, by decide, by decide, by decide, by decide, by decide, rfl, ⟨rfl, rfl, rfl⟩, rfl⟩

/-- The PF page changed. -/
def pageA (g : FnPage → FnPage) : State := { devA with fns := [(0, g { present := true })] }

/-- RingEnables: the smallest and largest rings, one too small, a change under ENABLE. -/
theorem wit_RingEnables :
    let on := pageA (fun p => { p with frCfg := 0x80000006, lrCfg := 0x80000004, frBase := 64, lrBase := 64 })
    let off := pageA (fun p => { p with frBase := 64, lrBase := 64 })
    registersServe on 0 ∧ registersServe off 0
    ∧ (wbit (getFn on 0).frCfg 31 = true ∧ wbits (6 : Word) 0 10 = wbits (getFn on 0).frCfg 0 10 ∧ wbits (7 : Word) 0 10 ≠ wbits (getFn on 0).frCfg 0 10)
    ∧ (wbit (getFn on 0).lrCfg 31 = true ∧ wbits (4 : Word) 0 9 = wbits (getFn on 0).lrCfg 0 9 ∧ wbits (5 : Word) 0 9 ≠ wbits (getFn on 0).lrCfg 0 9)
    ∧ (wbit (getFn off 0).frCfg 31 = false ∧ wbit (0x80000010 : Word) 31 = true ∧ 6 ≤ wbits (0x80000010 : Word) 0 5
        ∧ wbits (0x80000010 : Word) 0 5 ≤ 16 ∧ (getFn off 0).frBase ≠ 0 ∧ ¬6 ≤ wbits (0x80000005 : Word) 0 5)
    ∧ (wbit (getFn off 0).lrCfg 31 = false ∧ wbit (0x8000000C : Word) 31 = true ∧ 4 ≤ wbits (0x8000000C : Word) 0 4
        ∧ wbits (0x8000000C : Word) 0 4 ≤ 12 ∧ (getFn off 0).lrBase ≠ 0 ∧ ¬4 ≤ wbits (0x80000003 : Word) 0 4) :=
  ⟨⟨rfl, rfl, rfl⟩, ⟨rfl, rfl, rfl⟩, by decide, by decide, by decide, by decide⟩

/-- InterruptVectors: vector 31 with a message pending, with its delay running, and with events of the tick. -/
theorem wit_InterruptVectors :
    let s := fun (m : Word) (v : Vec) => pageA (fun p => { p with vecs := [(31, { v with modr := m })] })
    (∀ m v, registersServe (s m v) 0) ∧ 31 < 32
    ∧ (wbits (0x00010011 : Word) 0 2 ≠ 3 ∧ wbits (0x00010011 : Word) 4 8 ≠ 0 ∧ wbits (0x00010011 : Word) 16 12 ≠ 0
        ∧ modMask 0x00010011 ≠ (getVec (getFn (s 0x00010010 {}) 0) 31).modr)
    ∧ wbits (0x00010013 : Word) 0 2 = 3 ∧ wbits (0x00010001 : Word) 4 8 = 0 ∧ wbits (0x10 : Word) 16 12 = 0
    ∧ ((getFn (s 0x00010010 { pending := true }) 0).fnMask = false ∧ (getVec (getFn (s 0x00010010 { pending := true }) 0) 31).pending = true)
    ∧ (getVec (getFn (s 0x00010010 {}) 0) 31).pending = false
    ∧ (wbits (getVec (getFn (s 0x00010011 { delayOn := true, count := 2 }) 0) 31).modr 0 2 = 1
        ∧ (getVec (getFn (s 0x00010011 { delayOn := true, count := 2 }) 0) 31).delayOn = true)
    ∧ ((s 0x00010012 { before := 1, count := 1 }).fns.map Prod.fst).Nodup
    ∧ ((getFn (s 0x00010012 { before := 1, count := 1 }) 0).vecs.map Prod.fst).Nodup
    ∧ wbits (getVec (getFn (s 0x00010012 { before := 1, count := 1 }) 0) 31).modr 0 2 = 2
    ∧ 0 < (getVec (getFn (s 0x00010012 { before := 1, count := 1 }) 0) 31).before :=
  ⟨fun _ _ => ⟨rfl, rfl, rfl⟩, by decide, by decide, by decide, by decide, by decide, by decide, by decide, by decide, by decide, by decide,
    by decide, by decide⟩

/-- ContextAssignment: contexts 0, 3 and 16,383, a name that is taken, an index behind the VFs; a quota at the device's extents and one
more, one below what is held. -/
def assignA : State :=
  { devA with ctxs := [(3, ctxA), (5, { func := 1, loc := 2 }), (6, { func := 1, loc := 3, quota := 2 })] }

theorem wit_ContextAssignment :
    registersServe assignA 0 ∧ ¬((getCtx assignA 5).func.toNat = wbits (1 + 3 * 2 ^ 16 : Word) 0 7 ∧ (getCtx assignA 5).loc.toNat = 3)
    ∧ (getCtx assignA 3).state ≠ .closed ∧ (64 ≤ wbits (64 : Word) 0 7 ∧ wbits (64 : Word) 0 7 ≤ 126)
    ∧ (∃ p ∈ assignA.ctxs, p.1 ≠ 5 ∧ p.2.func.toNat = 1 ∧ p.2.loc.toNat = 3) ∧ wbits (127 : Word) 0 7 = 127
    ∧ (getCtx assignA 16383).state = .closed ∧ ¬(∃ p ∈ assignA.ctxs, p.1 ≠ 16383 ∧ 0 < 1 ∧ p.2.func.toNat = 1 ∧ p.2.loc.toNat = 1023)
    ∧ ¬((getCtx assignA 5).pasid.toNat = 0 ∧ (getCtx assignA 5).pasidEn = true) ∧ (getCtx assignA 5).state = .closed
    ∧ 522240 < quotaTotal assignA - (getCtx assignA 5).quota.toNat + 522239 ∧ quotaTotal assignA - (getCtx assignA 5).quota.toNat + 522238 ≤ 522240
    ∧ (heldExtents assignA 5).length ≤ 522238 ∧ 1 < (heldExtents assignA 3).length :=
  ⟨⟨rfl, rfl, rfl⟩, by decide, by decide, by decide, by decide, by decide, by decide, by decide, by decide, by decide, by decide, by decide,
    by decide, by decide⟩

/-- ControlContexts: the smallest rings, a base missing, a context with a plan, one in ERROR. -/
def crA (x : Ctx) : State :=
  { devA with fns := [(0, { present := true, crSqBase := 0x10000, crCqBase := 0x20000, crCfg := 0xC6 })], ctxs := [(0, { x with func := 0 })] }

theorem wit_ControlContexts :
    (∀ x, crAllowed (crA x) 0 = true ∧ ctxOf (crA x) 0 0 = some 0) ∧ manyBits 1 = false ∧ manyBits 2 = false ∧ manyBits 4 = false
    ∧ (wbit (1 : Word) 0 = true ∧ (getCtx (crA {}) 0).state = .closed ∧ crCfgOk (getFn (crA {}) 0).crCfg = true
        ∧ (getFn (crA {}) 0).crSqBase ≠ 0 ∧ (getFn (crA {}) 0).crCqBase ≠ 0) ∧ (getCtx (crA ctxA) 0).state ≠ .closed
    ∧ (wbit (2 : Word) 1 = true ∧ (getCtx (crA ctxA) 0).state = .opened ∧ holdsPlan (crA ctxA) 0 = false ∧ (getCtx (crA ctxA) 0).streams = []
        ∧ othersClosed (crA ctxA) 0 0 = true ∧ (getCtx (crA ctxA) 0).opens = [] ∧ (getCtx (crA ctxA) 0).fetched = none ∧ (getCtx (crA ctxA) 0).holds = []
        ∧ (∀ q ∈ (crA ctxA).plans, q.key.ctx ≠ 0)) ∧ (getCtx (crA {}) 0).state ≠ .opened
    ∧ (wbit (4 : Word) 2 = true ∧ (getCtx (crA { ctxA with state := .error }) 0).state = .error) ∧ (getCtx (crA {}) 0).state ≠ .error :=
  ⟨fun _ => ⟨rfl, rfl⟩, by decide, by decide, by decide, by decide, by decide, by decide, by decide, by decide, by decide⟩

theorem idle_of (s : State) (h : s.ctxs.all (fun p => p.2.state != .closing && p.2.opens.all (fun o => noCloseWait o.wait)
    && p.2.streams.all (fun t => t.closing == none)) = true) : idle s := by
  intro p hp
  have := List.all_eq_true.mp h p hp
  simp only [Bool.and_eq_true, bne_iff_ne, ne_eq, List.all_eq_true, beq_iff_eq] at this
  exact ⟨this.1.1, this.1.2, this.2⟩

theorem wit_ControlContexts_idle : idle (crA ctxA) ∧ idle (crA { ctxA with state := .error }) := ⟨idle_of _ rfl, idle_of _ rfl⟩

/-! ## Witnesses of the statements about rings and descriptors -/

/-- The checks of `accepts` as one truth value. -/
def acceptsB (s : State) (d : Desc) (t o : Nat) : Bool :=
  let x := getCtx s d.ctx
  inService s && x.state == .opened && x.sqHead != x.sqTail && x.fetched == none && !ringsPaused s && fenceOk x d
  && !(getFn s ((ctxFn s d.ctx).getD 0)).d3hot && descTag s == some t && x.opens.all (fun q => q.tag != t)
  && cqFree s d.ctx && x.holds.isEmpty && s.ctxs.all (fun p => p.2.state != .closing && p.2.opens.all (fun o => noCloseWait o.wait)
    && p.2.streams.all (fun t => t.closing == none)) && (descRefusal (fetched s d t) d o false == none)

theorem fetches_of (s : State) (d : Desc) (t o : Nat) (h : acceptsB s d t o = true) : fetches s d t ∧ entryFree s d.ctx ∧ idle s := by
  simp only [acceptsB, Bool.and_eq_true, beq_iff_eq, bne_iff_ne, ne_eq, Bool.not_eq_true', List.all_eq_true, List.isEmpty_iff] at h
  obtain ⟨⟨⟨⟨⟨⟨⟨⟨⟨⟨⟨⟨h1, h2⟩, h3⟩, h0⟩, h4⟩, h5⟩, h6⟩, h7⟩, h8⟩, h9⟩, h10⟩, h11⟩, -⟩ := h
  refine ⟨⟨h1, h2, h3, h0, h4, h5, h6, h7, h8⟩, ⟨h9, h10⟩, fun p hp => ?_⟩
  have := h11 p hp
  exact ⟨this.1.1, this.1.2, this.2⟩

theorem accepts_of (s : State) (d : Desc) (t o : Nat) (h : acceptsB s d t o = true) : accepts s d t o := by
  obtain ⟨a, b, c⟩ := fetches_of s d t o h
  refine ⟨a, b, c, ?_⟩
  simp only [acceptsB, Bool.and_eq_true, beq_iff_eq] at h
  exact h.2

/-- Contexts 0 and 3, with one descriptor published in each; function 0 has a Mehrong ring of 16 slots. -/
def ringsA (x : Ctx) : State :=
  { devA with
    fns := [(0, { present := true, lrCfg := 0x80000004, lrBase := 64 })]
    ctxs := [(0, { ctxA with sqTail := 1, addr := {} }), (3, { x with sqTail := 1 })] }

/-- A descriptor of context `c` with plan_id `p`. -/
def desc (c : Nat) (p : BitVec 16) (w10 w18 w20 w28 w30 w38 : DWord) : Desc :=
  { descA with ctx := c, planId := p, w10 := w10, w18 := w18, w20 := w20, w28 := w28, w30 := w30, w38 := w38 }

/-- Doorbells: sizes 4 and 8; an offset of line 3 without a field; line 3 with its last tail, a tail outside, a head outside; a CLOSED context; the control line of function 0
and another one; the last head of the Mehrong ring and one outside. -/
theorem wit_Doorbells :
    registersServe (ringsA ctxA) 0 ∧ ¬((2 : Nat) = 4 ∨ ((2 : Nat) = 8 ∧ dbits 0 32 32 = 0)) ∧ ctxOf (ringsA ctxA) 0 5 = none
    ∧ ((64 * 3 + 4) % 64 ≠ 0 ∧ (64 * 3 + 4) % 64 ≠ 0x08 ∧ (64 * 3 + 4) % 64 ≠ 0x0C)
    ∧ (ctxOf (ringsA ctxA) 0 3 = some 3 ∧ bitOf (0x103F : DWord).toNat 12 = true ∧ (getCtx (ringsA ctxA) 3).state = .opened
      ∧ dbits 0x103F 0 12 < sqSize (getCtx (ringsA ctxA) 3) ∧ bitOf (0x103F : DWord).toNat 15 = false)
    ∧ (sqSize (getCtx (ringsA ctxA) 3) ≤ dbits 0x1040 0 12 ∧ bitOf (0x1040 : DWord).toNat 12 = true)
    ∧ (bitOf (0x408000 : DWord).toNat 15 = true ∧ cqSize (getCtx (ringsA ctxA) 3) ≤ dbits 0x408000 16 16)
    ∧ (bitOf (0x3F8000 : DWord).toNat 15 = true ∧ dbits 0x3F8000 16 16 < cqSize (getCtx (ringsA ctxA) 3))
    ∧ (ctxOf (ringsA {}) 0 3 = none) ∧ (ctxOf (ringsA { func := 0 }) 0 3 = some 3 ∧ (getCtx (ringsA { func := 0 }) 3).state = .closed)
    ∧ controlLine (ringsA ctxA) 0 0 = true ∧ controlLine (ringsA ctxA) 0 3 = false
    ∧ dbits 15 0 12 < 2 ^ wbits (getFn (ringsA ctxA) 0).lrCfg 0 4 ∧ 2 ^ wbits (getFn (ringsA ctxA) 0).lrCfg 0 4 ≤ dbits 16 0 12
    ∧ dbits 0 0 16 < 2 ^ wbits (getFn (ringsA ctxA) 0).frCfg 0 5 ∧ 2 ^ wbits (getFn (ringsA ctxA) 0).frCfg 0 5 ≤ dbits 1 0 16 :=
  ⟨⟨rfl, rfl, rfl⟩, by decide, by decide, by decide, by decide, by decide, by decide, by decide, by decide, by decide, by decide, by decide,
    by decide, by decide, by decide, by decide⟩

/-- DescriptorChecks: NOP with plan_id 0 and nonzero, a nonzero body, an unlisted opcode; an opcode of control contexts from context 3,
reserved header bits. -/
theorem wit_DescriptorChecks :
    (∀ d ∈ [desc 3 0 0 0 0 0 0 0, desc 3 1 0 0 0 0 0 0, desc 3 0 0 0 0 0 0 1, { desc 3 0 0 0 0 0 0 0 with rsvA := 1 }],
      fetches (ringsA ctxA) d 0 ∧ entryFree (ringsA ctxA) d.ctx ∧ idle (ringsA ctxA)) ∧ opcodeListed (0x06 : Byte).toNat = false
    ∧ opcodePermitted (ringsA ctxA) 0x08 3 = false ∧ opcodePermitted (ringsA ctxA) 0x00 3 = true
    ∧ ({ desc 3 0 0 0 0 0 0 0 with rsvA := 1 } : Desc).rsvA ≠ 0 := by
  refine ⟨?_, by decide, by decide, by decide, by decide⟩
  intro d h
  simp only [List.mem_cons, List.not_mem_nil, or_false] at h
  have a := fetches_of (ringsA ctxA) (desc 3 0 0 0 0 0 0 0) 0 0 (by decide)
  rcases h with rfl | rfl | rfl | rfl <;> exact a

/-- A descriptor with a fence, and context 3 as it holds that descriptor back, or with the tag it was fetched with. -/
def fencedD : Desc := { desc 3 0 0 0 0 0 0 0 with fence := true }

def fencedA (open_ : Bool) (k : Option Nat) : State :=
  ringsA { ctxA with fetched := k, opens := if open_ then [{ tag := 4, userId := 1, noIrq := true, opcode := 3, planId := 0, wait := .move }] else [] }

theorem wit_DescriptorChecks_fence :
    (∀ o k, alive (fencedA o k) = true ∧ ringsPaused (fencedA o k) = false ∧ (getFn (fencedA o k) ((ctxFn (fencedA o k) 3).getD 0)).d3hot = false
      ∧ (getCtx (fencedA o k) 3).state = .opened ∧ (getCtx (fencedA o k) 3).fetched = k ∧ (getCtx (fencedA o k) 3).sqHead ≠ (getCtx (fencedA o k) 3).sqTail)
    ∧ fenceOk (getCtx (fencedA true none) 3) fencedD = false ∧ (descTag (fencedA true none)).isSome = true
    ∧ fenceOk (getCtx (fencedA true (some 2)) 3) fencedD = false ∧ fenceOk (getCtx (fencedA false (some 2)) 3) fencedD = true
    ∧ entryFree (fencedA false (some 2)) 3 ∧ idle (fencedA false (some 2)) ∧ inService (fencedA false (some 2)) = true :=
  ⟨fun _ _ => ⟨rfl, rfl, rfl, rfl, rfl, (by show (0 : Nat) ≠ 1; decide)⟩, by decide, by decide, by decide, by decide, ⟨by decide, rfl⟩, idle_of _ rfl, rfl⟩

/-- An entry of tag 1, and a record. -/
def entryA : CEntry :=
  { userId := 1, tag := 1, kind := 0, code := 0, cause := 0, aux := 0, hold := false, slid := false, recomp := false, notRep := false,
    tickA := 0, planId := 0, tickB := 0, opcode := 0, noIrq := true }

def recordA : FaultRec :=
  { code := 0x0100, sev := 2, ctx := some 3, planId := 9, tick := 0, sysTick := 0, step := 0, action := 0, room := 5, slot := 0, d0 := 0, d1 := 0,
    seq := 1, rep := 1, needPf := true, needVf := none }

def ledgerA : LedgerRec := { ctx := 3, plan := 9, seq := 1, bytes := zeros 4081 }

/-- The device with an entry that waits in context 3, a fault ring of 64 slots whose vector is moderated per tick, a record that waits for it,
and a Mehrong record of two slots with `used` of the 16 slots taken. -/
def ringsB (used : Nat) : State :=
  { devA with
    fns := [(0, { present := true, frCfg := 0x80000006, frBase := 64, vecs := [(0, { modr := 0x10012 })], lrCfg := 0x80000004, lrBase := 64,
                  lr := { used := used }, ledger := [ledgerA] })]
    ctxs := [(3, { ctxA with holds := [entryA], sqTail := 1, timer := true })], flog := { waiting := [recordA] } }

theorem wit_EntriesAndRecords :
    (∀ n, alive (ringsB n) = true ∧ ringsPaused (ringsB n) = false ∧ cqFree (ringsB n) 3 = true ∧ (getCtx (ringsB n) 3).holds = entryA :: []
      ∧ wbit (getFn (ringsB n) 0).frCfg 31 = true ∧ (ringsB n).flog.waiting.find? (needsRing 0) = some recordA
      ∧ (getFn (ringsB n) 0).ledger = ledgerA :: []) ∧ entryA.tag ≠ noTag ∧ idle (ringsB 14)
    ∧ cqFree devA 3 = false ∧ (getFn (ringsB 14) 0).fr.used < 2 ^ wbits (getFn (ringsB 14) 0).frCfg 0 5
    ∧ wbits (getVec (getFn (ringsB 14) 0) (wbits (getFn (ringsB 14) 0).frCfg 5 5)).modr 0 2 = 2 ∧ wbit (getFn (ringsB 14) 0).lrCfg 31 = true
    ∧ cdiv 4081 4080 = 2 ∧ (getFn (ringsB 14) 0).lr.used + 2 ≤ 2 ^ wbits (getFn (ringsB 14) 0).lrCfg 0 4
    ∧ 2 ^ wbits (getFn (ringsB 15) 0).lrCfg 0 4 < (getFn (ringsB 15) 0).lr.used + 2
    ∧ (getCtx (ringsB 14) 3).state = .opened ∧ (getCtx (ringsB 14) 3).sqHead ≠ (getCtx (ringsB 14) 3).sqTail ∧ (descTag (ringsB 14)).isSome = true
    ∧ (getCtx (ringsB 14) 3).timer = true ∧ (getCtx (ringsA ctxA) 3).timer = false
    ∧ (entryA.kind ≠ 3 ∧ waitingJobs (ringsB 14) { ctx := 3, id := 9 } none = [])
    ∧ (entryWaits (ringsB 14) ledgerA = false
      ∧ entryWaits { ringsB 14 with ctxs := [(3, { ctxA with holds := [{ entryA with kind := 2, planId := 9 }] })] } ledgerA = true) :=
  ⟨fun _ => ⟨rfl, rfl, rfl, rfl, (by show wbit (0x80000006 : Word) 31 = true; decide), rfl, rfl⟩, by decide, idle_of _ rfl, by decide, by decide, by decide, by decide, by decide, by decide, by decide,
    by decide, by decide, by decide, by decide, by decide, by decide, by decide⟩

/-- HostFailures: an OPEN context with a MOVE waiting, enabled rings, a function with an IDE stream and an invalidation that waits for the MOVE;
a context with no open descriptor. -/
def openMove : OpenDesc := { tag := 4, userId := 1, noIrq := true, opcode := 3, planId := 0, wait := .move }

def failA : State :=
  { devA with
    fns := [(0, { present := true, frCfg := 0x80000006, lrCfg := 0x80000004, ide := 1, atsWait := [[(3, 4)]] }), (1, { present := true })]
    ctxs := [(3, { ctxA with opens := [openMove] })] }

theorem wit_HostFailures :
    alive failA = true ∧ failA.attic.imageOps = [] ∧ failA.attic.updates = [] ∧ (getCtx failA 3).state = .opened
    ∧ wbit (getFn failA 0).frCfg 31 = true ∧ wbit (getFn failA 0).lrCfg 31 = true
    ∧ ((getCtx failA 3).opens.filter hasHostData)[0]? = some openMove ∧ entryFree failA 3 ∧ ringsPaused failA = false ∧ idle failA
    ∧ (getFn failA 1).present = true ∧ usesXlat failA 1 none = [] ∧ usesXlat failA 0 none ≠ []
    ∧ (getFn failA 0).atsWait = [[(3, openMove.tag)]]
    ∧ ((getCtx (ringsA ctxA) 3).opens.filter hasHostData)[0]? = none ∧ (getCtx (ringsA ctxA) 3).state = .opened
    ∧ 0 < (getFn failA 0).ide ∧ ideStreams failA < 4 :=
  ⟨rfl, rfl, rfl, rfl, by decide, by decide, by decide, ⟨rfl, rfl⟩, rfl, idle_of _ rfl, rfl, by decide, by decide, rfl, rfl, rfl, by decide, by decide⟩

/-- FunctionResets: a VF, with and without a plan; 63 VFs and 64. -/
theorem wit_FunctionResets :
    alive failA = true ∧ failA.dev.state = .inService ∧ (1 : Nat) ≠ 0 ∧ (getFn failA 1).present = true ∧ idle failA ∧ anyPlan failA = false
    ∧ (alive (roomsA thB []) = true ∧ (roomsA thB []).dev.state = .inService ∧ (getFn (roomsA thB []) 0).present = true
      ∧ anyPlan (roomsA thB []) = true) ∧ failA.dev.numVfs = 0 := ⟨rfl, rfl, by decide, rfl, idle_of _ rfl, rfl, ⟨rfl, rfl, rfl, rfl⟩, rfl⟩

/-! ## Witnesses of the statements about descriptors -/

/-- TickWaitAndContexts: TICK_WAIT for tick 7, whose release point has passed, and for tick 8; CTX_OPEN from context 0 of context 5, which
is CLOSED, of context 3, which is OPEN, of ring size 5, and of a context of no function; CTX_CLOSE of 3, with and without a plan. -/
def openD (c log : DWord) : Desc := desc 0 0 (c + log * 2 ^ 32 + 6 * 2 ^ 36) 0x10000 0x20000 0 0 0

def ctxsA (plans : List Plan) : State :=
  { ringsA ctxA with plans := plans, ctxs := (ringsA ctxA).ctxs ++ [(5, { func := 0 })] }

theorem wit_TickWaitAndContexts :
    accepts (ctxsA []) (desc 3 0 7 0 0 0 0 0) 0 0x05 ∧ releasePassed (ctxsA []) (waitTick (ctxsA []) (desc 3 0 7 0 0 0 0 0)) = true
    ∧ accepts (ctxsA []) (desc 3 0 8 0 0 0 0 0) 0 0x05 ∧ releasePassed (ctxsA []) (waitTick (ctxsA []) (desc 3 0 8 0 0 0 0 0)) = false
    ∧ (accepts (ctxsA []) (openD 5 6) 0 0x08 ∧ ctxOpenBad (openD 5 6) = false ∧ targetCtx (fetched (ctxsA []) (openD 5 6) 0) (openD 5 6) = some 5
      ∧ (getCtx (ctxsA []) 5).state = .closed ∧ dbits (openD 5 6).w10 14 18 = 0 ∧ dbits (openD 5 6).w10 46 18 = 0)
    ∧ (accepts (ctxsA []) (openD 3 6) 0 0x08 ∧ targetCtx (fetched (ctxsA []) (openD 3 6) 0) (openD 3 6) = some 3 ∧ (getCtx (ctxsA []) 3).state ≠ .closed)
    ∧ (accepts (ctxsA []) (openD 5 5) 0 0x08 ∧ ctxOpenBad (openD 5 5) = true)
    ∧ (accepts (ctxsA []) (openD 9 6) 0 0x08 ∧ targetCtx (fetched (ctxsA []) (openD 9 6) 0) (openD 9 6) = none)
    ∧ (accepts (ctxsA []) (desc 0 0 3 0 0 0 0 0) 0 0x09 ∧ targetCtx (fetched (ctxsA []) (desc 0 0 3 0 0 0 0 0) 0) (desc 0 0 3 0 0 0 0 0) = some 3
      ∧ (∀ p ∈ (ctxsA []).plans, p.key.ctx ≠ 3) ∧ (getCtx (ctxsA []) 3).opens = [] ∧ (getCtx (ctxsA []) 3).fetched = none ∧ (getCtx (ctxsA []) 3).holds = [] ∧ (getCtx (ctxsA []) 3).streams = [])
    ∧ (accepts (ctxsA [planA]) (desc 0 0 3 0 0 0 0 0) 0 0x09 ∧ (∀ p ∈ (ctxsA [planA]).plans, p.phase = .admitted) ∧ holdsPlan (ctxsA [planA]) 3 = true
      ∧ bitOf (3 : DWord).toNat 14 = false)
    ∧ targetCtx (fetched (ctxsA []) (desc 0 0 9 0 0 0 0 0) 0) (desc 0 0 9 0 0 0 0 0) = none ∧ dbits (0x4000 : DWord) 0 14 = 0
    ∧ (∀ d ∈ [openD 5 6, openD 3 6, desc 0 0 3 0 0 0 0 0], vfRange (ctxsA []) d = false)
    ∧ vfRange { devA with ctxs := [(7, { ctxA with func := 1 })] } (desc 7 0 1024 0 0 0 0 0) = true :=
  ⟨accepts_of _ _ _ _ (by decide), by decide, accepts_of _ _ _ _ (by decide), by decide,
    ⟨accepts_of _ _ _ _ (by decide), by decide, by decide, by decide, by decide, by decide⟩,
    ⟨accepts_of _ _ _ _ (by decide), by decide, by decide⟩, ⟨accepts_of _ _ _ _ (by decide), by decide⟩,
    ⟨accepts_of _ _ _ _ (by decide), by decide⟩, ⟨accepts_of _ _ _ _ (by decide), by decide, by decide, by decide, by decide, by decide⟩,
    ⟨accepts_of _ _ _ _ (by decide), by decide, by decide, by decide⟩, by decide, by decide, by decide, by decide⟩

/-- A plan binary by hand (R470): a header, five directory entries, and the parts 1 to 5 at 128, 192, 320, 384 and 448: one step
without demands, one output, one image of one PROG_END, one room. -/
def dirEnt (kind off len : Nat) : List Byte := leBytes kind 4 ++ leBytes off 4 ++ leBytes len 4 ++ zeros 4

def planBin : List Byte :=
  leBytes 0x07409AB1 4 ++ leBytes 1 4 ++ leBytes 5 8 ++ dirEnt 1 128 64 ++ dirEnt 2 192 88 ++ dirEnt 3 320 16 ++ dirEnt 4 384 8 ++ dirEnt 5 448 88
  ++ zeros 32
  ++ (leBytes 1 4 ++ leBytes 1 4 ++ leBytes 100000 4 ++ zeros 12 ++ leBytes 0x28 4 ++ leBytes 1 4 ++ leBytes 0x38 4 ++ zeros 4
      ++ leBytes 0x40 4 ++ zeros 12 ++ zeros 4 ++ leBytes 4 4)
  ++ (leBytes 1 4 ++ leBytes 1 4 ++ leBytes 0x18 4 ++ leBytes 1 4 ++ leBytes 0x20 4 ++ zeros 4 ++ leBytes 0x30 4 ++ leBytes 0x28 4
      ++ leBytes 5 4 ++ leBytes (2 ^ 6 + 2 ^ 26) 4 ++ zeros 8
      ++ leBytes 0x0740AC01 4 ++ leBytes 1 2 ++ leBytes 1 2 ++ leBytes 1 2 ++ zeros 22 ++ leBytes 2 8)
  ++ zeros 40 ++ (leBytes 1 4 ++ leBytes 1 4 ++ zeros 8) ++ zeros 48 ++ (leBytes 1 4 ++ zeros 4) ++ zeros 56 ++ leBytes 1 88 ++ zeros 40

/-- The PLAN descriptor of that binary at context address 0. -/
def planDesc : Desc := desc 3 9 0 576 0 0 0 0

/-- The device with the binary in memory; the bundle's numeric epoch is 1, and a block of ledger values is reserved. -/
def planMem : State :=
  let s := ringsA { ctxA with opens := [{ tag := 4, userId := 1, noIrq := true, opcode := 1, planId := 9, wait := .admission }] }
  { s with
    mem := writeVaMem s 3 0 [] planBin, dev := { s.dev with bundle := some {} }, attic := { s.attic with led0 := some { blockEnd := 65536 } } }

/-- PlanDescriptors: the binary's own checks pass; a length of 0; PLAN_WITHDRAW of a plan that is over, that is admitted, that waits. -/
theorem wit_PlanDescriptors :
    accepts planMem planDesc 0 0x01 ∧ planRefusal (fetched planMem planDesc 0) planDesc = 0
    ∧ accepts planMem (desc 3 9 0 0 0 0 0 0) 0 0x01 ∧ planRefusal (fetched planMem (desc 3 9 0 0 0 0 0 0) 0) (desc 3 9 0 0 0 0 0 0) ≠ 0
    ∧ (accepts (ctxsA []) (desc 3 9 0 0 0 0 0 0) 0 0x02 ∧ getPlan (ctxsA []) keyA = none ∧ planOver (fetched (ctxsA []) (desc 3 9 0 0 0 0 0 0) 0) keyA = true)
    ∧ (accepts (ctxsA [planA]) (desc 3 9 0 0 0 0 0 0) 0 0x02 ∧ getPlan (ctxsA [planA]) keyA = some planA ∧ planA.phase = .admitted
      ∧ planA.stopped = false ∧ planA.stopping = none)
    ∧ (accepts (ctxsA [{ planA with phase := .waiting }]) (desc 3 9 0 0 0 0 0 0) 0 0x02
      ∧ getPlan (ctxsA [{ planA with phase := .waiting }]) keyA = some { planA with phase := .waiting }) :=
  ⟨accepts_of _ _ _ _ (by decide +kernel), by decide +kernel, accepts_of _ _ _ _ (by decide +kernel), by decide +kernel,
    ⟨accepts_of _ _ _ _ (by decide), rfl, by decide⟩, ⟨accepts_of _ _ _ _ (by decide), rfl, rfl, rfl, rfl⟩, ⟨accepts_of _ _ _ _ (by decide), rfl⟩⟩

/-- PlanAdmissionDecides: the plan waits; its binary is admitted at tick 9; a binary of zeros is refused. -/
def waitA (d : Desc) : Plan := { key := keyA, desc := d, tag := 4 }

def decideA (d : Desc) : State := { planMem with plans := [waitA d] }

theorem ok_of {E B : Type} (e : Except E (Nat × B)) (t : Nat) (h : e.toOption.map Prod.fst = some t) : ∃ b, e = .ok (t, b) := by
  cases e with
  | error x => cases h
  | ok p => exact ⟨p.2, by rw [← Option.some.inj h]⟩

/-- The refusal of a decision. -/
def refusalOf {E B : Type} (e : Except E B) : Option E :=
  match e with
  | .error x => some x
  | .ok _ => none

theorem wit_PlanAdmissionDecides :
    (∀ d, inService (decideA d) = true ∧ ticking (decideA d).tick = true ∧ admissionPaused (decideA d) 3 = false ∧ ringsPaused (decideA d) = false
      ∧ getPlan (decideA d) keyA = some (waitA d) ∧ (waitA d).phase = .waiting
      ∧ (getCtx (decideA d) 3).opens.find? (fun q => q.tag == (waitA d).tag)
          = some { tag := 4, userId := 1, noIrq := true, opcode := 1, planId := 9, wait := .admission }
      ∧ entryFree (decideA d) 3 ∧ idle (decideA d) ∧ (getCtx (decideA d) 3).streams = [])
    ∧ (∃ b, decidePlan (decideA planDesc) 3 (readVa (decideA planDesc) 3 (planAddr planDesc) (planLen planDesc)) = .ok (9, b))
    ∧ refusalOf (decidePlan (decideA (desc 3 9 0x1000 576 0 0 0 0)) 3 (readVa (decideA (desc 3 9 0x1000 576 0 0 0 0)) 3 0x1000 576))
      = some (0x20, none) :=
  ⟨fun _ => ⟨rfl, rfl, rfl, rfl, rfl, rfl, rfl, ⟨rfl, rfl⟩, idle_of _ rfl, rfl⟩, ok_of _ _ (by decide +kernel), by decide +kernel⟩

/-- Moves: one row from the host to the last bytes of the extent, with a flag; an empty one; one that would leave the extent. -/
def moveD (dst len fl : DWord) : Desc := desc 3 0 0x1000 dst len 0 fl 1

def moveA (d : Desc) : State :=
  ringsA { ctxA with opens := [openMove], moves := [{ desc := d, tag := 4, data := zeros 64 }] }

theorem wit_Moves :
    accepts (ringsA ctxA) (moveD 2097088 64 8) 0 0x03 ∧ dbits (moveD 2097088 64 8).w20 50 14 = 0
    ∧ moveCode (fetched (ringsA ctxA) (moveD 2097088 64 8) 0) (moveD 2097088 64 8) = 0
    ∧ moveCode (fetched (ringsA ctxA) (moveD 2097089 64 8) 0) (moveD 2097089 64 8) ≠ 0 ∧ accepts (ringsA ctxA) (moveD 2097089 64 8) 0 0x03
    ∧ (∀ d, alive (moveA d) = true ∧ ringsPaused (moveA d) = false ∧ entryFree (moveA d) 3
      ∧ (getCtx (moveA d) 3).moves[0]? = some { desc := d, tag := 4, data := zeros 64 }
      ∧ (getCtx (moveA d) 3).opens.find? (fun q => q.tag == 4) = some openMove) ∧ idle (moveA (moveD 0 0 0)) ∧ (moveD 0 0 0).ctx = 3
    ∧ moveCode (moveA (moveD 2097089 64 8)) (moveD 2097089 64 8) ≠ 0
    ∧ (moveCode (moveA (moveD 0 0 8)) (moveD 0 0 8) = 0 ∧ moveLen (moveD 0 0 8) = 0 ∧ (moveD 0 0 8).w30 ≠ 0)
    ∧ (moveCode (moveA (moveD 0 0 0)) (moveD 0 0 0) = 0 ∧ (moveD 0 0 0).w30 = 0)
    ∧ (moveCode (moveA (moveD 2097088 64 0)) (moveD 2097088 64 0) = 0 ∧ moveLen (moveD 2097088 64 0) ≠ 0 ∧ moveDir (moveD 2097088 64 0) = 0
      ∧ moveRows (moveD 2097088 64 0) = 1) :=
  ⟨accepts_of _ _ _ _ (by decide), by decide, by decide, by decide, accepts_of _ _ _ _ (by decide), fun _ => ⟨rfl, rfl, ⟨rfl, rfl⟩, rfl, rfl⟩, idle_of _ rfl,
    rfl, by decide, by decide, by decide, by decide⟩

/-- A handle is left while fewer tables exist than there are handles, whatever candidates the configuration offers. -/
theorem freeHandle_some (s : State) (h : (List.range 65536).any (fun h => h ≠ 0 && !s.tables.any (fun t => t.handle == h)) = true) (n k : Nat) :
    ∃ x, freeHandle s n k = some x := by
  induction k generalizing n with
  | zero =>
    unfold freeHandle
    cases e : (List.range 65536).find? (fun h => h ≠ 0 && !s.tables.any (fun t => t.handle == h)) with
    | some x => exact ⟨x, rfl⟩
    | none =>
      obtain ⟨x, hx, hp⟩ := List.any_eq_true.mp h
      exact absurd hp (List.find?_eq_none.mp e x hx)
  | succ k ih =>
    unfold freeHandle
    simp only []
    split
    · exact ⟨_, rfl⟩
    · exact ih _

/-- PageDescriptors: WRITE and PUBLISH of the address table, current and stale; of table 7, with a PUBLISH pending and without; CREATE of
the largest pages; DESTROY with a plan that names the table and without. -/
def pageD (op h count gen log : DWord) : Desc := desc 3 0 (h + op * 2 ^ 32) 0 (count * 2 ^ 32) (gen + log * 2 ^ 32) 0 0

/-- A walker record of table 7. -/
def walkA : WalkTable :=
  { handle := 7, write := true, recompute := false, latent := false, fmtK := 1, fmtV := 1, scale := 0, dK := 64, dV := 64, nt := 1, nh := 1, nw := 1
    expDk := 0, expDv := 0, statusAddr := 0 }

def pagesA (named pub : Bool) : State :=
  { ringsA ctxA with
    tables := [{ ctx := 3, handle := 7, pageLog2 := 16, size := 8, pub := pub }]
    plans := if named then [{ planA with body := some { bodyA with walkTables := [walkA] } }] else [] }

theorem wit_PageDescriptors :
    (accepts (pagesA false false) (pageD 0 0 1 0 0) 0 0x04 ∧ pageReserved (pageD 0 0 1 0 0) = false ∧ pageOp (pageD 0 0 1 0 0) = 0
      ∧ pageTable (pageD 0 0 1 0 0) = 0 ∧ publishPending (pagesA false false) 3 0 = false)
    ∧ (getCtx (pagesA false false) 3).dataFail = none ∧ (getCtx (pagesA false true) 3).dataFail = none
    ∧ (let s := ringsA { ctxA with dataFail := some (.translation, 0x40000) }
       accepts s (pageD 0 0 1 0 0) 0 0x04 ∧ pageReserved (pageD 0 0 1 0 0) = false ∧ (getCtx s 3).dataFail = some (.translation, 0x40000))
    ∧ (accepts (pagesA false true) (pageD 0 7 1 0 0) 0 0x04 ∧ pageReserved (pageD 0 7 1 0 0) = false ∧ ownsTable (pagesA false true) 3 7 = true
      ∧ publishPending (pagesA false true) 3 7 = true)
    ∧ (accepts (pagesA false false) (pageD 1 0 0 1 0) 0 0x04 ∧ pageReserved (pageD 1 0 0 1 0) = false
      ∧ pageGen (pageD 1 0 0 1 0) ≠ (getCtx (pagesA false false) 3).addr.gen.toNat)
    ∧ (accepts (pagesA false false) (pageD 1 0 0 0 0) 0 0x04 ∧ pageReserved (pageD 1 0 0 0 0) = false
      ∧ pageGen (pageD 1 0 0 0 0) = (getCtx (pagesA false false) 3).addr.gen.toNat)
    ∧ (accepts (pagesA false false) (pageD 1 7 0 0 0) 0 0x04 ∧ pageReserved (pageD 1 7 0 0 0) = false ∧ (getKv (pagesA false false) 3 7).isSome = true)
    ∧ (accepts (pagesA false false) (pageD 2 0 16777216 0 18) 0 0x04 ∧ pageReserved (pageD 2 0 16777216 0 18) = false
      ∧ pageCount (pageD 2 0 16777216 0 18) = 16777216 ∧ pageLog (pageD 2 0 16777216 0 18) = 18
      ∧ ∃ n, freeHandle (pagesA false false) (pagesA false false).free 65536 = some n)
    ∧ (accepts (pagesA true false) (pageD 3 7 0 0 0) 0 0x04 ∧ pageReserved (pageD 3 7 0 0 0) = false ∧ ownsTable (pagesA true false) 3 7 = true
      ∧ kvNamed (pagesA true false) 3 7 = true)
    ∧ (accepts (pagesA false false) (pageD 3 7 0 0 0) 0 0x04 ∧ kvNamed (pagesA false false) 3 7 = false ∧ (getCtx (pagesA false false) 3).opens = []) :=
  ⟨⟨accepts_of _ _ _ _ (by decide), by decide, by decide, by decide, by decide⟩, rfl, rfl, ⟨accepts_of _ _ _ _ (by decide), by decide, rfl⟩,
    ⟨accepts_of _ _ _ _ (by decide), by decide, by decide, by decide⟩,
    ⟨accepts_of _ _ _ _ (by decide), by decide, by decide⟩, ⟨accepts_of _ _ _ _ (by decide), by decide, by decide⟩,
    ⟨accepts_of _ _ _ _ (by decide), by decide, by decide⟩,
    ⟨accepts_of _ _ _ _ (by decide), by decide, by decide, by decide,
      freeHandle_some _ (List.any_eq_true.mpr ⟨1, List.mem_range.mpr (by decide), by decide⟩) _ _⟩,
    ⟨accepts_of _ _ _ _ (by decide), by decide, by decide, by decide⟩, ⟨accepts_of _ _ _ _ (by decide), by decide, by decide⟩⟩

/-- PageDescriptors: the staged segment of the address table forms a table; the context's quota holds its two extents. -/
theorem wit_PageDescriptors_form : (formTable (ringsA { ctxA with quota := 2 }) 3).isSome = true := by decide +kernel

/-! ## Witnesses of the statements about the attic and the parlour

Where a check rests on a digest, a signature or a key of the configuration, which have no value here, the witness assumes that check
and shows the others. -/

/-- An image by hand (R368): one tensor record at 512, one recipient at 576, a chunk tag at 832, a payload of 2,048 bytes at 4,096, the
signature behind it. -/
def imgBytes : List Byte :=
  leBytes 0xD7B00740 4 ++ leBytes 1 4 ++ leBytes 2048 8 ++ leBytes 1 8 ++ leBytes 1 8 ++ leBytes 512 8 ++ leBytes 576 8 ++ leBytes 1 8
  ++ leBytes 832 8 ++ leBytes 4096 8 ++ leBytes 6144 8 ++ zeros 432 ++ zeros 64 ++ zeros 256 ++ zeros 16 ++ zeros 3248 ++ zeros 2048 ++ zeros 132

theorem wit_image_layout : imgLayoutOk imgBytes 6276 = true ∧ storedSize imgBytes = 6276 := by decide +kernel

/-- The attic with an image, its publisher allowed; loaded in context 3 or not; its quota of one extent more. -/
def storedA (corrupt : Bool) : StoredImage :=
  { fn := 0, imageId := 1, payloadLen := 2048, serial := 0, digest := [], pubDigest := [], bytes := [], corrupt := corrupt }

def imagesA (imgs : List StoredImage) (ld : List Loaded) (plans : List Plan) : State :=
  { ringsA { ctxA with quota := 3 } with
    attic := { State.reset.attic with cfg0 := some { allow := [(sha512 (imgKey []), 0)] }, images := imgs, loaded := ld }
    plans := plans }

def loadedA (resident : Bool) : Loaded := { ctx := 3, fn := 0, imageId := 1, extents := [2], resident := resident, tag := if resident then none else some 4 }

def imageD (c : Nat) (len id : DWord) : Desc := desc c 0 0 len id 0 0 0

theorem allow_imagesA (imgs : List StoredImage) (ld : List Loaded) (plans : List Plan) :
    (allowEntry (imagesA imgs ld plans) (imgKey [])).isSome = true := by
  have h : activeCfg (imagesA imgs ld plans) = some { allow := [(sha512 (imgKey []), 0)] } := rfl
  unfold allowEntry; rw [h]
  generalize sha512 (imgKey []) = k
  simp

/-- Images: a store of 1,023 bytes; loads of an absent image, of a loaded one and of one that is to be loaded; deletes of an absent
image, of one that a plan names and of a free one. -/
theorem wit_Images :
    (accepts (imagesA [] [] []) (imageD 0 1023 1) 0 0x10 ∧ dbits (imageD 0 1023 1).w20 32 32 = 0
      ∧ storeCode (fetched (imagesA [] [] []) (imageD 0 1023 1) 0) { desc := imageD 0 1023 1, tag := 0, fn := 0, imageId := 1, kind := 0, image := [], started := false } ≠ 0)
    ∧ (accepts (imagesA [] [] []) (imageD 3 0 1) 0 0x11 ∧ findImage (imagesA [] [] []) 0 1 = none)
    ∧ (accepts (imagesA [storedA false] [] []) (imageD 3 0 1) 0 0x11 ∧ findImage (imagesA [storedA false] [] []) 0 1 = some (storedA false)
      ∧ (imagesA [storedA false] [] []).attic.loaded = [] ∧ (storedA false).corrupt = false
      ∧ (heldExtents (imagesA [storedA false] [] []) 3).length + imgExtents (storedA false) ≤ (getCtx (imagesA [storedA false] [] []) 3).quota.toNat
      ∧ (allocSpread (usedExtents (imagesA [storedA false] [] [])) (List.range 16) 0 (imgExtents (storedA false))).isSome = true)
    ∧ (accepts (imagesA [storedA false] [loadedA true] []) (imageD 3 0 1) 0 0x11
      ∧ (imagesA [storedA false] [loadedA true] []).attic.loaded.any (fun l => l.ctx == 3 && l.imageId == 1) = true)
    ∧ (accepts (imagesA [] [] []) (imageD 0 0 1) 0 0x12)
    ∧ (accepts (imagesA [storedA false] [] [{ planA with body := some { bodyA with weights := [{ imageId := 1, vaBase := 5, digest := [] }] } }]) (imageD 0 0 1) 0 0x12
      ∧ imageNamed (imagesA [storedA false] [] [{ planA with body := some { bodyA with weights := [{ imageId := 1, vaBase := 5, digest := [] }] } }]) 0 1 = true)
    ∧ (accepts (imagesA [storedA false] [loadedA true] []) (imageD 0 0 1) 0 0x12 ∧ imageNamed (imagesA [storedA false] [loadedA true] []) 0 1 = false
      ∧ (imagesA [storedA false] [loadedA true] []).attic.loaded.any (fun l => l.fn == 0 && l.imageId == 1 && !l.resident) = false) := by
  refine ⟨⟨accepts_of _ _ _ _ ?_, ?_, ?_⟩, ⟨accepts_of _ _ _ _ ?_, ?_⟩, ⟨accepts_of _ _ _ _ ?_, ?_, ?_, ?_, ?_, ?_⟩, ⟨accepts_of _ _ _ _ ?_, ?_⟩,
    accepts_of _ _ _ _ ?_, ⟨accepts_of _ _ _ _ ?_, ?_⟩, ⟨accepts_of _ _ _ _ ?_, ?_, ?_⟩⟩ <;> decide +kernel

/-- Images: the store of an image with this layout passes its checks, where its signature and its key do. -/
theorem wit_Images_store (b : List Byte) (h0 : imgLayoutOk b 6276 = true) (hs : storedSize b = 6276)
    (h1 : (allowEntry (imagesA [] [] []) (imgKey b)).isSome = true) (h2 : imgSigned b = true)
    (h3 : (imgPlain (fetched (imagesA [] [] []) (imageD 0 6276 1) 0) b).isSome = true) :
    accepts (imagesA [] [] []) (imageD 0 6276 1) 0 0x10
    ∧ storeCode (fetched (imagesA [] [] []) (imageD 0 6276 1) 0) { desc := imageD 0 6276 1, tag := 0, fn := 0, imageId := 1, kind := 0, image := b, started := false } = 0 := by
  refine ⟨accepts_of _ _ _ _ (by decide +kernel), ?_⟩
  have e : allowEntry (fetched (imagesA [] [] []) (imageD 0 6276 1) 0) (imgKey b) = allowEntry (imagesA [] [] []) (imgKey b) := rfl
  have f : findImage (fetched (imagesA [] [] []) (imageD 0 6276 1) 0) 0 1 = none := rfl
  have u : atticUse (fetched (imagesA [] [] []) (imageD 0 6276 1) 0) = 0 := rfl
  have n : atticCount (fetched (imagesA [] [] []) (imageD 0 6276 1) 0) = 0 := rfl
  have w : (imageD 0 6276 1).w18.toNat = 6276 := rfl
  have a1 : (allowEntry (imagesA [] [] []) (imgKey b)).isNone = false := by
    revert h1; cases allowEntry (imagesA [] [] []) (imgKey b) <;> simp
  have p1 : (imgPlain (fetched (imagesA [] [] []) (imageD 0 6276 1) 0) b).isNone = false := by
    revert h3; cases imgPlain (fetched (imagesA [] [] []) (imageD 0 6276 1) 0) b <;> simp
  simp only [storeCode, e, f, u, n, w, hs, h0, a1, p1, h2]
  rfl

/-- Images: the completions of a store and of a load. -/
def opA : ImageOp := { desc := imageD 3 0 1, tag := 4, fn := 0, imageId := 1, kind := 0, image := [], started := true }

def openImage : OpenDesc := { tag := 4, userId := 1, noIrq := true, opcode := 0x10, planId := 0, wait := .image }

def doneA : State :=
  { ringsA { ctxA with opens := [openImage] } with
    attic := { State.reset.attic with images := [storedA false], loaded := [loadedA false], imageOps := [opA] } }

theorem wit_Images_complete :
    alive doneA = true ∧ idle doneA ∧ ringsPaused doneA = false ∧ doneA.attic.imageOps = [opA] ∧ opA.started = true ∧ opA.fn = 0 ∧ opA.imageId = 1
    ∧ entryFree doneA opA.desc.ctx ∧ (getCtx doneA 3).opens.find? (fun w => w.tag == opA.tag) = some openImage
    ∧ doneA.attic.loaded.find? (sameLoad 3 1) = some (loadedA false) ∧ findImage doneA 0 1 = some (storedA false)
    ∧ (getCtx doneA 3).opens.find? (fun w => (loadedA false).tag == some w.tag) = some openImage :=
  ⟨rfl, idle_of _ rfl, rfl, rfl, rfl, rfl, rfl, ⟨rfl, rfl⟩, rfl, rfl, rfl, rfl⟩

/-- UpdatesAndAttestation: a bundle for a slot that does not run and for the one that runs; a configuration of no bytes; ATTEST with room
for 4,096 bytes and for less; the completions of both updates. -/
def runsBundle (b : Option Bundle) (ups : List Update) : State :=
  let s := ringsA ctxA
  { s with dev := { s.dev with bundle := b }, attic := { s.attic with updates := ups } }

def updateA (fw : Bool) : Update := { ctx := 0, tag := 4, fw := fw, slot := true, bytes := [], started := true }

theorem wit_UpdatesAndAttestation :
    (accepts (runsBundle none []) (desc 0 0 0 0 0 0 0 0) 0 0x18 ∧ (runsBundle none []).dev.bundle = none)
    ∧ (accepts (runsBundle (some {}) []) (desc 0 0 0 0 1 0 0 0) 0 0x18 ∧ (runsBundle (some {}) []).dev.slot ≠ bitOf (1 : DWord).toNat 0)
    ∧ (accepts (runsBundle (some {}) []) (desc 0 0 0 0 0 0 0 0) 0 0x18 ∧ (runsBundle (some {}) []).dev.bundle ≠ none
      ∧ (runsBundle (some {}) []).dev.slot = bitOf (0 : DWord).toNat 0) ∧ dbits 1 1 63 = 0
    ∧ (accepts (runsBundle none []) (desc 0 0 0 5632 0 0 0 0) 0 0x19 ∧ cfgCode (runsBundle none []) [] ≠ 0)
    ∧ (∀ fw, alive (runsBundle none [updateA fw]) = true ∧ idle (runsBundle none [updateA fw]) ∧ (runsBundle none [updateA fw]).attic.updates = [updateA fw]
      ∧ (updateA fw).started = true ∧ (updateA fw).fw = fw)
    ∧ (getCtx (ringsA ctxA) 3).dataFail = none ∧ (accepts (ringsA ctxA) (desc 3 0 0x40000 4095 0 0 0 0) 0 0x1A ∧ dbits (4095 : DWord) 0 32 < 4096 ∧ dbits (4095 : DWord) 32 32 = 0)
    ∧ (accepts (ringsA ctxA) (desc 3 0 0x40000 4096 0 0 0 0) 0 0x1A ∧ 4096 ≤ dbits (4096 : DWord) 0 32 ∧ (desc 3 0 0x40000 4096 0 0 0 0).noIrq = true) :=
  ⟨⟨accepts_of _ _ _ _ (by decide), rfl⟩, ⟨accepts_of _ _ _ _ (by decide), by decide⟩, ⟨accepts_of _ _ _ _ (by decide), by decide, by decide⟩, by decide,
    ⟨accepts_of _ _ _ _ (by decide), by decide⟩, fun fw => ⟨rfl, idle_of _ rfl, rfl, rfl, rfl⟩, rfl, ⟨accepts_of _ _ _ _ (by decide), by decide, by decide⟩,
    ⟨accepts_of _ _ _ _ (by decide), by decide, rfl⟩⟩

/-- UpdatesAndAttestation: a configuration is taken where its form, its sequence number and its signature are right. -/
theorem wit_UpdatesAndAttestation_config (bs : List Byte) (h1 : cfgFormOk bs = true) (h2 : getLE bs 8 8 = 2) (h3 : ownerSigned (runsBundle none []) bs = true) :
    cfgCode (runsBundle none []) bs = 0 := by
  have a : (activeCfg (runsBundle none [])).elim 0 (fun c => c.seq.toNat) = 1 := rfl
  simp [cfgCode, h1, h2, h3, a]

/-- A decoding stream of 128 by 128 pixels with one engine, its pictures at address 0, and an encoding one with a ring of 64 KiB. -/
def parA (dir : Nat) : List Byte :=
  leBytes (dir + 2 ^ 5) 4 ++ leBytes 128 2 ++ leBytes 128 2 ++ leBytes 0x0101 4 ++ leBytes 60 2 ++ leBytes 1 2 ++ zeros 32 ++ leBytes 0 8
  ++ leBytes 2097152 8 ++ leBytes (if dir = 0 then 0x10000 else 0) 8 ++ leBytes (if dir = 0 then 16 else 0) 8 ++ leBytes (if dir = 0 then 0x30000 else 0) 8
  ++ zeros 40

/-- Streams: stream 1 is opened where the level holds it, and stream 0 is refused; a stream that is closed, with no job and with one. -/
theorem wit_Streams :
    (accepts (ringsA ctxA) (desc 3 0 0 1 0 0 0 0) 0 0x30 ∧ dbits (1 : DWord) 8 56 = 0)
    ∧ (Config.meetsLevel [0, 0, 0, 128, 128, 60, 1, 1, 1] = true → streamCode (fetched (ringsA ctxA) (desc 3 0 0 1 0 0 0 0) 0) (desc 3 0 0 1 0 0 0 0) (padTo (parA 1) 128) = 0)
    ∧ (accepts (ringsA ctxA) (desc 3 0 0 0 0 0 0 0) 0 0x30 ∧ streamCode (fetched (ringsA ctxA) (desc 3 0 0 0 0 0 0 0) 0) (desc 3 0 0 0 0 0 0 0) (padTo (parA 1) 128) ≠ 0) := by
  refine ⟨⟨accepts_of _ _ _ _ (by decide), by decide⟩, fun h => ?_, accepts_of _ _ _ _ (by decide), by decide⟩
  have r : paramsRange (padTo (parA 1) 128) (streamPar (padTo (parA 1) 128)) = true := by
    have e : [(streamPar (padTo (parA 1) 128)).codec, (streamPar (padTo (parA 1) 128)).level, b2n (streamPar (padTo (parA 1) 128)).tier,
      (streamPar (padTo (parA 1) 128)).width, (streamPar (padTo (parA 1) 128)).height, (streamPar (padTo (parA 1) 128)).fpsNum,
      (streamPar (padTo (parA 1) 128)).fpsDen, (streamPar (padTo (parA 1) 128)).cols, (streamPar (padTo (parA 1) 128)).rows]
      = [0, 0, 0, 128, 128, 60, 1, 1, 1] := by decide
    unfold paramsRange; rw [e, h]; decide
  unfold streamCode; simp only [r]; decide

/-- The device with stream 1 in context 3. -/
def streamA (t : Stream) : State := ringsA { ctxA with streams := [t] }

def streamOf (dir : Nat) (jobs : List Job) : Stream := { sid := 1, params := parA dir, engines := [0], jobs := jobs }

/-- A job of 64 bytes of stream 1, ready, started or not, its bytes at address 0. -/
def jobD (src len fl : DWord) : Desc := desc 3 0 1 src len 0 0 fl

def jobA (d : Desc) (started : Bool) (blocked : Option Nat) : Job :=
  { desc := d, tag := 4, ready := some 7, waits := none, started := started, held := false, blocked := blocked }

theorem wit_Streams_close :
    (accepts (streamA (streamOf 1 [])) (desc 3 0 2 0 0 0 0 0) 0 0x31 ∧ getStream (streamA (streamOf 1 [])) 3 2 = none ∧ dbits (2 : DWord) 8 56 = 0)
    ∧ (accepts (streamA (streamOf 1 [])) (desc 3 0 1 0 0 0 0 0) 0 0x31 ∧ getStream (streamA (streamOf 1 [])) 3 1 = some (streamOf 1 [])
      ∧ (streamOf 1 []).plans = [])
    ∧ (accepts (streamA (streamOf 1 [jobA (jobD 0 64 0) false none])) (desc 3 0 1 0 0 0 0 0) 0 0x31
      ∧ (∃ j ∈ (streamOf 1 [jobA (jobD 0 64 0) false none]).jobs, j.held = false))
    ∧ (alive (streamA (streamOf 1 [])) = true ∧ idle (streamA (streamOf 1 [])) ∧ (streamA (streamOf 1 [])).hw.engines.contains 15 = false
      ∧ freeEngines { streamA (streamOf 1 []) with hw := { (streamA (streamOf 1 [])).hw with engines := [15] } } = 1 :: [2, 3, 4, 5, 6, 7, 8, 9, 10, 11, 12, 13, 14]
      ∧ (∀ p ∈ (streamA (streamOf 1 [])).ctxs, ∀ st ∈ p.2.streams, st.engines ≠ [])) :=
  ⟨⟨accepts_of _ _ _ _ (by decide), by decide, by decide⟩, ⟨accepts_of _ _ _ _ (by decide), rfl, rfl⟩, ⟨accepts_of _ _ _ _ (by decide), by decide⟩,
    ⟨rfl, idle_of _ rfl, rfl, by decide, by decide⟩⟩

/-- CodecJobs: a job of 64 bytes is taken, one at an odd address refused; one whose plan is undelivered, one whose plan is over. -/
theorem wit_CodecJobs :
    (accepts (streamA (streamOf 1 [])) (jobD 0 64 0) 0 0x32 ∧ jobReserved (jobD 0 64 0) = false
      ∧ getStream (streamA (streamOf 1 [])) 3 (jobStream (jobD 0 64 0)) = some (streamOf 1 [])
      ∧ jobCode (fetched (streamA (streamOf 1 [])) (jobD 0 64 0) 0) (jobD 0 64 0) (streamPar (parA 1)) = 0
      ∧ jobWait (fetched (streamA (streamOf 1 [])) (jobD 0 64 0) 0) (jobD 0 64 0) = .met)
    ∧ (accepts (streamA (streamOf 1 [])) (jobD 1 64 0) 0 0x32
      ∧ jobCode (fetched (streamA (streamOf 1 [])) (jobD 1 64 0) 0) (jobD 1 64 0) (streamPar (parA 1)) ≠ 0)
    ∧ (let s := { streamA (streamOf 1 []) with plans := [planA] }
       let d := { jobD 0 64 0 with w10 := 1 + 9 * 2 ^ 16 + 4 * 2 ^ 32 }
       accepts s d 0 0x32 ∧ jobReserved d = false ∧ jobCode (fetched s d 0) d (streamPar (parA 1)) = 0 ∧ jobWait (fetched s d 0) d = .await keyA 4)
    ∧ (let s := streamA (streamOf 1 [])
       let d := { jobD 0 64 0 with w10 := 1 + 9 * 2 ^ 16 + 4 * 2 ^ 32 }
       accepts s d 0 0x32 ∧ jobCode (fetched s d 0) d (streamPar (parA 1)) = 0 ∧ jobWait (fetched s d 0) d = .code 0x19) :=
  ⟨⟨accepts_of _ _ _ _ (by decide), by decide, rfl, by decide, rfl⟩, ⟨accepts_of _ _ _ _ (by decide), by decide⟩,
    ⟨accepts_of _ _ _ _ (by decide), by decide, by decide, rfl⟩, ⟨accepts_of _ _ _ _ (by decide), by decide, rfl⟩⟩

/-- CodecJobs: a job that starts; a started one of a decoder, of an encoder with room in its ring, and of one whose ring is full. -/
def workA (dir : Nat) (started : Bool) (blocked : Option Nat) : Stream := streamOf dir [jobA (jobD 0 64 0) started blocked]

def openJob : OpenDesc := { tag := 4, userId := 1, noIrq := true, opcode := 0x32, planId := 0, wait := .job 1 }

def workS (t : Stream) : State := ringsA { ctxA with streams := [t], opens := [openJob] }

theorem wit_CodecJobs_work :
    (∀ dir, alive (workS (workA dir false none)) = true ∧ idle (workS (workA dir false none))
      ∧ getStream (workS (workA dir false none)) 3 1 = some (workA dir false none) ∧ nextJob (workA dir false none) = some (jobA (jobD 0 64 0) false none))
    ∧ (streamPar (parA 0)).decodes = false ∧ (streamPar (parA 1)).decodes = true
    ∧ (∀ dir b, alive (workS (workA dir true b)) = true ∧ ringsPaused (workS (workA dir true b)) = false ∧ entryFree (workS (workA dir true b)) 3
      ∧ getStream (workS (workA dir true b)) 3 1 = some (workA dir true b)
      ∧ (workA dir true b).jobs.find? (·.started) = some (jobA (jobD 0 64 0) true b)
      ∧ (getCtx (workS (workA dir true b)) 3).opens.find? (fun q => q.tag == (jobA (jobD 0 64 0) true b).tag) = some openJob)
    ∧ (streamPar (parA 0)).bound = false ∧ (streamPar (parA 1)).bound = false ∧ (workA 1 true none).broken = false ∧ jobLen (jobD 0 64 0) ≠ 0
    ∧ (jobD 0 64 0).w38 = 0 :=
  ⟨fun _ => ⟨rfl, idle_of _ rfl, rfl, rfl⟩, by decide, by decide, fun _ _ => ⟨rfl, rfl, ⟨rfl, rfl⟩, rfl, rfl, rfl⟩, by decide, by decide, rfl, by decide, rfl⟩

/-- An access unit is at most a picture's 24,576 bytes long: with its header it fits the empty ring of 64 KiB, and does not fit when
the ring's reader is 48 KiB behind and the writer stands at 48 KiB. -/
theorem wit_CodecJobs_ring (n : Nat) (h : n ≤ cdiv (32 + 24576) 64 * 64) :
    (0 % 2 ^ (streamPar (parA 0)).ringLog + n ≤ 2 ^ (streamPar (parA 0)).ringLog ∧ ringHas (streamPar (parA 0)) (workA 0 true none) n = true)
    ∧ (0 < n → ¬ringHas (streamPar (parA 0)) { workA 0 true none with written := 65536 } n = true
        ∧ 65536 % 2 ^ (streamPar (parA 0)).ringLog + n ≤ 2 ^ (streamPar (parA 0)).ringLog) := by
  have r : (streamPar (parA 0)).ringLog = 16 := by decide
  have c : cdiv (32 + 24576) 64 * 64 = 24640 := by decide
  rw [c] at h
  have w0 : (workA 0 true none).written = 0 := rfl
  have c0 : (workA 0 true none).consumed = 0 := rfl
  simp only [ringHas, r, w0, c0, decide_eq_true_eq]
  omega

/-! ## Witnesses of the statements about the page walker and the porch -/

def walkTab : WalkTable :=
  { handle := 7, write := true, recompute := false, latent := false, fmtK := 1, fmtV := 1, scale := 0, dK := 64, dV := 64, nt := 1, nh := 1, nw := 1
    expDk := 0, expDv := 0, statusAddr := 0 }

def bodyW : PlanBody := { bodyA with walkTables := [walkTab] }

def planW : Plan := { planA with body := some bodyW }

/-- Table 7: 8 entries of 64 KiB, with a session or without. -/
def tabA (open_ : Bool) : KvTable :=
  { ctx := 3, handle := 7, pageLog2 := 16, size := 8
    session := if open_ then some { key := keyA, room := 5, tree := [], parents := [none], overlays := [[]] } else none }

def walkS (x : Thread) (m : List Host.Cell) (o : Bool) : State := { roomsA x m with plans := [planW], tables := [tabA o] }

def rcW (x : Thread) (m : List Host.Cell) (o : Bool) : RC :=
  { s := walkS x m o, th := x, p := planW, b := bodyW, r := recA 5, im := imgA, k := 0 }

/-- A walker descriptor of an operation: table 0, slot 0, chunks of two blocks, a prefix of entries 5 to 7, the table's last. -/
def walkerDesc (op : Nat) : List Byte :=
  leBytes (1 + op * 2 ^ 8) 4 ++ leBytes (2 * 2 ^ 16) 4 ++ zeros 8 ++ leBytes 5 4 ++ leBytes 3 4 ++ zeros 104

/-- That descriptor and a tree of one leaf at offset 0 of the window. -/
def walkMem (op : Nat) : List Host.Cell := memWrite (descMem (walkerDesc op)) (spadPa (recA 5) 0) (leBytes 1 8 ++ leBytes 255 8)

/-- PageWalkerRequests: GATHER at the window's start, and at an address of 2^32; VERIFY_OPEN; COMMIT; STORE of no block, and of one with
no frame to be had. -/
theorem wit_PageWalkerRequests :
    (∀ v1 v2 op o, issuesAt (walkS (thA v1 v2 0) (walkMem op) o) tidA (insA 0 1 2 0) (rcW (thA v1 v2 0) (walkMem op) o)
      ∧ walkRec bodyW (walkDesc (walkerDesc 0)) = some walkTab ∧ getKv (walkS (thA v1 v2 0) (walkMem op) o) 3 7 = some (tabA o)
      ∧ ∀ unit reads writes, mayIssue (rcW (thA v1 v2 0) (walkMem op) o) unit reads writes)
    ∧ (∀ op ∈ [0, 1, 2, 3], (rcW (thA 0 0 0) (walkMem op) false).desc 0 128 = walkerDesc op ∧ (walkDesc (walkerDesc op)).op = op
        ∧ (walkDesc (walkerDesc op)).expand = false ∧ (walkDesc (walkerDesc op)).hasOut = false)
    ∧ dbits (0 : DWord) 52 12 = 0 ∧ (rcW (thA 0 0 0) (walkMem 0) false).inSpad 0 (slotBytes (walkDesc (walkerDesc 0)) walkTab) 64 = true
    ∧ (∀ p ∈ walkSpots (walkDesc (walkerDesc 0)) walkTab (queryOf 0), p.index < (tabA false).size) ∧ candOk (tabA false) 0 = true
    ∧ ((tabA false).session = none ∧ (treeParents ((rcW (thA 0 0 0) (walkMem 2) false).spad 0 16)).isSome = true)
    ∧ ((tabA true).session.isSome = true ∧ candOk (tabA true) ((forcedLeaf planW 0 7).getD (dbits (0x1000000000000000 : DWord) 0 4)) = true)
    ∧ ((kvStore (walkS (thA 0 7 0) (walkMem 1) false) (storeReq 3 walkTab 7 [])).isSome = true
        ∧ dbits (7 : DWord) 0 32 < (tabA false).size ∧ dbits (7 : DWord) 32 12 + dbits (7 : DWord) 44 8 ≤ pageBlocks walkTab 16)
    ∧ (kvStore (walkS (thA 0 0x100000000007 0) (walkMem 1) false) (storeReq 3 walkTab 0x100000000007 (zeros 8192)) = none
        ∧ (rcW (thA 0 0 0) (walkMem 1) false).inSpad 0 (dbits (0x100000000007 : DWord) 44 8 * blockBytes walkTab) 64 = true)
    ∧ dbits (0x100000000 : DWord) 32 32 ≠ 0 :=
  ⟨fun _ _ _ _ => ⟨⟨rfl, (by show 0 < 16; decide), rfl⟩, rfl, rfl, mayIssue_idle _ rfl⟩, by decide, by decide, by decide, by decide, by decide,
    by decide, by decide, by decide, ⟨rfl, by decide⟩, by decide⟩

/-- PageWalkerEvents: a walk with one chunk left; a decrement on its way; a tick before its release point. -/
def walkingA : Walk := { slot := 0, number := 1, handle := 7, gen := 0, desc := walkerDesc 0, query := 0, chunks := [(0, 64, 1)] }

def thWalk : Thread := { thA 0 0 0 with walks := [walkingA] }

theorem wit_PageWalkerEvents :
    alive (walkS thWalk [] false) = true ∧ MemOk (walkS thWalk [] false) = true ∧ getTh (walkS thWalk [] false) tidA = some thWalk ∧ running thWalk
    ∧ getPlan (walkS thWalk [] false) tidA.key = some planW ∧ thRec (walkS thWalk [] false) tidA = some (recA 5) ∧ planW.body = some bodyW
    ∧ takeChunk 0 thWalk.walks = some (walkingA, (0, 64, 1)) ∧ walkRec bodyW (walkDesc walkingA.desc) = some walkTab
    ∧ getKv (walkS thWalk [] false) 3 7 = some (tabA false) ∧ (walkDesc walkingA.desc).expand = false
    ∧ ({ devA with decs := [0x10000] } : State).decs.contains 0x10000 = true ∧ devA.decs.contains 0x10000 = false
    ∧ (let s := { devA with tick := { devA.tick with released := false } }
       ticking s.tick = true ∧ s.dev.failstop = false ∧ s.tick.released = false) :=
  ⟨rfl, rfl, rfl, rfl, rfl, rfl, rfl, rfl, rfl, rfl, by decide, rfl, rfl, rfl, rfl, rfl⟩

/-- A plan of one collective over the group of devices 0 and 1, carried by room 5. -/
def groupA : GroupRec := { key := 0x55, members := [0, 1], carriers := [5] }

def collA : CollRec :=
  { group := 0, op := 0, rop := 0, alg := 0, wireFmt := 1, resFmt := 1, vc := 0, bound := false, stageBufs := 2, step := 0, order := 0, root := 0
    elems := 64, chunk := 64 }

def bodyC : PlanBody := { bodyA with collTag := some 0x77, groups := [groupA], colls := [collA] }

def planC : Plan := { planA with body := some bodyC }

def collS (x : Thread) (m : List Host.Cell) : State := { roomsA x m with plans := [planC], links := portUp.links }

def rcC (x : Thread) (m : List Host.Cell) : RC := { s := collS x m, th := x, p := planC, b := bodyC, r := recA 5, im := imgA, k := 0 }

/-- A porch descriptor that opens an instance of collective 0 with 64 elements into buffer 1. -/
def porchBs : List Byte := leBytes (1 + 2 ^ 20 + 2 ^ 22) 4 ++ leBytes 64 4 ++ zeros 24

def kA : CollCtx := { coll := 0, r := collA, g := groupA, tag := 0x77, rank := 0, carr := 0 }

/-- PorchTransfers: a transfer with peer 1 at the window's start. -/
theorem wit_PorchTransfers :
    issuesAt (collS (thA 0 0x100000000 0) (descMem porchBs)) tidA (insA 0 1 2 0) (rcC (thA 0 0x100000000 0) (descMem porchBs))
    ∧ (rcC (thA 0 0x100000000 0) (descMem porchBs)).desc 0 32 = porchBs
    ∧ collCtx (collS (thA 0 0x100000000 0) (descMem porchBs)) bodyC 5 (porchDesc porchBs).coll = some kA
    ∧ (rcC (thA 0 0x100000000 0) (descMem porchBs)).inSpad 0 (porchBytes (porchDesc porchBs) (tagFmt collA 0)) 64 = true
    ∧ dbits (0x100000000 : DWord) 32 12 < groupA.members.length ∧ dbits (0x100000000 : DWord) 32 12 ≠ kA.rank
    ∧ unaligned (collS (thA 0 0x100000000 0) (descMem porchBs)) kA (porchDesc porchBs) = false
    ∧ (porchInst (rcC (thA 0 0x100000000 0) (descMem porchBs)) kA (porchDesc porchBs)).isSome = true
    ∧ (∀ unit reads writes, mayIssue (rcC (thA 0 0x100000000 0) (descMem porchBs)) unit reads writes)
    ∧ (porchDesc porchBs).fp32 = false ∧ pGet (thA 0 0x100000000 0).stages (0, 1) ≠ some .midReduction
    ∧ (thA 0 0x100000000 0).xfers = [] ∧ porchQuiet (collS (thA 0 0x100000000 0) []) ∧ directPorts (collS (thA 0 0 0) []) 1 = []
    ∧ thColl (collS (thA 0 0 0) []) tidA 0 = some kA ∧ (collS (thA 0 0 0) []).links.anncs = [] ∧ (thA 0 0 0).insts = [] :=
  ⟨⟨rfl, by decide, by decide⟩, by decide, rfl, by decide, by decide, by decide, by decide, by decide, mayIssue_idle _ rfl, by decide, by decide,
    rfl, ⟨by decide, rfl⟩, rfl, rfl, rfl, rfl⟩

/-- A message of type 0 from device 1 on port 2: a collective header of a kind with a collective tag, one piece of no bytes. -/
def msgA (kind tag : Nat) : Msg :=
  { port := 2, vc := 0, bytes := leBytes 0x1000 4 ++ leBytes 48 4 ++ zeros 8 ++ leBytes (kind + 2 ^ 4) 4 ++ leBytes 0x55 4 ++ leBytes tag 8 ++ zeros 8
      ++ leBytes 0 4 ++ leBytes 0 4 ++ leBytes 0 4 ++ leBytes 64 4 ++ leBytes 0 2 ++ leBytes 1 2 ++ zeros 4 }

def instA : Inst := { id := 0, coll := 0, group := 0, bound := false, sysTick := 0, seq := 0, peers := [{ rank := 1, carr := 0, sent := true, matched := true }] }

def recvA : Xfer :=
  { id := 0, inst := 0, send := false, coll := 0, peer := 1, carr := 0, tag := 0, elems := 64, fp32 := false, buf := 1, addr := 0, bytes := [], sysTick := 0
    seq := 0, pc := 0 }

def thRecv : Thread := { thA 0 0 0 with insts := [instA], xfers := [recvA] }

/-- Port 2 UP with the four messages received. -/
def portMsgs : Port :=
  { mode := .native, state := .up, rxMsgs := [msgA 0 0x77, msgA 1 0x77, msgA 0 0x78, msgA 1 0x78].map (fun m => (0, m.bytes)) }

def recvS (x : Thread) : State := { collS x [] with links := { devA.links with ports := devA.links.ports.set 2 portMsgs } }

theorem msgNext_recvS (x y : Thread) (m : Msg) : msgNext (recvS x) m = msgNext (recvS y) m := rfl

theorem wit_PorchTransfers_messages :
    (∀ x, alive (recvS x) = true ∧ msgNext (recvS x) (msgA 0 0x77) = true ∧ msgNext (recvS x) (msgA 1 0x77) = true
      ∧ msgNext (recvS x) (msgA 0 0x78) = true ∧ msgNext (recvS x) (msgA 1 0x78) = true)
    ∧ (∀ m ∈ [msgA 0 0x77, msgA 1 0x77, msgA 0 0x78, msgA 1 0x78], msgType m = 0 ∧ msgLen m = 48 ∧ m.port = 2) ∧ 2 < (recvS thB).links.ports.length
    ∧ (collHead (msgData (msgA 0 0x77))).ckind = 0 ∧ headRoom (recvS (thA 0 0 0)) (collHead (msgData (msgA 0 0x77))) = some (tidA, kA)
    ∧ headClosed (recvS (thA 0 0 0)) tidA kA (collHead (msgData (msgA 0 0x77))) = false
    ∧ headRoom (recvS (thA 0 0 0)) (collHead (msgData (msgA 0 0x78))) = none ∧ (collHead (msgData (msgA 1 0x78))).ckind = 1
    ∧ headRoom (recvS (thA 0 0 0)) (collHead (msgData (msgA 1 0x78))) = none
    ∧ headRoom (recvS thRecv) (collHead (msgData (msgA 1 0x77))) = some (tidA, kA)
    ∧ headClosed (recvS thRecv) tidA kA (collHead (msgData (msgA 1 0x77))) = false ∧ getTh (recvS thRecv) tidA = some thRecv ∧ running thRecv
    ∧ recvFor (recvS thRecv) tidA (collHead (msgData (msgA 1 0x77))) = some recvA ∧ recvA.elems ≠ 0 ∧ instOf thRecv recvA = some instA
    ∧ (peerOf instA 1 0).isSome = true ∧ (collHead (msgData (msgA 1 0x77))).tag = recvA.tag ∧ (collHead (msgData (msgA 1 0x77))).elems = recvA.elems
    ∧ thRec (recvS thRecv) tidA = some (recA 5) ∧ thColl (recvS thRecv) tidA 0 = some kA
    ∧ (∀ y ∈ (recvS thRecv).threads, y.tid ≠ tidA → y.xfers = []) :=
  ⟨fun x => ⟨rfl, (msgNext_recvS x thRecv _).trans (by decide), (msgNext_recvS x thRecv _).trans (by decide),
    (msgNext_recvS x thRecv _).trans (by decide), (msgNext_recvS x thRecv _).trans (by decide)⟩, by decide, by decide, by decide, rfl, rfl, rfl, by decide, rfl, rfl, rfl, rfl, rfl, rfl, by decide,
    rfl, rfl, rfl, rfl, rfl, rfl, by decide⟩

/-! ## Witnesses of the statements about boundaries, tokens and books -/

/-- The plan between steps, its programs at their barriers: its first step is due at tick 7. -/
def planN : Plan := { planA with run := none }

def thN (room : Nat) : Thread := { tid := { key := keyA, room := room }, stat := .barrier }

def dueS : State :=
  { devA with
    ctxs := [(3, ctxA)], plans := [planN], threads := [thN 5, thN 6], tick := { devA.tick with released := false } }

theorem wit_BoundariesAndSteps :
    (tickOn devA = true ∧ ticking devA.tick = true ∧ devA.tick.released = true ∧ devA.tick.nextB = some 1601000 ∧ devA.tick.state = .running
      ∧ devA.tick.inUse = .internal ∧ ctlSource devA.tick = .internal ∧ devA.tick.onAlt = false ∧ devA.tick.prev = none ∧ devA.tick.newPeriod = none)
    ∧ (tickOn dueS = true ∧ ticking dueS.tick = true ∧ dueS.tick.released = false ∧ dueS.dev.failstop = false ∧ dueS.plans = [planN]
      ∧ planN.body = some bodyA ∧ dueS.recov = none ∧ planN.maskChanged = false ∧ planA.maskChanged = false ∧ stepDue dueS planN = true ∧ bodyA.weights = [] ∧ bodyA.shape = [] ∧ idle dueS ∧ porchQuiet dueS
      ∧ dueS.tables = [] ∧ (∀ q ∈ dueS.ctxs, q.2.opens = [] ∧ q.2.addr.next = none) ∧ (∀ x ∈ dueS.threads, x.stores = [] ∧ x.noRun = false)
      ∧ liveRooms dueS keyA (pathRooms bodyA (dueStep planN) (runsCheaper planN bodyA (dueStep planN))) = [5, 6]
      ∧ getTh dueS tidA = some (thN 5) ∧ thRec dueS tidA = some (recA 5)) :=
  ⟨⟨rfl, rfl, rfl, rfl, rfl, rfl, rfl, rfl, rfl, rfl⟩, ⟨rfl, rfl, rfl, rfl, rfl, rfl, rfl, rfl, rfl, rfl, rfl, rfl, idle_of _ rfl, ⟨by decide, rfl⟩, rfl, by decide,
    by decide, rfl, rfl, rfl⟩⟩

/-- The plan with step `k` running in this tick, its rooms done or not; its only output belongs to step 1. -/
def planK (k : Nat) (rooms : List Nat) : Plan :=
  { planA with run := some { k := k, cheaper := false, tick := 7, released := true, rooms := rooms } }

theorem wit_BoundariesAndSteps_finish :
    (∀ k rooms, alive { roomsA thB [] with plans := [planK k rooms] } = true ∧ getPlan { roomsA thB [] with plans := [planK k rooms] } keyA = some (planK k rooms)
      ∧ (planK k rooms).run = some { k := k, cheaper := false, tick := 7, released := true, rooms := rooms } ∧ (planK k rooms).skip = []
      ∧ (planK k rooms).stopped = false)
    ∧ stepDone { roomsA thB [] with plans := [planK 0 [5]] } keyA { k := 0, cheaper := false, tick := 7, released := true, rooms := [5] } = false
    ∧ stepDone { roomsA thB [] with plans := [planK 0 []] } keyA { k := 0, cheaper := false, tick := 7, released := true, rooms := [] } = true
    ∧ stepDone { roomsA thB [] with plans := [planK 1 []] } keyA { k := 1, cheaper := false, tick := 7, released := true, rooms := [] } = true
    ∧ 0 ≠ recompStep ∧ 1 ≠ recompStep ∧ 1 + 1 < stepCount (planK 1 [])
    ∧ stepOutputs (planK 0 []) { k := 0, cheaper := false, tick := 7, released := true, rooms := [] } = []
    ∧ ((planK 1 []).outs = [{ step := 1, outId := 4, promised := 8 }] ∧ (planK 1 []).body = some bodyA) :=
  ⟨fun _ _ => ⟨rfl, rfl, rfl, rfl, rfl⟩, by decide, by decide, by decide, by decide, by decide, by decide, by decide, ⟨rfl, rfl⟩⟩

/-- TokensAndBooks: a boiler of the eight sites' four, one behind them; a settlement with nobody over, and with one plan over by 5 mJ; an
audit that passes, one whose frame book of slice 2 fails, first and again. -/
def auditA (rhs : Int) (bad : List (Nat × Nat)) : State :=
  { devA with books := [{ book := 5, unit := 2, lhs := 0, rhs := rhs }], badBooks := bad, links := { State.reset.links with ports := [] } }

theorem wit_TokensAndBooks :
    alive devA = true ∧ devA.tick.begun = true ∧ (∀ d ∈ devA.pwr.dues, d.2.2.2 ≤ d.2.2.1)
    ∧ (let s := { devA with pwr := { devA.pwr with dues := [(keyA, 0, 10, 15)] } }
       alive s = true ∧ s.pwr.dues = [(keyA, 0, 10, 15)] ∧ 10 < 15)
    ∧ (∀ r b, alive (auditA r b) = true) ∧ (auditA 0 []).books ≠ [] ∧ failing (auditA 0 []) = [] ∧ failing (auditA 1 []) = [(5, 2)]
    ∧ (auditA 0 []).fullAudit = false ∧ ({ auditA 0 [] with fullAudit := true } : State).fullAudit = true
    ∧ (auditA 1 []).badBooks.contains (5, 2) = false ∧ (auditA 1 [(5, 2)]).badBooks.contains (5, 2) = true :=
  ⟨rfl, rfl, by decide, ⟨rfl, rfl, by decide⟩, fun _ _ => rfl, by decide, by decide, by decide, rfl, rfl, by decide, by decide⟩

/-! ## Witnesses of the statements about rooms, failures and links -/

/-- A plan whose step runs on room 5, its state captured; the spares of wing 0 as given. -/
def failS (spares : List Part) : State :=
  let s := roomsA { thA 1 2 3 with kept := some { regs := Vector.replicate 32 9, preds := 1, pc := 2, calls := [], reps := [], wall := {}, active := [] } } []
  { s with hw := { s.hw with retired := spares } }

theorem wit_RoomFailures :
    (∀ sp, roomServes (failS sp) 5 = true) ∧ pickSpare (failS []) (5 / 64) = some 64 ∧ pickSpare (failS [.room 0 64]) (5 / 64) = some 65
    ∧ pickSpare (failS [.room 0 64, .room 0 65]) (5 / 64) = none ∧ roomServes (failS []) 6143 = true ∧ plansOn (failS []) 6143 = []
    ∧ (failS []).recov = none ∧ (failS []).slideP = none ∧ (plansOn (failS []) 5).any (worksOn 5) = true
    ∧ (plansOn (failS []) 5 = [planA] ∧ (getTh (failS []) tidA).isSome = true ∧ thRec (failS []) tidA = some (recA 5) ∧ bodyA.images[0]? = some imgA
      ∧ imgA.restore = none ∧ worksOn 5 planA = true ∧ (openRun planA).any (·.late) = false ∧ (recA 5).room = 5) :=
  ⟨fun _ => rfl, by decide, by decide, by decide, rfl, by decide, rfl, rfl, by decide, ⟨rfl, rfl, rfl, rfl, rfl, rfl, rfl, rfl⟩⟩

/-- RoomFailures: a restore program under way; a free spare; a repair entry due; a recovery that may end, with work lost in this tick or
before it, and without. -/
def thRestore : Thread := { thA 1 2 3 with restore := true }

def resumeS (tick : Nat) (lost : Bool) : State :=
  { devA with recov := some { tick := tick, sysTick := 5, lost := lost, repairs := [{ part := .room 0 5, permanent := true }] } }

theorem wit_RoomFailures_recovery :
    (alive (roomsA thRestore []) = true ∧ getTh (roomsA thRestore []) tidA = some thRestore ∧ thRestore.restore = true ∧ (thA 1 2 3).restore = false)
    ∧ (inService devA = true ∧ spareFree devA 95 (64 + 1) = true)
    ∧ ({ devA with attic := { devA.attic with repairDue := [{ part := .room 0 64, permanent := true }] } } : State).attic.repairDue = [{ part := .room 0 64, permanent := true }]
    ∧ (∀ t l, alive (resumeS t l) = true ∧ mayResume (resumeS t l) { tick := t, sysTick := 5, lost := l, repairs := [{ part := .room 0 5, permanent := true }] } = true
      ∧ idle (resumeS t l) ∧ porchQuiet (resumeS t l) ∧ (resumeS t l).tick.released = true ∧ knownSlide (resumeS t l) 5 = 0)
    ∧ slideLength (resumeS 7 true) 7 ≠ 0 ∧ (resumeS 7 true).tick.num.toNat ≤ 7 ∧ slideLength (resumeS 6 true) 6 ≠ 0 ∧ 6 < (resumeS 6 true).tick.num.toNat
    ∧ devA.recov = none :=
  ⟨⟨rfl, rfl, rfl, rfl⟩, ⟨rfl, by decide⟩, rfl, fun _ _ => ⟨rfl, rfl, idle_of _ rfl, ⟨(by intro x hx; cases hx), rfl⟩, rfl, rfl⟩, by decide, by decide, by decide,
    by decide, rfl⟩

/-- HallDutyMoves and FailuresAndFailStop: no hall core failed, one failed, H15 retired; a floor core alone and the second of its floor;
records of class fail-stop; a device in fail-stop, its log saved or not. -/
def hallS (duty : Option Nat) (retired : List Part) : State := { devA with hw := { devA.hw with duty := duty, retired := retired } }

theorem wit_Failures :
    (∀ d r, alive (hallS d r) = true ∧ (hallS d r).dev.announced = false ∧ inService (hallS d r) = true)
    ∧ ((hallS none []).hw.retired.contains (.hallCore 14) = false ∧ (hallS none []).hw.duty = none ∧ (hallS none []).hw.retired.contains (.hallCore 15) = false)
    ∧ ((hallS (some 3) [.hallCore 3]).hw.duty.isSome = true ∧ (hallS (some 3) [.hallCore 3]).hw.retired.contains (.hallCore 4) = false)
    ∧ (hallS none [.hallCore 15]).hw.retired.contains (.hallCore 15) = true
    ∧ ((hallS none [.floorCore 7 3]).hw.retired.contains (.floorCore 7 2) = false ∧ (∃ n, n < 4 ∧ (hallS none [.floorCore 7 3]).hw.retired.contains (.floorCore 7 n) = true))
    ∧ (∀ n, n < 4 → (hallS none []).hw.retired.contains (.floorCore 7 n) = false) ∧ (∀ d r, (hallS d r).recov = none ∧ (hallS d r).slideP = none)
    ∧ roomServes devA 6143 = true ∧ faultSev (0x0505 : BitVec 16).toNat = 4
    ∧ (∀ sv an, let s := { devA with dev := { devA.dev with failstop := true, saved := sv, announced := an } }
        s.pwr.supply = true ∧ s.dev.failstop = true ∧ s.dev.saved = sv ∧ s.dev.announced = an) :=
  ⟨fun _ _ => ⟨rfl, rfl, rfl⟩, ⟨rfl, rfl, rfl⟩, ⟨rfl, rfl⟩, rfl, ⟨rfl, ⟨3, by decide, rfl⟩⟩, fun _ _ => rfl, fun _ _ => ⟨rfl, rfl⟩, rfl, by decide, fun _ _ => ⟨rfl, rfl, rfl, rfl⟩⟩

/-- The device with port 17 in a link state. -/
def portS (p : Port) : State :=
  { devA with dev := { devA.dev with bundle := some {} }, links := { devA.links with ports := devA.links.ports.set 17 p } }

/-- A HELLO or HELLO_ACK (first byte 1 or 2) of device 1 with the product and protocol given and bundle 1. -/
def helloX (kind product proto : Nat) : List Byte :=
  leBytes 4 8 ++ (leBytes (kind + proto * 2 ^ 8 + 1 * 2 ^ 20) 4 ++ leBytes product 4 ++ leBytes 7 8 ++ leBytes 1 4 ++ zeros 20) ++ zeros 204

theorem helloX_length (a b c : Nat) : (helloX a b c).length = 252 := by
  simp only [helloX, List.length_append, leBytes_length, zeros, List.length_replicate]

/-- The fabric_id of `helloX`'s sender already held by a device of another identity. -/
def helloConflict : State :=
  { portS { state := .hello } with links := { (portS { state := .hello }).links with routes := [{ fabric := 1, uid := 8, ports := [16] }] } }

/-- LinkTraining: TRAINING with a lane of the upper half lost, DOWN, HELLO with the flits of a tested and of an untested partner, before
and after the other one, and UP with lane 7 lost, with the lower half lost too, and out of use. -/
theorem wit_LinkTraining :
    (∀ p, alive (portS p) = true ∧ 17 < (portS p).links.ports.length ∧ getPort (portS p) 17 = p)
    ∧ (let p : Port := { state := .training, lost := [4] }
       p.state = .training ∧ 2 ≤ p.maxRate ∧ (∀ l ∈ p.lost, 4 ≤ l) ∧ (∃ l ∈ p.lost, 4 ≤ l))
    ∧ (∃ h, h < 2 ∧ ∀ l ∈ ({ state := .training, lost := [4] } : Port).lost, l / 4 ≠ h) ∧ (∃ h, h < 2 ∧ ∀ l ∈ ({ state := .training, lost := [3] } : Port).lost, l / 4 ≠ h)
    ∧ (∀ h, h < 2 → ∃ l ∈ ({ state := .training, lost := [3, 4] } : Port).lost, l / 4 = h)
    ∧ (∃ l ∈ ({ state := .training, lost := [3] } : Port).lost, l < 4)
    ∧ (let p : Port := { state := .down, mode := .native }
       p.state = .down ∧ p.mode ≠ .off)
    ∧ porchQuiet (portS { state := .hello })
    ∧ (∃ f, parseFlit (withCrc (helloX 1 ownProduct ownProto)) = some f ∧ f.kind = 4 ∧ getLE f.payload 0 1 = 1
      ∧ testedPair (portS { state := .hello }) { state := .hello } (partnerOf f.payload) = true
      ∧ idConflict (portS { state := .hello }) (partnerOf f.payload) = false ∧ idConflict helloConflict (partnerOf f.payload) = true)
    ∧ (({ state := .hello } : Port).unlisted + 1 < 5 ∧ 5 ≤ ({ state := .hello, unlisted := 4 } : Port).unlisted + 1)
    ∧ (∃ f, parseFlit (withCrc (helloX 1 0 0)) = some f ∧ f.kind = 4 ∧ getLE f.payload 0 1 = 1
      ∧ testedPair (portS { state := .hello }) { state := .hello } (partnerOf f.payload) = false)
    ∧ (∃ f, parseFlit (withCrc (helloX 2 ownProduct ownProto)) = some f ∧ f.kind = 4 ∧ getLE f.payload 0 1 = 2)
    ∧ (let p : Port := { state := .up }
       p.state = .up ∧ p.lost.contains 7 = false ∧ p.full = true ∧ ∀ l ∈ p.lost, l / 4 ≠ 1 - 7 / 4)
    ∧ (let p : Port := { state := .up, lost := [0] }
       p.lost.contains 7 = false ∧ p.full = true ∧ ∃ l ∈ p.lost, l / 4 = 1 - 7 / 4)
    ∧ (let p : Port := { state := .up, full := false, half := 0 }
       ¬(p.full = true ∨ 7 / 4 = p.half)) := by
  refine ⟨fun p => ⟨rfl, (by show 17 < 18; decide), rfl⟩, by decide, ⟨0, by decide⟩, ⟨1, by decide⟩, by decide, by decide, by decide, ⟨(by intro x hx; cases hx), rfl⟩, ?_, by decide, ?_, ?_, by decide, by decide, by decide⟩
  · obtain ⟨f, e, k, -, p⟩ := parse_withCrc_payload (helloX 1 ownProduct ownProto) (helloX_length ..) (by decide)
    refine ⟨f, e, k.trans (by decide), ?_, ?_, ?_, ?_⟩ <;> rw [p] <;> decide
  · obtain ⟨f, e, k, -, p⟩ := parse_withCrc_payload (helloX 1 0 0) (helloX_length ..) (by decide)
    refine ⟨f, e, k.trans (by decide), ?_, ?_⟩ <;> rw [p] <;> decide
  · obtain ⟨f, e, k, -, p⟩ := parse_withCrc_payload (helloX 2 ownProduct ownProto) (helloX_length ..) (by decide)
    refine ⟨f, e, k.trans (by decide), ?_⟩; rw [p]; decide

/-- A flit of a kind with a sequence number, its payload starting with a byte. -/
def flitX (kind seq op : Nat) : List Byte := leBytes (kind + seq * 2 ^ 24) 8 ++ leBytes op 4 ++ zeros 240

theorem flitX_length (a b c : Nat) : (flitX a b c).length = 252 := by
  simp only [flitX, List.length_append, leBytes_length, zeros, List.length_replicate]

/-- A message on port 17 from device 1 of a type, its data given. -/
def msgB (type : Nat) (data : List Byte) : Msg :=
  { port := 17, vc := 0, bytes := leBytes (0x1000 + type * 2 ^ 24) 4 ++ leBytes data.length 4 ++ zeros 8 ++ data }

/-- LinkTraffic: a port that is UP; flits of kinds 0, 1 in and out of order, 2, and 4 with ECHO, ECHO_REPLY and FAILSTOP; a broken flit. -/
theorem wit_LinkTraffic :
    (∀ p, alive (portS p) = true ∧ 17 < (portS p).links.ports.length ∧ getPort (portS p) 17 = p)
    ∧ (({ state := .up } : Port).state = .up ∧ ({ state := .up } : Port).queue = [] ∧ ({ state := .up } : Port).replay = [])
    ∧ (∃ f, parseFlit (withCrc (flitX 0 0 0)) = some f ∧ f.kind = 0)
    ∧ (∃ f, parseFlit (withCrc (flitX 1 0 0)) = some f ∧ f.kind = 1 ∧ f.seq = ({} : Port).rxSeq + 1)
    ∧ (∃ f, parseFlit (withCrc (flitX (1 + 2 ^ 7) 1 0)) = some f ∧ f.kind = 1 ∧ f.seq = 1 ∧ f.som = true ∧ msgSpan f.payload ≤ f.payload.length)
    ∧ (∃ f, parseFlit (withCrc (flitX 1 1 0)) = some f ∧ f.kind = 1 ∧ f.seq ≠ ({} : Port).rxSeq + 1)
    ∧ (∃ f, parseFlit (withCrc (flitX 2 0 0)) = some f ∧ f.kind = 2)
    ∧ (∀ op ∈ [3, 4, 5], ∃ f, parseFlit (withCrc (flitX 4 0 op)) = some f ∧ f.kind = 4 ∧ getLE f.payload 0 1 = op)
    ∧ parseFlit [] = none
    ∧ (∀ n ∈ [7, 8], let p : Port := { state := .up, replay := [{ seq := 1, vc := 0, som := true, payload := [], tries := n }] }
        p.replay ≠ [] ∧ p.queue = [] ∧ ((∀ t ∈ p.replay, t.tries < 8) ↔ n = 7) ∧ ((∃ t ∈ p.replay, 8 ≤ t.tries) ↔ n = 8))
    ∧ (let p : Port := { state := .up, mode := .ethernet }
       p.mode = .ethernet ∧ p.paused.contains 7 = false) := by
  refine ⟨fun p => ⟨rfl, (by show 17 < 18; decide), rfl⟩, by decide, ?_, ?_, ?_, ?_, ?_, ?_, rfl, by decide, by decide⟩
  · obtain ⟨f, e, k, -, -⟩ := parse_withCrc_payload (flitX 0 0 0) (flitX_length ..) (by decide)
    exact ⟨f, e, k.trans (by decide)⟩
  · obtain ⟨f, e, k, q, -⟩ := parse_withCrc_payload (flitX 1 0 0) (flitX_length ..) (by decide)
    exact ⟨f, e, k.trans (by decide), q.trans (by decide)⟩
  · obtain ⟨f, e, k, q, p⟩ := parse_withCrc_payload (flitX (1 + 2 ^ 7) 1 0) (flitX_length ..) (by decide)
    refine ⟨f, e, k.trans (by decide), q.trans (by decide), (parse_withCrc_som _ (flitX_length ..) f e).trans (by decide), ?_⟩
    have l : f.payload.length = 244 := by rw [p, List.length_drop, flitX_length]
    rw [l, p]; decide
  · obtain ⟨f, e, k, q, -⟩ := parse_withCrc_payload (flitX 1 1 0) (flitX_length ..) (by decide)
    exact ⟨f, e, k.trans (by decide), by rw [q]; decide⟩
  · obtain ⟨f, e, k, -, -⟩ := parse_withCrc_payload (flitX 2 0 0) (flitX_length ..) (by decide)
    exact ⟨f, e, k.trans (by decide)⟩
  · intro op h
    simp only [List.mem_cons, List.not_mem_nil, or_false] at h
    rcases h with rfl | rfl | rfl
    · obtain ⟨f, e, k, -, p⟩ := parse_withCrc_payload (flitX 4 0 3) (flitX_length ..) (by decide)
      exact ⟨f, e, k.trans (by decide), by rw [p]; decide⟩
    · obtain ⟨f, e, k, -, p⟩ := parse_withCrc_payload (flitX 4 0 4) (flitX_length ..) (by decide)
      exact ⟨f, e, k.trans (by decide), by rw [p]; decide⟩
    · obtain ⟨f, e, k, -, p⟩ := parse_withCrc_payload (flitX 4 0 5) (flitX_length ..) (by decide)
      exact ⟨f, e, k.trans (by decide), by rw [p]; decide⟩

/-- LinkTraffic: an acknowledgement that waits for its port; DELIVERED; a SLIDE by two ticks for this tick, for tick 6, and one heard
before; a FAILSTOP message; slide pending with ticks withheld. -/
def slideMsg (t : Nat) : Msg := msgB 2 (leBytes (1 + 1 * 2 ^ 8) 8 ++ leBytes t 8 ++ leBytes 2 8)

/-- Port 17 UP with one message received. -/
def msgS (m : Msg) : State := portS { state := .up, rxMsgs := [(0, m.bytes)] }

def slideS (t : Nat) (known : List (Nat × Tick × Nat)) : State := { msgS (slideMsg t) with slides := known }

theorem wit_LinkTraffic_messages :
    (let s := { portS { state := .up } with links := { (portS { state := .up }).links with deliv := [(1, 0, 0)], routes := [{ fabric := 1, uid := 7, ports := [17] }] } }
     s.links.deliv = [(1, 0, 0)] ∧ directPorts s 1 = [17] ∧ (∀ r ∈ s.links.routes, ∀ j ∈ r.ports, j < s.links.ports.length))
    ∧ (msgB 1 [0]).port = 17 ∧ arrived (msgS (msgB 1 [0])) (msgB 1 [0]) = true ∧ (getPort (msgS (msgB 1 [0])) 17).state = .up
    ∧ (getPort (msgS (msgB 1 [0])) 17).queue = [] ∧ msgDest (msgB 1 [0]) = (portS {}).dev.fabric.toNat ∧ msgType (msgB 1 [0]) = 1
    ∧ (∀ t ∈ [6, 7], msgNext (slideS t []) (slideMsg t) = true ∧ msgType (slideMsg t) = 2 ∧ getLE (msgData (slideMsg t)) 0 1 = 1
        ∧ sysToLocal (slideS t []) (BitVec.ofNat 48 (getLE (msgData (slideMsg t)) 8 6) : Tick).toNat = t ∧ 0 < getLE (msgData (slideMsg t)) 16 2)
    ∧ knownSlide (slideS 6 []) 6 = 0 ∧ knownSlide (slideS 7 []) 7 = 0 ∧ (slideS 7 []).tick.num.toNat = 7
    ∧ (slideS 7 []).slides.any (fun v => v.1 == fieldAt (msgData (slideMsg 7)) 0 8 12 && v.2.1 == 7) = false
    ∧ msgNext (slideS 7 [(1, 7, 2)]) (slideMsg 7) = true ∧ (slideS 7 [(1, 7, 2)]).slides.any (fun v => v.1 == fieldAt (msgData (slideMsg 7)) 0 8 12 && v.2.1 == 7) = true
    ∧ (msgNext (msgS (msgB 3 [])) (msgB 3 []) = true ∧ msgType (msgB 3 []) = 3 ∧ idle (msgS (msgB 3 [])) ∧ porchQuiet (msgS (msgB 3 []))
      ∧ (msgS (msgB 3 [])).slideP = none ∧ (msgS (msgB 3 [])).links.ports.length = 18 ∧ ∀ r ∈ (msgS (msgB 3 [])).links.routes, ∀ j ∈ r.ports, j < 18)
    ∧ (let s := { devA with slideP := some (5, 1000) }
       alive s = true ∧ s.slideP = some (5, 1000) ∧ withheld s 5 = 2 ∧ withheld s 7 = 0) :=
  ⟨⟨rfl, rfl, by decide⟩, rfl, by decide, rfl, rfl, by decide, by decide, by decide, by decide, by decide, rfl, by decide, by decide, by decide,
    ⟨by decide, by decide, idle_of _ rfl, ⟨(by intro x hx; cases hx), rfl⟩, rfl, rfl, by decide⟩, ⟨rfl, rfl, by decide, by decide⟩⟩

/-- PowerAndSupply: 104.9, 105.0, 115.0 °C and 102.9 °C everywhere; a droop on floor 7; a set point quiet for 1,000 ticks; PERST# held and
released, the supply off and on. -/
def upS (perst supply : Bool) (cfg : Option Cfg) : State :=
  { State.reset with pwr := { State.reset.pwr with perst := perst, supply := supply }, attic := { State.reset.attic with cfg0 := cfg } }

theorem wit_PowerAndSupply :
    alive devA = true ∧ 7 < devA.pwr.temps.length ∧ devA.pwr.temps.length = 8 ∧ devA.pwr.temps.getD 7 0 < 1050
    ∧ (∀ v ∈ upd devA.pwr.temps 7 (fun _ => 1029), v < 1030) ∧ devA.pwr.array = true ∧ (∀ d ∈ devA.pwr.droops, d.1 ≠ 7)
    ∧ ({ devA.pwr with droops := [(7, 1000)] } : Pwr).droops = [(7, 1000)]
    ∧ (let p : Pwr := { devA.pwr with quiet := List.replicate 8 1000, setPoint := List.replicate 8 710 }
       1000 ≤ p.quiet.getD 7 0 ∧ 700 < p.setPoint.getD 7 700) ∧ devA.pwr.quiet.getD 7 0 < 1000
    ∧ devA.pwr.supply = true ∧ devA.pwr.perst = false ∧ (upS true true none).pwr.perst = true ∧ (upS true false none).pwr.supply = false
    ∧ (let s := upS true true (some {})
       s.pwr.supply = true ∧ s.attic.cfg0 = some {} ∧ s.attic.cfg1 = none ∧ cfgValid s {} = true ∧ repairMap s.attic = []
       ∧ (slotOfBundle s ({} : Cfg).bootSlot).any (fun g => decide (({} : Cfg).minSvn.toNat ≤ g.svn.toNat)) = true) :=
  ⟨rfl, by decide, rfl, by decide, by decide, rfl, by decide, rfl, by decide, by decide, rfl, rfl, rfl, rfl, by decide⟩

/-- FirmwareSlotAtStart: the named slot, the other one, and none valid. -/
theorem wit_FirmwareSlotAtStart :
    let cfg : Cfg := { minSvn := 1 }
    let s := fun (a b : Option Bundle) => { upS true true (some cfg) with attic := { State.reset.attic with cfg0 := some cfg, slot0 := a, slot1 := b } }
    (∀ a b, (s a b).pwr.supply = true ∧ (s a b).pwr.perst = true
      ∧ chooseCfg ((s a b).attic.cfg0.filter (cfgValid (s a b))) ((s a b).attic.cfg1.filter (cfgValid (s a b))) = some false
      ∧ (s a b).attic.cfg0.filter (cfgValid (s a b)) = some cfg)
    ∧ (slotOfBundle (s (some { svn := 1 }) none) cfg.bootSlot).filter (fun g => decide (cfg.minSvn.toNat ≤ g.svn.toNat)) = some { svn := 1 }
    ∧ (slotOfBundle (s (some { svn := 0 }) (some { svn := 2 })) cfg.bootSlot).filter (fun g => decide (cfg.minSvn.toNat ≤ g.svn.toNat)) = none
    ∧ (slotOfBundle (s (some { svn := 0 }) (some { svn := 2 })) (!cfg.bootSlot)).filter (fun g => decide (cfg.minSvn.toNat ≤ g.svn.toNat)) = some { svn := 2 }
    ∧ (slotOfBundle (s none none) (!cfg.bootSlot)).filter (fun g => decide (cfg.minSvn.toNat ≤ g.svn.toNat)) = none :=
  ⟨fun _ _ => ⟨rfl, rfl, rfl, rfl⟩, by decide, by decide, by decide, by decide⟩

/-- StepRunsFront, CommandFrames and StepKeepsMemoryForm: a queue of one command, whose step answers a next state from a well-formed one. -/
theorem wit_Steps :
    MemOk { State.reset with pending := [.serviceResume 5] } = true
    ∧ step { State.reset with pending := [.serviceResume 5] } = exec (.serviceResume 5) State.reset
    ∧ exec (.serviceResume 5) State.reset = .next State.reset ∧ State.reset.pending = [] := ⟨rfl, rfl, rfl, rfl⟩

/-! ## Ill-formed commands

For each check of `Instr.wf`, a command that fails it alone, with the last one that it admits. -/

def tidX (ctx id room : Nat) : Tid := { key := { ctx := ctx, id := id }, room := room }

theorem test_wf_programs :
    (Instr.stepEnd (tidX 16383 65535 6143) (insA 0 0 0 0)).wf = true ∧ (Instr.stepEnd (tidX 16384 0 0) (insA 0 0 0 0)).wf = false
    ∧ (Instr.sadd (tidX 0 65536 0) (insA 0 0 0 0)).wf = false ∧ (Instr.mmaF (tidX 0 0 6144) (insA 0 0 0 0)).wf = false
    ∧ (Instr.haloLand (tidX 0 0 0) 3).wf = true ∧ (Instr.haloLand (tidX 0 0 0) 4).wf = false ∧ (Instr.walkChunkLand (tidX 0 0 0) 4).wf = false
    ∧ (Instr.instructionComplete (tidX 0 0 0) 6).wf = true ∧ (Instr.instructionComplete (tidX 0 0 0) 7).wf = false := by decide

theorem test_wf_host :
    (Instr.crOpen 63 0).wf = true ∧ (Instr.crOpen 64 0).wf = false ∧ (Instr.nop (desc 16384 0 0 0 0 0 0 0)).wf = false
    ∧ (Instr.registerWrite 0 2097151 4 0 0).wf = true ∧ (Instr.registerWrite 0 2097152 4 0 0).wf = false ∧ (Instr.registerWrite 0 0 9 0 0).wf = false
    ∧ (Instr.msixModWrite 0 31 0).wf = true ∧ (Instr.msixModWrite 0 32 0).wf = false ∧ (Instr.contextAssignWrite 0 4 0).wf = false
    ∧ (Instr.doorbellSqCq 0 1048576 4 0).wf = false ∧ (Instr.hostAccessFail (.sqRead 16384) .abort 0).wf = false
    ∧ (Instr.doeSpdmRequest (.getCertificate 8)).wf = false ∧ (Instr.vfEnableWrite true 63).wf = true ∧ (Instr.vfEnableWrite true 64).wf = false
    ∧ (Instr.planAdmission { ctx := 0, id := 65536 }).wf = false ∧ (Instr.codecEngine 16).wf = false ∧ (Instr.codecJobStart 0 256).wf = false
    ∧ (Instr.imageLoadComplete 0 4294967296 none).wf = false := by decide

theorem test_wf_module :
    (Instr.boilerSample 3 []).wf = true ∧ (Instr.boilerSample 4 []).wf = false ∧ (Instr.roomHw 0 11 true []).wf = true ∧ (Instr.roomHw 0 12 true []).wf = false
    ∧ (Instr.roomWatchdogTimeout 6144).wf = false ∧ (Instr.spareSelfTest 95 1 true).wf = true ∧ (Instr.spareSelfTest 96 0 true).wf = false
    ∧ (Instr.spareSelfTest 0 2 true).wf = false ∧ (Instr.floorCoreFailure 7 3 true).wf = true ∧ (Instr.floorCoreFailure 8 0 true).wf = false
    ∧ (Instr.hallCoreFailure 16).wf = false ∧ (Instr.dieFail 3 5).wf = true ∧ (Instr.dieFail 3 6).wf = false ∧ (Instr.dieFail 7 0).wf = false
    ∧ (Instr.memoryEccEvent .cellar 0 true).wf = true ∧ (Instr.memoryEccEvent (.pantryClean 96) 0 true).wf = false
    ∧ (Instr.patrolScrub 16 0 0).wf = false ∧ (Instr.failstop 0x0507 0 0).wf = true ∧ (Instr.failstop 0x0508 0 0).wf = false ∧ (Instr.failstop 0x04FF 0 0).wf = false
    ∧ (Instr.thermalEvent 7 0).wf = true ∧ (Instr.thermalEvent 8 0).wf = false ∧ (Instr.pldmSensorRead (.junction 8)).wf = false
    ∧ (Instr.perstRelease 0 { identityOk := true, lostChannels := [(0, 96)], failedParts := [] }).wf = false
    ∧ (Instr.perstRelease 0 { identityOk := true, lostChannels := [], failedParts := [.room 0 66] }).wf = false := by decide

theorem test_wf_ports :
    (Instr.helloSend 17).wf = true ∧ (Instr.helloSend 18).wf = false ∧ (Instr.trainingComplete 0 true 2 1).wf = true ∧ (Instr.trainingComplete 0 true 3 0).wf = false
    ∧ (Instr.trainingComplete 0 true 0 2).wf = false ∧ (Instr.nak 0 []).wf = false ∧ (Instr.laneLost 0 7).wf = true ∧ (Instr.laneLost 0 8).wf = false
    ∧ (Instr.priorityFlowControl 0 8).wf = false ∧ (Instr.slide { port := 0, vc := 8, bytes := zeros 16 }).wf = false
    ∧ (Instr.slide { port := 0, vc := 0, bytes := zeros 15 }).wf = false ∧ (Instr.slide { port := 0, vc := 7, bytes := zeros 16 }).wf = true := by decide

/-! ## Single steps

What a command leaves, from the rule that the test names. -/

/-- The command answers a next state with this property. -/
def gives (c : Instr) (s : State) (p : State → Bool) : Bool :=
  match exec c s with
  | .next u => p u
  | _ => false

/-- A scalar register of room 5's program. -/
def sOf (u : State) (n : Nat) : DWord := (getTh u tidA).elim 0 (fun x => sReg x n)

/-- R140: SADD wraps at 64 bits. -/
theorem test_sadd_wraps : gives (.sadd tidA (insA 4 1 2 0)) (roomsA (thA 0xFFFFFFFFFFFFFFFF 1 0) []) (fun u => sOf u 4 == 0) = true := by decide

/-- R140: SSHR is arithmetic and takes the low 6 bits of its count: 65 shifts by 1. -/
theorem test_sshr_count :
    gives (.sshr tidA (insA 4 1 2 0)) (roomsA (thA 0x8000000000000000 65 0) []) (fun u => sOf u 4 == 0xC000000000000000) = true := by decide

/-- R140: SMIN compares signed. -/
theorem test_smin_signed :
    gives (.smin tidA (insA 4 1 2 0)) (roomsA (thA 0xFFFFFFFFFFFFFFFF 1 0) []) (fun u => sOf u 4 == 0xFFFFFFFFFFFFFFFF) = true := by decide

/-- R137: a write to s0 is discarded. -/
theorem test_s0_discards : gives (.sli tidA (insA 0 0 0 9)) (roomsA (thA 0 0 0) []) (fun u => sOf u 0 == 0) = true := by decide

/-- R140: SLI extends the sign. -/
theorem test_sli_sign :
    gives (.sli tidA (insA 4 0 0 0xFFFFFFFE)) (roomsA (thA 0 0 0) []) (fun u => sOf u 4 == 0xFFFFFFFFFFFFFFFE) = true := by decide

/-- R140: SCMP 4 compares unsigned, into p3. -/
theorem test_scmp_unsigned :
    gives (.scmp tidA (insA 3 1 2 4)) (roomsA (thA 1 0xFFFFFFFFFFFFFFFF 0) []) (fun u => (getTh u tidA).any (fun x => predBit x.preds 3)) = true := by
  decide

/-- R140: JUMP adds its immediate to the next program counter. -/
theorem test_jump : gives (.jump tidA (insA 0 0 0 5)) (roomsA (thA 0 0 0) []) (fun u => (getTh u tidA).any (fun x => x.pc == 6)) = true := by decide

/-- R140: an empty REPEAT skips its body. -/
theorem test_repeat_zero : gives (.repeatLoop tidA (insA 0 0 0 3)) (roomsA (thA 0 0 0) []) (fun u => (getTh u tidA).any (fun x => x.pc == 4)) = true := by
  decide

/-- R156: TRAP stops the room and logs 0x0102 with the program counter. -/
theorem test_trap :
    gives (.trap tidA (insA 0 0 0 7)) (roomsA (thA 0 0 0) []) (fun u => (getTh u tidA).any (fun x => x.stat == .refused)
      && (u.flog.newest.head?).any (fun r => r.code == 0x0102 && r.d1 == 7)) = true := by decide

/-- R148, R162: 1.0 + 1.5 in every lane. -/
theorem test_vadd :
    gives (.vadd tidA (insA 3 1 2 0))
      (roomsA { thA 0 0 0 with vregs := ((Vector.replicate 32 (List.replicate 64 (0 : Word))).setIfInBounds 1 (List.replicate 64 0x3F800000)).setIfInBounds 2 (List.replicate 64 0x3FC00000) } [])
      (fun u => (getTh u tidA).any (fun x => vReg x 3 == List.replicate 64 0x40200000)) = true := by decide +kernel

/-- R148: VRED of 64 lanes of 1.0 is 64.0 (0x42800000). -/
theorem test_vred_sum :
    gives (.vred tidA (insA 4 1 0 0)) (roomsA { thA 0 0 0 with vregs := (Vector.replicate 32 (List.replicate 64 (0 : Word))).setIfInBounds 1 (List.replicate 64 0x3F800000) } [])
      (fun u => sOf u 4 == 0x42800000) = true := by decide +kernel

/-- R196: the first empty WALL_PUT moves the step register from 1 to 2. -/
theorem test_wall_step : gives (.wallPut tidA (insA 0 0 0 2)) (roomsA (thA 0 0 0) []) (fun u => (getTh u tidA).any (fun x => x.wall.step == 2)) = true := by
  decide

/-- R152: FLAG_SET stores its 8 bytes, the least significant first. -/
theorem test_flag_set :
    gives (.flagSet tidA (insA 0 1 2 0)) (roomsA (thA 8 0x0102 0) []) (fun u => readVa u 3 8 8 == [2, 1, 0, 0, 0, 0, 0, 0]) = true := by decide +kernel

/-- R28: the boundary numbers the next tick, and the next one follows 100,000 ns later. -/
theorem test_boundary :
    gives .tickBoundary devA (fun u => u.tick.num == 8 && u.tick.nextB == some (1601000 + 1600000) && !u.tick.released) = true := by decide

/-- R39: TICK_ENABLE with INTERNAL runs at once, the first boundary 10 µs later. -/
theorem test_tick_enable :
    gives (.tickEnable 800 1) (tickIn .stopped 0) (fun u => u.tick.state == .running && u.tick.nextB == some (800 + 16000)) = true := by decide

/-- R42: a period of 9,999 ns is refused. -/
theorem test_period_refused :
    gives (.tickPeriodWrite 9999) (tickIn .stopped 0) (fun u => u.tick.wrRefused.set && u.tick.period == 100000) = true := by decide

/-- R421: PWR_CAP of 1,490 W is refused. -/
theorem test_cap_refused : gives (.pwrCapWrite (149 + 850 * 2 ^ 16)) devA (fun u => u.pwr.wrRefused.set && u.pwr.cap == 0x035202BC) = true := by decide

/-- R97, R103: NOP takes its descriptor and one slot of the completion ring. -/
theorem test_nop : gives (.nop (desc 3 0 0 0 0 0 0 0)) (ringsA ctxA) (fun u => (getCtx u 3).sqHead == 1 && (getCtx u 3).cq.used == 1) = true := by
  decide

/-- R113: TICK_WAIT for the coming tick waits. -/
theorem test_tick_wait : gives (.tickWait (desc 3 0 8 0 0 0 0 0)) (ringsA ctxA) (fun u => (getCtx u 3).opens.length == 1) = true := by decide

/-- R114: CTX_OPEN opens context 5. -/
theorem test_ctx_open : gives (.ctxOpen (openD 5 6)) (ctxsA []) (fun u => (getCtx u 5).state == .opened && (getCtx u 5).sqBase == 0x10000) = true := by
  decide

/-- R65, R68: the plan of the hand-made binary starts at tick 9, two ticks after this one. -/
theorem test_plan_admission :
    gives (.planAdmission keyA) (decideA planDesc) (fun u => (getPlan u keyA).any (fun p => p.t0 == 9 && p.phase == .admitted)) = true := by
  decide +kernel

/-- R400: room 5 moves to the spare S0 (slot 64). -/
theorem test_room_failure : gives (.roomHw 5 0 true []) (failS []) (fun u => slotOf u 5 == 64 && u.recov.isSome) = true := by decide

/-- R40: H15 takes the duty of hall core 3. -/
theorem test_hall_core : gives (.hallCoreFailure 3) devA (fun u => u.hw.duty == some 3) = true := by decide

/-- R424: 115.0 °C stops the device with 0x0505 and takes the ARRAY rails away. -/
theorem test_thermal_trip :
    gives (.thermalEvent 0 1150) devA (fun u => u.dev.failstop && u.dev.failCode == 0x0505 && !u.pwr.array) = true := by decide

/-- R413: the announcement carries the system tick of the trigger, whatever the tick is when it is made. -/
theorem test_failstop_tick :
    gives (.failstop 0x0504 0 0) { devA with tick := { devA.tick with num := 9 } } (fun u => u.dev.failTick == 9) = true
    ∧ (failstopData { devA with dev := { devA.dev with failTick := 9 }, tick := { devA.tick with num := 12 } })[8]? = some 9 := by decide

/-- R405, R427: both copies of the repair map take the entry, copy 1 first, each numbered one above the other. -/
theorem test_repair_copies :
    gives .repairMapWrite { devA with attic := { devA.attic with repairDue := [{ part := .hallCore 3, permanent := true }] } } (fun u =>
      u.attic.rep1 == some { seq := 1, entries := [{ part := .hallCore 3, permanent := true }] }
      && u.attic.rep0 == some { seq := 2, entries := [{ part := .hallCore 3, permanent := true }] }) = true := by decide

/-- R450, R467: PWR_INPUT shows the mean input power of the last ended tick; the selected IDCODE is 0x1074_01EB. -/
theorem test_input_and_idcode :
    pwrWord { devA with pwr := { devA.pwr with input := 6200 } } 0x3118 = 6200
    ∧ jtagData { devA with dev := { devA.dev with jtag := .idcode } } = some (32, 0x107401EB) := by decide

/-- R310: a lane lost in the half in use, the other one sound: the port retrains there. -/
theorem test_lane_lost :
    gives (.laneLost 17 7) (portS { state := .up }) (fun u => (getPort u 17).state == .training && !(getPort u 17).full && (getPort u 17).half == 0) = true := by
  decide

/-- R425: a release of PERST# with a sound module enters service, ENABLE 1,060 ms later. -/
theorem test_perst_release :
    gives (.perstRelease 0 { identityOk := true, lostChannels := [], failedParts := [] }) (upS true true (some {}))
      (fun u => u.dev.state == .inService && u.now == 1696000000 && wbit u.tick.ctl 0) = true := by decide +kernel

/-- With no command waiting the block idles (log entry 9). -/
theorem test_idle : step State.reset = .next State.reset := rfl

end Sys2Proof.Tests
end

section
/-! PROOFS. O29: the write of a register of W1C flags (R8), flag by flag and register by register. -/
namespace Sys2Proof.Proofs.StatusFlags

open Sys2Proof Sys2Proof.Machine Sys2Proof.Laws

/-! ## One flag -/

/-- R8 of the flag at bit `i` of a register that `v` is written to, in a cycle in which hardware sets the flags of `hw`. -/
def W1cRule (v hw : Word) (i : Nat) (old new : Flag) : Prop :=
  (wbit hw i = true → new.set = true ∧ new.count = satInc old.count)
  ∧ (wbit hw i = false → wbit v i = true → new.set = false ∧ new.count = old.count)
  ∧ (wbit hw i = false → wbit v i = false → new = old)

theorem w1c_of_hw (f : Flag) (w : Bool) : w1c f w true = hitFlag f := rfl
theorem w1c_of_clear (f : Flag) : w1c f true false = { f with set := false } := rfl
theorem w1c_of_neither (f : Flag) : w1c f false false = f := rfl

/-- Hardware's set is looked at before the written bit, so it wins over the clear. -/
theorem w1cRule_w1c (v hw : Word) (i : Nat) (f : Flag) : W1cRule v hw i f (w1c f (wbit v i) (wbit hw i)) := by
  refine ⟨fun hset => ?_, fun hset hclr => ?_, fun hset hclr => ?_⟩
  · rw [hset, w1c_of_hw]; exact ⟨rfl, rfl⟩
  · rw [hset, hclr, w1c_of_clear]; exact ⟨rfl, rfl⟩
  · rw [hset, hclr, w1c_of_neither]

/-! ## One register -/

theorem getFn_modFn_eq (s : State) (f : Nat) (g : FnPage → FnPage) : getFn (modFn s f g) f = g (getFn s f) :=
  getFn_setFn_eq

theorem exec_w1cFlagClear_of_open {s : State} {f : Nat} (hopen : barOpen s f = true) (off : Nat) (v hw : Word) :
    exec (.w1cFlagClear f off v hw) s = .next (w1cWrite s f off v hw) :=
  congrArg Host.Outcome.next (if_pos hopen)

/-- R439: `HOST_STAT` of any function. -/
theorem getFn_w1cWrite_hostStat (s : State) (f : Nat) (v hw : Word) :
    getFn (w1cWrite s f 0x008 v hw) f = w1cHost (getFn s f) v hw :=
  getFn_modFn_eq s f (fun p => w1cHost p v hw)

/-- R448: `ASSIGN_STAT`. -/
theorem assignErr_w1cWrite_assignStat (s : State) (v hw : Word) :
    (w1cWrite s 0 0x2000 v hw).dev.assignErr = w1c s.dev.assignErr (wbit v 0) (wbit hw 0) := rfl

/-- R43, R456: `TICK_STAT`, outside the recovery state. -/
theorem tick_w1cWrite_tickStat {s : State} (hrec : s.dev.state ≠ .recovery) (v hw : Word) :
    (w1cWrite s 0 0x3008 v hw).tick = w1cTick s.tick v hw := by
  simp [w1cWrite, hrec]

/-- R422, R456: `PWR_STAT`, outside the recovery state. -/
theorem pwr_w1cWrite_pwrStat {s : State} (hrec : s.dev.state ≠ .recovery) (v hw : Word) :
    (w1cWrite s 0 0x3104 v hw).pwr = w1cPwr s.pwr v hw := by
  simp [w1cWrite, hrec]

/-! ## The statement -/

/-- Settles O29: each of the four registers holds after the write what `w1c` makes of each of its flags, and `w1c` keeps R8. -/
theorem statusFlagClears : Obligations.StatusFlagClears := by
  intro fn v hw s hopen
  have rule := w1cRule_w1c v hw
  refine ⟨⟨_, exec_w1cFlagClear_of_open hopen _ v hw, ?_⟩, ?assignStat, ?tickStat, ?pwrStat⟩
  · rw [getFn_w1cWrite_hostStat]
    exact ⟨rule 0 _, rule 1 _, rule 2 _, rule 3 _⟩
  case assignStat =>
    rintro rfl
    exact ⟨_, exec_w1cFlagClear_of_open hopen _ v hw, rule 0 _⟩
  case tickStat =>
    rintro rfl hrec
    refine ⟨_, exec_w1cFlagClear_of_open hopen _ v hw, ?_⟩
    rw [tick_w1cWrite_tickStat hrec]
    exact ⟨rule 8 _, rule 9 _, rule 10 _, rule 11 _, rule 12 _⟩
  case pwrStat =>
    rintro rfl hrec
    refine ⟨_, exec_w1cFlagClear_of_open hopen _ v hw, ?_⟩
    rw [pwr_w1cWrite_pwrStat hrec]
    exact ⟨rule 8 _, rule 9 _, rule 10 _, rule 11 _⟩

end Sys2Proof.Proofs.StatusFlags
end

section
/-! PROOFS. O55: a hall-core duty moves to H15 (R19), and the timebase and the watches go on (R40). -/
namespace Sys2Proof.Proofs.HallDuty

open Sys2Proof Sys2Proof.Machine Sys2Proof.Laws

/-! ## The timebase at a boundary -/

/-- R28: everything but the tick generator and the clock. -/
def offTimebase : Touch :=
  { pending := true, free := true, dev := true, pwr := true, fns := true, ctxs := true, tags := true, plans := true,
    threads := true, preds := true, tables := true, frames := true, decs := true, pins := true, limbo := true, flog := true,
    hw := true, recov := true, slideP := true, slides := true, resumeAt := true, slideDue := true, books := true,
    badBooks := true, fullAudit := true, links := true, attic := true, mem := true, host := true }

theorem timebase_of_keep {s t : State} (h : Keep offTimebase s t) : t.tick = s.tick ∧ t.now = s.now :=
  ⟨congrArg (fun u => u.tick) h.1, congrArg (fun u => u.now) h.1⟩

/-- R38, R45: the time of the boundary that comes, where one does. -/
def comingB (s : State) : Option Nat := if tickOn s && ticking s.tick && s.tick.released then s.tick.nextB else none

theorem comingB_eq_some {s : State} {b : Nat} (h : comingB s = some b) :
    tickOn s = true ∧ ticking s.tick = true ∧ s.tick.released = true ∧ s.tick.nextB = some b := by
  obtain ⟨hif, hb⟩ := Option.ite_none_right_eq_some.mp h
  simp only [Bool.and_eq_true] at hif
  obtain ⟨⟨hon, hticks⟩, hrel⟩ := hif
  exact ⟨hon, hticks, hrel, hb⟩

theorem comingB_congr {s u : State} (htick : u.tick = s.tick) (hdev : u.dev = s.dev) (hpwr : u.pwr = s.pwr) :
    comingB u = comingB s := by
  unfold comingB tickOn
  rw [htick, hdev, hpwr]

theorem boundary_of_noB {s : State} (h : comingB s = none) : boundary s = s := by
  unfold boundary
  split
  · rfl
  · next b hb =>
    have hstill : (tickOn s && ticking s.tick && s.tick.released) = false :=
      Bool.eq_false_iff.mpr fun hcomes => by simp only [comingB, hcomes, if_true, hb, reduceCtorEq] at h
    rw [← Bool.not_and, ← Bool.not_and, hstill]
    rfl

/-- R28: the state in which a tick begins has the generator's next state, and its clock stands at the boundary. -/
theorem beginTick_timebase (s : State) (b : Nat) : (beginTick s b).tick = (genBoundary s.tick b).1 ∧ (beginTick s b).now = b := by
  unfold beginTick tickEvent
  dsimp only
  split <;> exact ⟨rfl, rfl⟩

/-- What happens before the new tick begins (`x`) and after (`t`) leaves the timebase to `beginTick`. -/
theorem timebase_of_beginTick {s x t : State} {b : Nat} (hx : Keep offTimebase s x) (ht : Keep offTimebase (beginTick x b) t) :
    t.tick = (genBoundary s.tick b).1 ∧ t.now = b := by
  obtain ⟨htick, hnow⟩ := timebase_of_keep ht
  obtain ⟨gtick, gnow⟩ := beginTick_timebase x b
  rw [htick, hnow, gtick, gnow, (timebase_of_keep hx).1]
  exact ⟨rfl, rfl⟩

/-- R28, R45: a boundary sets the timebase from the generator alone, whatever else it finds. -/
theorem boundary_timebase {s : State} {b : Nat} (h : comingB s = some b) :
    (boundary s).tick = (genBoundary s.tick b).1 ∧ (boundary s).now = b := by
  obtain ⟨hon, hticks, hrel, hb⟩ := comingB_eq_some h
  have latched : ∀ x n len, Keep offTimebase (beginTick x b) (newTick (latchBooks (beginTick x b) n) n len) :=
    fun x n len => newTick_keep rfl (latchBooks_keep rfl (keep_refl _ _))
  have ended : ∀ n, Keep offTimebase s (endTick (closeTick s n) n) :=
    fun n => endTick_keep rfl (closeTick_keep rfl (keep_refl _ _))
  simp only [boundary, hb, hon, hticks, hrel, Bool.not_true, Bool.or_self, Bool.false_eq_true, if_false]
  split
  · exact timebase_of_beginTick (keep_refl _ s) (sendMarkers_keep rfl (keep_refl _ _))
  · split
    · exact timebase_of_beginTick (ended _) (latched _ _ _)
    · exact timebase_of_beginTick (keep_refl _ s) (latched _ _ _)

/-- States that agree in generator, clock, device and supply agree in generator and clock after the boundary. -/
theorem boundary_timebase_congr {s u : State} (htick : u.tick = s.tick) (hnow : u.now = s.now) (hdev : u.dev = s.dev)
    (hpwr : u.pwr = s.pwr) : (boundary u).tick = (boundary s).tick ∧ (boundary u).now = (boundary s).now := by
  have hB : comingB u = comingB s := comingB_congr htick hdev hpwr
  cases hs : comingB s with
  | none =>
    rw [boundary_of_noB hs, boundary_of_noB (hB.trans hs)]
    exact ⟨htick, hnow⟩
  | some b =>
    obtain ⟨stick, snow⟩ := boundary_timebase hs
    obtain ⟨utick, unow⟩ := boundary_timebase (hB.trans hs)
    rw [utick, stick, unow, snow, htick]
    exact ⟨rfl, rfl⟩

/-! ## The move of the duty -/

theorem exec_hallCoreFailure (core : Nat) (s : State) : exec (.hallCoreFailure core) s = .next (hallCoreFail s core) := rfl

theorem exec_tickBoundary (s : State) : exec .tickBoundary s = .next (boundary s) := rfl

/-- R405: the entry that the failed core leaves for the repair map. -/
def coreRepair (s : State) (core : Nat) : Repair := { part := .hallCore core, permanent := isPermanent s (.hallCore core) false }

/-- R19, R405: the recovery that a duty's move starts or joins. -/
def addMove (core : Nat) (fix : Repair) (r : Recov) : Recov := { r with hall := some core, repairs := r.repairs ++ [fix] }

/-- R19: the failed core is retired, its record logged, its duty H15's. -/
def dutyMoved (s : State) (core : Nat) : State :=
  let s1 := logFault (retire s (.hallCore core)) { code := 0x0202, d0 := core, d1 := core }
  joinRecov { s1 with hw := { s1.hw with duty := some core } } (addMove core (coreRepair s core))

/-- R19, R40: a move enters the failed core and the recovery; what a boundary and the watches read is as before. -/
theorem dutyMoved_fields (s : State) (core : Nat) :
    let u := dutyMoved s core
    u.hw = { s.hw with retired := s.hw.retired ++ [.hallCore core], duty := some core }
      ∧ u.tick = s.tick ∧ u.now = s.now ∧ u.dev = s.dev ∧ u.pwr = s.pwr ∧ u.plans = s.plans ∧ u.threads = s.threads
      ∧ u.slideP = s.slideP
      ∧ u.recov = some (addMove core (coreRepair s core) (s.recov.getD { tick := s.tick.num.toNat, sysTick := sysTick s, lost := false })) :=
  ⟨rfl, rfl, rfl, rfl, rfl, rfl, rfl, rfl, rfl⟩

/-- R19: where H15 stands by, a hall core's failure moves its duty. -/
theorem hallCoreFail_of_standby {s : State} {core : Nat} (halive : alive s = true) (hcore : core < 15)
    (hsound : s.hw.retired.contains (.hallCore core) = false) (hduty : s.hw.duty = none)
    (h15 : s.hw.retired.contains (.hallCore 15) = false) :
    hallCoreFail s core = dutyMoved s core := by
  have hrange : ¬ 16 ≤ core := by omega
  have hother : core ≠ 15 := by omega
  simp only [hallCoreFail, halive, hrange, hsound, hduty, h15, hother, Option.isSome_none, Bool.not_true, decide_false, Bool.or_self,
    Bool.false_eq_true, if_false]
  rfl

/-! ## The watches -/

/-- R40, R76: a recovery that lost no work and touches no room puts no watch off. -/
theorem decideTick_of_idleRecov {s : State} {r : Recov} (hslide : s.slideP = none) (hrec : s.recov = some r) (hlost : r.lost = false)
    (hrooms : r.rooms = []) (n : Nat) : decideTick s n = watch s n := by
  simp [decideTick, hslide, hrec, hlost, hrooms]

/-! ## The statement -/

/-- Settles O55: of what the move changes, the timebase of a boundary reads nothing, and its recovery puts no watch off. -/
theorem hallDutyMoves : Obligations.HallDutyMoves := by
  intro core s halive hcore hsound hduty h15
  have hexec := (exec_hallCoreFailure core s).trans (congrArg Host.Outcome.next (hallCoreFail_of_standby halive hcore hsound hduty h15))
  obtain ⟨hw, htick, hnow, hdev, hpwr, hplans, hthreads, hslideP, hrecov⟩ := dutyMoved_fields s core
  generalize dutyMoved s core = u at *
  obtain ⟨vtick, vnow⟩ := boundary_timebase_congr htick hnow hdev hpwr
  refine ⟨u, hexec, by rw [hw], by rw [hw], htick, hplans, hthreads, hnow, hdev,
    _, _, exec_tickBoundary u, exec_tickBoundary s, vtick, vnow, fun hrec hslide n => ?_⟩
  rw [hrec] at hrecov
  exact decideTick_of_idleRecov (hslideP.trans hslide) hrecov rfl rfl n

end Sys2Proof.Proofs.HallDuty
end

section
/-! PROOFS. O60: the firmware slot that start-up runs (R434), under the configuration copy that it takes (R431). -/
namespace Sys2Proof.Proofs.FirmwareSlot

open Sys2Proof Sys2Proof.Machine Sys2Proof.Laws

/-! ## The configuration copy in use -/

/-- R425: the state in which start-up reads the attic: PERST# released, the saved records queued. -/
def released (s : State) (time : Nat) : State :=
  bootLog { s with
    pwr := { s.pwr with perst := false, refclk := true }, now := time, dev := { s.dev with secret := Config.pufSecret s.attic.helper } }

/-- R397: of the attic, queueing the saved records empties their region alone. -/
theorem bootLog_attic (s : State) : (bootLog s).attic = { s.attic with saved := [] } := by
  unfold bootLog
  split
  · next hsaved => rw [← hsaved]
  · rfl

theorem released_attic (s : State) (time : Nat) : (released s time).attic = { s.attic with saved := [] } := bootLog_attic _

theorem cfgValid_released (s : State) (time : Nat) : cfgValid (released s time) = cfgValid s := by
  funext c
  simp [cfgValid, ownerMatches, ledgerCopy, released_attic]

theorem slotOfBundle_released (s : State) (time : Nat) (slot : Bool) : slotOfBundle (released s time) slot = slotOfBundle s slot := by
  simp [slotOfBundle, released_attic]

/-- R427, R431: where copy `k` is chosen and holds `c`, start-up goes on under `c`, and the firmware slots are as before. -/
theorem bootCfg_of_chosen {s : State} {k : Bool} {c : Cfg}
    (hchoice : chooseCfg (s.attic.cfg0.filter (cfgValid s)) (s.attic.cfg1.filter (cfgValid s)) = some k)
    (hcopy : (if k then s.attic.cfg1.filter (cfgValid s) else s.attic.cfg0.filter (cfgValid s)) = some c) :
    ∃ u, bootCfg s = (u, true) ∧ activeCfg u = some c ∧ slotOfBundle u = slotOfBundle s := by
  simp only [bootCfg, hchoice]
  refine ⟨_, rfl, ?_, rfl⟩
  cases k with
  | false => simp only [Bool.false_eq_true, if_false] at hcopy; simp [activeCfg, hcopy]
  | true => simp only [if_true] at hcopy; simp [activeCfg, hcopy]

/-! ## The choice of the slot -/

/-- R433: the bundle of a slot, where it is valid under a configuration copy. -/
def validBundle (s : State) (c : Cfg) (slot : Bool) : Option Bundle :=
  (slotOfBundle s slot).filter (fun g => decide (c.minSvn.toNat ≤ g.svn.toNat))

theorem slotOfBundle_of_valid {s : State} {c : Cfg} {slot : Bool} {g : Bundle} (h : validBundle s c slot = some g) :
    slotOfBundle s slot = some g :=
  (Option.filter_eq_some_iff.mp h).1

/-- R433: `bundleOk` checks the bundles of both slots against the `min_svn` of the copy in use. -/
theorem any_bundleOk {s : State} {c : Cfg} (hcfg : activeCfg s = some c) (slot : Bool) :
    (slotOfBundle s slot).any (bundleOk s) = (validBundle s c slot).isSome := by
  have hok : bundleOk s = fun g => decide (c.minSvn.toNat ≤ g.svn.toNat) := by
    funext g
    simp [bundleOk, hcfg]
  rw [hok, validBundle, Option.isSome_filter]

theorem bootSlot_eq {s : State} {c : Cfg} (hcfg : activeCfg s = some c) :
    bootSlot s = if (validBundle s c c.bootSlot).isSome then some c.bootSlot
      else if (validBundle s c !c.bootSlot).isSome then some !c.bootSlot else none := by
  simp only [bootSlot, hcfg, Option.any_some, any_bundleOk hcfg]

/-! ## What start-up makes of the choice -/

/-- R434: the device runs bundle `g` of `slot`, and `BOOT_FALLBACK` is as `fallback` says. -/
def RunsBundle (u : State) (g : Bundle) (slot fallback : Bool) : Prop :=
  u.dev.bundle = some g ∧ u.dev.slot = slot ∧ u.dev.fallback = fallback

/-- R421, R425, R434: the device set up under copy `c` with the slot `k`, before it enters service or recovery. -/
def fitted (s : State) (c : Cfg) (k : Option Bool) (obs : BootObs) : State :=
  fillBoot (fillSlots (bootHw (k.elim (bootSettings s c) (bootBundle (bootSettings s c))) (bootRetired s obs.failedParts) obs.failedParts))

theorem fitted_runsBundle {s : State} {c : Cfg} {slot : Bool} {g : Bundle} (obs : BootObs) (hcfg : activeCfg s = some c)
    (hg : slotOfBundle s slot = some g) : RunsBundle (fitted s c (some slot) obs) g slot (c.bootSlot != slot) := by
  refine ⟨hg, rfl, ?_⟩
  change (activeCfg s).any (fun d => d.bootSlot != slot) = _
  rw [hcfg, Option.any_some]

theorem tickEvent_dev (old : TickGen) (took : Bool) (s : State) : (tickEvent old took s).dev = s.dev := by
  unfold tickEvent
  split <;> rfl

theorem enterService_dev (s : State) (c : Cfg) (time : Nat) : (enterService s c time).dev = { s.dev with state := .inService } :=
  tickEvent_dev _ _ _

theorem foldl_logFault_dev {α : Type} (f : α → FaultIn) (l : List α) (s : State) :
    (l.foldl (fun s a => logFault s (f a)) s).dev = s.dev := by
  induction l generalizing s with
  | nil => rfl
  | cons a l ih => exact (ih (logFault s (f a))).trans (logFault_dev s (f a))

theorem enterRecovery_dev (s : State) (l : List BootFault) :
    (enterRecovery s l).dev = { s.dev with state := .recovery, bootCause := BitVec.ofNat 4 (l.head?.elim 0 (·.cause)) } :=
  foldl_logFault_dev (fun f : BootFault => { code := f.code, d0 := f.d0, d1 := f.d1 }) _ _

/-- R426: without a valid slot there is a cause for recovery. -/
theorem bootFaults_ne_nil_of_noSlot (cfgOk : Bool) (l : List Part) (obs : BootObs) : bootFaults cfgOk false l obs ≠ [] := by
  unfold bootFaults
  split
  · exact List.cons_ne_nil _ _
  · split
    · exact List.cons_ne_nil _ _
    · exact List.cons_ne_nil _ _

/-- R425, R426: under a chosen copy, start-up ends in service, where nothing speaks against it, or in recovery. -/
theorem startUp_cases {s s1 : State} {c : Cfg} {time : Nat} (obs : BootObs) (hboot : bootCfg (released s time) = (s1, true))
    (hcfg : activeCfg s1 = some c) :
    (∃ d, bootFaults true (bootSlot s1).isSome (bootRetired s1 obs.failedParts) obs = []
        ∧ startUp s time obs = enterService (fitted s1 c (bootSlot s1) obs) d time)
      ∨ ∃ bad, startUp s time obs = enterRecovery (fitted s1 c (bootSlot s1) obs) bad := by
  unfold released at hboot
  simp only [startUp, hboot, hcfg, Option.elim_some, if_true]
  split
  · next d hbad hd => exact .inl ⟨d, hbad, rfl⟩
  · exact .inr ⟨_, rfl⟩

/-- R434: the chosen slot's bundle runs, whichever way start-up ends. -/
theorem startUp_runsBundle {s s1 : State} {c : Cfg} {time : Nat} {slot : Bool} {g : Bundle} (obs : BootObs)
    (hboot : bootCfg (released s time) = (s1, true)) (hcfg : activeCfg s1 = some c) (hslot : bootSlot s1 = some slot)
    (hg : validBundle s1 c slot = some g) : RunsBundle (startUp s time obs) g slot (c.bootSlot != slot) := by
  have hfit := fitted_runsBundle obs hcfg (slotOfBundle_of_valid hg)
  obtain ⟨d, -, hend⟩ | ⟨bad, hend⟩ := startUp_cases obs hboot hcfg
  · rw [hend, hslot, RunsBundle, enterService_dev]; exact hfit
  · rw [hend, hslot, RunsBundle, enterRecovery_dev]; exact hfit

theorem startUp_recovery_of_noSlot {s s1 : State} {c : Cfg} {time : Nat} (obs : BootObs)
    (hboot : bootCfg (released s time) = (s1, true)) (hcfg : activeCfg s1 = some c) (hslot : bootSlot s1 = none) :
    (startUp s time obs).dev.state = .recovery := by
  obtain ⟨d, hbad, -⟩ | ⟨bad, hend⟩ := startUp_cases obs hboot hcfg
  · rw [hslot] at hbad
    exact absurd hbad (bootFaults_ne_nil_of_noSlot _ _ _)
  · rw [hend, enterRecovery_dev]

/-! ## The statement -/

theorem exec_perstRelease {s : State} (hsupply : s.pwr.supply = true) (hperst : s.pwr.perst = true) (time : Nat) (obs : BootObs) :
    exec (.perstRelease time obs) s = .next (startUp s time obs) := by
  change Host.Outcome.next (if s.pwr.supply && s.pwr.perst then _ else _) = _
  rw [hsupply, hperst]
  rfl

/-- Settles O60: up to the choice of the slot start-up leaves both slots alone, and after it the firmware that runs. -/
theorem firmwareSlotAtStart : Obligations.FirmwareSlotAtStart := by
  intro time obs s k c hsupply hperst hchoice hcopy valid
  rw [← cfgValid_released s time] at hchoice hcopy
  obtain ⟨s1, hboot, hcfg, hslots⟩ : ∃ u, bootCfg (released s time) = (u, true) ∧ activeCfg u = some c
      ∧ slotOfBundle u = slotOfBundle (released s time) :=
    bootCfg_of_chosen (by rw [released_attic]; exact hchoice) (by rw [released_attic]; exact hcopy)
  have hvalid : ∀ slot, valid slot = validBundle s1 c slot := fun slot => by
    rw [validBundle, hslots, slotOfBundle_released]
  have hslot := bootSlot_eq hcfg
  refine ⟨_, exec_perstRelease hsupply hperst time obs, fun g hnamed => ?named, fun hnamed g hother => ?other, fun hnamed hother => ?none⟩
  case named =>
    rw [hvalid] at hnamed
    rw [hnamed] at hslot
    simpa [RunsBundle] using startUp_runsBundle obs hboot hcfg hslot hnamed
  case other =>
    rw [hvalid] at hnamed hother
    rw [hnamed, hother] at hslot
    simpa [RunsBundle] using startUp_runsBundle obs hboot hcfg hslot hother
  case none =>
    rw [hvalid] at hnamed hother
    rw [hnamed, hother] at hslot
    exact startUp_recovery_of_noSlot obs hboot hcfg hslot

end Sys2Proof.Proofs.FirmwareSlot
end

section
/-! PROOFS. O1, O2, O3, O23: the queue of commands, the frame of every command, and the canonical form of the memories. -/
namespace Sys2Proof.Proofs.Frames

open Sys2Proof Sys2Proof.Machine Sys2Proof.Laws

/-! ## The queue -/

/-- Settles O1: `step` is defined by the two cases of the queue. -/
theorem stepRunsFront : Obligations.StepRunsFront :=
  ⟨fun _ _ _ => rfl, fun s hempty => by unfold step; rw [hempty]⟩

/-! ## What every command keeps -/

/-- Every command changes only what `touches` lists, and keeps the canonical form: the law of its own meaning, command by command. -/
theorem exec_keep (c : Instr) (s : State) : KeepOut (touches c) s (exec c s) := by
  cases c with
  | tickBoundary => exact execTickBoundary_keep rfl (keep_refl _ _)
  | reclaimSetFix => exact execReclaimSetFix_keep rfl (keep_refl _ _)
  | releasePoint => exact execReleasePoint_keep rfl (keep_refl _ _)
  | tokenSettlement => exact execTokenSettlement_keep rfl (keep_refl _ _)
  | bookAudit => exact execBookAudit_keep rfl (keep_refl _ _)
  | boilerSample => exact execBoilerSample_keep rfl (keep_refl _ _)
  | tickInEdge => exact execTickInEdge_keep rfl (keep_refl _ _)
  | tickFlitReceive => exact execTickFlitReceive_keep rfl (keep_refl _ _)
  | referenceMissing => exact execReferenceMissing_keep rfl (keep_refl _ _)
  | holdoverTimeout => exact execHoldoverTimeout_keep rfl (keep_refl _ _)
  | tickEnable => exact execTickEnable_keep rfl (keep_refl _ _)
  | tickDisable => exact execTickDisable_keep rfl (keep_refl _ _)
  | tickSourceChange => exact execTickSourceChange_keep rfl (keep_refl _ _)
  | tickAltSourceChange => exact execTickAltSourceChange_keep rfl (keep_refl _ _)
  | tickOutEnable => exact execTickOutEnable_keep rfl (keep_refl _ _)
  | tickPeriodWrite => exact execTickPeriodWrite_keep rfl (keep_refl _ _)
  | tickSysOffsetLoWrite => exact execTickSysOffsetLoWrite_keep rfl (keep_refl _ _)
  | tickSysOffsetHiWrite => exact execTickSysOffsetHiWrite_keep rfl (keep_refl _ _)
  | tickNowLoRead => exact execTickNowLoRead_keep rfl (keep_refl _ _)
  | pwrMetLoRead => exact execPwrMetLoRead_keep rfl (keep_refl _ _)
  | flogNewestLoRead => exact execFlogNewestLoRead_keep rfl (keep_refl _ _)
  | pwrCapWrite => exact execPwrCapWrite_keep rfl (keep_refl _ _)
  | w1cFlagClear => exact execW1cFlagClear_keep rfl (keep_refl _ _)
  | registerWrite => exact execRegisterWrite_keep rfl (keep_refl _ _)
  | crOpen => exact execCrOpen_keep rfl (keep_refl _ _)
  | crClose => exact execCrClose_keep rfl (keep_refl _ _)
  | crReset => exact execCrReset_keep rfl (keep_refl _ _)
  | faultRingEnable => exact execFaultRingEnable_keep rfl (keep_refl _ _)
  | ledgerRingEnable => exact execLedgerRingEnable_keep rfl (keep_refl _ _)
  | msixModWrite => exact execMsixModWrite_keep rfl (keep_refl _ _)
  | contextAssignWrite => exact execContextAssignWrite_keep rfl (keep_refl _ _)
  | doorbellSqCq => exact execDoorbellSqCq_keep rfl (keep_refl _ _)
  | doorbellFaultHead => exact execDoorbellFaultHead_keep rfl (keep_refl _ _)
  | doorbellLedgerHead => exact execDoorbellLedgerHead_keep rfl (keep_refl _ _)
  | descriptorFetchTimeout => exact execDescriptorFetchTimeout_keep rfl (keep_refl _ _)
  | completionWrite => exact execCompletionWrite_keep rfl (keep_refl _ _)
  | nop => exact execNop_keep rfl (keep_refl _ _)
  | badOpcode => exact execBadOpcode_keep rfl (keep_refl _ _)
  | plan => exact execPlan_keep rfl (keep_refl _ _)
  | planAdmission => exact execPlanAdmission_keep rfl (keep_refl _ _)
  | planWithdraw => exact execPlanWithdraw_keep rfl (keep_refl _ _)
  | move => exact execMove_keep rfl (keep_refl _ _)
  | pageWrite => exact execPageWrite_keep rfl (keep_refl _ _)
  | pagePublish => exact execPagePublish_keep rfl (keep_refl _ _)
  | pageCreate => exact execPageCreate_keep rfl (keep_refl _ _)
  | pageDestroy => exact execPageDestroy_keep rfl (keep_refl _ _)
  | tickWait => exact execTickWait_keep rfl (keep_refl _ _)
  | ctxOpen => exact execCtxOpen_keep rfl (keep_refl _ _)
  | ctxClose => exact execCtxClose_keep rfl (keep_refl _ _)
  | imageStore => exact execImageStore_keep rfl (keep_refl _ _)
  | imageLoad => exact execImageLoad_keep rfl (keep_refl _ _)
  | imageLoadComplete => exact execImageLoadComplete_keep rfl (keep_refl _ _)
  | imageDelete => exact execImageDelete_keep rfl (keep_refl _ _)
  | fwUpdate => exact execFwUpdate_keep rfl (keep_refl _ _)
  | configUpdate => exact execConfigUpdate_keep rfl (keep_refl _ _)
  | attest => exact execAttest_keep rfl (keep_refl _ _)
  | streamOpen => exact execStreamOpen_keep rfl (keep_refl _ _)
  | codecJob => exact execCodecJob_keep rfl (keep_refl _ _)
  | codecJobStart => exact execCodecJobStart_keep rfl (keep_refl _ _)
  | codecJobComplete => exact execCodecJobComplete_keep rfl (keep_refl _ _)
  | streamClose => exact execStreamClose_keep rfl (keep_refl _ _)
  | streamRingPoll => exact execStreamRingPoll_keep rfl (keep_refl _ _)
  | codecEngine => exact execCodecEngine_keep rfl (keep_refl _ _)
  | ledgerRecordWrite => exact execLedgerRecordWrite_keep rfl (keep_refl _ _)
  | faultRecordWrite => exact execFaultRecordWrite_keep rfl (keep_refl _ _)
  | hostAccessFail => exact execHostAccessFail_keep rfl (keep_refl _ _)
  | atsInvalidation => exact execAtsInvalidation_keep rfl (keep_refl _ _)
  | ideTlpOutsideStream => exact execIdeTlpOutsideStream_keep rfl (keep_refl _ _)
  | ideStreamLoss => exact execIdeStreamLoss_keep rfl (keep_refl _ _)
  | doeSpdmRequest => exact execDoeSpdmRequest_keep rfl (keep_refl _ _)
  | msixDelayExpiry => exact execMsixDelayExpiry_keep rfl (keep_refl _ _)
  | msixPerTick => exact execMsixPerTick_keep rfl (keep_refl _ _)
  | flrVf => exact execFlrVf_keep rfl (keep_refl _ _)
  | flrPf => exact execFlrPf_keep rfl (keep_refl _ _)
  | powerStateWrite => exact execPowerStateWrite_keep rfl (keep_refl _ _)
  | roomNop => exact execRoomNop_keep rfl (keep_refl _ _)
  | stepEnd => exact execStepEnd_keep rfl (keep_refl _ _)
  | progEnd => exact execProgEnd_keep rfl (keep_refl _ _)
  | jump => exact execJump_keep rfl (keep_refl _ _)
  | call => exact execCall_keep rfl (keep_refl _ _)
  | ret => exact execRet_keep rfl (keep_refl _ _)
  | repeatLoop => exact execRepeatLoop_keep rfl (keep_refl _ _)
  | trap => exact execTrap_keep rfl (keep_refl _ _)
  | sadd => exact execSadd_keep rfl (keep_refl _ _)
  | ssub => exact execSsub_keep rfl (keep_refl _ _)
  | smul => exact execSmul_keep rfl (keep_refl _ _)
  | sand => exact execSand_keep rfl (keep_refl _ _)
  | sor => exact execSor_keep rfl (keep_refl _ _)
  | sxor => exact execSxor_keep rfl (keep_refl _ _)
  | sshl => exact execSshl_keep rfl (keep_refl _ _)
  | sshr => exact execSshr_keep rfl (keep_refl _ _)
  | smin => exact execSmin_keep rfl (keep_refl _ _)
  | smax => exact execSmax_keep rfl (keep_refl _ _)
  | sli => exact execSli_keep rfl (keep_refl _ _)
  | scmp => exact execScmp_keep rfl (keep_refl _ _)
  | sldc => exact execSldc_keep rfl (keep_refl _ _)
  | srd => exact execSrd_keep rfl (keep_refl _ _)
  | sld => exact execSld_keep rfl (keep_refl _ _)
  | sst => exact execSst_keep rfl (keep_refl _ _)
  | mmaF => exact execMmaF_keep rfl (keep_refl _ _)
  | mmaB0 => exact execMmaB0_keep rfl (keep_refl _ _)
  | mmaB1 => exact execMmaB1_keep rfl (keep_refl _ _)
  | accZero => exact execAccZero_keep rfl (keep_refl _ _)
  | accOut => exact execAccOut_keep rfl (keep_refl _ _)
  | accIn => exact execAccIn_keep rfl (keep_refl _ _)
  | nest => exact execNest_keep rfl (keep_refl _ _)
  | vld => exact execVld_keep rfl (keep_refl _ _)
  | vst => exact execVst_keep rfl (keep_refl _ _)
  | vlda => exact execVlda_keep rfl (keep_refl _ _)
  | vsta => exact execVsta_keep rfl (keep_refl _ _)
  | vadd => exact execVadd_keep rfl (keep_refl _ _)
  | vsub => exact execVsub_keep rfl (keep_refl _ _)
  | vmul => exact execVmul_keep rfl (keep_refl _ _)
  | vfma => exact execVfma_keep rfl (keep_refl _ _)
  | vmax => exact execVmax_keep rfl (keep_refl _ _)
  | vmin => exact execVmin_keep rfl (keep_refl _ _)
  | vcmp => exact execVcmp_keep rfl (keep_refl _ _)
  | vsel => exact execVsel_keep rfl (keep_refl _ _)
  | vbc => exact execVbc_keep rfl (keep_refl _ _)
  | vred => exact execVred_keep rfl (keep_refl _ _)
  | vidx => exact execVidx_keep rfl (keep_refl _ _)
  | vrng => exact execVrng_keep rfl (keep_refl _ _)
  | fnTable => exact execFnTable_keep rfl (keep_refl _ _)
  | fnMicro => exact execFnMicro_keep rfl (keep_refl _ _)
  | rstat => exact execRstat_keep rfl (keep_refl _ _)
  | tblLoad => exact execTblLoad_keep rfl (keep_refl _ _)
  | dmaIn => exact execDmaIn_keep rfl (keep_refl _ _)
  | dmaOut => exact execDmaOut_keep rfl (keep_refl _ _)
  | dmaLate => exact execDmaLate_keep rfl (keep_refl _ _)
  | wallPut => exact execWallPut_keep rfl (keep_refl _ _)
  | haloLand => exact execHaloLand_keep rfl (keep_refl _ _)
  | haloWait => exact execHaloWait_keep rfl (keep_refl _ _)
  | gather => exact execGather_keep rfl (keep_refl _ _)
  | walkChunkLand => exact execWalkChunkLand_keep rfl (keep_refl _ _)
  | store => exact execStore_keep rfl (keep_refl _ _)
  | verifyOpen => exact execVerifyOpen_keep rfl (keep_refl _ _)
  | commit => exact execCommit_keep rfl (keep_refl _ _)
  | frameDecrementArrive => exact execFrameDecrementArrive_keep rfl (keep_refl _ _)
  | porchSend => exact execPorchSend_keep rfl (keep_refl _ _)
  | porchRecv => exact execPorchRecv_keep rfl (keep_refl _ _)
  | announce => exact execAnnounce_keep rfl (keep_refl _ _)
  | piece => exact execPiece_keep rfl (keep_refl _ _)
  | patom => exact execPatom_keep rfl (keep_refl _ _)
  | patomPerform => exact execPatomPerform_keep rfl (keep_refl _ _)
  | pred => exact execPred_keep rfl (keep_refl _ _)
  | predContribution => exact execPredContribution_keep rfl (keep_refl _ _)
  | flagSet => exact execFlagSet_keep rfl (keep_refl _ _)
  | flagWait => exact execFlagWait_keep rfl (keep_refl _ _)
  | flagWaitComplete => exact execFlagWaitComplete_keep rfl (keep_refl _ _)
  | fence => exact execFence_keep rfl (keep_refl _ _)
  | unitWait => exact execUnitWait_keep rfl (keep_refl _ _)
  | instructionComplete => exact execInstructionComplete_keep rfl (keep_refl _ _)
  | stepFinish => exact execStepFinish_keep rfl (keep_refl _ _)
  | roomHw => exact execRoomHw_keep rfl (keep_refl _ _)
  | roomWatchdogTimeout => exact execRoomWatchdogTimeout_keep rfl (keep_refl _ _)
  | restoreTimeout => exact execRestoreTimeout_keep rfl (keep_refl _ _)
  | serviceResume => exact execServiceResume_keep rfl (keep_refl _ _)
  | repairMapWrite => exact execRepairMapWrite_keep rfl (keep_refl _ _)
  | spareSelfTest => exact execSpareSelfTest_keep rfl (keep_refl _ _)
  | floorCoreFailure => exact execFloorCoreFailure_keep rfl (keep_refl _ _)
  | hallCoreFailure => exact execHallCoreFailure_keep rfl (keep_refl _ _)
  | hallWatchdog => exact execHallWatchdog_keep rfl (keep_refl _ _)
  | dieFail => exact execDieFail_keep rfl (keep_refl _ _)
  | memoryEccEvent => exact execMemoryEccEvent_keep rfl (keep_refl _ _)
  | patrolScrub => exact execPatrolScrub_keep rfl (keep_refl _ _)
  | cellarLoss => exact execCellarLoss_keep rfl (keep_refl _ _)
  | failstop => exact execFailstop_keep rfl (keep_refl _ _)
  | faultLogSave => exact execFaultLogSave_keep rfl (keep_refl _ _)
  | slide => exact execSlide_keep rfl (keep_refl _ _)
  | peerSilent => exact execPeerSilent_keep rfl (keep_refl _ _)
  | failstopMessage => exact execFailstopMessage_keep rfl (keep_refl _ _)
  | trainingComplete => exact execTrainingComplete_keep rfl (keep_refl _ _)
  | trainingRetry => exact execTrainingRetry_keep rfl (keep_refl _ _)
  | helloSend => exact execHelloSend_keep rfl (keep_refl _ _)
  | hello => exact execHello_keep rfl (keep_refl _ _)
  | helloAck => exact execHelloAck_keep rfl (keep_refl _ _)
  | dataFlitReceive => exact execDataFlitReceive_keep rfl (keep_refl _ _)
  | nak => exact execNak_keep rfl (keep_refl _ _)
  | idleFlitReceive => exact execIdleFlitReceive_keep rfl (keep_refl _ _)
  | replayTimerExpiry => exact execReplayTimerExpiry_keep rfl (keep_refl _ _)
  | echoSend => exact execEchoSend_keep rfl (keep_refl _ _)
  | echo _ time _ => exact execEcho_keep (_time := time) rfl (keep_refl _ _)
  | echoReply => exact execEchoReply_keep rfl (keep_refl _ _)
  | failstopFlit => exact execFailstopFlit_keep rfl (keep_refl _ _)
  | laneLost => exact execLaneLost_keep rfl (keep_refl _ _)
  | deliveredSend => exact execDeliveredSend_keep rfl (keep_refl _ _)
  | delivered => exact execDelivered_keep rfl (keep_refl _ _)
  | priorityFlowControl => exact execPriorityFlowControl_keep rfl (keep_refl _ _)
  | thermalEvent => exact execThermalEvent_keep rfl (keep_refl _ _)
  | droopDetect => exact execDroopDetect_keep rfl (keep_refl _ _)
  | setpointStepBack => exact execSetpointStepBack_keep rfl (keep_refl _ _)
  | boardCapWrite => exact execBoardCapWrite_keep rfl (keep_refl _ _)
  | pldmSensorRead => exact execPldmSensorRead_keep rfl (keep_refl _ _)
  | jtagInstruction => exact execJtagInstruction_keep rfl (keep_refl _ _)
  | supplyInRange => exact execSupplyInRange_keep rfl (keep_refl _ _)
  | supplyLoss => exact execSupplyLoss_keep rfl (keep_refl _ _)
  | refclkLoss => exact execRefclkLoss_keep rfl (keep_refl _ _)
  | perstAssert => exact execPerstAssert_keep rfl (keep_refl _ _)
  | perstRelease => exact execPerstRelease_keep rfl (keep_refl _ _)
  | moveComplete => exact execMoveComplete_keep rfl (keep_refl _ _)
  | imageStoreComplete => exact execImageStoreComplete_keep rfl (keep_refl _ _)
  | fwUpdateComplete => exact execFwUpdateComplete_keep rfl (keep_refl _ _)
  | configUpdateComplete => exact execConfigUpdateComplete_keep rfl (keep_refl _ _)
  | trainingFailed => exact execTrainingFailed_keep rfl (keep_refl _ _)
  | droopRecovery => exact execDroopRecovery_keep rfl (keep_refl _ _)
  | vfEnableWrite => exact execVfEnableWrite_keep rfl (keep_refl _ _)
  | msixVectorMaskWrite => exact execMsixVectorMaskWrite_keep rfl (keep_refl _ _)
  | pfcPauseExpiry => exact execPfcPauseExpiry_keep rfl (keep_refl _ _)

theorem touches_pending (c : Instr) : (touches c).pending = false := by
  cases c <;> rfl

/-- Two states that agree outside a choice without the queue have the same queue. -/
theorem pending_eq_of_blank_eq {m : Touch} (hm : m.pending = false) {s t : State} (h : blank m t = blank m s) :
    t.pending = s.pending := by
  have hpending := congrArg State.pending h
  simpa only [blank, hm, Bool.false_eq_true, if_false] using hpending

/-- Settles O2: the frame is the first half of `exec_keep`, and no command's list has the queue. -/
theorem commandFrames : Obligations.CommandFrames := by
  intro c s t hexec
  have hframe := (exec_keep c s t hexec).1
  exact ⟨hframe, pending_eq_of_blank_eq (touches_pending c) hframe⟩

/-! ## The canonical form of the memories -/

/-- Taking a command off the queue touches no memory. -/
theorem memOk_pending (s : State) (q : List Instr) : MemOk { s with pending := q } = MemOk s := rfl

/-- Settles O3: a step idles, or it runs a command, which keeps the form by the second half of `exec_keep`. -/
theorem stepKeepsMemoryForm : Obligations.StepKeepsMemoryForm := by
  intro s t hok hstep
  unfold step at hstep
  split at hstep
  · cases hstep
    exact hok
  · next c rest _ =>
    exact (exec_keep c _ t hstep).2 ((memOk_pending s rest).trans hok)

/-- Settles O23: both memories are empty after reset. -/
theorem resetMemoryForm : Obligations.ResetMemoryForm := rfl

end Sys2Proof.Proofs.Frames
end

section
/-! PROOFS. What the proofs about the state share: the parts that an operation keeps, read off its `Keep` law; the plans and the
programs that a state holds, through the updates of its lists. -/
namespace Sys2Proof.Proofs.StateParts

open Sys2Proof Sys2Proof.Machine Sys2Proof.Laws

/-! ## Parts kept -/

/-- Every part of the state. -/
def all : Touch :=
  { pending := true, free := true, now := true, dev := true, tick := true, pwr := true, fns := true, ctxs := true, tags := true,
    plans := true, threads := true, preds := true, tables := true, frames := true, decs := true, pins := true, limbo := true,
    flog := true, hw := true, recov := true, slideP := true, slides := true, resumeAt := true, slideDue := true, books := true,
    badBooks := true, fullAudit := true, links := true, attic := true, mem := true, host := true }

section
variable {s t : State}

theorem plans_of_keep (h : Keep { all with plans := false } s t) : t.plans = s.plans := by
  have kept := congrArg State.plans h.1
  exact kept
theorem threads_of_keep (h : Keep { all with threads := false } s t) : t.threads = s.threads := by
  have kept := congrArg State.threads h.1
  exact kept
theorem links_of_keep (h : Keep { all with links := false } s t) : t.links = s.links := by
  have kept := congrArg State.links h.1
  exact kept
theorem mem_of_keep (h : Keep { all with mem := false } s t) : t.mem = s.mem := by
  have kept := congrArg State.mem h.1
  exact kept
/-! The same of any law whose list leaves the part out. -/

theorem keep_now {M : Touch} (h : Keep M s t) (hM : M.now = false := by rfl) : t.now = s.now := by
  simpa [blank, hM] using congrArg State.now h.1
theorem keep_dev {M : Touch} (h : Keep M s t) (hM : M.dev = false := by rfl) : t.dev = s.dev := by
  simpa [blank, hM] using congrArg State.dev h.1
theorem keep_tick {M : Touch} (h : Keep M s t) (hM : M.tick = false := by rfl) : t.tick = s.tick := by
  simpa [blank, hM] using congrArg State.tick h.1
theorem keep_pwr {M : Touch} (h : Keep M s t) (hM : M.pwr = false := by rfl) : t.pwr = s.pwr := by
  simpa [blank, hM] using congrArg State.pwr h.1
theorem keep_fns {M : Touch} (h : Keep M s t) (hM : M.fns = false := by rfl) : t.fns = s.fns := by
  simpa [blank, hM] using congrArg State.fns h.1
theorem keep_ctxs {M : Touch} (h : Keep M s t) (hM : M.ctxs = false := by rfl) : t.ctxs = s.ctxs := by
  simpa [blank, hM] using congrArg State.ctxs h.1
theorem keep_tags {M : Touch} (h : Keep M s t) (hM : M.tags = false := by rfl) : t.tags = s.tags := by
  simpa [blank, hM] using congrArg State.tags h.1
theorem keep_plans {M : Touch} (h : Keep M s t) (hM : M.plans = false := by rfl) : t.plans = s.plans := by
  simpa [blank, hM] using congrArg State.plans h.1
theorem keep_threads {M : Touch} (h : Keep M s t) (hM : M.threads = false := by rfl) : t.threads = s.threads := by
  simpa [blank, hM] using congrArg State.threads h.1
theorem keep_tables {M : Touch} (h : Keep M s t) (hM : M.tables = false := by rfl) : t.tables = s.tables := by
  simpa [blank, hM] using congrArg State.tables h.1
theorem keep_limbo {M : Touch} (h : Keep M s t) (hM : M.limbo = false := by rfl) : t.limbo = s.limbo := by
  simpa [blank, hM] using congrArg State.limbo h.1
theorem keep_flog {M : Touch} (h : Keep M s t) (hM : M.flog = false := by rfl) : t.flog = s.flog := by
  simpa [blank, hM] using congrArg State.flog h.1
theorem keep_hw {M : Touch} (h : Keep M s t) (hM : M.hw = false := by rfl) : t.hw = s.hw := by
  simpa [blank, hM] using congrArg State.hw h.1
theorem keep_recov {M : Touch} (h : Keep M s t) (hM : M.recov = false := by rfl) : t.recov = s.recov := by
  simpa [blank, hM] using congrArg State.recov h.1
theorem keep_slideP {M : Touch} (h : Keep M s t) (hM : M.slideP = false := by rfl) : t.slideP = s.slideP := by
  simpa [blank, hM] using congrArg State.slideP h.1
theorem keep_slides {M : Touch} (h : Keep M s t) (hM : M.slides = false := by rfl) : t.slides = s.slides := by
  simpa [blank, hM] using congrArg State.slides h.1
theorem keep_resumeAt {M : Touch} (h : Keep M s t) (hM : M.resumeAt = false := by rfl) : t.resumeAt = s.resumeAt := by
  simpa [blank, hM] using congrArg State.resumeAt h.1
theorem keep_slideDue {M : Touch} (h : Keep M s t) (hM : M.slideDue = false := by rfl) : t.slideDue = s.slideDue := by
  simpa [blank, hM] using congrArg State.slideDue h.1
theorem keep_links {M : Touch} (h : Keep M s t) (hM : M.links = false := by rfl) : t.links = s.links := by
  simpa [blank, hM] using congrArg State.links h.1
theorem keep_attic {M : Touch} (h : Keep M s t) (hM : M.attic = false := by rfl) : t.attic = s.attic := by
  simpa [blank, hM] using congrArg State.attic h.1
theorem keep_mem {M : Touch} (h : Keep M s t) (hM : M.mem = false := by rfl) : t.mem = s.mem := by
  simpa [blank, hM] using congrArg State.mem h.1
theorem keep_host {M : Touch} (h : Keep M s t) (hM : M.host = false := by rfl) : t.host = s.host := by
  simpa [blank, hM] using congrArg State.host h.1

end

/-! ## Lists of which the first element that meets a test changes -/

section
variable {A B : Type} {p q : A → Bool} {g : A → A} {f : A → B}

/-- What is read of the element that a search finds stays, where the change keeps it and the search. -/
theorem map_find_updFirst (hq : ∀ a, q (g a) = q a) (hf : ∀ a, f (g a) = f a) (l : List A) :
    ((updFirst p g l).find? q).map f = (l.find? q).map f := by
  induction l with
  | nil => rfl
  | cons x r ih =>
    unfold updFirst
    split
    · simp only [List.find?_cons, hq]
      split <;> simp [hf]
    · simp only [List.find?_cons]
      split
      · rfl
      · exact ih

theorem mem_updFirst {l : List A} {a : A} (h : a ∈ updFirst p g l) : a ∈ l ∨ ∃ b ∈ l, a = g b := by
  induction l with
  | nil => cases h
  | cons x r ih =>
    unfold updFirst at h
    split at h
    · rcases List.mem_cons.mp h with rfl | h
      · exact Or.inr ⟨x, List.mem_cons_self, rfl⟩
      · exact Or.inl (List.mem_cons_of_mem _ h)
    · rcases List.mem_cons.mp h with rfl | h
      · exact Or.inl List.mem_cons_self
      · exact (ih h).imp (List.mem_cons_of_mem _) (fun ⟨b, hb, e⟩ => ⟨b, List.mem_cons_of_mem _ hb, e⟩)

/-- Two changes of the first element that meets a test, the second of which does not look at it. -/
theorem updFirst_updFirst_const {a b : A} (ha : p a = true) (l : List A) :
    updFirst p (fun _ => b) (updFirst p (fun _ => a) l) = updFirst p (fun _ => b) l := by
  induction l with
  | nil => rfl
  | cons x r ih =>
    by_cases hx : p x = true
    · simp [updFirst, hx, ha]
    · simp [updFirst, hx, ih]

end

/-! ## Programs -/

theorem getTh_of_threads {s u : State} (h : u.threads = s.threads) (t : Tid) : getTh u t = getTh s t := by
  unfold getTh; rw [h]

theorem putTh_putTh {s : State} {x y : Thread} (h : y.tid = x.tid) : putTh (putTh s y) x = putTh s x := by
  unfold putTh modTh
  dsimp only
  rw [h, updFirst_updFirst_const (by simp [h])]

/-! ## Plans -/

theorem getPlan_of_plans {s u : State} (h : u.plans = s.plans) (k : PlanKey) : getPlan u k = getPlan s k := by
  unfold getPlan; rw [h]

/-- What is read of a plan stays, where the change of a plan keeps it. -/
theorem map_getPlan_modPlan {B : Type} {f : Plan → B} {g : Plan → Plan} (hkey : ∀ p, (g p).key = p.key) (hf : ∀ p, f (g p) = f p)
    (s : State) (k l : PlanKey) : (getPlan (modPlan s k g) l).map f = (getPlan s l).map f :=
  map_find_updFirst (fun a => by rw [hkey]) hf s.plans

/-- The running step of a plan. -/
def planRun (s : State) (k : PlanKey) : Option StepRun := (getPlan s k).bind (·.run)

theorem planRun_eq_map (s : State) (k : PlanKey) : planRun s k = ((getPlan s k).map (·.run)).join := by
  unfold planRun; cases getPlan s k <;> rfl

theorem planRun_of_plans {s u : State} (h : u.plans = s.plans) (k : PlanKey) : planRun u k = planRun s k := by
  unfold planRun; rw [getPlan_of_plans h]

theorem planRun_modPlan {g : Plan → Plan} (hkey : ∀ p, (g p).key = p.key) (hrun : ∀ p, (g p).run = p.run) (s : State) (k l : PlanKey) :
    planRun (modPlan s k g) l = planRun s l := by
  rw [planRun_eq_map, planRun_eq_map, map_getPlan_modPlan hkey hrun]

/-- A change of the running step of a plan. -/
theorem planRun_modPlan_run {s : State} {k : PlanKey} {q : StepRun} {g : Plan → Plan} {f : StepRun → StepRun} (hkey : ∀ p, (g p).key = p.key)
    (hrun : ∀ p, (g p).run = p.run.map f) (h : planRun s k = some q) : planRun (modPlan s k g) k = some (f q) := by
  obtain ⟨p, hp, hq⟩ := Option.bind_eq_some_iff.mp h
  unfold planRun
  rw [getPlan_modPlan_eq hp hkey, Option.bind_some, hrun, hq]
  rfl

theorem planRun_addItem (s : State) (k l : PlanKey) (ty : Nat) (body : List Byte) : planRun (addItem s k ty body) l = planRun s l := by
  unfold addItem
  rw [planRun_modPlan] <;> exact fun _ => rfl

theorem plans_raise (s : State) (f : FaultIn) : (raise s f).plans = s.plans :=
  plans_of_keep (raise_keep rfl (keep_refl _ _))

theorem planRun_raisePlan (s : State) (k l : PlanKey) (f : FaultIn) (spare : Nat) : planRun (raisePlan s k f spare) l = planRun s l := by
  have hraise := fun f => planRun_of_plans (plans_raise s f) l
  unfold raisePlan
  dsimp only
  split
  · split
    · exact hraise _
    · rw [planRun_modPlan, hraise] <;> exact fun _ => rfl
  · exact hraise _

end Sys2Proof.Proofs.StateParts
end

section
/-! PROOFS. What the proofs about room programs share: the issue of an instruction whose condition is met, as a program that the
state holds, its refusal, and its registers. -/
namespace Sys2Proof.Proofs.RoomBasics

open Sys2Proof Sys2Proof.Machine Sys2Proof.Laws

/-! ## The program that issues -/

section
variable {s : State} {t : Tid} {i : RoomIns} {c : RC} (h : issuesAt s t i c)
include h

theorem issuesAt_state : c.s = s := (enter_facts h.1).1

theorem issuesAt_getTh : getTh s t = some c.th := (enter_facts h.1).2.1

theorem issuesAt_tid : c.th.tid = t := enter_tid h.1

theorem issuesAt_t : c.t = t := enter_tid h.1

theorem issuesAt_issues : issues s c.th = true := (enter_facts h.1).2.2.2.2.2

theorem issuesAt_getPlan : getPlan s t.key = some c.p := (enter_facts h.1).2.2.1

theorem issuesAt_running : c.th.stat = .running := by
  have hissues := issuesAt_issues h
  simp only [issues, Bool.and_eq_true, beq_iff_eq] at hissues
  exact hissues.1.1.2

/-- R156: the refusal of an instruction that issues, in the terms of the state. -/
theorem issuesAt_refuse (code d1 : Nat) : c.refuse code d1 = refuseRoom s t c.k code c.th.pc d1 := by
  unfold RC.refuse
  rw [issuesAt_state h, issuesAt_t h]

theorem issuesAt_ctx : c.ctx = t.key.ctx := by
  unfold RC.ctx
  rw [issuesAt_tid h]

end

/-- An instruction whose condition is met runs its body, as an outcome of `exec`. -/
theorem next_runIns {s : State} {t : Tid} {i : RoomIns} {c : RC} {f : Instr} {body : RC → State} (h : issuesAt s t i c)
    (hexec : exec f s = .next (runIns s t i body)) : exec f s = .next (body c) := by
  rw [hexec, runIns_issues h]

/-! ## Registers of programs that agree -/

theorem sReg_same {x y : Thread} (h : sameRegs x y) (n : Nat) : sReg y n = sReg x n := by unfold sReg; rw [h.regs]
theorem vReg_same {x y : Thread} (h : sameRegs x y) (n : Nat) : vReg y n = vReg x n := by unfold vReg; rw [h.vregs]
theorem mReg_same {x y : Thread} (h : sameRegs x y) (n : Nat) : mReg y n = mReg x n := by unfold mReg; rw [h.masks]

/-- Registers, predicates and call stack alike: nothing of R137 is lost. -/
theorem keepsRegs_of_eq {x y : Thread} (hs : y.regs = x.regs) (hv : y.vregs = x.vregs) (hm : y.masks = x.masks)
    (hp : y.preds = x.preds) (hc : y.calls = x.calls) : keepsRegs x y [] [] [] [] := by
  simp [keepsRegs, sReg, vReg, mReg, hs, hv, hm, hp, hc]

theorem keepsRegs_refl (x : Thread) : keepsRegs x x [] [] [] [] := keepsRegs_same (sameRegs_refl x) _ _ _ _

/-! ## The usual outcomes -/

/-- The program of `t` replaced by one with the same registers that goes on. -/
theorem regOnly_advance1 {s : State} {t : Tid} {x y : Thread} (hx : getTh s t = some x) (ht : x.tid = t) (h : sameRegs x y) :
    regOnly s (putTh s (advance1 y)) t (advance1 y) ∧ keepsRegs x (advance1 y) [] [] [] [] ∧ goesOn x (advance1 y) :=
  ⟨regOnly_putTh hx (h.tid.trans ht), keepsRegs_same h _ _ _ _, goesOn_advance1 h.pc h.reps⟩

end Sys2Proof.Proofs.RoomBasics
end

section
/-! PROOFS. O4 to O8: the room instructions of the sequencer (R138, R140, R141, R156). -/
namespace Sys2Proof.Proofs.RoomScalar

open Sys2Proof Sys2Proof.Machine Sys2Proof.Laws Sys2Proof.Proofs.RoomBasics

/-! ## O4: the predicate -/

/-- A room instruction whose condition is not met only moves its own program counter. -/
theorem passes_of_runIns {s : State} {t : Tid} {i : RoomIns} {c : RC} {f : Instr} (he : enter s t = some c)
    (hpc : c.th.pc < c.im.codeWords) (hmet : predMet c.th i = false) (hrun : ∃ body, exec f s = .next (runIns s t i body)) :
    ∃ u y, exec f s = .next u ∧ regOnly s u t y ∧ keepsRegs c.th y [] [] [] [] ∧ goesOn c.th y := by
  obtain ⟨body, hexec⟩ := hrun
  rw [runIns_passes he hpc hmet] at hexec
  exact ⟨_, _, hexec, regOnly_advance1 (enter_facts he).2.1 (enter_tid he) (sameRegs_refl _)⟩

/-- Settles O4: each of the instructions is a body under `runIns`, which looks at the predicate first. -/
theorem predicateNotMetPasses : Obligations.PredicateNotMetPasses := by
  intro t i s c he hpc hmet f hf
  refine passes_of_runIns he hpc hmet ?_
  simp only [List.mem_cons, List.not_mem_nil, or_false] at hf
  rcases hf with rfl | rfl | rfl | rfl | rfl | rfl | rfl | rfl | rfl | rfl | rfl | rfl | rfl | rfl | rfl | rfl | rfl | rfl | rfl | rfl
    | rfl | rfl | rfl | rfl | rfl | rfl <;> exact ⟨_, rfl⟩

/-! ## O5: scalar results -/

theorem scalarDone_scalarOp {s : State} {t : Tid} {i : RoomIns} {c : RC} (h : issuesAt s t i c) (f : Thread → DWord) :
    scalarDone s (scalarOp s t i f) t c.th i.d (f c.th) := by
  unfold scalarOp
  rw [runIns_issues h, issuesAt_state h]
  exact scalarDone_put (issuesAt_getTh h) (issuesAt_tid h) (sameRegs_refl _)

theorem slt_of_toInt_lt {a b : DWord} (h : a.toInt < b.toInt) : a.slt b = true := by simpa [BitVec.slt] using h

/-- R140: the smaller of two signed words; equal words are the same one. -/
theorem ite_slt_eq_ite_toInt_le (a b : DWord) (p q : DWord) (hpq : a = b → p = q) :
    (if a.slt b then p else q) = if a.toInt ≤ b.toInt then p else q := by
  rcases Int.lt_trichotomy a.toInt b.toInt with hlt | heq | hgt
  · rw [if_pos (slt_of_toInt_lt hlt), if_pos (by omega)]
  · rw [hpq (BitVec.eq_of_toInt_eq heq), ite_self, ite_self]
  · rw [if_neg (by simp [BitVec.slt]; omega), if_neg (by omega)]

theorem dbits_zero (v : DWord) (n : Nat) : dbits v 0 n = v.toNat % 2 ^ n := by simp [dbits, bits]

/-- R140: the conditions of SCMP as comparisons of the words, unsigned or as signed numbers. -/
theorem scmpCond_eq (n : Nat) (a b : DWord) :
    scmpCond n a b = (match n with
      | 0 => a == b
      | 1 => a != b
      | 2 => decide (a.toInt < b.toInt)
      | 3 => decide (a.toInt ≤ b.toInt)
      | 4 => decide (a.toNat < b.toNat)
      | 5 => decide (a.toNat ≤ b.toNat)
      | n => scmpCond n a b) := by
  split <;> rfl

/-- R138: the fields of an instruction word. -/
theorem roomIns_fields (w : Nat) :
    (roomIns w).pred.toNat = w / 2 ^ 8 % 8 ∧ (roomIns w).pneg = decide (w / 2 ^ 11 % 2 = 1) ∧ (roomIns w).d.toNat = w / 2 ^ 12 % 32
      ∧ (roomIns w).a.toNat = w / 2 ^ 17 % 32 ∧ (roomIns w).b.toNat = w / 2 ^ 22 % 32 ∧ (roomIns w).c.toNat = w / 2 ^ 27 % 32
      ∧ (roomIns w).imm.toNat = w / 2 ^ 32 % 2 ^ 32 := by
  refine ⟨?_, ?_, ?_, ?_, ?_, ?_, ?_⟩ <;> simp [roomIns, bits, bitOf]
  rfl

/-- R138: what the room issues next is what the word at its program counter spells. -/
theorem nextCommand_eq {s : State} {t : Tid} {c : RC} (he : enter s t = some c) (hpc : c.th.pc < c.im.codeWords) :
    nextCommand s t = roomCommand t c.word (walkDesc (c.desc (roomIns c.word).imm.toNat 128)).op := by
  unfold nextCommand
  rw [he, Option.bind_some, if_neg (by omega)]

theorem bits_opcode (w : Nat) : bits w 0 8 = w % 256 := by simp [bits]

/-- R140: no command has an opcode above UNIT_WAIT's. -/
theorem roomCommand_above (t : Tid) {w op : Nat} (h : 0x65 ≤ w % 256) : roomCommand t w op = none := by
  unfold roomCommand
  rw [bits_opcode]
  generalize w % 256 = n at h
  split <;> try omega
  rfl

theorem scmp_runs {s : State} {t : Tid} {i : RoomIns} {c : RC} (h : issuesAt s t i c) :
    ∃ u y, exec (.scmp t i) s = .next u ∧ regOnly s u t y ∧ keepsRegs c.th y [] [] [] [i.d.toNat % 8] ∧ goesOn c.th y
      ∧ y.preds = setPredBit c.th.preds (i.d.toNat % 8)
          (scmpCond (i.imm.toNat % 8) (sReg c.th i.a.toNat) (sReg c.th i.b.toNat)) := by
  have himm : immF i 0 3 = i.imm.toNat % 8 := by simp [immF, wbits, bits]
  let v := scmpCond (i.imm.toNat % 8) (sReg c.th i.a.toNat) (sReg c.th i.b.toNat)
  refine ⟨_, advance1 { c.th with preds := setPredBit c.th.preds (i.d.toNat % 8) v }, next_runIns h rfl, ?_, ?_, goesOn_advance1 rfl rfl, rfl⟩
  · rw [issuesAt_state h, himm]
    exact regOnly_putTh (issuesAt_getTh h) (issuesAt_tid h)
  · exact ⟨fun _ _ => rfl, fun _ _ => rfl, fun _ _ => rfl, fun n _ hn => predBit_setPredBit_ne (by simpa using hn), rfl⟩

/-- Settles O5: each arithmetic row is one `scalarOp`; SCMP writes one predicate bit; the word gives the command by its fields. -/
theorem scalarOperations : Obligations.ScalarOperations := by
  refine ⟨fun t i s c h => ?_, fun t i s c h => ?_, fun t s c he hpc => ?_⟩
  · have done : ∀ f, scalarDone s (scalarOp s t i f) t c.th i.d (f c.th) := scalarDone_scalarOp h
    refine ⟨⟨_, rfl, done _⟩, ⟨_, rfl, done _⟩, ⟨_, rfl, done _⟩, ⟨_, rfl, done _⟩, ⟨_, rfl, done _⟩, ⟨_, rfl, done _⟩, ⟨_, rfl, ?_⟩,
      ⟨_, rfl, ?_⟩, ⟨_, rfl, ?_⟩, ⟨_, rfl, ?_⟩, ⟨_, rfl, done _⟩⟩
    · have := done (fun x => sReg x i.a.toNat <<< dbits (opX x i) 0 6)
      rwa [dbits_zero] at this
    · have := done (fun x => (sReg x i.a.toNat).sshiftRight (dbits (opX x i) 0 6))
      rwa [dbits_zero] at this
    · have := done (fun x => if (sReg x i.a.toNat).slt (opX x i) then sReg x i.a.toNat else opX x i)
      rwa [ite_slt_eq_ite_toInt_le _ _ _ _ id] at this
    · have := done (fun x => if (sReg x i.a.toNat).slt (opX x i) then opX x i else sReg x i.a.toNat)
      rwa [ite_slt_eq_ite_toInt_le _ _ _ _ Eq.symm] at this
  · have put : ∀ v, scalarDone s (putTh c.s (advance1 (setS c.th i.d.toNat v))) t c.th i.d v := fun v => by
      rw [issuesAt_state h]
      exact scalarDone_put (issuesAt_getTh h) (issuesAt_tid h) (sameRegs_refl _)
    refine ⟨⟨_, next_runIns h rfl, put _⟩, ⟨_, next_runIns h rfl, put _⟩, ?_⟩
    obtain ⟨u, y, hexec, hreg, hkeep, hgo, hpreds⟩ := scmp_runs h
    refine ⟨u, y, hexec, hreg, hkeep, hgo, fun h0 => ?_, fun h0 => ?_⟩
    · rw [hpreds, h0]; rfl
    · rw [hpreds, predBit_setPredBit_eq h0 (Nat.mod_lt _ (by decide))]
      exact scmpCond_eq _ _ _
  · obtain ⟨hpred, hneg, hd, ha, hb, hc, himm⟩ := roomIns_fields c.word
    have hnext := nextCommand_eq he hpc
    have opcode : ∀ n, c.word % 256 = n → bits c.word 0 8 = n := fun n hn => (bits_opcode _).trans hn
    refine ⟨hpred, hneg, hd, ha, hb, hc, himm, fun hw => ?_, fun hw => ?_, fun hw => ?_, fun hw => ?_, fun hw => ?_, fun hw => ?_,
      fun hw => hnext.trans (roomCommand_above t hw)⟩ <;>
    · simp only [hnext, roomCommand, opcode _ hw]

/-! ## O6: scratchpad words -/

theorem inSpad_word {c : RC} {off : Nat} (hlen : off + 8 ≤ c.spadLen) (halign : off % 8 = 0) : c.inSpad off 8 8 = true := by
  simp [RC.inSpad, hlen, halign]

/-- Settles O6: inside the window the sequencer's port moves the word, with the registers as they were at the issue. -/
theorem scratchpadWords : Obligations.ScratchpadWords := by
  intro t i s c h hok off hlen halign
  have hin : c.inSpad (spadOff c.th i) 8 8 = true := inSpad_word hlen halign
  refine ⟨fun hmay => ?_, fun hmay => ?_⟩
  · obtain ⟨x0, hsame, hseq⟩ := seq_runs hmay
    refine ⟨_, next_runIns h rfl, ?_⟩
    simp only [hin, Bool.not_true, Bool.false_eq_true, if_false]
    rw [show spadOff c.th i = off from rfl, hseq, issuesAt_state h]
    exact scalarDone_put (issuesAt_getTh h) (issuesAt_tid h) hsame
  · obtain ⟨x0, hsame, hseq⟩ := seq_runs hmay
    refine ⟨_, next_runIns h rfl, ?_⟩
    simp only [hin, Bool.not_true, Bool.false_eq_true, if_false]
    rw [show spadOff c.th i = off from rfl, hseq, issuesAt_state h]
    dsimp only
    rw [sReg_same hsame]
    exact storeDone_put (issuesAt_getTh h) (issuesAt_tid h) hsame hok

/-! ## O7: control -/

theorem repeatCount_eq (x : Thread) (i : RoomIns) : repeatCount x i = (sReg x i.a.toNat).toNat % 2 ^ 32 := dbits_zero _ _

/-- Settles O7: each row puts back its own program at the counter that follows. -/
theorem controlFlow : Obligations.ControlFlow := by
  intro t i s c h x target n
  have put : ∀ y : Thread, y.tid = x.tid → regOnly s (putTh c.s y) t y := fun y hy => by
    rw [issuesAt_state h]
    exact regOnly_putTh (issuesAt_getTh h) (hy.trans (issuesAt_tid h))
  have hn : repeatCount c.th i = n := repeatCount_eq _ _
  refine ⟨?nop, ?jump, fun hdepth => ?call, fun r rest hcalls => ?ret, fun hne hdepth => ?again, fun hzero => ?skip⟩
  case nop => exact ⟨_, _, next_runIns h rfl, put _ rfl, keepsRegs_refl _, goesOn_advance1 rfl rfl⟩
  case jump => exact ⟨_, _, next_runIns h rfl, put _ rfl, keepsRegs_refl _, rfl⟩
  case call =>
    refine ⟨_, jumpTo { x with calls := (x.pc + 1) :: x.calls } target, next_runIns h rfl, ?_, rfl, rfl, rfl, rfl⟩
    rw [if_neg (show ¬ c.th.calls.length ≥ 8 from Nat.not_le.mpr hdepth)]
    exact put _ rfl
  case ret =>
    refine ⟨_, jumpTo { x with calls := rest } r, next_runIns h rfl, ?_, rfl, rfl, rfl, rfl⟩
    rw [show c.th.calls = r :: rest from hcalls]
    exact put _ rfl
  case again =>
    refine ⟨_, { x with pc := x.pc + 1, reps := { start := x.pc + 1, len := i.imm.toNat, left := n } :: x.reps }, next_runIns h rfl,
      ?_, keepsRegs_refl x, rfl, rfl⟩
    rw [hn, if_neg hne, if_neg (show ¬ c.th.reps.length ≥ 4 from Nat.not_le.mpr hdepth)]
    exact put _ rfl
  case skip =>
    refine ⟨_, advance x (x.pc + i.imm.toNat) (x.pc + i.imm.toNat + 1), next_runIns h rfl, ?_, keepsRegs_refl x, rfl⟩
    rw [hn, if_pos hzero]
    exact put _ rfl

/-! ## O8: refusals -/

theorem inSpad_word_false {c : RC} {off : Nat} (h : c.spadLen < off + 8 ∨ off % 8 ≠ 0) : c.inSpad off 8 8 = false := by
  simp only [RC.inSpad, Bool.and_eq_false_iff, decide_eq_false_iff_not]
  omega

/-- Settles O8: each row's test fails at issue, and a refusal is `refuseRoom`. -/
theorem roomRefusals : Obligations.RoomRefusals := by
  intro t i s c h x off refused
  have facts : ∀ code d1, refused (c.refuse code d1) code d1 := fun code d1 => by
    rw [issuesAt_refuse h]
    obtain ⟨hthread, hmem⟩ := refuseRoom_facts (issuesAt_getTh h) (issuesAt_running h) (k := c.k) (code := code) (pc := c.th.pc) (d1 := d1)
    exact ⟨rfl, hthread, hmem⟩
  refine ⟨⟨_, next_runIns h rfl, facts _ _⟩, fun hdepth => ?_, fun hempty => ?_, fun hne hdepth => ?_, fun hout => ?_⟩
  · exact ⟨_, (next_runIns h rfl).trans (congrArg _ (if_pos hdepth)), facts _ _⟩
  · refine ⟨_, next_runIns h rfl, ?_⟩
    rw [show c.th.calls = [] from hempty]
    exact facts _ _
  · refine ⟨_, next_runIns h rfl, ?_⟩
    rw [repeatCount_eq, if_neg hne, if_pos (show c.th.reps.length ≥ 4 from hdepth)]
    exact facts _ _
  · have hin : c.inSpad (spadOff c.th i) 8 8 = false := inSpad_word_false hout
    refine ⟨⟨_, next_runIns h rfl, ?_⟩, _, next_runIns h rfl, ?_⟩ <;>
    · simp only [hin, Bool.not_false, if_true]
      exact facts _ _

end Sys2Proof.Proofs.RoomScalar
end

section
/-! PROOFS. O10, O12 to O14: the accumulator port and the vector unit (R140, R147 to R149, R161). -/
namespace Sys2Proof.Proofs.RoomUnits

open Sys2Proof Sys2Proof.Machine Sys2Proof.Laws Sys2Proof.Proofs.RoomBasics

/-! ## Operands -/

theorem immF_zero (i : RoomIns) (len : Nat) : immF i 0 len = i.imm.toNat % 2 ^ len := by simp [immF, wbits, bits]

theorem addVec_sameRegs {x y : Thread} (h : sameRegs x y) : sameRegs x (addVec y) :=
  sameRegs_trans h (by constructor <;> rfl)

/-- R126: an instruction of a unit that changes only memory and registers, once it may issue. -/
theorem issue_state {s : State} {t : Tid} {i : RoomIns} {c : RC} (h : issuesAt s t i c) {unit : Nat} {rs ws : List Range} {e : OutEnd}
    (hunit : unit ≠ 7) (hmay : mayIssue c unit rs ws) :
    ∃ x0, sameRegs c.th x0 ∧ ∀ g, c.issue unit rs ws e g = putTh (g s x0).1 (advance1 (g s x0).2) := by
  obtain ⟨x0, hsame, hrun⟩ := issue_runs (e := e) hunit hmay
  rw [issuesAt_state h] at hrun
  exact ⟨x0, hsame, hrun⟩

/-- R126: a store of a unit, which finds its source registers as the program had them. -/
theorem storeDone_issue {s : State} {t : Tid} {i : RoomIns} {c : RC} (h : issuesAt s t i c) (hok : MemOk s = true) {unit : Nat}
    {rs ws : List Range} {e : OutEnd} (hunit : unit ≠ 7) (hmay : mayIssue c unit rs ws) {g : State → Thread → State × Thread} {a : Nat}
    {bs : List Byte} (hstate : ∀ x, sameRegs c.th x → (g s x).1 = { s with mem := memWrite s.mem a bs })
    (hthread : ∀ x, sameRegs c.th x → sameRegs c.th (g s x).2) : storeDone s (c.issue unit rs ws e g) t c.th a bs := by
  obtain ⟨x0, hsame, hrun⟩ := issue_state (e := e) h hunit hmay
  rw [hrun, hstate x0 hsame]
  exact storeDone_put (issuesAt_getTh h) (issuesAt_tid h) (hthread x0 hsame) hok

/-- R126: a vector result of a unit. -/
theorem vectorDone_issue {s : State} {t : Tid} {i : RoomIns} {c : RC} (h : issuesAt s t i c) {unit : Nat} {rs ws : List Range}
    {e : OutEnd} (hunit : unit ≠ 7) (hmay : mayIssue c unit rs ws) {f : State → Thread → List Word} {v : List Word}
    (hf : ∀ x, sameRegs c.th x → f s x = v) :
    vectorDone s (c.issue unit rs ws e (fun s x => (s, setV (addVec x) i.d.toNat (f s x)))) t c.th i.d.toNat v := by
  obtain ⟨x0, hsame, hrun⟩ := issue_state (e := e) h hunit hmay
  rw [hrun, hf x0 hsame]
  exact vectorDone_put (issuesAt_getTh h) (issuesAt_tid h) (addVec_sameRegs hsame) i.d.isLt

/-! ## O10: the accumulator port -/

theorem tilePa_succ (r : RoomRec) (tile : Nat) : tilePa r (tile + 1) 0 = tilePa r tile 0 + 4096 := by
  unfold tilePa accAddr; omega

theorem leBytes_zero (n : Nat) : leBytes 0 n = List.replicate n 0 := by
  induction n with
  | zero => rfl
  | succ n ih => simp [leBytes, ih, List.replicate_succ]

/-- The bytes of words that are all zero. -/
theorem wordBytes_zeros (n : Nat) : wordBytes (List.replicate n 0) = List.replicate (4 * n) 0 := by
  unfold wordBytes
  rw [List.map_replicate, show (0 : Word).toNat = 0 from rfl, leBytes_zero, List.flatten_replicate_replicate, Nat.mul_comm]

/-- Zeros written: every byte of their range reads zero, every other byte as before. -/
theorem memByte_memWrite_zeros (a x k : Nat) {m : List Host.Cell} (hok : Memory.wf m = true) :
    (a ≤ x → x < a + k → memByte (memWrite m a (List.replicate k 0)) x = 0)
      ∧ (x < a ∨ a + k ≤ x → memByte (memWrite m a (List.replicate k 0)) x = memByte m x) := by
  refine ⟨fun hlo hhi => ?_, fun hx => memByte_memWrite_out (by rwa [List.length_replicate])⟩
  obtain ⟨j, rfl⟩ := Nat.exists_eq_add_of_le hlo
  rw [memByte_memWrite_in hok (by rw [List.length_replicate]; omega), List.getElem_replicate]

theorem memByte_writeZeroTile (r : RoomRec) (tile x : Nat) {m : List Host.Cell} (hok : Memory.wf m = true) :
    (tilePa r tile 0 ≤ x → x < tilePa r tile 0 + 4096 → memByte (writeTile m r tile (List.replicate 1024 0)) x = 0)
      ∧ (x < tilePa r tile 0 ∨ tilePa r tile 0 + 4096 ≤ x →
          memByte (writeTile m r tile (List.replicate 1024 0)) x = memByte m x) := by
  unfold writeTile
  rw [wordBytes_zeros]
  exact memByte_memWrite_zeros _ x (4 * 1024) hok

/-- ACC_ZERO writes zero over its tiles and no other byte. -/
theorem memByte_zeroTiles (r : RoomRec) (x tile n : Nat) {m : List Host.Cell} (hok : Memory.wf m = true) :
    (tilePa r tile 0 ≤ x → x < tilePa r tile 0 + 4096 * n → memByte (zeroTiles r tile m n) x = 0)
      ∧ (x < tilePa r tile 0 ∨ tilePa r tile 0 + 4096 * n ≤ x → memByte (zeroTiles r tile m n) x = memByte m x) := by
  induction n generalizing tile m with
  | zero => exact ⟨fun hlo hhi => by omega, fun _ => rfl⟩
  | succ n ih =>
    obtain ⟨hfirst, hrest⟩ := memByte_writeZeroTile r tile x hok
    obtain ⟨hin, hout⟩ := ih (tile + 1) (writeTile_ok (r := r) (t := tile) (ws := List.replicate 1024 0) hok)
    rw [tilePa_succ] at hin hout
    rw [zeroTiles]
    refine ⟨fun hlo hhi => ?_, fun hx => ?_⟩
    · by_cases hx : x < tilePa r tile 0 + 4096
      · rw [hout (Or.inl hx), hfirst hlo hx]
      · exact hin (by omega) (by omega)
    · have hbeyond : x < tilePa r tile 0 ∨ tilePa r tile 0 + 4096 ≤ x :=
        hx.imp_right (Nat.le_trans (Nat.add_le_add_left (Nat.le_mul_of_pos_right _ n.succ_pos) _))
      rw [hout (by omega), hrest hbeyond]

theorem accBytes_unscaled (o : AccImm) (ws : List Word) (h : o.scale = 0) : (accBytes o ws).2 = [] := by
  simp [accBytes, h]

theorem memWf_of_memOk {s : State} (h : MemOk s = true) : Memory.wf s.mem = true := by
  simp only [MemOk, Bool.and_eq_true] at h
  exact h.1

/-- Settles O10: each row is one issue to the accumulator port, past the tests of its tile and window. -/
theorem accumulatorPort : Obligations.AccumulatorPort := by
  intro t i s c h hok a b lo n o out
  have hlo : immF i 0 5 = lo := immF_zero i 5
  have hn : immF i 5 5 + 1 = n := rfl
  have hthread := issuesAt_getTh h
  have htid := issuesAt_tid h
  refine ⟨fun htiles hmay => ?zero, fun hin htile hmay => ?copy, fun hin htile hscale hmay => ?plain,
    fun hin hinScale htile hscale hmay => ?scaled⟩
  case zero =>
    obtain ⟨x0, hsame, hrun⟩ := issue_state (e := .unit) h (by decide) hmay
    have hzero := fun x => memByte_zeroTiles c.r x lo n (memWf_of_memOk hok)
    refine ⟨_, advance1 x0, next_runIns h rfl, ?_, keepsRegs_same hsame _ _ _ _, goesOn_advance1 hsame.pc hsame.reps, ?_⟩
    · simp only [hlo, hn, if_neg (Nat.not_lt.mpr htiles), hrun]
      exact memOnly_putTh hthread (hsame.tid.trans htid)
    · simp only [hlo, hn, if_neg (Nat.not_lt.mpr htiles), hrun]
      exact ⟨fun x => (hzero x).1, fun x => (hzero x).2⟩
  case copy =>
    refine ⟨_, next_runIns h rfl, ?_⟩
    simp only [hlo, show (sReg c.th i.a.toNat).toNat = a from rfl, hin, htile, decide_true, Bool.and_self, Bool.not_true, Bool.false_eq_true, if_false]
    refine storeDone_issue h hok (by decide) hmay (fun x hx => ?_) (fun x hx => hx)
    unfold RC.spad
    rw [issuesAt_state h]
  case plain =>
    refine ⟨_, next_runIns h rfl, ?_⟩
    simp only [show accImm i.imm = o from rfl, show (sReg c.th i.a.toNat).toNat = a from rfl, hin, htile, hscale, decide_true,
      Bool.and_self, Bool.true_or, Bool.not_true, Bool.false_eq_true, if_false, if_true, List.append_nil]
    refine storeDone_issue h hok (by decide) hmay (fun x hx => ?_) (fun x hx => hx)
    simp only [accOutMem, accBytes_unscaled o _ hscale, memWrite]
    rfl
  case scaled =>
    obtain ⟨x0, hsame, hrun⟩ := issue_state (e := .unit) h (by decide) hmay
    refine ⟨_, advance1 x0, next_runIns h rfl, ?_, keepsRegs_same hsame _ _ _ _, goesOn_advance1 hsame.pc hsame.reps, ?_⟩ <;>
    simp only [show accImm i.imm = o from rfl, show (sReg c.th i.a.toNat).toNat = a from rfl,
      show (sReg c.th i.b.toNat).toNat = b from rfl, hin, hinScale, htile, hscale, decide_true, decide_false,
      Bool.and_self, Bool.or_true, Bool.not_true, Bool.false_eq_true, if_false, List.singleton_append, hrun]
    · exact memOnly_putTh hthread (hsame.tid.trans htid)
    · rfl

/-! ## O12: lanes -/

theorem lanes2_eq (x : Thread) (i : RoomIns) (f : Word → Word → Word) :
    lanes2 x i f = List.zipWith f (vReg x i.a.toNat) (vReg x i.b.toNat) := by
  simp [lanes2, List.zip, List.map_zipWith]

/-- R140: a lane operation over two vector registers. -/
theorem vectorDone_vec2 {s : State} {t : Tid} {i : RoomIns} {c : RC} (h : issuesAt s t i c)
    (hmay : mayIssue c 4 [rV i.a.toNat, rV i.b.toNat] [rV i.d.toNat]) (f : Word → Word → Word) :
    vectorDone s (vec2 s t i f) t c.th i.d.toNat (List.zipWith f (vReg c.th i.a.toNat) (vReg c.th i.b.toNat)) := by
  unfold vec2 vecOp
  rw [runIns_issues h]
  refine vectorDone_issue h (by decide) hmay (fun x hx => ?_)
  rw [lanes2_eq, vReg_same hx, vReg_same hx]

/-- A vector operation that reads the registers of the program as they are at its issue. -/
theorem vectorDone_vecOp {s : State} {t : Tid} {i : RoomIns} {c : RC} (h : issuesAt s t i c) {rs : List Range}
    (hmay : mayIssue c 4 rs [rV i.d.toNat]) {f : Thread → List Word} {v : List Word} (hf : ∀ x, sameRegs c.th x → f x = v) :
    vectorDone s (vecOp s t i rs f) t c.th i.d.toNat v := by
  unfold vecOp
  rw [runIns_issues h]
  exact vectorDone_issue h (by decide) hmay hf

theorem enum_getElem? {A : Type} (l : List A) (n : Nat) : (enum l)[n]? = l[n]?.map (fun a => (n, a)) := by
  rcases Nat.lt_or_ge n l.length with h | h
  · simp [enum, h]
  · simp [enum, h]

/-- R140: a lane of VSEL. -/
theorem select_lane (va vb : List Word) (m : DWord) {l : Nat} (ha : l < va.length) (hb : l < vb.length) :
    ((enum (List.zipWith (fun a _ => a) va vb)).map (fun p => if bitOf m.toNat p.1 then p.2 else vb.getD p.1 0))[l]?
      = if m.getLsbD l then va[l]? else vb[l]? := by
  have hz : (List.zipWith (fun a _ => a) va vb)[l]? = some va[l] := by
    rw [List.getElem?_zipWith, List.getElem?_eq_getElem ha, List.getElem?_eq_getElem hb]
  rw [List.getElem?_map, enum_getElem?, hz]
  simp [bitOf_testBit, ha, hb, BitVec.testBit_toNat]
  split <;> rfl

/-- Settles O12: each row is one vector result over the registers at its issue. -/
theorem vectorArithmetic : Obligations.VectorArithmetic := by
  intro t i s c h d va vb sa two
  refine ⟨fun hmay => ?two, fun hmay => ?three, fun hmay => ?select, fun hmay => ?scalar⟩
  case two =>
    exact ⟨⟨_, rfl, vectorDone_vec2 h hmay _⟩, ⟨_, rfl, vectorDone_vec2 h hmay _⟩, ⟨_, rfl, vectorDone_vec2 h hmay _⟩,
      ⟨_, rfl, vectorDone_vec2 h hmay _⟩, ⟨_, rfl, vectorDone_vec2 h hmay _⟩⟩
  case three =>
    refine ⟨_, rfl, vectorDone_vecOp h hmay (fun x hx => ?_)⟩
    rw [vReg_same hx, vReg_same hx, vReg_same hx, List.zip, List.map_zipWith]
  case select =>
    have hdone := vectorDone_vecOp h hmay (f := fun x => (enum (lanes2 x i (fun a _ => a))).map (fun p =>
      if bitOf (mReg x i.c.toNat).toNat p.1 then p.2 else (vReg x i.b.toNat).getD p.1 0)) (fun x hx => by
        rw [lanes2_eq, vReg_same hx, vReg_same hx, mReg_same hx])
    obtain ⟨y, hreg, hval, hkeep, hgo⟩ := hdone
    refine ⟨_, y, rfl, ⟨y, hreg, rfl, hkeep, hgo⟩, hreg.1, fun l ha hb => ?_⟩
    rw [hval]
    exact select_lane va vb _ ha hb
  case scalar =>
    refine ⟨⟨_, rfl, vectorDone_vecOp h hmay (fun x hx => ?_)⟩, ⟨_, rfl, vectorDone_vecOp h hmay (fun x hx => ?_)⟩, _, next_runIns h rfl,
      vectorDone_issue h (by decide) hmay (fun x hx => ?_)⟩ <;>
    rw [sReg_same hx]
    rw [immF_zero]

/-! ## O13: masks and reductions -/

theorem mReg_mod (x : Thread) (n : Nat) : mReg x (n % 8) = mReg x n := by
  unfold mReg; rw [Nat.mod_mod]

/-- Settles O13: VCMP writes one mask, VRED one scalar register through the sequencer's port. -/
theorem vectorCompareAndReduce : Obligations.VectorCompareAndReduce := by
  intro t i s c h va vb m
  refine ⟨fun hmay => ?_, fun hmay => ?_⟩
  · obtain ⟨x0, hsame, hrun⟩ := issue_state (e := .unit) h (by decide) hmay
    have hsame' := addVec_sameRegs hsame
    let v := BitVec.ofNat 64 (maskOf (List.zipWith (vcmpCond (i.imm.toNat % 8)) va vb))
    refine ⟨_, advance1 (setM (addVec x0) i.d.toNat v), next_runIns h rfl, ?_, keepsRegs_setM hsame' _ _,
      goesOn_advance1 (by simp [hsame'.pc]) (by simp [hsame'.reps]), fun h0 => by simp [mReg, m, h0], fun h0 => ?_⟩
    · rw [hrun, immF_zero, vReg_same hsame, vReg_same hsame, List.zip, List.map_zipWith]
      exact regOnly_putTh (issuesAt_getTh h) (by simp [advance1, hsame'.tid, issuesAt_tid h])
    · rw [mReg_mod]
      exact mReg_setM_eq _ _ h0
  · obtain ⟨x0, hsame, hrun⟩ := seq_runs hmay
    refine ⟨_, next_runIns h rfl, ?_⟩
    rw [hrun, issuesAt_state h, immF_zero, vReg_same hsame]
    exact scalarDone_put (issuesAt_getTh h) (issuesAt_tid h) (addVec_sameRegs hsame)

/-! ## O14: loads and stores -/

/-- Settles O14: inside the window or the tiles each row is one issue to the vector unit. -/
theorem vectorLoadsAndStores : Obligations.VectorLoadsAndStores := by
  intro t i s c h hok off n d tile row
  have htile : immF i 0 5 = tile := immF_zero i 5
  have hrow : tilePa c.r tile (64 * immF i 5 4) = row := rfl
  refine ⟨fun hin => ?_, fun hlt => ?_⟩
  · have hin' : c.inSpad (spadOff c.th i) (2 * groupBytes i.c.toNat) 8 = true := hin
    refine ⟨fun hmay => ⟨_, next_runIns h rfl, ?_⟩, fun hmay => ⟨_, next_runIns h rfl, ?_⟩⟩ <;>
    simp only [hin', Bool.not_true, Bool.false_eq_true, if_false]
    · refine vectorDone_issue h (by decide) hmay (fun x hx => ?_)
      unfold RC.spad
      rw [issuesAt_state h]
      rfl
    · refine storeDone_issue h hok (by decide) hmay (fun x hx => ?_) (fun x hx => addVec_sameRegs hx)
      rw [vReg_same hx]
      rfl
  · refine ⟨fun hmay => ⟨_, next_runIns h rfl, ?_⟩, fun hmay => ⟨_, next_runIns h rfl, ?_⟩⟩ <;>
    simp only [htile, hrow, if_neg (Nat.not_le.mpr hlt)]
    · exact vectorDone_issue h (by decide) hmay (fun x hx => rfl)
    · refine storeDone_issue h hok (by decide) hmay (fun x hx => ?_) (fun x hx => addVec_sameRegs hx)
      rw [vReg_same hx]

end Sys2Proof.Proofs.RoomUnits
end

section
/-! PROOFS. O16, O18, O19, O21, O22: wing DMA, pantry flags and atomics, waits, and the end of a step on a room (R126, R135, R152,
R153, R155, R293 to R301). -/
namespace Sys2Proof.Proofs.RoomWaits

open Sys2Proof Sys2Proof.Machine Sys2Proof.Laws Sys2Proof.Proofs.RoomBasics Sys2Proof.Proofs.StateParts Sys2Proof.Proofs.RoomUnits

/-! ## Notes of accesses -/

/-- A program that differs from another only in the accesses it has noted (R72). -/
def Noted (x y : Thread) : Prop := ∃ rds wrs dirty, y = { x with rds := rds, wrs := wrs, dirty := dirty }

theorem Noted.refl (x : Thread) : Noted x x := ⟨_, _, _, rfl⟩

theorem Noted.trans {x y z : Thread} (h : Noted x y) (g : Noted y z) : Noted x z := by
  obtain ⟨_, _, _, rfl⟩ := h
  obtain ⟨_, _, _, rfl⟩ := g
  exact ⟨_, _, _, rfl⟩

theorem Noted.foldl {A : Type} {f : Thread → A → Thread} (hf : ∀ x a, Noted x (f x a)) (l : List A) (x : Thread) :
    Noted x (l.foldl f x) := by
  induction l generalizing x with
  | nil => exact .refl x
  | cons a r ih => exact (hf x a).trans (ih _)

theorem noted_noteRead (x : Thread) (r : Range) : Noted x (noteRead x r) := by
  unfold noteRead; split <;> exact ⟨_, _, _, rfl⟩

theorem noted_noteWrite (x : Thread) (r : Range) : Noted x (noteWrite x r) := by
  unfold noteWrite; split <;> exact ⟨_, _, _, rfl⟩

theorem noted_noteAll (x : Thread) (rs ws : List Range) : Noted x (noteAll x rs ws) :=
  (Noted.foldl noted_noteRead rs x).trans (Noted.foldl noted_noteWrite ws _)

theorem noted_noteCtxRead (s : State) (x : Thread) (r : Range) : Noted x (noteCtxRead s x r) := by
  unfold noteCtxRead
  split
  · exact .refl x
  · exact noted_noteRead x r

theorem noted_noteCtxWrite (s : State) (x : Thread) (w : Range) : Noted x (noteCtxWrite s x w) := by
  unfold noteCtxWrite
  dsimp only
  split
  · exact (noted_noteWrite x w).trans ⟨_, _, _, rfl⟩
  · exact noted_noteWrite x w

theorem noted_noteCtx (s : State) (x : Thread) (rs ws : List Range) : Noted x (noteCtx s x rs ws) :=
  (Noted.foldl (noted_noteCtxRead s) rs x).trans (Noted.foldl (noted_noteCtxWrite s) ws _)

theorem noted_noteVa (s : State) (x : Thread) (rs ws : List (Nat × Nat)) : Noted x (noteVa s x rs ws) := noted_noteCtx _ _ _ _

theorem noted_noteFlag (s : State) (x : Thread) (va : Nat) (lowers : Bool) : Noted x (noteFlag s x va lowers) := by
  unfold noteFlag
  split
  · exact noted_noteVa _ _ _ _
  · exact noted_noteCtx _ _ _ _

theorem Noted.sameRegs {x y : Thread} (h : Noted x y) : sameRegs x y := by
  obtain ⟨_, _, _, rfl⟩ := h
  constructor <;> rfl

theorem Noted.lates {x y : Thread} (h : Noted x y) : y.lates = x.lates := by
  obtain ⟨_, _, _, rfl⟩ := h
  rfl

theorem addMov_sameRegs {x y : Thread} (h : Laws.sameRegs x y) : Laws.sameRegs x (addMov y) :=
  sameRegs_trans h (by constructor <;> rfl)

/-- R126: an issue to a unit, with the late transfers that the program holds as before. -/
theorem issue_lates {s : State} {t : Tid} {i : RoomIns} {c : RC} (h : issuesAt s t i c) {unit : Nat} {rs ws : List Range} {e : OutEnd}
    (hunit : unit ≠ 7) (hmay : mayIssue c unit rs ws) :
    ∃ x0, sameRegs c.th x0 ∧ x0.lates = c.th.lates ∧ ∀ g, c.issue unit rs ws e g = putTh (g s x0).1 (advance1 (g s x0).2) := by
  unfold mayIssue at hmay
  rw [if_neg hunit] at hmay
  obtain ⟨l, hl⟩ := Option.isSome_iff_exists.mp hmay
  have hnoted := noted_noteAll c.th (windowRanges rs) (windowRanges ws)
  refine ⟨{ noteAll c.th (windowRanges rs) (windowRanges ws) with outs := l ++ [{ unit := unit, reads := rs, writes := ws, ends := e }] },
    sameRegs_trans hnoted.sameRegs (by constructor <;> rfl), hnoted.lates, fun g => ?_⟩
  unfold RC.issue
  rw [hl, issuesAt_state h]

/-! ## O16: wing DMA -/

/-- Writes of many places leave every other byte alone. -/
theorem memByte_foldl_memWrite_out {A : Type} (f : A → Nat) (bs : A → List Byte) {l : List A} {b : Nat} (m : List Host.Cell)
    (h : ∀ q ∈ l, b < f q ∨ f q + (bs q).length ≤ b) : memByte (l.foldl (fun m q => memWrite m (f q) (bs q)) m) b = memByte m b := by
  induction l generalizing m with
  | nil => rfl
  | cons q r ih =>
    rw [List.foldl_cons, ih _ (fun q' hq' => h q' (List.mem_cons_of_mem _ hq')), memByte_memWrite_out (h q List.mem_cons_self)]

/-- A write at a context address leaves alone every byte that none of its addresses maps to. -/
theorem memByte_writeVaMem_out {s : State} {ctx b : Nat} (va : Nat) (m : List Host.Cell) (bs : List Byte)
    (h : ∀ j, j < bs.length → paOf s ctx (va + j) ≠ some b) : memByte (writeVaMem s ctx va m bs) b = memByte m b := by
  induction bs generalizing va m with
  | nil => rfl
  | cons a r ih =>
    have hrest : ∀ j, j < r.length → paOf s ctx (va + 1 + j) ≠ some b := fun j hj => by
      rw [Nat.add_assoc, Nat.add_comm 1 j]
      exact h (j + 1) (Nat.succ_lt_succ hj)
    rw [writeVaMem, ih _ _ hrest]
    split
    · next pa hpa =>
      refine memByte_memPut_ne (fun heq => h 0 (Nat.succ_pos _) ?_)
      rw [Nat.add_zero, hpa, heq]
    · rfl

theorem memByte_foldl_writeVaMem_out {s : State} {ctx b : Nat} (l : List (Nat × List Byte)) (m : List Host.Cell)
    (h : ∀ w ∈ l, ∀ j, j < w.2.length → paOf s ctx (w.1 + j) ≠ some b) :
    memByte (l.foldl (fun m w => writeVaMem s ctx w.1 m w.2) m) b = memByte m b := by
  induction l generalizing m with
  | nil => rfl
  | cons w r ih =>
    rw [List.foldl_cons, ih _ (fun w' hw' => h w' (List.mem_cons_of_mem _ hw')),
      memByte_writeVaMem_out _ _ _ (h w List.mem_cons_self)]

section
variable {s : State} {t : Tid} {i : RoomIns} {c : RC} (h : issuesAt s t i c)
include h

theorem dmaIn_prompt {d : Dma} (hd : dmaOf (c.desc i.imm.toNat 64) = d) {sa sb : Nat} (hsa : (sReg c.th i.a.toNat).toNat = sa)
    (hsb : (sReg c.th i.b.toNat).toNat = sb) (hlate : d.late = 0) (hbad : d.bad c sa sb false = none)
    (hbusy : ctxBusy c.th true (d.ctxRanges sb) [] = false) (hmay : mayIssue c 6 [] [d.range sa]) :
    ∃ u y, exec (.dmaIn t i) s = .next u ∧ memOnly s u t y ∧ keepsRegs c.th y [] [] [] [] ∧ goesOn c.th y
      ∧ u.mem = d.runIn s c.ctx c.r sa sb := by
  obtain ⟨x0, hsame, hlates, hrun⟩ := issue_lates (e := .unit) h (by decide) hmay
  let y := addMov (noteVa s { x0 with occs := aSet x0.occs x0.pc (occOf c.th + 1) } (d.ctxRanges sb) [])
  have hsame' : sameRegs c.th y :=
    addMov_sameRegs (sameRegs_trans (sameRegs_trans hsame (by constructor <;> rfl)) (noteVa_sameRegs _ _ _ _))
  refine ⟨_, advance1 y, next_runIns h rfl, ?_, keepsRegs_same hsame' _ _ _ _, goesOn_advance1 hsame'.pc hsame'.reps, ?_⟩ <;>
  simp only [hd, hsa, hsb, hlate, hbad, hbusy, ne_eq, not_true_eq_false, decide_false, Bool.and_false, Bool.false_and,
    Bool.false_eq_true, if_false, hrun, statusWrite, if_true]
  · exact memOnly_putTh (issuesAt_getTh h) (hsame'.tid.trans (issuesAt_tid h))
  · rfl

theorem dmaIn_limited {d : Dma} (hd : dmaOf (c.desc i.imm.toNat 64) = d) {sa sb : Nat} (hsa : (sReg c.th i.a.toNat).toNat = sa)
    (hsb : (sReg c.th i.b.toNat).toNat = sb) (hlate : d.late ≠ 0) (hreplay : replaying c.p = false) (hbad : d.bad c sa sb false = none)
    (hbusy : ctxBusy c.th true (d.ctxRanges sb) [] = false) (hmay : mayIssue c 6 [] [d.range sa]) :
    ∃ u y, exec (.dmaIn t i) s = .next u ∧ regOnly s u t y ∧ keepsRegs c.th y [] [] [] [] ∧ goesOn c.th y
      ∧ ∃ l, y.lates = c.th.lates ++ [l] ∧ l.desc = c.desc i.imm.toNat 64 ∧ l.sa = sa ∧ l.sb = sb ∧ l.pc = c.th.pc := by
  obtain ⟨x0, hsame, hlates, hrun⟩ := issue_lates (e := .late) h (by decide) hmay
  have hnoted := noted_noteVa s { x0 with occs := aSet x0.occs x0.pc (occOf c.th + 1) } (d.ctxRanges sb) []
  have hsame' := addMov_sameRegs (sameRegs_trans (sameRegs_trans hsame (by constructor <;> rfl)) hnoted.sameRegs)
  let l : LateDma := { desc := c.desc i.imm.toNat 64, sa := sa, sb := sb, pc := x0.pc, occ := occOf c.th }
  let y := addMov (noteVa s { x0 with occs := aSet x0.occs x0.pc (occOf c.th + 1) } (d.ctxRanges sb) [])
  have hy : sameRegs c.th { y with lates := y.lates ++ [l] } := sameRegs_trans hsame' (by constructor <;> rfl)
  refine ⟨_, advance1 { y with lates := y.lates ++ [l] }, next_runIns h rfl, ?_, keepsRegs_same hy _ _ _ _,
    goesOn_advance1 hy.pc hy.reps, l, ?_, rfl, rfl, rfl, hsame.pc⟩
  · simp only [hd, hsa, hsb, hlate, hreplay, hbad, hbusy, ne_eq, not_false_eq_true, decide_true, Bool.false_and, Bool.not_false,
      Bool.true_and, Bool.false_eq_true, if_false, if_true, hrun]
    exact regOnly_putTh (issuesAt_getTh h) (hy.tid.trans (issuesAt_tid h))
  · exact congrArg (· ++ [l]) (hnoted.lates.trans hlates)

theorem dmaOut_runs {d : Dma} (hd : dmaOf (c.desc i.imm.toNat 64) = d) {sa sb : Nat} (hsa : (sReg c.th i.a.toNat).toNat = sa)
    (hsb : (sReg c.th i.b.toNat).toNat = sb) (hbad : d.bad c sa sb true = none)
    (hbusy : ctxBusy c.th true [] (d.ctxRanges sb) = false) (hfence : fencedOff c.th = false) (hmay : mayIssue c 6 [d.range sa] []) :
    ∃ u y, exec (.dmaOut t i) s = .next u ∧ memOnly s u t y ∧ keepsRegs c.th y [] [] [] [] ∧ goesOn c.th y
      ∧ u.mem = d.runOut s c.ctx c.r sa sb := by
  obtain ⟨x0, hsame, hrun⟩ := issue_state (e := .unit) h (by decide) hmay
  have hsame' := addMov_sameRegs (sameRegs_trans hsame (noteVa_sameRegs s x0 [] (d.ctxRanges sb)))
  refine ⟨_, advance1 (addMov (noteVa s x0 [] (d.ctxRanges sb))), next_runIns h rfl, ?_, keepsRegs_same hsame' _ _ _ _,
    goesOn_advance1 hsame'.pc hsame'.reps, ?_⟩ <;>
  simp only [hd, hsa, hsb, hbad, hbusy, hfence, Bool.or_self, Bool.false_eq_true, if_false, hrun]
  · exact memOnly_putTh (issuesAt_getTh h) (hsame'.tid.trans (issuesAt_tid h))
  · rfl

end

/-- A sequencer that runs has no wait that could end. -/
theorem settleWait_running {s : State} {t : Tid} {y : Thread} (hy : getTh s t = some y) (hstat : y.stat = .running) :
    settleWait s t = s := by
  unfold settleWait
  rw [hy]
  dsimp only
  rw [hstat]

theorem planRun_lateFetch {s : State} {t : Tid} {q : StepRun} (k pc occ : Nat) (h : planRun s t.key = some q) :
    planRun (lateFetch s t k pc occ) t.key = some { q with lateFetch := true } := by
  unfold lateFetch
  refine planRun_modPlan_run (f := fun r => { r with lateFetch := true }) (fun _ => rfl) (fun _ => rfl) ?_
  rw [planRun_addItem, planRun_raisePlan, h]

/-- R299: the late transfer leaves the program, its destination is zero, and the plan's step notes it. -/
theorem dmaLate_expires {t : Tid} {s : State} {x : Thread} {p : Plan} {q : StepRun} {r : RoomRec} {l : LateDma} {rest : List LateDma}
    (halive : alive s = true) (hx : getTh s t = some x) (hrunning : running x) (hlates : x.lates = l :: rest)
    (hp : getPlan s t.key = some p) (hq : p.run = some q) (hr : thRec s t = some r) :
    ∃ u y, exec (.dmaLate t) s = .next u ∧ getTh u t = some y ∧ y.lates = rest ∧ keepsRegs x y [] [] [] [] ∧ y.pc = x.pc
      ∧ u.mem = statusWrite (lateZero s.mem r (dmaOf l.desc) l.sa) r (dmaOf l.desc) true
      ∧ planRun u t.key = some { q with lateFetch := true } ∧ ∀ t', t' ≠ t → getTh u t' = getTh s t' := by
  let m := statusWrite (lateZero s.mem r (dmaOf l.desc) l.sa) r (dmaOf l.desc) true
  let f := fun z : Thread => { z with lates := rest, outs := dropFirst (fun o => o.ends == OutEnd.late) z.outs }
  let s1 := modTh { s with mem := m } t f
  let u := lateFetch s1 t (stepOf s t.key) l.pc l.occ
  have hend : lateEnd s t true = u := by
    unfold lateEnd
    rw [hx, hr]
    dsimp only
    rw [hlates]
    rfl
  have hthreads : u.threads = s1.threads := threads_of_keep (lateFetch_keep rfl (keep_refl _ _))
  have hmem : u.mem = m := mem_of_keep (lateFetch_keep rfl (keep_refl _ _))
  have hy : getTh u t = some (f x) := by
    rw [getTh_of_threads hthreads]
    exact getTh_modTh_eq (s := { s with mem := m }) hx (fun _ => rfl)
  have hexec : exec (.dmaLate t) s = .next u := by
    show Host.Outcome.next _ = _
    rw [if_pos halive, hend, settleWait_running hy hrunning]
  refine ⟨u, f x, hexec, hy, rfl, keepsRegs_of_eq rfl rfl rfl rfl rfl, rfl, hmem, planRun_lateFetch _ _ _ ?_, fun t' ht' => ?_⟩
  · show planRun s t.key = some q
    unfold planRun
    rw [hp, Option.bind_some, hq]
  · rw [getTh_of_threads hthreads]
    exact getTh_modTh_ne (s := { s with mem := m }) (fun _ => rfl) ht'

/-- Settles O16: past the checks of R297 a transfer is one issue to the move unit; its writes are those of its items. -/
theorem wingDma : Obligations.WingDma := by
  refine ⟨?_, fun t s x p q r l rest halive hx hrunning hlates hp hq hr => dmaLate_expires halive hx hrunning hlates hp hq hr⟩
  intro t i s c h d sa sb
  refine ⟨fun hlate hbad hbusy hmay => ?inItems, fun hlate hreplay hbad hbusy hmay =>
    dmaIn_limited h rfl rfl rfl hlate hreplay hbad hbusy hmay, fun hbad hbusy hfence hmay => ?outItems, fun hbad hbusy => ?inWaits,
    fun hbad hbusy => ?outWaits, fun a hbad => ?inRefused, fun a hbad => ?outRefused⟩
  case inItems =>
    obtain ⟨u, y, hexec, honly, hkeep, hgo, hmem⟩ := dmaIn_prompt h rfl rfl rfl hlate hbad hbusy hmay
    refine ⟨u, y, hexec, honly, hkeep, hgo, hmem, fun b hb => ?_⟩
    rw [hmem]
    exact memByte_foldl_memWrite_out _ _ _ hb
  case outItems =>
    obtain ⟨u, y, hexec, honly, hkeep, hgo, hmem⟩ := dmaOut_runs h rfl rfl rfl hbad hbusy hfence hmay
    refine ⟨u, y, hexec, honly, hkeep, hgo, hmem, fun b hb => ?_⟩
    rw [hmem]
    refine memByte_foldl_writeVaMem_out _ _ (fun w hw j hj => ?_)
    obtain ⟨items, hitems, hw⟩ := List.mem_flatten.mp hw
    obtain ⟨q, hq, rfl⟩ := List.mem_map.mp hitems
    exact hb q hq w hw j hj
  case inWaits =>
    refine (next_runIns h rfl).trans ?_
    simp only [show dmaOf (c.desc i.imm.toNat 64) = d from rfl, show (sReg c.th i.a.toNat).toNat = sa from rfl,
      show (sReg c.th i.b.toNat).toNat = sb from rfl, hbad, hbusy, if_true, issuesAt_state h]
  case outWaits =>
    have hwait : (ctxBusy c.th true [] (d.ctxRanges sb) || fencedOff c.th) = true := by simpa using hbusy
    refine (next_runIns h rfl).trans ?_
    simp only [show dmaOf (c.desc i.imm.toNat 64) = d from rfl, show (sReg c.th i.a.toNat).toNat = sa from rfl,
      show (sReg c.th i.b.toNat).toNat = sb from rfl, hbad, hwait, if_true, issuesAt_state h]
  case inRefused =>
    refine ⟨_, next_runIns h rfl, ?_⟩
    simp only [show dmaOf (c.desc i.imm.toNat 64) = d from rfl, show (sReg c.th i.a.toNat).toNat = sa from rfl,
      show (sReg c.th i.b.toNat).toNat = sb from rfl, hbad, issuesAt_refuse h]
  case outRefused =>
    refine ⟨_, next_runIns h rfl, ?_⟩
    simp only [show dmaOf (c.desc i.imm.toNat 64) = d from rfl, show (sReg c.th i.a.toNat).toNat = sa from rfl,
      show (sReg c.th i.b.toNat).toNat = sb from rfl, hbad, issuesAt_refuse h]

/-! ## O18: flags -/

theorem bitOf_zero (v : Word) : bitOf v.toNat 0 = v.getLsbD 0 := by rw [bitOf_testBit, BitVec.testBit_toNat]

theorem flagMet_iff (m : List Host.Cell) (pa : Nat) (v : DWord) (eq : Bool) :
    flagMet m pa v eq = true ↔ if eq then leNat (memRead m pa 8) = v.toNat else v.toNat ≤ leNat (memRead m pa 8) := by
  cases eq <;> simp [flagMet]

/-- A program put back with the same registers, in memory or not, at the place where it stands. -/
theorem regOnly_put {s : State} {t : Tid} {x y : Thread} (hx : getTh s t = some x) (ht : x.tid = t) (htid : y.tid = x.tid) :
    regOnly s (putTh s y) t y := regOnly_putTh hx (htid.trans ht)

theorem flagWaitComplete_waiting {s : State} {t : Tid} {x : Thread} {pa : Nat} {v : DWord} {eq : Bool} (halive : alive s = true)
    (hx : getTh s t = some x) (hheld : roomHeld s x = false) (hstat : x.stat = .waiting (.flag pa v eq)) :
    exec (.flagWaitComplete t) s = .next (if flagMet s.mem pa v eq then putTh s (resume x) else s) := by
  show Host.Outcome.next (flagWaitComplete s t) = _
  unfold flagWaitComplete
  rw [hx]
  dsimp only
  rw [hstat]
  simp only [halive, hheld, Bool.not_false, Bool.true_and]

/-- Settles O18: an address that R152 allows gives the store or the wait, once no access of the room to it has still to come. -/
theorem pantryFlags : Obligations.PantryFlags := by
  constructor
  · intro t i s c h hok va
    have ht : c.t.key = t.key := congrArg _ (issuesAt_t h)
    have hva : (sReg c.th i.a.toNat).toNat = va := rfl
    have hthread := issuesAt_getTh h
    have htid := issuesAt_tid h
    refine ⟨fun pa hpa hbusy hfence => ?set, fun pa hpa hbusy => ?setWaits, fun pa hpa hbusy => ?waitWaits, fun pa hpa hbusy => ?wait,
      fun hpa => ?setRefused, fun hpa => ?waitRefused⟩
    case set =>
      refine ⟨_, next_runIns h rfl, ?_⟩
      simp only [hva, ht, issuesAt_state h, hpa, hbusy, hfence, Bool.or_self, Bool.false_eq_true, if_false]
      exact storeDone_put hthread htid (noted_noteFlag _ _ _ _).sameRegs hok
    case setWaits =>
      refine (next_runIns h rfl).trans ?_
      simp only [hva, ht, issuesAt_state h, hpa, Bool.or_eq_true, hbusy, if_true]
    case waitWaits =>
      refine (next_runIns h rfl).trans ?_
      simp only [hva, ht, issuesAt_state h, hpa, hbusy, if_true]
    case wait =>
      have hnoted := (noted_noteCtx s c.th (vaRanges (if i.imm.getLsbD 0 then .ctx else .ge) [(va, 8)]) []).sameRegs
      refine ⟨_, { noteCtx s c.th (vaRanges (if i.imm.getLsbD 0 then .ctx else .ge) [(va, 8)]) [] with
        stat := .waiting (.flag pa (sReg c.th i.b.toNat) (i.imm.getLsbD 0)) }, next_runIns h rfl, ?_,
        keepsRegs_of_eq hnoted.regs hnoted.vregs hnoted.masks hnoted.preds hnoted.calls, hnoted.pc, rfl⟩
      simp only [hva, ht, issuesAt_state h, hpa, hbusy, Bool.false_eq_true, if_false, bitOf_zero]
      exact regOnly_put hthread htid hnoted.tid
    case setRefused =>
      refine ⟨_, next_runIns h rfl, ?_⟩
      simp only [hva, ht, issuesAt_state h, hpa, issuesAt_refuse h]
    case waitRefused =>
      refine ⟨_, next_runIns h rfl, ?_⟩
      simp only [hva, ht, issuesAt_state h, hpa, issuesAt_refuse h]
  · intro t s x pa v eq halive hx hheld hstat old
    refine ⟨fun hmet => ?met, fun hmet => ?unmet⟩
    case unmet =>
      refine (flagWaitComplete_waiting halive hx hheld hstat).trans ?_
      rw [if_neg (fun hm => hmet ((flagMet_iff _ _ _ _).mp hm))]
    refine ⟨_, resume x, flagWaitComplete_waiting halive hx hheld hstat, ?_, keepsRegs_of_eq rfl rfl rfl rfl rfl,
      goesOn_advance1 rfl rfl, rfl⟩
    rw [if_pos ((flagMet_iff _ _ _ _).mpr hmet)]
    exact regOnly_put hx (getTh_tid hx) rfl

/-! ## O19: atomics -/

theorem bitOf_getLsbD (v : Word) (n : Nat) : bitOf v.toNat n = v.getLsbD n := by rw [bitOf_testBit, BitVec.testBit_toNat]

theorem leBytes_length (v n : Nat) : (leBytes v n).length = n := by
  induction n generalizing v with
  | zero => rfl
  | succ n ih => simp [leBytes, ih]

theorem sReg_setS_nat (x : Thread) {d : Nat} (v : DWord) (hd : d < 32) : sReg (setS x d v) d = if d = 0 then 0 else v := by
  have heq : (BitVec.ofNat 5 d).toNat = d := Nat.mod_eq_of_lt hd
  have hset := sReg_setS_eq x (BitVec.ofNat 5 d) v
  rw [heq] at hset
  rw [hset]
  by_cases h0 : d = 0
  · rw [if_pos h0, if_pos (by rw [h0]; rfl)]
  · rw [if_neg h0, if_neg (fun e => h0 (by rw [← heq, e]; rfl))]

theorem setS_stat (x : Thread) (n : Nat) (v : DWord) : (setS x n v).stat = x.stat := by unfold setS; split <;> rfl
theorem setS_atoms (x : Thread) (n : Nat) (v : DWord) : (setS x n v).atoms = x.atoms := by unfold setS; split <;> rfl

theorem goesOn_setS_resume (x : Thread) (d : Nat) (v : DWord) (rest : List Atom) :
    goesOn x (setS (resume { x with atoms := rest }) d v) := by
  unfold goesOn
  rw [setS_pc, setS_reps]
  rfl

/-- A completion that leaves the program running. -/
theorem memOnly_settled {s : State} {t : Tid} {x y : Thread} {m : List Host.Cell} (hx : getTh s t = some x) (htid : y.tid = x.tid)
    (hstat : y.stat = .running) :
    settleWait (putTh { s with mem := m } y) t = putTh { s with mem := m } y ∧ memOnly s (putTh { s with mem := m } y) t y := by
  have honly : memOnly s (putTh { s with mem := m } y) t y := memOnly_putTh hx (htid.trans (getTh_tid hx))
  exact ⟨settleWait_running honly.1 hstat, honly⟩

/-- Settles O19: PATOM queues its atomic, and the slice performs the oldest one on memory. -/
theorem pantryAtomics : Obligations.PantryAtomics := by
  constructor
  · intro t i s c pa h va w32 n halign hva hrange hpa a
    have hkey : c.t.key = t.key := congrArg _ (issuesAt_t h)
    have hw : bitOf i.imm.toNat 4 = w32 := bitOf_getLsbD _ _
    have hr : bitOf i.imm.toNat 5 = i.imm.getLsbD 5 := bitOf_getLsbD _ _
    have hn : (if w32 = true then 4 else 8) = n := rfl
    have hreg : (sReg c.th i.a.toNat).toNat = va := rfl
    have hlegal : (decide (va % n = 0) && decide (va < 2 ^ 48) && planRangeOk s t.key va n true) = true := by
      rw [Bool.and_eq_true, Bool.and_eq_true]
      exact ⟨⟨decide_eq_true halign, decide_eq_true hva⟩, hrange⟩
    have hbody := next_runIns (f := .patom t i) h rfl
    simp only [hreg, hw, hr, hn, hkey, issuesAt_state h, hlegal, hpa, immF_zero, Bool.not_true, Bool.false_eq_true, if_false] at hbody
    refine ⟨fun hbusy => ?busy, fun hbusy hfence => ⟨fun hret => ?waits, fun hret hmay => ?sent⟩⟩
    case busy =>
      rw [hbody, if_pos (by simpa using hbusy)]
    case waits =>
      have hnoted := (noted_noteVa s c.th [(va, n)] [(va, n)]).sameRegs
      let y := addMov { noteVa s c.th [(va, n)] [(va, n)] with stat := .waiting (.atom i.d.toNat), atoms := c.th.atoms ++ [a] }
      exact ⟨putTh s y, y, hbody.trans (congrArg _ ((if_neg (by simp [hbusy, hfence])).trans (if_pos hret))),
        regOnly_put (issuesAt_getTh h) (issuesAt_tid h) hnoted.tid,
        keepsRegs_of_eq hnoted.regs hnoted.vregs hnoted.masks hnoted.preds hnoted.calls, hnoted.pc, rfl, rfl⟩
    case sent =>
      obtain ⟨x0, hsame, hrun⟩ := issue_state (e := .atom) h (by decide) hmay
      have hnoted := sameRegs_trans hsame (noted_noteVa s x0 [(va, n)] [(va, n)]).sameRegs
      let y := addMov { noteVa s x0 [(va, n)] [(va, n)] with atoms := x0.atoms ++ [a] }
      exact ⟨putTh s (advance1 y), advance1 y,
        hbody.trans (congrArg _ ((if_neg (by simp [hbusy, hfence])).trans ((if_neg (Bool.eq_false_iff.mp hret)).trans (hrun _)))),
        regOnly_put (issuesAt_getTh h) (issuesAt_tid h) hnoted.tid,
        keepsRegs_of_eq hnoted.regs hnoted.vregs hnoted.masks hnoted.preds hnoted.calls, goesOn_advance1 hnoted.pc hnoted.reps,
        congrArg (· ++ [a]) hsame.atoms⟩
  · intro t s x a rest halive hok hx hatoms w old new performed
    have hexec : exec (.patomPerform t) s = .next (settleWait (patomPerform s t) t) :=
      congrArg Host.Outcome.next (if_pos halive)
    have hperformed : ∀ y, performed (putTh { s with mem := memWrite s.mem a.pa new } y) := fun y => by
      have hlen : new.length = w / 8 := leBytes_length _ _
      refine ⟨?_, fun b hb => memByte_memWrite_out (by rwa [hlen])⟩
      have hread := memRead_memWrite (a := a.pa) (bs := new) (memWf_of_memOk hok)
      rwa [hlen] at hread
    refine ⟨fun hret hrunning => ?_, fun d hret hd => ?_⟩
    · obtain ⟨hsettled, honly⟩ := memOnly_settled (m := memWrite s.mem a.pa new)
        (y := { x with atoms := rest, outs := dropFirst (fun o => o.ends == OutEnd.atom) x.outs }) hx rfl hrunning
      have hdo : patomPerform s t = putTh { s with mem := memWrite s.mem a.pa new }
          { x with atoms := rest, outs := dropFirst (fun o => o.ends == OutEnd.atom) x.outs } := by
        simp only [patomPerform, hx, hatoms, hret]
        rfl
      exact ⟨_, _, hexec.trans (by rw [hdo, hsettled]), honly, hperformed _, keepsRegs_of_eq rfl rfl rfl rfl rfl, rfl, rfl⟩
    · let x1 := resume { x with atoms := rest }
      have hsame : keepsRegs x (setS x1 d (BitVec.ofNat 64 old)) [d] [] [] [] := keepsRegs_setS (x := x1) (sameRegs_refl _) _ _
      obtain ⟨hsettled, honly⟩ := memOnly_settled (m := memWrite s.mem a.pa new) (y := setS x1 d (BitVec.ofNat 64 old)) hx
        (setS_tid _ _ _) (setS_stat _ _ _)
      have hdo : patomPerform s t = putTh { s with mem := memWrite s.mem a.pa new } (setS x1 d (BitVec.ofNat 64 old)) := by
        simp only [patomPerform, hx, hatoms, hret]
        rfl
      exact ⟨_, _, hexec.trans (by rw [hdo, hsettled]), honly, hperformed _, hsame,
        goesOn_setS_resume x d _ rest, setS_stat _ _ _, setS_atoms _ _ _, sReg_setS_nat _ _ hd⟩

/-! ## O21: waits and completions -/

/-- A sequencer that begins to wait. -/
def waitingFor (x : Thread) (w : ThWait) : Thread := { x with stat := .waiting w }

theorem waitingFor_stat (x : Thread) (w : ThWait) : (waitingFor x w).stat = .waiting w := rfl

section
variable {s : State} {t : Tid} {i : RoomIns} {c : RC} (h : issuesAt s t i c)
include h

theorem issuesAt_alive : alive s = true := by
  have hissues := issuesAt_issues h
  simp only [issues, Bool.and_eq_true] at hissues
  exact hissues.1.1.1

theorem issuesAt_free : roomHeld s c.th = false := by
  have hissues := issuesAt_issues h
  simp only [issues, Bool.and_eq_true, Bool.not_eq_true'] at hissues
  exact hissues.1.2

/-- The state while the sequencer waits. -/
theorem getTh_waiting (w : ThWait) : getTh (putTh s (waitingFor c.th w)) t = some (waitingFor c.th w) :=
  (regOnly_put (y := waitingFor c.th w) (issuesAt_getTh h) (issuesAt_tid h) rfl).1

/-- A wait that is not met holds the sequencer where it is. -/
theorem beginWait_unmet {w : ThWait} (hmet : waitMet c.th w = false) : beginWait c w = putTh s (waitingFor c.th w) := by
  have hthis : waitMet (waitingFor c.th w) w = false := by cases w <;> exact hmet
  unfold beginWait settleWait
  rw [issuesAt_state h, issuesAt_t h, show ({ c.th with stat := .waiting w } : Thread) = waitingFor c.th w from rfl, getTh_waiting h]
  simp only [waitingFor_stat]
  rw [if_pos (by simp [hthis])]

/-- What the end of a wait does, by what the sequencer waits for. -/
theorem beginWait_met {w : ThWait} (hmet : waitMet c.th w = true) :
    beginWait c w = (match w with
      | .stepEnd => stepEnded (putTh s (waitingFor c.th w)) (waitingFor c.th w) false
      | .progEnd => stepEnded (putTh s (waitingFor c.th w)) (waitingFor c.th w) true
      | _ => putTh s (resume c.th)) := by
  have hthis : waitMet (waitingFor c.th w) w = true := by cases w <;> exact hmet
  have halive : alive (putTh s (waitingFor c.th w)) = true := by
    show alive s = true
    exact issuesAt_alive h
  have hfree : roomHeld (putTh s (waitingFor c.th w)) (waitingFor c.th w) = false := by
    show roomHeld s c.th = false
    exact issuesAt_free h
  unfold beginWait settleWait
  rw [issuesAt_state h, issuesAt_t h, show ({ c.th with stat := .waiting w } : Thread) = waitingFor c.th w from rfl, getTh_waiting h]
  simp only [waitingFor_stat]
  rw [if_neg (by simp [hthis, halive, hfree])]
  cases w with
  | stepEnd => rfl
  | progEnd => rfl
  | _ => exact putTh_putTh rfl

/-- The sequencer waits: nothing but its state has changed. -/
theorem waits_of_unmet {w : ThWait} (hmet : waitMet c.th w = false) :
    ∃ y, regOnly s (beginWait c w) t y ∧ keepsRegs c.th y [] [] [] [] ∧ y.pc = c.th.pc ∧ y.stat = .waiting w := by
  rw [beginWait_unmet h hmet]
  exact ⟨_, regOnly_put (issuesAt_getTh h) (issuesAt_tid h) rfl, keepsRegs_of_eq rfl rfl rfl rfl rfl, rfl, rfl⟩

/-- The sequencer goes on at once. -/
theorem goes_of_met {w : ThWait} (hmet : waitMet c.th w = true) (hstep : w ≠ .stepEnd) (hprog : w ≠ .progEnd) :
    ∃ y, regOnly s (beginWait c w) t y ∧ keepsRegs c.th y [] [] [] [] ∧ goesOn c.th y ∧ y.stat = .running := by
  have hgoes : beginWait c w = putTh s (resume c.th) := by
    rw [beginWait_met h hmet]
    split
    · contradiction
    · contradiction
    · rfl
  rw [hgoes]
  exact ⟨_, regOnly_put (issuesAt_getTh h) (issuesAt_tid h) rfl, keepsRegs_of_eq rfl rfl rfl rfl rfl, goesOn_advance1 rfl rfl, rfl⟩

end

theorem waitMet_units (x : Thread) (mask : Nat) : waitMet x (.units mask) = true ↔ ∀ o ∈ x.outs, mask.testBit o.unit = false := by
  simp [waitMet, bitOf_testBit]

/-- Settles O21: a wait is met or not as its outstanding instructions say; the oldest that a unit ends leaves the list. -/
theorem waitsAndCompletions : Obligations.WaitsAndCompletions := by
  constructor
  · intro t i s c h units on waits
    have hmask : immF i 0 7 = i.imm.toNat % 128 := immF_zero i 7
    have hunit : exec (.unitWait t i) s = .next (beginWait c (.units (i.imm.toNat % 128))) := by
      rw [← hmask]
      exact next_runIns (f := .unitWait t i) (body := fun c => beginWait c (.units (immF i 0 7))) h rfl
    have hfull : i.imm.getLsbD 0 = false → exec (.fence t i) s = .next (beginWait c .fence) := fun hbit =>
      (next_runIns (f := .fence t i) h rfl).trans (congrArg _ (if_neg (by rw [bitOf_zero, hbit]; exact Bool.false_ne_true)))
    refine ⟨fun hnone => ?_, fun ⟨o, ho, hon⟩ => ?_, fun hbit hempty => ?_, fun hbit hsome => ?_, fun hbit => ?_⟩
    · obtain ⟨y, hgoes⟩ := goes_of_met h ((waitMet_units _ _).mpr hnone) (by simp) (by simp)
      exact ⟨_, y, hunit, hgoes⟩
    · have hunmet : waitMet c.th (.units (i.imm.toNat % 128)) = false := by
        rw [Bool.eq_false_iff]
        intro hmet
        exact Bool.false_ne_true (((waitMet_units _ _).mp hmet o ho).symm.trans hon)
      obtain ⟨y, hwaits⟩ := waits_of_unmet h hunmet
      exact ⟨_, y, hunit, hwaits⟩
    · obtain ⟨y, hgoes⟩ := goes_of_met h (w := .fence) (List.isEmpty_iff.mpr hempty) (by simp) (by simp)
      exact ⟨_, y, hfull hbit, hgoes⟩
    · obtain ⟨y, hwaits⟩ := waits_of_unmet h (w := .fence) (List.isEmpty_eq_false_iff.mpr hsome)
      exact ⟨_, y, hfull hbit, hwaits⟩
    · refine ⟨_, advance1 (fenceWrites c.th), (next_runIns (f := .fence t i) h rfl).trans (congrArg _ (if_pos (by rw [bitOf_zero, hbit]))), ?_,
        keepsRegs_of_eq rfl rfl rfl rfl rfl, goesOn_advance1 rfl rfl, issuesAt_running h, rfl⟩
      rw [issuesAt_state h]
      exact regOnly_put (issuesAt_getTh h) (issuesAt_tid h) rfl
  · intro t unit s x o halive hx hrunning hfind hends
    let f := fun z : Thread => { z with outs := dropFirst (unitEnds unit) z.outs }
    have hdone : completeOldest s t unit = modTh s t f := by
      unfold completeOldest
      rw [hx, Option.bind_some, hfind]
      exact if_neg hends
    have hy : getTh (modTh s t f) t = some (f x) := getTh_modTh_eq hx (fun _ => rfl)
    refine ⟨modTh s t f, f x, ?_, ⟨hy, fun t' ht' => getTh_modTh_ne (fun _ => rfl) ht', rfl⟩, keepsRegs_of_eq rfl rfl rfl rfl rfl, rfl,
      rfl⟩
    show Host.Outcome.next _ = _
    rw [if_pos halive, hdone, settleWait_running hy hrunning]

/-! ## O22: the end of a step on a room -/

theorem porchQuiet_of_eq {s u : State} (hthreads : u.threads = s.threads) (hlinks : u.links = s.links) (h : porchQuiet s) :
    porchQuiet u := by
  unfold porchQuiet
  rw [hthreads, hlinks]
  exact h

theorem porchQuiet_putTh {s : State} {y : Thread} (h : porchQuiet s) (hy : y.xfers = []) : porchQuiet (putTh s y) := by
  refine ⟨fun x hx => ?_, h.2⟩
  rcases mem_updFirst hx with hold | ⟨_, _, rfl⟩
  · exact h.1 x hold
  · exact hy

theorem driveOnce_quiet {s : State} (h : porchQuiet s) : driveOnce s = s := by
  have hnone : s.threads.filter (fun x => !x.xfers.isEmpty) = [] := by
    rw [List.filter_eq_nil_iff]
    intro x hx
    rw [h.1 x hx]
    simp
  have hpieces : s.links.pieces = [] := h.2
  unfold driveOnce
  rw [hnone]
  simp only [List.map_nil, List.foldl_nil, hpieces, tryHeld]
  rw [← hpieces]

/-- With no transfer under way and no message held the porch side has nothing to do. -/
theorem drive_quiet {s : State} (h : porchQuiet s) : drive s = s := by
  unfold drive
  generalize sumBy s.threads (fun x => x.xfers.length) + s.links.pieces.length + 1 = n
  induction n with
  | zero => rfl
  | succ n ih => rw [Nat.repeat, ih, driveOnce_quiet h]

theorem planRun_kvCommit (s : State) (c h leaf step : Nat) (k : PlanKey) : planRun (kvCommit s c h leaf step) k = planRun s k := by
  unfold kvCommit
  split
  · rfl
  · dsimp only
    rw [planRun_addItem]
    refine planRun_of_plans (plans_of_keep ?_) k
    exact keep_foldl (fun _ _ hk => decFrame_keep rfl hk)
      (keep_foldl (fun _ _ hk => commitEntry_keep rfl hk) (modKv_keep rfl (keep_refl _ _)))

theorem planRun_closeSessions (s : State) (key : PlanKey) (room : Option Nat) (step : Nat) (k : PlanKey) :
    planRun (closeSessions s key room step) k = planRun s k := by
  unfold closeSessions
  generalize s.tables = l
  suffices hfold : ∀ x : State, planRun (l.foldl (fun x t =>
      if t.session.any (fun q => q.key == key && (room.isNone || room == some q.room)) then kvCommit x t.ctx t.handle 0 step else x) x) k
        = planRun x k from hfold s
  induction l with
  | nil => exact fun _ => rfl
  | cons t r ih =>
    intro x
    rw [List.foldl_cons, ih]
    split
    · exact planRun_kvCommit _ _ _ _ _ _
    · rfl

/-- R155: the end of a step on a room, executed by a sequencer that runs no restore program: at its barrier or ended. -/
theorem stepEnded_runs {s : State} {t : Tid} {x : Thread} (last : Bool) (hx : getTh s t = some x) (hquiet : porchQuiet s)
    (hrestore : x.restore = false) :
    ∃ y, getTh (stepEnded s x last) t = some y ∧ y.stat = (if last then .ended else .barrier) ∧ keepsRegs x y [] [] [] []
      ∧ goesOn x y ∧ y.walks = [] ∧ y.insts = [] ∧ y.outs = [] ∧ (∀ t', t' ≠ t → getTh (stepEnded s x last) t' = getTh s t')
      ∧ (∀ q, planRun s t.key = some q → planRun (stepEnded s x last) t.key = some { q with rooms := q.rooms.filter (· != t.room) })
      ∧ porchQuiet (stepEnded s x last) := by
  have htid := getTh_tid hx
  let y := endWork (advance1 { x with stat := if last then .ended else .barrier })
  let s1 := putTh s y
  have hput : regOnly s s1 t y := regOnly_put hx htid rfl
  have hended : stepEnded s x last = roomDone (closeSessions s1 t.key (some t.room) (stepOf s t.key)) t := by
    unfold stepEnded
    rw [if_neg (Bool.eq_false_iff.mp hrestore)]
    show roomDone (closeSessions s1 x.tid.key (some x.tid.room) (stepOf s x.tid.key)) x.tid = _
    rw [htid]
  have hthreads : (stepEnded s x last).threads = s1.threads := by
    rw [hended]
    exact threads_of_keep (closeSessions_keep rfl (keep_refl _ _))
  have hlinks : (stepEnded s x last).links = s1.links := by
    rw [hended]
    exact links_of_keep (closeSessions_keep rfl (keep_refl _ _))
  refine ⟨y, (getTh_of_threads hthreads t).trans hput.1, rfl, keepsRegs_of_eq rfl rfl rfl rfl rfl, goesOn_advance1 rfl rfl, rfl, rfl, rfl,
    fun t' ht' => (getTh_of_threads hthreads t').trans (hput.2.1 t' ht'), fun q hq => ?_,
    porchQuiet_of_eq hthreads hlinks (porchQuiet_putTh hquiet rfl)⟩
  rw [hended]
  refine planRun_modPlan_run (f := fun r => { r with rooms := r.rooms.filter (· != t.room) }) (fun _ => rfl) (fun _ => rfl) ?_
  rw [planRun_closeSessions]
  exact hq

/-- Settles O22: with nothing outstanding the wait for the end is met at once, and the porch side, which is quiet, stays so. -/
theorem stepAndProgramEnd : Obligations.StepAndProgramEnd := by
  intro t i s c h hquiet hrestore ends waits
  have hwait : ∀ w, porchQuiet (putTh s (waitingFor c.th w)) := fun w => porchQuiet_putTh hquiet (by
    exact hquiet.1 c.th (List.mem_of_find?_eq_some (issuesAt_getTh h)))
  have hend : ∀ (w : ThWait) (last : Bool), beginWait c w
        = stepEnded (putTh s (waitingFor c.th w)) (waitingFor c.th w) last →
      ∃ y, getTh (drive (beginWait c w)) t = some y ∧ y.stat = (if last then .ended else .barrier) ∧ keepsRegs c.th y [] [] [] []
        ∧ goesOn c.th y ∧ y.walks = [] ∧ y.insts = [] ∧ y.outs = [] ∧ (∀ t', t' ≠ t → getTh (drive (beginWait c w)) t' = getTh s t')
        ∧ (∀ q, c.p.run = some q →
            planRun (drive (beginWait c w)) t.key = some { q with rooms := q.rooms.filter (· != t.room) }) := by
    intro w last hbegin
    obtain ⟨y, hy, hstat, hkeep, hgo, hwalks, hinsts, houts, hother, hrun, hstill⟩ :=
      stepEnded_runs last (getTh_waiting h w) (hwait w) hrestore
    rw [hbegin, drive_quiet hstill]
    refine ⟨y, hy, hstat, hkeep, hgo, hwalks, hinsts, houts, fun t' ht' => (hother t' ht').trans ?_, fun q hq => hrun q ?_⟩
    · exact (regOnly_put (y := waitingFor c.th w) (issuesAt_getTh h) (issuesAt_tid h) rfl).2.1 t' ht'
    · show planRun s t.key = some q
      unfold planRun
      rw [issuesAt_getPlan h, Option.bind_some, hq]
  have hunmet : ∀ w, waitMet c.th w = false → ∃ y, regOnly s (drive (beginWait c w)) t y ∧ keepsRegs c.th y [] [] [] []
      ∧ y.pc = c.th.pc ∧ y.stat = .waiting w := by
    intro w hw
    rw [beginWait_unmet h hw, drive_quiet (hwait w), ← beginWait_unmet h hw]
    exact waits_of_unmet h hw
  refine ⟨fun hempty => ?_, fun hsome => ?_⟩
  · have hmet := List.isEmpty_iff.mpr hempty
    obtain ⟨y, hstep⟩ := hend .stepEnd false (beginWait_met h (w := .stepEnd) hmet)
    obtain ⟨z, hprog⟩ := hend .progEnd true (beginWait_met h (w := .progEnd) hmet)
    exact ⟨⟨_, y, next_runIns h rfl, hstep⟩, _, z, next_runIns h rfl, hprog⟩
  · have hsome' := List.isEmpty_eq_false_iff.mpr hsome
    obtain ⟨y, hstep⟩ := hunmet .stepEnd hsome'
    obtain ⟨z, hprog⟩ := hunmet .progEnd hsome'
    exact ⟨⟨_, y, next_runIns h rfl, hstep⟩, _, z, next_runIns h rfl, hprog⟩

end Sys2Proof.Proofs.RoomWaits
end

section
/-! PROOFS. O25, O26, O28: the registers of the tick generator (R38 to R42, R449), and the reads that latch (R30, R450, R451). -/
namespace Sys2Proof.Proofs.TickRegs

open Sys2Proof Sys2Proof.Machine Sys2Proof.Laws

/-! ## Set-up registers that serve -/

theorem serve_inService {s : State} {f : Nat} (h : registersServe s f) : s.dev.state = .inService := h.2.1

theorem tickWritable_of_serve {s : State} {f : Nat} (h : registersServe s f) : tickWritable s = true := by
  simp [tickWritable, serve_inService h]

/-- A register of the generator answers a write: the test of a device that has not started, or has failed stop, fails. -/
theorem notGone_of_serve {s : State} {f : Nat} (h : registersServe s f) : (s.dev.failstop || s.dev.state == .boot) = false := by
  simp [h.2.2, serve_inService h]

theorem tickEvent_tick (old : TickGen) (took : Bool) (s : State) : (tickEvent old took s).tick = s.tick := by
  unfold tickEvent; split <;> rfl

/-! ## O25: TICK_CTL -/

/-- R41: a write of TICK_CTL that is refused. -/
def badCtl (s : State) (v : Word) : Prop :=
  wbits v 1 2 = 3 ∨ wbits v 3 2 = 3 ∨ 17 < wbits v 5 5 ∨ 17 < wbits v 10 5
    ∨ (wbit v 0 = false ∧ wbit s.tick.ctl 0 = true ∧ anyPlan s = true)

/-- R39, R41: the generator after an accepted write of TICK_CTL, but for TICK_OUT. -/
def ctlWritten (old : TickGen) (time : Nat) (v : Word) : TickGen :=
  let t := { old with ctl := BitVec.ofNat 32 (wbits v 0 16) }
  if !wbit v 0 then (if old.state == .stopped then t else stopTick t)
  else if old.state == .stopped then startTick t time
  else retarget old t time

/-- R31: TICK_OUT without OUT_EN is low. -/
def outGated (v : Word) (t : TickGen) : TickGen := if wbit v 15 then t else { t with tickOut := false }

theorem writeTickCtl_bad {s : State} {f : Nat} (hserve : registersServe s f) (time : Nat) {v : Word} (hbad : badCtl s v) :
    writeTickCtl s time v = tickRefuse s := by
  unfold writeTickCtl
  rw [notGone_of_serve hserve, tickWritable_of_serve hserve]
  simp only [Bool.false_eq_true, if_false, Bool.not_true]
  by_cases hfield : (wbits v 1 2 = 3 || wbits v 3 2 = 3 || wbits v 5 5 > 17 || wbits v 10 5 > 17) = true
  · rw [if_pos hfield]
  · rw [if_neg hfield, if_pos]
    simp only [Bool.or_eq_true, decide_eq_true_eq, not_or] at hfield
    obtain ⟨hv, hctl, hplan⟩ : wbit v 0 = false ∧ wbit s.tick.ctl 0 = true ∧ anyPlan s = true := by
      rcases hbad with h | h | h | h | h
      · exact absurd h hfield.1.1.1
      · exact absurd h hfield.1.1.2
      · exact absurd h hfield.1.2
      · exact absurd h hfield.2
      · exact h
    simp [hv, hctl, hplan]

theorem writeTickCtl_good {s : State} {f : Nat} (hserve : registersServe s f) (time : Nat) {v : Word} (hgood : ¬badCtl s v) :
    writeTickCtl s time v
      = tickEvent s.tick false { s with tick := outGated v (ctlWritten s.tick time v), now := time } := by
  obtain ⟨h1, h2, h3, h4, h5⟩ : wbits v 1 2 ≠ 3 ∧ wbits v 3 2 ≠ 3 ∧ ¬17 < wbits v 5 5 ∧ ¬17 < wbits v 10 5
      ∧ ¬(wbit v 0 = false ∧ wbit s.tick.ctl 0 = true ∧ anyPlan s = true) := by
    simpa only [badCtl, not_or] using hgood
  unfold writeTickCtl
  rw [notGone_of_serve hserve, tickWritable_of_serve hserve]
  simp only [Bool.false_eq_true, if_false, Bool.not_true]
  rw [if_neg (by simp [h1, h2]; omega), if_neg (by simpa [and_assoc] using h5)]
  rfl

/-- What no write of TICK_CTL touches: the register as written, the tick number, and whether a boundary has come. -/
def sameCount (t u : TickGen) : Prop := u.ctl = t.ctl ∧ u.num = t.num ∧ u.begun = t.begun

theorem sameCount_startTick (t : TickGen) (time : Nat) : sameCount t (startTick t time) := by
  unfold startTick; split <;> exact ⟨rfl, rfl, rfl⟩

theorem sameCount_leaveAcquiring (t : TickGen) (time : Nat) : sameCount t (leaveAcquiring t time) := by
  unfold leaveAcquiring
  split
  · exact ⟨rfl, rfl, rfl⟩
  · split
    · exact ⟨rfl, rfl, rfl⟩
    · split <;> exact ⟨rfl, rfl, rfl⟩

/-- R39: a change of sources is a change of trackers, and then perhaps the end of the acquisition. -/
theorem retarget_eq (old t : TickGen) (time : Nat) :
    ∃ u : TickGen, retarget old t time = leaveAcquiring u time ∧ sameCount t u ∧ u.state = t.state := by
  unfold retarget
  dsimp only
  split <;> split <;> exact ⟨_, rfl, ⟨rfl, rfl, rfl⟩, rfl⟩

theorem sameCount_retarget (old t : TickGen) (time : Nat) : sameCount t (retarget old t time) := by
  obtain ⟨u, heq, ⟨uctl, unum, ubegun⟩, _⟩ := retarget_eq old t time
  obtain ⟨lctl, lnum, lbegun⟩ := sameCount_leaveAcquiring u time
  rw [heq]
  exact ⟨lctl.trans uctl, lnum.trans unum, lbegun.trans ubegun⟩

theorem sameCount_ctlWritten (old : TickGen) (time : Nat) (v : Word) :
    sameCount { old with ctl := BitVec.ofNat 32 (wbits v 0 16) } (ctlWritten old time v) := by
  unfold ctlWritten
  dsimp only
  split
  · split <;> exact ⟨rfl, rfl, rfl⟩
  · split
    · exact sameCount_startTick _ _
    · exact sameCount_retarget _ _ _

theorem wbits_ofNat_low (v : Word) : wbits (BitVec.ofNat 32 (wbits v 0 16)) 1 2 = wbits v 1 2 := by
  simp only [wbits, bits, BitVec.toNat_ofNat]
  omega

/-- SOURCE as the write leaves it. -/
theorem ctlSource_written (t : TickGen) (v : Word) (h : t.ctl = BitVec.ofNat 32 (wbits v 0 16)) :
    (ctlSource t == .internal) = decide (wbits v 1 2 = 0) := by
  have hbits : wbits t.ctl 1 2 = wbits v 1 2 := by rw [h, wbits_ofNat_low]
  unfold ctlSource
  rw [hbits]
  split
  · next h0 => rw [h0]; rfl
  · next h1 => rw [h1]; rfl
  · next h0 h1 =>
    rw [decide_eq_false h0]
    rfl

theorem ctlWritten_start {old : TickGen} (time : Nat) {v : Word} (hon : wbit v 0 = true) (hstate : old.state = .stopped) :
    ctlWritten old time v = startTick { old with ctl := BitVec.ofNat 32 (wbits v 0 16) } time := by
  simp [ctlWritten, hon, hstate]

theorem ctlWritten_stop {old : TickGen} (time : Nat) {v : Word} (hoff : wbit v 0 = false) (hstate : old.state ≠ .stopped) :
    ctlWritten old time v = stopTick { old with ctl := BitVec.ofNat 32 (wbits v 0 16) } := by
  simp [ctlWritten, hoff, hstate]

/-- R38: INTERNAL named while the generator is ACQUIRING runs it. -/
theorem ctlWritten_acquiring {old : TickGen} (time : Nat) {v : Word} (hon : wbit v 0 = true) (hstate : old.state = .acquiring)
    (hsource : wbits v 1 2 = 0) :
    (ctlWritten old time v).state = .running ∧ (ctlWritten old time v).inUse = .internal
      ∧ (ctlWritten old time v).nextB = some (time + 16000) := by
  have hretarget : ctlWritten old time v = retarget old { old with ctl := BitVec.ofNat 32 (wbits v 0 16) } time := by
    simp [ctlWritten, hon, hstate]
  obtain ⟨u, heq, ⟨uctl, _⟩, ustate⟩ := retarget_eq old { old with ctl := BitVec.ofNat 32 (wbits v 0 16) } time
  have hinternal := ctlSource_written u v uctl
  rw [decide_eq_true hsource] at hinternal
  rw [hretarget, heq]
  unfold leaveAcquiring
  rw [if_neg (by simp [ustate, hstate]), if_pos hinternal]
  exact ⟨rfl, rfl, rfl⟩

theorem exec_tickCtl {s : State} (hserve : registersServe s 0) (time : Nat) (v : Word) :
    ∀ f ∈ [Instr.tickEnable, .tickDisable, .tickSourceChange, .tickAltSourceChange, .tickOutEnable],
      exec (f time v) s = .next (writeTickCtl s time v) := by
  intro f hf
  simp only [List.mem_cons, List.not_mem_nil, or_false] at hf
  rcases hf with rfl | rfl | rfl | rfl | rfl <;> exact congrArg _ (if_pos hserve.1)

/-- Settles O25: the five commands are one write, refused or not by the fields of R41; what an accepted one makes of the generator is
`ctlWritten`, by its state and the source named. -/
theorem tickControl : Obligations.TickControl := by
  intro time v s hserve ans bad took
  have answer : ∀ P : State → Prop, P (writeTickCtl s time v) → ans P := fun P hP f hf => ⟨_, exec_tickCtl hserve time v f hf, hP⟩
  have written : ¬bad → (writeTickCtl s time v).tick = outGated v (ctlWritten s.tick time v) := fun hgood => by
    rw [writeTickCtl_good hserve time hgood, tickEvent_tick]
  have gated : ∀ t : TickGen, (outGated v t).state = t.state ∧ (outGated v t).inUse = t.inUse ∧ (outGated v t).nextB = t.nextB
      ∧ (outGated v t).ctl = t.ctl ∧ (outGated v t).num = t.num ∧ (outGated v t).begun = t.begun := fun t => by
    unfold outGated; split <;> exact ⟨rfl, rfl, rfl, rfl, rfl, rfl⟩
  refine ⟨fun hbad => answer _ (writeTickCtl_bad hserve time hbad), fun hgood => answer took ?fields, fun hgood hon hstate hsource => answer _ ?start,
    fun hgood hon hstate hsource => answer _ ?acquire, fun hgood hon hstate hsource => answer _ ?leave,
    fun hgood hoff hstate => answer _ ?stop⟩
  case fields =>
    obtain ⟨hctl, hnum, hbegun⟩ := sameCount_ctlWritten s.tick time v
    obtain ⟨_, _, _, gctl, gnum, gbegun⟩ := gated (ctlWritten s.tick time v)
    show (writeTickCtl s time v).tick.ctl.toNat = _ ∧ _
    rw [written hgood, gctl, gnum, gbegun, hctl, hnum, hbegun]
    refine ⟨?_, rfl, rfl, fun hout => by simp [outGated, hout]⟩
    simp only [wbits, bits, BitVec.toNat_ofNat]
    omega
  case start =>
    obtain ⟨gstate, guse, gnext, _⟩ := gated (ctlWritten s.tick time v)
    rw [written hgood, gstate, guse, gnext, ctlWritten_start time hon hstate]
    unfold startTick
    rw [ctlSource_written _ v rfl, if_pos (decide_eq_true hsource)]
    exact ⟨rfl, rfl, rfl⟩
  case acquire =>
    obtain ⟨gstate, _, gnext, _⟩ := gated (ctlWritten s.tick time v)
    rw [written hgood, gstate, gnext, ctlWritten_start time hon hstate]
    unfold startTick
    rw [ctlSource_written _ v rfl, if_neg (by simp [hsource])]
    exact ⟨rfl, rfl⟩
  case leave =>
    obtain ⟨gstate, guse, gnext, _⟩ := gated (ctlWritten s.tick time v)
    rw [written hgood, gstate, guse, gnext]
    exact ctlWritten_acquiring time hon hstate hsource
  case stop =>
    rw [written hgood, ctlWritten_stop time hoff hstate]
    unfold outGated
    split <;> exact ⟨rfl, rfl, rfl⟩

/-! ## O26: TICK_PERIOD and TICK_SYS_OFFSET -/

theorem exec_tickPeriodWrite {s : State} (hserve : registersServe s 0) (v : Word) :
    exec (.tickPeriodWrite v) s = .next (writeTickPeriod s v) := congrArg _ (if_pos hserve.1)

theorem exec_tickSysOffsetLoWrite {s : State} (hserve : registersServe s 0) (v : Word) :
    exec (.tickSysOffsetLoWrite v) s = .next (writeOffsetLo s v) := congrArg _ (if_pos hserve.1)

theorem exec_tickSysOffsetHiWrite {s : State} (hserve : registersServe s 0) (v : Word) :
    exec (.tickSysOffsetHiWrite v) s = .next (writeOffsetHi s v) := congrArg _ (if_pos hserve.1)

/-- R39, R42: what a write of TICK_PERIOD in range, that changes the register, does. -/
theorem writeTickPeriod_inRange {s : State} {f : Nat} (hserve : registersServe s f) {v : Word} (hlo : 10000 ≤ wbits v 0 24)
    (hhi : wbits v 0 24 ≤ 10000000) (hne : wbits v 0 24 ≠ (periodReg s.tick).toNat) :
    writeTickPeriod s v =
      if (s.tick.state != .stopped && anyPlan s) || boundStream s then tickRefuse s
      else if s.tick.state != .stopped then { s with tick := { s.tick with newPeriod := some (BitVec.ofNat 24 (wbits v 0 24)) } }
      else { s with tick := { s.tick with period := BitVec.ofNat 24 (wbits v 0 24), newPeriod := none, prim := {}, alt := {} } } := by
  unfold writeTickPeriod
  rw [notGone_of_serve hserve, tickWritable_of_serve hserve]
  simp only [Bool.false_eq_true, if_false, Bool.not_true]
  rw [if_neg (by simp; omega), if_neg hne]

theorem ofNat_period (v : Word) : (BitVec.ofNat 24 (wbits v 0 24)).toNat = wbits v 0 24 := by
  simp only [wbits, bits, BitVec.toNat_ofNat]
  omega

/-- R449: the offset that the two halves make. -/
theorem offset_halves (held : Option Word) (o : Tick) (v : Word) :
    (BitVec.ofNat 48 (held.elim (bits o.toNat 0 32) BitVec.toNat + wbits v 0 16 * 2 ^ 32)).toNat
      = held.elim (o.toNat % 2 ^ 32) BitVec.toNat + wbits v 0 16 * 2 ^ 32 := by
  have hlow : bits o.toNat 0 32 = o.toNat % 2 ^ 32 := by simp [bits]
  have hlo : held.elim (o.toNat % 2 ^ 32) BitVec.toNat < 2 ^ 32 := by
    cases held with
    | none => exact Nat.mod_lt _ (by decide)
    | some w => exact w.isLt
  rw [hlow, BitVec.toNat_ofNat, Nat.mod_eq_of_lt]
  have hhi : wbits v 0 16 < 2 ^ 16 := Nat.mod_lt _ (by decide)
  omega

/-- Settles O26: the branches of the two writes, in the order of their tests. -/
theorem tickPeriodAndOffset : Obligations.TickPeriodAndOffset := by
  intro v s hserve p refused hi
  have hgone := notGone_of_serve hserve
  have hwritable := tickWritable_of_serve hserve
  refine ⟨fun hrange => ?range, fun hlo hhi hne => ⟨fun hbusy => ?busy, fun hidle hbound => ?taken⟩, ?low, fun hopen => ?high, fun hclosed => ?shut⟩
  case range =>
    rw [exec_tickPeriodWrite hserve, writeTickPeriod, hgone, hwritable]
    simp only [Bool.false_eq_true, if_false, Bool.not_true]
    rw [if_pos (by simpa using hrange)]
    rfl
  case busy =>
    rw [exec_tickPeriodWrite hserve, writeTickPeriod_inRange hserve hlo hhi hne, if_pos (by simpa using hbusy)]
    rfl
  case taken =>
    refine ⟨_, exec_tickPeriodWrite hserve v, ?_⟩
    rw [writeTickPeriod_inRange hserve hlo hhi hne, if_neg (by simpa [hbound, Classical.or_iff_not_imp_left] using hidle)]
    by_cases hstate : s.tick.state = .stopped
    · rw [if_neg (by simp [hstate])]
      exact ⟨ofNat_period v, rfl, fun hrun => absurd hstate hrun, fun _ => ofNat_period v⟩
    · rw [if_pos (by simpa using hstate)]
      exact ⟨ofNat_period v, rfl, fun _ => rfl, fun hstop => absurd hstop hstate⟩
  case low =>
    refine ⟨_, exec_tickSysOffsetLoWrite hserve v, ?_⟩
    rw [writeOffsetLo, hgone, hwritable]
    exact ⟨rfl, rfl⟩
  case high =>
    refine ⟨_, exec_tickSysOffsetHiWrite hserve v, ?_⟩
    rw [writeOffsetHi, hgone, hwritable, hopen]
    simp only [Bool.false_eq_true, if_false, Bool.not_true, tickEvent_tick]
    exact ⟨trivial, offset_halves _ _ _, trivial⟩
  case shut =>
    refine ⟨_, exec_tickSysOffsetHiWrite hserve v, ?_⟩
    rw [writeOffsetHi, hgone, hwritable, hclosed]
    exact ⟨rfl, rfl, rfl⟩

/-! ## O28: reads -/

theorem toNat_setWidth_ofNat (n : Nat) : ((BitVec.ofNat 32 n).setWidth 64).toNat = n % 2 ^ 32 := by
  simp only [BitVec.toNat_setWidth, BitVec.toNat_ofNat]
  omega

theorem barRead_word {s : State} {off time n m : Nat} (halign : off % 4 = 0) (hread : read32 s 0 off time = BitVec.ofNat 32 n)
    (hn : n % 2 ^ 32 = m) : (barRead s 0 off 4 time).toNat = m := by
  unfold barRead
  rw [if_pos (by simp [halign]), hread, toNat_setWidth_ofNat, hn]

/-- R436: a read of another size or alignment. -/
theorem barRead_misfit (s : State) (f off size time : Nat) (h4 : size ≠ 4 ∨ off % 4 ≠ 0) (h8 : size ≠ 8 ∨ off % 8 ≠ 0) :
    barRead s f off size time = 0 := by
  unfold barRead
  rw [if_neg (by simp; omega), if_neg (by simp; omega)]

theorem bits_low (n : Nat) : bits n 0 32 % 2 ^ 32 = n % 2 ^ 32 := by simp [bits]

/-- R30, R456: the counters that the windows return: zero in the recovery state. -/
def shownTick (s : State) : Nat := if s.dev.state = .recovery then 0 else s.tick.num.toNat
def shownMet (s : State) : Nat := if s.dev.state = .recovery then 0 else s.pwr.met.toNat

theorem shownTick_lt (s : State) : shownTick s < 2 ^ 48 := by
  unfold shownTick
  split
  · decide
  · exact s.tick.num.isLt

theorem shownMet_lt (s : State) : shownMet s < 2 ^ 48 := by
  unfold shownMet
  split
  · decide
  · exact s.pwr.met.isLt

theorem toNat_high {n : Nat} (h : n < 2 ^ 48) : (BitVec.ofNat 16 (n / 2 ^ 32)).toNat = n / 2 ^ 32 := by
  rw [BitVec.toNat_ofNat]; omega

theorem tickWord_low (s : State) (time : Nat) : tickWord s 0x3018 time = bits (shownTick s) 0 32 := by
  by_cases h : s.dev.state = .recovery <;> simp [tickWord, shownTick, h]

theorem pwrWord_low (s : State) : pwrWord s 0x3110 = bits (shownMet s) 0 32 := by
  by_cases h : s.dev.state = .recovery <;> simp [pwrWord, shownMet, h]

theorem readNowLo_eq (s : State) : readNowLo s = { s with
    tick := { s.tick with nowHi := BitVec.ofNat 16 (shownTick s / 2 ^ 32) },
    dev := { s.dev with readData := BitVec.ofNat 32 (shownTick s) } } := by
  by_cases h : s.dev.state = .recovery <;> simp [readNowLo, shownTick, h]

theorem readMetLo_eq (s : State) : readMetLo s = { s with
    pwr := { s.pwr with metHi := BitVec.ofNat 16 (shownMet s / 2 ^ 32) },
    dev := { s.dev with readData := BitVec.ofNat 32 (shownMet s) } } := by
  by_cases h : s.dev.state = .recovery <;> simp [readMetLo, shownMet, h]

theorem tickWord_high (s : State) (time : Nat) : tickWord (readNowLo s) 0x301C time = shownTick s / 2 ^ 32 := by
  rw [readNowLo_eq]
  by_cases h : s.dev.state = .recovery
  · simp [tickWord, shownTick, h]
  · simpa [tickWord, h] using toNat_high (shownTick_lt s)

theorem pwrWord_high (s : State) : pwrWord (readMetLo s) 0x3114 = shownMet s / 2 ^ 32 := by
  rw [readMetLo_eq]
  by_cases h : s.dev.state = .recovery
  · simp [pwrWord, shownMet, h]
  · simpa [pwrWord, h] using toNat_high (shownMet_lt s)

/-- R451: the newest sequence number of the fault log. -/
def newestSeq (s : State) : Nat := s.flog.newest.head?.elim 0 (fun r => r.seq.toNat)

theorem newestSeq_lt (s : State) : newestSeq s < 2 ^ 64 := by
  unfold newestSeq
  cases s.flog.newest.head? with
  | none => exact Nat.zero_lt_succ _
  | some r => exact r.seq.isLt

theorem flogWord_low (s : State) : flogWord s 0x4008 = bits (newestSeq s) 0 32 := by
  unfold newestSeq
  simp only [flogWord]
  cases s.flog.newest.head? <;> rfl

/-- Settles O28: what a low half returns is what its window and the high half then hold. -/
theorem latchingReads : Obligations.LatchingReads := by
  refine ⟨fun s f off size time => ⟨barRead_misfit s f off size time, rfl, fun hpresent => ?_, fun habsent => ?_⟩, fun s hopen => ?_⟩
  · unfold identityOf
    rw [if_pos hpresent]
    exact ⟨_, rfl, rfl, rfl, rfl, rfl, rfl⟩
  · unfold identityOf
    rw [if_neg (by simp [habsent])]
  · have data : ∀ n : Nat, (BitVec.ofNat 32 n).toNat = n % 2 ^ 32 := fun n => BitVec.toNat_ofNat ..
    refine ⟨⟨readNowLo s, congrArg _ (if_pos hopen), ?now⟩, ⟨readMetLo s, congrArg _ (if_pos hopen), ?met⟩,
      ⟨readNewestLo s, congrArg _ (if_pos hopen), ?newest⟩⟩
    case now =>
      refine ⟨?_, ?_, rfl, fun time => ⟨barRead_word rfl rfl ((congrArg (· % 2 ^ 32) (tickWord_low _ time)).trans (bits_low _)),
        barRead_word rfl rfl ((congrArg (· % 2 ^ 32) (tickWord_high s time)).trans ?_)⟩⟩
      · rw [readNowLo_eq]; exact data _
      · rw [readNowLo_eq]; exact toNat_high (shownTick_lt s)
      · have := shownTick_lt s
        exact Nat.mod_eq_of_lt (by omega)
    case met =>
      refine ⟨?_, ?_, rfl, fun time => ⟨barRead_word rfl rfl ((congrArg (· % 2 ^ 32) (pwrWord_low _)).trans (bits_low _)),
        barRead_word rfl rfl ((congrArg (· % 2 ^ 32) (pwrWord_high s)).trans ?_)⟩⟩
      · rw [readMetLo_eq]; exact data _
      · rw [readMetLo_eq]; exact toNat_high (shownMet_lt s)
      · have := shownMet_lt s
        exact Nat.mod_eq_of_lt (by omega)
    case newest =>
      have hlt := newestSeq_lt s
      have hhigh : (BitVec.ofNat 32 (newestSeq s / 2 ^ 32)).toNat = newestSeq s / 2 ^ 32 := by rw [BitVec.toNat_ofNat]; omega
      exact ⟨data _, hhigh, rfl, fun time => ⟨barRead_word rfl rfl ((congrArg (· % 2 ^ 32) (flogWord_low _)).trans (bits_low _)),
        barRead_word rfl rfl ((congrArg (· % 2 ^ 32) hhigh).trans (Nat.mod_eq_of_lt (by omega)))⟩⟩

end Sys2Proof.Proofs.TickRegs
end

section
/-! PROOFS. O31, O32, O33: ring enables (R441), interrupt vectors (R121, R122, R442) and the assignment of contexts (R288, R447). -/
namespace Sys2Proof.Proofs.HostRegs

open Sys2Proof Sys2Proof.Machine Sys2Proof.Laws
open Sys2Proof.Proofs.StatusFlags (getFn_modFn_eq)

/-! ## Writes that reach their register -/

theorem regWrite_page {s : State} {f off : Nat} (h : registersServe s f) (hoff : off < 0x1000) (v : Word) :
    regWrite s f off v = pageWrite s f off v := by
  obtain ⟨hopen, _, hserve⟩ := h
  simp [regWrite, hopen, write32, hserve, hoff]

theorem regWrite_assign {s : State} {c w : Nat} (h : registersServe s 0) (hc : c < 16384) (hw : w < 4) (v : Word) :
    regWrite s 0 (0x100000 + 16 * c + 4 * w) v = assignWrite s c w v := by
  obtain ⟨hopen, _, hserve⟩ := h
  have hlow : ¬(0x100000 + 16 * c + 4 * w < 0x1000) := by omega
  have hrange : (0x100000 ≤ 0x100000 + 16 * c + 4 * w && 0x100000 + 16 * c + 4 * w < 0x140000) = true := by
    simp only [Bool.and_eq_true, decide_eq_true_eq]; omega
  have hctx : (0x100000 + 16 * c + 4 * w - 0x100000) / 16 = c := by omega
  have hword : (0x100000 + 16 * c + 4 * w) / 4 % 4 = w := by omega
  simp only [regWrite, hopen, if_true, write32, hserve, Bool.false_eq_true, if_false, if_neg hlow, ne_eq, not_true_eq_false,
    if_pos hrange, hctx, hword]

theorem getFn_pageRefuse (s : State) (f : Nat) : getFn (pageRefuse s f) f = { getFn s f with wrRef := hitFlag (getFn s f).wrRef } :=
  getFn_modFn_eq s f _

/-! ## O31: FR_CFG and LR_CFG -/

/-- R441: what a write leaves in a ring's CFG: its fields and ENABLE. -/
def ringCfg (v : Word) (len : Nat) : Word := BitVec.ofNat 32 (wbits v 0 len + b2n (wbit v 31) * 2 ^ 31)

theorem b2n_le (b : Bool) : b2n b ≤ 1 := by cases b <;> decide

theorem ringCfg_toNat (v : Word) {len : Nat} (hlen : len ≤ 10) :
    (ringCfg v len).toNat = wbits v 0 len + b2n (wbit v 31) * 2 ^ 31 := by
  have hlow : wbits v 0 len < 2 ^ len := Nat.mod_lt _ (Nat.two_pow_pos len)
  have hpow : 2 ^ len ≤ 2 ^ 10 := Nat.pow_le_pow_right (by decide) hlen
  have hbit := b2n_le (wbit v 31)
  rw [ringCfg, BitVec.toNat_ofNat]
  omega

theorem ringCfg_low (v : Word) {len k : Nat} (hlen : len ≤ 10) (hk : k ≤ len) : wbits (ringCfg v len) 0 k = wbits v 0 k := by
  have hsplit : 2 ^ 31 = 2 ^ k * 2 ^ (31 - k) := by rw [← Nat.pow_add]; congr 1; omega
  rw [wbits, ringCfg_toNat v hlen, bits, Nat.pow_zero, Nat.div_one, hsplit, Nat.mul_left_comm, Nat.add_mul_mod_self_left]
  simp only [wbits, bits, Nat.pow_zero, Nat.div_one]
  exact Nat.mod_mod_of_dvd _ (Nat.pow_dvd_pow 2 hk)

theorem ringCfg_enable (v : Word) {len : Nat} (hlen : len ≤ 10) : wbit (ringCfg v len) 31 = wbit v 31 := by
  have hlow : wbits v 0 len < 2 ^ len := Nat.mod_lt _ (Nat.two_pow_pos len)
  have hpow : 2 ^ len ≤ 2 ^ 10 := Nat.pow_le_pow_right (by decide) hlen
  rw [wbit, bitOf, ringCfg_toNat v hlen]
  cases wbit v 31 with
  | false =>
    have hq : (wbits v 0 len + b2n false * 2 ^ 31) / 2 ^ 31 % 2 = 0 := by simp only [b2n, Bool.false_eq_true, if_false]; omega
    rw [hq]; rfl
  | true =>
    have hq : (wbits v 0 len + b2n true * 2 ^ 31) / 2 ^ 31 % 2 = 1 := by simp only [b2n, if_true]; omega
    rw [hq]; rfl

theorem frCfgWrite_eq (s : State) (f : Nat) (v : Word) : frCfgWrite s f v =
    if wbit (getFn s f).frCfg 31 then
      if wbits v 0 10 ≠ wbits (getFn s f).frCfg 0 10 then pageRefuse s f else setFn s f { getFn s f with frCfg := ringCfg v 10 }
    else if wbit v 31 then
      if wbits v 0 5 < 6 || wbits v 0 5 > 16 || (getFn s f).frBase == 0 then pageRefuse s f
      else setFn s f { getFn s f with frCfg := ringCfg v 10, fr := {} }
    else setFn s f { getFn s f with frCfg := ringCfg v 10 } := by
  rw [← ringCfg_low v (Nat.le_refl 10) (Nat.le_refl 10), ← ringCfg_low v (Nat.le_refl 10) (show 5 ≤ 10 by decide), ← ringCfg_enable v (Nat.le_refl 10)]
  rfl

theorem lrCfgWrite_eq {s : State} {f : Nat} (h : registersServe s f) (v : Word) : lrCfgWrite s f v =
    if wbit (getFn s f).lrCfg 31 then
      if wbits v 0 9 ≠ wbits (getFn s f).lrCfg 0 9 then pageRefuse s f else setFn s f { getFn s f with lrCfg := ringCfg v 9 }
    else if wbit v 31 then
      if wbits v 0 4 < 4 || wbits v 0 4 > 12 || (getFn s f).lrBase == 0 then pageRefuse s f
      else setFn s f { getFn s f with lrCfg := ringCfg v 9, lr := {} }
    else setFn s f { getFn s f with lrCfg := ringCfg v 9 } := by
  have hstate : (s.dev.state == .recovery) = false := by rw [h.2.1]; rfl
  have h9 : 9 ≤ 10 := by decide
  rw [← ringCfg_low v h9 (Nat.le_refl 9), ← ringCfg_low v h9 (show 4 ≤ 9 by decide), ← ringCfg_enable v h9, lrCfgWrite, hstate]
  simp only [Bool.or_false]
  rfl

theorem exec_faultRingEnable {s : State} {f : Nat} (h : registersServe s f) (v : Word) :
    exec (.faultRingEnable f v) s = .next (frCfgWrite s f v) := congrArg _ (regWrite_page h (by decide) v)

theorem exec_ledgerRingEnable {s : State} {f : Nat} (h : registersServe s f) (v : Word) :
    exec (.ledgerRingEnable f v) s = .next (lrCfgWrite s f v) := congrArg _ (regWrite_page h (by decide) v)

/-- R441: a ring's log2 size and base in range pass the test of an enable. -/
theorem ringOk {n lo hi : Nat} {base : DWord} (hlo : lo ≤ n) (hhi : n ≤ hi) (hbase : base ≠ 0) :
    ¬(decide (n < lo) || decide (n > hi) || base == 0) = true := by
  simp only [Bool.or_eq_true, decide_eq_true_eq, beq_iff_eq, not_or]
  exact ⟨⟨by omega, by omega⟩, hbase⟩

theorem ringBad {n lo hi : Nat} {base : DWord} (h : ¬(lo ≤ n ∧ n ≤ hi ∧ base ≠ 0)) :
    (decide (n < lo) || decide (n > hi) || base == 0) = true := by
  refine Classical.byContradiction fun hnone => ?_
  simp only [Bool.or_eq_true, decide_eq_true_eq, beq_iff_eq, not_or] at hnone
  obtain ⟨⟨hlo, hhi⟩, hbase⟩ := hnone
  exact h ⟨by omega, by omega, hbase⟩

/-- Settles O31: the branches of the two writes, over the fields of the word written (`frCfgWrite_eq`, `lrCfgWrite_eq`). -/
theorem ringEnables : Obligations.RingEnables := by
  intro f v s h p frSame frOk lrSame lrOk
  refine ⟨fun hon hsame => ⟨_, exec_faultRingEnable h v, ?_⟩, fun hoff hen hok => ⟨_, exec_faultRingEnable h v, ?_⟩,
    fun hbad => ⟨_, exec_faultRingEnable h v, ?_⟩, fun hon hsame => ⟨_, exec_ledgerRingEnable h v, ?_⟩,
    fun hoff hen hok => ⟨_, exec_ledgerRingEnable h v, ?_⟩, fun hbad => ⟨_, exec_ledgerRingEnable h v, ?_⟩⟩
  · rw [frCfgWrite_eq, if_pos hon, if_neg (not_not_intro hsame), getFn_setFn_eq]
    exact ⟨ringCfg_toNat v (by decide), rfl⟩
  · obtain ⟨hlo, hhi, hbase⟩ : 6 ≤ wbits v 0 5 ∧ wbits v 0 5 ≤ 16 ∧ (getFn s f).frBase ≠ 0 := hok
    rw [frCfgWrite_eq, if_neg (Bool.eq_false_iff.mp hoff), if_pos hen, if_neg (ringOk hlo hhi hbase), getFn_setFn_eq]
    exact ⟨(ringCfg_toNat v (by decide)).trans (by rw [hen]; rfl), rfl⟩
  · have hrefused : frCfgWrite s f v = pageRefuse s f := by
      rw [frCfgWrite_eq]
      rcases hbad with ⟨hon, hdiff⟩ | ⟨hoff, hen, hbad⟩
      · rw [if_pos hon, if_pos hdiff]
      · rw [if_neg (Bool.eq_false_iff.mp hoff), if_pos hen, if_pos (ringBad hbad)]
    rw [hrefused, getFn_pageRefuse]
    exact ⟨rfl, rfl, rfl⟩
  · rw [lrCfgWrite_eq h, if_pos hon, if_neg (not_not_intro hsame), getFn_setFn_eq]
    exact ⟨ringCfg_toNat v (by decide), rfl⟩
  · obtain ⟨hlo, hhi, hbase⟩ : 4 ≤ wbits v 0 4 ∧ wbits v 0 4 ≤ 12 ∧ (getFn s f).lrBase ≠ 0 := hok
    rw [lrCfgWrite_eq h, if_neg (Bool.eq_false_iff.mp hoff), if_pos hen, if_neg (ringOk hlo hhi hbase), getFn_setFn_eq]
    exact ⟨(ringCfg_toNat v (by decide)).trans (by rw [hen]; rfl), rfl⟩
  · have hrefused : lrCfgWrite s f v = pageRefuse s f := by
      rw [lrCfgWrite_eq h]
      rcases hbad with ⟨hon, hdiff⟩ | ⟨hoff, hen, hbad⟩
      · rw [if_pos hon, if_pos hdiff]
      · rw [if_neg (Bool.eq_false_iff.mp hoff), if_pos hen, if_pos (ringBad hbad)]
    rw [hrefused, getFn_pageRefuse]
    exact ⟨rfl, rfl, rfl⟩

theorem toNat_ofNat_of_lt {w n : Nat} (h : n < 2 ^ w) : (BitVec.ofNat w n).toNat = n := by
  rw [BitVec.toNat_ofNat, Nat.mod_eq_of_lt h]

/-! ## O33: the context table -/

theorem exec_contextAssign {s : State} {c w : Nat} (h : registersServe s 0) (hc : c < 16384) (hw : w < 4) (v : Word) :
    exec (.contextAssignWrite c w v) s = .next (assignWrite s c w v) := by
  show Host.Outcome.next (if (c < 16384 && w < 4) = true then _ else s) = _
  rw [if_pos (by simp [hc, hw]), regWrite_assign h hc hw]

/-- R447: the three words of an entry, in a device that serves. -/
theorem assignWrite_serves {s : State} {c : Nat} (h : registersServe s 0) (hc : c < 16384) (v : Word) :
    assignWrite s c 0 v = assignOwner s c v ∧ assignWrite s c 1 v = assignPasid s c v ∧ assignWrite s c 2 v = assignQuota s c v := by
  have hstate : ¬(s.dev.state == .recovery) = true := by rw [h.2.1]; decide
  have hctx : ¬c ≥ 16384 := by omega
  refine ⟨?_, ?_, ?_⟩ <;> (unfold assignWrite; rw [if_neg hctx, if_neg hstate]; rfl)

/-- Settles O33: the tests of the three words, in their order. -/
theorem contextAssignment : Obligations.ContextAssignment := by
  intro c v s h hc x f l dup q refused
  have hf : f < 2 ^ 7 := Nat.mod_lt _ (by decide)
  have hl : l < 2 ^ 10 := by
    show (if f = 0 then 0 else wbits v 16 10) < 2 ^ 10
    split
    · decide
    · exact Nat.mod_lt _ (by decide)
  have hq : q < 2 ^ 20 := Nat.mod_lt _ (by decide)
  obtain ⟨ownerWrite, pasidWrite, quotaWrite⟩ := assignWrite_serves h hc v
  have owner := (exec_contextAssign h hc (show 0 < 4 by decide) v).trans (congrArg _ ownerWrite)
  have pasid := (exec_contextAssign h hc (show 1 < 4 by decide) v).trans (congrArg _ pasidWrite)
  have quota := (exec_contextAssign h hc (show 2 < 4 by decide) v).trans (congrArg _ quotaWrite)
  have others : ∀ y : Ctx, ∀ d, d ≠ c → getCtx (setCtx s c y) d = getCtx s d := fun y d hd => getCtx_setCtx_ne hd
  have hdupIff : (0 < f && f < 64 && s.ctxs.any (fun p => p.1 != c && p.2.func.toNat == f && p.2.loc.toNat == l)) = true ↔ dup := by
    simp only [Bool.and_eq_true, decide_eq_true_eq, List.any_eq_true, bne_iff_ne, beq_iff_eq]
    exact ⟨fun ⟨⟨h0, h64⟩, p, hp, ⟨hne, hfn⟩, hloc⟩ => ⟨p, hp, hne, h0, h64, hfn, hloc⟩,
      fun ⟨p, hp, hne, h0, h64, hfn, hloc⟩ => ⟨⟨h0, h64⟩, p, hp, ⟨hne, hfn⟩, hloc⟩⟩
  refine ⟨fun hnew => ⟨fun hbad => owner.trans (congrArg _ ?_), fun hc0 hclosed hfn hdup => ⟨_, owner, ?_⟩⟩,
    fun hnew => ⟨fun hopen => pasid.trans (congrArg _ ?_), fun hclosed => ⟨_, pasid, ?_⟩⟩,
    fun hbad => quota.trans (congrArg _ ?_), fun htotal hheld => ⟨_, quota, ?_⟩⟩
  · unfold assignOwner
    rw [if_neg (by simpa using hnew)]
    refine if_pos ?_
    rw [Bool.or_eq_true, hdupIff]
    simpa only [Bool.or_eq_true, beq_iff_eq, bne_iff_ne, Bool.and_eq_true, decide_eq_true_eq, or_assoc] using hbad
  · have hset : assignOwner s c v = setCtx s c { x with func := BitVec.ofNat 7 f, loc := BitVec.ofNat 10 l } := by
      unfold assignOwner
      rw [if_neg (by simpa using hnew)]
      refine if_neg ?_
      rw [Bool.or_eq_true, hdupIff]
      simp only [Bool.or_eq_true, beq_iff_eq, bne_iff_ne, Bool.and_eq_true, decide_eq_true_eq]
      rintro (((hz | hstate) | hrange) | hsame)
      · exact hc0 hz
      · exact hstate hclosed
      · omega
      · exact hdup hsame
    rw [hset, getCtx_setCtx_eq]
    exact ⟨toNat_ofNat_of_lt hf, toNat_ofNat_of_lt hl, others _⟩
  · unfold assignPasid
    rw [if_neg (by simpa using hnew), if_pos (by simpa using hopen)]
    rfl
  · have hset : assignPasid s c v = setCtx s c { x with pasid := BitVec.ofNat 20 q, pasidEn := wbit v 31 } := by
      unfold assignPasid
      rw [if_neg (by simpa using hnew), if_neg (by simpa using hclosed)]
    rw [hset, getCtx_setCtx_eq]
    exact ⟨toNat_ofNat_of_lt hq, rfl, others _⟩
  · unfold assignQuota
    exact if_pos (by simpa using hbad)
  · have hset : assignQuota s c v = setCtx s c { x with quota := BitVec.ofNat 20 q } := by
      unfold assignQuota
      refine if_neg ?_
      simp only [Bool.or_eq_true, decide_eq_true_eq, not_or]
      exact ⟨Nat.not_lt.mpr htotal, Nat.not_lt.mpr hheld⟩
    rw [hset, getCtx_setCtx_eq]
    exact ⟨toNat_ofNat_of_lt hq, others _⟩

/-! ## O32: vectors -/

/-- A page with one vector replaced. -/
def putVec (p : FnPage) (n : Nat) (x : Vec) : FnPage := { p with vecs := aSet p.vecs n x }

theorem getVec_putVec_eq {p : FnPage} {n : Nat} {x : Vec} : getVec (putVec p n x) n = x := by
  show (aGet (aSet p.vecs n x) n).getD {} = x
  rw [aGet_aSet_eq]; rfl

theorem getVec_putVec_ne {p : FnPage} {n m : Nat} {x : Vec} (h : m ≠ n) : getVec (putVec p n x) m = getVec p m := by
  show (aGet (aSet p.vecs n x) m).getD {} = _
  rw [aGet_aSet_ne h]; rfl

theorem fnMask_putVec (p : FnPage) (n : Nat) (x : Vec) : (putVec p n x).fnMask = p.fnMask := rfl

/-- R121: the bytes of a vector's message in the host's memory. -/
def vecMessage (s : State) (x : Vec) : List Host.Cell := hostWrite s.host x.addr.toNat (leBytes x.data.toNat 4)

/-- R122: a vector whose message has been sent, or is pending behind a mask. -/
def sentVec (x : Vec) (masked : Bool) : Vec :=
  { x with count := 0, before := 0, delayOn := false, pending := masked, sent := if masked then x.sent else x.sent + 1 }

theorem sendVec_fns (s : State) (f n : Nat) :
    (sendVec s f n).fns = aSet s.fns f (putVec (getFn s f) n (sentVec (getVec (getFn s f) n) ((getVec (getFn s f) n).mask || (getFn s f).fnMask))) := by
  unfold sendVec
  dsimp only
  split
  · next h => rw [h]; rfl
  · next h => rw [Bool.eq_false_iff.mpr h]; rfl

theorem getFn_of_fns {s : State} {f : Nat} {p : FnPage} {fns : List (Nat × FnPage)} (h : s.fns = aSet fns f p) : getFn s f = p := by
  rw [getFn, h, aGet_aSet_eq]; rfl

theorem getFn_of_fns_ne {s t : State} {f g : Nat} {p : FnPage} (h : s.fns = aSet t.fns f p) (hg : g ≠ f) : getFn s g = getFn t g := by
  rw [getFn, h, aGet_aSet_ne hg]; rfl

theorem getFn_sendVec (s : State) (f n : Nat) : getFn (sendVec s f n) f
    = putVec (getFn s f) n (sentVec (getVec (getFn s f) n) ((getVec (getFn s f) n).mask || (getFn s f).fnMask)) :=
  getFn_of_fns (sendVec_fns s f n)

theorem sendVec_host (s : State) (f n : Nat) : (sendVec s f n).host
    = if (getVec (getFn s f) n).mask || (getFn s f).fnMask then s.host else vecMessage s (getVec (getFn s f) n) := by
  unfold sendVec
  dsimp only
  split <;> rfl

/-- R121: the vector after its pending message has gone, where no mask holds it. -/
def firedVec (x : Vec) (fnMask : Bool) : Vec :=
  if x.pending && !x.mask && !fnMask then { x with pending := false, sent := x.sent + 1 } else x

theorem firePending_of {s : State} {f n : Nat} (h : ((getVec (getFn s f) n).pending && !(getVec (getFn s f) n).mask && !(getFn s f).fnMask) = true) :
    (firePending s f n).fns = aSet s.fns f (putVec (getFn s f) n (firedVec (getVec (getFn s f) n) (getFn s f).fnMask))
      ∧ (firePending s f n).host = vecMessage s (getVec (getFn s f) n) := by
  have hfired : firedVec (getVec (getFn s f) n) (getFn s f).fnMask
      = { getVec (getFn s f) n with pending := false, sent := (getVec (getFn s f) n).sent + 1 } := if_pos h
  unfold firePending
  dsimp only
  rw [if_pos h, hfired]
  exact ⟨rfl, rfl⟩

theorem firePending_idle {s : State} {f n : Nat}
    (h : ((getVec (getFn s f) n).pending && !(getVec (getFn s f) n).mask && !(getFn s f).fnMask) = false) : firePending s f n = s := by
  unfold firePending
  dsimp only
  rw [if_neg (Bool.eq_false_iff.mp h)]

/-- What the vectors of a function show of one vector: its state, and the mask of the function. -/
def vecView (s : State) (f n : Nat) : Vec × Bool := (getVec (getFn s f) n, (getFn s f).fnMask)

theorem vecView_putVec_eq {s : State} {f n : Nat} {p : FnPage} {x : Vec} (h : getFn s f = putVec p n x) : vecView s f n = (x, p.fnMask) := by
  rw [vecView, h, getVec_putVec_eq, fnMask_putVec]

theorem vecView_putVec_ne {s t : State} {f n m : Nat} {x : Vec} (h : getFn s f = putVec (getFn t f) m x) (hne : n ≠ m) :
    vecView s f n = vecView t f n := by
  rw [vecView, h, getVec_putVec_ne hne, fnMask_putVec]; rfl

theorem vecView_firePending (s : State) (f n : Nat) :
    vecView (firePending s f n) f n = (firedVec (getVec (getFn s f) n) (getFn s f).fnMask, (getFn s f).fnMask) := by
  cases h : (getVec (getFn s f) n).pending && !(getVec (getFn s f) n).mask && !(getFn s f).fnMask with
  | true => exact vecView_putVec_eq (getFn_of_fns (firePending_of h).1)
  | false => rw [firePending_idle h, firedVec, if_neg (Bool.eq_false_iff.mp h)]; rfl

theorem vecView_firePending_ne (s : State) (f : Nat) {n m : Nat} (hne : n ≠ m) : vecView (firePending s f m) f n = vecView s f n := by
  cases h : (getVec (getFn s f) m).pending && !(getVec (getFn s f) m).mask && !(getFn s f).fnMask with
  | true => exact vecView_putVec_ne (getFn_of_fns (firePending_of h).1) hne
  | false => rw [firePending_idle h]

/-! ### Folds that pass each key once -/

section
variable {α β : Type} {step : State → α → State} {view : State → β} {a : α}

theorem foldl_view_of_not_mem (other : ∀ s b, b ≠ a → view (step s b) = view s) {l : List α} (h : a ∉ l) (s : State) :
    view (l.foldl step s) = view s := by
  induction l generalizing s with
  | nil => rfl
  | cons b l ih =>
    obtain ⟨hb, hl⟩ := not_or.mp (fun hor => h (List.mem_cons.mpr hor))
    rw [List.foldl_cons, ih hl, other s b (Ne.symm hb)]

/-- The one step that concerns `a` is taken from a state that shows what the first one showed. -/
theorem foldl_view_of_mem (other : ∀ s b, b ≠ a → view (step s b) = view s) {l : List α} (hnodup : l.Nodup) (h : a ∈ l) (s : State) :
    ∃ t, view t = view s ∧ view (l.foldl step s) = view (step t a) := by
  induction l generalizing s with
  | nil => exact absurd h List.not_mem_nil
  | cons b l ih =>
    obtain ⟨hb, hnodup⟩ := List.nodup_cons.mp hnodup
    rw [List.foldl_cons]
    by_cases hba : b = a
    · exact ⟨s, rfl, hba ▸ foldl_view_of_not_mem other (hba ▸ hb) _⟩
    · obtain ⟨t, ht, hfold⟩ := ih hnodup ((List.mem_cons.mp h).resolve_left (Ne.symm hba)) (step s b)
      exact ⟨t, ht.trans (other s b hba), hfold⟩
end

/-! ### B + 2 µs -/

/-- R122: a vector after B + 2 µs. -/
def tickedVec (x : Vec) (fnMask : Bool) : Vec :=
  if wbits x.modr 0 2 = 2 && x.before > 0 then { sentVec x (x.mask || fnMask) with count := x.count - x.before } else x

theorem vecView_sendVec_ne (s : State) (f : Nat) {n m : Nat} (hne : n ≠ m) : vecView (sendVec s f m) f n = vecView s f n :=
  vecView_putVec_ne (getFn_sendVec s f m) hne

theorem vecView_tickVec (s : State) (f n : Nat) :
    vecView (tickVec s f n) f n = (tickedVec (getVec (getFn s f) n) (getFn s f).fnMask, (getFn s f).fnMask) := by
  unfold tickVec tickedVec
  dsimp only
  split
  · rw [vecView_putVec_eq (getFn_modFn_eq (sendVec s f n) f _), getFn_sendVec, getVec_putVec_eq, fnMask_putVec]
  · rfl

theorem vecView_tickVec_ne (s : State) (f : Nat) {n m : Nat} (hne : n ≠ m) : vecView (tickVec s f m) f n = vecView s f n := by
  unfold tickVec
  dsimp only
  split
  · exact (vecView_putVec_ne (getFn_modFn_eq (sendVec s f m) f _) hne).trans (vecView_sendVec_ne s f hne)
  · rfl

theorem getFn_tickVec_ne (s : State) (n : Nat) {f g : Nat} (hne : g ≠ f) : getFn (tickVec s f n) g = getFn s g := by
  unfold tickVec
  dsimp only
  split
  · exact (getFn_setFn_ne hne).trans (getFn_of_fns_ne (sendVec_fns s f n) hne)
  · rfl

/-- B + 2 µs, for the vectors of one function. -/
def tickFn (s : State) (f : Nat) : State := ((getFn s f).vecs.map (·.1)).foldl (fun s v => tickVec s f v) s

theorem getFn_tickFn_ne (s : State) {f g : Nat} (hne : g ≠ f) : getFn (tickFn s f) g = getFn s g := by
  suffices h : ∀ (l : List Nat) (s : State), getFn (l.foldl (fun s v => tickVec s f v) s) g = getFn s g from h _ s
  intro l
  induction l with
  | nil => exact fun s => rfl
  | cons n l ih => exact fun s => (ih _).trans (getFn_tickVec_ne s n hne)

theorem aGet_none_of_not_mem {V : Type} {l : List (Nat × V)} {k : Nat} (h : k ∉ l.map Prod.fst) : aGet l k = none := by
  induction l with
  | nil => rfl
  | cons x l ih =>
    obtain ⟨hx, hl⟩ := not_or.mp (fun hor => h (List.mem_cons.mpr hor))
    rw [aGet, if_neg (by simpa using Ne.symm hx), ih hl]

theorem tickedVec_default (fnMask : Bool) : tickedVec {} fnMask = {} := rfl

theorem getVec_tickFn (s : State) (f n : Nat) (hnodup : ((getFn s f).vecs.map Prod.fst).Nodup) :
    getVec (getFn (tickFn s f) f) n = tickedVec (getVec (getFn s f) n) (getFn s f).fnMask := by
  have other : ∀ (s : State) (m : Nat), m ≠ n → vecView (tickVec s f m) f n = vecView s f n :=
    fun s m hm => vecView_tickVec_ne s f (Ne.symm hm)
  by_cases hmem : n ∈ (getFn s f).vecs.map Prod.fst
  · obtain ⟨t, ht, hfold⟩ := foldl_view_of_mem (view := fun s => vecView s f n) other hnodup hmem s
    obtain ⟨hvec, hmask⟩ := Prod.mk.inj ht
    rw [vecView_tickVec, hvec, hmask] at hfold
    exact (Prod.mk.inj hfold).1
  · have habsent : getVec (getFn s f) n = {} := by rw [getVec, aGet_none_of_not_mem hmem]; rfl
    have hfold := foldl_view_of_not_mem (view := fun s => vecView s f n) other hmem s
    rw [habsent, tickedVec_default]
    exact (Prod.mk.inj hfold).1.trans habsent

theorem getVec_perTick (s : State) (f n : Nat) (hfns : (s.fns.map Prod.fst).Nodup) (hvecs : ((getFn s f).vecs.map Prod.fst).Nodup) :
    getVec (getFn (perTick s) f) n = tickedVec (getVec (getFn s f) n) (getFn s f).fnMask := by
  have other : ∀ (s : State) (g : Nat), g ≠ f → getFn (tickFn s g) f = getFn s f := fun s g hg => getFn_tickFn_ne s (Ne.symm hg)
  by_cases hmem : f ∈ s.fns.map Prod.fst
  · obtain ⟨t, ht, hfold⟩ := foldl_view_of_mem (view := fun s => getFn s f) other hfns hmem s
    rw [← ht] at hvecs ⊢
    exact (congrArg (getVec · n) hfold).trans (getVec_tickFn t f n hvecs)
  · have habsent : getFn s f = {} := by rw [getFn, aGet_none_of_not_mem hmem]; rfl
    have hfold := foldl_view_of_not_mem (view := fun s => getFn s f) other hmem s
    rw [habsent]
    exact (congrArg (getVec · n) (hfold.trans habsent)).trans (tickedVec_default _).symm

/-! ### The mask of the function -/

theorem getVec_vectorMask_all (s : State) (f : Nat) {n : Nat} (hn : n < 32) (m : Bool) :
    vecView (vectorMask s f none m) f n = (firedVec (getVec (getFn s f) n) m, m) := by
  have other : ∀ (s : State) (k : Nat), k ≠ n → vecView (firePending s f k) f n = vecView s f n :=
    fun s k hk => vecView_firePending_ne s f (Ne.symm hk)
  obtain ⟨t, ht, hfold⟩ := foldl_view_of_mem (view := fun s => vecView s f n) other (List.nodup_range (n := 32)) (List.mem_range.mpr hn)
    (modFn s f (fun p => { p with fnMask := m }))
  rw [vecView_firePending] at hfold
  obtain ⟨hvec, hmask⟩ := Prod.mk.inj ht
  rw [hvec, hmask, getFn_modFn_eq] at hfold
  exact hfold

theorem vectorMask_all_host_on (s : State) (f : Nat) : (vectorMask s f none true).host = s.host := by
  suffices h : ∀ (l : List Nat) (s : State), (getFn s f).fnMask = true → l.foldl (fun s n => firePending s f n) s = s by
    exact (congrArg State.host (h (List.range 32) (modFn s f (fun p => { p with fnMask := true })) (by rw [getFn_modFn_eq]))).trans rfl
  intro l
  induction l with
  | nil => exact fun s _ => rfl
  | cons n l ih =>
    intro s hmask
    have hidle := firePending_idle (s := s) (f := f) (n := n) (by rw [hmask]; simp)
    rw [List.foldl_cons, hidle, ih s hmask]

/-! ### The statement -/

theorem exec_vectorMask {s : State} {f : Nat} (h : registersServe s f) (v : Option Nat) (m : Bool) :
    exec (.msixVectorMaskWrite f v m) s = .next (vectorMask s f v m) := congrArg _ (if_pos (by simp [h.1, h.2.2]))

theorem vectorMask_one (s : State) (f : Nat) {n : Nat} (hn : n < 32) (m : Bool) :
    vectorMask s f (some n) m
      = firePending (setFn s f (putVec (getFn s f) n { getVec (getFn s f) n with mask := m })) f n := if_neg (by omega)

theorem pageWrite_modr (s : State) (f : Nat) {n : Nat} (hn : n < 32) (v : Word) : pageWrite s f (0x100 + 4 * n) v = msixModWrite s f n v := by
  rw [pageWrite]
  · have hrange : (decide (0x100 ≤ 0x100 + 4 * n) && decide (0x100 + 4 * n < 0x180)) = true := by
      simp only [Bool.and_eq_true, decide_eq_true_eq]; omega
    rw [if_pos hrange]
    congr 1
    omega
  all_goals omega

theorem exec_msixMod {s : State} {f n : Nat} (h : registersServe s f) (hn : n < 32) (v : Word) :
    exec (.msixModWrite f n v) s = .next (msixModWrite s f n v) := by
  refine congrArg _ ((if_pos hn).trans ?_)
  rw [regWrite_page h (by omega), pageWrite_modr s f hn]

/-- R442: a write of MSIX_MOD that changes the moderation. -/
theorem msixModWrite_changes {s : State} {f n : Nat} (hn : n < 32) {v : Word} (hmode : wbits v 0 2 ≠ 3) (hcount : wbits v 4 8 ≠ 0)
    (hdelay : wbits v 16 12 ≠ 0) (hnew : modMask v ≠ (getVec (getFn s f) n).modr) :
    msixModWrite s f n v = modFn (if (getVec (getFn s f) n).count > 0 then sendVec s f n else s) f
      (fun p => putVec p n { (getVec p n) with modr := modMask v, count := 0, before := 0, delayOn := false }) := by
  unfold msixModWrite
  dsimp only
  rw [if_neg (by omega), if_neg (by simp [hmode, hcount, hdelay]), if_neg hnew]
  rfl

theorem firedVec_masked (x : Vec) {fnMask : Bool} (h : x.pending = false ∨ x.mask = true ∨ fnMask = true) : firedVec x fnMask = x := by
  rw [firedVec, if_neg]
  rcases h with h | h | h <;> simp [h]

theorem firedVec_free {x : Vec} (hpending : x.pending = true) (hmask : x.mask = false) :
    firedVec x false = { x with pending := false, sent := x.sent + 1 } := by
  rw [firedVec, if_pos (by simp [hpending, hmask])]

/-- R121: a write of one vector's mask. -/
theorem vectorMask_one_vec (s : State) (f : Nat) {n : Nat} (hn : n < 32) (m : Bool) :
    getVec (getFn (vectorMask s f (some n) m) f) n = firedVec { getVec (getFn s f) n with mask := m } (getFn s f).fnMask := by
  rw [vectorMask_one s f hn]
  have h := vecView_firePending (setFn s f (putVec (getFn s f) n { getVec (getFn s f) n with mask := m })) f n
  rw [getFn_setFn_eq, getVec_putVec_eq] at h
  exact (Prod.mk.inj h).1

theorem vectorMask_one_host {s : State} {f n : Nat} (hn : n < 32) {m : Bool} :
    (vectorMask s f (some n) m).host
      = if (getVec (getFn s f) n).pending && !m && !(getFn s f).fnMask then vecMessage s (getVec (getFn s f) n) else s.host := by
  rw [vectorMask_one s f hn]
  let t := setFn s f (putVec (getFn s f) n { getVec (getFn s f) n with mask := m })
  have hfn : getFn t f = putVec (getFn s f) n { getVec (getFn s f) n with mask := m } := getFn_setFn_eq
  have hvec : getVec (getFn t f) n = { getVec (getFn s f) n with mask := m } := by rw [hfn, getVec_putVec_eq]
  have hmask : (getFn t f).fnMask = (getFn s f).fnMask := by rw [hfn]; rfl
  cases h : (getVec (getFn s f) n).pending && !m && !(getFn s f).fnMask with
  | true =>
    refine (firePending_of (s := t) (by rw [hvec, hmask]; exact h)).2.trans ?_
    rw [hvec]; rfl
  | false => exact (congrArg State.host (firePending_idle (s := t) (by rw [hvec, hmask]; exact h))).trans rfl

theorem delayExpiry_runs {s : State} {f n : Nat} (hmode : wbits (getVec (getFn s f) n).modr 0 2 = 1)
    (hon : (getVec (getFn s f) n).delayOn = true) : delayExpiry s f n = sendVec s f n := if_pos (by simp [hmode, hon])

/-- Settles O32: each write and timer by what it makes of the vector, `sentVec`, `firedVec` or `tickedVec`. -/
theorem interruptVectors : Obligations.InterruptVectors := by
  intro f n s h hn p x masked message sentAs
  refine ⟨fun v hmode hcount hdelay hnew => ⟨_, exec_msixMod h hn v, ?_⟩, fun v hbad => ⟨_, exec_msixMod h hn v, ?_⟩,
    ⟨_, exec_vectorMask h _ _, ?_⟩, fun hmask hpending => ⟨_, exec_vectorMask h _ _, ?_⟩, fun hheld => ⟨_, exec_vectorMask h _ _, ?_⟩,
    ⟨_, exec_vectorMask h _ _, ?_⟩, ⟨_, exec_vectorMask h _ _, ?_⟩, fun hmode hon => ⟨delayExpiry s f n, rfl, ?_⟩, fun hoff => ?_,
    fun hfns hvecs => ⟨perTick s, rfl, fun hmode hbefore => ?_, fun hidle => ?_⟩⟩
  · rw [msixModWrite_changes hn hmode hcount hdelay hnew, getFn_modFn_eq, getVec_putVec_eq]
    refine ⟨rfl, rfl, fun hzero => ?_, fun hsome hopen => ?_⟩
    · rw [if_neg (show ¬(getVec (getFn s f) n).count > 0 by rw [show (getVec (getFn s f) n).count = 0 from hzero]; decide)]
      rfl
    · rw [if_pos (Nat.pos_of_ne_zero hsome)]
      exact (sendVec_host s f n).trans (if_neg (Bool.eq_false_iff.mp hopen))
  · have hrefused : msixModWrite s f n v = pageRefuse s f := by
      unfold msixModWrite
      rw [if_neg (by omega), if_pos (by simpa [or_assoc] using hbad)]
    rw [hrefused, getFn_pageRefuse]
    exact ⟨rfl, rfl⟩
  · rw [vectorMask_one_vec s f hn, vectorMask_one_host hn, firedVec_masked _ (.inr (.inl rfl))]
    exact ⟨rfl, if_neg (by simp)⟩
  · rw [vectorMask_one_vec s f hn, vectorMask_one_host hn, show (getFn s f).fnMask = false from hmask]
    exact ⟨firedVec_free hpending rfl, if_pos (by simpa using hpending)⟩
  · rw [vectorMask_one_vec s f hn, vectorMask_one_host hn]
    refine ⟨firedVec_masked _ (hheld.symm.imp id .inr), if_neg ?_⟩
    rcases hheld with hmask | hpending
    · rw [show (getFn s f).fnMask = true from hmask]; simp
    · rw [show (getVec (getFn s f) n).pending = false from hpending]; simp
  · obtain ⟨hvec, hmask⟩ := Prod.mk.inj (getVec_vectorMask_all s f hn true)
    exact ⟨hmask, hvec.trans (firedVec_masked _ (.inr (.inr rfl))), vectorMask_all_host_on s f⟩
  · obtain ⟨hvec, hmask⟩ := Prod.mk.inj (getVec_vectorMask_all s f hn false)
    refine ⟨hmask, hvec.trans ?_⟩
    simp only [firedVec, Bool.not_false, Bool.and_true]
    rfl
  · rw [delayExpiry_runs hmode hon, getFn_sendVec, getVec_putVec_eq]
    exact ⟨rfl, sendVec_host s f n⟩
  · refine congrArg _ (if_neg ?_)
    rcases hoff with hmode | hon
    · simpa using fun hm => absurd hm hmode
    · rw [show (getVec (getFn s f) n).delayOn = false from hon]; simp
  · rw [getVec_perTick s f n hfns hvecs]
    exact if_pos (by simpa using ⟨hmode, hbefore⟩)
  · rw [getVec_perTick s f n hfns hvecs]
    refine if_neg ?_
    rcases hidle with hmode | hbefore
    · simpa using fun hm => absurd hm hmode
    · rw [show (getVec (getFn s f) n).before = 0 from hbefore]; simp

end Sys2Proof.Proofs.HostRegs
end

section
/-! PROOFS. O35: doorbell writes (R95, R96, R455). -/
namespace Sys2Proof.Proofs.Doorbell

open Sys2Proof Sys2Proof.Machine Sys2Proof.Laws

/-- The doorbells of a function that serves answer a write. -/
theorem answers_of_serve {s : State} {f : Nat} (h : registersServe s f) :
    (!(getFn s f).present || s.dev.state == .boot || (getFn s f).d3hot) = false := by
  obtain ⟨hopen, hstate, _⟩ := h
  simp only [barOpen, Bool.and_eq_true, Bool.not_eq_true'] at hopen
  simp [hopen.1.2, hopen.2, hstate]

theorem bar2Write_line (s : State) (f line size : Nat) (v : DWord) : bar2Write s f (64 * line) size v = doorbell0 s f line size v := by
  have hoff : 64 * line % 64 = 0 := by omega
  have hline : 64 * line / 64 = line := by omega
  unfold bar2Write
  rw [hoff, hline]
  rfl

theorem bar2Write_elsewhere {s : State} {f off : Nat} (size : Nat) (v : DWord) (h : registersServe s f) (h0 : off % 64 ≠ 0)
    (h8 : off % 64 ≠ 0x08) (hC : off % 64 ≠ 0x0C) : bar2Write s f off size v = dbDrop s f := by
  unfold bar2Write
  split
  · next heq => exact absurd heq h0
  · next heq => exact absurd heq h8
  · next heq => exact absurd heq hC
  · exact if_neg (Bool.eq_false_iff.mp (answers_of_serve h))

/-- The state once the head has been taken, where the write holds one. -/
def afterHead (s : State) (c : Nat) (v : DWord) : State := if bitOf v.toNat 15 then takeCqHead s c (dbits v 16 16) else s

/-- R95, R96: a write of a line's first doorbell, of a size that passes, on a context's line. -/
theorem doorbell0_ctx {s : State} {f line size c : Nat} {v : DWord} (h : registersServe s f) (hctx : ctxOf s f line = some c)
    (hsize : dbSizeOk 0 size v = true) :
    doorbell0 s f line size v =
      if (getCtx s c).state == .closed then dbDrop s f
      else if (bitOf v.toNat 15 && dbits v 16 16 ≥ cqSize (getCtx s c))
        || (bitOf v.toNat 12 && (getCtx s c).state == .opened && dbits v 0 12 ≥ sqSize (getCtx s c)) then dbDrop s f
      else if bitOf v.toNat 12 && (getCtx s c).state == .opened then takeSqTail (afterHead s c v) c (dbits v 0 12)
      else afterHead s c v := by
  unfold doorbell0
  rw [if_neg (Bool.eq_false_iff.mp (answers_of_serve h)), h.2.2, hsize, hctx]
  rfl

theorem doorbell0_drop {s : State} {f line size : Nat} {v : DWord} (h : registersServe s f)
    (hbad : dbSizeOk 0 size v = false ∨ ctxOf s f line = none) : doorbell0 s f line size v = dbDrop s f := by
  unfold doorbell0
  rw [if_neg (Bool.eq_false_iff.mp (answers_of_serve h)), h.2.2]
  rcases hbad with hsize | hctx
  · rw [hsize]; rfl
  · rw [hctx]
    split <;> rfl

theorem getCtx_takeCqHead (s : State) (c head : Nat) : getCtx (takeCqHead s c head) c
    = { getCtx s c with
        cq := { (getCtx s c).cq with head := head, used := (getCtx s c).cq.used - consumedBy (getCtx s c).cq head (cqSize (getCtx s c)) },
        inRing := (getCtx s c).inRing.drop (consumedBy (getCtx s c).cq head (cqSize (getCtx s c))) } := getCtx_setCtx_eq

/-- R95, R98: what the completion head of a doorbell write, where it holds one, does to a context: its ring and the tags. -/
def headTaken (s u : State) (c : Nat) (v : DWord) : Prop :=
  let x := getCtx s c
  let n := consumedBy x.cq (dbits v 16 16) (cqSize x)
  (bitOf v.toNat 15 = true → (getCtx u c).cq = { x.cq with head := dbits v 16 16, used := x.cq.used - n }
    ∧ u.tags = s.tags.filter (fun w => !(w.awaiting == some c && (x.inRing.take n).contains w.tag)))
  ∧ (bitOf v.toNat 15 = false → (getCtx u c).cq = x.cq ∧ u.tags = s.tags)

theorem headTaken_afterHead (s : State) (c : Nat) (v : DWord) :
    headTaken s (afterHead s c v) c v ∧ (getCtx (afterHead s c v) c).sqTail = (getCtx s c).sqTail := by
  unfold afterHead headTaken
  cases hhead : bitOf v.toNat 15 with
  | true =>
    rw [if_pos rfl, getCtx_takeCqHead]
    exact ⟨⟨fun _ => ⟨rfl, rfl⟩, fun h => Bool.noConfusion h⟩, rfl⟩
  | false => exact ⟨⟨fun h => Bool.noConfusion h, fun _ => ⟨rfl, rfl⟩⟩, rfl⟩

theorem getCtx_takeSqTail (s : State) (c tail : Nat) :
    ∃ timer free, getCtx (takeSqTail s c tail) c = { getCtx s c with sqTail := tail, timer := timer, sqFree := free } :=
  ⟨_, _, getCtx_setCtx_eq⟩

theorem doorbellFault_serve {s : State} {f line size : Nat} {v : DWord} (h : registersServe s f) :
    doorbellFault s f line size v =
      if !dbSizeOk 8 size v || !controlLine s f line || dbits v 0 16 ≥ 2 ^ wbits (getFn s f).frCfg 0 5 then dbDrop s f
      else setFn s f { getFn s f with fr := ringHead (getFn s f).fr (dbits v 0 16) (2 ^ wbits (getFn s f).frCfg 0 5) } := by
  unfold doorbellFault
  dsimp only
  rw [if_neg (Bool.eq_false_iff.mp (answers_of_serve h)), h.2.2, Bool.false_or]

theorem doorbellLedger_serve {s : State} {f line size : Nat} {v : DWord} (h : registersServe s f) :
    doorbellLedger s f line size v =
      if !dbSizeOk 0xC size v || !controlLine s f line || dbits v 0 12 ≥ 2 ^ wbits (getFn s f).lrCfg 0 4 then dbDrop s f
      else setFn s f { getFn s f with lr := ringHead (getFn s f).lr (dbits v 0 12) (2 ^ wbits (getFn s f).lrCfg 0 4) } := by
  unfold doorbellLedger
  dsimp only
  rw [if_neg (Bool.eq_false_iff.mp (answers_of_serve h)), h.2.2, Bool.false_or]

/-- Settles O35: the tests of the three doorbells, and what a write that passes them takes (`Taken`). -/
theorem doorbells : Obligations.Doorbells := by
  intro f line size v s h p dropped badSize doorbell
  have hexec : exec doorbell s = .next (doorbell0 s f line size v) := congrArg _ (bar2Write_line s f line size v)
  have hsizeIff : dbSizeOk 0 size v = true ↔ ¬badSize := by
    show _ ↔ ¬¬(size = 4 ∨ size = 8 ∧ dbits v 32 32 = 0)
    rw [Classical.not_not]
    simp [dbSizeOk]
  refine ⟨fun hbad => hexec.trans (congrArg _ (doorbell0_drop h ?_)), fun off h0 h8 hC => congrArg _ (bar2Write_elsewhere size v h h0 h8 hC),
    fun off => rfl, fun c hctx hsize => ?_, fun hsize hline => ?_, fun hline => ⟨?_, ?_⟩⟩
  · refine hbad.imp_left fun hb => Bool.eq_false_iff.mpr fun hok => hsizeIff.mp hok hb
  · intro x sqV cqV n out
    have houtIff : (cqV && dbits v 16 16 ≥ cqSize x || (sqV && x.state == .opened && dbits v 0 12 ≥ sqSize x)) = true ↔ out := by
      simp only [Bool.or_eq_true, Bool.and_eq_true, beq_iff_eq, decide_eq_true_eq, ge_iff_le, and_assoc]
      exact Iff.rfl
    refine ⟨fun hdrop => hexec.trans ((congrArg Host.Outcome.next ((doorbell0_ctx h hctx (hsizeIff.mpr hsize)).trans ?_))),
      fun hlive hin => ⟨_, hexec.trans (congrArg _ (doorbell0_ctx h hctx (hsizeIff.mpr hsize))), ?_⟩⟩
    · by_cases hclosed : x.state = .closed
      · exact if_pos (beq_iff_eq.mpr hclosed)
      · exact (if_neg (fun h => hclosed (beq_iff_eq.mp h))).trans (if_pos (houtIff.mpr (hdrop.resolve_left hclosed)))
    · rw [if_neg (fun h => hlive (beq_iff_eq.mp h)), if_neg (fun hbad => hin (houtIff.mp hbad))]
      obtain ⟨⟨hhead, hnoHead⟩, htail⟩ := headTaken_afterHead s c v
      by_cases hopen : sqV = true ∧ x.state = .opened
      · rw [if_pos (by simpa using hopen)]
        obtain ⟨timer, free, hget⟩ := getCtx_takeSqTail (afterHead s c v) c (dbits v 0 12)
        rw [hget]
        exact ⟨fun _ _ => rfl, fun hno => absurd hno (by simp [hopen.1, hopen.2]), hhead, hnoHead⟩
      · rw [if_neg (by simpa using hopen)]
        exact ⟨fun h1 h2 => absurd ⟨h1, h2⟩ hopen, fun _ => htail, hhead, hnoHead⟩
  · have hok : ∀ off, dbSizeOk off size v = true := fun off => by simp [dbSizeOk, hsize]
    refine ⟨fun hin => ⟨_, congrArg Host.Outcome.next (doorbellFault_serve h), ?_⟩,
      fun hout => congrArg Host.Outcome.next ((doorbellFault_serve h).trans (if_pos ?_)),
      fun hin => ⟨_, congrArg Host.Outcome.next (doorbellLedger_serve h), ?_⟩,
      fun hout => congrArg Host.Outcome.next ((doorbellLedger_serve h).trans (if_pos ?_))⟩
    · rw [if_neg (by simpa [hok, hline] using hin), getFn_setFn_eq]
    · simpa [hok, hline] using hout
    · rw [if_neg (by simpa [hok, hline] using hin), getFn_setFn_eq]
    · simpa [hok, hline] using hout
  · exact congrArg Host.Outcome.next ((doorbellFault_serve h).trans (if_pos (by simp [hline])))
  · exact congrArg Host.Outcome.next ((doorbellLedger_serve h).trans (if_pos (by simp [hline])))

end Sys2Proof.Proofs.Doorbell
end

section
/-! PROOFS. What the proofs about descriptors share: contexts that need not settle (R108, R114, R366), the fetch of a descriptor (R97,
R99), its entry (R98, R100) and its opening (R103). -/
namespace Sys2Proof.Proofs.DescBasics

open Sys2Proof Sys2Proof.Machine Sys2Proof.Laws
open Sys2Proof.Proofs.StateParts

/-! ## Contexts that need not settle -/

theorem mem_aSet {V : Type} {l : List (Nat × V)} {k : Nat} {v : V} {p : Nat × V} (h : p ∈ aSet l k v) : p = (k, v) ∨ p ∈ l := by
  induction l with
  | nil => exact .inl (List.mem_singleton.mp h)
  | cons q l ih =>
    obtain ⟨k', v'⟩ := q
    unfold aSet at h
    split at h
    · exact List.mem_cons.mp h
    · split at h
      · exact (List.mem_cons.mp h).imp_right (List.mem_cons_of_mem _)
      · rcases List.mem_cons.mp h with heq | hmem
        · exact .inr (heq ▸ List.mem_cons_self)
        · exact (ih hmem).imp_right (List.mem_cons_of_mem _)

theorem aGet_mem {V : Type} {l : List (Nat × V)} {k : Nat} {v : V} (h : aGet l k = some v) : (k, v) ∈ l := by
  induction l with
  | nil => exact nomatch h
  | cons q l ih =>
    obtain ⟨k', v'⟩ := q
    rw [aGet] at h
    split at h
    · next heq =>
      rw [← beq_iff_eq.mp heq, ← Option.some.inj h]
      exact List.mem_cons_self
    · exact List.mem_cons_of_mem _ (ih h)

theorem quietCtx_default : quietCtx {} := ⟨by decide, fun _ h => absurd h List.not_mem_nil, fun _ h => absurd h List.not_mem_nil⟩

theorem quiet_getCtx {s : State} (h : idle s) (c : Nat) : quietCtx (getCtx s c) := by
  unfold getCtx
  cases hget : aGet s.ctxs c with
  | none => exact quietCtx_default
  | some x => exact h _ (aGet_mem hget)

theorem idle_of_ctxs {s t : State} (hctxs : t.ctxs = s.ctxs) (h : idle s) : idle t := by
  unfold idle
  rw [hctxs]
  exact h

theorem idle_setCtx {s : State} {c : Nat} {x : Ctx} (h : idle s) (hx : quietCtx x) : idle (setCtx s c x) := by
  intro p hp
  rcases mem_aSet hp with rfl | hmem
  · exact hx
  · exact h p hmem

/-- Every context stays as it is when contexts and plans settle (R108, R114, R366). -/
def settled (s : State) : Prop :=
  ∀ c, (getCtx s c).state ≠ .closing ∧ (∀ t ∈ (getCtx s c).streams, t.closing = none) ∧ ∀ o ∈ (getCtx s c).opens, settleClose s c o = s

theorem settleClose_of_noCloseWait {s : State} {c : Nat} {o : OpenDesc} (h : noCloseWait o.wait = true) : settleClose s c o = s := by
  unfold settleClose
  cases hw : o.wait with
  | close => rw [hw] at h; exact Bool.noConfusion h
  | withdraw => rw [hw] at h; exact Bool.noConfusion h
  | _ => rfl

theorem settled_of_idle {s : State} (h : idle s) : settled s := fun c => by
  obtain ⟨hstate, hopens, hstreams⟩ := quiet_getCtx h c
  exact ⟨hstate, hstreams, fun o ho => settleClose_of_noCloseWait (hopens o ho)⟩

theorem foldl_fixed {α β : Type} {f : β → α → β} {b : β} {l : List α} (h : ∀ a ∈ l, f b a = b) : l.foldl f b = b := by
  induction l with
  | nil => rfl
  | cons a l ih =>
    rw [List.foldl_cons, h a List.mem_cons_self]
    exact ih fun x hx => h x (List.mem_cons_of_mem _ hx)

theorem settleStream_of_settled {s : State} (h : settled s) (c sid : Nat) : settleStream s c sid = s := by
  obtain ⟨hstate, hstreams, _⟩ := h c
  unfold settleStream
  split
  · rfl
  · next st hfind =>
    rw [if_pos]
    simp [hstreams st (List.mem_of_find?_eq_some hfind), hstate]

theorem settlePass_of_settled {s : State} (h : settled s) : settlePass s = s := by
  have hstreams : (s.ctxs.map (·.1)).foldl settleStreams s = s := foldl_fixed fun c _ =>
    foldl_fixed fun sid _ => settleStream_of_settled h c sid
  have hclose : (s.ctxs.map (·.1)).foldl (fun s c => if closeDone s c then closeNow s c else s) s = s := foldl_fixed fun c _ =>
    if_neg (by simp [closeDone, (h c).1])
  have hopens : (s.ctxs.map (·.1)).foldl (fun s c => ((getCtx s c).opens).foldl (fun s o => settleClose s c o) s) s = s :=
    foldl_fixed fun c _ => foldl_fixed (h c).2.2
  unfold settlePass
  dsimp only
  rw [hstreams, hclose, hopens]

theorem settle_of_settled {s : State} (h : settled s) : settle s = s := by
  simp only [settle, settlePass_of_settled h]

theorem settle_of_idle {s : State} (h : idle s) : settle s = s := settle_of_settled (settled_of_idle h)

/-! ## The fetch of a descriptor -/

section
variable {s : State} {d : Desc} {t : Nat}

theorem fetchDesc_of_fetches (h : fetches s d t) : fetchDesc s d = some (fetched s d t, t) := by
  obtain ⟨hserve, hopened, hpub, hnone, hrings, hfence, hd3, htag, _⟩ := h
  have halive : alive s = true := (Bool.and_eq_true _ _ ▸ hserve : _ ∧ _).1
  unfold fetchDesc
  simp [hnone, mayFetch, halive, hopened, hpub, hrings, hd3, hfence, htag, fetched]

/-- R97: the context once its descriptor has been fetched. -/
def fetchedCtx (x : Ctx) : Ctx :=
  { x with sqHead := (x.sqHead + 1) % sqSize x, timer := x.timer && (x.sqHead + 1) % sqSize x != x.sqTail, sqFree := x.sqFree + 1, fetched := none }

theorem getCtx_fetched : getCtx (fetched s d t) d.ctx = fetchedCtx (getCtx s d.ctx) := getCtx_setCtx_eq

theorem getCtx_fetched_ne {c : Nat} (h : c ≠ d.ctx) : getCtx (fetched s d t) c = getCtx s c := getCtx_setCtx_ne h

theorem fetched_tags : (fetched s d t).tags = s.tags ++ [{ tag := t, owner := .desc d.ctx, awaiting := none }] := rfl

theorem idle_fetched (h : idle s) : idle (fetched s d t) := idle_setCtx h (quiet_getCtx h d.ctx)

theorem runDesc_runs {o : Nat} {rsv : Bool} {body : State → Nat → State} (h : fetches s d t) (hok : descRefusal (fetched s d t) d o rsv = none) :
    runDesc s d o rsv body = settle (body (fetched s d t) t) := by
  unfold runDesc
  simp only [fetchDesc_of_fetches h, hok]

end

/-! ## Entries written at once -/

/-- An entry of the context is written at once (R98): a live context, a free slot, nothing held, nothing paused. -/
def canPost (g : State) (c : Nat) : Prop :=
  g.dev.failstop = false ∧ (getCtx g c).holds = [] ∧ cqFree g c = true ∧ ringsPaused g = false

theorem postEntry_writes {g : State} {c : Nat} {e : CEntry} (h : canPost g c) : postEntry g c e = writeEntry g c e := by
  obtain ⟨hstop, hholds, hfree, hrings⟩ := h
  have hlive : ctxLive (getCtx g c) = true := by
    simp only [cqFree, Bool.and_eq_true] at hfree
    exact hfree.1.1
  unfold postEntry
  rw [if_neg (by simp [hlive, hstop]), if_pos (by simp [hholds, hfree, hrings])]

/-- The state that the writing of an entry leaves, but for its message. -/
def entryWritten (g : State) (c : Nat) (e : CEntry) : State :=
  setCtx { g with
    host := hostWrite g.host ((getCtx g c).cqBase.toNat + 32 * (getCtx g c).cq.tail) (entryBytes e (getCtx g c).sqHead (getCtx g c).cq.phase),
    tags := g.tags.map (fun u => if u.tag = e.tag then { u with awaiting := some c } else u) } c
    { getCtx g c with cq := ringNext (getCtx g c).cq (cqSize (getCtx g c)), inRing := (getCtx g c).inRing ++ [e.tag] }

/-- R121: the message of an entry is the function's and the host's. -/
theorem writeEntry_keepsAll (g : State) (c : Nat) (e : CEntry) :
    Keep { fns := true, host := true } (entryWritten g c e) (writeEntry g c e) := by
  unfold writeEntry
  dsimp only
  split
  · exact keep_refl _ _
  · exact vecEvent_keep rfl (keep_refl _ _)

section
variable {g : State} {c : Nat} {e : CEntry}

theorem writeEntry_ctxs : (writeEntry g c e).ctxs = (entryWritten g c e).ctxs := keep_ctxs (writeEntry_keepsAll g c e)

theorem getCtx_of_ctxs {s t : State} (h : t.ctxs = s.ctxs) (c : Nat) : getCtx t c = getCtx s c := by rw [getCtx, h]; rfl

theorem getCtx_writeEntry : getCtx (writeEntry g c e) c
    = { getCtx g c with cq := ringNext (getCtx g c).cq (cqSize (getCtx g c)), inRing := (getCtx g c).inRing ++ [e.tag] } :=
  (getCtx_of_ctxs writeEntry_ctxs c).trans getCtx_setCtx_eq

theorem getCtx_writeEntry_ne {b : Nat} (h : b ≠ c) : getCtx (writeEntry g c e) b = getCtx g b :=
  (getCtx_of_ctxs writeEntry_ctxs b).trans (getCtx_setCtx_ne h)

theorem writeEntry_tags : (writeEntry g c e).tags = g.tags.map (fun u => if u.tag = e.tag then { u with awaiting := some c } else u) :=
  keep_tags (writeEntry_keepsAll g c e)

theorem writeEntry_host (h : e.noIrq = true) : (writeEntry g c e).host
    = hostWrite g.host ((getCtx g c).cqBase.toNat + 32 * (getCtx g c).cq.tail) (entryBytes e (getCtx g c).sqHead (getCtx g c).cq.phase) := by
  simp only [writeEntry, h, if_true, setCtx_host]

theorem writeEntry_keeps (g : State) (c : Nat) (e : CEntry) :
    Keep { fns := true, ctxs := true, tags := true, host := true } g (writeEntry g c e) := writeEntry_keep rfl (keep_refl _ _)

theorem idle_writeEntry (h : idle g) : idle (writeEntry g c e) := by
  obtain ⟨hstate, hopens, hstreams⟩ := quiet_getCtx h c
  exact idle_of_ctxs writeEntry_ctxs (idle_setCtx (idle_of_ctxs rfl h) ⟨hstate, hopens, hstreams⟩)

end

/-! ## Tags -/

theorem freeTag_free {s : State} {t : Nat} : ∀ {n lo : Nat}, freeTag s lo n = some t → tagFree s t = true
  | 0, _, h => nomatch h
  | n + 1, lo, h => by
    unfold freeTag at h
    split at h
    · next hfree => rw [← Option.some.inj h]; exact hfree
    · exact freeTag_free h

/-- R99: a tag that the fetch takes is in no use. -/
theorem map_awaiting_absent {s : State} {t : Nat} (h : tagFree s t = true) (a : Option Nat) :
    s.tags.map (fun u => if u.tag = t then { u with awaiting := a } else u) = s.tags := by
  refine (List.map_congr_left fun u hu => if_neg fun heq => ?_).trans (List.map_id _)
  have hany : s.tags.any (fun u => u.tag == t) = true := List.any_eq_true.mpr ⟨u, hu, by simpa using heq⟩
  simp [tagFree, hany] at h

/-! ## A descriptor that completes at once -/

section
variable {s g : State} {d : Desc} {t : Nat}

theorem fetches_alive (h : fetches s d t) : alive s = true := by
  have hserve := h.1
  simp only [inService, Bool.and_eq_true] at hserve
  exact hserve.1

theorem alive_failstop {s : State} (h : alive s = true) : s.dev.failstop = false := by
  simp only [alive, Bool.and_eq_true, Bool.not_eq_true'] at h
  exact h.1.1.2

theorem ringsPaused_of_recov {s t : State} (h : t.recov = s.recov) : ringsPaused t = ringsPaused s := by rw [ringsPaused, h]; rfl

/-- What the checks of an entry look at is as in the state once the descriptor has been fetched. -/
def likeFetched (s g : State) (d : Desc) (t : Nat) : Prop :=
  getCtx g d.ctx = getCtx (fetched s d t) d.ctx ∧ g.tags = (fetched s d t).tags ∧ g.dev.failstop = s.dev.failstop ∧ g.recov = s.recov
  ∧ g.tick = s.tick

theorem likeFetched_refl : likeFetched s (fetched s d t) d t := ⟨rfl, rfl, rfl, rfl, rfl⟩

theorem canPost_of_likeFetched (hf : fetches s d t) (he : entryFree s d.ctx) (hg : likeFetched s g d t) : canPost g d.ctx := by
  obtain ⟨hctx, _, hstop, hrecov, _⟩ := hg
  obtain ⟨hfree, hholds⟩ := he
  obtain ⟨_, _, _, _, hrings, _⟩ := id hf
  have hx : getCtx g d.ctx = fetchedCtx (getCtx s d.ctx) := hctx.trans getCtx_fetched
  refine ⟨hstop.trans (alive_failstop (fetches_alive hf)), ?_, ?_, (ringsPaused_of_recov hrecov).trans hrings⟩
  · rw [hx]; exact hholds
  · rw [cqFree, hx]; exact hfree

theorem fetches_tagFree (hf : fetches s d t) : tagFree s t = true := by
  obtain ⟨_, _, _, _, _, _, _, htag, _⟩ := hf
  exact freeTag_free htag

/-- R98, R99, R100: the entry of a descriptor that completes at once, but for memories and plans. -/
theorem completes_writeEntry (hf : fetches s d t) (he : entryFree s d.ctx) (hg : likeFetched s g d t) (hhost : g.host = s.host)
    (hmem : g.mem = s.mem) (hplans : g.plans = s.plans) {e : CEntry} (htag : e.tag = t) (hirq : e.noIrq = d.noIrq) :
    completesAs s (writeEntry g d.ctx e) d t e := by
  obtain ⟨hctx, htags, _⟩ := hg
  obtain ⟨_, hopened, _⟩ := id hf
  have hx : getCtx g d.ctx = fetchedCtx (getCtx s d.ctx) := hctx.trans getCtx_fetched
  have hnew : getCtx (writeEntry g d.ctx e) d.ctx = { fetchedCtx (getCtx s d.ctx) with
      cq := ringNext (getCtx s d.ctx).cq (cqSize (getCtx s d.ctx)), inRing := (getCtx s d.ctx).inRing ++ [t] } := by
    rw [getCtx_writeEntry, hx, htag]; rfl
  refine ⟨?_, ?_, ?_, ?_, ?_, ?_, ?_, fun hno => ?_, ?_, ?_⟩
  · rw [hnew]; rfl
  · rw [hnew]
  · rw [hnew]
  · rw [hnew]; rfl
  · rw [hnew]; exact he.2
  · rw [hnew]; exact hopened
  · rw [writeEntry_tags, htags, fetched_tags, List.map_append, htag, map_awaiting_absent (fetches_tagFree hf)]
    simp
  · rw [writeEntry_host (hirq.trans hno), hnew, hx, hhost]; rfl
  · exact (keep_mem (writeEntry_keeps _ _ _)).trans hmem
  · exact (keep_plans (writeEntry_keeps _ _ _)).trans hplans

/-- The entry that completes a descriptor at once. -/
def finishEntry (s : State) (d : Desc) (o t code aux : Nat) : CEntry :=
  if o = 0x01 then { descEntry s d o t code aux with kind := 1 } else descEntry s d o t code aux

theorem finishDesc_writes {o code aux : Nat} (hf : fetches s d t) (he : entryFree s d.ctx) (hg : likeFetched s g d t) :
    finishDesc g d o t code aux = writeEntry g d.ctx (finishEntry s d o t code aux) := by
  have htick : g.tick = s.tick := hg.2.2.2.2
  unfold finishDesc
  dsimp only
  rw [postEntry_writes (canPost_of_likeFetched hf he hg)]
  congr 1
  simp only [finishEntry, descEntry, htick, beq_iff_eq]

theorem finishEntry_tag {o code aux : Nat} : (finishEntry s d o t code aux).tag = t := by unfold finishEntry; split <;> rfl

theorem finishEntry_noIrq {o code aux : Nat} : (finishEntry s d o t code aux).noIrq = d.noIrq := by unfold finishEntry; split <;> rfl

theorem completes_finishDesc {o code aux : Nat} (hf : fetches s d t) (he : entryFree s d.ctx) (hg : likeFetched s g d t) (hhost : g.host = s.host)
    (hmem : g.mem = s.mem) (hplans : g.plans = s.plans) : completesAs s (finishDesc g d o t code aux) d t (finishEntry s d o t code aux) := by
  rw [finishDesc_writes hf he hg]
  exact completes_writeEntry hf he hg hhost hmem hplans finishEntry_tag finishEntry_noIrq

theorem idle_finishDesc {o code aux : Nat} (hf : fetches s d t) (he : entryFree s d.ctx) (hg : likeFetched s g d t) (hidle : idle g) :
    idle (finishDesc g d o t code aux) := by
  rw [finishDesc_writes hf he hg]
  exact idle_writeEntry hidle

theorem settle_finishDesc {o code aux : Nat} (hf : fetches s d t) (he : entryFree s d.ctx) (hg : likeFetched s g d t) (hidle : idle g) :
    settle (finishDesc g d o t code aux) = finishDesc g d o t code aux := settle_of_idle (idle_finishDesc hf he hg hidle)

/-- A body that completes the descriptor at once, and changes nothing else. -/
theorem runDesc_completes {o code aux : Nat} {rsv : Bool} {body : State → Nat → State} (hf : fetches s d t) (he : entryFree s d.ctx)
    (hidle : idle s) (hok : descRefusal (fetched s d t) d o rsv = none)
    (hbody : body (fetched s d t) t = finishDesc (fetched s d t) d o t code aux) :
    completesAs s (runDesc s d o rsv body) d t (finishEntry s d o t code aux) := by
  rw [runDesc_runs hf hok, hbody, settle_finishDesc hf he likeFetched_refl (idle_fetched hidle)]
  exact completes_finishDesc hf he likeFetched_refl rfl rfl rfl

/-! ## A descriptor that waits -/

/-- R103: the open descriptor. -/
def opened (d : Desc) (o t : Nat) (w : WaitKind) : OpenDesc :=
  { tag := t, userId := d.userId, noIrq := d.noIrq, opcode := o, planId := d.planId, wait := w }

theorem getCtx_openDesc {o : Nat} {w : WaitKind} :
    getCtx (openDesc g d o t w) d.ctx = { getCtx g d.ctx with opens := (getCtx g d.ctx).opens ++ [opened d o t w] } := getCtx_setCtx_eq

theorem getCtx_openDesc_ne {o c : Nat} {w : WaitKind} (h : c ≠ d.ctx) : getCtx (openDesc g d o t w) c = getCtx g c := getCtx_setCtx_ne h

theorem openDesc_keeps (g : State) (d : Desc) (o t : Nat) (w : WaitKind) : Keep { fns := true, ctxs := true } g (openDesc g d o t w) :=
  openDesc_keep rfl (keep_refl _ _)

theorem idle_openDesc {o : Nat} {w : WaitKind} (hidle : idle g) (hw : noCloseWait w = true) : idle (openDesc g d o t w) := by
  obtain ⟨hstate, hopens, hstreams⟩ := quiet_getCtx hidle d.ctx
  refine idle_setCtx (idle_of_ctxs rfl hidle) ⟨hstate, fun q hq => ?_, hstreams⟩
  rcases List.mem_append.mp hq with hold | hnew
  · exact hopens q hold
  · rw [List.mem_singleton.mp hnew]; exact hw

/-- R103: what an opened descriptor shows; a later change of other parts keeps it. -/
theorem opensAs_of {u : State} {o : Nat} {w : WaitKind} (hf : fetches s d t) (he : entryFree s d.ctx)
    (hctx : ∃ x, getCtx u d.ctx = x ∧ x.sqHead = (fetchedCtx (getCtx s d.ctx)).sqHead ∧ x.cq = (getCtx s d.ctx).cq ∧ x.holds = (getCtx s d.ctx).holds
      ∧ x.state = (getCtx s d.ctx).state ∧ x.opens = (getCtx s d.ctx).opens ++ [opened d o t w])
    (htags : u.tags = (fetched s d t).tags) (hhost : u.host = s.host) (hmem : u.mem = s.mem) : opensAs s u d t o w := by
  obtain ⟨x, hx, hhead, hcq, hholds, hstate, hopens⟩ := hctx
  refine ⟨?_, ?_, ?_, ?_, ?_, htags, hhost, hmem⟩ <;> rw [hx]
  · exact hhead
  · exact hcq
  · exact hholds.trans he.2
  · exact hstate.trans hf.2.1
  · exact hopens

theorem opensAs_openDesc {o : Nat} {w : WaitKind} (hf : fetches s d t) (he : entryFree s d.ctx) :
    opensAs s (openDesc (fetched s d t) d o t w) d t o w :=
  opensAs_of hf he ⟨{ fetchedCtx (getCtx s d.ctx) with opens := (getCtx s d.ctx).opens ++ [opened d o t w] },
    getCtx_openDesc.trans (by rw [getCtx_fetched]; rfl), rfl, rfl, rfl, rfl, rfl⟩ rfl rfl rfl

theorem opensAs_of_parts {u : State} {o : Nat} {w : WaitKind} (hf : fetches s d t) (he : entryFree s d.ctx)
    (hctxs : u.ctxs = (openDesc (fetched s d t) d o t w).ctxs) (htags : u.tags = (fetched s d t).tags) (hhost : u.host = s.host)
    (hmem : u.mem = s.mem) : opensAs s u d t o w :=
  opensAs_of hf he ⟨{ fetchedCtx (getCtx s d.ctx) with opens := (getCtx s d.ctx).opens ++ [opened d o t w] },
    (getCtx_of_ctxs hctxs d.ctx).trans (getCtx_openDesc.trans (by rw [getCtx_fetched]; rfl)), rfl, rfl, rfl, rfl, rfl⟩ htags hhost hmem

/-- A body that leaves the descriptor waiting. -/
theorem runDesc_opens {o : Nat} {rsv : Bool} {body : State → Nat → State} {w : WaitKind} (hf : fetches s d t)
    (hidle : idle s) (hok : descRefusal (fetched s d t) d o rsv = none) (hw : noCloseWait w = true)
    (hbody : body (fetched s d t) t = openDesc (fetched s d t) d o t w) :
    runDesc s d o rsv body = openDesc (fetched s d t) d o t w := by
  rw [runDesc_runs hf hok, hbody, settle_of_idle (idle_openDesc (idle_fetched hidle) hw)]

theorem accepts_ok {o : Nat} {rsv : Bool} (h : accepts s d t o) (hrsv : rsv = false) : descRefusal (fetched s d t) d o rsv = none := by
  rw [hrsv]
  exact h.2.2.2

end

/-! ## An open descriptor that completes -/

section
variable {g : State} {c : Nat} {o : OpenDesc} {code aux : Nat}

theorem getCtx_dropOpen {tag : Nat} :
    getCtx (dropOpen g c tag) c = { getCtx g c with opens := (getCtx g c).opens.filter (fun q => q.tag != tag) } := getCtx_setCtx_eq

theorem getCtx_dropOpen_ne {b tag : Nat} (h : b ≠ c) : getCtx (dropOpen g c tag) b = getCtx g b := getCtx_setCtx_ne h

theorem canPost_dropOpen {tag : Nat} (h : canPost g c) : canPost (dropOpen g c tag) c := by
  obtain ⟨hstop, hholds, hfree, hrings⟩ := h
  refine ⟨hstop, ?_, ?_, hrings⟩
  · rw [getCtx_dropOpen]; exact hholds
  · rw [cqFree, getCtx_dropOpen]; exact hfree

theorem idle_dropOpen {tag : Nat} (h : idle g) : idle (dropOpen g c tag) := by
  obtain ⟨hstate, hopens, hstreams⟩ := quiet_getCtx h c
  exact idle_of_ctxs (s := modCtx g c (fun x => { x with opens := x.opens.filter (fun q => q.tag != tag) })) rfl
    (idle_setCtx h ⟨hstate, fun q hq => hopens q ((List.mem_filter.mp hq).1), hstreams⟩)

theorem closeOpen_writes (h : canPost g c) :
    closeOpen g c o code aux = writeEntry (dropOpen g c o.tag) c (openEntry g o code aux) := by
  unfold closeOpen
  rw [postEntry_writes (canPost_dropOpen h)]

theorem getCtx_closeOpen (h : canPost g c) : getCtx (closeOpen g c o code aux) c
    = { getCtx g c with
        opens := (getCtx g c).opens.filter (fun q => q.tag != o.tag), cq := ringNext (getCtx g c).cq (cqSize (getCtx g c)),
        inRing := (getCtx g c).inRing ++ [o.tag] } := by
  rw [closeOpen_writes h, getCtx_writeEntry, getCtx_dropOpen]
  rfl

theorem getCtx_closeOpen_ne {b : Nat} (h : canPost g c) (hb : b ≠ c) : getCtx (closeOpen g c o code aux) b = getCtx g b := by
  rw [closeOpen_writes h, getCtx_writeEntry_ne hb, getCtx_dropOpen_ne hb]

theorem closeOpen_tags (h : canPost g c) :
    (closeOpen g c o code aux).tags = g.tags.map (fun u => if u.tag = o.tag then { u with awaiting := some c } else u) := by
  rw [closeOpen_writes h, writeEntry_tags]
  rfl

theorem closeOpen_host (h : canPost g c) (hirq : o.noIrq = true) : (closeOpen g c o code aux).host
    = hostWrite g.host ((getCtx g c).cqBase.toNat + 32 * (getCtx g c).cq.tail)
        (entryBytes (openEntry g o code aux) (getCtx g c).sqHead (getCtx g c).cq.phase) := by
  rw [closeOpen_writes h, writeEntry_host hirq, getCtx_dropOpen]
  rfl

theorem idle_closeOpen (h : canPost g c) (hidle : idle g) : idle (closeOpen g c o code aux) := by
  rw [closeOpen_writes h]
  exact idle_writeEntry (idle_dropOpen hidle)

theorem closeOpen_keeps (g : State) (c : Nat) (o : OpenDesc) (code aux : Nat) :
    Keep { fns := true, ctxs := true, tags := true, host := true } g (closeOpen g c o code aux) := closeOpen_keep rfl (keep_refl _ _)

end

/-! ## A descriptor that starts, waits, and completes in the same command -/

section
variable {s g : State} {d : Desc} {t o : Nat} {w : WaitKind}

/-- The context has the descriptor open; the rest of what its entry looks at is as once it was fetched. -/
def likeOpened (s g : State) (d : Desc) (t o : Nat) (w : WaitKind) : Prop :=
  getCtx g d.ctx = { fetchedCtx (getCtx s d.ctx) with opens := (getCtx s d.ctx).opens ++ [opened d o t w] }
  ∧ g.dev.failstop = s.dev.failstop ∧ g.recov = s.recov ∧ g.tick = s.tick ∧ g.host = s.host

theorem likeOpened_openDesc : likeOpened s (openDesc (fetched s d t) d o t w) d t o w :=
  ⟨getCtx_openDesc.trans (by rw [getCtx_fetched]; rfl), rfl, rfl, rfl, rfl⟩

theorem canPost_of_likeOpened (hf : fetches s d t) (he : entryFree s d.ctx) (hg : likeOpened s g d t o w) : canPost g d.ctx := by
  obtain ⟨hctx, hstop, hrecov, _⟩ := hg
  obtain ⟨hfree, hholds⟩ := he
  obtain ⟨_, _, _, _, hrings, _⟩ := id hf
  refine ⟨hstop.trans (alive_failstop (fetches_alive hf)), ?_, ?_, (ringsPaused_of_recov hrecov).trans hrings⟩
  · rw [hctx]; exact hholds
  · rw [cqFree, hctx]; exact hfree

/-- The entry's ring, and its bytes, where its interrupt is waived. -/
theorem closeOpen_inRing (hf : fetches s d t) (he : entryFree s d.ctx) (hg : likeOpened s g d t o w) (code : Nat) :
    (getCtx (closeOpen g d.ctx (opened d o t w) code 0) d.ctx).inRing = (getCtx s d.ctx).inRing ++ [t]
    ∧ (d.noIrq = true → (closeOpen g d.ctx (opened d o t w) code 0).host
      = hostWrite s.host ((getCtx s d.ctx).cqBase.toNat + 32 * (getCtx s d.ctx).cq.tail)
        (entryBytes (descEntry s d o t code 0) (getCtx (closeOpen g d.ctx (opened d o t w) code 0) d.ctx).sqHead (getCtx s d.ctx).cq.phase)) := by
  have hpost := canPost_of_likeOpened hf he hg
  obtain ⟨hctx, _, _, htick, hhost⟩ := hg
  have hentry : openEntry g (opened d o t w) code 0 = descEntry s d o t code 0 := by simp only [openEntry, descEntry, opened, htick]
  refine ⟨by rw [getCtx_closeOpen hpost, hctx]; rfl, fun hno => ?_⟩
  rw [closeOpen_host hpost hno, getCtx_closeOpen hpost, hctx, hhost, hentry]
  rfl

theorem opens_filter_new (hf : fetches s d t) :
    ((getCtx s d.ctx).opens ++ [opened d o t w]).filter (fun q => q.tag != t) = (getCtx s d.ctx).opens := by
  obtain ⟨_, _, _, _, _, _, _, _, hfresh⟩ := hf
  have hnew : [opened d o t w].filter (fun q => q.tag != t) = [] := by simp [opened]
  rw [List.filter_append, hnew, List.append_nil, List.filter_eq_self]
  exact fun q hq => by simpa using hfresh q hq

theorem completes_closeOpen (hf : fetches s d t) (he : entryFree s d.ctx) (hg : likeOpened s g d t o w) (htags : g.tags = (fetched s d t).tags)
    (hmem : g.mem = s.mem) (hplans : g.plans = s.plans) (code : Nat) :
    completesAs s (closeOpen g d.ctx (opened d o t w) code 0) d t (descEntry s d o t code 0) := by
  have hpost := canPost_of_likeOpened hf he hg
  obtain ⟨hring, hbytes⟩ := closeOpen_inRing hf he hg code
  obtain ⟨hctx, _⟩ := hg
  obtain ⟨_, hopened, _⟩ := id hf
  have hnew := getCtx_closeOpen (o := opened d o t w) (code := code) (aux := 0) hpost
  rw [hctx] at hnew
  refine ⟨?_, ?_, hring, ?_, ?_, ?_, ?_, hbytes, (keep_mem (closeOpen_keeps _ _ _ _ _)).trans hmem,
    (keep_plans (closeOpen_keeps _ _ _ _ _)).trans hplans⟩
  · rw [hnew]; rfl
  · rw [hnew]; rfl
  · rw [hnew]; exact opens_filter_new hf
  · rw [hnew]; exact he.2
  · rw [hnew]; exact hopened
  · rw [closeOpen_tags hpost, htags, fetched_tags, List.map_append]
    show s.tags.map (fun u => if u.tag = t then { u with awaiting := some d.ctx } else u) ++ _ = _
    rw [map_awaiting_absent (fetches_tagFree hf)]
    simp [opened]

end

end Sys2Proof.Proofs.DescBasics
end

section
/-! PROOFS. O36: the refusal of an opcode that its context may not issue (R105). The statement judges it by the table of contexts before
the fetch, the model by the table after it, and nothing in the statement says that the table's entries stand in the order of their
numbers: in the table `crossed`, which no run from reset makes, the fetch moves an entry, and with it the answer to "which context is the
function's control context?". -/
namespace Sys2Proof.Proofs.DescChecks

open Sys2Proof Sys2Proof.Machine Sys2Proof.Laws
open Sys2Proof.Proofs.DescBasics

/-- A VF's context with local index 0. -/
def vfControl : Ctx := { func := 1, loc := 0, sqLog2 := 6, cqLog2 := 6 }

/-- Two contexts with the function and the local index of one, out of order; a descriptor is published in context 3. -/
def crossed : State :=
  { State.reset with
    dev := { state := .inService }, pwr := { perst := false }
    ctxs := [(5, vfControl), (3, { vfControl with state := .opened, sqTail := 1 })] }

/-- A CTX_OPEN of context 3 that names local index 0, its interrupt waived. -/
def openZero : Desc :=
  { ctx := 3, fence := false, noIrq := true, rsvA := 0, planId := 0, rsvB := 0, userId := 0, w10 := 0, w18 := 0, w20 := 0, w28 := 0,
    w30 := 0, w38 := 0 }

theorem crossed_fetches : fetches crossed openZero 0 := by
  refine ⟨by decide, by decide, by decide, by decide, by decide, by decide, by decide, by decide, fun o ho => ?_⟩
  exact absurd ho List.not_mem_nil

theorem crossed_entryFree : entryFree crossed openZero.ctx := ⟨by decide, by decide⟩

theorem crossed_idle : idle crossed := by
  intro p hp
  have hcases : p = (5, vfControl) ∨ p = (3, { vfControl with state := .opened, sqTail := 1 }) := by simpa [crossed] using hp
  rcases hcases with rfl | rfl <;>
    exact ⟨by decide, fun _ h => absurd h List.not_mem_nil, fun _ h => absurd h List.not_mem_nil⟩

/-- Before the fetch context 5 is found as the function's control context, after it context 3. -/
theorem crossed_permitted :
    opcodePermitted crossed 0x08 3 = false ∧ descRefusal (fetched crossed openZero 0) openZero 0x08 false = none := by
  constructor <;> decide

/-- R100: byte 10 of an entry is its code. -/
theorem entryBytes_code (e : CEntry) (head : Nat) (phase : Bool) : (entryBytes e head phase)[10]? = some e.code := by
  have hbyte : (entryBytes e head phase)[10]?
      = some (BitVec.ofNat 8 ((tagNumber e.tag + e.kind.toNat * 2 ^ 12 + e.code.toNat * 2 ^ 16 + e.cause.toNat * 2 ^ 24) / 256 / 256)) := rfl
  have htag : tagNumber e.tag < 4096 := Nat.mod_lt _ (by decide)
  have hkind : e.kind.toNat < 16 := e.kind.isLt
  have hcode : e.code.toNat < 256 := e.code.isLt
  rw [hbyte]
  refine congrArg some (BitVec.eq_of_toNat_eq ?_)
  rw [BitVec.toNat_ofNat]
  omega

/-- Entries with two codes differ in the host's memory. -/
theorem hostWrite_codes_differ {m : List Host.Cell} {a head : Nat} {phase : Bool} {e f : CEntry} (h : e.code ≠ f.code) :
    hostWrite m a (entryBytes e head phase) ≠ hostWrite m a (entryBytes f head phase) := by
  intro heq
  have byte : ∀ g : CEntry, hostByte (hostWrite m a (entryBytes g head phase)) (a + 10) = some g.code := fun g => by
    obtain ⟨hlen, hget⟩ := List.getElem?_eq_some_iff.mp (entryBytes_code g head phase)
    rw [hostByte_hostWrite_in hlen, hget]
  have hf := byte f
  rw [← heq, byte e] at hf
  exact h (Option.some.inj hf)

/-- Refutes O36: in `crossed` a CTX_OPEN of context 3 is not permitted by the table as it stands, and the model, which looks after the
fetch, completes it with BAD_FIELD where the statement asks for NOT_PERMITTED. -/
theorem not_descriptorChecks : ¬ Obligations.DescriptorChecks := by
  intro h
  obtain ⟨hforbidden, hpasses⟩ := crossed_permitted
  obtain ⟨u, hu, hasked⟩ := (h.2.1 openZero 0 crossed crossed_fetches crossed_entryFree crossed_idle [] (.ctxOpen openZero, 0x08)
    (by simp)).1 hforbidden
  have hdone := runDesc_completes (body := fun s t => ctxOpen s openZero t) crossed_fetches crossed_entryFree crossed_idle hpasses
    (aux := 0) (code := 0x13) (if_pos (by decide))
  have hsame : runDesc crossed openZero 0x08 false (fun s t => ctxOpen s openZero t) = u := Host.Outcome.next.inj hu
  rw [hsame] at hdone
  obtain ⟨hhead, _, _, _, _, _, _, hhostAsked, _⟩ := hasked
  obtain ⟨_, _, _, _, _, _, _, hhostDone, _⟩ := hdone
  have hone : (getCtx u openZero.ctx).sqHead = 1 := hhead.trans (by decide)
  have heq := (hhostAsked rfl).symm.trans (hhostDone rfl)
  rw [hone] at heq
  exact hostWrite_codes_differ (by decide) heq

end Sys2Proof.Proofs.DescChecks
end

section
/-! PROOFS. O40, O41: TICK_WAIT, CTX_OPEN, CTX_CLOSE (R113, R114), PLAN and PLAN_WITHDRAW (R106 to R108). -/
namespace Sys2Proof.Proofs.DescPlans

open Sys2Proof Sys2Proof.Machine Sys2Proof.Laws
open Sys2Proof.Proofs.StateParts Sys2Proof.Proofs.DescBasics

/-! ## Reserved body words -/

theorem bodyZero_of_zeros {ws : List DWord} (h : ∀ w ∈ ws, w = 0) : (!bodyZero ws) = false := by
  simp only [bodyZero, Bool.not_eq_false', List.all_eq_true, beq_iff_eq]
  exact h

theorem bodyZero_of_eq {ws : List DWord} {n : Nat} (h : ws = List.replicate n 0) : (!bodyZero ws) = false :=
  bodyZero_of_zeros fun w hw => by
    rw [h] at hw
    exact List.eq_of_mem_replicate hw

theorem bits_ne_false {n : Nat} (h : n = 0) : (n != 0) = false := by rw [h]; rfl

/-! ## A context that closes while a CTX_CLOSE waits -/

section
variable {σ α : Type} {f : σ → α → σ} {g r : σ} {a : α}

theorem foldl_once (hbefore : ∀ x, x ≠ a → f g x = g) (hat : f g a = r) (hafter : ∀ x, f r x = r) {l : List α} (h : a ∈ l) :
    l.foldl f g = r := by
  induction l with
  | nil => exact absurd h List.not_mem_nil
  | cons x l ih =>
    rw [List.foldl_cons]
    by_cases hx : x = a
    · rw [hx, hat]
      exact foldl_fixed fun y _ => hafter y
    · rw [hbefore x hx]
      exact ih ((List.mem_cons.mp h).resolve_left (Ne.symm hx))
end

theorem mem_keys_of_ne {s : State} {c : Nat} (h : getCtx s c ≠ {}) : c ∈ s.ctxs.map (·.1) := by
  cases hget : aGet s.ctxs c with
  | none => exact absurd (by rw [getCtx, hget]; rfl) h
  | some x => exact List.mem_map.mpr ⟨_, aGet_mem hget, rfl⟩

/-- No stream of the context ends when contexts settle. -/
def streamsStay (g : State) : Prop :=
  ∀ c, (getCtx g c).streams = [] ∨ ((getCtx g c).state ≠ .closing ∧ ∀ t ∈ (getCtx g c).streams, t.closing = none)

theorem settleStreams_stay {g : State} (h : streamsStay g) : (g.ctxs.map (·.1)).foldl settleStreams g = g := foldl_fixed fun c _ => by
  rcases h c with hnone | ⟨hstate, hopen⟩
  · rw [settleStreams, hnone]; rfl
  · refine foldl_fixed fun sid _ => ?_
    unfold settleStream
    split
    · rfl
    · next st hfind =>
      rw [if_pos]
      simp [hopen st (List.mem_of_find?_eq_some hfind), hstate]

/-- The last open descriptor of a context takes the state to one where nothing is left to do for a CTX_CLOSE. -/
theorem closes_once {g r : State} {a : Nat} {l : List OpenDesc} {o : OpenDesc} (hothers : ∀ c, c ≠ a → ∀ q ∈ (getCtx g c).opens, noCloseWait q.wait = true)
    (hopens : (getCtx g a).opens = l ++ [o]) (hl : ∀ q ∈ l, noCloseWait q.wait = true) (hstep : settleClose g a o = r)
    (hafter : ∀ c, ∀ q ∈ (getCtx r c).opens, settleClose r c q = r) :
    (g.ctxs.map (·.1)).foldl (fun s c => ((getCtx s c).opens).foldl (fun s o => settleClose s c o) s) g = r := by
  refine foldl_once (a := a) (fun c hc => foldl_fixed fun q hq => settleClose_of_noCloseWait (hothers c hc q hq)) ?_
    (fun c => foldl_fixed fun q hq => hafter c q hq) (mem_keys_of_ne fun h => ?_)
  · rw [hopens, List.foldl_append, foldl_fixed fun q hq => settleClose_of_noCloseWait (hl q hq)]
    exact hstep
  · rw [h] at hopens
    exact absurd hopens (by simp)

/-! ## CTX_OPEN of another context -/

theorem getCtx_openCtx {s : State} {c sqLog2 cqLog2 vector : Nat} {sq cq : DWord} : getCtx (openCtx s c sq cq sqLog2 cqLog2 vector) c
    = { getCtx s c with
        state := .opened, sqBase := sq, cqBase := cq, sqLog2 := sqLog2, cqLog2 := cqLog2, vector := vector, sqTail := 0, sqHead := 0,
        sqFree := 2 ^ sqLog2, cq := {}, timer := false, holds := [], cqBad := false, inRing := [], opens := [], dataFail := none,
        fetched := none } := getCtx_setCtx_eq

theorem idle_openCtx {s : State} {c sqLog2 cqLog2 vector : Nat} {sq cq : DWord} (h : idle s) :
    idle (openCtx s c sq cq sqLog2 cqLog2 vector) := by
  obtain ⟨_, _, hstreams⟩ := quiet_getCtx h c
  exact idle_setCtx h ⟨(by decide : CtxState.opened ≠ .closing), fun _ hq => absurd hq List.not_mem_nil, hstreams⟩

/-! ## CTX_CLOSE -/

section
variable {s : State} {d : Desc} {t c : Nat} {force : Bool}

/-- The state in which the CTX_CLOSE has been opened. -/
def closeOpened (s : State) (d : Desc) (t c : Nat) (force : Bool) : State := openDesc (fetched s d t) d 0x09 t (.close c force [] false)

theorem vfRange_fetched : vfRange (fetched s d t) d = vfRange s d := by
  have hfn : ctxFn (fetched s d t) d.ctx = ctxFn s d.ctx := by unfold ctxFn; rw [getCtx_fetched]; rfl
  unfold vfRange
  rw [hfn]

theorem undecided_none (h : ∀ p ∈ s.plans, p.phase = .admitted) (c : Nat) : undecided s c = [] := by
  unfold undecided
  rw [List.filter_eq_nil_iff.mpr fun p hp => by simp [h p hp]]
  rfl

theorem getCtx_closeOpened : getCtx (closeOpened s d t c force) d.ctx
    = { fetchedCtx (getCtx s d.ctx) with opens := (getCtx s d.ctx).opens ++ [opened d 0x09 t (.close c force [] false)] } :=
  likeOpened_openDesc.1

theorem getCtx_closeOpened_ne {b : Nat} (h : b ≠ d.ctx) : getCtx (closeOpened s d t c force) b = getCtx s b :=
  (getCtx_openDesc_ne h).trans (getCtx_fetched_ne h)

theorem streamsStay_closeOpened (hidle : idle s) : streamsStay (closeOpened s d t c force) := fun b => by
  obtain ⟨hstate, _, hstreams⟩ := quiet_getCtx hidle b
  by_cases hb : b = d.ctx
  · subst hb
    rw [getCtx_closeOpened]
    exact .inr ⟨hstate, hstreams⟩
  · rw [getCtx_closeOpened_ne hb]
    exact .inr ⟨hstate, hstreams⟩

theorem noneClosing_closeOpened (hidle : idle s) (b : Nat) : (getCtx (closeOpened s d t c force) b).state ≠ .closing := by
  obtain ⟨hstate, _⟩ := quiet_getCtx hidle b
  by_cases hb : b = d.ctx
  · subst hb
    rw [getCtx_closeOpened]
    exact hstate
  · rw [getCtx_closeOpened_ne hb]
    exact hstate

/-- The first pass over the contexts runs the CTX_CLOSE, and nothing else. -/
theorem settlePass_closeOpened {r : State} (hidle : idle s)
    (hstep : settleClose (closeOpened s d t c force) d.ctx (opened d 0x09 t (.close c force [] false)) = r)
    (hafter : ∀ b, ∀ q ∈ (getCtx r b).opens, settleClose r b q = r) : settlePass (closeOpened s d t c force) = r := by
  have hclose : ((closeOpened s d t c force).ctxs.map (·.1)).foldl (fun s b => if closeDone s b then closeNow s b else s) (closeOpened s d t c force)
      = closeOpened s d t c force := foldl_fixed fun b _ => if_neg (by simp [closeDone, noneClosing_closeOpened hidle b])
  unfold settlePass
  dsimp only
  rw [settleStreams_stay (streamsStay_closeOpened hidle), hclose]
  refine closes_once (fun b hb q hq => ?_) (by rw [getCtx_closeOpened]) (quiet_getCtx hidle d.ctx).2.1 hstep hafter
  rw [getCtx_closeOpened_ne hb] at hq
  exact (quiet_getCtx hidle b).2.1 q hq

/-- R114: the CTX_CLOSE of an OPEN context waits for nothing that is undecided. -/
theorem ctxClose_opens (hindex : dbits d.w10 0 14 ≠ 0) (hvf : vfRange s d = false) (htarget : targetCtx (fetched s d t) d = some c)
    (hc : c ≠ d.ctx) (hplans : ∀ p ∈ s.plans, p.phase = .admitted) (hstate : (getCtx s c).state = .opened) :
    ctxClose (fetched s d t) d t = closeOpened s d t c (bitOf d.w10.toNat 14) := by
  unfold ctxClose
  rw [if_neg (by simp [hindex, vfRange_fetched, hvf]), htarget]
  dsimp only
  rw [if_pos (by simp [closable, getCtx_fetched_ne hc, hstate]), undecided_none (s := fetched s d t) hplans]
  rfl

theorem getCtx_closeOpened_state (hc : c ≠ d.ctx) (hstate : (getCtx s c).state = .opened) :
    closable (closeOpened s d t c force) c force = true := by
  simp [closable, getCtx_closeOpened_ne hc, hstate]

/-- R93: BUSY. -/
theorem settleClose_busy (hc : c ≠ d.ctx) (hstate : (getCtx s c).state = .opened) (hholds : holdsPlan s c = true) :
    settleClose (closeOpened s d t c false) d.ctx (opened d 0x09 t (.close c false [] false))
      = closeOpen (closeOpened s d t c false) d.ctx (opened d 0x09 t (.close c false [] false)) 0x16 0 := by
  have hplan : holdsPlan (closeOpened s d t c false) c = true := hholds
  unfold settleClose
  simp [opened, getCtx_closeOpened_state hc hstate, hplan]

/-- The state in which the named context has passed to CLOSING. -/
def closingState (s : State) (d : Desc) (t c : Nat) (force : Bool) : State :=
  modCtx (modCtx (closeOpened s d t c force) d.ctx
    (fun x => { x with opens := x.opens.map (fun q => if q.tag = t then { q with wait := .close c force [] true } else q) })) c
    (fun x => { x with state := .closing, timer := false })

theorem startClosing_quiet {g : State} (hplans : ∀ p ∈ g.plans, p.key.ctx ≠ c) (hstreams : (getCtx g c).streams = []) :
    startClosing g c = modCtx g c (fun x => { x with state := .closing, timer := false }) := by
  have hfold : (admittedPlans g).foldl (fun s p => if p.key.ctx == c then withdrawPlan s p.key 0 else s) g = g :=
    foldl_fixed fun p hp => if_neg (by simpa using hplans p (List.mem_filter.mp hp).1)
  have hnone : (getCtx (modCtx g c (fun x => { x with state := .closing, timer := false })) c).streams = [] := by
    rw [modCtx, getCtx_setCtx_eq]; exact hstreams
  unfold startClosing
  dsimp only
  rw [hfold, settleStreams, hnone]
  rfl

theorem settleClose_closes (hc : c ≠ d.ctx) (hstate : (getCtx s c).state = .opened) (hplans : ∀ p ∈ s.plans, p.key.ctx ≠ c)
    (hstreams : (getCtx s c).streams = []) :
    settleClose (closeOpened s d t c force) d.ctx (opened d 0x09 t (.close c force [] false)) = closingState s d t c force := by
  have hnone : holdsPlan (closeOpened s d t c force) c = false := by
    rw [holdsPlan, Bool.eq_false_iff]
    intro hany
    obtain ⟨p, hp, hkey⟩ := List.any_eq_true.mp hany
    exact hplans p (List.mem_filter.mp hp).1 (by simpa using hkey)
  unfold settleClose
  simp only [opened, List.any_nil, Bool.false_eq_true, if_false, getCtx_closeOpened_state hc hstate, Bool.not_true, hnone, Bool.false_and]
  refine startClosing_quiet hplans ?_
  rw [modCtx, getCtx_setCtx_ne hc, getCtx_closeOpened_ne hc]
  exact hstreams

theorem settled_of_quiet {g : State} (h : ∀ b, quietCtx (getCtx g b)) : settled g := fun b => by
  obtain ⟨hstate, hopens, hstreams⟩ := h b
  exact ⟨hstate, hstreams, fun q hq => settleClose_of_noCloseWait (hopens q hq)⟩

/-- Once the CTX_CLOSE has completed, no context has anything left to do. -/
theorem settled_closeOpen {g : State} {o code : Nat} {w : WaitKind} (hf : fetches s d t) (he : entryFree s d.ctx) (hidle : idle s)
    (hg : likeOpened s g d t o w) (hothers : ∀ b, b ≠ d.ctx → quietCtx (getCtx g b)) :
    settled (closeOpen g d.ctx (opened d o t w) code 0) := by
  have hpost := canPost_of_likeOpened hf he hg
  refine settled_of_quiet fun b => ?_
  by_cases hb : b = d.ctx
  · subst hb
    obtain ⟨hstate, hopens, hstreams⟩ := quiet_getCtx hidle d.ctx
    rw [getCtx_closeOpen hpost, hg.1]
    refine ⟨hstate, fun q hq => hopens q ?_, hstreams⟩
    exact opens_filter_new (o := o) (w := w) hf ▸ hq
  · rw [getCtx_closeOpen_ne hpost hb]
    exact hothers b hb

theorem quiet_closeOpened (hidle : idle s) {b : Nat} (hb : b ≠ d.ctx) : quietCtx (getCtx (closeOpened s d t c force) b) := by
  rw [getCtx_closeOpened_ne hb]
  exact quiet_getCtx hidle b

/-- R93: a CTX_CLOSE of a context with a plan, without `force`, completes BUSY. -/
theorem settle_busy (hf : fetches s d t) (he : entryFree s d.ctx) (hidle : idle s) (hc : c ≠ d.ctx) (hstate : (getCtx s c).state = .opened)
    (hholds : holdsPlan s c = true) :
    settle (closeOpened s d t c false) = closeOpen (closeOpened s d t c false) d.ctx (opened d 0x09 t (.close c false [] false)) 0x16 0 := by
  have hsettled := settled_closeOpen (code := 0x16) hf he hidle (likeOpened_openDesc (o := 0x09) (w := .close c false [] false))
    (fun b hb => quiet_closeOpened hidle hb)
  have hpass := settlePass_closeOpened hidle (settleClose_busy (t := t) hc hstate hholds) (fun b q hq => (hsettled b).2.2 q hq)
  unfold settle
  rw [hpass]
  exact (congrArg settlePass (settlePass_of_settled hsettled)).trans (settlePass_of_settled hsettled)

/-! ### The two passes that close a context -/

theorem map_wait_new (hf : fetches s d t) (w w' : WaitKind) (o : Nat) :
    ((getCtx s d.ctx).opens ++ [opened d o t w]).map (fun q => if q.tag = t then { q with wait := w' } else q)
      = (getCtx s d.ctx).opens ++ [opened d o t w'] := by
  obtain ⟨_, _, _, _, _, _, _, _, hfresh⟩ := hf
  rw [List.map_append, List.map_congr_left fun q hq => if_neg (hfresh q hq), List.map_id']
  simp [opened]

theorem getCtx_closingState_own (hf : fetches s d t) (hc : c ≠ d.ctx) : getCtx (closingState s d t c force) d.ctx
    = { fetchedCtx (getCtx s d.ctx) with opens := (getCtx s d.ctx).opens ++ [opened d 0x09 t (.close c force [] true)] } := by
  unfold closingState
  rw [modCtx, getCtx_setCtx_ne (Ne.symm hc), modCtx, getCtx_setCtx_eq, getCtx_closeOpened]
  dsimp only
  rw [map_wait_new hf]

theorem getCtx_closingState (hc : c ≠ d.ctx) :
    getCtx (closingState s d t c force) c = { getCtx s c with state := .closing, timer := false } := by
  unfold closingState
  rw [modCtx, getCtx_setCtx_eq, modCtx, getCtx_setCtx_ne hc, getCtx_closeOpened_ne hc]

theorem getCtx_closingState_ne {b : Nat} (hb : b ≠ d.ctx) (hbc : b ≠ c) : getCtx (closingState s d t c force) b = getCtx s b := by
  unfold closingState
  rw [modCtx, getCtx_setCtx_ne hbc, modCtx, getCtx_setCtx_ne hb, getCtx_closeOpened_ne hb]

theorem closingState_after (hf : fetches s d t) (hidle : idle s) (hc : c ≠ d.ctx) (b : Nat) :
    ∀ q ∈ (getCtx (closingState s d t c force) b).opens, settleClose (closingState s d t c force) b q = closingState s d t c force := by
  intro q hq
  obtain ⟨_, hopens, _⟩ := quiet_getCtx hidle b
  by_cases hb : b = d.ctx
  · subst hb
    rw [getCtx_closingState_own hf hc] at hq
    rcases List.mem_append.mp hq with hold | hnew
    · exact settleClose_of_noCloseWait (hopens q hold)
    · rw [List.mem_singleton.mp hnew]
      unfold settleClose
      simp [opened, getCtx_closingState hc]
  · by_cases hbc : b = c
    · subst hbc
      rw [getCtx_closingState hc] at hq
      exact settleClose_of_noCloseWait (hopens q hq)
    · rw [getCtx_closingState_ne hb hbc] at hq
      exact settleClose_of_noCloseWait (hopens q hq)

/-- R93, R114: an OPEN context that holds nothing. -/
def bare (s : State) (c : Nat) : Prop :=
  (getCtx s c).state = .opened ∧ (∀ p ∈ s.plans, p.key.ctx ≠ c) ∧ (getCtx s c).opens = [] ∧ (getCtx s c).fetched = none
  ∧ (getCtx s c).holds = [] ∧ (getCtx s c).streams = []

theorem streamsStay_closingState (hf : fetches s d t) (hidle : idle s) (hc : c ≠ d.ctx) (hbare : bare s c) :
    streamsStay (closingState s d t c force) := fun b => by
  obtain ⟨hstate, _, hstreams⟩ := quiet_getCtx hidle b
  by_cases hb : b = d.ctx
  · subst hb
    rw [getCtx_closingState_own hf hc]
    exact .inr ⟨hstate, hstreams⟩
  · by_cases hbc : b = c
    · subst hbc
      rw [getCtx_closingState hc]
      exact .inl hbare.2.2.2.2.2
    · rw [getCtx_closingState_ne hb hbc]
      exact .inr ⟨hstate, hstreams⟩

theorem closeDone_closingState (hidle : idle s) (hf : fetches s d t) (hc : c ≠ d.ctx) (hbare : bare s c) (b : Nat) :
    closeDone (closingState s d t c force) b = decide (b = c) := by
  obtain ⟨hstate, _⟩ := quiet_getCtx hidle b
  obtain ⟨_, hplans, hopens, hfetched, hholds, _⟩ := hbare
  by_cases hbc : b = c
  · subst hbc
    have hnone : (closingState s d t b force).plans.any (fun p => p.key.ctx == b) = false := by
      rw [List.any_eq_false]
      exact fun p hp => by simpa using hplans p hp
    simp [closeDone, getCtx_closingState hc, hopens, hfetched, hholds, hnone]
  · rw [decide_eq_false hbc, closeDone]
    by_cases hb : b = d.ctx
    · subst hb
      simp [getCtx_closingState_own hf hc, fetchedCtx, hstate]
    · simp [getCtx_closingState_ne hb hbc, hstate]

/-- R93, R114: what is left of a context that holds nothing when it is CLOSED. -/
def closedCtx (x : Ctx) : Ctx :=
  { x with
    state := .closed, timer := false, holds := [], cqBad := false, inRing := [], dataFail := none, fetched := none, opens := [],
    moves := [], streams := [], endings := [], cq := { x.cq with used := 0 } }

theorem closeNow_bare {g : State} (hopens : (getCtx g c).opens = []) (hstreams : (getCtx g c).streams = []) :
    getCtx (closeNow g c) c = closedCtx (getCtx g c) ∧ ∀ b, b ≠ c → getCtx (closeNow g c) b = getCtx g b := by
  have hctxs : (closeNow g c).ctxs = (setCtx g c (closedCtx (getCtx g c))).ctxs := by
    unfold closeNow
    simp only [hopens, List.foldl_nil, hstreams]
    rfl
  exact ⟨(getCtx_of_ctxs hctxs c).trans getCtx_setCtx_eq, fun b hb => (getCtx_of_ctxs hctxs b).trans (getCtx_setCtx_ne hb)⟩

theorem closeNow_keeps (g : State) (c : Nat) :
    Keep { fns := true, ctxs := true, tags := true, plans := true, limbo := true, attic := true } g (closeNow g c) :=
  closeNow_keep rfl (keep_refl _ _)

theorem closeDone_false_of_quiet {g : State} {b : Nat} (h : (getCtx g b).state ≠ .closing) : closeDone g b = false := by simp [closeDone, h]

theorem closingState_keeps (s : State) (d : Desc) (t c : Nat) (force : Bool) :
    Keep { fns := true, ctxs := true, tags := true } s (closingState s d t c force) := by
  have hfetched : Keep { fns := true, ctxs := true, tags := true } s (fetched s d t) := takeDesc_keep rfl (keep_refl _ _)
  exact modCtx_keep rfl (modCtx_keep rfl (openDesc_keep rfl hfetched))

/-- R93, R114: the named context is CLOSED; the other ones, and what the CTX_CLOSE's own entry looks at, are as they were. -/
theorem closeNow_closingState (hf : fetches s d t) (hc : c ≠ d.ctx) (hbare : bare s c) :
    likeOpened s (closeNow (closingState s d t c force) c) d t 0x09 (.close c force [] true)
    ∧ getCtx (closeNow (closingState s d t c force) c) c = closedCtx { getCtx s c with state := .closing, timer := false }
    ∧ ∀ b, b ≠ c → getCtx (closeNow (closingState s d t c force) c) b = getCtx (closingState s d t c force) b := by
  obtain ⟨_, _, hopens, _, _, hstreams⟩ := id hbare
  have hgc := getCtx_closingState (s := s) (t := t) (force := force) hc
  obtain ⟨hclosed, hothers⟩ := closeNow_bare (g := closingState s d t c force) (c := c) (by rw [hgc]; exact hopens) (by rw [hgc]; exact hstreams)
  have hclose := closeNow_keeps (closingState s d t c force) c
  have hstart := closingState_keeps s d t c force
  rw [hgc] at hclosed
  exact ⟨⟨(hothers _ (Ne.symm hc)).trans (getCtx_closingState_own hf hc),
    congrArg Dev.failstop ((keep_dev hclose).trans (keep_dev hstart)), (keep_recov hclose).trans (keep_recov hstart),
    (keep_tick hclose).trans (keep_tick hstart), (keep_host hclose).trans (keep_host hstart)⟩, hclosed, hothers⟩

/-- R93, R114: the second pass closes the named context, and the CTX_CLOSE completes. -/
theorem settlePass_closingState (hf : fetches s d t) (he : entryFree s d.ctx) (hidle : idle s) (hc : c ≠ d.ctx) (hbare : bare s c) :
    ∃ r2, likeOpened s r2 d t 0x09 (.close c force [] true) ∧ getCtx r2 c = closedCtx { getCtx s c with state := .closing, timer := false }
      ∧ settlePass (closingState s d t c force) = closeOpen r2 d.ctx (opened d 0x09 t (.close c force [] true)) 0x00 0
      ∧ settled (closeOpen r2 d.ctx (opened d 0x09 t (.close c force [] true)) 0x00 0) := by
  obtain ⟨hlike, hr2c, hr2ne⟩ := closeNow_closingState (force := force) hf hc hbare
  have hstate : ∀ b, (getCtx (closeNow (closingState s d t c force) c) b).state ≠ .closing := fun b => by
    by_cases hbc : b = c
    · rw [hbc, hr2c]
      exact (by decide : CtxState.closed ≠ .closing)
    · rw [hr2ne b hbc]
      by_cases hb : b = d.ctx
      · subst hb
        rw [getCtx_closingState_own hf hc]
        exact (quiet_getCtx hidle d.ctx).1
      · rw [getCtx_closingState_ne hb hbc]
        exact (quiet_getCtx hidle b).1
  have hstep : List.foldl (fun s b => if closeDone s b then closeNow s b else s) (closingState s d t c force)
      ((closingState s d t c force).ctxs.map (·.1)) = closeNow (closingState s d t c force) c := by
    refine foldl_once (f := fun s b => if closeDone s b then closeNow s b else s) (a := c) (fun b hb => if_neg ?_) (if_pos ?_)
      (fun b => if_neg ?_) (mem_keys_of_ne fun h => ?_)
    · rw [closeDone_closingState hidle hf hc hbare, decide_eq_false hb]; decide
    · rw [closeDone_closingState hidle hf hc hbare]; exact decide_eq_true rfl
    · rw [closeDone_false_of_quiet (hstate b)]; decide
    · rw [getCtx_closingState hc] at h
      exact absurd (congrArg Ctx.state h) (by decide : CtxState.closing ≠ .closed)
  generalize closeNow (closingState s d t c force) c = r2 at *
  have hquiet : ∀ b, b ≠ d.ctx → quietCtx (getCtx r2 b) := fun b hb => by
    by_cases hbc : b = c
    · rw [hbc, hr2c]
      exact ⟨(by decide : CtxState.closed ≠ .closing), fun _ h => absurd h List.not_mem_nil, fun _ h => absurd h List.not_mem_nil⟩
    · rw [hr2ne b hbc, getCtx_closingState_ne hb hbc]
      exact quiet_getCtx hidle b
  have hsettled := settled_closeOpen (code := 0x00) hf he hidle hlike hquiet
  refine ⟨r2, hlike, hr2c, ?_, hsettled⟩
  unfold settlePass
  dsimp only
  rw [settleStreams_stay (streamsStay_closingState hf hidle hc hbare), hstep]
  refine closes_once (fun b hb => (hquiet b hb).2.1) (by rw [hlike.1]) (quiet_getCtx hidle d.ctx).2.1 ?_ (fun b => (hsettled b).2.2)
  unfold settleClose
  simp [opened, hr2c, closedCtx]

theorem settle_closes (hf : fetches s d t) (he : entryFree s d.ctx) (hidle : idle s) (hc : c ≠ d.ctx) (hbare : bare s c) :
    ∃ r2, likeOpened s r2 d t 0x09 (.close c force [] true) ∧ getCtx r2 c = closedCtx { getCtx s c with state := .closing, timer := false }
      ∧ settle (closeOpened s d t c force) = closeOpen r2 d.ctx (opened d 0x09 t (.close c force [] true)) 0x00 0 := by
  obtain ⟨r2, hlike, hstate, hsecond, hsettled⟩ := settlePass_closingState (force := force) hf he hidle hc hbare
  obtain ⟨hopened, hplans, _, _, _, hstreams⟩ := id hbare
  have hfirst := settlePass_closeOpened hidle (settleClose_closes (force := force) (t := t) hc hopened hplans hstreams)
    (closingState_after hf hidle hc)
  refine ⟨r2, hlike, hstate, ?_⟩
  unfold settle
  rw [hfirst, hsecond, settlePass_of_settled hsettled]

end

/-! ## O40 -/

/-- Settles O40: each body by what it does to the state once the descriptor is fetched; a CTX_CLOSE by the passes of `settle`. -/
theorem tickWaitAndContexts : Obligations.TickWaitAndContexts := by
  intro d t s g body completes
  have five : body → (!bodyZero [d.w18, d.w20, d.w28, d.w30, d.w38]) = false := fun h => bodyZero_of_eq (n := 5) h
  refine ⟨fun ha h49 hbody => ?tick, fun ha h14 h46 hbody => ?ctxOpen, fun ha h15 hbody => ?ctxClose⟩
  case tick =>
    obtain ⟨hf, he, hidle, _⟩ := id ha
    have hrsv : (dbits d.w10 49 15 != 0 || !bodyZero [d.w18, d.w20, d.w28, d.w30, d.w38]) = false := by
      rw [bits_ne_false h49, five hbody]; rfl
    have hok := accepts_ok ha hrsv
    refine ⟨fun hpassed => ⟨_, rfl, runDesc_completes hf he hidle hok (if_pos hpassed)⟩, fun hwaits => ⟨_, rfl, ?_⟩⟩
    rw [runDesc_opens (w := .tick (waitTick s d)) hf hidle hok rfl (if_neg (Bool.eq_false_iff.mp hwaits))]
    exact opensAs_openDesc hf he
  case ctxOpen =>
    obtain ⟨hf, he, hidle, _⟩ := id ha
    have hrsv : (dbits d.w10 14 18 != 0 || dbits d.w10 46 18 != 0 || !bodyZero [d.w28, d.w30, d.w38]) = false := by
      rw [bits_ne_false h14, bits_ne_false h46, bodyZero_of_eq (n := 3) hbody]; rfl
    have hok := accepts_ok ha hrsv
    have completed : ∀ code, ctxOpen g d t = finishDesc g d 0x08 t code 0 → completes (.ctxOpen d) 0x08 code :=
      fun code hbody => ⟨_, rfl, runDesc_completes (body := fun s t => ctxOpen s d t) hf he hidle hok hbody⟩
    refine ⟨fun hbad => completed 0x13 ?_, fun hgood hvf htarget => completed 0x15 ?_,
      fun c hgood hvf htarget hc => ⟨fun hstate => completed 0x15 ?_, fun hstate => ⟨_, rfl, ?_⟩⟩⟩
    · exact if_pos (by simpa [g, vfRange_fetched] using hbad)
    · simp [ctxOpen, hgood, g, vfRange_fetched, hvf, htarget]
    · simp [ctxOpen, hgood, g, vfRange_fetched, hvf, htarget, getCtx_fetched_ne hc, hstate]
    · have hbody : ctxOpen (fetched s d t) d t
          = finishDesc (openCtx (fetched s d t) c d.w18 d.w20 (dbits d.w10 32 4) (dbits d.w10 36 5) (dbits d.w10 41 5)) d 0x08 t 0x00 0 := by
        simp [ctxOpen, hgood, vfRange_fetched, hvf, show targetCtx (fetched s d t) d = some c from htarget, getCtx_fetched_ne hc, hstate]
      have hlike : likeFetched s (openCtx (fetched s d t) c d.w18 d.w20 (dbits d.w10 32 4) (dbits d.w10 36 5) (dbits d.w10 41 5)) d t :=
        ⟨getCtx_setCtx_ne (Ne.symm hc), rfl, rfl, rfl, rfl⟩
      rw [runDesc_runs hf hok, hbody, settle_finishDesc hf he hlike (idle_openCtx (idle_fetched hidle))]
      refine ⟨completes_finishDesc hf he hlike rfl rfl rfl, ?_⟩
      rw [finishDesc_writes hf he hlike, getCtx_writeEntry_ne hc, getCtx_openCtx]
      exact ⟨rfl, rfl, rfl, rfl, rfl, rfl, rfl, rfl⟩
  case ctxClose =>
    obtain ⟨hf, he, hidle, _⟩ := id ha
    have hrsv : (dbits d.w10 15 49 != 0 || !bodyZero [d.w18, d.w20, d.w28, d.w30, d.w38]) = false := by
      rw [bits_ne_false h15, five hbody]; rfl
    have hok := accepts_ok ha hrsv
    have completed : ∀ code, ctxClose g d t = finishDesc g d 0x09 t code 0 → completes (.ctxClose d) 0x09 code :=
      fun code hbody => ⟨_, rfl, runDesc_completes (body := fun s t => ctxClose s d t) hf he hidle hok hbody⟩
    refine ⟨fun hbad => completed 0x13 ?_, fun hindex hvf htarget => completed 0x15 ?_, fun c hindex hvf htarget hc hplans =>
      ⟨fun hstate => completed 0x15 ?_, fun hstate hholds hforce => ⟨_, rfl, ?_⟩,
        fun hstate hnone hopens hfetched hholds hstreams => ⟨_, rfl, ?_⟩⟩⟩
    · exact if_pos (by simpa [g, vfRange_fetched] using hbad)
    · simp [ctxClose, hindex, g, vfRange_fetched, hvf, htarget]
    · simp [ctxClose, hindex, g, vfRange_fetched, hvf, htarget, closable, getCtx_fetched_ne hc, hstate]
    · rw [runDesc_runs hf hok, ctxClose_opens hindex hvf htarget hc hplans hstate, hforce, settle_busy hf he hidle hc hstate hholds]
      exact completes_closeOpen hf he likeOpened_openDesc rfl rfl rfl 0x16
    · obtain ⟨r2, hlike, hclosed, hsettle⟩ := settle_closes (force := bitOf d.w10.toNat 14) hf he hidle hc
        ⟨hstate, hnone, hopens, hfetched, hholds, hstreams⟩
      obtain ⟨hring, hbytes⟩ := closeOpen_inRing hf he hlike 0x00
      rw [runDesc_runs hf hok, ctxClose_opens hindex hvf htarget hc hplans hstate, hsettle]
      refine ⟨?_, hring, hbytes⟩
      rw [getCtx_closeOpen_ne (canPost_of_likeOpened hf he hlike) hc, hclosed]
      rfl

/-! ## O41 -/

section
variable {s g : State} {d : Desc} {t : Nat} {k : PlanKey}

/-- R106: the plan that a PLAN descriptor adds. -/
def newPlan (d : Desc) (t : Nat) : Plan := { key := { ctx := d.ctx, id := d.planId.toNat }, desc := d, tag := t }

def addPlan (s : State) (p : Plan) : State := { s with plans := s.plans ++ [p] }

theorem planStart_good (h : planRefusal g d = 0) : planStart g d t = addPlan (openDesc g d 0x01 t .admission) (newPlan d t) := by
  unfold planStart
  rw [h]
  rfl

theorem planStart_bad (h : planRefusal g d ≠ 0) : planStart g d t = finishDesc g d 0x01 t (planRefusal g d) 0 := by
  unfold planStart
  split
  · next hzero => exact absurd hzero h
  · rfl

/-- R108: a plan that runs gets its cause, and keeps its key. -/
theorem getPlan_withdrawPlan {p : Plan} {cause : Byte} (hp : getPlan g k = some p) (hphase : p.phase = .admitted) (hrun : p.stopped = false)
    (hnot : p.stopping = none) : getPlan (withdrawPlan g k cause) k = some { p with stopping := some cause } := by
  have hstops : (if p.phase == .admitted && !p.stopped && p.stopping.isNone then { p with stopping := some cause } else p)
      = { p with stopping := some cause } := if_pos (by simp [hphase, hrun, hnot])
  unfold withdrawPlan
  rw [getPlan_modPlan_eq hp (fun q => by split <;> rfl), hstops]

/-- R108: a PLAN_WITHDRAW waits while its plan stands. -/
theorem settled_withdraw {p : Plan} (hidle : idle s) (hp : getPlan g k = some p)
    (hctxs : g.ctxs = (openDesc (fetched s d t) d 0x02 t (.withdraw k)).ctxs) : settled g := fun c => by
  obtain ⟨hstate, hopens, hstreams⟩ := quiet_getCtx hidle c
  rw [getCtx_of_ctxs hctxs]
  by_cases hc : c = d.ctx
  · subst hc
    rw [(likeOpened_openDesc (s := s)).1]
    refine ⟨hstate, hstreams, fun q hq => ?_⟩
    rcases List.mem_append.mp hq with hold | hnew
    · exact settleClose_of_noCloseWait (hopens q hold)
    · rw [List.mem_singleton.mp hnew]
      simp [settleClose, opened, planOver, hp]
  · rw [getCtx_openDesc_ne hc, getCtx_fetched_ne hc]
    exact ⟨hstate, hstreams, fun q hq => settleClose_of_noCloseWait (hopens q hq)⟩

end

/-- Settles O41: a PLAN by `planRefusal`; a PLAN_WITHDRAW waits while its plan stands, for `settleClose` looks at `planOver`. -/
theorem planDescriptors : Obligations.PlanDescriptors := by
  intro d t s g k
  refine ⟨fun ha h32 h38 => ?plan, fun ha hbody => ?withdraw⟩
  case plan =>
    obtain ⟨hf, he, hidle, _⟩ := id ha
    have hrsv : (dbits d.w18 32 32 != 0 || d.w38 != 0) = false := by rw [bits_ne_false h32, h38]; rfl
    have hok := accepts_ok ha hrsv
    refine ⟨fun hgood => ⟨_, rfl, ?_⟩, fun hbad => ⟨_, rfl, ?_⟩⟩
    · rw [runDesc_runs hf hok, planStart_good hgood, settle_of_idle]
      · have hopen := openDesc_keeps (fetched s d t) d 0x01 t .admission
        have htags := keep_tags hopen
        have hhost := keep_host hopen
        have hmem := keep_mem hopen
        have hplans := keep_plans hopen
        have hthreads := keep_threads hopen
        exact ⟨opensAs_of_parts hf he rfl htags hhost hmem, congrArg (· ++ [newPlan d t]) hplans, hthreads⟩
      · exact idle_of_ctxs (s := openDesc (fetched s d t) d 0x01 t .admission) rfl (idle_openDesc (idle_fetched hidle) rfl)
    · exact runDesc_completes hf he hidle hok (planStart_bad hbad)
  case withdraw =>
    obtain ⟨hf, he, hidle, _⟩ := id ha
    have hok := accepts_ok ha (bodyZero_of_eq (n := 6) hbody)
    refine ⟨fun hnone hover => ⟨_, rfl, runDesc_completes hf he hidle hok ?_⟩, fun p hp hphase hrun hnot => ⟨_, rfl, ?_⟩,
      fun p hp hphase => ⟨_, rfl, ?_⟩⟩
    · rw [withdraw, show getPlan (fetched s d t) k = none from hnone, if_pos hover]
    · have hbody : withdraw (fetched s d t) d t = withdrawPlan (openDesc (fetched s d t) d 0x02 t (.withdraw k)) k 0 := by
        rw [withdraw, show getPlan (fetched s d t) k = some p from hp]
        exact if_pos (beq_iff_eq.mpr hphase)
      have hplan : getPlan (withdrawPlan (openDesc (fetched s d t) d 0x02 t (.withdraw k)) k 0) k = some { p with stopping := some 0 } :=
        getPlan_withdrawPlan hp hphase hrun hnot
      rw [runDesc_runs hf hok, hbody, settle_of_settled (settled_withdraw hidle hplan rfl)]
      have hkeep : Keep { fns := true, ctxs := true, plans := true } (fetched s d t)
          (withdrawPlan (openDesc (fetched s d t) d 0x02 t (.withdraw k)) k 0) := withdrawPlan_keep rfl (openDesc_keep rfl (keep_refl _ _))
      have htags := keep_tags hkeep
      have hhost := keep_host hkeep
      have hmem := keep_mem hkeep
      exact ⟨opensAs_of_parts hf he rfl htags hhost hmem, hplan⟩
    · have hbody : withdraw (fetched s d t) d t = openDesc (fetched s d t) d 0x02 t (.withdraw k) := by
        rw [withdraw, show getPlan (fetched s d t) k = some p from hp]
        exact if_neg (by simp [hphase])
      rw [runDesc_runs hf hok, hbody, settle_of_settled (settled_withdraw (g := openDesc (fetched s d t) d 0x02 t (.withdraw k)) hidle hp rfl)]
      exact ⟨opensAs_openDesc hf he, rfl⟩

end Sys2Proof.Proofs.DescPlans
end

section
/-! PROOFS. O38, O39: failures of host accesses, translations, IDE and SPDM (R83, R86 to R88, R379); function level resets, power states
and VF Enable (R123, R437). -/
namespace Sys2Proof.Proofs.HostEvents

open Sys2Proof Sys2Proof.Machine Sys2Proof.Laws
open Sys2Proof.Proofs.StateParts Sys2Proof.Proofs.DescBasics
open Sys2Proof.Proofs.StatusFlags (getFn_modFn_eq)
open Sys2Proof.Proofs.HostRegs (putVec sentVec sendVec_fns)
open Sys2Proof.Proofs.DescPlans (closedCtx settled_of_quiet)

/-! ## Function pages through an entry -/

/-- The page `q` is `p` but for the translations in use (R87). -/
def sameButAts (p q : FnPage) : Prop := q = { p with atsWait := q.atsWait, atsDone := q.atsDone }

theorem sameButAts_refl (p : FnPage) : sameButAts p p := rfl

theorem sameButAts_trans {p q r : FnPage} (h : sameButAts p q) (g : sameButAts q r) : sameButAts p r := by
  unfold sameButAts at *
  rw [g, h]

theorem aGet_map {V W : Type} (h : V → W) (l : List (Nat × V)) (k : Nat) : aGet (l.map (fun p => (p.1, h p.2))) k = (aGet l k).map h := by
  induction l with
  | nil => rfl
  | cons x l ih =>
    rw [List.map_cons, aGet, aGet]
    split
    · rfl
    · exact ih

theorem getFn_dropOpen (g : State) (c tag f : Nat) : getFn (dropOpen g c tag) f = ackAts c tag (getFn g f) := by
  have hfns : (dropOpen g c tag).fns = g.fns.map (fun p => (p.1, ackAts c tag p.2)) := rfl
  rw [getFn, hfns, aGet_map, getFn]
  cases aGet g.fns f with
  | none => rfl
  | some p => rfl

theorem aSet_aSet {V : Type} (l : List (Nat × V)) (k : Nat) (a b : V) : aSet (aSet l k a) k b = aSet l k b := by
  induction l with
  | nil => simp [aSet]
  | cons x l ih =>
    obtain ⟨k', v'⟩ := x
    by_cases hlt : k < k'
    · simp [aSet, hlt]
    · by_cases heq : k = k'
      · simp [aSet, heq]
      · simp [aSet, hlt, heq, ih]

theorem putVec_putVec (p : FnPage) (n : Nat) (x y : Vec) : putVec (putVec p n x) n y = putVec p n y := by
  simp only [putVec, aSet_aSet]

/-- R121, R122: an interrupt event changes one vector of one page. -/
theorem vecEvent_fns (s : State) (f v : Nat) : ∃ x, (vecEvent s f v).fns = aSet s.fns f (putVec (getFn s f) v x) := by
  have sent : ∀ p : Vec, ∃ x, (sendVec (setFn s f (putVec (getFn s f) v p)) f v).fns = aSet s.fns f (putVec (getFn s f) v x) := fun p => by
    have hsend := sendVec_fns (setFn s f (putVec (getFn s f) v p)) f v
    rw [getFn_setFn_eq, putVec_putVec] at hsend
    exact ⟨_, hsend.trans (aSet_aSet _ _ _ _)⟩
  unfold vecEvent
  dsimp only
  split
  · exact sent _
  · split
    · exact sent _
    · exact ⟨_, rfl⟩
  · exact ⟨_, rfl⟩

theorem ats_vecEvent (s : State) (f v h : Nat) :
    (getFn (vecEvent s f v) h).atsWait = (getFn s h).atsWait ∧ (getFn (vecEvent s f v) h).atsDone = (getFn s h).atsDone := by
  obtain ⟨x, hfns⟩ := vecEvent_fns s f v
  by_cases hh : h = f
  · rw [hh, getFn, hfns, aGet_aSet_eq]; exact ⟨rfl, rfl⟩
  · rw [getFn, hfns, aGet_aSet_ne hh]; exact ⟨rfl, rfl⟩

theorem ats_writeEntry (g : State) (c h : Nat) (e : CEntry) :
    (getFn (writeEntry g c e) h).atsWait = (getFn g h).atsWait ∧ (getFn (writeEntry g c e) h).atsDone = (getFn g h).atsDone := by
  unfold writeEntry
  dsimp only
  split
  · exact ⟨rfl, rfl⟩
  · exact ats_vecEvent _ _ _ h

theorem ats_closeOpen {g : State} {c code aux : Nat} {o : OpenDesc} (hpost : canPost g c) (h : Nat) :
    (getFn (closeOpen g c o code aux) h).atsWait = (ackAts c o.tag (getFn g h)).atsWait
    ∧ (getFn (closeOpen g c o code aux) h).atsDone = (ackAts c o.tag (getFn g h)).atsDone := by
  rw [closeOpen_writes hpost, ← getFn_dropOpen]
  exact ats_writeEntry _ c h _

/-! ## Failures -/

theorem getFn_aerHost (s : State) (f : Nat) : getFn (aerHost s f) f = { getFn s f with aerHost := (getFn s f).aerHost + 1 } := getFn_modFn_eq s f _

theorem ats_aerHost (s : State) (f h : Nat) :
    (getFn (aerHost s f) h).atsWait = (getFn s h).atsWait ∧ (getFn (aerHost s f) h).atsDone = (getFn s h).atsDone := by
  by_cases hh : h = f
  · rw [hh, getFn_aerHost]; exact ⟨rfl, rfl⟩
  · rw [aerHost, modFn, getFn_setFn_ne hh]; exact ⟨rfl, rfl⟩

theorem getCtx_aerHost (s : State) (f c : Nat) : getCtx (aerHost s f) c = getCtx s c := rfl

theorem getCtx_ctxError (s : State) (c : Nat) : getCtx (ctxError s c) c
    = if (getCtx s c).state == .opened then { getCtx s c with state := .error, timer := false } else getCtx s c := getCtx_setCtx_eq

theorem getCtx_ctxError_opened {s : State} {c : Nat} (h : (getCtx s c).state = .opened) :
    getCtx (ctxError s c) c = { getCtx s c with state := .error, timer := false } := by
  rw [getCtx_ctxError, if_pos (by rw [h]; rfl)]

theorem getCtx_ctxError_ne {s : State} {b c : Nat} (h : b ≠ c) : getCtx (ctxError s c) b = getCtx s b := getCtx_setCtx_ne h

theorem ctxError_error {s : State} {b c : Nat} (h : (getCtx s b).state = .error) : (getCtx (ctxError s c) b).state = .error := by
  by_cases hb : b = c
  · subst hb
    rw [getCtx_ctxError, if_neg (by rw [h]; decide)]
    exact h
  · rw [getCtx_ctxError_ne hb]
    exact h

/-- R86: every open context of a list enters ERROR. -/
theorem foldl_ctxError {l : List Nat} {c : Nat} : ∀ {s : State}, c ∈ l → (getCtx s c).state = .opened → (getCtx (l.foldl ctxError s) c).state = .error := by
  have stays : ∀ (l : List Nat) (s : State), (getCtx s c).state = .error → (getCtx (l.foldl ctxError s) c).state = .error := fun l => by
    induction l with
    | nil => exact fun s h => h
    | cons a l ih => exact fun s h => ih _ (ctxError_error h)
  induction l with
  | nil => exact fun h _ => absurd h List.not_mem_nil
  | cons a l ih =>
    intro s hmem hstate
    by_cases ha : c = a
    · subst ha
      exact stays l _ (by rw [getCtx_ctxError_opened hstate])
    · exact ih ((List.mem_cons.mp hmem).resolve_left ha) (by rw [getCtx_ctxError_ne ha]; exact hstate)

theorem enable_cleared (w : Word) : wbit (BitVec.ofNat 32 (wbits w 0 31)) 31 = false := by
  have hlow : wbits w 0 31 < 2 ^ 31 := Nat.mod_lt _ (Nat.two_pow_pos 31)
  have hq : (BitVec.ofNat 32 (wbits w 0 31)).toNat / 2 ^ 31 % 2 = 0 := by rw [BitVec.toNat_ofNat]; omega
  rw [wbit, bitOf, hq]
  rfl

/-- R88: the state in which the work of a failed descriptor has ended. -/
def workEnded (s : State) (c : Nat) (o : OpenDesc) : State :=
  let s1 := modCtx s c (fun x => { x with
    moves := x.moves.filter (fun m => m.tag != o.tag),
    streams := x.streams.map (fun t => { t with jobs := t.jobs.filter (fun j => j.tag != o.tag) }) })
  { s1 with attic := { s1.attic with
    imageOps := s1.attic.imageOps.filter (fun i => !(i.desc.ctx == c && i.tag == o.tag)),
    updates := s1.attic.updates.filter (fun u => !(u.ctx == c && u.tag == o.tag)) } }

section
variable {s : State} {c : Nat} {o : OpenDesc}

theorem getCtx_workEnded : getCtx (workEnded s c o) c = { getCtx s c with
    moves := (getCtx s c).moves.filter (fun m => m.tag != o.tag),
    streams := (getCtx s c).streams.map (fun t => { t with jobs := t.jobs.filter (fun j => j.tag != o.tag) }) } := getCtx_setCtx_eq

theorem idle_workEnded (h : idle s) : idle (workEnded s c o) := by
  obtain ⟨hstate, hopens, hstreams⟩ := quiet_getCtx h c
  refine idle_of_ctxs (s := setCtx s c _) rfl (idle_setCtx h ⟨hstate, hopens, fun t ht => ?_⟩)
  obtain ⟨t0, ht0, rfl⟩ := List.mem_map.mp ht
  exact hstreams t0 ht0

theorem canPost_workEnded (halive : alive s = true) (hfree : entryFree s c) (hrings : ringsPaused s = false) : canPost (workEnded s c o) c := by
  refine ⟨alive_failstop halive, ?_, ?_, hrings⟩
  · rw [getCtx_workEnded]; exact hfree.2
  · rw [cqFree, getCtx_workEnded]; exact hfree.1

end

/-! ## O38 -/

section
variable {s : State} {c k : Nat} {o : OpenDesc} {e : HostErr} {a : DWord}

/-- R88: the state in which a failed data access has completed its descriptor. -/
def dataFailed (s : State) (c : Nat) (o : OpenDesc) (e : HostErr) (a : DWord) : State :=
  let s1 := logFault s { code := hostErrCode e, ctx := some c, plan := o.planId.toNat, d0 := a.toNat, d1 := o.userId.toNat }
  aerHost (closeOpen (workEnded s1 c o) c o (hostErrCode e) 0) ((ctxFn s c).getD 0)

theorem accessFail_data (halive : alive s = true) (hk : ((getCtx s c).opens.filter hasHostData)[k]? = some o) :
    accessFail s (.data c k) e a = settle (dataFailed s c o e a) := by
  unfold accessFail
  dsimp only
  rw [if_neg (by simp [halive]), hk]
  rfl

/-- R88: a failed data access of an open descriptor. -/
theorem dataFailed_facts (halive : alive s = true) (hfree : entryFree s c) (hrings : ringsPaused s = false) (hidle : idle s) :
    settle (dataFailed s c o e a) = dataFailed s c o e a
    ∧ (getCtx (dataFailed s c o e a) c).opens = (getCtx s c).opens.filter (fun q => q.tag != o.tag)
    ∧ (getCtx (dataFailed s c o e a) c).inRing = (getCtx s c).inRing ++ [o.tag]
    ∧ (o.noIrq = true → (dataFailed s c o e a).host = hostWrite s.host ((getCtx s c).cqBase.toNat + 32 * (getCtx s c).cq.tail)
        (entryBytes (openEntry s o (hostErrCode e) 0) (getCtx s c).sqHead (getCtx s c).cq.phase))
    ∧ ∀ f, (getFn s f).atsWait = [[(c, o.tag)]] →
        (getFn (dataFailed s c o e a) f).atsWait = [] ∧ (getFn (dataFailed s c o e a) f).atsDone = (getFn s f).atsDone + 1 := by
  unfold dataFailed
  dsimp only
  obtain ⟨s1, hs1⟩ : ∃ s1, s1 = logFault s { code := hostErrCode e, ctx := some c, plan := o.planId.toNat, d0 := a.toNat, d1 := o.userId.toNat } :=
    ⟨_, rfl⟩
  have hctx1 : getCtx s1 c = getCtx s c := by rw [hs1]; rfl
  have hfn1 : ∀ f, getFn s1 f = getFn s f := fun f => by rw [hs1]; rfl
  have hhost1 : s1.host = s.host := by rw [hs1]; rfl
  have htick1 : s1.tick = s.tick := by rw [hs1]; rfl
  have hidle1 : idle s1 := by rw [hs1]; exact idle_of_ctxs (s := s) rfl hidle
  have hpost : canPost (workEnded s1 c o) c := by
    refine canPost_workEnded (by rw [hs1]; exact halive) ?_ (by rw [hs1]; exact hrings)
    unfold entryFree cqFree
    rw [hctx1]
    exact hfree
  rw [← hs1]
  refine ⟨settle_of_idle (idle_of_ctxs rfl (idle_closeOpen hpost (idle_workEnded hidle1))), ?_, ?_, fun hirq => ?_, fun f hats => ?_⟩
  · rw [getCtx_aerHost, getCtx_closeOpen hpost, getCtx_workEnded, hctx1]
  · rw [getCtx_aerHost, getCtx_closeOpen hpost, getCtx_workEnded, hctx1]
  · refine (closeOpen_host hpost hirq).trans ?_
    have hentry : openEntry (workEnded s1 c o) o (hostErrCode e) 0 = openEntry s o (hostErrCode e) 0 := by
      have htick : (workEnded s1 c o).tick = s.tick := htick1
      simp only [openEntry, htick]
    rw [hentry, getCtx_workEnded, hctx1, show (workEnded s1 c o).host = s.host from hhost1]
  · obtain ⟨hwait, hdone⟩ := ats_aerHost (closeOpen (workEnded s1 c o) c o (hostErrCode e) 0) ((ctxFn s c).getD 0) f
    obtain ⟨hwait', hdone'⟩ := ats_closeOpen (code := hostErrCode e) (aux := 0) (o := o) hpost f
    have hfn : getFn (workEnded s1 c o) f = getFn s f := hfn1 f
    rw [hwait, hdone, hwait', hdone', hfn]
    simp [ackAts, hats]

end

theorem dataFailed_attic {s : State} {c : Nat} {o : OpenDesc} {e : HostErr} {a : DWord} (himages : s.attic.imageOps = [])
    (hupdates : s.attic.updates = []) : (dataFailed s c o e a).attic.imageOps = [] ∧ (dataFailed s c o e a).attic.updates = [] := by
  let f : FaultIn := { code := hostErrCode e, ctx := some c, plan := o.planId.toNat, d0 := a.toNat, d1 := o.userId.toNat }
  have hkeep := keep_attic (closeOpen_keeps (workEnded (logFault s f) c o) c o (hostErrCode e) 0)
  have hattic : (dataFailed s c o e a).attic = { s.attic with
      imageOps := s.attic.imageOps.filter (fun i => !(i.desc.ctx == c && i.tag == o.tag)),
      updates := s.attic.updates.filter (fun u => !(u.ctx == c && u.tag == o.tag)) } := hkeep
  rw [hattic, himages, hupdates]
  exact ⟨rfl, rfl⟩

theorem getFn_of_fns {s t : State} (h : t.fns = s.fns) (f : Nat) : getFn t f = getFn s f := by rw [getFn, h]; rfl

/-- R88: with no operation of the attic under way, none goes on after a failed access. -/
theorem exec_hostAccessFail {s v : State} {b : HostAccess} {e : HostErr} {a : DWord} (hv : accessFail s b e a = v)
    (himages : v.attic.imageOps = []) (hupdates : v.attic.updates = []) :
    ∃ u, exec (.hostAccessFail b e a) s = .next u ∧ (∀ c, getCtx u c = getCtx v c) ∧ (∀ f, getFn u f = getFn v f) ∧ u.flog = v.flog
      ∧ u.host = v.host := by
  have hnext : nextUpdates (nextImages v) = idleUpdates v := by
    have hnone : nextImages v = v := by rw [nextImages, himages]; rfl
    rw [hnone, nextUpdates, hupdates]
    show nextUpdate (idleUpdates v) 1 = _
    have hidle : (idleUpdates v).attic.updates = [] := by
      rw [idleUpdates]
      split <;> exact hupdates
    rw [nextUpdate, hidle]
    rfl
  have hkeep : Keep { attic := true } v (idleUpdates v) := idleUpdates_keep rfl (keep_refl _ _)
  have hctxs := keep_ctxs hkeep
  have hfns := keep_fns hkeep
  have hflog := keep_flog hkeep
  have hhost := keep_host hkeep
  refine ⟨idleUpdates v, ?_, getCtx_of_ctxs hctxs, getFn_of_fns hfns, hflog, hhost⟩
  rw [← hnext, ← hv]
  rfl

/-- Settles O38: each access by the branch of `accessFail` that it takes. -/
theorem hostFailures : Obligations.HostFailures := by
  intro s halive himages hupdates
  have dead : ¬(!alive s) = true := by rw [halive]; decide
  refine ⟨fun c e a hopen => ?_, fun c e a hopen => ?_, fun f e a hon => ?_, fun f e a hon => ?_, fun c k o e a hk hfree hrings hidle => ?_,
    fun c k e a hk hopen => ?_, fun f p hpresent => ⟨_, rfl, ?_⟩,
    fun f hide => ⟨⟨_, rfl, ?_⟩, ⟨_, rfl, ?_⟩⟩, fun f k hstreams hpresent => ⟨_, rfl, ?_⟩, ⟨_, rfl, ?_⟩⟩
  · have hv : accessFail s (.sqRead c) e a = aerHost (logFault (ctxError s c) { code := hostErrCode e, ctx := some c, d0 := a.toNat })
        ((ctxFn s c).getD 0) := by
      unfold accessFail
      exact (if_neg dead).trans (if_pos (by rw [hopen]; rfl))
    obtain ⟨u, hu, hctx, _, hflog, _⟩ := exec_hostAccessFail hv himages hupdates
    refine ⟨u, hu, ?_, hflog⟩
    rw [hctx, getCtx_aerHost]
    show (getCtx (ctxError s c) c).state = _
    rw [getCtx_ctxError_opened hopen]
  · have hv : accessFail s (.entryWrite c) e a = aerHost (logFault (modCtx (ctxError s c) c (fun x => { x with cqBad := true }))
        { code := hostErrCode e, ctx := some c, d0 := a.toNat }) ((ctxFn s c).getD 0) := by
      unfold accessFail
      exact (if_neg dead).trans (if_pos (by rw [ctxLive, hopen]; rfl))
    obtain ⟨u, hu, hctx, _⟩ := exec_hostAccessFail hv himages hupdates
    have hbad : getCtx u c = { getCtx (ctxError s c) c with cqBad := true } := (hctx c).trans getCtx_setCtx_eq
    refine ⟨u, hu, ?_⟩
    rw [hbad, getCtx_ctxError_opened hopen]
    exact ⟨rfl, rfl⟩
  · have hv : accessFail s (.faultRing f) e a = aerHost (logFault (setFn s f { getFn s f with
        frCfg := BitVec.ofNat 32 (wbits (getFn s f).frCfg 0 31), frOff := hitFlag (getFn s f).frOff }) { code := hostErrCode e, d0 := a.toNat }) f := by
      unfold accessFail
      exact (if_neg dead).trans (if_pos hon)
    obtain ⟨u, hu, _, hfn, _⟩ := exec_hostAccessFail hv himages hupdates
    have hpage : getFn u f = { getFn s f with
        frCfg := BitVec.ofNat 32 (wbits (getFn s f).frCfg 0 31), frOff := hitFlag (getFn s f).frOff, aerHost := (getFn s f).aerHost + 1 } := by
      rw [hfn, getFn_aerHost]
      show ({ getFn (setFn s f _) f with aerHost := (getFn (setFn s f _) f).aerHost + 1 } : FnPage) = _
      rw [getFn_setFn_eq]
    refine ⟨u, hu, ?_⟩
    rw [hpage]
    exact ⟨enable_cleared _, rfl, rfl⟩
  · have hv : accessFail s (.ledgerRing f) e a = aerHost (logFault (setFn s f { getFn s f with
        lrCfg := BitVec.ofNat 32 (wbits (getFn s f).lrCfg 0 31), lrOff := hitFlag (getFn s f).lrOff }) { code := hostErrCode e, d0 := a.toNat }) f := by
      unfold accessFail
      exact (if_neg dead).trans (if_pos hon)
    obtain ⟨u, hu, _, hfn, _⟩ := exec_hostAccessFail hv himages hupdates
    have hpage : getFn u f = { getFn s f with
        lrCfg := BitVec.ofNat 32 (wbits (getFn s f).lrCfg 0 31), lrOff := hitFlag (getFn s f).lrOff, aerHost := (getFn s f).aerHost + 1 } := by
      rw [hfn, getFn_aerHost]
      show ({ getFn (setFn s f _) f with aerHost := (getFn (setFn s f _) f).aerHost + 1 } : FnPage) = _
      rw [getFn_setFn_eq]
    refine ⟨u, hu, ?_⟩
    rw [hpage]
    exact ⟨enable_cleared _, rfl⟩
  · obtain ⟨hsettle, hfacts⟩ := dataFailed_facts (o := o) (e := e) (a := a) halive hfree hrings hidle
    have hv : accessFail s (.data c k) e a = dataFailed s c o e a := (accessFail_data halive hk).trans hsettle
    obtain ⟨hnoImages, hnoUpdates⟩ := dataFailed_attic (c := c) (o := o) (e := e) (a := a) himages hupdates
    obtain ⟨u, hu, hctx, hfn, _, hhost⟩ := exec_hostAccessFail hv hnoImages hnoUpdates
    obtain ⟨hopens, hring, hbytes, hats⟩ := hfacts
    refine ⟨u, hu, ?_, ?_, fun hirq => hhost.trans (hbytes hirq), fun f hf => ?_⟩
    · rw [hctx]; exact hopens
    · rw [hctx]; exact hring
    · rw [hfn]; exact hats f hf
  · have hv : accessFail s (.data c k) e a = modCtx s c (fun x => { x with dataFail := some (e, a) }) := by
      unfold accessFail
      dsimp only
      rw [if_neg dead, hk]
      exact if_pos (by rw [ctxLive, hopen]; rfl)
    obtain ⟨u, hu, hctx, _, hflog, _⟩ := exec_hostAccessFail hv himages hupdates
    have hfail : getCtx u c = { getCtx s c with dataFail := some (e, a) } := (hctx c).trans getCtx_setCtx_eq
    refine ⟨u, hu, ?_⟩
    rw [hfail]
    exact ⟨rfl, hopen, hflog⟩
  · unfold atsInvalidate
    rw [if_neg (by rw [hpresent]; decide)]
    dsimp only
    rw [getFn_modFn_eq]
    by_cases hnone : usesXlat s f p = []
    · rw [if_pos (by rw [hnone]; rfl)]
      exact ⟨fun hmem => by simp at hmem, fun _ => ⟨rfl, rfl⟩, fun hsome => absurd hnone hsome⟩
    · rw [if_neg (by simpa using hnone)]
      exact ⟨fun hmem => by simp at hmem, fun hno => absurd hno hnone, fun _ => ⟨rfl, rfl⟩⟩
  · unfold ideOutside
    rw [if_pos hide, getFn_modFn_eq]
    exact ⟨rfl, rfl⟩
  · unfold ideLoss
    rw [if_pos hide]
    have hfns : ((ctxsOf s f).foldl ctxError (modFn s f (fun p => { p with ide := p.ide - 1 }))).fns
        = (modFn s f (fun p => { p with ide := p.ide - 1 })).fns :=
      keep_fns (keep_foldl (m := { ctxs := true }) (fun y c hy => ctxError_keep rfl hy) (keep_refl _ _))
    refine ⟨?_, fun c hc hopen => foldl_ctxError hc hopen⟩
    rw [getFn_of_fns hfns, getFn_modFn_eq]
    exact Nat.sub_add_cancel hide
  · unfold spdm
    rw [if_neg dead]
    dsimp only
    rw [if_pos (by simp [hstreams, hpresent]), getFn_modFn_eq]
  · unfold spdm
    rw [if_neg dead]
    rfl

/-! ## Contexts that close without entries -/

section
variable {g : State} {c : Nat}

theorem sameButAts_ackAts (c tag : Nat) (p : FnPage) : sameButAts p (ackAts c tag p) := rfl

/-- R93: of contexts, a context that is CLOSED changes itself alone; of pages, the translations in use. -/
theorem closeNow_facts : ((getCtx (closeNow g c) c).state = .closed ∧ (getCtx (closeNow g c) c).opens = [] ∧ (getCtx (closeNow g c) c).streams = [])
    ∧ (∀ b, b ≠ c → getCtx (closeNow g c) b = getCtx g b) ∧ ∀ f, sameButAts (getFn g f) (getFn (closeNow g c) f) := by
  have drops : ∀ (l : List OpenDesc) (s : State), (∀ b, b ≠ c → getCtx (l.foldl (fun s o => dropOpen s c o.tag) s) b = getCtx s b)
      ∧ ∀ f, sameButAts (getFn s f) (getFn (l.foldl (fun s o => dropOpen s c o.tag) s) f) := fun l => by
    induction l with
    | nil => exact fun s => ⟨fun b _ => rfl, fun f => sameButAts_refl _⟩
    | cons o l ih =>
      intro s
      obtain ⟨hctx, hfn⟩ := ih (dropOpen s c o.tag)
      exact ⟨fun b hb => (hctx b hb).trans (getCtx_dropOpen_ne hb),
        fun f => sameButAts_trans (getFn_dropOpen s c o.tag f ▸ sameButAts_ackAts c o.tag _) (hfn f)⟩
  obtain ⟨dropsCtx, dropsFn⟩ := drops (getCtx g c).opens g
  obtain ⟨s0, hs0⟩ : ∃ s0, s0 = (getCtx g c).opens.foldl (fun s o => dropOpen s c o.tag) g := ⟨_, rfl⟩
  obtain ⟨s1, hs1⟩ : ∃ s1, s1 = (getCtx s0 c).streams.foldl keepItems (unloadImages s0 (fun l => l.ctx == c)) := ⟨_, rfl⟩
  have hkeep : Keep { plans := true, limbo := true, attic := true } s0 s1 := by
    rw [hs1]
    exact keep_foldl (fun y t hy => keepItems_keep rfl hy) (unloadImages_keep rfl (keep_refl _ _))
  have hctxs := keep_ctxs hkeep
  have hfns := keep_fns hkeep
  have hnew : (closeNow g c).ctxs = aSet s1.ctxs c (closedCtx (getCtx s1 c)) ∧ (closeNow g c).fns = s1.fns := by
    rw [hs1, hs0]
    exact ⟨rfl, rfl⟩
  rw [← hs0] at dropsCtx dropsFn
  refine ⟨?_, fun b hb => ?_, fun f => ?_⟩
  · have hget : getCtx (closeNow g c) c = closedCtx (getCtx s1 c) := by rw [getCtx, hnew.1, aGet_aSet_eq]; rfl
    rw [hget]
    exact ⟨rfl, rfl, rfl⟩
  · rw [getCtx, hnew.1, aGet_aSet_ne hb, hctxs]
    exact dropsCtx b hb
  · rw [getFn_of_fns (hnew.2.trans hfns)]
    exact dropsFn f

end

/-! ## Function level resets -/

/-- R123: one context of a function that is reset. -/
def resetCtx (s : State) (c : Nat) : State := closeNow (silencePlans s c true) c

section
variable {s : State} {l : List Nat}

/-- R123: of the contexts of a list that are reset, each is CLOSED with nothing open; the other ones stay. -/
theorem resetCtxs_facts : ∀ (l : List Nat) (s : State),
    (∀ c ∈ l, (getCtx (l.foldl resetCtx s) c).state = .closed ∧ (getCtx (l.foldl resetCtx s) c).opens = []
      ∧ (getCtx (l.foldl resetCtx s) c).streams = [])
    ∧ (∀ c, c ∉ l → getCtx (l.foldl resetCtx s) c = getCtx s c)
    ∧ ∀ f, sameButAts (getFn s f) (getFn (l.foldl resetCtx s) f) := fun l => by
  induction l with
  | nil => exact fun s => ⟨fun c hc => absurd hc List.not_mem_nil, fun c _ => rfl, fun f => sameButAts_refl _⟩
  | cons a l ih =>
    intro s
    obtain ⟨hclosed, hothers, hfn⟩ := closeNow_facts (g := silencePlans s a true) (c := a)
    obtain ⟨htail, hrest, hfns⟩ := ih (resetCtx s a)
    refine ⟨fun c hc => ?_, fun c hc => ?_, fun f => sameButAts_trans (hfn f) (hfns f)⟩
    · by_cases hmem : c ∈ l
      · exact htail c hmem
      · have hca : c = a := (List.mem_cons.mp hc).resolve_right hmem
        rw [List.foldl_cons, hrest c hmem, hca]
        exact hclosed
    · obtain ⟨hca, hl⟩ := not_or.mp (fun h => hc (List.mem_cons.mpr h))
      rw [List.foldl_cons, hrest c hl]
      exact hothers c hca

/-- R393: the log after an event without a context depends on the log and on the tick alone. -/
theorem logEvent_of {t : State} {f : FaultIn} (htick : t.tick = s.tick) (hflog : t.flog = s.flog) (hctx : f.ctx = none) : logEvent t f = logEvent s f := by
  have hrecord : ∀ n, mkRecord t f n = mkRecord s f n := fun n => by simp only [mkRecord, sysTick, htick, hflog, hctx, Option.bind_none]
  simp only [logEvent, corrected, hrecord, htick, hflog]

/-- R123: a function's contexts once it has been reset, and its page. -/
theorem resetFn_facts (s : State) (f : Nat) :
    (∀ c ∈ ctxsOf s f, (getCtx (resetFn s f) c).state = .closed ∧ (getCtx (resetFn s f) c).opens = [] ∧ (getCtx (resetFn s f) c).streams = [])
    ∧ (∀ c, c ∉ ctxsOf s f → getCtx (resetFn s f) c = getCtx s c)
    ∧ getFn (resetFn s f) f = pageReset { getFn s f with
        atsWait := (getFn (resetFn s f) f).atsWait, atsDone := (getFn (resetFn s f) f).atsDone } := by
  obtain ⟨hclosed, hothers, hfn⟩ := resetCtxs_facts (ctxsOf s f) s
  have hreset : resetFn s f = modFn ((ctxsOf s f).foldl resetCtx s) f pageReset := rfl
  have hpage : getFn (resetFn s f) f = pageReset (getFn ((ctxsOf s f).foldl resetCtx s) f) := by rw [hreset, getFn_modFn_eq]
  refine ⟨hclosed, hothers, ?_⟩
  rw [hpage]
  exact congrArg pageReset (hfn f)

theorem resetFn_keeps (s : State) (f : Nat) :
    Keep { fns := true, ctxs := true, tags := true, plans := true, limbo := true, attic := true } s (resetFn s f) :=
  resetFn_keep rfl (keep_refl _ _)

theorem quiet_resetFn (h : idle s) (f c : Nat) : quietCtx (getCtx (resetFn s f) c) := by
  obtain ⟨hclosed, hothers, _⟩ := resetFn_facts s f
  by_cases hc : c ∈ ctxsOf s f
  · obtain ⟨hstate, hopens, hstreams⟩ := hclosed c hc
    rw [quietCtx, hstate, hopens, hstreams]
    exact ⟨by decide, fun _ hq => absurd hq List.not_mem_nil, fun _ ht => absurd ht List.not_mem_nil⟩
  · rw [hothers c hc]
    exact quiet_getCtx h c

end

/-! ## VF Enable -/

/-- R123: the VFs that VF Enable brings up. -/
def bringUp (s : State) (n : Nat) : State :=
  (List.range n).foldl (fun s i => setFn s (i + 1) { (getFn s (i + 1)) with present := true }) s

theorem getFn_bringUp_above (s : State) (n f : Nat) (h : n < f) : getFn (bringUp s n) f = getFn s f := by
  induction n with
  | zero => rfl
  | succ n ih =>
    have hstep : bringUp s (n + 1) = setFn (bringUp s n) (n + 1) { getFn (bringUp s n) (n + 1) with present := true } := by
      rw [bringUp, List.range_succ, List.foldl_append]
      rfl
    rw [hstep, getFn_setFn_ne (by omega), ih (by omega)]

theorem getFn_bringUp (s : State) (n f : Nat) :
    getFn (bringUp s n) f = if 1 ≤ f ∧ f ≤ n then { getFn s f with present := true } else getFn s f := by
  induction n with
  | zero => rw [if_neg (by omega)]; rfl
  | succ n ih =>
    have hstep : bringUp s (n + 1) = setFn (bringUp s n) (n + 1) { getFn (bringUp s n) (n + 1) with present := true } := by
      rw [bringUp, List.range_succ, List.foldl_append]
      rfl
    rw [hstep]
    have hnew : getFn (bringUp s n) (n + 1) = getFn s (n + 1) := getFn_bringUp_above s n (n + 1) (by omega)
    by_cases hf : f = n + 1
    · rw [hf, getFn_setFn_eq, hnew, if_pos (by omega)]
    · rw [getFn_setFn_ne hf, ih]
      have hiff : (1 ≤ f ∧ f ≤ n) ↔ 1 ≤ f ∧ f ≤ n + 1 := by omega
      simp only [hiff]

theorem vfEnable_on {s : State} {n : Nat} (hstate : s.dev.state = .inService) (hn : n ≤ 63) (hzero : s.dev.numVfs = 0) :
    vfEnable s true n = { bringUp s n with dev := { (bringUp s n).dev with numVfs := n } } := by
  unfold vfEnable
  rw [if_neg (by simp [hstate]; omega), if_pos rfl, if_neg (by simp [hzero])]
  rfl

/-! ## O39 -/

/-- Settles O39: a reset by `resetFn_facts`; after it no context has anything left that would settle. -/
theorem functionResets : Obligations.FunctionResets := by
  intro s halive hstate
  have notBoot : (s.dev.state == .boot) = false := by rw [hstate]; rfl
  have notStopped := alive_failstop halive
  have power : ∀ f d3, (getFn s f).present = true → exec (.powerStateWrite f d3) s
      = .next (if d3 && anyPlan s then s else modFn s f (fun p => { p with d3hot := d3 })) := fun f d3 hpresent =>
    congrArg _ (if_neg (by rw [hpresent, notBoot]; decide))
  refine ⟨fun f hf hpresent hidle => ⟨_, rfl, ?flr⟩, ⟨_, rfl, ?pf⟩,
    fun f hpresent => ⟨fun hnone => ⟨_, power f true hpresent, ?down⟩, fun hsome => (power f true hpresent).trans ?kept, ⟨_, power f false hpresent, ?up⟩⟩,
    fun n hn hzero => ⟨_, congrArg Host.Outcome.next (vfEnable_on hstate hn hzero), rfl, getFn_bringUp s n⟩, fun n hn => ?many, fun hidle => ⟨_, rfl, ?off⟩⟩
  case flr =>
    obtain ⟨hclosed, _, hpage⟩ := resetFn_facts s f
    have hkeep := resetFn_keeps s f
    have hdev := keep_dev hkeep
    have htick := keep_tick hkeep
    have hflog := keep_flog hkeep
    have hhost := keep_host hkeep
    have hrecord : flrRecord (resetFn s f) f (fnPlans s f).length
        = logFault (resetFn s f) { code := 0x0406, d0 := f, d1 := (fnPlans s f).length } := if_neg (by rw [hdev, notStopped]; decide)
    have hreset : flrVf s f = logFault (resetFn s f) { code := 0x0406, d0 := f, d1 := (fnPlans s f).length } := by
      unfold flrVf
      rw [if_neg (by rw [notBoot, hpresent]; simpa using hf), hrecord]
      exact settle_of_settled (settled_of_quiet (g := logFault _ _) (quiet_resetFn hidle f))
    have hlog := logEvent_of (f := { code := 0x0406, d0 := f, d1 := (fnPlans s f).length }) htick hflog rfl
    rw [hreset]
    exact ⟨hpage, fun c hc => ⟨(hclosed c hc).1, (hclosed c hc).2.1⟩, hlog, hhost⟩
  case pf =>
    have hkeep : Keep { dev := true, fns := true, ctxs := true, tags := true, plans := true, limbo := true, flog := true, attic := true } s (flrPf s) :=
      flrPf_keep rfl (keep_refl _ _)
    have htick := keep_tick hkeep
    refine ⟨?_, ?_, htick⟩ <;> (unfold flrPf; rw [if_neg (by rw [notBoot]; decide)])
    · unfold flrRecord
      dsimp only
      split <;> rfl
    · intro p hp
      obtain ⟨q, _, rfl⟩ := List.mem_map.mp hp
      rfl
  case down =>
    rw [hnone, Bool.and_false, if_neg Bool.false_ne_true]
    exact getFn_modFn_eq s f _
  case kept => rw [hsome]; rfl
  case up =>
    rw [Bool.false_and, if_neg Bool.false_ne_true]
    exact getFn_modFn_eq s f _
  case many => exact congrArg Host.Outcome.next (if_pos (by simp [hn]))
  case off =>
    unfold vfEnable
    rw [if_neg (by simp [hstate]), if_neg Bool.false_ne_true]
    dsimp only
    rw [keep_dev (settle_keep
      (M := { fns := true, ctxs := true, tags := true, plans := true, limbo := true, attic := true, host := true }) rfl (keep_refl _ _))]

end Sys2Proof.Proofs.HostEvents
end

section
/-! PROOFS. O45, O46: weight images (R374 to R378), firmware and configuration updates (R116, R431, R435), attestation (R117, R381). -/
namespace Sys2Proof.Proofs.AtticOps

open Sys2Proof Sys2Proof.Machine Sys2Proof.Laws
open Sys2Proof.Proofs.StateParts Sys2Proof.Proofs.DescBasics
open Sys2Proof.Proofs.DescPlans (bodyZero_of_eq bits_ne_false mem_keys_of_ne)

/-! ## Extents: the pool depends on which are in use, not on their order -/

theorem freeExtent_congr {u v : List Nat} (h : ∀ e, u.contains e = v.contains e) (c : Nat) : ∀ n i, freeExtent u c i n = freeExtent v c i n
  | 0, _ => rfl
  | n + 1, i => by rw [freeExtent, freeExtent, h, freeExtent_congr h c n]

theorem allocSpread_congr {cs : List Nat} : ∀ {u v : List Nat} (_ : ∀ e, u.contains e = v.contains e) (n e : Nat),
    allocSpread u cs e n = allocSpread v cs e n
  | _, _, _, 0, _ => rfl
  | u, v, h, n + 1, e => by
    rw [allocSpread, allocSpread]
    split
    · rfl
    · next c _ =>
      rw [freeExtent_congr h c]
      split
      · rfl
      · next x _ => rw [allocSpread_congr (u := x :: u) (v := x :: v) (fun y => by rw [List.contains_cons, List.contains_cons, h]) n]

theorem keys_aSet {V : Type} (l : List (Nat × V)) (k : Nat) (v : V) (a : Nat) :
    a ∈ (aSet l k v).map (·.1) ↔ a = k ∨ a ∈ l.map (·.1) := by
  induction l with
  | nil => simp [aSet]
  | cons x l ih =>
    obtain ⟨k', v'⟩ := x
    unfold aSet
    split
    · simp
    · split
      · next heq =>
        have hk : k = k' := beq_iff_eq.mp heq
        simp [hk]
      · rw [List.map_cons, List.mem_cons, ih, List.map_cons, List.mem_cons]
        exact or_left_comm

/-! ## The state in which an IMAGE descriptor waits for its turn -/

/-- R115: the descriptor is open, its operation is in the attic's list, and nothing else has changed since the fetch. -/
structure Queued (s q : State) (d : Desc) (o t : Nat) (w : WaitKind) (attic : Attic) : Prop where
  ctxs : q.ctxs = (openDesc (fetched s d t) d o t w).ctxs
  attic : q.attic = attic
  tags : q.tags = (fetched s d t).tags
  dev : q.dev = s.dev
  recov : q.recov = s.recov
  tick : q.tick = s.tick
  host : q.host = s.host
  mem : q.mem = s.mem
  plans : q.plans = s.plans
  limbo : q.limbo = s.limbo

section
variable {s q : State} {d : Desc} {o t : Nat} {w : WaitKind} {attic : Attic}

theorem queued_openDesc (a : Attic) :
    Queued s { openDesc (fetched s d t) d o t w with attic := a } d o t w a := by
  have hkeep : Keep { fns := true, ctxs := true } (fetched s d t) (openDesc (fetched s d t) d o t w) := openDesc_keeps _ _ _ _ _
  have htags := keep_tags hkeep
  have hdev := keep_dev hkeep
  have hrecov := keep_recov hkeep
  have htick := keep_tick hkeep
  have hhost := keep_host hkeep
  have hmem := keep_mem hkeep
  have hplans := keep_plans hkeep
  have hlimbo := keep_limbo hkeep
  exact ⟨rfl, rfl, htags, hdev, hrecov, htick, hhost, hmem, hplans, hlimbo⟩

theorem likeOpened_queued (h : Queued s q d o t w attic) : likeOpened s q d t o w :=
  ⟨(getCtx_of_ctxs h.ctxs d.ctx).trans likeOpened_openDesc.1, congrArg Dev.failstop h.dev, h.recov, h.tick, h.host⟩

theorem getCtx_queued_ne (h : Queued s q d o t w attic) {c : Nat} (hc : c ≠ d.ctx) : getCtx q c = getCtx s c :=
  (getCtx_of_ctxs h.ctxs c).trans ((getCtx_openDesc_ne hc).trans (getCtx_fetched_ne hc))

theorem idle_queued (h : Queued s q d o t w attic) (hidle : idle s) (hw : noCloseWait w = true) : idle q :=
  idle_of_ctxs h.ctxs (idle_openDesc (idle_fetched hidle) hw)

theorem opensAs_queued (h : Queued s q d o t w attic) (hf : fetches s d t) (he : entryFree s d.ctx) : opensAs s q d t o w :=
  opensAs_of_parts hf he h.ctxs h.tags h.host h.mem

/-- What an attic operation reads of a context is as it was. -/
theorem getCtx_queued_parts (h : Queued s q d o t w attic) (c : Nat) :
    (getCtx q c).addr = (getCtx s c).addr ∧ (getCtx q c).func = (getCtx s c).func ∧ (getCtx q c).quota = (getCtx s c).quota := by
  by_cases hc : c = d.ctx
  · subst hc
    rw [(likeOpened_queued h).1]
    exact ⟨rfl, rfl, rfl⟩
  · rw [getCtx_queued_ne h hc]
    exact ⟨rfl, rfl, rfl⟩

theorem ctxFn_queued (h : Queued s q d o t w attic) (c : Nat) : ctxFn q c = ctxFn s c := by
  unfold ctxFn
  rw [(getCtx_queued_parts h c).2.1]

theorem heldExtents_queued (h : Queued s q d o t w attic) (hloaded : attic.loaded = s.attic.loaded) (c : Nat) : heldExtents q c = heldExtents s c := by
  unfold heldExtents
  rw [(getCtx_queued_parts h c).1, h.attic, hloaded, h.limbo]

theorem usedExtents_queued (h : Queued s q d o t w attic) (hloaded : attic.loaded = s.attic.loaded) (hopen : (getCtx s d.ctx).state = .opened) (e : Nat) :
    (usedExtents q).contains e = (usedExtents s).contains e := by
  have hmem : d.ctx ∈ s.ctxs.map (·.1) := mem_keys_of_ne fun heq => by
    rw [heq] at hopen
    exact absurd hopen (by decide)
  have hkeys : ∀ c, c ∈ q.ctxs.map (·.1) ↔ c ∈ s.ctxs.map (·.1) := fun c => by
    rw [h.ctxs]
    show c ∈ (aSet (aSet s.ctxs d.ctx _) d.ctx _).map (·.1) ↔ _
    rw [keys_aSet, keys_aSet]
    constructor
    · rintro (rfl | rfl | hc)
      · exact hmem
      · exact hmem
      · exact hc
    · exact fun hc => .inr (.inr hc)
  have hheld : ∀ (g : State) (P : Nat → Prop), (∃ p ∈ g.ctxs, P p.1) ↔ ∃ c ∈ g.ctxs.map (·.1), P c := fun g P => by simp
  have hused : e ∈ usedExtents q ↔ e ∈ usedExtents s := by
    simp only [usedExtents, ← List.flatMap_def, List.mem_append, List.mem_flatMap, List.mem_map, h.limbo,
      heldExtents_queued h hloaded]
    rw [hheld q (fun c => e ∈ heldExtents s c), hheld s (fun c => e ∈ heldExtents s c)]
    simp only [hkeys]
  rw [Bool.eq_iff_iff, List.contains_iff_mem, List.contains_iff_mem, hused]

/-! ## An attic operation that ends at once -/

theorem find_opened (hf : fetches s d t) : ((getCtx s d.ctx).opens ++ [opened d o t w]).find? (fun q => q.tag == t) = some (opened d o t w) := by
  obtain ⟨_, _, _, _, _, _, _, _, hfresh⟩ := hf
  have hnone : (getCtx s d.ctx).opens.find? (fun q => q.tag == t) = none :=
    List.find?_eq_none.mpr fun x hx => by simpa using hfresh x hx
  rw [List.find?_append, hnone]
  simp [opened]

/-- The operation leaves the attic's list. -/
def opEnded (g : State) (op : ImageOp) : State :=
  { g with attic := { g.attic with imageOps := g.attic.imageOps.filter (fun q => !sameOp op q) } }

theorem endImage_of_open {g : State} {op : ImageOp} {p : OpenDesc} {code : Nat}
    (hopen : (getCtx g op.desc.ctx).opens.find? (fun q => q.tag == op.tag) = some p) :
    endImage g op code = closeOpen (opEnded g op) op.desc.ctx p code 0 := by
  show (match (getCtx g op.desc.ctx).opens.find? (fun q => q.tag == op.tag) with
    | none => opEnded g op
    | some q => closeOpen (opEnded g op) op.desc.ctx q code 0) = _
  rw [hopen]

theorem endImage_closes {g : State} {op : ImageOp} {code : Nat} (hf : fetches s d t) (hg : likeOpened s g d t o w) (hdesc : op.desc = d)
    (htag : op.tag = t) : endImage g op code = closeOpen (opEnded g op) d.ctx (opened d o t w) code 0 := by
  have hopen : (getCtx g op.desc.ctx).opens.find? (fun q => q.tag == op.tag) = some (opened d o t w) := by
    rw [hdesc, htag, hg.1]
    exact find_opened hf
  rw [endImage_of_open hopen, hdesc]

theorem endImage_completes {g : State} {op : ImageOp} {code : Nat} (hf : fetches s d t) (he : entryFree s d.ctx) (hidle : idle g)
    (hg : likeOpened s g d t o w) (htags : g.tags = (fetched s d t).tags) (hmem : g.mem = s.mem) (hplans : g.plans = s.plans)
    (hdesc : op.desc = d) (htag : op.tag = t) :
    completesAs s (endImage g op code) d t (descEntry s d o t code 0) ∧ (endImage g op code).attic = (opEnded g op).attic
    ∧ settle (endImage g op code) = endImage g op code := by
  have hlike : likeOpened s (opEnded g op) d t o w := hg
  have hidle' : idle (opEnded g op) := idle_of_ctxs (s := g) rfl hidle
  rw [endImage_closes hf hg hdesc htag]
  exact ⟨completes_closeOpen hf he hlike htags hmem hplans code, keep_attic (closeOpen_keeps _ _ _ _ _),
    settle_of_idle (idle_closeOpen (canPost_of_likeOpened hf he hlike) hidle')⟩

/-! ## O45: the descriptors -/

/-- R115: the operation of an IMAGE descriptor. -/
def imageOp (s : State) (d : Desc) (t kind : Nat) (image : List Byte) : ImageOp :=
  { desc := d, tag := t, fn := (ctxFn s d.ctx).getD 0, imageId := dbits d.w20 0 32, kind := kind, image := image, started := false }

/-- The attic with one operation in its list. -/
def withOp (s : State) (op : ImageOp) : Attic := { s.attic with imageOps := [op] }

/-- R378: an IMAGE descriptor of an attic with nothing under way starts at once. -/
theorem imageDesc_starts {kind : Nat} {image : List Byte} (hnone : s.attic.imageOps = []) :
    ∃ q, Queued s q d o t .image (withOp s (imageOp s d t kind image))
      ∧ imageDesc (fetched s d t) d o kind image t = (match kind with
        | 0 => startStore q (imageOp s d t kind image)
        | 1 => startLoad q (imageOp s d t kind image)
        | _ => runDelete q (imageOp s d t kind image)) := by
  have hfn : ctxFn (fetched s d t) d.ctx = ctxFn s d.ctx := by unfold ctxFn; rw [getCtx_fetched]; rfl
  have hattic : ({ (fetched s d t).attic with imageOps := (fetched s d t).attic.imageOps ++ [imageOp s d t kind image] } : Attic)
      = withOp s (imageOp s d t kind image) := by
    have hsame : (fetched s d t).attic = s.attic := rfl
    rw [withOp, hsame, hnone]
    rfl
  refine ⟨_, queued_openDesc (withOp s (imageOp s d t kind image)), ?_⟩
  have hdesc : imageDesc (fetched s d t) d o kind image t
      = startImage { openDesc (fetched s d t) d o t .image with attic := withOp s (imageOp s d t kind image) } (imageOp s d t kind image) := by
    unfold imageDesc
    rw [hfn]
    exact congrArg (fun a => startImage { openDesc (fetched s d t) d o t .image with attic := a } (imageOp s d t kind image)) hattic
  rw [hdesc, startImage, if_neg]
  · rfl
  · simp [imageBusy, withOp, imageOp]

theorem queued_attic (h : Queued s q d o t w attic) (a : Attic) : Queued s { q with attic := a } d o t w a :=
  ⟨h.ctxs, rfl, h.tags, h.dev, h.recov, h.tick, h.host, h.mem, h.plans, h.limbo⟩

theorem sameOp_self (op : ImageOp) : sameOp op op = true := by simp [sameOp]

/-- R375: a load that passes its checks reserves its extents. -/
theorem startLoad_allocates {g : State} {op : ImageOp} {i : StoredImage} {es : List Nat} (hfind : findImage g op.fn op.imageId = some i)
    (hnew : g.attic.loaded.any (fun l => l.ctx == op.desc.ctx && l.imageId == op.imageId) = false)
    (hallow : (allowEntry g (imgKey i.bytes)).isSome = true) (hgood : i.corrupt = false)
    (hquota : (heldExtents g op.desc.ctx).length + imgExtents i ≤ (getCtx g op.desc.ctx).quota.toNat)
    (halloc : allocSpread (usedExtents g) (List.range 16) 0 (imgExtents i) = some es) :
    startLoad g op = { g with attic := { g.attic with
      imageOps := g.attic.imageOps.filter (fun q => !sameOp op q),
      loaded := g.attic.loaded ++ [{ ctx := op.desc.ctx, fn := op.fn, imageId := op.imageId, extents := es, resident := false, tag := some op.tag }] } } := by
  have hsome : (allowEntry g (imgKey i.bytes)).isNone = false := by
    rw [← Option.not_isSome, hallow]; rfl
  unfold startLoad
  rw [hfind]
  simp only [hnew, hsome, hgood, Bool.false_eq_true, if_false, halloc]
  rw [if_neg (Nat.not_lt.mpr hquota)]

section
variable {kind : Nat} {image : List Byte} (hq : Queued s q d o t .image (withOp s (imageOp s d t kind image)))
include hq

/-- R374: the checks of a store see what they saw before the operation was queued. -/
theorem storeCode_queued (hnone : s.attic.imageOps = []) :
    storeCode q (imageOp s d t kind image) = storeCode (fetched s d t) (imageOp s d t kind image) := by
  have hattic : (fetched s d t).attic = s.attic := rfl
  have hdev : (fetched s d t).dev = s.dev := rfl
  have hstarted : (imageOp s d t kind image).started = false := rfl
  simp only [storeCode, findImage, allowEntry, activeCfg, atticUse, atticCount, imgPlain, unwrapKey, deviceKey, hq.attic, hq.dev, hattic, hdev,
    withOp, hnone, List.filter_cons, List.filter_nil, hstarted, Bool.false_eq_true, if_false]

/-- The operation ends, and with it everything that the descriptor has begun. -/
theorem endImage_queued {code : Nat} (hf : fetches s d t) (he : entryFree s d.ctx) (hidle : idle s) (hnone : s.attic.imageOps = []) :
    completesAs s (endImage q (imageOp s d t kind image) code) d t (descEntry s d o t code 0)
    ∧ (endImage q (imageOp s d t kind image) code).attic = s.attic
    ∧ settle (endImage q (imageOp s d t kind image) code) = endImage q (imageOp s d t kind image) code := by
  obtain ⟨hdone, hattic, hsettle⟩ := endImage_completes (op := imageOp s d t kind image) (code := code) hf he
    (idle_queued hq hidle rfl) (likeOpened_queued hq) hq.tags hq.mem hq.plans rfl rfl
  refine ⟨hdone, hattic.trans ?_, hsettle⟩
  have hended : (opEnded q (imageOp s d t kind image)).attic = { s.attic with imageOps := [] } := by
    show ({ q.attic with imageOps := q.attic.imageOps.filter _ } : Attic) = _
    rw [hq.attic]
    simp [withOp, sameOp_self]
  rw [hended, ← hnone]

theorem startStore_good (hcode : storeCode q (imageOp s d t kind image) = 0) :
    startStore q (imageOp s d t kind image)
      = { q with attic := { s.attic with imageOps := [beginOp (imageOp s d t kind image)] } } := by
  unfold startStore
  rw [hcode, hq.attic]
  simp [withOp, sameOp_self]

omit hq in
theorem startStore_bad (hcode : storeCode q (imageOp s d t kind image) ≠ 0) :
    startStore q (imageOp s d t kind image) = endImage q (imageOp s d t kind image) (storeCode q (imageOp s d t kind image)) := by
  unfold startStore
  split
  · next hzero => exact absurd hzero hcode
  · rfl

theorem findImage_queued (f id : Nat) : findImage q f id = findImage s f id := by
  rw [findImage, hq.attic]
  rfl

/-- R375: a load that passes its checks. -/
theorem startLoad_good {i : StoredImage} {es : List Nat} (hopen : (getCtx s d.ctx).state = .opened)
    (hfind : findImage s ((ctxFn s d.ctx).getD 0) (dbits d.w20 0 32) = some i)
    (hnew : s.attic.loaded.any (fun l => l.ctx == d.ctx && l.imageId == dbits d.w20 0 32) = false)
    (hallow : (allowEntry s (imgKey i.bytes)).isSome = true) (hgood : i.corrupt = false)
    (hquota : (heldExtents s d.ctx).length + imgExtents i ≤ (getCtx s d.ctx).quota.toNat)
    (halloc : allocSpread (usedExtents s) (List.range 16) 0 (imgExtents i) = some es) :
    startLoad q (imageOp s d t kind image)
      = { q with attic := { s.attic with
          imageOps := [],
          loaded := s.attic.loaded ++ [{
            ctx := d.ctx, fn := (ctxFn s d.ctx).getD 0, imageId := dbits d.w20 0 32, extents := es,
            resident := false, tag := some t }] } } := by
  have hallow' : allowEntry q (imgKey i.bytes) = allowEntry s (imgKey i.bytes) := by
    simp only [allowEntry, activeCfg, hq.attic, withOp]
  have hheld : heldExtents q d.ctx = heldExtents s d.ctx := heldExtents_queued hq rfl d.ctx
  have hused := allocSpread_congr (cs := List.range 16) (usedExtents_queued hq rfl hopen) (imgExtents i) 0
  have hpart : (getCtx q d.ctx).quota = (getCtx s d.ctx).quota := (getCtx_queued_parts hq d.ctx).2.2
  have hloaded : q.attic.loaded = s.attic.loaded := by rw [hq.attic]; rfl
  have hresult := startLoad_allocates (g := q) (op := imageOp s d t kind image) (i := i) (es := es) ((findImage_queued hq _ _).trans hfind)
    ((congrArg (fun l => l.any (fun l => l.ctx == d.ctx && l.imageId == dbits d.w20 0 32)) hloaded).trans hnew) (by rw [hallow']; exact hallow) hgood
    (by rw [show (imageOp s d t kind image).desc.ctx = d.ctx from rfl, hheld, hpart]; exact hquota) (hused.trans halloc)
  rw [hresult, hq.attic]
  simp [withOp, sameOp_self]
  exact ⟨rfl, rfl, rfl, rfl⟩


/-- R375: an image that is loaded already. -/
theorem startLoad_loaded {i : StoredImage} (hfind : findImage s ((ctxFn s d.ctx).getD 0) (dbits d.w20 0 32) = some i)
    (hthere : s.attic.loaded.any (fun l => l.ctx == d.ctx && l.imageId == dbits d.w20 0 32) = true) :
    startLoad q (imageOp s d t kind image) = endImage q (imageOp s d t kind image) 0x00 := by
  have hfind' : findImage q (imageOp s d t kind image).fn (imageOp s d t kind image).imageId = some i := (findImage_queued hq _ _).trans hfind
  have hthere' : q.attic.loaded.any (fun l => l.ctx == (imageOp s d t kind image).desc.ctx && l.imageId == (imageOp s d t kind image).imageId) = true := by
    rw [hq.attic]; exact hthere
  unfold startLoad
  rw [hfind']
  exact if_pos hthere'

theorem startLoad_absent (hfind : findImage s ((ctxFn s d.ctx).getD 0) (dbits d.w20 0 32) = none) :
    startLoad q (imageOp s d t kind image) = endImage q (imageOp s d t kind image) 0x53 := by
  have hfind' : findImage q (imageOp s d t kind image).fn (imageOp s d t kind image).imageId = none := (findImage_queued hq _ _).trans hfind
  unfold startLoad
  rw [hfind']

theorem runDelete_absent (hfind : findImage s ((ctxFn s d.ctx).getD 0) (dbits d.w20 0 32) = none) :
    runDelete q (imageOp s d t kind image) = endImage q (imageOp s d t kind image) 0x53 := by
  have hfind' : findImage q (imageOp s d t kind image).fn (imageOp s d t kind image).imageId = none := (findImage_queued hq _ _).trans hfind
  unfold runDelete
  rw [hfind']

theorem imageNamed_queued (f id : Nat) : imageNamed q f id = imageNamed s f id := by
  simp only [imageNamed, admittedPlans, hq.plans, ctxFn_queued hq]

theorem runDelete_named {i : StoredImage} (hfind : findImage s ((ctxFn s d.ctx).getD 0) (dbits d.w20 0 32) = some i)
    (hnamed : imageNamed s ((ctxFn s d.ctx).getD 0) (dbits d.w20 0 32) = true) :
    runDelete q (imageOp s d t kind image) = endImage q (imageOp s d t kind image) 0x16 := by
  have hfind' : findImage q (imageOp s d t kind image).fn (imageOp s d t kind image).imageId = some i := (findImage_queued hq _ _).trans hfind
  have hnamed' : imageNamed q (imageOp s d t kind image).fn (imageOp s d t kind image).imageId = true := (imageNamed_queued hq _ _).trans hnamed
  unfold runDelete
  rw [hfind']
  exact if_pos (by rw [hnamed', Bool.or_true])

end

/-- R378: the image and its loads have left the attic. -/
def imageDropped (g : State) (f id : Nat) : State :=
  let s1 := unloadImages g (fun l => l.fn == f && l.imageId == id)
  { s1 with attic := { s1.attic with images := s1.attic.images.filter (fun i => !(i.fn == f && i.imageId == id)) } }

theorem findImage_dropped {g u : State} {f id : Nat} (h : u.attic.images = (imageDropped g f id).attic.images) : findImage u f id = none := by
  rw [findImage, h]
  exact List.find?_eq_none.mpr fun i hi => by simpa [Classical.or_iff_not_imp_left] using (List.mem_filter.mp hi).2

/-- R378: the delete of an image that no plan names and no load moves. -/
theorem runDelete_frees {kind : Nat} {image : List Byte} {i : StoredImage}
    (hq : Queued s q d o t .image (withOp s (imageOp s d t kind image))) (hf : fetches s d t) (he : entryFree s d.ctx) (hidle : idle s)
    (hfind : findImage s ((ctxFn s d.ctx).getD 0) (dbits d.w20 0 32) = some i)
    (hfree : imageNamed s ((ctxFn s d.ctx).getD 0) (dbits d.w20 0 32) = false)
    (hstill : s.attic.loaded.any (fun l => l.fn == (ctxFn s d.ctx).getD 0 && l.imageId == dbits d.w20 0 32 && !l.resident) = false) :
    completesAs s (runDelete q (imageOp s d t kind image)) d t (descEntry s d o t 0x00 0)
    ∧ findImage (runDelete q (imageOp s d t kind image)) ((ctxFn s d.ctx).getD 0) (dbits d.w20 0 32) = none
    ∧ settle (runDelete q (imageOp s d t kind image)) = runDelete q (imageOp s d t kind image) := by
  have hfind' : findImage q (imageOp s d t kind image).fn (imageOp s d t kind image).imageId = some i := (findImage_queued hq _ _).trans hfind
  have hfree' : imageNamed q (imageOp s d t kind image).fn (imageOp s d t kind image).imageId = false := (imageNamed_queued hq _ _).trans hfree
  have hstill' : q.attic.loaded.any (fun l =>
      l.fn == (imageOp s d t kind image).fn && l.imageId == (imageOp s d t kind image).imageId && !l.resident) = false := by
    rw [hq.attic]; exact hstill
  have hrun : runDelete q (imageOp s d t kind image)
      = endImage (imageDropped q ((ctxFn s d.ctx).getD 0) (dbits d.w20 0 32)) (imageOp s d t kind image) 0x00 := by
    unfold runDelete
    rw [hfind']
    exact if_neg (by rw [hstill', hfree']; decide)
  have hidle' : idle (imageDropped q ((ctxFn s d.ctx).getD 0) (dbits d.w20 0 32)) := idle_of_ctxs (s := q) rfl (idle_queued hq hidle rfl)
  have hlike : likeOpened s (imageDropped q ((ctxFn s d.ctx).getD 0) (dbits d.w20 0 32)) d t o .image := by
    have hlike := likeOpened_queued hq
    exact hlike
  obtain ⟨hdone, hattic, hsettle⟩ := endImage_completes (g := imageDropped q ((ctxFn s d.ctx).getD 0) (dbits d.w20 0 32))
    (op := imageOp s d t kind image) (code := 0x00) hf he hidle' hlike hq.tags hq.mem hq.plans rfl rfl
  rw [hrun]
  have himages : (endImage (imageDropped q ((ctxFn s d.ctx).getD 0) (dbits d.w20 0 32)) (imageOp s d t kind image) 0x00).attic.images
      = (imageDropped q ((ctxFn s d.ctx).getD 0) (dbits d.w20 0 32)).attic.images := by
    rw [hattic]
    rfl
  exact ⟨hdone, findImage_dropped himages, hsettle⟩

/-! ## O45: the attic's controller reports -/

/-- A context that can take the entry of an open descriptor now. -/
theorem canPost_now (halive : alive s = true) (hrings : ringsPaused s = false) {c : Nat} (he : entryFree s c) : canPost s c :=
  ⟨alive_failstop halive, he.2, he.1, hrings⟩

/-- R374: the store's image is held, and its operation has left. -/
def stored (s : State) (op : ImageOp) : State :=
  { s with attic := { s.attic with images := s.attic.images ++ [storedImage op], imageOps := [] } }

theorem storeComplete_stores {op : ImageOp} {p : OpenDesc} (hidle : idle s) (hpost : canPost s op.desc.ctx) (hops : s.attic.imageOps = [op])
    (hstarted : op.started = true) (hopen : (getCtx s op.desc.ctx).opens.find? (fun w => w.tag == op.tag) = some p) :
    storeComplete s op.fn op.imageId = closeOpen (stored s op) op.desc.ctx p 0x00 0 := by
  have hfind : s.attic.imageOps.find? (fun o => o.started && o.fn == op.fn && o.imageId == op.imageId) = some op := by
    rw [hops]; simp [hstarted]
  have hended : opEnded { s with attic := { s.attic with images := s.attic.images ++ [storedImage op] } } op = stored s op := by
    simp [opEnded, stored, hops, sameOp_self]
  have hend : endImage { s with attic := { s.attic with images := s.attic.images ++ [storedImage op] } } op 0x00
      = closeOpen (stored s op) op.desc.ctx p 0x00 0 := by
    rw [endImage_of_open (by exact hopen), hended]
  have hpost' : canPost (stored s op) op.desc.ctx := hpost
  have hnone : (closeOpen (stored s op) op.desc.ctx p 0x00 0).attic.imageOps = [] :=
    congrArg Attic.imageOps (keep_attic (closeOpen_keeps (stored s op) op.desc.ctx p 0x00 0))
  unfold storeComplete
  rw [hfind]
  dsimp only
  rw [hend, nextImages, hnone]
  exact settle_of_idle (idle_closeOpen hpost' (idle_of_ctxs (s := s) rfl hidle))

theorem endLoad_closes {g : State} {l : Loaded} {p : OpenDesc} {code : Nat}
    (hopen : (getCtx g l.ctx).opens.find? (fun w => l.tag == some w.tag) = some p) : endLoad g l code = closeOpen g l.ctx p code 0 := by
  rw [endLoad, hopen]

/-- R375: the payload has landed. -/
def landed (s : State) (c id : Nat) (l : Loaded) (i : StoredImage) : State :=
  { s with
    mem := landImage s.mem l.extents ((imgPlain s i.bytes).getD []),
    attic := { s.attic with loaded := updFirst (sameLoad c id) markResident s.attic.loaded } }

/-- R377: the image is unusable, its load gone, and the record logged. -/
def marred (s : State) (c id b : Nat) (l : Loaded) : State :=
  let s1 := unloadImages s (sameLoad c id)
  logFault { s1 with attic := { s1.attic with images := updFirst (fun i => i.fn == l.fn && i.imageId == id) markCorrupt s1.attic.images } }
    { code := 0x010A, ctx := some c, d0 := id, d1 := b }

/-- R377: the plans that name the image are withdrawn too. -/
def spoiled (s : State) (c id b : Nat) (l : Loaded) : State := withdrawImage (marred s c id b l) l.fn id

theorem withdrawImage_keeps (g : State) (f id : Nat) : Keep { plans := true } g (withdrawImage g f id) := withdrawImage_keep rfl (keep_refl _ _)

theorem find_updFirst {A : Type} {p : A → Bool} {f : A → A} (hp : ∀ x, p x = true → p (f x) = true) {x : A} :
    ∀ {l : List A}, l.find? p = some x → (updFirst p f l).find? p = some (f x)
  | [], h => nomatch h
  | y :: l, h => by
    unfold updFirst
    cases hy : p y with
    | true =>
      rw [List.find?_cons_of_pos hy] at h
      obtain rfl := Option.some.inj h
      rw [if_pos rfl, List.find?_cons_of_pos (hp y hy)]
    | false =>
      rw [List.find?_cons_of_neg (by simp [hy])] at h
      rw [if_neg (by simp), List.find?_cons_of_neg (by simp [hy])]
      exact find_updFirst hp h

theorem loadComplete_lands {c id : Nat} {l : Loaded} {i : StoredImage} {p : OpenDesc} (hidle : idle s) (hpost : canPost s l.ctx)
    (hload : s.attic.loaded.find? (sameLoad c id) = some l) (hfind : findImage s l.fn id = some i)
    (hopen : (getCtx s l.ctx).opens.find? (fun w => l.tag == some w.tag) = some p) :
    loadComplete s c id none = closeOpen (landed s c id l i) l.ctx p 0x00 0 := by
  have hpost' : canPost (landed s c id l i) l.ctx := hpost
  unfold loadComplete
  rw [hload]
  dsimp only
  rw [hfind]
  have hend := endLoad_closes (g := landed s c id l i) (code := 0x00) hopen
  refine (congrArg settle hend).trans (settle_of_idle (idle_closeOpen hpost' (idle_of_ctxs (s := s) rfl hidle)))

theorem loadComplete_spoils {c id b : Nat} {l : Loaded} {i : StoredImage} {p : OpenDesc} (hidle : idle s) (hpost : canPost (spoiled s c id b l) l.ctx)
    (hload : s.attic.loaded.find? (sameLoad c id) = some l) (hfind : findImage s l.fn id = some i)
    (hctxs : (spoiled s c id b l).ctxs = s.ctxs)
    (hopen : (getCtx s l.ctx).opens.find? (fun w => l.tag == some w.tag) = some p) :
    loadComplete s c id (some b) = closeOpen (spoiled s c id b l) l.ctx p 0x50 0 := by
  have hopen' : (getCtx (spoiled s c id b l) l.ctx).opens.find? (fun w => l.tag == some w.tag) = some p := by
    rw [getCtx_of_ctxs hctxs]; exact hopen
  unfold loadComplete
  rw [hload]
  dsimp only
  rw [hfind]
  have hend := endLoad_closes (g := spoiled s c id b l) (code := 0x50) hopen'
  refine (congrArg settle hend).trans (settle_of_idle (idle_closeOpen hpost (idle_of_ctxs hctxs hidle)))

theorem spoiled_attic (s : State) (c id b : Nat) (l : Loaded) : (spoiled s c id b l).attic
    = { s.attic with loaded := s.attic.loaded.filter (fun w => !sameLoad c id w),
                     images := updFirst (fun i => i.fn == l.fn && i.imageId == id) markCorrupt s.attic.images } :=
  StateParts.keep_attic (withdrawImage_keeps (marred s c id b l) l.fn id)

theorem spoiled_flog (s : State) (c id b : Nat) (l : Loaded) :
    (spoiled s c id b l).flog = logEvent s { code := 0x010A, ctx := some c, d0 := id, d1 := b } :=
  StateParts.keep_flog (withdrawImage_keeps (marred s c id b l) l.fn id)

theorem spoiled_keeps (s : State) (c id b : Nat) (l : Loaded) : Keep { plans := true, limbo := true, attic := true, flog := true } s (spoiled s c id b l) :=
  have hunload : Keep { plans := true, limbo := true, attic := true, flog := true } s (unloadImages s (sameLoad c id)) :=
    unloadImages_keep rfl (keep_refl _ _)
  withdrawImage_keep rfl (logFault_keep rfl (by exact hunload))

/-! ## O45: the statement -/

/-- R115: the descriptor's operation starts on the state that has queued it. -/
theorem runDesc_image {rsv : Bool} (hnone : s.attic.imageOps = []) (hacc : accepts s d t o) (hrsv : rsv = false) (kind : Nat) (image : List Byte) :
    ∃ q, Queued s q d o t .image (withOp s (imageOp s d t kind image))
      ∧ runDesc s d o rsv (fun s t => imageDesc s d o kind image t) = settle (match kind with
        | 0 => startStore q (imageOp s d t kind image)
        | 1 => startLoad q (imageOp s d t kind image)
        | _ => runDelete q (imageOp s d t kind image)) := by
  obtain ⟨q, hq, hstarts⟩ := imageDesc_starts (d := d) (t := t) (o := o) (kind := kind) (image := image) hnone
  exact ⟨q, hq, by rw [runDesc_runs hacc.1 (accepts_ok hacc hrsv), hstarts]⟩

theorem imageReserved_zero {store : Bool} (hbody : dbits d.w20 32 32 = 0) (hzero : [d.w28, d.w30, d.w38] = [0, 0, 0])
    (hsrc : store = false → [d.w10, d.w18] = [0, 0]) : imageReserved d store = false := by
  cases store with
  | true => rw [imageReserved, bits_ne_false hbody, bodyZero_of_eq (n := 3) hzero]; rfl
  | false => rw [imageReserved, bits_ne_false hbody, bodyZero_of_eq (n := 3) hzero, bodyZero_of_eq (n := 2) (hsrc rfl)]; rfl

/-- A queued operation that only holds the attic's list does not keep the state from settling. -/
theorem opens_queued {a : Attic} (hq : Queued s q d o t .image (withOp s (imageOp s d t kind image))) (hacc : accepts s d t o) :
    opensAs s (settle { q with attic := a }) d t o .image ∧ (settle { q with attic := a }).attic = a := by
  have hidle : idle { q with attic := a } := idle_of_ctxs (s := q) rfl (idle_queued hq hacc.2.2.1 rfl)
  rw [settle_of_idle hidle]
  exact ⟨opensAs_queued (queued_attic hq a) hacc.1 hacc.2.1, rfl⟩

theorem ends_queued {code : Nat} (hq : Queued s q d o t .image (withOp s (imageOp s d t kind image))) (hacc : accepts s d t o)
    (hnone : s.attic.imageOps = []) :
    completesAs s (settle (endImage q (imageOp s d t kind image) code)) d t (descEntry s d o t code 0)
    ∧ (settle (endImage q (imageOp s d t kind image) code)).attic = s.attic := by
  obtain ⟨hdone, hattic, hsettle⟩ := endImage_queued (code := code) hq hacc.1 hacc.2.1 hacc.2.2.1 hnone
  rw [hsettle]
  exact ⟨hdone, hattic⟩

end

/-- Settles O45: an operation that finds nothing under way starts in the command that fetches its descriptor. -/
theorem images : Obligations.Images := by
  unfold Obligations.Images
  refine ⟨?_, ?_, ?_⟩
  · intro d image t s hbody hzero hidle hnone g fn id op completes same
    refine ⟨fun hacc => ?_, fun hacc hsrc => ?_, fun hacc hsrc => ?_⟩
    · obtain ⟨q, hq, hrun⟩ := runDesc_image hnone hacc (imageReserved_zero (store := true) hbody hzero nofun) 0 image
      have hexec : exec (.imageStore d image) s = .next (settle (startStore q (imageOp s d t 0 image))) := congrArg Host.Outcome.next hrun
      refine ⟨fun hcode => ?_, fun hcode => ?_⟩
      · have hstart := startStore_good hq ((storeCode_queued hq hnone).trans hcode)
        obtain ⟨hopens, hattic⟩ := opens_queued (a := { s.attic with imageOps := [beginOp (imageOp s d t 0 image)] }) hq hacc
        rw [hstart] at hexec
        exact ⟨_, hexec, hopens, by rw [hattic]; rfl, by rw [hattic]⟩
      · have hcode' : storeCode q (imageOp s d t 0 image) ≠ 0 := by rw [storeCode_queued hq hnone]; exact hcode
        obtain ⟨hdone, hattic⟩ := ends_queued (code := storeCode q (imageOp s d t 0 image)) hq hacc hnone
        rw [startStore_bad hcode'] at hexec
        rw [storeCode_queued hq hnone] at hdone hattic hexec
        exact ⟨_, hexec, hattic, hdone⟩
    · obtain ⟨q, hq, hrun⟩ := runDesc_image hnone hacc (imageReserved_zero (store := false) hbody hzero fun _ => hsrc) 1 []
      have hexec : exec (.imageLoad d) s = .next (settle (startLoad q (imageOp s d t 1 []))) := congrArg Host.Outcome.next hrun
      refine ⟨fun hfind => ?_, fun i es hfind hnew hallow hgood hquota halloc => ?_, fun i hfind hthere => ?_⟩
      · obtain ⟨hdone, hattic⟩ := ends_queued (code := 0x53) hq hacc hnone
        rw [startLoad_absent hq hfind] at hexec
        exact ⟨_, hexec, hattic, hdone⟩
      · have hstart := startLoad_good hq hacc.1.2.1 hfind hnew hallow hgood hquota halloc
        rw [hstart] at hexec
        obtain ⟨hopens, hattic⟩ := opens_queued (a := _) hq hacc
        exact ⟨_, hexec, hopens, by rw [hattic]⟩
      · obtain ⟨hdone, hattic⟩ := ends_queued (code := 0x00) hq hacc hnone
        rw [startLoad_loaded hq hfind hthere] at hexec
        exact ⟨_, hexec, hattic, hdone⟩
    · obtain ⟨q, hq, hrun⟩ := runDesc_image hnone hacc (imageReserved_zero (store := false) hbody hzero fun _ => hsrc) 2 []
      have hexec : exec (.imageDelete d) s = .next (settle (runDelete q (imageOp s d t 2 []))) := congrArg Host.Outcome.next hrun
      refine ⟨fun hfind => ?_, fun i hfind hnamed => ?_, fun i hfind hfree hstill => ?_⟩
      · obtain ⟨hdone, hattic⟩ := ends_queued (code := 0x53) hq hacc hnone
        rw [runDelete_absent hq hfind] at hexec
        exact ⟨_, hexec, hattic, hdone⟩
      · obtain ⟨hdone, hattic⟩ := ends_queued (code := 0x16) hq hacc hnone
        rw [runDelete_named hq hfind hnamed] at hexec
        exact ⟨_, hexec, hattic, hdone⟩
      · obtain ⟨hdone, hgone, hsettle⟩ := runDelete_frees hq hacc.1 hacc.2.1 hidle hfind hfree hstill
        rw [hsettle] at hexec
        exact ⟨_, hexec, hgone, hdone⟩
  · intro f id op p s halive hidle hrings hops hstarted hf hid he hopen
    subst hf hid
    have hpost := canPost_now halive hrings he
    have hexec : exec (.imageStoreComplete op.fn op.imageId) s = .next (closeOpen (stored s op) op.desc.ctx p 0x00 0) :=
      congrArg Host.Outcome.next ((if_pos halive).trans (storeComplete_stores hidle hpost hops hstarted hopen))
    have hpost' : canPost (stored s op) op.desc.ctx := hpost
    have hattic := keep_attic (closeOpen_keeps (stored s op) op.desc.ctx p 0x00 0)
    exact ⟨_, hexec, by rw [hattic]; rfl, by rw [hattic]; rfl, by rw [getCtx_closeOpen hpost']; rfl⟩
  · intro c id l i p s halive hidle hrings hload hfind he hopen
    have hpost := canPost_now halive hrings he
    refine ⟨?_, fun b => ?_⟩
    · have hexec : exec (.imageLoadComplete c id none) s = .next (closeOpen (landed s c id l i) l.ctx p 0x00 0) :=
        congrArg Host.Outcome.next ((if_pos halive).trans (loadComplete_lands hidle hpost hload hfind hopen))
      have hpost' : canPost (landed s c id l i) l.ctx := hpost
      have hattic := keep_attic (closeOpen_keeps (landed s c id l i) l.ctx p 0x00 0)
      have hmem := keep_mem (closeOpen_keeps (landed s c id l i) l.ctx p 0x00 0)
      exact ⟨_, hexec, by rw [hmem]; rfl, by rw [hattic]; rfl, by rw [getCtx_closeOpen hpost']; rfl⟩
    · have hkeep := spoiled_keeps s c id b l
      have hctxs := keep_ctxs hkeep
      have hdev := keep_dev hkeep
      have hrecov := keep_recov hkeep
      have hmem := keep_mem hkeep
      have hpost' : canPost (spoiled s c id b l) l.ctx := by
        obtain ⟨hstop, hholds, hfree, hpaused⟩ := hpost
        refine ⟨(congrArg Dev.failstop hdev).trans hstop, ?_, ?_, (ringsPaused_of_recov hrecov).trans hpaused⟩
        · rw [getCtx_of_ctxs hctxs]; exact hholds
        · rw [cqFree, getCtx_of_ctxs hctxs]; exact hfree
      have hexec : exec (.imageLoadComplete c id (some b)) s = .next (closeOpen (spoiled s c id b l) l.ctx p 0x50 0) :=
        congrArg Host.Outcome.next ((if_pos halive).trans (loadComplete_spoils hidle hpost' hload hfind hctxs hopen))
      have hclosed := closeOpen_keeps (spoiled s c id b l) l.ctx p 0x50 0
      have hattic := keep_attic hclosed
      have hflog := keep_flog hclosed
      have hmem' := keep_mem hclosed
      refine ⟨_, hexec, ?_, by rw [hattic, spoiled_attic], hmem'.trans hmem, hflog.trans (spoiled_flog ..)⟩
      rw [findImage, hattic, spoiled_attic]
      exact find_updFirst (p := fun i : StoredImage => i.fn == l.fn && i.imageId == id) (f := markCorrupt) (fun _ h => h) hfind

end Sys2Proof.Proofs.AtticOps
end

section
/-! PROOFS. O46: firmware and configuration updates (R116, R431, R435), attestation (R117, R381). -/
namespace Sys2Proof.Proofs.Updates

open Sys2Proof Sys2Proof.Machine Sys2Proof.Laws
open Sys2Proof.Proofs.StateParts Sys2Proof.Proofs.DescBasics Sys2Proof.Proofs.AtticOps
open Sys2Proof.Proofs.DescPlans (bodyZero_of_eq bits_ne_false)

/-! ## An update that ends -/

/-- R98: an entry, written, held or dropped, leaves no context with anything to settle. -/
theorem idle_postEntry {g : State} {c : Nat} {e : CEntry} (h : idle g) : idle (postEntry g c e) := by
  unfold postEntry
  dsimp only
  split
  · exact idle_of_ctxs rfl h
  · split
    · exact idle_writeEntry h
    · obtain ⟨hstate, hopens, hstreams⟩ := quiet_getCtx h c
      exact idle_setCtx h ⟨hstate, hopens, hstreams⟩

theorem idle_closeOpen_any {g : State} {c code aux : Nat} {p : OpenDesc} (h : idle g) : idle (closeOpen g c p code aux) :=
  idle_postEntry (idle_dropOpen h)

/-- R454: the update has left the attic's list, with its code. -/
def updateEnded (g : State) (u : Update) (code : Nat) : State :=
  { g with attic := { g.attic with
    updates := g.attic.updates.filter (fun v => !(v.ctx == u.ctx && v.tag == u.tag)), fwOp := 0, fwSlot := false, fwLast := code } }

theorem endUpdate_of_open {g : State} {u : Update} {p : OpenDesc} {code : Nat}
    (hopen : (getCtx g u.ctx).opens.find? (fun o => o.tag == u.tag) = some p) :
    endUpdate g u code = closeOpen (updateEnded g u code) u.ctx p code 0 := by
  show (match (getCtx g u.ctx).opens.find? (fun o => o.tag == u.tag) with
    | none => updateEnded g u code
    | some o => closeOpen (updateEnded g u code) u.ctx o code 0) = _
  rw [hopen]

theorem endUpdate_cases (g : State) (u : Update) (code : Nat) :
    endUpdate g u code = updateEnded g u code ∨ ∃ p, endUpdate g u code = closeOpen (updateEnded g u code) u.ctx p code 0 := by
  show (match (getCtx g u.ctx).opens.find? (fun o => o.tag == u.tag) with
    | none => updateEnded g u code
    | some o => closeOpen (updateEnded g u code) u.ctx o code 0) = updateEnded g u code ∨ ∃ p,
      (match (getCtx g u.ctx).opens.find? (fun o => o.tag == u.tag) with
      | none => updateEnded g u code
      | some o => closeOpen (updateEnded g u code) u.ctx o code 0) = closeOpen (updateEnded g u code) u.ctx p code 0
  cases (getCtx g u.ctx).opens.find? (fun o => o.tag == u.tag) with
  | none => exact .inl rfl
  | some p => exact .inr ⟨p, rfl⟩

theorem idle_endUpdate {g : State} {u : Update} {code : Nat} (h : idle g) : idle (endUpdate g u code) := by
  have hended : idle (updateEnded g u code) := idle_of_ctxs (s := g) rfl h
  rcases endUpdate_cases g u code with heq | ⟨p, heq⟩ <;> rw [heq]
  · exact hended
  · exact idle_closeOpen_any hended

theorem endUpdate_entry_keeps (g : State) (u : Update) (code : Nat) :
    Keep { fns := true, ctxs := true, tags := true, host := true } (updateEnded g u code) (endUpdate g u code) := by
  rcases endUpdate_cases g u code with heq | ⟨p, heq⟩ <;> rw [heq]
  · exact keep_refl _ _
  · exact closeOpen_keeps _ _ _ _ _

theorem endUpdate_attic (g : State) (u : Update) (code : Nat) : (endUpdate g u code).attic = (updateEnded g u code).attic :=
  StateParts.keep_attic (endUpdate_entry_keeps g u code)

theorem filter_self_update (u : Update) : [u].filter (fun v => !(v.ctx == u.ctx && v.tag == u.tag)) = [] := by simp

/-! ## The next update -/

/-- R454: with no update writing, OP is 0. -/
def opZero (g : State) : State := { g with attic := { g.attic with fwOp := 0, fwSlot := false } }

theorem idleUpdates_opZero {g : State} (h : g.attic.updates.any (·.started) = false) : idleUpdates g = opZero g := by
  rw [idleUpdates, h]
  rfl

theorem nextUpdate_none {g : State} (h : g.attic.updates = []) : ∀ k, nextUpdate g k = g
  | 0 => rfl
  | k + 1 => by
    rw [nextUpdate, h]
    rfl

theorem nextUpdate_busy {g : State} (h : g.attic.updates.any (·.started) = true) : ∀ k, nextUpdate g k = g
  | 0 => rfl
  | k + 1 => by rw [nextUpdate, if_pos h]

theorem nextUpdates_none {g : State} (h : g.attic.updates = []) : nextUpdates g = opZero g := by
  have hidle : idleUpdates g = opZero g := idleUpdates_opZero (by rw [h]; rfl)
  have hnone : (opZero g).attic.updates = [] := h
  rw [nextUpdates, hidle, nextUpdate_none hnone]

theorem nextUpdates_one {g : State} {u : Update} (h : g.attic.updates = [u]) (hwaits : u.started = false) :
    nextUpdates g = nextUpdate (startUpdate (opZero g) u) 1 := by
  have hany : g.attic.updates.any (·.started) = false := by rw [h]; simp [hwaits]
  have hidle : idleUpdates g = opZero g := idleUpdates_opZero hany
  have hlist : (opZero g).attic.updates = [u] := h
  rw [nextUpdates, hidle, h]
  show nextUpdate (opZero g) 2 = _
  rw [nextUpdate, hlist]
  simp [hwaits]

/-! ## An update descriptor -/

section
variable {s q : State} {d : Desc} {o t : Nat} {bytes : List Byte}

/-- R116: the update of a descriptor. -/
def updateOf (d : Desc) (o t : Nat) (bytes : List Byte) : Update :=
  { ctx := d.ctx, tag := t, fw := o == 0x18, slot := bitOf d.w20.toNat 0, bytes := bytes.take d.w18.toNat, started := false }

/-- The attic whose only update is this one. -/
def withUpdate (s : State) (u : Update) : Attic := { s.attic with updates := [u] }

theorem update_queues (hnone : s.attic.updates = []) (hfit : o = 0x19 → d.w18 = 5632 ∧ d.w20 = 0) :
    ∃ q, Queued s q d o t .update (withUpdate s (updateOf d o t bytes)) ∧ update (fetched s d t) d o bytes t = nextUpdates q := by
  have hattic : ({ (fetched s d t).attic with updates := (fetched s d t).attic.updates ++ [updateOf d o t bytes] } : Attic)
      = withUpdate s (updateOf d o t bytes) := by
    have hsame : (fetched s d t).attic = s.attic := rfl
    rw [withUpdate, hsame, hnone]
    rfl
  have hlength : ¬(o == 0x19 && (d.w18.toNat ≠ 5632 || d.w20 != 0)) = true := by
    by_cases ho : o = 0x19
    · obtain ⟨hlen, hslot⟩ := hfit ho
      simp [hlen, hslot]
    · simp [ho]
  refine ⟨_, queued_openDesc (withUpdate s (updateOf d o t bytes)), ?_⟩
  unfold update
  rw [if_neg hlength]
  exact congrArg (fun a => nextUpdates { openDesc (fetched s d t) d o t .update with attic := a }) hattic

/-- R454: what the registers show while an update waits is no part of the descriptor. -/
theorem queued_opZero {a : Attic} (h : Queued s q d o t .update a) : Queued s (opZero q) d o t .update { a with fwOp := 0, fwSlot := false } := by
  have hq := queued_attic h { q.attic with fwOp := 0, fwSlot := false }
  rw [h.attic] at hq
  have heq : opZero q = { q with attic := { a with fwOp := 0, fwSlot := false } } := by rw [opZero, h.attic]
  rw [heq]
  exact hq

/-- R431, R435: an update that its checks refuse ends in the command that fetched it. -/
theorem endUpdate_queued {code : Nat} {a : Attic} (hacc : accepts s d t o) (hq : Queued s q d o t .update a)
    (hlist : a.updates = [updateOf d o t bytes]) :
    completesAs s (settle (nextUpdate (endUpdate q (updateOf d o t bytes) code) 1)) d t (descEntry s d o t code 0)
    ∧ (settle (nextUpdate (endUpdate q (updateOf d o t bytes) code) 1)).attic = { a with updates := [], fwOp := 0, fwSlot := false, fwLast := code } := by
  obtain ⟨hf, he, hidle, _⟩ := hacc
  have hopen : (getCtx q (updateOf d o t bytes).ctx).opens.find? (fun v => v.tag == (updateOf d o t bytes).tag) = some (opened d o t .update) := by
    rw [show (updateOf d o t bytes).ctx = d.ctx from rfl, (likeOpened_queued hq).1]
    exact find_opened hf
  have hattic : (endUpdate q (updateOf d o t bytes) code).attic = { a with updates := [], fwOp := 0, fwSlot := false, fwLast := code } := by
    rw [endUpdate_attic, updateEnded, hq.attic, hlist, filter_self_update]
  have hlike : likeOpened s (updateEnded q (updateOf d o t bytes) code) d t o .update := by
    have hlike := likeOpened_queued hq
    exact hlike
  rw [nextUpdate_none (by rw [hattic]), settle_of_idle (idle_endUpdate (idle_queued hq hidle rfl))]
  refine ⟨?_, hattic⟩
  rw [endUpdate_of_open hopen]
  exact completes_closeOpen hf he hlike hq.tags hq.mem hq.plans code

end

/-! ## The start of an update -/

/-- R454: the attic while an update writes. -/
def begun (a : Attic) (u : Update) (op : Nat) : Attic := { a with updates := [beginUpdate u], fwOp := op, fwSlot := u.slot }

/-- The attic with a firmware slot set. -/
def slotSet (a : Attic) (slot : Bool) (b : Option Bundle) : Attic := if slot then { a with slot1 := b } else { a with slot0 := b }

theorem slotSet_same (a : Attic) (slot : Bool) (b : Option Bundle) : (if slot then (slotSet a slot b).slot1 else (slotSet a slot b).slot0) = b := by
  cases slot <;> rfl

theorem slotSet_other (a : Attic) (slot : Bool) (b : Option Bundle) :
    (if !slot then (slotSet a slot b).slot1 else (slotSet a slot b).slot0) = if !slot then a.slot1 else a.slot0 := by
  cases slot <;> rfl

theorem slotSet_updates (a : Attic) (slot : Bool) (b : Option Bundle) : (slotSet a slot b).updates = a.updates := by
  cases slot <;> rfl

theorem setSlot_eq (g : State) (slot : Bool) (b : Option Bundle) : setSlot g slot b = { g with attic := slotSet g.attic slot b } := by
  cases slot <;> rfl

/-- R431, R435: an update that starts; its descriptor stays open. -/
theorem begun_queued {s q : State} {d : Desc} {o t : Nat} {a : Attic} (hacc : accepts s d t o) (hq : Queued s q d o t .update a)
    (b : Attic) (u : Update) (op : Nat) :
    opensAs s (settle (nextUpdate { q with attic := begun b u op } 1)) d t o .update
    ∧ (settle (nextUpdate { q with attic := begun b u op } 1)).attic = begun b u op := by
  have hq' := queued_attic hq (begun b u op)
  have hidle : idle { q with attic := begun b u op } := idle_queued hq' hacc.2.2.1 rfl
  rw [nextUpdate_busy (by simp [begun, beginUpdate]), settle_of_idle hidle]
  exact ⟨opensAs_queued hq' hacc.1 hacc.2.1, rfl⟩

section
variable {g : State} {u : Update}

/-- R435: a bundle is written to a slot that does not run. -/
theorem startUpdate_fw (hfw : u.fw = true) (hlist : g.attic.updates = [u]) (hslot : g.dev.bundle = none ∨ g.dev.slot ≠ u.slot) :
    startUpdate g u = { g with attic := begun (slotSet g.attic u.slot none) u 1 } := by
  have hfree : ¬(g.dev.bundle.isSome && g.dev.slot == u.slot) = true := by
    rcases hslot with hnone | hother
    · simp [hnone]
    · simp [hother]
  unfold startUpdate
  rw [if_pos hfw, if_neg hfree, setSlot_eq]
  simp [begun, slotSet_updates, hlist]

theorem startUpdate_running (hfw : u.fw = true) (hbundle : g.dev.bundle ≠ none) (hslot : g.dev.slot = u.slot) :
    startUpdate g u = endUpdate g u 0x13 := by
  have hruns : (g.dev.bundle.isSome && g.dev.slot == u.slot) = true := by
    simp [hslot, Option.isSome_iff_ne_none, hbundle]
  unfold startUpdate
  rw [if_pos hfw, if_pos hruns]

/-- R431: a configuration copy that passes its checks. -/
theorem startUpdate_cfg (hcfg : u.fw = false) (hlist : g.attic.updates = [u]) (hcode : cfgCode g u.bytes = 0) :
    startUpdate g u = { g with attic := begun g.attic u 2 } := by
  unfold startUpdate
  rw [if_neg (by simp [hcfg]), hcode]
  simp [begun, hlist]

theorem startUpdate_cfg_refused (hcfg : u.fw = false) (hcode : cfgCode g u.bytes ≠ 0) : startUpdate g u = endUpdate g u (cfgCode g u.bytes) := by
  unfold startUpdate
  rw [if_neg (by simp [hcfg])]
  split
  · next hzero => exact absurd hzero hcode
  · rfl

end

/-! ## The completion of an update -/

/-- The list of updates is empty, the attic is otherwise this one but for what the registers show. -/
structure UpdateOver (u : State) (a : Attic) : Prop where
  updates : u.attic.updates = []
  slot0 : u.attic.slot0 = a.slot0
  slot1 : u.attic.slot1 = a.slot1
  cfg0 : u.attic.cfg0 = a.cfg0
  cfg1 : u.attic.cfg1 = a.cfg1
  active : u.attic.active = a.active

section
variable {g : State} {u : Update} {code : Nat}

/-- R454: what `fillSlots` and `fillBoot` refresh is shown, and nothing else. -/
def shows (fill : State → State) : Prop := ∀ g, ∃ x0 x1 svn boot,
  fill g = { g with attic := { g.attic with fwSlot0 := x0, fwSlot1 := x1, fwMinSvn := svn, fwBoot := boot } }

theorem shows_fillSlots : shows fillSlots := fun _ => ⟨_, _, _, _, rfl⟩

theorem shows_fillBoot : shows fillBoot := fun _ => ⟨_, _, _, _, rfl⟩

theorem endUpdate_over {fill : State → State} (hfill : shows fill) (hidle : idle g) (hlist : g.attic.updates = [u]) :
    ∃ v, settle (nextUpdates (fill (endUpdate g u code))) = v ∧ UpdateOver v g.attic ∧ v.pwr = g.pwr ∧ v.links = g.links := by
  have hkeep := endUpdate_entry_keeps g u code
  have hattic := endUpdate_attic g u code
  have hpwr := keep_pwr hkeep
  have hlinks := keep_links hkeep
  have hended : idle (endUpdate g u code) := idle_endUpdate hidle
  obtain ⟨x0, x1, svn, boot, hfilled⟩ := hfill (endUpdate g u code)
  rw [hfilled, hattic]
  have hnone : (updateEnded g u code).attic.updates = [] := by
    rw [updateEnded, hlist]
    exact filter_self_update u
  rw [nextUpdates_none (by exact hnone), settle_of_idle]
  · exact ⟨_, rfl, ⟨hnone, rfl, rfl, rfl, rfl, rfl⟩, hpwr, hlinks⟩
  · exact idle_of_ctxs (s := endUpdate g u code) rfl hended

end

/-! ## The statement -/

theorem updateReserved_zero {d : Desc} (hbody : dbits d.w20 1 63 = 0) (hzero : [d.w28, d.w30, d.w38] = [0, 0, 0]) : updateReserved d = false := by
  rw [updateReserved, bits_ne_false hbody, bodyZero_of_eq (n := 3) hzero]
  rfl

section
variable {s : State} {d : Desc} {t : Nat} {bytes : List Byte}

/-- R116: a descriptor of an update, when the attic has none, starts its update at once. -/
theorem runDesc_update {o : Nat} (hacc : accepts s d t o) (hnone : s.attic.updates = []) (hbody : dbits d.w20 1 63 = 0)
    (hzero : [d.w28, d.w30, d.w38] = [0, 0, 0]) (hfit : o = 0x19 → d.w18 = 5632 ∧ d.w20 = 0) :
    ∃ q, Queued s q d o t .update { withUpdate s (updateOf d o t bytes) with fwOp := 0, fwSlot := false }
      ∧ runDesc s d o (updateReserved d) (fun s t => update s d o bytes t) = settle (nextUpdate (startUpdate q (updateOf d o t bytes)) 1) := by
  obtain ⟨q, hq, hruns⟩ := update_queues (d := d) (t := t) (bytes := bytes) hnone hfit
  refine ⟨opZero q, queued_opZero hq, ?_⟩
  rw [runDesc_runs hacc.1 (accepts_ok hacc (updateReserved_zero hbody hzero)), hruns, nextUpdates_one (by rw [hq.attic]; rfl) rfl]

theorem cfgCode_queued {q : State} {o : Nat} {w : WaitKind} {a : Attic} (hq : Queued s q d o t w a) (h0 : a.cfg0 = s.attic.cfg0)
    (h1 : a.cfg1 = s.attic.cfg1) (hactive : a.active = s.attic.active) (hl0 : a.led0 = s.attic.led0) (hl1 : a.led1 = s.attic.led1)
    (bs : List Byte) : cfgCode q bs = cfgCode s bs := by
  have hcfg : activeCfg q = activeCfg s := by rw [activeCfg, hq.attic, h0, h1, hactive]; rfl
  have howner : ∀ b, ownerMatches q b = ownerMatches s b := fun b => by
    rw [ownerMatches, ledgerCopy, hq.attic, hl0, hl1]; rfl
  have hsigned : ownerSigned q bs = ownerSigned s bs := by unfold ownerSigned; rw [hcfg]; simp only [howner]
  unfold cfgCode
  rw [hcfg, hsigned]

/-- R116, R435: FW_UPDATE. -/
theorem fwUpdate_settles (hnone : s.attic.updates = []) (hbody : dbits d.w20 1 63 = 0) (hzero : [d.w28, d.w30, d.w38] = [0, 0, 0])
    (hacc : accepts s d t 0x18) :
    (s.dev.bundle = none ∨ s.dev.slot ≠ bitOf d.w20.toNat 0 → ∃ u, exec (.fwUpdate d bytes) s = .next u ∧ opensAs s u d t 0x18 .update
      ∧ u.attic.updates = [beginUpdate (updateOf d 0x18 t bytes)] ∧ slotOfBundle u (bitOf d.w20.toNat 0) = none
      ∧ slotOfBundle u (!bitOf d.w20.toNat 0) = slotOfBundle s (!bitOf d.w20.toNat 0))
    ∧ (s.dev.bundle ≠ none → s.dev.slot = bitOf d.w20.toNat 0 → ∃ u, exec (.fwUpdate d bytes) s = .next u
      ∧ completesAs s u d t (descEntry s d 0x18 t 0x13 0) ∧ u.attic.slot0 = s.attic.slot0 ∧ u.attic.slot1 = s.attic.slot1) := by
  obtain ⟨q, hq, hrun⟩ := runDesc_update (bytes := bytes) hacc hnone hbody hzero nofun
  have hexec : exec (.fwUpdate d bytes) s = .next (settle (nextUpdate (startUpdate q (updateOf d 0x18 t bytes)) 1)) := congrArg Host.Outcome.next hrun
  have hlist : q.attic.updates = [updateOf d 0x18 t bytes] := by rw [hq.attic]; rfl
  refine ⟨fun hslot => ?_, fun hbundle hslot => ?_⟩
  · rw [startUpdate_fw rfl hlist (by rw [hq.dev]; exact hslot), hq.attic] at hexec
    obtain ⟨hopens, hattic⟩ := begun_queued hacc hq _ _ _
    refine ⟨_, hexec, hopens, by rw [hattic]; rfl, ?_, ?_⟩
    · rw [slotOfBundle, hattic]
      exact slotSet_same _ _ _
    · rw [slotOfBundle, hattic]
      exact slotSet_other _ _ _
  · rw [startUpdate_running rfl (by rw [hq.dev]; exact hbundle) (by rw [hq.dev]; exact hslot)] at hexec
    obtain ⟨hdone, hattic⟩ := endUpdate_queued (bytes := bytes) (code := 0x13) hacc hq rfl
    exact ⟨_, hexec, hdone, by rw [hattic]; rfl, by rw [hattic]; rfl⟩

/-- R431: CONFIG_UPDATE. -/
theorem configUpdate_settles (hnone : s.attic.updates = []) (hbody : dbits d.w20 1 63 = 0) (hzero : [d.w28, d.w30, d.w38] = [0, 0, 0])
    (hacc : accepts s d t 0x19) (hlen : d.w18 = 5632) (hslot : d.w20 = 0) :
    (cfgCode s (bytes.take 5632) = 0 → ∃ u, exec (.configUpdate d bytes) s = .next u ∧ opensAs s u d t 0x19 .update
      ∧ u.attic.updates = [beginUpdate (updateOf d 0x19 t bytes)] ∧ u.attic.cfg0 = s.attic.cfg0 ∧ u.attic.cfg1 = s.attic.cfg1)
    ∧ (cfgCode s (bytes.take 5632) ≠ 0 → ∃ u, exec (.configUpdate d bytes) s = .next u
      ∧ completesAs s u d t (descEntry s d 0x19 t (cfgCode s (bytes.take 5632)) 0) ∧ activeCfg u = activeCfg s) := by
  obtain ⟨q, hq, hrun⟩ := runDesc_update (bytes := bytes) hacc hnone hbody hzero fun _ => ⟨hlen, hslot⟩
  have hexec : exec (.configUpdate d bytes) s = .next (settle (nextUpdate (startUpdate q (updateOf d 0x19 t bytes)) 1)) :=
    congrArg Host.Outcome.next hrun
  have hlist : q.attic.updates = [updateOf d 0x19 t bytes] := by rw [hq.attic]; rfl
  have hbytes : (updateOf d 0x19 t bytes).bytes = bytes.take 5632 := by
    show bytes.take d.w18.toNat = _
    rw [hlen]
    rfl
  have hcode : cfgCode q (updateOf d 0x19 t bytes).bytes = cfgCode s (bytes.take 5632) := by
    rw [hbytes]
    exact cfgCode_queued hq rfl rfl rfl rfl rfl _
  refine ⟨fun hok => ?_, fun hbad => ?_⟩
  · rw [startUpdate_cfg rfl hlist (hcode.trans hok), hq.attic] at hexec
    obtain ⟨hopens, hattic⟩ := begun_queued hacc hq _ _ _
    exact ⟨_, hexec, hopens, by rw [hattic]; rfl, by rw [hattic]; rfl, by rw [hattic]; rfl⟩
  · rw [startUpdate_cfg_refused rfl (by rw [hcode]; exact hbad), hcode] at hexec
    obtain ⟨hdone, hattic⟩ := endUpdate_queued (bytes := bytes) (code := cfgCode s (bytes.take 5632)) hacc hq rfl
    exact ⟨_, hexec, hdone, by rw [activeCfg, hattic]; rfl⟩

end

/-! ## The statement's completions -/

section
variable {s : State} {u : Update} {ok : Bool}

theorem requalify_if (p : Prop) [Decidable p] (g : State) :
    (if p then requalifyPorts g else g).ctxs = g.ctxs ∧ (if p then requalifyPorts g else g).attic = g.attic := by
  split <;> exact ⟨rfl, rfl⟩

/-- R433, R435: FW_UPDATE_COMPLETE. -/
theorem fwUpdateComplete_settles (halive : alive s = true) (hidle : idle s) (hlist : s.attic.updates = [u]) (hstarted : u.started = true)
    (hfw : u.fw = true) : ∃ v, exec (.fwUpdateComplete ok) s = .next v ∧ v.attic.updates = []
      ∧ slotOfBundle v u.slot = (if bundleSigned u.bytes && ok && bundleFormOk u.bytes && bundleOk s (parseBundle u.bytes)
          then some (parseBundle u.bytes) else none)
      ∧ slotOfBundle v (!u.slot) = slotOfBundle s (!u.slot) := by
  have hfind : s.attic.updates.find? (fun v => v.started && v.fw) = some u := by rw [hlist]; simp [hstarted, hfw]
  have hexec : exec (.fwUpdateComplete ok) s = .next (settle (nextUpdates (fwWritten s u ok))) := by
    refine congrArg Host.Outcome.next ((if_pos halive).trans ?_)
    unfold fwComplete
    rw [hfind]
  obtain ⟨code, g, b, hwritten, hctxs, hattic, hb⟩ : ∃ code g b, fwWritten s u ok = fillSlots (endUpdate (setSlot g u.slot b) u code)
      ∧ g.ctxs = s.ctxs ∧ g.attic = s.attic
      ∧ b = (if bundleSigned u.bytes && ok && bundleFormOk u.bytes && bundleOk s (parseBundle u.bytes) then some (parseBundle u.bytes) else none) := by
    refine ⟨_, _, _, rfl, ?_, ?_, ?_⟩
    · exact (requalify_if _ _).1
    · exact (requalify_if _ _).2
    · cases bundleSigned u.bytes <;> cases ok <;> cases bundleFormOk u.bytes <;> cases bundleOk s (parseBundle u.bytes) <;> rfl
  rw [hwritten, setSlot_eq, hattic] at hexec
  obtain ⟨v, hv, hover, _⟩ := endUpdate_over (g := { g with attic := slotSet s.attic u.slot b }) (u := u) (code := code) shows_fillSlots
    (idle_of_ctxs hctxs hidle) (by rw [slotSet_updates]; exact hlist)
  rw [hv] at hexec
  refine ⟨_, hexec, hover.updates, ?_, ?_⟩
  · rw [slotOfBundle, hover.slot0, hover.slot1, ← hb]
    exact slotSet_same _ _ _
  · rw [slotOfBundle, hover.slot0, hover.slot1]
    exact slotSet_other _ _ _

/-- The attic with the copy that does not run set. -/
def cfgSet (a : Attic) (c : Option Cfg) : Attic := if !a.active then { a with cfg1 := c } else { a with cfg0 := c }

theorem setOwner_cfg (a : Attic) (owner : List Byte) :
    (setOwner a owner).cfg0 = a.cfg0 ∧ (setOwner a owner).cfg1 = a.cfg1 ∧ (setOwner a owner).updates = a.updates := by
  unfold setOwner
  split
  · exact ⟨rfl, rfl, rfl⟩
  · exact ⟨rfl, rfl, rfl⟩

theorem cfgSet_parts (a : Attic) (c : Option Cfg) : (cfgSet a c).updates = a.updates ∧ (cfgSet a c).active = a.active
    ∧ (if a.active then (cfgSet a c).cfg1 else (cfgSet a c).cfg0) = (if a.active then a.cfg1 else a.cfg0)
    ∧ (if !a.active then (cfgSet a c).cfg1 else (cfgSet a c).cfg0) = c := by
  unfold cfgSet
  cases h : a.active <;> simp

/-- R431: the new copy is active, the owner record follows it, and its caps are set. -/
def cfgTaken (s : State) (c : Cfg) : State :=
  lowerCaps (requalifyPorts { s with
    attic := { setOwner (cfgSet s.attic (some c)) (if c.owner.isEmpty then [] else sha512 c.owner) with active := !s.attic.active },
    pwr := { s.pwr with cap := BitVec.ofNat 32 (c.capCont.toNat + c.capExc.toNat * 2 ^ 16) } })

theorem cfgTaken_ctxs (s : State) (c : Cfg) : (cfgTaken s c).ctxs = s.ctxs := rfl

theorem cfgTaken_links (s : State) (c : Cfg) : (cfgTaken s c).links = (requalifyPorts s).links := rfl

theorem cfgTaken_cap (s : State) (c : Cfg) : (cfgTaken s c).pwr.cap = BitVec.ofNat 32 (c.capCont.toNat + c.capExc.toNat * 2 ^ 16) := rfl

theorem cfgComplete_runs (halive : alive s = true) (hlist : s.attic.updates = [u]) (hstarted : u.started = true) (hcfg : u.fw = false) :
    exec (.configUpdateComplete ok) s = .next (settle (nextUpdates (fillBoot (if ok then endUpdate (cfgTaken s (parseCfg u.bytes)) u 0x00
      else endUpdate { s with attic := cfgSet s.attic none } u 0x54)))) := by
  have hfind : s.attic.updates.find? (fun v => v.started && !v.fw) = some u := by rw [hlist]; simp [hstarted, hcfg]
  refine congrArg Host.Outcome.next ((if_pos halive).trans ?_)
  unfold cfgComplete
  rw [hfind]
  cases ok <;> rfl

theorem getPort_requalify {g v : State} (h : v.links = (requalifyPorts g).links) {i : Nat} (hq : (getPort g i).state = .quarantined) :
    (getPort v i).state = .down := by
  have hget : getPort v i = requalify (getPort g i) := by
    rw [getPort, h]
    show (g.links.ports.map requalify).getD i {} = requalify (g.links.ports.getD i {})
    have hdef : requalify ({} : Port) = {} := rfl
    rw [List.getD_eq_getElem?_getD, List.getElem?_map, List.getD_eq_getElem?_getD]
    cases g.links.ports[i]? <;> rfl
  rw [hget, requalify, hq]
  rfl

theorem capWord_toNat (c x : BitVec 10) : (BitVec.ofNat 32 (c.toNat + x.toNat * 2 ^ 16)).toNat = c.toNat + x.toNat * 2 ^ 16 := by
  rw [BitVec.toNat_ofNat, Nat.mod_eq_of_lt]
  have hc := c.isLt
  have hx := x.isLt
  omega

/-- R431: CONFIG_UPDATE_COMPLETE. -/
theorem configUpdateComplete_settles (halive : alive s = true) (hidle : idle s) (hlist : s.attic.updates = [u]) (hstarted : u.started = true)
    (hcfg : u.fw = false) : ∃ v, exec (.configUpdateComplete ok) s = .next v ∧ v.attic.updates = []
      ∧ (ok = true → v.attic.active = !s.attic.active ∧ activeCfg v = some (parseCfg u.bytes)
          ∧ v.pwr.cap.toNat = (parseCfg u.bytes).capCont.toNat + (parseCfg u.bytes).capExc.toNat * 2 ^ 16
          ∧ ∀ i, (getPort s i).state = .quarantined → (getPort v i).state = .down)
      ∧ (ok = false → v.attic.active = s.attic.active ∧ activeCfg v = activeCfg s) := by
  have hexec := cfgComplete_runs (ok := ok) halive hlist hstarted hcfg
  cases ok with
  | true =>
    obtain ⟨hsame0, hsame1, hsameList⟩ := setOwner_cfg (cfgSet s.attic (some (parseCfg u.bytes)))
      (if (parseCfg u.bytes).owner.isEmpty then [] else sha512 (parseCfg u.bytes).owner)
    obtain ⟨hsetList, _, _, hnew⟩ := cfgSet_parts s.attic (some (parseCfg u.bytes))
    obtain ⟨v, hv, hover, hpwr, hlinks⟩ := endUpdate_over (code := 0x00) shows_fillBoot (idle_of_ctxs (cfgTaken_ctxs s (parseCfg u.bytes)) hidle)
      (hsameList.trans (hsetList.trans hlist))
    rw [if_pos rfl, hv] at hexec
    refine ⟨v, hexec, hover.updates, fun _ => ⟨hover.active, ?_, ?_, fun i hi => getPort_requalify (hlinks.trans (cfgTaken_links s _)) hi⟩, nofun⟩
    · rw [activeCfg, hover.active, hover.cfg0, hover.cfg1]
      exact (ite_congr rfl (fun _ => hsame1) fun _ => hsame0).trans hnew
    · rw [hpwr, cfgTaken_cap]
      exact capWord_toNat _ _
  | false =>
    obtain ⟨hsetList, hsetActive, hold, _⟩ := cfgSet_parts s.attic none
    obtain ⟨v, hv, hover, _⟩ := endUpdate_over (g := { s with attic := cfgSet s.attic none }) (code := 0x54) shows_fillBoot
      (idle_of_ctxs (s := s) rfl hidle) (hsetList.trans hlist)
    rw [if_neg (by decide), hv] at hexec
    refine ⟨v, hexec, hover.updates, nofun, fun _ => ⟨hover.active.trans hsetActive, ?_⟩⟩
    rw [activeCfg, hover.active, hover.cfg0, hover.cfg1, hsetActive]
    exact hold

end

/-! ## Attestation -/

section
variable {s : State} {d : Desc} {t : Nat}

/-- R381: the report is in the host's memory. -/
def reported (s : State) (d : Desc) (t : Nat) : State :=
  { fetched s d t with host := hostWrite s.host d.w10.toNat (attestReport (fetched s d t) d) }

theorem reported_parts (s : State) (d : Desc) (t : Nat) : (reported s d t).ctxs = (fetched s d t).ctxs ∧ (reported s d t).tags = (fetched s d t).tags
    ∧ (reported s d t).dev.failstop = s.dev.failstop ∧ (reported s d t).recov = s.recov ∧ (reported s d t).tick = s.tick :=
  ⟨rfl, rfl, rfl, rfl, rfl⟩

theorem reported_host (s : State) (d : Desc) (t : Nat) :
    (reported s d t).host = hostWrite s.host d.w10.toNat (attestReport (fetched s d t) d) := by rw [reported]

/-- R117, R381: ATTEST. -/
theorem attest_settles (hacc : accepts s d t 0x1A) (hbody : dbits d.w18 32 32 = 0) (hdata : (getCtx s d.ctx).dataFail = none) :
    (dbits d.w18 0 32 < 4096 → ∃ u, exec (.attest d) s = .next u ∧ completesAs s u d t (descEntry s d 0x1A t 0x13 0))
    ∧ (4096 ≤ dbits d.w18 0 32 → d.noIrq = true → ∃ u, exec (.attest d) s = .next u
      ∧ u.host = hostWrite (hostWrite s.host d.w10.toNat (attestReport (fetched s d t) d))
          ((getCtx s d.ctx).cqBase.toNat + 32 * (getCtx s d.ctx).cq.tail)
          (entryBytes (descEntry s d 0x1A t 0x00 0) (getCtx u d.ctx).sqHead (getCtx s d.ctx).cq.phase)
      ∧ (getCtx u d.ctx).inRing = (getCtx s d.ctx).inRing ++ [t]) := by
  have hacc' := hacc
  obtain ⟨hf, he, hidle, _⟩ := hacc'
  have hfail : (getCtx (fetched s d t) d.ctx).dataFail = none := by rw [getCtx_fetched]; exact hdata
  have hbits : (dbits d.w18 32 32 != 0) = false := bits_ne_false hbody
  refine ⟨fun hshort => ?_, fun hlong hno => ?_⟩
  · have hbody' : withHostData (fetched s d t) d 0x1A t (attest (fetched s d t) d t) = finishDesc (fetched s d t) d 0x1A t 0x13 0 := by
      rw [withHostData, hfail]
      exact if_pos hshort
    exact ⟨_, rfl, runDesc_completes hf he hidle (accepts_ok hacc hbits) hbody'⟩
  · have hbody' : withHostData (fetched s d t) d 0x1A t (attest (fetched s d t) d t) = finishDesc (reported s d t) d 0x1A t 0x00 0 := by
      have hhost : (fetched s d t).host = s.host := rfl
      rw [withHostData, hfail]
      dsimp only
      rw [attest, if_neg (Nat.not_lt.mpr hlong), hhost, reported]
    have hlike : likeFetched s (reported s d t) d t := ⟨getCtx_of_ctxs (s := fetched s d t) (reported_parts ..).1 d.ctx, (reported_parts ..).2⟩
    have hrun : exec (.attest d) s = .next (writeEntry (reported s d t) d.ctx (finishEntry s d 0x1A t 0x00 0)) := by
      have hruns := runDesc_runs (body := fun s t => withHostData s d 0x1A t (attest s d t)) hf (accepts_ok hacc hbits)
      rw [hbody', settle_finishDesc hf he hlike (idle_of_ctxs (s := fetched s d t) rfl (idle_fetched hidle)), finishDesc_writes hf he hlike] at hruns
      exact congrArg Host.Outcome.next hruns
    refine ⟨_, hrun, ?_, ?_⟩
    · have hentry : finishEntry s d 0x1A t 0x00 0 = descEntry s d 0x1A t 0x00 0 := if_neg (by decide)
      rw [writeEntry_host (finishEntry_noIrq.trans hno), getCtx_writeEntry, hlike.1, getCtx_fetched, reported_host, hentry]
      exact rfl
    · rw [getCtx_writeEntry, hlike.1, getCtx_fetched, finishEntry_tag]
      rfl

end

/-- Settles O46: an update of an attic that has none starts, or ends, in the command that fetches its descriptor. -/
theorem updatesAndAttestation : Obligations.UpdatesAndAttestation := by
  unfold Obligations.UpdatesAndAttestation
  refine ⟨?_, ?_, ?_⟩
  · intro d bytes t s hnone hbody hzero u0 slot
    exact ⟨fun hacc => fwUpdate_settles hnone hbody hzero hacc, fun hacc hlen hslot => configUpdate_settles hnone hbody hzero hacc hlen hslot⟩
  · intro u s ok halive hidle hlist hstarted
    exact ⟨fwUpdateComplete_settles halive hidle hlist hstarted, configUpdateComplete_settles halive hidle hlist hstarted⟩
  · intro d t s hacc hbody
    exact ⟨fun hshort hdata => (attest_settles hacc hbody hdata).1 hshort, fun hlong hno hdata => (attest_settles hacc hbody hdata).2 hlong hno⟩

end Sys2Proof.Proofs.Updates
end

section
/-! PROOFS. O47: the parlour's streams (R351, R353, R362, R363, R366). -/
namespace Sys2Proof.Proofs.StreamOps

open Sys2Proof Sys2Proof.Machine Sys2Proof.Laws
open Sys2Proof.Proofs.StateParts Sys2Proof.Proofs.DescBasics
open Sys2Proof.Proofs.RoomWaits (memByte_writeVaMem_out)
open Sys2Proof.Proofs.DescPlans (bodyZero_of_eq bits_ne_false mem_keys_of_ne foldl_once)
open Sys2Proof.Proofs.HostEvents (aGet_map)
open Sys2Proof.Proofs.AtticOps (find_updFirst find_opened)

/-! ## Engines of a state that a descriptor has left as they were -/

theorem mem_aSet_of_mem {V : Type} {l : List (Nat × V)} {k : Nat} {v : V} {p : Nat × V} (h : p ∈ l) :
    p ∈ aSet l k v ∨ aGet l k = some p.2 := by
  induction l with
  | nil => exact absurd h List.not_mem_nil
  | cons q l ih =>
    obtain ⟨k', v'⟩ := q
    unfold aSet
    split
    · exact .inl (List.mem_cons_of_mem _ h)
    · split
      · next heq =>
        rcases List.mem_cons.mp h with rfl | hl
        · exact .inr (by rw [aGet, if_pos (BEq.comm.trans heq)])
        · exact .inl (List.mem_cons_of_mem _ hl)
      · next hne =>
        rcases List.mem_cons.mp h with rfl | hl
        · exact .inl List.mem_cons_self
        · rcases ih hl with hin | hget
          · exact .inl (List.mem_cons_of_mem _ hin)
          · exact .inr (by rw [aGet, if_neg (by rw [BEq.comm]; exact hne)]; exact hget)

section
variable {s : State} {d : Desc} {t : Nat}

/-- A test of the streams that some context has is the same once the descriptor has been fetched. -/
theorem any_streams_fetched (hopen : (getCtx s d.ctx).state = .opened) (p : Stream → Bool) :
    (fetched s d t).ctxs.any (fun c => c.2.streams.any p) = s.ctxs.any (fun c => c.2.streams.any p) := by
  have hctxs : (fetched s d t).ctxs = aSet s.ctxs d.ctx (fetchedCtx (getCtx s d.ctx)) := rfl
  obtain ⟨x, hget⟩ : ∃ x, aGet s.ctxs d.ctx = some x := by
    cases hget : aGet s.ctxs d.ctx with
    | some x => exact ⟨x, rfl⟩
    | none =>
      rw [getCtx, hget] at hopen
      exact absurd hopen (by decide)
  have hx : getCtx s d.ctx = x := by rw [getCtx, hget]; rfl
  rw [hctxs, hx, Bool.eq_iff_iff, List.any_eq_true, List.any_eq_true]
  constructor
  · rintro ⟨c, hc, hp⟩
    rcases mem_aSet hc with rfl | hold
    · exact ⟨_, aGet_mem hget, hp⟩
    · exact ⟨c, hold, hp⟩
  · rintro ⟨c, hc, hp⟩
    rcases mem_aSet_of_mem (k := d.ctx) (v := fetchedCtx x) hc with hin | hsame
    · exact ⟨c, hin, hp⟩
    · have hc2 : x = c.2 := Option.some.inj (hget.symm.trans hsame)
      have hnew : (d.ctx, fetchedCtx x) ∈ aSet s.ctxs d.ctx (fetchedCtx x) :=
        aGet_mem (aGet_aSet_eq)
      exact ⟨_, hnew, by rw [← hc2] at hp; exact hp⟩

theorem freeEngines_fetched (hopen : (getCtx s d.ctx).state = .opened) : freeEngines (fetched s d t) = freeEngines s := by
  unfold freeEngines
  refine congrArg (fun f => List.filter f (List.range 16)) (funext fun e => ?_)
  rw [any_streams_fetched hopen]
  rfl

theorem paOf_fetched (a : Nat) : paOf (fetched s d t) d.ctx a = paOf s d.ctx a := by
  have haddr : (getCtx (fetched s d t) d.ctx).addr = (getCtx s d.ctx).addr := by
    rw [getCtx_fetched]
    rfl
  have htranslate : Machine.translate (fetched s d t) d.ctx a = Machine.translate s d.ctx a := by
    unfold Machine.translate
    rw [haddr]
    rfl
  rw [paOf, htranslate]
  rfl

theorem getStream_fetched (sid : Nat) : getStream (fetched s d t) d.ctx sid = getStream s d.ctx sid := by
  unfold getStream
  rw [getCtx_fetched]
  rfl

/-! ## STREAM_OPEN -/

/-- R363: the stream of the descriptor. -/
def newStream (s : State) (d : Desc) (b : List Byte) : Stream :=
  { sid := dbits d.w18 0 8, params := b, engines := (freeEngines s).take (streamPar b).engines }

/-- R351, R363: the picture buffer is set up and the context has the stream. -/
def streamAdded (s : State) (d : Desc) (t : Nat) (b : List Byte) : State :=
  modCtx (setUpBuffer (fetched s d t) d.ctx (streamPar b)) d.ctx (fun x => { x with streams := x.streams ++ [newStream s d b] })

theorem streamStart_opens {b : List Byte} (hopen : (getCtx s d.ctx).state = .opened) (hcode : streamCode (fetched s d t) d b = 0) :
    streamStart (fetched s d t) d b t = finishDesc (streamAdded s d t b) d 0x30 t 0x00 0 := by
  unfold streamStart streamAdded newStream
  rw [hcode, freeEngines_fetched hopen]
  rfl

theorem streamStart_refuses {b : List Byte} (hcode : streamCode (fetched s d t) d b ≠ 0) :
    streamStart (fetched s d t) d b t = finishDesc (fetched s d t) d 0x30 t (streamCode (fetched s d t) d b) 0 := by
  unfold streamStart
  split
  · next hzero => exact absurd hzero hcode
  · rfl

theorem setUpBuffer_keeps (g : State) (c : Nat) (p : StreamPar) : Keep { free := true, mem := true } g (setUpBuffer g c p) :=
  setUpBuffer_keep rfl (keep_refl _ _)

theorem streamAdded_keeps (s : State) (d : Desc) (t : Nat) (b : List Byte) :
    Keep { free := true, mem := true, ctxs := true } (fetched s d t) (streamAdded s d t b) :=
  modCtx_keep rfl (setUpBuffer_keep rfl (keep_refl _ _))

theorem streamAdded_mem {b : List Byte} : (streamAdded s d t b).mem = (setUpBuffer (fetched s d t) d.ctx (streamPar b)).mem := rfl

theorem getCtx_streamAdded {b : List Byte} : getCtx (streamAdded s d t b) d.ctx
    = { fetchedCtx (getCtx s d.ctx) with streams := (getCtx s d.ctx).streams ++ [newStream s d b] } := by
  have hctxs := keep_ctxs (setUpBuffer_keeps (fetched s d t) d.ctx (streamPar b))
  refine getCtx_setCtx_eq.trans ?_
  rw [getCtx_of_ctxs hctxs, getCtx_fetched]
  rfl

theorem memByte_setUpBuffer {b : List Byte} {q : Nat} (h : ∀ j, j < (streamPar b).dpbLen → paOf s d.ctx ((streamPar b).dpb + j) ≠ some q) :
    memByte (setUpBuffer (fetched s d t) d.ctx (streamPar b)).mem q = memByte s.mem q := by
  refine memByte_writeVaMem_out (b := q) _ _ _ fun j hj => ?_
  rw [RoomWaits.leBytes_length] at hj
  have hpa := h j hj
  rw [← paOf_fetched (t := t)] at hpa
  exact hpa

/-- R98 to R101: the entry of a descriptor that has changed its context's streams and the bytes of a buffer. -/
theorem completes_streams {g : State} {o code : Nat} {l : List Stream} (ho : o ≠ 0x01) (hf : fetches s d t) (he : entryFree s d.ctx)
    (hctx : getCtx g d.ctx = { fetchedCtx (getCtx s d.ctx) with streams := l }) (htags : g.tags = (fetched s d t).tags) (hdev : g.dev = s.dev)
    (hrecov : g.recov = s.recov) (htick : g.tick = s.tick) (hhost : g.host = s.host) (hplans : g.plans = s.plans) :
    finishDesc g d o t code 0 = writeEntry g d.ctx (descEntry s d o t code 0)
    ∧ completesAs s { writeEntry g d.ctx (descEntry s d o t code 0) with mem := s.mem } d t (descEntry s d o t code 0)
    ∧ (getCtx (writeEntry g d.ctx (descEntry s d o t code 0)) d.ctx).streams = l := by
  obtain ⟨hfree, hholds⟩ := id he
  obtain ⟨_, hopened, _, _, hrings, _⟩ := id hf
  have hpost : canPost g d.ctx := by
    refine ⟨(congrArg Dev.failstop hdev).trans (alive_failstop (fetches_alive hf)), ?_, ?_, (ringsPaused_of_recov hrecov).trans hrings⟩
    · rw [hctx]; exact hholds
    · rw [cqFree, hctx]; exact hfree
  have hnew : getCtx (writeEntry g d.ctx (descEntry s d o t code 0)) d.ctx = { fetchedCtx (getCtx s d.ctx) with
      streams := l, cq := ringNext (getCtx s d.ctx).cq (cqSize (getCtx s d.ctx)), inRing := (getCtx s d.ctx).inRing ++ [t] } := by
    rw [getCtx_writeEntry, hctx]
    rfl
  have hmem : getCtx { writeEntry g d.ctx (descEntry s d o t code 0) with mem := s.mem } d.ctx
      = getCtx (writeEntry g d.ctx (descEntry s d o t code 0)) d.ctx := getCtx_of_ctxs rfl _
  have hentry : finishDesc g d o t code 0 = writeEntry g d.ctx (descEntry s d o t code 0) := by
    unfold finishDesc
    dsimp only
    rw [postEntry_writes hpost, if_neg (by simpa using ho)]
    simp only [descEntry, htick]
  refine ⟨hentry, ⟨?_, ?_, ?_, ?_, ?_, ?_, ?_, fun hno => ?_, rfl, ?_⟩, by rw [hnew]⟩
  · rw [hmem, hnew]; rfl
  · rw [hmem, hnew]
  · rw [hmem, hnew]
  · rw [hmem, hnew]; rfl
  · rw [hmem, hnew]; exact hholds
  · rw [hmem, hnew]; exact hopened
  · show (writeEntry g d.ctx (descEntry s d o t code 0)).tags = _
    have htag : (descEntry s d o t code 0).tag = t := rfl
    rw [writeEntry_tags, htag, htags, fetched_tags, List.map_append, map_awaiting_absent (fetches_tagFree hf)]
    simp
  · show (writeEntry g d.ctx (descEntry s d o t code 0)).host = _
    rw [writeEntry_host hno, hmem, hnew, hctx, hhost]
    rfl
  · exact (keep_plans (writeEntry_keeps _ _ _)).trans hplans

theorem streamOpen_settles {params : List Byte} (hacc : accepts s d t 0x30) (hbody : dbits d.w18 8 56 = 0)
    (hzero : [d.w20, d.w28, d.w30, d.w38] = [0, 0, 0, 0]) (hdata : (getCtx s d.ctx).dataFail = none) :
    exec (.streamOpen d params) s = .next (settle (streamStart (fetched s d t) d (padTo params 128) t)) := by
  have hrsv : (dbits d.w18 8 56 != 0 || !bodyZero [d.w20, d.w28, d.w30, d.w38]) = false := by
    rw [bits_ne_false hbody, bodyZero_of_eq (n := 4) hzero]
    rfl
  have hfail : (getCtx (fetched s d t) d.ctx).dataFail = none := by rw [getCtx_fetched]; exact hdata
  have hruns := runDesc_runs (body := fun s t => withHostData s d 0x30 t (streamStart s d (padTo params 128) t)) hacc.1 (accepts_ok hacc hrsv)
  rw [withHostData, hfail] at hruns
  exact congrArg Host.Outcome.next hruns

theorem completesAs_of_mem {u : State} {e : CEntry} (h : completesAs s { u with mem := s.mem } d t e) (hmem : u.mem = s.mem) :
    completesAs s u d t e := by
  have hsame : { u with mem := s.mem } = u := by rw [← hmem]
  rw [hsame] at h
  exact h

theorem idle_streamAdded {b : List Byte} (hidle : idle s) : idle (streamAdded s d t b) := by
  have hbuffer : idle (setUpBuffer (fetched s d t) d.ctx (streamPar b)) :=
    idle_of_ctxs (keep_ctxs (setUpBuffer_keeps (fetched s d t) d.ctx (streamPar b))) (idle_fetched hidle)
  obtain ⟨hstate, hopens, hstreams⟩ := quiet_getCtx hbuffer d.ctx
  refine idle_setCtx hbuffer ⟨hstate, hopens, fun x hx => ?_⟩
  rcases List.mem_append.mp hx with hold | hnew
  · exact hstreams x hold
  · rw [List.mem_singleton.mp hnew]; rfl

/-- R351, R353, R363: STREAM_OPEN, once the checks of every descriptor have passed. -/
theorem streamOpens {params : List Byte} (hacc : accepts s d t 0x30) (hbody : dbits d.w18 8 56 = 0)
    (hzero : [d.w20, d.w28, d.w30, d.w38] = [0, 0, 0, 0]) (hdata : (getCtx s d.ctx).dataFail = none)
    (hcode : streamCode (fetched s d t) d (padTo params 128) = 0) :
    ∃ u, exec (.streamOpen d params) s = .next u ∧ completesAs s { u with mem := s.mem } d t (descEntry s d 0x30 t 0x00 0)
      ∧ (∀ q, (∀ j, j < (streamPar (padTo params 128)).dpbLen → paOf s d.ctx ((streamPar (padTo params 128)).dpb + j) ≠ some q) →
        memByte u.mem q = memByte s.mem q)
      ∧ (getCtx u d.ctx).streams = (getCtx s d.ctx).streams ++ [newStream s d (padTo params 128)] := by
  have hexec := streamOpen_settles (params := params) hacc hbody hzero hdata
  obtain ⟨hf, he, hidle, _⟩ := hacc
  have hkeep := streamAdded_keeps s d t (padTo params 128)
  have htags := keep_tags hkeep
  have hdev := keep_dev hkeep
  have hrecov := keep_recov hkeep
  have htick := keep_tick hkeep
  have hhost := keep_host hkeep
  have hplans := keep_plans hkeep
  obtain ⟨hentry, hdone, hstreams⟩ := completes_streams (g := streamAdded s d t (padTo params 128)) (o := 0x30) (code := 0x00) (by decide) hf he
    getCtx_streamAdded htags hdev hrecov htick hhost hplans
  rw [streamStart_opens hf.2.1 hcode, hentry, settle_of_idle (idle_writeEntry (idle_streamAdded hidle))] at hexec
  refine ⟨_, hexec, hdone, fun q hq => ?_, hstreams⟩
  have hmem := keep_mem (writeEntry_keeps (streamAdded s d t (padTo params 128)) d.ctx (descEntry s d 0x30 t 0x00 0))
  rw [hmem, streamAdded_mem]
  exact memByte_setUpBuffer hq

theorem streamOpen_refused {params : List Byte} (hacc : accepts s d t 0x30) (hbody : dbits d.w18 8 56 = 0)
    (hzero : [d.w20, d.w28, d.w30, d.w38] = [0, 0, 0, 0]) (hdata : (getCtx s d.ctx).dataFail = none)
    (hcode : streamCode (fetched s d t) d (padTo params 128) ≠ 0) :
    ∃ u, exec (.streamOpen d params) s = .next u
      ∧ completesAs s u d t (descEntry s d 0x30 t (streamCode (fetched s d t) d (padTo params 128)) 0)
      ∧ (getCtx u d.ctx).streams = (getCtx s d.ctx).streams := by
  have hexec := streamOpen_settles (params := params) hacc hbody hzero hdata
  obtain ⟨hf, he, hidle, _⟩ := hacc
  rw [streamStart_refuses hcode] at hexec
  obtain ⟨code, hsame⟩ : ∃ code, streamCode (fetched s d t) d (padTo params 128) = code := ⟨_, rfl⟩
  rw [hsame] at hexec ⊢
  obtain ⟨hentry, hdone, hstreams⟩ := completes_streams (g := fetched s d t) (o := 0x30) (code := code) (l := (getCtx s d.ctx).streams)
    (by decide) hf he (getCtx_fetched.trans rfl) rfl rfl rfl rfl rfl rfl
  rw [hentry, settle_of_idle (idle_writeEntry (idle_fetched hidle))] at hexec
  have hmem := keep_mem (writeEntry_keeps (fetched s d t) d.ctx (descEntry s d 0x30 t code 0))
  exact ⟨_, hexec, completesAs_of_mem hdone (hmem.trans rfl), hstreams⟩

/-! ## STREAM_CLOSE -/

/-- R366: a stream that closes with the descriptor of tag t. -/
def closingBy (t : Nat) (x : Stream) : Stream := { x with closing := some t }

/-- R366: the descriptor is open and the stream closes. -/
def streamClosing (s : State) (d : Desc) (t sid : Nat) : State :=
  modStream (openDesc (fetched s d t) d 0x31 t (.streamClose sid)) d.ctx sid (closingBy t)

theorem getCtx_streamClosing {sid : Nat} : getCtx (streamClosing s d t sid) d.ctx
    = { fetchedCtx (getCtx s d.ctx) with
        opens := (getCtx s d.ctx).opens ++ [opened d 0x31 t (.streamClose sid)],
        streams := updFirst (fun x => x.sid == sid) (closingBy t) (getCtx s d.ctx).streams } := by
  refine getCtx_setCtx_eq.trans ?_
  rw [likeOpened_openDesc.1]
  rfl

theorem getCtx_streamClosing_ne {sid c : Nat} (h : c ≠ d.ctx) : getCtx (streamClosing s d t sid) c = getCtx s c :=
  (getCtx_setCtx_ne h).trans ((getCtx_openDesc_ne h).trans (getCtx_fetched_ne h))

theorem streamClosing_keeps (s : State) (d : Desc) (t sid : Nat) :
    Keep { fns := true, ctxs := true } (fetched s d t) (streamClosing s d t sid) :=
  modStream_keep rfl (openDesc_keep rfl (keep_refl _ _))

theorem streamEnd_fetched {sid : Nat} (hidle : idle s) (hsid : sid = dbits d.w10 0 8) : streamEnd (fetched s d t) d t
    = match getStream s d.ctx sid with
      | none => finishDesc (fetched s d t) d 0x31 t 0x13 0
      | some _ => streamClosing s d t sid := by
  subst hsid
  unfold streamEnd
  dsimp only
  rw [getStream_fetched]
  cases hfind : getStream s d.ctx (dbits d.w10 0 8) with
  | none => rfl
  | some st =>
    obtain ⟨_, _, hstreams⟩ := quiet_getCtx hidle d.ctx
    have hopen : st.closing = none := hstreams st (List.mem_of_find?_eq_some hfind)
    simp only [Option.filter, hopen, Option.isNone_none, if_true]
    rfl

/-- The closing stream alone keeps a state from being settled: what its end leaves is what contexts settle to. -/
theorem settlePass_of_streams {g r : State} (h : (g.ctxs.map (·.1)).foldl settleStreams g = r) (hr : settled r) : settlePass g = r := by
  have hclose : (r.ctxs.map (·.1)).foldl (fun s c => if closeDone s c then closeNow s c else s) r = r := foldl_fixed fun c _ =>
    if_neg (by simp [closeDone, (hr c).1])
  have hopens : (r.ctxs.map (·.1)).foldl (fun s c => ((getCtx s c).opens).foldl (fun s o => settleClose s c o) s) r = r :=
    foldl_fixed fun c _ => foldl_fixed (hr c).2.2
  unfold settlePass
  dsimp only
  rw [h, hclose, hopens]

theorem mem_updFirst {A : Type} {p : A → Bool} {f : A → A} {x : A} : ∀ {l : List A}, x ∈ updFirst p f l → x ∈ l ∨ ∃ y ∈ l, p y = true ∧ x = f y
  | [], h => absurd h List.not_mem_nil
  | y :: l, h => by
    unfold updFirst at h
    split at h
    · next hy =>
      rcases List.mem_cons.mp h with rfl | hl
      · exact .inr ⟨y, List.mem_cons_self, hy, rfl⟩
      · exact .inl (List.mem_cons_of_mem _ hl)
    · rcases List.mem_cons.mp h with rfl | hl
      · exact .inl List.mem_cons_self
      · rcases mem_updFirst hl with hin | ⟨z, hz, hp, hx⟩
        · exact .inl (List.mem_cons_of_mem _ hin)
        · exact .inr ⟨z, List.mem_cons_of_mem _ hz, hp, hx⟩

/-- Only the closing stream of the descriptor's context has anything to settle. -/
theorem settleStream_other {c sid n : Nat} (hidle : idle s) (h : c ≠ d.ctx ∨ n ≠ sid) :
    settleStream (streamClosing s d t sid) c n = streamClosing s d t sid := by
  have hquiet : ∀ st ∈ (getCtx s c).streams, st.closing = none := (quiet_getCtx hidle c).2.2
  have hstate : (getCtx s c).state ≠ .closing := (quiet_getCtx hidle c).1
  have hstate' : (getCtx (streamClosing s d t sid) c).state ≠ .closing := by
    by_cases hc : c = d.ctx
    · subst hc; rw [getCtx_streamClosing]; exact hstate
    · rw [getCtx_streamClosing_ne hc]; exact hstate
  have hclosing : ∀ st, (getCtx (streamClosing s d t sid) c).streams.find? (fun x => x.sid == n) = some st → st.closing = none := by
    intro st hfind
    have hmem := List.mem_of_find?_eq_some hfind
    have hsid : st.sid = n := by simpa using List.find?_some hfind
    by_cases hc : c = d.ctx
    · subst hc
      rw [getCtx_streamClosing] at hmem
      rcases mem_updFirst hmem with hold | ⟨y, _, hy, rfl⟩
      · exact hquiet st hold
      · have hysid : y.sid = sid := by simpa using hy
        exact absurd (hsid.symm.trans hysid) (h.resolve_left fun hne => hne rfl)
    · rw [getCtx_streamClosing_ne hc] at hmem
      exact hquiet st hmem
  unfold settleStream
  split
  · rfl
  · next st hfind =>
    rw [if_pos]
    simp [hclosing st hfind, hstate']

theorem find_streamClosing {sid : Nat} {st : Stream} (hfind : getStream s d.ctx sid = some st) :
    (getCtx (streamClosing s d t sid) d.ctx).streams.find? (fun x => x.sid == sid) = some (closingBy t st) := by
  rw [getCtx_streamClosing]
  exact find_updFirst (p := fun x : Stream => x.sid == sid) (f := closingBy t) (fun _ h => h) hfind

/-- R366: a stream with a job that is not held stays. -/
theorem settleStream_busy {sid : Nat} {st : Stream} (hfind : getStream s d.ctx sid = some st) (hbusy : ∃ j ∈ st.jobs, j.held = false) :
    settleStream (streamClosing s d t sid) d.ctx sid = streamClosing s d t sid := by
  have hjobs : (closingBy t st).jobs.any (fun j => !j.held) = true := by
    obtain ⟨j, hj, hheld⟩ := hbusy
    exact List.any_eq_true.mpr ⟨j, hj, by rw [hheld]; rfl⟩
  have hnow := find_streamClosing (t := t) hfind
  have hheld : withdrawHeld (streamClosing s d t sid) d.ctx sid = streamClosing s d t sid := by
    unfold withdrawHeld
    rw [hnow]
    exact if_pos hjobs
  unfold settleStream
  rw [hnow]
  dsimp only
  rw [if_neg (by simp [closingBy]), hheld, if_pos hjobs]

/-- The stream has left the context. -/
def streamGone (g : State) (c sid : Nat) : State :=
  modCtx (modCtx g c (fun x => { x with streams := updFirst (fun t => t.sid == sid) dropHeld x.streams })) c
    (fun x => { x with streams := x.streams.filter (fun t => t.sid != sid) })

/-- The streams that are left. -/
def streamsLeft (t sid : Nat) (l : List Stream) : List Stream :=
  (updFirst (fun x => x.sid == sid) dropHeld (updFirst (fun x => x.sid == sid) (closingBy t) l)).filter (fun x => x.sid != sid)

theorem streamsLeft_old {sid : Nat} {l : List Stream} {x : Stream} (h : x ∈ streamsLeft t sid l) : x ∈ l ∧ x.sid ≠ sid := by
  obtain ⟨hin, hsid⟩ := List.mem_filter.mp h
  have hne : x.sid ≠ sid := by simpa using hsid
  refine ⟨?_, hne⟩
  rcases mem_updFirst hin with hmid | ⟨y, _, hy, rfl⟩
  · rcases mem_updFirst hmid with hold | ⟨y, _, hy, rfl⟩
    · exact hold
    · exact absurd (beq_iff_eq.mp hy) hne
  · exact absurd (beq_iff_eq.mp hy) hne

theorem getCtx_streamGone {sid : Nat} : getCtx (streamGone (streamClosing s d t sid) d.ctx sid) d.ctx
    = { fetchedCtx (getCtx s d.ctx) with
        opens := (getCtx s d.ctx).opens ++ [opened d 0x31 t (.streamClose sid)],
        streams := streamsLeft t sid (getCtx s d.ctx).streams } := by
  refine getCtx_setCtx_eq.trans ?_
  rw [modCtx, getCtx_setCtx_eq, getCtx_streamClosing]
  rfl

theorem getCtx_streamGone_ne {g : State} {c sid b : Nat} (h : b ≠ c) : getCtx (streamGone g c sid) b = getCtx g b :=
  (getCtx_setCtx_ne h).trans (getCtx_setCtx_ne h)

/-- R366: a stream without jobs ends, and with it the descriptor. -/
theorem settleStream_ends {sid : Nat} {st : Stream} (hf : fetches s d t) (hfind : getStream s d.ctx sid = some st) (hjobs : st.jobs = [])
    (hplans : st.plans = []) : settleStream (streamClosing s d t sid) d.ctx sid
      = closeOpen (streamGone (streamClosing s d t sid) d.ctx sid) d.ctx (opened d 0x31 t (.streamClose sid)) 0x00 0 := by
  have hnow := find_streamClosing (t := t) hfind
  have hnone : (closingBy t st).jobs = [] := hjobs
  have hheld : withdrawHeld (streamClosing s d t sid) d.ctx sid
      = modCtx (streamClosing s d t sid) d.ctx (fun x => { x with streams := updFirst (fun t => t.sid == sid) dropHeld x.streams }) := by
    unfold withdrawHeld
    rw [hnow]
    dsimp only
    rw [hnone]
    rfl
  have hitems : ∀ g, keepItems g (closingBy t st) = g := fun g => by
    rw [keepItems, show (closingBy t st).plans = [] from hplans]
    rfl
  have hopen : (closingBy t st).closing.bind (fun tag =>
      (getCtx (streamGone (streamClosing s d t sid) d.ctx sid) d.ctx).opens.find? (fun o => o.tag == tag))
        = some (opened d 0x31 t (.streamClose sid)) := by
    rw [getCtx_streamGone]
    exact find_opened hf
  unfold settleStream
  rw [hnow]
  dsimp only
  rw [if_neg (by simp [closingBy]), hheld, hnone, if_neg (by simp), hitems]
  show (match (closingBy t st).closing.bind (fun tag =>
      (getCtx (streamGone (streamClosing s d t sid) d.ctx sid) d.ctx).opens.find? (fun o => o.tag == tag)) with
    | none => streamGone (streamClosing s d t sid) d.ctx sid
    | some o => closeOpen (streamGone (streamClosing s d t sid) d.ctx sid) d.ctx o 0x00 0) = _
  rw [hopen]

/-- R366: what the end of the stream leaves, with the descriptor's entry. -/
theorem closes_streamGone {sid : Nat} (hf : fetches s d t) (he : entryFree s d.ctx) :
    ∃ r, closeOpen (streamGone (streamClosing s d t sid) d.ctx sid) d.ctx (opened d 0x31 t (.streamClose sid)) 0x00 0 = r
      ∧ completesAs s r d t (descEntry s d 0x31 t 0x00 0) ∧ (getCtx r d.ctx).streams = streamsLeft t sid (getCtx s d.ctx).streams
      ∧ (getCtx r d.ctx).state = .opened ∧ ∀ c, c ≠ d.ctx → getCtx r c = getCtx s c := by
  obtain ⟨g, hg⟩ : ∃ g, streamGone (streamClosing s d t sid) d.ctx sid = g := ⟨_, rfl⟩
  have hctx := getCtx_streamGone (s := s) (d := d) (t := t) (sid := sid)
  rw [hg] at hctx ⊢
  have hother : ∀ c, c ≠ d.ctx → getCtx g c = getCtx s c := fun c hc => by
    rw [← hg, getCtx_streamGone_ne hc, getCtx_streamClosing_ne hc]
  have hkeep : Keep { fns := true, ctxs := true } (fetched s d t) g := by
    rw [← hg]
    exact modCtx_keep rfl (modCtx_keep rfl (streamClosing_keeps s d t sid))
  have htags := keep_tags hkeep
  have hdev := keep_dev hkeep
  have hrecov := keep_recov hkeep
  have htick := keep_tick hkeep
  have hhost := keep_host hkeep
  have hplans := keep_plans hkeep
  have hmem := keep_mem hkeep
  replace hdev : g.dev = s.dev := hdev
  replace hrecov : g.recov = s.recov := hrecov
  replace htick : g.tick = s.tick := htick
  replace hmem : g.mem = s.mem := hmem
  obtain ⟨hfree, hholds⟩ := id he
  obtain ⟨_, hopened, _, _, hrings, _⟩ := id hf
  have hpost : canPost g d.ctx := by
    refine ⟨(congrArg Dev.failstop hdev).trans (alive_failstop (fetches_alive hf)), ?_, ?_, (ringsPaused_of_recov hrecov).trans hrings⟩
    · rw [hctx]; exact hholds
    · rw [cqFree, hctx]; exact hfree
  have hdrop : getCtx (dropOpen g d.ctx t) d.ctx
      = { fetchedCtx (getCtx s d.ctx) with streams := streamsLeft t sid (getCtx s d.ctx).streams } := by
    rw [getCtx_dropOpen, hctx]
    dsimp only
    rw [opens_filter_new hf]
    rfl
  have hentry : openEntry g (opened d 0x31 t (.streamClose sid)) 0x00 0 = descEntry s d 0x31 t 0x00 0 := by
    simp only [openEntry, descEntry, opened, htick]
  obtain ⟨_, hdone, hstreams⟩ := completes_streams (o := 0x31) (code := 0x00) (by decide) hf he hdrop htags hdev hrecov htick hhost hplans
  have hmem' := keep_mem (writeEntry_keeps (dropOpen g d.ctx t) d.ctx (descEntry s d 0x31 t 0x00 0))
  have hcloses : closeOpen g d.ctx (opened d 0x31 t (.streamClose sid)) 0x00 0
      = writeEntry (dropOpen g d.ctx t) d.ctx (descEntry s d 0x31 t 0x00 0) := by
    rw [closeOpen_writes hpost, hentry]
    rfl
  have hdone' := completesAs_of_mem hdone (hmem'.trans hmem)
  refine ⟨_, hcloses, hdone', hstreams, hdone'.2.2.2.2.2.1, fun c hc => ?_⟩
  rw [getCtx_writeEntry_ne hc, getCtx_dropOpen_ne hc, hother c hc]

/-- R366: STREAM_CLOSE of a stream without jobs. -/
theorem streamClose_ends {sid : Nat} {st : Stream} (hf : fetches s d t) (he : entryFree s d.ctx) (hidle : idle s)
    (hfind : getStream s d.ctx sid = some st) (hjobs : st.jobs = []) (hplans : st.plans = []) :
    completesAs s (settle (streamClosing s d t sid)) d t (descEntry s d 0x31 t 0x00 0)
    ∧ getStream (settle (streamClosing s d t sid)) d.ctx sid = none := by
  obtain ⟨r, hr, hdone, hstreams, hstate, hother⟩ := closes_streamGone (sid := sid) hf he
  have hopens : (getCtx r d.ctx).opens = (getCtx s d.ctx).opens := hdone.2.2.2.1
  have hsettled : settled r := fun c => by
    obtain ⟨hquiet, hwaits, hnone⟩ := quiet_getCtx hidle c
    by_cases hc : c = d.ctx
    · subst hc
      rw [hstate, hstreams, hopens]
      exact ⟨by decide, fun x hx => hnone x (streamsLeft_old hx).1, fun o ho => settleClose_of_noCloseWait (hwaits o ho)⟩
    · rw [hother c hc]
      exact ⟨hquiet, hnone, fun o ho => settleClose_of_noCloseWait (hwaits o ho)⟩
  have hfixed : ∀ c, settleStreams r c = r := fun c => foldl_fixed fun n _ => settleStream_of_settled hsettled c n
  have hhere : settleStreams (streamClosing s d t sid) d.ctx = r := by
    refine foldl_once (f := fun g n => settleStream g d.ctx n) (a := sid) (fun n hn => settleStream_other hidle (.inr hn))
      ((settleStream_ends hf hfind hjobs hplans).trans hr) (fun n => settleStream_of_settled hsettled _ n) ?_
    have hmem := List.mem_of_find?_eq_some (find_streamClosing (t := t) hfind)
    have hsid : st.sid = sid := by simpa using List.find?_some hfind
    exact List.mem_map.mpr ⟨_, hmem, hsid⟩
  have hpass : settlePass (streamClosing s d t sid) = r := by
    refine settlePass_of_streams (foldl_once (a := d.ctx) (fun c hc => foldl_fixed fun n _ => settleStream_other hidle (.inl hc)) hhere hfixed ?_) hsettled
    refine mem_keys_of_ne fun h => ?_
    rw [getCtx_streamClosing] at h
    exact absurd (congrArg Ctx.opens h) (by simp)
  have hsettle : settle (streamClosing s d t sid) = r := by
    unfold settle
    rw [hpass, settlePass_of_settled hsettled, settlePass_of_settled hsettled]
  rw [hsettle]
  refine ⟨hdone, ?_⟩
  rw [getStream, hstreams]
  exact List.find?_eq_none.mpr fun x hx => by simpa using (streamsLeft_old hx).2

/-- R366: STREAM_CLOSE of a stream with a job under way. -/
theorem streamClose_waits {sid : Nat} {st : Stream} (hf : fetches s d t) (he : entryFree s d.ctx) (hidle : idle s)
    (hfind : getStream s d.ctx sid = some st) (hbusy : ∃ j ∈ st.jobs, j.held = false) :
    opensAs s (settle (streamClosing s d t sid)) d t 0x31 (.streamClose sid)
    ∧ getStream (settle (streamClosing s d t sid)) d.ctx sid = some (closingBy t st) := by
  have hkeep := streamClosing_keeps s d t sid
  have htags := keep_tags hkeep
  have hhost := keep_host hkeep
  have hmem := keep_mem hkeep
  have hstreams : ((streamClosing s d t sid).ctxs.map (·.1)).foldl settleStreams (streamClosing s d t sid) = streamClosing s d t sid :=
    foldl_fixed fun c _ => foldl_fixed fun n _ => by
      by_cases hc : c = d.ctx
      · by_cases hn : n = sid
        · rw [hc, hn]; exact settleStream_busy hfind hbusy
        · exact settleStream_other hidle (.inr hn)
      · exact settleStream_other hidle (.inl hc)
  have hpass : settlePass (streamClosing s d t sid) = streamClosing s d t sid := by
    have hstate : ∀ c, (getCtx (streamClosing s d t sid) c).state ≠ .closing := fun c => by
      by_cases hc : c = d.ctx
      · subst hc; rw [getCtx_streamClosing]; exact (quiet_getCtx hidle d.ctx).1
      · rw [getCtx_streamClosing_ne hc]; exact (quiet_getCtx hidle c).1
    have hwaits : ∀ c, ∀ o ∈ (getCtx (streamClosing s d t sid) c).opens, noCloseWait o.wait = true := fun c o ho => by
      by_cases hc : c = d.ctx
      · subst hc
        rw [getCtx_streamClosing] at ho
        rcases List.mem_append.mp ho with hold | hnew
        · exact (quiet_getCtx hidle d.ctx).2.1 o hold
        · rw [List.mem_singleton.mp hnew]; rfl
      · rw [getCtx_streamClosing_ne hc] at ho
        exact (quiet_getCtx hidle c).2.1 o ho
    unfold settlePass
    dsimp only
    rw [hstreams, foldl_fixed (f := fun g c => if closeDone g c then closeNow g c else g) fun c _ => if_neg (by simp [closeDone, hstate c])]
    exact foldl_fixed fun c _ => foldl_fixed fun o ho => settleClose_of_noCloseWait (hwaits c o ho)
  have hsettle : settle (streamClosing s d t sid) = streamClosing s d t sid := by
    unfold settle
    rw [hpass, hpass, hpass]
  rw [hsettle]
  exact ⟨opensAs_of hf he ⟨_, getCtx_streamClosing, rfl, rfl, rfl, rfl, rfl⟩ htags (hhost.trans rfl) (hmem.trans rfl), find_streamClosing hfind⟩

end

/-! ## CODEC_ENGINE -/

section
variable {s : State} {e : Nat}

/-- R362: every stream of a context has its failed engine replaced. -/
def swapCtx (e : Nat) (new : Option Nat) (x : Ctx) : Ctx := { x with streams := x.streams.map (swapEngine e new) }

def enginesSwapped (g : State) (e : Nat) (new : Option Nat) : State := { g with ctxs := g.ctxs.map (fun c => (c.1, swapCtx e new c.2)) }

/-- The engine has failed. -/
def engineGone (s : State) (e : Nat) : State := { s with hw := { s.hw with engines := s.hw.engines ++ [e] } }

theorem swapEngine_closing (new : Option Nat) (x : Stream) : (swapEngine e new x).closing = x.closing := by
  unfold swapEngine
  split <;> rfl

theorem swapEngine_engines {n : Nat} {x : Stream} (h : x.engines ≠ []) : (swapEngine e (some n) x).engines ≠ [] := by
  unfold swapEngine
  split
  · simp
  · exact h

theorem swapEngine_absent {new : Option Nat} {x : Stream} (h : x.engines.contains e = false) : swapEngine e new x = x := by
  unfold swapEngine
  rw [h]
  rfl

/-- With an engine in no stream, any replacement leaves the streams as they are. -/
theorem enginesSwapped_unused {g : State} {new : Option Nat} (h : g.ctxs.any (fun c => c.2.streams.any (fun t => t.engines.contains e)) = false) :
    enginesSwapped g e new = g := by
  have hmap : g.ctxs.map (fun c => (c.1, swapCtx e new c.2)) = g.ctxs := by
    refine (List.map_congr_left fun c hc => ?_).trans (List.map_id _)
    have hstreams : c.2.streams.map (swapEngine e new) = c.2.streams := by
      refine (List.map_congr_left fun x hx => ?_).trans (List.map_id _)
      have hnot := List.any_eq_false.mp h c hc
      rw [Bool.not_eq_true, List.any_eq_false] at hnot
      exact swapEngine_absent (Bool.not_eq_true _ ▸ hnot x hx)
    rw [swapCtx, hstreams]
    rfl
  rw [enginesSwapped, hmap]

theorem getCtx_enginesSwapped (g : State) (new : Option Nat) (c : Nat) :
    (getCtx (enginesSwapped g e new) c).streams = (getCtx g c).streams.map (swapEngine e new) := by
  unfold enginesSwapped getCtx
  rw [aGet_map (swapCtx e new)]
  cases aGet g.ctxs c <;> rfl

/-- R362: an engine fails, a free one replaces it, and no stream is left without an engine. -/
theorem engineFail_replaces {n : Nat} {rest : List Nat} (hidle : idle s) (he : e < 16) (hworks : s.hw.engines.contains e = false)
    (hfree : freeEngines (engineGone s e) = n :: rest) (hall : ∀ p ∈ s.ctxs, ∀ st ∈ p.2.streams, st.engines ≠ []) :
    ∃ f, engineFail s e = logFault (enginesSwapped (engineGone s e) e (some n)) f := by
  obtain ⟨new, hnew, hswap⟩ : ∃ new,
      (if s.ctxs.any (fun c => c.2.streams.any (fun t => t.engines.contains e)) then (freeEngines (engineGone s e)).head? else none) = new
      ∧ enginesSwapped (engineGone s e) e new = enginesSwapped (engineGone s e) e (some n) := by
    refine ⟨_, rfl, ?_⟩
    cases hused : s.ctxs.any (fun c => c.2.streams.any (fun t => t.engines.contains e)) with
    | true => rw [if_pos rfl, hfree]; rfl
    | false => rw [if_neg (by simp), enginesSwapped_unused (g := engineGone s e) hused, enginesSwapped_unused (g := engineGone s e) hused]
  refine ⟨{ code := 0x0203, d0 := e, d1 := new.getD 0xFF }, ?_⟩
  obtain ⟨g, hg⟩ : ∃ g, logFault (enginesSwapped (engineGone s e) e (some n)) { code := 0x0203, d0 := e, d1 := new.getD 0xFF } = g := ⟨_, rfl⟩
  have hctxs : g.ctxs = (enginesSwapped s e (some n)).ctxs := by rw [← hg]; rfl
  have hquiet : idle g := fun p hp => by
    rw [hctxs] at hp
    obtain ⟨q, hq, rfl⟩ := List.mem_map.mp hp
    obtain ⟨hstate, hopens, hstreams⟩ := hidle q hq
    refine ⟨hstate, hopens, fun x hx => ?_⟩
    obtain ⟨y, hy, rfl⟩ := List.mem_map.mp hx
    rw [swapEngine_closing]
    exact hstreams y hy
  have hnone : g.ctxs.foldl (fun s c => (c.2.streams.filter (fun t => t.engines.isEmpty)).foldl (fun s t => dropStream s c.1 t) s) g = g :=
    foldl_fixed fun p hp => by
      have hempty : p.2.streams.filter (fun t => t.engines.isEmpty) = [] := List.filter_eq_nil_iff.mpr fun x hx => by
        rw [hctxs] at hp
        obtain ⟨q, hq, rfl⟩ := List.mem_map.mp hp
        obtain ⟨y, hy, rfl⟩ := List.mem_map.mp hx
        simpa using swapEngine_engines (e := e) (n := n) (hall q hq y hy)
      rw [hempty]
      rfl
  unfold engineFail
  rw [if_neg (by simp only [hworks, Bool.or_false, decide_eq_true_eq]; omega)]
  extract_lets used hw s1 new' s2 s3
  have hs3 : s3 = g := by
    rw [← hg, ← hswap, ← hnew]
    rfl
  rw [hs3, hnone, settle_of_idle hquiet, ← hg]

end

/-! ## The statement -/

/-- Settles O47: the stream opens, closes or has its engine replaced within the command. -/
theorem streams : Obligations.Streams := by
  unfold Obligations.Streams
  refine ⟨?_, ?_, ?_⟩
  · intro d params t s hacc hbody hzero hdata b code
    exact ⟨fun hcode => streamOpens hacc hbody hzero hdata hcode, fun hcode => streamOpen_refused hacc hbody hzero hdata hcode⟩
  · intro d t s hacc hbody hzero sid
    obtain ⟨hf, he, hidle, _⟩ := id hacc
    have hrsv : (dbits d.w10 8 56 != 0 || !bodyZero [d.w18, d.w20, d.w28, d.w30, d.w38]) = false := by
      rw [bits_ne_false hbody, bodyZero_of_eq (n := 5) hzero]
      rfl
    have hend := streamEnd_fetched (t := t) hidle (sid := sid) rfl
    refine ⟨fun hfind => ?_, fun st hfind hjobs hplans => ?_, fun st hfind hbusy => ?_⟩
    · rw [hfind] at hend
      exact ⟨_, rfl, runDesc_completes (body := fun s t => streamEnd s d t) hf he hidle (accepts_ok hacc hrsv) hend⟩
    · rw [hfind] at hend
      have hruns := runDesc_runs (body := fun s t => streamEnd s d t) hf (accepts_ok hacc hrsv)
      rw [hend] at hruns
      obtain ⟨hdone, hgone⟩ := streamClose_ends hf he hidle hfind hjobs hplans
      exact ⟨_, congrArg Host.Outcome.next hruns, hdone, hgone⟩
    · rw [hfind] at hend
      have hruns := runDesc_runs (body := fun s t => streamEnd s d t) hf (accepts_ok hacc hrsv)
      rw [hend] at hruns
      obtain ⟨hopens, hstill⟩ := streamClose_waits hf he hidle hfind hbusy
      exact ⟨_, congrArg Host.Outcome.next hruns, hopens, hstill⟩
  · intro e s halive hidle he hworks n rest hfree hall
    obtain ⟨f, hfail⟩ := engineFail_replaces hidle he hworks hfree hall
    refine ⟨_, congrArg Host.Outcome.next ((if_pos halive).trans hfail), rfl, fun c => ?_⟩
    exact getCtx_enginesSwapped (engineGone s e) (some n) c

end Sys2Proof.Proofs.StreamOps
end

section
/-! PROOFS. O56: failures of cores, dies and memories, and the fail stop (R19, R20, R303 to R305, R392, R397, R410, R411). -/
namespace Sys2Proof.Proofs.Failures

open Sys2Proof Sys2Proof.Machine Sys2Proof.Laws
open Sys2Proof.Proofs.StateParts

/-! ## The fail stop -/

/-- R411: what a fail stop with a code leaves of a state. -/
structure Stopped (s u : State) (code : BitVec 16) : Prop where
  failstop : u.dev.failstop = true
  failLow : u.dev.failLow = true
  failCode : u.dev.failCode = code
  tick : u.tick = s.tick
  plans : u.plans = s.plans
  mem : u.mem = s.mem

theorem alive_running {s : State} (h : alive s = true) : s.dev.failstop = false := DescBasics.alive_failstop h

/-- R411: a fail stop of a device that runs. -/
theorem failStop_stops {s : State} (h : s.dev.failstop = false) (f : FaultIn) : Stopped s (failStop s f) (BitVec.ofNat 16 f.code) := by
  unfold failStop
  rw [if_neg (by simp [h])]
  exact ⟨rfl, rfl, rfl, rfl, rfl, rfl⟩

theorem failStop_keeps (s : State) (f : FaultIn) : (failStop s f).hw = s.hw ∧ (failStop s f).pwr = s.pwr := by
  unfold failStop
  split <;> exact ⟨rfl, rfl⟩

/-- R326, R411: after the announcement no port stays up and no route is left. -/
theorem announce_ends {s : State} (hstop : s.dev.failstop = true) (hnew : s.dev.announced = false) :
    (announce s).dev = { s.dev with announced := true } ∧ (announce s).links.routes = [] ∧ ∀ i, (getPort (announce s) i).state ≠ .up := by
  have hkeep : Keep { links := true } s (s.links.routes.foldl (fun s r => sendFw s r.fabric 3 (failstopData s)) s) :=
    keep_foldl (fun _ _ h => sendFw_keep rfl h) (keep_refl _ _)
  have hdev := keep_dev hkeep
  unfold announce
  rw [if_neg (by simp [hstop, hnew])]
  dsimp only
  refine ⟨by rw [hdev], rfl, fun i => ?_⟩
  rw [getPort]
  dsimp only
  rw [List.getD_eq_getElem?_getD, List.getElem?_map]
  cases (s.links.routes.foldl (fun s r => sendFw s r.fabric 3 (failstopData s)) s).links.ports[i]? with
  | none => exact (by decide : (({} : Port).state ≠ .up))
  | some p => exact (by decide : LinkState.down ≠ .up)

/-! ## Cores -/

section
variable {s : State}

theorem hallCoreFail_second {core : Nat} (halive : alive s = true) (hcore : core < 16) (hnew : s.hw.retired.contains (.hallCore core) = false)
    (hsecond : s.hw.duty.isSome = true ∨ s.hw.retired.contains (.hallCore 15) = true) :
    hallCoreFail s core = failStop s { code := 0x0503, d0 := core } := by
  have hboth : (s.hw.duty.isSome || s.hw.retired.contains (.hallCore 15)) = true := Bool.or_eq_true_iff.mpr hsecond
  unfold hallCoreFail
  rw [if_neg (by simp only [halive, hnew, Bool.not_true, Bool.false_or, Bool.or_false, decide_eq_true_eq]; omega), if_pos hboth]

/-- R19: H15 holds no duty that could move. -/
theorem hallCoreFail_spare (halive : alive s = true) (hduty : s.hw.duty = none) (hnew : s.hw.retired.contains (.hallCore 15) = false) :
    (hallCoreFail s 15).hw = { s.hw with retired := s.hw.retired ++ [.hallCore 15] } ∧ (hallCoreFail s 15).recov = s.recov
    ∧ (hallCoreFail s 15).dev = s.dev := by
  unfold hallCoreFail
  rw [if_neg (by simp only [halive, hnew]; decide), if_neg (by rw [hduty, hnew]; decide)]
  exact ⟨rfl, rfl, rfl⟩

/-- A floor core that serves. -/
theorem floorCoreFail_enters {floor core : Nat} (hserve : inService s = true) (hfloor : floor < 8) (hcore : core < 4)
    (hnew : s.hw.retired.contains (.floorCore floor core) = false) :
    ¬(!inService s || 8 ≤ floor || 4 ≤ core || s.hw.retired.contains (.floorCore floor core)) = true := by
  simp only [hserve, hnew, Bool.not_true, Bool.false_or, Bool.or_false, Bool.or_eq_true, decide_eq_true_eq]
  omega

theorem floorCoreFail_second {floor core n : Nat} {missed : Bool} (hserve : inService s = true) (hfloor : floor < 8) (hcore : core < 4)
    (hnew : s.hw.retired.contains (.floorCore floor core) = false) (hn : n < 4) (hsecond : s.hw.retired.contains (.floorCore floor n) = true) :
    floorCoreFail s floor core missed = failStop s { code := 0x0503, d0 := floor * 4 + core } := by
  have hany : (List.range 4).any (fun n => s.hw.retired.contains (.floorCore floor n)) = true :=
    List.any_eq_true.mpr ⟨n, List.mem_range.mpr hn, hsecond⟩
  unfold floorCoreFail
  dsimp only
  rw [if_neg (floorCoreFail_enters hserve hfloor hcore hnew), if_pos hany]

theorem missedRelease_rooms (g : State) (rooms : List Nat) (r : Recov) : (missedRelease g rooms r).rooms = r.rooms := by
  unfold missedRelease
  dsimp only
  split
  · rfl
  · unfold loseWork
    split <;> rfl

/-- R20: what the failure of a floor core adds to a recovery. -/
def coreJoins (s g : State) (floor core : Nat) (missed : Bool) (r : Recov) : Recov :=
  let r1 := { r with
    rooms := r.rooms ++ servedRooms floor core,
    repairs := r.repairs ++ [{ part := .floorCore floor core, permanent := isPermanent s (.floorCore floor core) false }] }
  if missed then missedRelease g (servedRooms floor core) r1 else r1

theorem coreJoins_rooms (s g : State) (floor core : Nat) (missed : Bool) (r : Recov) :
    (coreJoins s g floor core missed r).rooms = r.rooms ++ servedRooms floor core := by
  unfold coreJoins
  cases missed with
  | true => exact missedRelease_rooms _ _ _
  | false => rfl

/-- R20: the first failure of a floor's cores moves its wings to another core. -/
theorem floorCoreFail_first {floor core : Nat} {missed : Bool} (hserve : inService s = true) (hfloor : floor < 8) (hcore : core < 4)
    (hnone : ∀ n, n < 4 → s.hw.retired.contains (.floorCore floor n) = false) :
    ∃ f, floorCoreFail s floor core missed = joinRecov (logFault (retire s (.floorCore floor core)) f)
      (coreJoins s (logFault (retire s (.floorCore floor core)) f) floor core missed) := by
  have hany : ¬(List.range 4).any (fun n => s.hw.retired.contains (.floorCore floor n)) = true := by
    rw [Bool.not_eq_true, List.any_eq_false]
    exact fun n hn => by rw [hnone n (List.mem_range.mp hn)]; decide
  unfold floorCoreFail
  dsimp only
  rw [if_neg (floorCoreFail_enters hserve hfloor hcore (hnone core hcore)), if_neg hany]
  exact ⟨_, rfl⟩

end

/-! ## Memories, dies, the fault manager -/

section
variable {s : State}

/-- R303: what an error does is told by its tier. -/
theorem memoryEcc_bad (halive : alive s = true) (tier : EccTier) (a : Nat) :
    exec (.memoryEccEvent tier a false) s = .next (eccBad s tier a) := by
  refine congrArg Host.Outcome.next (?_ : (if !alive s then s else if false then eccFixed s tier a else eccBad s tier a) = eccBad s tier a)
  rw [halive]
  rfl

theorem memoryEcc_fixed (halive : alive s = true) (tier : EccTier) (a : Nat) :
    exec (.memoryEccEvent tier a true) s = .next (eccFixed s tier a) := by
  refine congrArg Host.Outcome.next (?_ : (if !alive s then s else if true then eccFixed s tier a else eccBad s tier a) = eccFixed s tier a)
  rw [halive]
  rfl

/-- R303: a corrected error counts for its tier. -/
theorem eccFixed_counts {tier : EccTier} (a : Nat) (h : ∀ room, tier ≠ .wall room) :
    (eccFixed s tier a).hw.eccCounts = upd s.hw.eccCounts (tierNum tier) (· + 1) ∧ (eccFixed s tier a).dev = s.dev
    ∧ (eccFixed s tier a).mem = s.mem := by
  unfold eccFixed
  split
  · next room => exact absurd rfl (h room)
  · exact ⟨rfl, rfl, rfl⟩

/-- R303, R400: an uncorrectable error of a room's memory is the room's fault. -/
theorem eccBad_room {room unit : Nat} (a : Nat) (hserve : roomServes s room = true) (hlow : 6 ≤ unit) (hhigh : unit ≤ 9) :
    eccBad s (.roomMem room unit) a = (if roomServes s room && unit ≤ 11 then roomFault s room unit false { all := unit == 11, words := [a] } else s) := by
  have hwhole : (unit == 11) = false := beq_eq_false_iff_ne.mpr (by omega)
  have hunit : (roomServes s room && decide (6 ≤ unit) && decide (unit ≤ 9)) = true := by simp [hserve, hlow, hhigh]
  have hany : (roomServes s room && decide (unit ≤ 11)) = true := by rw [hserve, decide_eq_true (by omega)]; rfl
  unfold eccBad
  dsimp only
  rw [hwhole, if_pos hunit, if_pos hany]

/-- R392, R410: the fault manager is silent. -/
theorem hallSilent_stops (halive : alive s = true) : Stopped s (hallSilent s) 0x0507 := by
  have hrun : ({ s with free := s.free + 1 } : State).dev.failstop = false := alive_running halive
  unfold hallSilent
  rw [if_neg (by simp [halive])]
  obtain ⟨hstop, hlow, hcode, htick, hplans, hmem⟩ := failStop_stops (s := { s with free := s.free + 1 }) hrun
    { code := 0x0507, d0 := (Config.freeBits 48 s.free).toNat }
  exact ⟨hstop, hlow, hcode, htick, hplans, hmem⟩

/-- R411: a fatal trigger, and the announcement that follows it. -/
theorem failstop_announces (halive : alive s = true) (hnew : s.dev.announced = false) {code : BitVec 16} (d0 d1 : DWord)
    (hfatal : faultSev code.toNat = 4) : ∃ u, exec (.failstop code d0 d1) s = .next u ∧ u.dev.failstop = true
        ∧ u.dev.failCode = code ∧ u.dev.announced = true ∧ u.links.routes = [] ∧ ∀ i, (getPort u i).state ≠ .up := by
  have hrun := alive_running halive
  have hstopped := failStop_stops hrun { code := code.toNat, d0 := d0.toNat, d1 := d1.toNat }
  have hcode : (failStop s { code := code.toNat, d0 := d0.toNat, d1 := d1.toNat }).dev.failCode = code :=
    hstopped.failCode.trans (BitVec.ofNat_toNat ..)
  have hquiet : (failStop s { code := code.toNat, d0 := d0.toNat, d1 := d1.toNat }).dev.announced = false := by
    unfold failStop
    rw [if_neg (by simp [hrun])]
    exact hnew
  obtain ⟨hdev, hroutes, hports⟩ := announce_ends hstopped.failstop hquiet
  have hnow : failstopNow s code d0 d1 = announce (failStop s { code := code.toNat, d0 := d0.toNat, d1 := d1.toNat }) := by
    unfold failstopNow
    rw [if_neg (by simp [hrun]), if_pos (by simp [halive, hfatal])]
  refine ⟨_, congrArg Host.Outcome.next hnow, ?_, ?_, ?_, hroutes, hports⟩
  · rw [hdev]; exact hstopped.failstop
  · rw [hdev]; exact hcode
  · rw [hdev]

end

/-! ## The statement -/

/-- Settles O56: each failure is a fail stop, or a record, of one command. -/
theorem failuresAndFailStop : Obligations.FailuresAndFailStop := by
  unfold Obligations.FailuresAndFailStop
  refine ⟨?_, ?_⟩
  · intro s halive hnews stops logs
    have hrun := alive_running halive
    have hstops : ∀ (c : Instr) (f : FaultIn), exec c s = .next (failStop s f) → stops c (BitVec.ofNat 16 f.code) := fun c f hexec => by
      obtain ⟨hstop, hlow, hcode, htick, hplans, hmem⟩ := failStop_stops hrun f
      exact ⟨_, hexec, hstop, hlow, hcode, htick, hplans, hmem⟩
    refine ⟨fun core hcore hnew hsecond => ?_, fun hduty hnew => ?_, fun floor core missed hserve hfloor hcore hnew => ⟨?_, ?_⟩, ?_, ?_, ?_, ?_,
      ?_, ?_, ?_, ?_, ?_⟩
    · exact hstops _ { code := 0x0503, d0 := core } (congrArg Host.Outcome.next (hallCoreFail_second halive hcore hnew hsecond))
    · obtain ⟨hhw, hrecov, hdev⟩ := hallCoreFail_spare halive hduty hnew
      exact ⟨_, rfl, by rw [hhw]; exact hduty, by rw [hhw], hrecov, hdev⟩
    · rintro ⟨n, hn, hsecond⟩
      exact hstops _ { code := 0x0503, d0 := floor * 4 + core } (congrArg Host.Outcome.next (floorCoreFail_second hserve hfloor hcore hnew hn hsecond))
    · intro hnone
      obtain ⟨f, hfail⟩ := floorCoreFail_first (missed := missed) hserve hfloor hcore hnone
      refine ⟨_, _, congrArg Host.Outcome.next hfail, rfl, rfl, fun m hm => ?_, rfl, rfl, fun hmissed hrecov => ?_⟩
      · rw [coreJoins_rooms]
        exact List.mem_append_right _ hm
      · have hfresh : ∀ x : Recov, (logFault (retire s (.floorCore floor core)) f).recov.getD x = x := fun x => by
          show s.recov.getD x = x
          rw [hrecov]
          rfl
        rw [hmissed, hfresh]
        exact ⟨rfl, rfl⟩
    · obtain ⟨hstop, hlow, hcode, htick, hplans, hmem⟩ := hallSilent_stops halive
      exact ⟨_, rfl, hstop, hlow, hcode, htick, hplans, hmem⟩
    · intro cls i hcls
      have hok : (alive s && decide (cls ≤ 6)) = true := by rw [halive, decide_eq_true hcls]; rfl
      exact hstops _ { code := 0x0506, d0 := cls * 256 + i % 256 } (congrArg Host.Outcome.next (if_pos hok))
    · exact fun l n => hstops _ { code := 0x0500, d0 := cellarDetail l n } (congrArg Host.Outcome.next (if_pos halive))
    · exact fun a => hstops (.memoryEccEvent .cellar a false)
        { code := 0x0500, d0 := cellarDetail (cellarPlace a).cellar (cellarPlace a).channel } (memoryEcc_bad halive .cellar a)
    · exact fun k a => ⟨hstops (.memoryEccEvent (.pantryState k) a false) { code := 0x0501, d0 := k, d1 := a } (memoryEcc_bad halive (.pantryState k) a),
        memoryEcc_bad halive (.pantryClean k) a⟩
    · exact fun room unit a hserve hlow hhigh =>
        (memoryEcc_bad halive (.roomMem room unit) a).trans (congrArg Host.Outcome.next (eccBad_room a hserve hlow hhigh))
    · exact fun tier a hwall => ⟨_, memoryEcc_fixed halive tier a, eccFixed_counts a hwall⟩
    · intro l n k
      refine ⟨fun hmany => ?_, fun hfew => ?_⟩
      · have hok : (alive s && decide (1024 < k)) = true := by rw [halive, decide_eq_true hmany]; rfl
        exact congrArg Host.Outcome.next (if_pos hok)
      · have hok : ¬(alive s && decide (1024 < k)) = true := by rw [decide_eq_false (by omega), Bool.and_false]; decide
        exact congrArg Host.Outcome.next (if_neg hok)
    · exact fun code d0 d1 hfatal => failstop_announces halive hnews d0 d1 hfatal
  · intro s hsupply hstop
    have hsave : exec .faultLogSave s = .next (saveLog s) := congrArg Host.Outcome.next (if_pos hsupply)
    refine ⟨fun hnew => ?_, fun hdone => ?_, fun code d0 d1 hdone => ?_⟩
    · have hsaves : saveLog s = { s with dev := { s.dev with saved := true }, attic := { s.attic with saved := s.flog.newest.take 4096 } } :=
        if_pos (by simp [hstop, hnew])
      exact ⟨_, hsave, by rw [hsaves], by rw [hsaves], by rw [hsaves]⟩
    · exact hsave.trans (congrArg Host.Outcome.next (if_neg (by simp [hdone])))
    · have hquiet : announce s = s := if_pos (by simp [hdone])
      exact congrArg Host.Outcome.next ((if_pos hstop).trans hquiet)

end Sys2Proof.Proofs.Failures
end

section
/-! PROOFS. O57: a partner's HELLO lets waiting announces leave (R309, R319, R338). -/
namespace Sys2Proof.Proofs.LinkHello

open Sys2Proof Sys2Proof.Machine

/-- A collective of group 0, unbound. -/
def coll : CollRec :=
  { group := 0, op := 0, rop := 0, alg := 0, wireFmt := 15, resFmt := 15, vc := 0, bound := false, stageBufs := 1, step := 0, order := 0, root := 0,
    elems := 0, chunk := 0 }

/-- A plan whose one group is this device, fabric_id 0, and fabric_id 1. -/
def body : PlanBody :=
  { period := 100000, budget := 0, defPolicy := 0, startMode := 0, startTick := 0, steps := [], recompute := none, outputs := [], images := [],
    rooms := [], epoch := 0, reference := false, shape := [], inputDigest := [], replayCount := 0, replayAddr := 0, ranges := [], tables := [],
    micros := [], preloads := [], recompAddr := 0, recompMax := 0, walkTables := [], pins := [], collTag := some 1,
    groups := [{ key := 0, members := [0, 1], carriers := [0] }], colls := [coll], training := none, weights := [] }

def key : PlanKey := { ctx := 1, id := 0 }

/-- The plan, admitted. -/
def plan : Plan :=
  { key := key, tag := 0, phase := .admitted, body := some body,
    desc := { ctx := 1, fence := false, noIrq := false, rsvA := 0, planId := 0, rsvB := 0, userId := 0, w10 := 0, w18 := 0, w20 := 0, w28 := 0,
              w30 := 0, w38 := 0 } }

/-- R338: its room has executed a PORCH_SEND toward fabric_id 1, whose announce waits for a direct port. -/
def sender : Thread :=
  { tid := { key := key, room := 0 }, stat := .running, fresh := false,
    insts := [{ id := 0, coll := 0, group := 0, bound := false, sysTick := 0, seq := 0, peers := [{ rank := 1, carr := 0 }] }],
    xfers := [{ id := 1, inst := 0, send := true, coll := 0, peer := 1, carr := 0, tag := 0, elems := 0, fp32 := false, buf := 0, addr := 0,
                bytes := [], sysTick := 0, seq := 0, pc := 0 }],
    outs := [{ unit := 6, reads := [], writes := [], ends := .send 1 }], ticket := 2 }

/-- The device in service, its port 0 in HELLO with the partner's HELLO_ACK; no route. -/
def waiting : State :=
  { State.reset with
    dev := { State.reset.dev with state := .inService }, pwr := { State.reset.pwr with supply := true, perst := false },
    plans := [plan], threads := [sender], links := { State.reset.links with ports := [{ state := .hello, gotAck := true }], routes := [] } }

/-- The first 252 bytes of the HELLO of fabric_id 1. -/
def helloBytes : List Byte := leBytes 4 8 ++ [1, 0, 0x10, 0] ++ zeros 240

/-- R312: with its CRC. -/
def hello : List Byte := helloBytes ++ leBytes (crc32 helloBytes) 4

/-- The flit that it is. -/
def helloFlit : FlitIn := { kind := 4, vc := 0, som := false, cvc := 0, ccount := 0, seq := 0, ack := 0, payload := [1, 0, 0x10, 0] ++ zeros 240 }

set_option maxRecDepth 100000 in
theorem hello_sound : (hello.length = 256 && crc32 (hello.take 252) = getLE hello 252 4 && bits (getLE hello 0 8) 0 4 ≤ 4) = true := by
  decide +kernel

theorem hello_head : getLE hello 0 8 = 4 := by decide +kernel

theorem hello_payload : slice hello 8 244 = helloFlit.payload := by decide +kernel

theorem parseFlit_hello : parseFlit hello = some helloFlit := by
  unfold parseFlit
  rw [if_pos hello_sound, hello_head, hello_payload]
  rfl

/-- R338: the announce leaves with the HELLO, and the peer's state says so. -/
theorem drive_hello_announces : (drive (helloIn waiting 0 helloFlit)).threads ≠ waiting.threads := by
  decide +kernel

theorem rxFlit_hello : rxFlit waiting 0 hello 4 (fun s f => helloIn s 0 f) = helloIn waiting 0 helloFlit := by
  unfold rxFlit
  rw [parseFlit_hello]
  rfl

/-- Refutes O57: a HELLO that opens the first route to a peer lets the announce of a waiting PORCH_SEND leave, and the room's program
notes it (R338); the statement says that no program changes. -/
theorem not_linkTraining : ¬ Obligations.LinkTraining := by
  intro h
  obtain ⟨_, _, _, hhello, _⟩ := h 0 waiting rfl Nat.one_pos (by decide)
  obtain ⟨hfirst, _⟩ := hhello hello helloFlit rfl parseFlit_hello rfl
  obtain ⟨_, _, haccept⟩ := hfirst (by decide)
  obtain ⟨u, hexec, _, _, _, hthreads, _⟩ := haccept (by decide) (by decide)
  have hu : u = drive (helloIn waiting 0 helloFlit) := by
    rw [← rxFlit_hello]
    exact (Host.Outcome.next.inj hexec).symm
  exact drive_hello_announces (hu ▸ hthreads)

end Sys2Proof.Proofs.LinkHello
end

section
/-! PROOFS. O59: heat, droop, caps, sensors, the supply, PERST# and start-up (R415 to R429, R464 to R467). -/
namespace Sys2Proof.Proofs.Supply

open Sys2Proof Sys2Proof.Machine Sys2Proof.Laws
open Sys2Proof.Proofs.StateParts Sys2Proof.Proofs.Failures Sys2Proof.Proofs.FirmwareSlot

/-! ## Heat and droop -/

section
variable {s : State} {floor temp : Nat}

theorem mem_upd_const {A : Type} {l : List A} {i : Nat} (h : i < l.length) (a : A) : a ∈ upd l i (fun _ => a) := by
  induction l generalizing i with
  | nil => exact absurd h (Nat.not_lt_zero _)
  | cons x l ih =>
    cases i with
    | zero => exact List.mem_cons_self
    | succ i => exact List.mem_cons_of_mem _ (ih (Nat.lt_of_succ_lt_succ h))

theorem heatTrip_cool (h : temp < 1150) : heatTrip s floor temp = s := if_neg (Nat.not_le.mpr h)

/-- R423: at 115.0 °C the device fails stop, and the ARRAY rails are removed. -/
theorem heatTrip_trips (hrun : s.dev.failstop = false) (h : 1150 ≤ temp) : ∃ u, heatTrip s floor temp = u
    ∧ u.dev.failstop = true ∧ u.dev.failCode = 0x0505 ∧ u.tick = s.tick ∧ u.pwr = { s.pwr with array := false } := by
  have hstop := failStop_stops hrun { code := 0x0505, d0 := floor, d1 := temp }
  obtain ⟨_, hpwr⟩ := failStop_keeps s { code := 0x0505, d0 := floor, d1 := temp }
  refine ⟨_, if_pos h, hstop.failstop, hstop.failCode, hstop.tick, ?_⟩
  show { (failStop s _).pwr with array := false } = _
  rw [hpwr]

/-- R423: of the rails, the trip takes those of ARRAY; it leaves the sensors. -/
theorem heatTrip_sensors (hrun : s.dev.failstop = false) : (heatTrip s floor temp).tick = s.tick
    ∧ (heatTrip s floor temp).pwr.temps = s.pwr.temps ∧ (heatTrip s floor temp).pwr.tickMax = s.pwr.tickMax
    ∧ (heatTrip s floor temp).pwr.thermLow = s.pwr.thermLow ∧ (heatTrip s floor temp).pwr.thermEvent = s.pwr.thermEvent := by
  by_cases h : temp < 1150
  · rw [heatTrip_cool h]
    exact ⟨rfl, rfl, rfl, rfl, rfl⟩
  · obtain ⟨u, hu, _, _, htick, hpwr⟩ := heatTrip_trips (floor := floor) hrun (Nat.le_of_not_lt h)
    rw [hu, htick, hpwr]
    exact ⟨rfl, rfl, rfl, rfl, rfl⟩

theorem thermDriven_hot {p : Pwr} {t : Nat} (hmem : t ∈ p.temps) (hhot : 1050 ≤ t) : thermDriven p = true := by
  have hany : p.temps.any (fun t => decide (1050 ≤ t)) = true := List.any_eq_true.mpr ⟨t, hmem, decide_eq_true hhot⟩
  rw [thermDriven, hany]
  rfl

theorem thermDriven_cool {p : Pwr} (h : ∀ v ∈ p.temps, v < 1030) : thermDriven p = false := by
  have hany : p.temps.any (fun t => decide (1050 ≤ t)) = false := by
    rw [List.any_eq_false]
    exact fun v hv => by have := h v hv; rw [decide_eq_true_eq]; omega
  have hall : p.temps.all (fun t => decide (t < 1030)) = true := List.all_eq_true.mpr fun v hv => decide_eq_true (h v hv)
  rw [thermDriven, hany, hall]
  simp

/-- R423: a sample below 105.0 °C is no event. -/
theorem heatSample_event_cool (h : temp < 1050) : (heatSample s floor temp).pwr.thermEvent = s.pwr.thermEvent :=
  if_neg (by simp only [Bool.and_eq_true, decide_eq_true_eq]; omega)

theorem heatSample_event_hot (hwas : s.pwr.temps.getD floor 0 < 1050) (h : 1050 ≤ temp) :
    (heatSample s floor temp).pwr.thermEvent = hitFlag s.pwr.thermEvent :=
  if_pos (by simp only [Bool.and_eq_true, decide_eq_true_eq]; exact ⟨hwas, h⟩)

theorem thermalEvent_eq (halive : alive s = true) (hfloor : floor < 8) :
    exec (.thermalEvent floor temp) s = .next (heatTrip (heatSample s floor temp) floor temp) := by
  refine congrArg Host.Outcome.next (if_pos ?_)
  rw [halive, decide_eq_true hfloor]
  rfl

theorem droopBegin_begins {time : Nat} (halive : alive s = true) (harray : s.pwr.array = true) (hfloor : floor < 8)
    (hnew : ∀ d ∈ s.pwr.droops, d.1 ≠ floor) :
    droopBegin s floor time = { s with now := time, pwr := { s.pwr with droops := s.pwr.droops ++ [(floor, time)] } } := by
  have hany : s.pwr.droops.any (fun d => d.1 == floor) = false := by
    rw [List.any_eq_false]
    exact fun d hd heq => hnew d hd (beq_iff_eq.mp heq)
  refine if_pos ?_
  rw [halive, harray, decide_eq_true hfloor, hany]
  rfl

/-- R424: the one droop of the device ends. -/
theorem droopEnd_ends {t time : Nat} (halive : alive s = true) (hone : s.pwr.droops = [(floor, t)]) :
    ∃ u, droopEnd s floor time = u ∧ u.pwr.droops = [] ∧ u.pwr.stretched = upd s.pwr.stretched floor (· + (time - t)) ∧ u.now = time
      ∧ u.tick = s.tick := by
  have hfind : s.pwr.droops.find? (fun d => d.1 == floor) = some (floor, t) := by
    rw [hone]
    exact List.find?_cons_of_pos (beq_self_eq_true floor)
  unfold droopEnd
  rw [hfind]
  dsimp only
  rw [if_pos halive]
  refine ⟨_, rfl, ?_, rfl, rfl, rfl⟩
  show s.pwr.droops.filter (fun d => d.1 != floor) = []
  rw [hone]
  exact List.filter_cons_of_neg (by simp)

theorem stepBack_steps (halive : alive s = true) (hfloor : floor < 8) (hquiet : 1000 ≤ s.pwr.quiet.getD floor 0)
    (hhigh : 700 < s.pwr.setPoint.getD floor 700) : stepBack s floor =
      { s with pwr := { s.pwr with setPoint := upd s.pwr.setPoint floor (· - 10), quiet := upd s.pwr.quiet floor (fun _ => 0) } } := by
  refine if_pos ?_
  rw [halive, decide_eq_true hfloor, decide_eq_true hquiet, decide_eq_true hhigh]
  rfl

theorem stepBack_waits (h : s.pwr.quiet.getD floor 0 < 1000) : stepBack s floor = s := by
  refine if_neg ?_
  rw [decide_eq_false (Nat.not_le.mpr h)]
  simp

end

/-! ## Board management -/

section
variable {s : State}

theorem alive_supply (h : alive s = true) : s.pwr.supply = true := by
  simp only [alive, Bool.and_eq_true] at h
  exact h.1.2

theorem boardCap_lowers (halive : alive s = true) (exc : Bool) (w : Nat) : boardCap s exc w
    = lowerCaps (if exc then { s with pwr := { s.pwr with boardExc := some w } } else { s with pwr := { s.pwr with boardCont := some w } }) := by
  unfold boardCap
  rw [if_neg (by simp [alive_supply halive])]
  exact if_pos (by cases exc <;> exact halive)

theorem limitC_le_board {p : Pwr} {w t : Nat} (h : p.boardCont = some w) : limitC p t ≤ w := by
  rw [limitC, h]
  exact Nat.le_trans (Nat.min_le_right _ _) (Nat.min_le_left _ _)

theorem clockLost_stops (halive : alive s = true) : (clockLost s).pwr.refclk = false ∧ (clockLost s).dev.failstop = true
    ∧ (clockLost s).dev.failCode = 0x0506 := by
  have hstop := failStop_stops (s := { s with pwr := { s.pwr with refclk := false } }) (alive_running halive) { code := 0x0506, d0 := 4 * 256 }
  obtain ⟨_, hpwr⟩ := failStop_keeps { s with pwr := { s.pwr with refclk := false } } { code := 0x0506, d0 := 4 * 256 }
  unfold clockLost
  dsimp only
  rw [if_pos halive]
  exact ⟨by rw [hpwr], hstop.failstop, hstop.failCode⟩

theorem sensorRead_reads (h : s.pwr.supply = true) (q : Sensor) :
    sensorRead s q = { (sensorValue s q).2 with dev := { (sensorValue s q).2.dev with sensor := (sensorValue s q).1 } } :=
  if_neg (by simp [h])

/-! ## Supply and reset -/

theorem tornCfg_quiet {a : Attic} (h : a.updates = []) : tornCfg a = a := by
  unfold tornCfg
  rw [h]
  rfl

theorem atticKept_parts (a : Attic) : (atticKept a).images = a.images ∧ (atticKept a).saved = a.saved ∧ repairMap (atticKept a) = repairMap a := by
  unfold atticKept tornCfg
  split
  · split <;> exact ⟨rfl, rfl, rfl⟩
  · exact ⟨rfl, rfl, rfl⟩

theorem atticKept_cfg {a : Attic} (h : a.updates = []) : (atticKept a).cfg0 = a.cfg0 ∧ (atticKept a).cfg1 = a.cfg1 := by
  unfold atticKept
  rw [tornCfg_quiet h]
  exact ⟨rfl, rfl⟩

/-- R397: the newest records are saved at PERST#, where a fail stop has not saved them. -/
theorem saveLog_saved : (saveLog s).attic.saved = if s.dev.failstop && !s.dev.saved then s.flog.newest.take 4096 else s.attic.saved := by
  unfold saveLog
  split <;> rfl

theorem supplyGone_cold (h : s.pwr.supply = true) :
    supplyGone s = { coldState s with pwr := { (coldState s).pwr with supply := false } } :=
  if_neg (by simp [h])

theorem perstDown_cold (h : s.pwr.supply = true) (hperst : s.pwr.perst = false) : perstDown s = { coldState (saveLog s) with
      pwr := { (coldState (saveLog s)).pwr with boardCont := s.pwr.boardCont, boardExc := s.pwr.boardExc, refclk := s.pwr.refclk },
      dev := { (coldState (saveLog s)).dev with smbus := s.dev.smbus, jtag := s.dev.jtag, sensor := s.dev.sensor } } :=
  if_neg (by simp [h, hperst])

theorem strapAddr_toNat (a b : Bool) : (strapAddr a b).toNat = 0x60 + (if a then 2 else 0) + (if b then 1 else 0) := by
  revert a b
  decide

end

/-! ## Start-up -/

/-- R425: what start-up observes of a sound module. -/
def soundObs : BootObs := { identityOk := true, lostChannels := [], failedParts := [] }

section
variable {s : State} {c : Cfg} {time : Nat}

/-- R426: the identity is the first thing that start-up checks. -/
theorem startUp_identity {obs : BootObs} (h : obs.identityOk = false) :
    (startUp s time obs).dev.state = .recovery ∧ (startUp s time obs).dev.bootCause = 2 := by
  unfold startUp
  extract_lets _ _ s0
  obtain ⟨⟨s1, ok⟩, hboot⟩ : ∃ q, bootCfg s0 = q := ⟨_, rfl⟩
  rw [hboot]
  dsimp only
  generalize (if ok then bootSlot s1 else none) = k
  have hbad : bootFaults ok k.isSome (bootRetired s1 obs.failedParts) obs = [{ cause := 2, code := 0x0600, d0 := 0, d1 := 0 }] :=
    if_pos (by rw [h]; rfl)
  rw [hbad]
  generalize fillBoot _ = g
  have hrec : ∀ {l : List BootFault}, l = [{ cause := 2, code := 0x0600, d0 := 0, d1 := 0 }] →
      (enterRecovery g l).dev.state = .recovery ∧ (enterRecovery g l).dev.bootCause = 2 := fun hl => by
    rw [enterRecovery_dev, hl]
    exact ⟨rfl, rfl⟩
  exact hrec rfl

/-- R431: with copy 0 alone valid, both copies hold it from then on, and copy 0 is active. -/
theorem bootCfg_first (h0 : s.attic.cfg0 = some c) (h1 : s.attic.cfg1 = none) (hvalid : cfgValid s c = true) :
    bootCfg s = ({ s with attic := { s.attic with active := false, cfg0 := some c, cfg1 := some c } }, true) := by
  have hfirst : s.attic.cfg0.filter (cfgValid s) = some c := by rw [h0]; exact if_pos hvalid
  have hsecond : s.attic.cfg1.filter (cfgValid s) = none := by rw [h1]; rfl
  unfold bootCfg
  rw [hfirst, hsecond]
  rfl

theorem bootRetired_none (h : repairMap s.attic = []) : bootRetired s [] = [] := by
  rw [bootRetired, h]
  rfl

theorem bootFaults_none : bootFaults true true [] soundObs = [] := by decide

/-- R425: where nothing speaks against it, start-up ends in service. -/
theorem startUp_serves {s1 : State} {k : Bool} {obs : BootObs} (hboot : bootCfg (released s time) = (s1, true)) (hcfg : activeCfg s1 = some c)
    (hslot : bootSlot s1 = some k) (hbad : bootFaults true true (bootRetired s1 obs.failedParts) obs = [])
    (hfit : activeCfg (fitted s1 c (some k) obs) = some c) : startUp s time obs = enterService (fitted s1 c (some k) obs) c time := by
  unfold fitted at hfit ⊢
  unfold released at hboot
  simp only [startUp, hboot, hcfg, hslot, Option.elim_some, if_true, Option.isSome_some, hbad]
  simp only [Option.elim_some] at hfit
  rw [hfit]

/-- R425, R429: the device in service under its configuration copy, before the record of its tick generator. -/
def serving (s : State) (c : Cfg) (time : Nat) : State :=
  { s with
    dev := { s.dev with state := .inService }, pwr := { s.pwr with rails := true, array := true },
    links := { s.links with ports := c.ports.map (bootPort c.fabricId) }, now := time + bootEnable,
    tick := startTick { s.tick with ctl := BitVec.ofNat 32 (1 + 2 * c.tickCtl.toNat), period := c.tickPer } (time + bootEnable) }

theorem enterService_serves (s : State) (c : Cfg) (time : Nat) : Keep { flog := true } (serving s c time) (enterService s c time) :=
  tickEvent_keep rfl (keep_refl _ _)

theorem startTick_keeps (t : TickGen) (time : Nat) : (startTick t time).ctl = t.ctl ∧ (startTick t time).period = t.period := by
  unfold startTick
  split <;> exact ⟨rfl, rfl⟩

/-- R38: the ENABLE bit is the lowest one. -/
theorem wbit_odd (n : Nat) : wbit (BitVec.ofNat 32 (1 + 2 * n)) 0 = true := by
  rw [wbit, bitOf, BitVec.toNat_ofNat, beq_iff_eq]
  omega

theorem getPort_boot {u : State} {i : Nat} {r : PortCfg} (hports : u.links.ports = c.ports.map (bootPort c.fabricId)) (hi : c.ports[i]? = some r) :
    getPort u i = bootPort c.fabricId r := by
  rw [getPort, hports, List.getD_eq_getElem?_getD, List.getElem?_map, hi]
  rfl

theorem bootPort_state (f : BitVec 12) (r : PortCfg) : (bootPort f r).state = if r.mode = .off then .down else .training := by
  cases hmode : r.mode <;> simp [bootPort, hmode]

end

/-! ## The statement -/

/-- Settles O59, event by event. -/
theorem powerAndSupply : Obligations.PowerAndSupply := by
  refine ⟨fun s halive => ⟨fun floor temp hfloor hlen => ?heat, fun floor time harray hfloor hnew => ?droop, fun floor t time hone => ?recovery,
    fun floor hfloor => ⟨fun hquiet hhigh => ?back, fun hquiet => ?stay⟩, fun w => ?cont, fun w => ?exc, ?clock⟩,
    fun s hsupply => ⟨fun f => ?junction, ?met, fun q hq => ?sensor, fun ins => ?jtag, ?loss, fun hperst => ?assert,
      fun time obs hperst => ⟨fun hid => ?identity, fun c hobs h0 h1 hvalid hmap hslot => ?serve⟩⟩,
    fun a b s => ⟨fun hsupply => ?range, fun hsupply => ?ranged⟩⟩
  case heat =>
    rw [hlen] at hfloor
    have hrun : (heatSample s floor temp).dev.failstop = false := alive_running halive
    obtain ⟨htick, htemps, hmax, hlow, hevent⟩ := heatTrip_sensors (floor := floor) (temp := temp) hrun
    have hmem : temp ∈ (heatSample s floor temp).pwr.temps := mem_upd_const (hlen ▸ hfloor) temp
    refine ⟨_, thermalEvent_eq halive hfloor, htemps, hmax, htick, fun hhot => hlow.trans (thermDriven_hot hmem hhot),
      fun hcool => hlow.trans (thermDriven_cool (htemps ▸ hcool)), fun hwas hhot => hevent.trans (heatSample_event_hot hwas hhot),
      fun hcool => hevent.trans (heatSample_event_cool hcool), fun hcool => ?_, fun htrip => ?_⟩
    · rw [heatTrip_cool hcool]
      exact ⟨rfl, rfl⟩
    · obtain ⟨u, hu, hfail, hcode, _, hpwr⟩ := heatTrip_trips (floor := floor) hrun htrip
      rw [hu]
      exact ⟨hfail, hcode, by rw [hpwr]⟩
  case droop => exact congrArg Host.Outcome.next (droopBegin_begins halive harray hfloor hnew)
  case recovery =>
    obtain ⟨u, hu, hdone⟩ := droopEnd_ends (time := time) halive hone
    exact ⟨u, congrArg Host.Outcome.next hu, hdone⟩
  case back => exact ⟨_, congrArg Host.Outcome.next (stepBack_steps halive hfloor hquiet hhigh), rfl, rfl⟩
  case stay => exact congrArg Host.Outcome.next (stepBack_waits hquiet)
  case cont =>
    exact ⟨_, congrArg Host.Outcome.next (boardCap_lowers halive false w), rfl, rfl, rfl,
      Nat.le_trans (Nat.min_le_right _ _) (limitC_le_board rfl)⟩
  case exc => exact ⟨_, congrArg Host.Outcome.next (boardCap_lowers halive true w), rfl, rfl, rfl⟩
  case clock => exact ⟨_, rfl, clockLost_stops halive⟩
  case junction => exact congrArg Host.Outcome.next (sensorRead_reads hsupply _)
  case met => exact congrArg Host.Outcome.next (sensorRead_reads hsupply _)
  case sensor =>
    refine ⟨_, congrArg Host.Outcome.next (sensorRead_reads hsupply q), ?_⟩
    rcases List.mem_cons.mp hq with rfl | hq
    · exact ⟨rfl, rfl, rfl⟩
    · rw [List.mem_singleton.mp hq]
      exact ⟨rfl, rfl, rfl⟩
  case jtag =>
    have hexec : exec (.jtagInstruction ins) s = .next { s with dev := { s.dev with jtag := jtagTaken s ins } } :=
      congrArg Host.Outcome.next (if_pos hsupply)
    refine ⟨_, hexec, fun htaken => if_pos ?_, fun hrun hother => if_neg ?_, rfl, rfl⟩
    · rcases htaken with h | h <;> rw [h] <;> simp
    · rw [hrun]
      simpa using hother
  case loss =>
    obtain ⟨himages, _, hrepairs⟩ := atticKept_parts s.attic
    exact ⟨_, congrArg Host.Outcome.next (supplyGone_cold hsupply), rfl, rfl, rfl, rfl, rfl, rfl, rfl, himages, hrepairs, atticKept_cfg⟩
  case assert =>
    obtain ⟨_, hsaved, _⟩ := atticKept_parts (saveLog s).attic
    exact ⟨_, congrArg Host.Outcome.next (perstDown_cold hsupply hperst), rfl, rfl, rfl, rfl, rfl, rfl, rfl, rfl, rfl, hsaved.trans saveLog_saved⟩
  case identity => exact ⟨_, exec_perstRelease hsupply hperst time obs, startUp_identity hid⟩
  case serve =>
    subst hobs
    have hattic := released_attic s time
    have hboot := bootCfg_first (s := released s time) (c := c) (by rw [hattic]; exact h0) (by rw [hattic]; exact h1)
      (by rw [cfgValid_released]; exact hvalid)
    obtain ⟨s1, hs1⟩ : ∃ g, { released s time with attic := { (released s time).attic with active := false, cfg0 := some c, cfg1 := some c } } = g :=
      ⟨_, rfl⟩
    rw [hs1] at hboot
    have hcfg : activeCfg s1 = some c := by rw [← hs1]; rfl
    have hnone : bootRetired s1 [] = [] := bootRetired_none (by rw [← hs1, hattic]; exact hmap)
    have hvalidSlot : (validBundle s1 c c.bootSlot).isSome = true := by
      have hslots : slotOfBundle s1 c.bootSlot = slotOfBundle s c.bootSlot := by
        rw [← slotOfBundle_released s time, ← hs1]
        rfl
      rw [validBundle, hslots, Option.isSome_filter]
      exact hslot
    have hboots : bootSlot s1 = some c.bootSlot := (bootSlot_eq hcfg).trans (if_pos hvalidSlot)
    have hserve := startUp_serves (obs := soundObs) hboot hcfg hboots (by rw [show soundObs.failedParts = [] from rfl, hnone]; exact bootFaults_none)
      hcfg
    have hkeep := enterService_serves (fitted s1 c (some c.bootSlot) soundObs) c time
    have hdev := keep_dev hkeep
    have htick := keep_tick hkeep
    have hpwr := keep_pwr hkeep
    have hhw := keep_hw hkeep
    have hlinks := keep_links hkeep
    obtain ⟨hctl, hperiod⟩ := startTick_keeps
      { (fitted s1 c (some c.bootSlot) soundObs).tick with ctl := BitVec.ofNat 32 (1 + 2 * c.tickCtl.toNat), period := c.tickPer } (time + bootEnable)
    have hexec := (exec_perstRelease hsupply hperst time soundObs).trans (congrArg Host.Outcome.next hserve)
    refine ⟨_, hexec, by rw [hdev]; rfl, keep_now hkeep, ?_, ?_, by rw [hdev]; rfl, by rw [hpwr]; rfl, by rw [hpwr]; rfl, ?_, fun i r hi => ?_⟩
    · rw [htick, serving, hctl]
      exact wbit_odd _
    · rw [htick, serving, hperiod]
    · rw [hhw]
      exact hnone
    · rw [getPort_boot (by rw [hlinks]; rfl) hi]
      exact ⟨rfl, bootPort_state _ _⟩
  case range =>
    have hexec : exec (.supplyInRange a b) s = .next { s with pwr := { s.pwr with supply := true }, dev := { s.dev with smbus := strapAddr a b } } :=
      congrArg Host.Outcome.next (if_neg (by simp [hsupply]))
    exact ⟨_, hexec, rfl, strapAddr_toNat a b, rfl⟩
  case ranged => exact congrArg Host.Outcome.next (if_pos hsupply)

end Sys2Proof.Proofs.Supply
end

section
/-! PROOFS. Ports and the routing table (R308, R312 to R319): what each operation of a port leaves as it was. -/
namespace Sys2Proof.Proofs.LinkBasics

open Sys2Proof Sys2Proof.Machine Sys2Proof.Laws
open Sys2Proof.Proofs.StateParts

/-! ## One port of the state -/

theorem length_upd {A : Type} {f : A → A} : ∀ {l : List A} {i : Nat}, (upd l i f).length = l.length
  | [], _ => rfl
  | _ :: _, 0 => rfl
  | _ :: l, i + 1 => congrArg (· + 1) (length_upd (l := l) (i := i))

theorem getD_upd_eq {A : Type} {f : A → A} {d : A} : ∀ {l : List A} {i : Nat}, i < l.length → (upd l i f).getD i d = f (l.getD i d)
  | [], _, h => absurd h (Nat.not_lt_zero _)
  | _ :: _, 0, _ => rfl
  | _ :: l, i + 1, h => getD_upd_eq (l := l) (i := i) (Nat.lt_of_succ_lt_succ h)

theorem getD_upd_ne {A : Type} {f : A → A} {d : A} : ∀ {l : List A} {i j : Nat}, j ≠ i → (upd l i f).getD j d = l.getD j d
  | [], _, _, _ => rfl
  | _ :: _, 0, 0, h => absurd rfl h
  | _ :: _, 0, _ + 1, _ => rfl
  | _ :: _, _ + 1, 0, _ => rfl
  | _ :: l, i + 1, j + 1, h => getD_upd_ne (l := l) (i := i) (j := j) fun heq => h (congrArg (· + 1) heq)

section
variable {s t : State} {i j : Nat} {g : Port → Port}

theorem getPort_modPort_eq (h : i < s.links.ports.length) : getPort (modPort s i g) i = g (getPort s i) := getD_upd_eq h

theorem getPort_modPort_ne (h : j ≠ i) : getPort (modPort s i g) j = getPort s j := getD_upd_ne h

theorem length_modPort : (modPort s i g).links.ports.length = s.links.ports.length := length_upd

theorem getPort_of_ports (h : t.links.ports = s.links.ports) (i : Nat) : getPort t i = getPort s i := by rw [getPort, h]; rfl

theorem getPort_modPort_cases (s : State) (i j : Nat) (g : Port → Port) :
    getPort (modPort s i g) j = getPort s j ∨ (j = i ∧ getPort (modPort s i g) j = g (getPort s j)) := by
  by_cases hj : j = i
  · subst hj
    by_cases hlen : j < s.links.ports.length
    · exact .inr ⟨rfl, getPort_modPort_eq hlen⟩
    · have hnone : ∀ l : List Port, l.length ≤ j → l.getD j ({} : Port) = {} := fun l hl => by
        rw [List.getD_eq_getElem?_getD, List.getElem?_eq_none hl]; rfl
      have hle := Nat.le_of_not_lt hlen
      refine .inl ((hnone _ ?_).trans (hnone _ hle).symm)
      show (upd s.links.ports j g).length ≤ j
      rw [length_upd]
      exact hle
  · exact .inl (getPort_modPort_ne hj)

end

/-! ## Sending -/

section
variable {p q : Port}

theorem sendOne_empty (h : p.queue = []) : sendOne p = none := by
  have hready : ∀ v, vcReady p v = false := fun v => by rw [vcReady, h]; rfl
  have hpick : pickVc p = none := by
    unfold pickVc
    rw [hready, if_neg (by simp)]
    have hnone : ((List.range 8).map (fun i => (p.arbCur + 1 + i) % 8)).find? (fun v => vcReady p v) = none :=
      List.find?_eq_none.mpr fun v _ => by rw [hready]; decide
    rw [hnone]
    rfl
  unfold sendOne
  split
  · rfl
  · rw [hpick]

/-- A port with nothing queued, or one that is not UP, sends nothing. -/
theorem pump_empty (h : p.queue = []) : pump p = p := by rw [pump, h]; rfl

/-- What each new flit leaves, the port that sends all it may leaves. -/
theorem pump_keeps {P : Port → Prop} (hstep : ∀ p q, sendOne p = some q → P p → P q) (hp : P p) : P (pump p) := by
  have hall : ∀ n p, P p → P (pumpPort p n) := fun n => by
    induction n with
    | zero => exact fun p hp => hp
    | succ n ih =>
      intro p hp
      rw [pumpPort]
      cases hone : sendOne p with
      | none => exact hp
      | some q => exact ih q (hstep p q hone hp)
  exact hall _ p hp

theorem sendOne_parts (h : sendOne p = some q) : q.state = p.state ∧ q.partner = p.partner := by
  unfold sendOne at h
  split at h
  · exact nomatch h
  · split at h
    · exact nomatch h
    · split at h
      · exact nomatch h
      · rw [← Option.some.inj h]
        exact ⟨rfl, rfl⟩

theorem pump_parts (p : Port) : (pump p).state = p.state ∧ (pump p).partner = p.partner :=
  pump_keeps (P := fun q => q.state = p.state ∧ q.partner = p.partner)
    (fun _ _ hone hp => ⟨(sendOne_parts hone).1.trans hp.1, (sendOne_parts hone).2.trans hp.2⟩) ⟨rfl, rfl⟩

/-- A DATA flit sent again changes what a sent flit changes, and no more. -/
structure SentLike (p q : Port) : Prop where
  state : q.state = p.state
  partner : q.partner = p.partner
  queue : q.queue = p.queue
  credits : q.credits = p.credits

theorem sentLike_foldl {f : Port → TxFlit → Port} (hf : ∀ p x, SentLike p (f p x)) (l : List TxFlit) : ∀ p, SentLike p (l.foldl f p) := by
  induction l with
  | nil => exact fun p => ⟨rfl, rfl, rfl, rfl⟩
  | cons x l ih =>
    intro p
    obtain ⟨h1, h2, h3, h4⟩ := hf p x
    obtain ⟨k1, k2, k3, k4⟩ := ih (f p x)
    exact ⟨k1.trans h1, k2.trans h2, k3.trans h3, k4.trans h4⟩

theorem sentLike_resendAll (p : Port) : SentLike p (resendAll p) := by
  obtain ⟨hstate, hpartner, hqueue, hcredits⟩ := sentLike_foldl (f := resendFlit) (fun _ _ => ⟨rfl, rfl, rfl, rfl⟩) p.replay p
  exact ⟨hstate, hpartner, hqueue, hcredits⟩

theorem resendAll_replay (p : Port) : (resendAll p).replay = p.replay.map (fun f => { f with tries := f.tries + 1 }) := rfl

end

/-! ## The routing table -/

section
variable {s : State} {i : Nat}

/-- R319: what the routing table loses, no port and no held message notices. -/
def SamePorts (s u : State) : Prop := u.links.ports = s.links.ports ∧ u.links.pieces = s.links.pieces

theorem depart_ports (s : State) (dest ports : Nat) : SamePorts s (depart s dest ports) := by
  unfold depart
  extract_lets waits n links s1 s2
  have hkeep : Keep { plans := true } s1 s2 := keep_foldl (fun _ _ h => setCause_keep rfl h) (keep_refl _ _)
  have hlinks := keep_links hkeep
  have hports : s2.links.ports = s1.links.ports := congrArg Links.ports hlinks
  have hpieces : s2.links.pieces = s1.links.pieces := congrArg Links.pieces hlinks
  exact ⟨hports, hpieces⟩

theorem leaveRoutes_ports (s : State) (i : Nat) : SamePorts s (leaveRoutes s i) := by
  unfold leaveRoutes
  dsimp only
  generalize List.filter _ _ = l
  have hall : ∀ (l : List Route) (g : State), SamePorts g (l.foldl (fun s r => depart s r.fabric (2 ^ i)) g) := fun l => by
    induction l with
    | nil => exact fun _ => ⟨rfl, rfl⟩
    | cons r l ih =>
      intro g
      obtain ⟨hports, hpieces⟩ := depart_ports g r.fabric (2 ^ i)
      obtain ⟨hports', hpieces'⟩ := ih (depart g r.fabric (2 ^ i))
      exact ⟨hports'.trans hports, hpieces'.trans hpieces⟩
  exact hall l _

/-- R308: the port as it leaves UP for a state. -/
def leftUp (st : LinkState) (p : Port) : Port :=
  if st == .training then { p with state := st, retrain := true, gotHello := false, gotAck := false, naking := false }
  else { clearLink p with state := st }

theorem losePorch_keeps (s : State) (i : Nat) : Keep { tick := true, flog := true } s (losePorch s i) := losePorch_keep rfl (keep_refl _ _)

theorem leaveUp_ports (s : State) (i : Nat) (st : LinkState) : (leaveUp s i st).links.ports = upd s.links.ports i (leftUp st) := by
  have hlinks := keep_links (losePorch_keeps (leaveRoutes (modPort s i (leftUp st)) i) i)
  exact (congrArg Links.ports hlinks).trans (leaveRoutes_ports _ _).1

theorem leaveUp_pieces (s : State) (i : Nat) (st : LinkState) : (leaveUp s i st).links.pieces = s.links.pieces := by
  have hlinks := keep_links (losePorch_keeps (leaveRoutes (modPort s i (leftUp st)) i) i)
  exact (congrArg Links.pieces hlinks).trans (leaveRoutes_ports _ _).2

theorem leaveUp_keeps (s : State) (i : Nat) (st : LinkState) :
    Keep { plans := true, flog := true, links := true, tick := true } s (leaveUp s i st) := leaveUp_keep rfl (keep_refl _ _)

theorem getPort_leaveUp_eq {st : LinkState} (h : i < s.links.ports.length) : getPort (leaveUp s i st) i = leftUp st (getPort s i) := by
  rw [getPort, leaveUp_ports]
  exact getD_upd_eq h

theorem getPort_leaveUp_ne {st : LinkState} {j : Nat} (h : j ≠ i) : getPort (leaveUp s i st) j = getPort s j := by
  rw [getPort, leaveUp_ports]
  exact getD_upd_ne h

theorem length_leaveUp {st : LinkState} : (leaveUp s i st).links.ports.length = s.links.ports.length := by
  rw [leaveUp_ports, length_upd]

end

end Sys2Proof.Proofs.LinkBasics
end

section
/-! PROOFS. O58: flits, replays, echoes and DELIVERED of a port that is UP, and the messages of partners (R312 to R324, R406 to R413). -/
namespace Sys2Proof.Proofs.LinkTraffic

open Sys2Proof Sys2Proof.Machine Sys2Proof.Laws
open Sys2Proof.Proofs.StateParts Sys2Proof.Proofs.LinkBasics

/-! ## What a good flit brings -/

section
variable {p : Port} {f : FlitIn}

theorem takeAck_replay (p : Port) (a : BitVec 16) : ∃ l, takeAck p a = { p with replay := l } := by
  unfold takeAck
  split
  · exact ⟨_, rfl⟩
  · exact ⟨p.replay, rfl⟩

/-- R313, R316, R317: of a port, a flit's head changes the replay buffer and the credits. -/
theorem takeHead_parts (p : Port) (f : FlitIn) : ∃ l c k, takeHead p f = { p with replay := l, credits := c, credRx := k } := by
  obtain ⟨l, hl⟩ := takeAck_replay p f.ack
  unfold takeHead
  rw [hl]
  exact ⟨l, _, _, rfl⟩

theorem takeHead_queue (p : Port) (f : FlitIn) : (takeHead p f).queue = p.queue := by
  obtain ⟨l, c, k, h⟩ := takeHead_parts p f
  rw [h]

theorem takeHead_state (p : Port) (f : FlitIn) : (takeHead p f).state = p.state := by
  obtain ⟨l, c, k, h⟩ := takeHead_parts p f
  rw [h]

theorem assemble_queue (p : Port) (f : FlitIn) : (assemble p f).queue = p.queue := by
  unfold assemble
  dsimp only
  split <;> rfl

theorem answer_idle (h : p.queue = []) : answer p = sendIdle p := if_neg (by rw [sendOne_empty h]; decide)

/-- R313, R317: a DATA flit in order. -/
def inOrder (p : Port) (f : FlitIn) : Port :=
  assemble { p with rxSeq := f.seq, naking := false, rxHeld := upd p.rxHeld f.vc (· + 1), rcvd := upd p.rcvd f.vc (· + 1) } f

theorem dataIn_next (hqueue : p.queue = []) (hseq : f.seq = p.rxSeq + 1) : dataIn p f = sendIdle (inOrder p f) :=
  (if_pos hseq).trans (answer_idle ((assemble_queue _ _).trans hqueue))

theorem dataIn_other (hseq : f.seq ≠ p.rxSeq + 1) : dataIn p f = if p.naking then p else sendNak p := if_neg hseq

/-- R318: a message that stands in one flit is whole with it. -/
theorem inOrder_whole (hsom : f.som = true) (hspan : msgSpan f.payload ≤ f.payload.length) :
    (inOrder p f).rxMsgs = p.rxMsgs ++ [(f.vc, f.payload.take (msgSpan f.payload))] := by
  unfold inOrder assemble asmBytes
  rw [hsom]
  dsimp only
  rw [if_pos rfl, List.nil_append, if_pos hspan]

end

/-! ## A flit at a port that is UP -/

section
variable {s : State} {i : Nat} {bs : List Byte} {f : FlitIn} {kind : Nat} {g : State → FlitIn → State}

/-- R312: the state once the head of a good flit has been taken. -/
def headTaken (s : State) (i : Nat) (f : FlitIn) : State := modPort s i (fun p => takeHead p f)

theorem getPort_headTaken (hlen : i < s.links.ports.length) : getPort (headTaken s i f) i = takeHead (getPort s i) f := getPort_modPort_eq hlen

theorem length_headTaken (hlen : i < s.links.ports.length) : i < (headTaken s i f).links.ports.length := by
  rw [headTaken, length_modPort]
  exact hlen

theorem headTaken_up (hlen : i < s.links.ports.length) (hup : (getPort s i).state = .up) : (getPort (headTaken s i f) i).state = .up := by
  rw [getPort_headTaken hlen, takeHead_state]
  exact hup

theorem rxFlit_up (halive : alive s = true) (hup : (getPort s i).state = .up) (hflit : parseFlit bs = some f) (hkind : f.kind = kind) :
    rxFlit s i bs kind g = modPort (g (headTaken s i f) f) i pump := by
  unfold rxFlit
  rw [if_neg (by simp [halive, hup]), hflit]
  dsimp only
  rw [if_neg (by simp [hkind]), if_pos (by simp [hup])]
  rfl

theorem rxFlit_bad (halive : alive s = true) (hup : (getPort s i).state = .up) (hflit : parseFlit bs = none) :
    rxFlit s i bs kind g = modPort s i crcError := by
  unfold rxFlit
  rw [if_neg (by simp [halive, hup]), hflit]
  exact if_pos (by simp [hup])

/-- The port as a command leaves it; no byte of memory and no program changes. -/
def PortOnly (s v : State) (i : Nat) (P : Port → Prop) : Prop := P (getPort v i) ∧ v.mem = s.mem ∧ v.threads = s.threads

/-- A port with nothing queued sends nothing after it has handled a flit. -/
theorem portOnly_rx {P : Port → Prop} (halive : alive s = true) (hup : (getPort s i).state = .up) (hflit : parseFlit bs = some f)
    (hkind : f.kind = kind) {u : State} (hu : g (headTaken s i f) f = u) (hlen : i < u.links.ports.length) (hqueue : (getPort u i).queue = [])
    (h : PortOnly s u i P) : PortOnly s (rxFlit s i bs kind g) i P := by
  obtain ⟨hP, hmem, hthreads⟩ := h
  rw [rxFlit_up halive hup hflit hkind, hu]
  refine ⟨?_, hmem, hthreads⟩
  rw [getPort_modPort_eq hlen, pump_empty hqueue]
  exact hP

/-- What a handler makes of the port alone. -/
theorem portOnly_rxPort {P : Port → Prop} (halive : alive s = true) (hup : (getPort s i).state = .up) (hflit : parseFlit bs = some f)
    (hkind : f.kind = kind) (hlen : i < s.links.ports.length) {h : Port → Port} (hg : g (headTaken s i f) f = modPort (headTaken s i f) i h)
    (hqueue : (h (takeHead (getPort s i) f)).queue = []) (hP : P (h (takeHead (getPort s i) f))) : PortOnly s (rxFlit s i bs kind g) i P := by
  have hport : getPort (modPort (headTaken s i f) i h) i = h (takeHead (getPort s i) f) := by
    rw [getPort_modPort_eq (length_headTaken hlen), getPort_headTaken hlen]
  refine portOnly_rx halive hup hflit hkind hg ?_ ?_ ⟨?_, rfl, rfl⟩
  · rw [length_modPort]
    exact length_headTaken hlen
  · rw [hport]
    exact hqueue
  · rw [hport]
    exact hP

theorem portOnly_modPort {P : Port → Prop} (hlen : i < s.links.ports.length) {h : Port → Port} (hP : P (h (getPort s i))) :
    PortOnly s (modPort s i h) i P := by
  refine ⟨?_, rfl, rfl⟩
  rw [getPort_modPort_eq hlen]
  exact hP

/-! ## Replay -/

theorem replayAll_empty (h : (getPort s i).replay = []) : replayAll s i = s := if_pos (by rw [h]; rfl)

/-- R313: the port as it replays. -/
def replayed (p : Port) : Port := { (resendAll p) with replays := p.replays + 1 }

theorem replayed_queue (p : Port) : (replayed p).queue = p.queue := (sentLike_resendAll p).queue

theorem replayAll_resends (hsome : (getPort s i).replay ≠ []) (hfew : ∀ t ∈ (getPort s i).replay, t.tries < 8) :
    ∃ e, replayAll s i = logFault (modPort s i replayed) e := by
  have hany : ¬(getPort s i).replay.any (fun f => decide (f.tries ≥ 8)) = true := by
    rw [Bool.not_eq_true, List.any_eq_false]
    exact fun t ht => by have := hfew t ht; simpa using this
  unfold replayAll
  dsimp only
  rw [if_neg (by simpa using hsome), if_neg hany]
  exact ⟨_, rfl⟩

/-- R314: a flit that 8 replays have not brought an acknowledgement takes the port to TRAINING. -/
theorem replayAll_retrains (h : ∃ t ∈ (getPort s i).replay, 8 ≤ t.tries) :
    replayAll s i = joinRecov (leaveUp s i .training) (fun r => { r with ports := r.ports ++ [i] }) := by
  obtain ⟨t, ht, hmany⟩ := h
  have hany : (getPort s i).replay.any (fun f => decide (f.tries ≥ 8)) = true := List.any_eq_true.mpr ⟨t, ht, decide_eq_true hmany⟩
  unfold replayAll
  dsimp only
  rw [if_neg (by simpa using List.ne_nil_of_mem ht), if_pos hany]

theorem timerExpiry_runs (halive : alive s = true) (hup : (getPort s i).state = .up) : timerExpiry s i none = replayAll s i :=
  if_neg (by simp [halive, hup])

theorem timerExpiry_acks (halive : alive s = true) (hup : (getPort s i).state = .up) (a : BitVec 16) :
    timerExpiry s i (some a) = modPort s i (fun p => pump (takeAck p a)) := if_neg (by simp [halive, hup])

end

/-! ## DELIVERED -/

section
variable {K V : Type} [DecidableEq K]

theorem pGet_pSet_same (l : List (K × V)) (k : K) (v : V) : pGet (pSet l k v) k = some v := by
  induction l with
  | nil => exact if_pos rfl
  | cons x l ih =>
    unfold pSet
    split
    · exact if_pos rfl
    · next hne => exact (if_neg hne).trans ih

end

section
variable {s : State}

/-- R321: the one DELIVERED message that is due leaves through the one port of its destination. -/
theorem deliveredSend_one {i : Nat} {d : Nat × Nat × DWord} (hlen : i < s.links.ports.length) (hone : s.links.deliv = [d])
    (hport : directPorts s d.1 = [i]) : ∃ u, deliveredSend s = u ∧ u.links.deliv = [] ∧ getPort u i = pump { getPort s i with
      queue := (getPort s i).queue ++ msgFlits 0 (msgHeader d.1 s.dev.fabric.toNat 1 1 d.2.2 ++ [BitVec.ofNat 8 d.2.1]) } := by
  have hsent : s.links.deliv.filter (fun d => !(directPorts s d.1).isEmpty) = [d] := by
    rw [hone]
    exact List.filter_cons_of_pos (by rw [hport]; rfl)
  have hrest : s.links.deliv.filter (fun d => (directPorts s d.1).isEmpty) = [] := by
    rw [hone]
    exact List.filter_cons_of_neg (by simp [hport])
  unfold deliveredSend
  dsimp only
  rw [hsent, hrest, List.foldl_cons, List.foldl_nil]
  have hdirect : directPorts { s with links := { s.links with deliv := [] } } d.1 = [i] := hport
  unfold putMsg
  rw [hdirect]
  exact ⟨_, rfl, rfl, getPort_modPort_eq hlen⟩

theorem deliveredIn_takes {m : Msg} (halive : alive s = true) (harrived : arrived s m = true) (hdest : msgDest m = s.dev.fabric.toNat)
    (htype : msgType m = 1) : ∃ u, deliveredIn s m = u
      ∧ u.links.awaits = s.links.awaits.filter (fun a => a.lost || a.dest != msgSrc m || a.vc != getLE (msgData m) 0 1
          || decide (a.mseq.toNat > (msgSeq m).toNat))
      ∧ u.links.acked = pSet s.links.acked (msgSrc m, getLE (msgData m) 0 1) (msgSeq m + 1) ∧ u.mem = s.mem :=
  ⟨_, if_pos (by simp [halive, harrived, hdest, htype]), rfl, rfl, rfl⟩

end

/-! ## A partner's slide -/

section
variable {s : State} {m : Msg}

/-- R318: the message has left the receive buffer, and its sequence has moved on. -/
def taken (s : State) (m : Msg) : State := releaseMsg (bumpRx s m) m

theorem msgNext_arrived (h : msgNext s m = true) : arrived s m = true ∧ msgDest m = s.dev.fabric.toNat := by
  simp only [msgNext, Bool.and_eq_true, beq_iff_eq] at h
  exact h.1

theorem slideIn_takes (halive : alive s = true) (hnext : msgNext s m = true) (htype : msgType m = 2) (hctrl : getLE (msgData m) 0 1 = 1) :
    slideIn s m = drive (takeSlide (taken s m) m) := by
  obtain ⟨harrived, hdest⟩ := msgNext_arrived hnext
  unfold slideIn
  rw [if_neg (by simp [halive, harrived, htype, hctrl]), if_neg (by simp [hdest])]
  exact if_neg (by simp [hnext])

theorem drive_keeps (s : State) : Keep { all with tick := false, slides := false, slideP := false, slideDue := false, resumeAt := false } s (drive s) :=
  drive_keep rfl (keep_refl _ _)

theorem freeze_keeps_resumeAt (l : List Plan) (s : State) : (l.foldl (fun s p => freeze s p.key) s).resumeAt = s.resumeAt := by
  have hkeep : Keep { all with resumeAt := false } s (l.foldl (fun s p => freeze s p.key) s) :=
    keep_foldl (fun _ _ h => freeze_keep rfl h) (keep_refl _ _)
  exact keep_resumeAt hkeep

/-- R71: no step is released before the ticks of the slide have passed. -/
theorem slideBy_resumeAt (s : State) (u0 t d : Nat) : (slideBy s u0 t d).resumeAt = if d = 0 then s.resumeAt else max s.resumeAt (t + d) := by
  unfold slideBy
  split
  · rfl
  · exact congrArg (max · (t + d)) (freeze_keeps_resumeAt _ _)

theorem slideFor_keeps (s : State) (t old d : Nat) : Keep { all with slides := false, slideP := false, tick := false } s (slideFor s t old d) :=
  slideFor_keep rfl (keep_refl _ _)

/-- R71: a slide for a tick that has not ended waits for its boundary. -/
theorem slideFor_due {t d : Nat} (hd : 0 < d) (ht : s.tick.num.toNat ≤ t) :
    (slideFor s t 0 d).slideDue = s.slideDue.filter (fun v => v.1 != t) ++ [(t, d)] := by
  unfold slideFor
  dsimp only
  rw [if_neg (Nat.not_le.mpr hd), if_pos ht]

/-- R71: one for a tick that has ended is applied at once. -/
theorem slideFor_now {t d : Nat} (hd : 0 < d) (ht : t < s.tick.num.toNat) : (slideFor s t 0 d).resumeAt = max s.resumeAt (t + d) := by
  unfold slideFor
  dsimp only
  rw [if_neg (Nat.not_le.mpr hd), if_neg (Nat.not_le.mpr ht), if_pos rfl, slideBy_resumeAt, if_neg (Nat.ne_of_gt hd)]

/-- R407: a slide new here is noted, and slide pending ends. -/
theorem takeSlide_new {origin d : Nat} {t : Tick} (horigin : fieldAt (msgData m) 0 8 12 = origin) (ht : BitVec.ofNat 48 (getLE (msgData m) 8 6) = t)
    (hd : getLE (msgData m) 16 2 = d) (hnew : s.slides.any (fun v => v.1 == origin && v.2.1 == t) = false) :
    ∃ y : State, takeSlide s m = slideFor y (sysToLocal s t.toNat) (knownSlide s t) d ∧ y.slides = s.slides ++ [(origin, t, d)]
      ∧ y.slideP = none ∧ y.tick = s.tick ∧ y.slideDue = s.slideDue ∧ y.resumeAt = s.resumeAt := by
  subst horigin ht hd
  unfold takeSlide
  dsimp only
  rw [if_neg (by rw [hnew]; decide)]
  have hkeep : ∀ e, Keep { flog := true, links := true } s (sendSlides (logFault s e) (msgData m)) :=
    fun _ => sendSlides_keep rfl (logFault_keep rfl (keep_refl _ _))
  replace hkeep := hkeep { code := 0x0206, d0 := fieldAt (msgData m) 0 8 12, d1 := getLE (msgData m) 16 2 }
  have hslides := keep_slides hkeep
  have htick := keep_tick hkeep
  have hdue := keep_slideDue hkeep
  have hresume := keep_resumeAt hkeep
  refine ⟨_, rfl, ?_, rfl, htick, hdue, hresume⟩
  exact congrArg (· ++ [(fieldAt (msgData m) 0 8 12, BitVec.ofNat 48 (getLE (msgData m) 8 6), getLE (msgData m) 16 2)]) hslides

end

/-! ## The end of slide pending -/

section
variable {s : State}

theorem missWaiting_keeps (l : List Plan) (s : State) :
    Keep { all with slideP := false, tick := false, resumeAt := false } s (l.foldl missWaiting s) :=
  keep_foldl (fun _ _ h => missWaiting_keep rfl h) (keep_refl _ _)

theorem finishStops_keeps (s : State) : Keep { all with slideP := false, tick := false, resumeAt := false } s (finishStops s) :=
  finishStops_keep rfl (keep_refl _ _)

/-- R408: slide pending ends with a slide by the ticks withheld. -/
theorem endPending_slides {q : Nat × Nat} (h : s.slideP = some q) : (endPending s).slideP = none ∧ (endPending s).tick = s.tick
    ∧ (endPending s).resumeAt = if withheld s q.1 = 0 then s.resumeAt else max s.resumeAt (q.1 + 1 + withheld s q.1) := by
  unfold endPending
  rw [h]
  dsimp only
  obtain ⟨g, hg⟩ : ∃ g, (admittedPlans s).foldl missWaiting { s with slideP := none } = g := ⟨_, rfl⟩
  have hmiss := missWaiting_keeps (admittedPlans s) { s with slideP := none }
  rw [hg] at hmiss ⊢
  have hslide : Keep { all with slideP := false, tick := false } g (slideBy g q.1 (q.1 + 1) (withheld s q.1)) := slideBy_keep rfl (keep_refl _ _)
  have hstop := finishStops_keeps (slideBy g q.1 (q.1 + 1) (withheld s q.1))
  have hpend := keep_slideP hmiss
  have htick := keep_tick hmiss
  have hresume := keep_resumeAt hmiss
  have htick' := keep_tick hstop
  have hresume' := keep_resumeAt hstop
  refine ⟨(keep_slideP hstop).trans ((keep_slideP hslide).trans hpend), htick'.trans ((keep_tick hslide).trans htick), ?_⟩
  rw [hresume', slideBy_resumeAt, hresume]

theorem endPending_none (s : State) : (endPending s).slideP = none := by
  cases h : s.slideP with
  | none =>
    unfold endPending
    rw [h]
    exact h
  | some q => exact (endPending_slides h).1

theorem settle_keeps (s : State) : Keep { fns := true, ctxs := true, tags := true, plans := true, limbo := true, attic := true, host := true } s
    (settle s) := settle_keep rfl (keep_refl _ _)

theorem peerSilent_ends {q : Nat × Nat} (halive : alive s = true) (h : s.slideP = some q) :
    (peerSilent s).slideP = none ∧ (peerSilent s).tick = s.tick
    ∧ (peerSilent s).resumeAt = if withheld s q.1 = 0 then s.resumeAt else max s.resumeAt (q.1 + 1 + withheld s q.1) := by
  unfold peerSilent
  rw [h]
  dsimp only
  rw [if_neg (by simp [halive])]
  obtain ⟨hpend, htick, hresume⟩ := endPending_slides (s := logFault s { code := 0x0207, d0 := q.2, d1 := withheld s q.1 }) h
  have hsettle := settle_keeps (endPending (logFault s { code := 0x0207, d0 := q.2, d1 := withheld s q.1 }))
  have hdrive := drive_keeps (settle (endPending (logFault s { code := 0x0207, d0 := q.2, d1 := withheld s q.1 })))
  exact ⟨(keep_slideP hdrive).trans ((keep_slideP hsettle).trans hpend), (keep_tick hdrive).trans ((keep_tick hsettle).trans htick),
    (keep_resumeAt hdrive).trans ((keep_resumeAt hsettle).trans hresume)⟩

theorem peerSilent_none (h : s.slideP = none) : peerSilent s = s := by
  unfold peerSilent
  rw [h]

/-! ## A partner that failed -/

theorem alive_of_parts {u : State} (hdev : u.dev = s.dev) (hpwr : u.pwr = s.pwr) (h : alive s = true) : alive u = true := by
  unfold alive at h ⊢
  rw [hdev, hpwr]
  exact h

/-- R413: what the fall of ports leaves: the sides of a state that the porch reads, and the ports that are DOWN. -/
structure Fallen (s u : State) : Prop where
  dev : u.dev = s.dev
  pwr : u.pwr = s.pwr
  slideP : u.slideP = s.slideP
  threads : u.threads = s.threads
  pieces : u.links.pieces = s.links.pieces
  length : u.links.ports.length = s.links.ports.length
  down : ∀ j, (getPort s j).state = .down → (getPort u j).state = .down

theorem Fallen.refl (s : State) : Fallen s s := ⟨rfl, rfl, rfl, rfl, rfl, rfl, fun _ h => h⟩

theorem Fallen.trans {u v : State} (h : Fallen s u) (k : Fallen u v) : Fallen s v :=
  ⟨k.dev.trans h.dev, k.pwr.trans h.pwr, k.slideP.trans h.slideP, k.threads.trans h.threads, k.pieces.trans h.pieces, k.length.trans h.length,
    fun j hj => k.down j (h.down j hj)⟩

theorem leaveUp_down {i : Nat} (hlen : i < s.links.ports.length) : (getPort (leaveUp s i .down) i).state = .down := by
  rw [getPort_leaveUp_eq hlen]
  rfl

theorem fallen_leaveUp {i : Nat} (hlen : i < s.links.ports.length) : Fallen s (leaveUp s i .down) := by
  have hkeep := leaveUp_keeps s i .down
  refine ⟨keep_dev hkeep, keep_pwr hkeep, keep_slideP hkeep, keep_threads hkeep, leaveUp_pieces s i .down, length_leaveUp, fun j hj => ?_⟩
  by_cases hi : j = i
  · rw [hi]
    exact leaveUp_down hlen
  · rw [getPort_leaveUp_ne hi]
    exact hj

theorem foldl_leaveUp_down (l : List Nat) : ∀ s : State, (∀ i ∈ l, i < s.links.ports.length) →
    Fallen s (l.foldl (fun s i => leaveUp s i .down) s) ∧ ∀ i ∈ l, (getPort (l.foldl (fun s i => leaveUp s i .down) s) i).state = .down := by
  induction l with
  | nil => exact fun s _ => ⟨.refl s, fun i hi => absurd hi List.not_mem_nil⟩
  | cons a l ih =>
    intro s hlen
    have hfirst : Fallen s (leaveUp s a .down) := fallen_leaveUp (hlen a List.mem_cons_self)
    obtain ⟨hrest, hdown⟩ := ih (leaveUp s a .down) fun i hi => by
      rw [hfirst.length]
      exact hlen i (List.mem_cons_of_mem _ hi)
    refine ⟨hfirst.trans hrest, fun i hi => ?_⟩
    rcases List.mem_cons.mp hi with rfl | hi
    · exact hrest.down _ (leaveUp_down (hlen _ List.mem_cons_self))
    · exact hdown i hi

theorem partnerFailed_pending (s : State) (f port : Nat) : (partnerFailed s f port).slideP = none := by
  unfold partnerFailed
  extract_lets g ports
  have hsettle := settle_keeps (endPending (ports.foldl (fun s i => leaveUp s i .down) g))
  have hdrive := drive_keeps (settle (endPending (ports.foldl (fun s i => leaveUp s i .down) g)))
  exact (keep_slideP hdrive).trans ((keep_slideP hsettle).trans (endPending_none _))

/-- R413: the ports toward a partner that failed go DOWN, and the device goes on. -/
theorem partnerFailed_downs {f port : Nat} (halive : alive s = true) (hquiet : porchQuiet s) (hlen : s.links.ports.length = 18)
    (hpend : s.slideP = none) : alive (partnerFailed s f port) = true
    ∧ ∀ j, j < 18 → (j = port ∨ j ∈ directPorts s f) → (getPort s j).state = .up → (getPort (partnerFailed s f port) j).state = .down := by
  unfold partnerFailed
  extract_lets g ports
  have hblame : Keep { plans := true } s g := keep_foldl (fun _ _ h => blamePartner_keep rfl h) (keep_refl _ _)
  have hlinks := keep_links hblame
  have hports : ∀ i ∈ ports, i < g.links.ports.length := fun i hi => by
    rw [hlinks, hlen]
    exact List.mem_range.mp (List.mem_filter.mp (List.mem_filter.mp hi).1).1
  obtain ⟨hfall, hdown⟩ := foldl_leaveUp_down ports g hports
  generalize ports.foldl (fun s i => leaveUp s i .down) g = v at hfall hdown ⊢
  have hnone : endPending v = v := by
    have hv : v.slideP = none := hfall.slideP.trans ((keep_slideP hblame).trans hpend)
    unfold endPending
    rw [hv]
  have hsettle := settle_keeps v
  have hstill : porchQuiet (settle v) := by
    have hthreads : (settle v).threads = s.threads := (keep_threads hsettle).trans (hfall.threads.trans (keep_threads hblame))
    have hpieces : (settle v).links.pieces = s.links.pieces := by
      rw [keep_links hsettle, hfall.pieces, hlinks]
    unfold porchQuiet
    rw [hthreads, hpieces]
    exact hquiet
  rw [hnone, RoomWaits.drive_quiet hstill]
  have hdev := (keep_dev hsettle).trans (hfall.dev.trans (keep_dev hblame))
  have hpwr := (keep_pwr hsettle).trans (hfall.pwr.trans (keep_pwr hblame))
  refine ⟨alive_of_parts hdev hpwr halive, fun j hj hto hup => ?_⟩
  have hlinks' := keep_links hsettle
  rw [getPort_of_ports (congrArg Links.ports hlinks')]
  refine hdown j (List.mem_filter.mpr ⟨List.mem_filter.mpr ⟨List.mem_range.mpr hj, ?_⟩, by simp [hup]⟩)
  rcases hto with rfl | hto
  · simp
  · simp [hto]

end

/-! ## The statement -/

section
variable {s : State} {i : Nat}

theorem idleCredits_state (n : Nat) : ∀ p, (idleCredits p n).state = p.state := by
  induction n with
  | zero => exact fun _ => rfl
  | succ n ih =>
    intro p
    unfold idleCredits
    split
    · exact ih (sendIdle p)
    · rfl

/-- R318: a message taken up leaves the states of the ports. -/
theorem taken_state (m : Msg) (j : Nat) : (getPort (taken s m) j).state = (getPort s j).state := by
  have hmod : ∀ (g : State) (f : Port → Port), (∀ p, (f p).state = p.state) → (getPort (modPort g m.port f) j).state = (getPort g j).state :=
    fun g f hf => by
      rcases getPort_modPort_cases g m.port j f with hsame | ⟨_, hset⟩
      · rw [hsame]
      · rw [hset, hf]
  have hrelease : ∀ p v n, (releaseRx p v n).state = p.state := fun p v n => (idleCredits_state 32 _).trans (pump_parts _).1
  exact (hmod (bumpRx s m) _ fun p => hrelease p _ _).trans (hmod s _ fun _ => rfl)

theorem length_taken (m : Msg) : (taken s m).links.ports.length = s.links.ports.length := length_upd.trans length_upd

theorem failstopIn_takes {m : Msg} (halive : alive s = true) (hnext : msgNext s m = true) (htype : msgType m = 3) :
    failstopIn s m = partnerFailed (taken s m) (msgSrc m) m.port := by
  obtain ⟨harrived, hdest⟩ := msgNext_arrived hnext
  unfold failstopIn
  rw [if_neg (by simp [halive, harrived, htype]), if_neg (by simp [hdest])]
  exact if_neg (by simp [hnext])

theorem directPorts_lt {d j : Nat} (hroutes : ∀ r ∈ s.links.routes, ∀ j ∈ r.ports, j < 18) (hj : j ∈ directPorts s d) : j < 18 := by
  unfold directPorts at hj
  cases hfind : s.links.routes.find? (fun r => r.fabric == d) with
  | none => rw [hfind] at hj; exact absurd hj List.not_mem_nil
  | some r => rw [hfind] at hj; exact hroutes r (List.mem_of_find?_eq_some hfind) j hj

/-- R313, R314: a replay, asked for or forced by the timer. -/
theorem portOnly_replay {u : State} (hmem : u.mem = s.mem) (hthreads : u.threads = s.threads) (hlen : i < u.links.ports.length)
    (hsome : (getPort u i).replay ≠ []) (hfew : ∀ t ∈ (getPort u i).replay, t.tries < 8) :
    PortOnly s (replayAll u i) i (fun y => y = replayed (getPort u i)
      ∧ y.replay = (getPort u i).replay.map (fun t => { t with tries := t.tries + 1 })) ∧ (replayAll u i).links.ports.length = u.links.ports.length := by
  obtain ⟨e, he⟩ := replayAll_resends hsome hfew
  have hport : getPort (logFault (modPort u i replayed) e) i = replayed (getPort u i) := getPort_modPort_eq hlen
  rw [he]
  refine ⟨⟨?_, hmem, hthreads⟩, length_modPort⟩
  rw [hport]
  exact ⟨rfl, resendAll_replay _⟩

end

/-- Settles O58: the head of a flit is taken, its kind handled, and the port then sends what it may; a partner's message leaves the
receive buffer before it is handled. -/
theorem linkTraffic : Obligations.LinkTraffic := by
  refine ⟨fun i s halive hlen hup hqueue => ⟨fun bs f hflit => ⟨fun hkind => ?idle, fun hkind => ⟨fun hseq => ?data, fun hseq => ?disorder⟩,
      fun hkind => ⟨fun hnone => ?nothing, fun hsome hfew => ?nak⟩, fun hkind hctrl time => ?echo, fun hkind hctrl time t ht => ?reply⟩,
      fun bs hflit => ?bad, fun hnone => ?still, fun hsome hfew => ?expiry, fun hmany => ?retrain, fun a => ?cancel, fun time => ?send,
      fun k hmode hnew => ?pause, fun k => ?resume, fun d hone hport => ?delivers, fun m hport harrived hdest htype => ?delivered⟩,
    ⟨fun m s halive hnext => ⟨fun htype hctrl => ⟨fun hknown => ?known, fun hnew => ?slide⟩, fun htype _ hquiet hlen hm hroutes => ?message⟩,
      fun s q halive hpend => ?silent, fun s hnone => ?noneSilent, fun i bs f s halive hup hlen hi hflit hkind hctrl _ hquiet => ?flit⟩⟩
  case idle =>
    have hport : getPort (headTaken s i f) i = takeHead (getPort s i) f := getPort_headTaken hlen
    exact ⟨_, rfl, portOnly_rx (P := fun y => y = takeHead (getPort s i) f) halive hup hflit hkind rfl (length_headTaken hlen)
      (by rw [hport, takeHead_queue]; exact hqueue) ⟨hport, rfl, rfl⟩⟩
  case data =>
    obtain ⟨l, c, k, hx⟩ := takeHead_parts (getPort s i) f
    have hempty : (takeHead (getPort s i) f).queue = [] := (takeHead_queue _ _).trans hqueue
    have hdata : dataIn (takeHead (getPort s i) f) f = sendIdle (inOrder (takeHead (getPort s i) f) f) :=
      dataIn_next hempty (by rw [hx]; exact hseq)
    obtain ⟨hport, hmem, hthreads⟩ := portOnly_rxPort (P := fun y => y = dataIn (takeHead (getPort s i) f) f) (h := fun p => dataIn p f)
      (g := fun s f => if (getPort s i).state == .up then modPort s i (fun p => dataIn p f) else s) halive hup hflit hkind hlen
      (if_pos (by rw [headTaken_up hlen hup]; rfl)) (by rw [hdata]; exact (assemble_queue _ _).trans hempty) rfl
    refine ⟨_, rfl, ⟨?_, fun hsom hspan => ?_⟩, hmem, hthreads⟩
    · rw [hport, hdata, inOrder, hx]
    · rw [hport, hdata]
      refine (inOrder_whole hsom hspan).trans ?_
      rw [hx]
  case disorder =>
    obtain ⟨l, c, k, hx⟩ := takeHead_parts (getPort s i) f
    have hdata : dataIn (takeHead (getPort s i) f) f
        = if (takeHead (getPort s i) f).naking then takeHead (getPort s i) f else sendNak (takeHead (getPort s i) f) :=
      dataIn_other (by rw [hx]; exact hseq)
    have hnaking : (takeHead (getPort s i) f).naking = (getPort s i).naking := by rw [hx]
    refine ⟨_, rfl, portOnly_rxPort (P := fun y => y = _) (h := fun p => dataIn p f) halive hup hflit hkind hlen
      (if_pos (by rw [headTaken_up hlen hup]; rfl)) ?_ ?_⟩
    · rw [hdata]
      split <;> exact (takeHead_queue _ _).trans hqueue
    · rw [hdata, hnaking]
  case nothing =>
    have hport : getPort (headTaken s i f) i = takeHead (getPort s i) f := getPort_headTaken hlen
    have hstays : replayAll (headTaken s i f) i = headTaken s i f := replayAll_empty (by rw [hport]; exact hnone)
    exact ⟨_, rfl, portOnly_rx (P := fun y => y = takeHead (getPort s i) f) halive hup hflit hkind
      ((if_pos (by rw [headTaken_up hlen hup]; rfl)).trans hstays) (length_headTaken hlen) (by rw [hport, takeHead_queue]; exact hqueue)
      ⟨hport, rfl, rfl⟩⟩
  case nak =>
    have hport : getPort (headTaken s i f) i = takeHead (getPort s i) f := getPort_headTaken hlen
    obtain ⟨hreplay, hlength⟩ := portOnly_replay (s := s) (u := headTaken s i f) rfl rfl (length_headTaken hlen) (by rw [hport]; exact hsome)
      (by rw [hport]; exact hfew)
    rw [hport] at hreplay
    refine ⟨_, rfl, portOnly_rx (P := fun y => y = replayed (takeHead (getPort s i) f) ∧ y.replay = _) halive hup hflit hkind
      (if_pos (by rw [headTaken_up hlen hup]; rfl)) (by rw [hlength]; exact length_headTaken hlen) ?_ hreplay⟩
    rw [hreplay.1.1, replayed_queue, takeHead_queue]
    exact hqueue
  case echo =>
    have hport : ∀ payload, getPort (sendCtrl { headTaken s i f with free := s.free + 1 } i payload) i = sendCtrlFlit (takeHead (getPort s i) f) payload :=
      fun payload => (getPort_modPort_eq (length_headTaken hlen)).trans (congrArg (sendCtrlFlit · payload) (getPort_headTaken hlen))
    refine ⟨(Config.freeBits 32 s.free).toNat, _, rfl, portOnly_rx (P := fun y => y = _) (f := f)
      (u := sendCtrl { headTaken s i f with free := s.free + 1 } i (leBytes 4 8 ++ leBytes (Config.freeBits 32 s.free).toNat 4)) halive hup hflit hkind
      (if_pos (by rw [hctrl, headTaken_up hlen hup]; rfl)) (length_upd.symm ▸ length_headTaken hlen) ?_ ⟨hport _, rfl, rfl⟩⟩
    rw [hport]
    exact (takeHead_queue _ _).trans hqueue
  case reply =>
    obtain ⟨l, c, k, hx⟩ := takeHead_parts (getPort s i) f
    have hback : echoBack (takeHead (getPort s i) f) time f
        = { takeHead (getPort s i) f with echoAt := none, delay := (time - t - getLE f.payload 8 4) / 2 } := by
      have hat : (takeHead (getPort s i) f).echoAt = some t := by rw [hx]; exact ht
      unfold echoBack
      rw [hat]
    refine ⟨_, rfl, portOnly_rxPort (P := fun y => y = _) (h := fun p => echoBack p time f) halive hup hflit hkind hlen (if_pos hctrl) ?_ hback⟩
    rw [hback]
    exact (takeHead_queue _ _).trans hqueue
  case bad =>
    refine ⟨_, rfl, ?_⟩
    rw [rxFlit_bad halive hup hflit]
    exact portOnly_modPort (P := fun y => y = _ ∧ y.rxSeq = _) hlen ⟨rfl, rfl⟩
  case still => exact congrArg Host.Outcome.next ((timerExpiry_runs halive hup).trans (replayAll_empty hnone))
  case expiry =>
    have hreplay := (portOnly_replay (s := s) rfl rfl hlen hsome hfew).1
    exact ⟨_, congrArg Host.Outcome.next (timerExpiry_runs halive hup), hreplay⟩
  case retrain =>
    have hexec := congrArg (Host.Outcome.next (ρ := Refusal) (φ := Fault)) ((timerExpiry_runs halive hup).trans (replayAll_retrains hmany))
    have hport : getPort (joinRecov (leaveUp s i .training) (fun r => { r with ports := r.ports ++ [i] })) i = leftUp .training (getPort s i) :=
      getPort_leaveUp_eq hlen
    refine ⟨_, _, hexec, ?_, ?_, ?_, ?_, rfl, List.mem_append_right _ (List.mem_singleton.mpr rfl)⟩ <;> rw [hport] <;> rfl
  case cancel =>
    obtain ⟨l, hl⟩ := takeAck_replay (getPort s i) a
    have hexec := congrArg (Host.Outcome.next (ρ := Refusal) (φ := Fault)) (timerExpiry_acks halive hup a)
    refine ⟨_, hexec, portOnly_modPort (P := fun y => y = _) hlen (pump_empty ?_)⟩
    rw [hl]
    exact hqueue
  case send =>
    have hexec : exec (.echoSend i time) s = .next (modPort (sendCtrl s i [3]) i (fun p => { p with echoAt := some time })) :=
      congrArg Host.Outcome.next (if_pos (by rw [halive, hup]; rfl))
    refine ⟨_, hexec, ?_, rfl, rfl⟩
    rw [getPort_modPort_eq (length_modPort.symm ▸ hlen), sendCtrl, getPort_modPort_eq hlen]
  case pause =>
    have hexec : exec (.priorityFlowControl i k) s
        = .next (modPort s i (fun p => { p with paused := if p.paused.contains k then p.paused else p.paused ++ [k] })) :=
      congrArg Host.Outcome.next (if_pos (by rw [halive, hup, hmode]; rfl))
    refine ⟨_, hexec, portOnly_modPort (P := fun y => y = _) hlen ?_⟩
    rw [hnew]
    rfl
  case resume => exact ⟨_, rfl, portOnly_modPort (P := fun y => y = _) hlen (pump_empty hqueue)⟩
  case delivers =>
    obtain ⟨u, hu, hdone, hsent⟩ := deliveredSend_one hlen hone hport
    rw [hqueue, List.nil_append] at hsent
    exact ⟨u, congrArg Host.Outcome.next ((if_pos halive).trans hu), hdone, hsent⟩
  case delivered =>
    obtain ⟨u, hu, hawaits, hacked, hmem⟩ := deliveredIn_takes halive harrived hdest htype
    refine ⟨u, congrArg Host.Outcome.next hu, ?_, fun a ha => ?_, hmem⟩
    · rw [hacked]
      exact pGet_pSet_same _ _ _
    · rw [hawaits, List.mem_filter]
      simp [ha, or_assoc]
  case known =>
    have hstays : takeSlide (taken s m) m = taken s m := if_pos hknown
    have hkeep := drive_keeps (taken s m)
    have hslides := keep_slides hkeep
    have hdue := keep_slideDue hkeep
    have hresume := keep_resumeAt hkeep
    have hpend := keep_slideP hkeep
    exact ⟨_, congrArg Host.Outcome.next ((slideIn_takes halive hnext htype hctrl).trans (congrArg drive hstays)), hslides, hdue, hresume, hpend⟩
  case slide =>
    obtain ⟨y, hy, hslides, hpend, htick, hdue, hresume⟩ := takeSlide_new (s := taken s m) (m := m) rfl rfl rfl hnew
    have hkeep := slideFor_keeps y (sysToLocal (taken s m) (BitVec.ofNat 48 (getLE (msgData m) 8 6)).toNat)
      (knownSlide (taken s m) (BitVec.ofNat 48 (getLE (msgData m) 8 6))) (getLE (msgData m) 16 2)
    have hdrive := drive_keeps (takeSlide (taken s m) m)
    have hkslides := keep_slides hkeep
    have hkpend := keep_slideP hkeep
    have hktick := keep_tick hkeep
    have hdslides := keep_slides hdrive
    have hdpend := keep_slideP hdrive
    have hdtick := keep_tick hdrive
    have hddue := keep_slideDue hdrive
    have hdresume := keep_resumeAt hdrive
    rw [hy] at hdslides hdpend hdtick hddue hdresume
    refine ⟨_, congrArg Host.Outcome.next ((slideIn_takes halive hnext htype hctrl).trans (congrArg drive hy)), hdslides.trans (hkslides.trans hslides),
      hdpend.trans (hkpend.trans hpend), hdtick.trans (hktick.trans htick), fun hknown hlong => ⟨fun hto => ?_, fun hto => ?_⟩⟩
    · have hfirst : knownSlide (taken s m) (BitVec.ofNat 48 (getLE (msgData m) 8 6)) = 0 := hknown
      rw [hddue, hfirst, slideFor_due hlong (by rw [htick]; exact hto), hdue]
      rfl
    · have hfirst : knownSlide (taken s m) (BitVec.ofNat 48 (getLE (msgData m) 8 6)) = 0 := hknown
      rw [hdresume, hfirst, slideFor_now hlong (by rw [htick]; exact hto), hresume]
      rfl
  case message =>
    refine ⟨_, congrArg Host.Outcome.next (failstopIn_takes halive hnext htype), partnerFailed_pending _ _ _, fun hpend => ?_⟩
    obtain ⟨hon, hdown⟩ := partnerFailed_downs (s := taken s m) (f := msgSrc m) (port := m.port) halive hquiet ((length_taken m).trans hlen) hpend
    have harrived : (getPort s m.port).state = .up := by
      have harr := (msgNext_arrived hnext).1
      simp only [arrived, Bool.and_eq_true, beq_iff_eq] at harr
      exact harr.1
    exact ⟨hdown m.port hm (.inl rfl) ((taken_state m m.port).trans harrived), hon,
      fun j hj hjup => hdown j (directPorts_lt hroutes hj) (.inr hj) ((taken_state m j).trans hjup)⟩
  case silent => exact ⟨_, rfl, peerSilent_ends halive hpend⟩
  case noneSilent => exact congrArg Host.Outcome.next (peerSilent_none hnone)
  case flit =>
    have hlen' : i < s.links.ports.length := by rw [hlen]; exact hi
    have hstate := headTaken_up (f := f) hlen' hup
    obtain ⟨v, hv⟩ : ∃ v, partnerFailed (headTaken s i f) ((getPort (headTaken s i f) i).partner.elim 0xFFF (·.fabric)) i = v := ⟨_, rfl⟩
    have hg : (if getLE f.payload 0 1 = 5 && (getPort (headTaken s i f) i).state == .up then
        partnerFailed (headTaken s i f) ((getPort (headTaken s i f) i).partner.elim 0xFFF (·.fabric)) i else headTaken s i f) = v :=
      (if_pos (by rw [hctrl, hstate]; rfl)).trans hv
    have hexec : exec (.failstopFlit i bs) s = .next (modPort v i pump) :=
      congrArg Host.Outcome.next ((rxFlit_up halive hup hflit hkind).trans (congrArg (modPort · i pump) hg))
    have hpending := partnerFailed_pending (headTaken s i f) ((getPort (headTaken s i f) i).partner.elim 0xFFF (·.fabric)) i
    rw [hv] at hpending
    refine ⟨_, hexec, hpending, fun hpend => ?_⟩
    obtain ⟨hon, hdown⟩ := partnerFailed_downs (s := headTaken s i f) (f := (getPort (headTaken s i f) i).partner.elim 0xFFF (·.fabric)) (port := i)
      halive hquiet (length_modPort.trans hlen) hpend
    rw [hv] at hon hdown
    refine ⟨?_, hon⟩
    rcases getPort_modPort_cases v i i pump with hsame | ⟨_, hset⟩
    · rw [hsame]
      exact hdown i hi (.inl rfl) hstate
    · rw [hset, (pump_parts _).1]
      exact hdown i hi (.inl rfl) hstate

end Sys2Proof.Proofs.LinkTraffic
end

section
/-! PROOFS. O54: room substitution, restore programs, spares, the repair map, the end of a recovery (R71, R392, R399 to R405). -/
namespace Sys2Proof.Proofs.RoomFaults

open Sys2Proof Sys2Proof.Machine Sys2Proof.Laws
open Sys2Proof.Proofs.StateParts Sys2Proof.Proofs.Failures Sys2Proof.Proofs.LinkTraffic Sys2Proof.Proofs.DescBasics

/-! ## Cleared memory -/

theorem memByte_wipe (m : List Host.Cell) (lo n a : Nat) : memByte (wipe m lo n) a = if lo ≤ a ∧ a < lo + n then blankByte else memByte m a := by
  induction m with
  | nil => exact (ite_self _).symm
  | cons c m ih =>
    obtain ⟨k, v⟩ := c
    by_cases hk : lo ≤ k ∧ k < lo + n
    · have hgone : wipe ((k, v) :: m) lo n = wipe m lo n := List.filter_cons_of_neg (by simp [hk])
      rw [hgone, ih]
      split
      · rfl
      · next hout => exact (if_neg fun heq : (k == a) = true => hout ((beq_iff_eq.mp heq) ▸ hk)).symm
    · have hkept : wipe ((k, v) :: m) lo n = (k, v) :: wipe m lo n :=
        List.filter_cons_of_pos (by simp only [Bool.not_eq_true', Bool.and_eq_false_iff, decide_eq_false_iff_not]; omega)
      rw [hkept]
      by_cases ha : k = a
      · subst ha
        rw [if_neg hk]
        exact (if_pos (beq_self_eq_true k)).trans (if_pos (beq_self_eq_true k)).symm
      · have hskip : ∀ r, memByte ((k, v) :: r) a = memByte r a := fun r => if_neg (by simpa using ha)
        rw [hskip, hskip, ih]

/-! ## What a window loses -/

section
variable {s : State} {l : Lost} {room : Nat} {w : Nat × Nat}

theorem hits_nothing (hall : l.all = false) (hwords : l.words = []) (lo n : Nat) : l.hits lo n = false := by
  rw [Lost.hits, Lost.within, hall, hwords]
  simp

theorem dataWindow_whole (h : l.hits w.1 w.2 = false) (restore : Bool) : dataWindow s l restore room w = s := if_pos (by rw [h]; rfl)

/-- R401: without a restore program, a window that cannot be copied reads zero. -/
theorem dataWindow_zero (h : l.hits w.1 w.2 = true) :
    dataWindow s l false room w = { s with mem := wipe s.mem (roomBase room + w.1) w.2 } := by
  unfold dataWindow
  rw [if_neg (by rw [h]; decide)]
  rfl

/-- R401: a byte that reads zero goes on reading zero. -/
theorem dataWindow_blank {a : Nat} (h : memByte s.mem a = blankByte) : memByte (dataWindow s l false room w).mem a = blankByte := by
  cases hhit : l.hits w.1 w.2 with
  | false => rw [dataWindow_whole hhit]; exact h
  | true =>
    rw [dataWindow_zero hhit]
    show memByte (wipe s.mem _ _) a = _
    rw [memByte_wipe, h, ite_self]

theorem reloadImem_whole {p : Plan} {im : ImageRec} {r : RoomRec} (h : l.hits (imemWin r).1 (imemWin r).2 = false) : reloadImem s l p im r = s :=
  if_neg (by rw [h]; decide)

theorem refillTables_whole {b : PlanBody} {r : RoomRec} {x : Thread} (htbl : l.hits (tblWin r).1 (tblWin r).2 = false)
    (hfill : l.hits (fillWin r).1 (fillWin r).2 = false) : refillTables s l b r x = s := by
  unfold refillTables
  dsimp only
  rw [htbl, hfill]
  rfl

end

/-! ## The program that moves -/

section
variable {key : PlanKey} {room : Nat}

theorem cutWall_like (key : PlanKey) (room : Nat) (x : Thread) : (cutWall key room x).tid = x.tid ∧ (cutWall key room x).fresh = x.fresh
    ∧ (cutWall key room x).kept = x.kept := by
  unfold cutWall
  dsimp only
  split <;> exact ⟨rfl, rfl, rfl⟩

theorem getTh_cutWall {s : State} {t : Tid} {x : Thread} (h : getTh s t = some x) :
    getTh { s with threads := s.threads.map (cutWall key room) } t = some (cutWall key room x) := by
  have htid : ((fun x : Thread => x.tid == t) ∘ cutWall key room) = fun x => x.tid == t := by
    funext y
    rw [Function.comp, (cutWall_like key room y).1]
  show (s.threads.map (cutWall key room)).find? (fun x => x.tid == t) = _
  rw [List.find?_map, htid]
  exact congrArg (Option.map (cutWall key room)) h

/-- R400: the program as the spare takes it: at its barrier, nothing outstanding, in the captured state. -/
structure AtKept (x y : Thread) : Prop where
  tid : y.tid = x.tid
  stat : y.stat = .barrier
  outs : y.outs = []
  kept : ∀ k, x.kept = some k → y.pc = k.pc ∧ y.regs = k.regs ∧ y.preds = k.preds

theorem moveThread_atKept (x : Thread) : AtKept x (moveThread true x) := by
  unfold moveThread backToKept
  cases hk : x.kept with
  | none =>
    have hnone : (endWork x).kept = none := hk
    rw [hnone]
    exact ⟨rfl, rfl, rfl, fun k h => nomatch hk.symm.trans h⟩
  | some k =>
    have hsome : (endWork x).kept = some k := hk
    rw [hsome]
    refine ⟨rfl, rfl, rfl, fun k' h => ?_⟩
    rw [← Option.some.inj (hk.symm.trans h)]
    exact ⟨rfl, rfl, rfl⟩

end

/-- R401: the room's windows on the spare. -/
def windowsMoved (s : State) (l : Lost) (p : Plan) (b : PlanBody) (im : ImageRec) (room : Nat) (r : RoomRec) (x : Thread) : State :=
  dataWindow (dataWindow (refillTables (reloadImem s l p im r) l b r x) l false room (spadWin r)) l false room (accWin r)

section
variable {s : State} {l : Lost} {p : Plan} {b : PlanBody} {im : ImageRec} {room : Nat} {r : RoomRec} {x : Thread}

theorem windowsMoved_keeps : Keep { free := true, mem := true } s (windowsMoved s l p b im room r x) :=
  dataWindow_keep rfl (dataWindow_keep rfl (refillTables_keep rfl (reloadImem_keep rfl (keep_refl _ _))))

theorem windowsMoved_whole (hall : l.all = false) (hwords : l.words = []) : windowsMoved s l p b im room r x = s := by
  have hnone := hits_nothing hall hwords
  rw [windowsMoved, dataWindow_whole (hnone _ _), dataWindow_whole (hnone _ _), refillTables_whole (hnone _ _) (hnone _ _),
    reloadImem_whole (hnone _ _)]

/-- R401: of a room that stopped responding, every byte of the scratchpad window reads zero. -/
theorem windowsMoved_zero (hall : l.all = true) (hroom : r.room = room) {a : Nat} (hlow : spadPa r 0 ≤ a) (hhigh : a < spadPa r 0 + r.spadLen * 16384) :
    memByte (windowsMoved s l p b im room r x).mem a = blankByte := by
  refine dataWindow_blank ?_
  have hlen : ¬r.spadLen * 16384 = 0 := by omega
  have hhit : l.hits (spadWin r).1 (spadWin r).2 = true := by
    simp [Lost.hits, hall, spadWin]
    omega
  rw [dataWindow_zero hhit]
  show memByte (wipe _ (roomBase room + r.spadBase * 16384) (r.spadLen * 16384)) a = _
  rw [memByte_wipe, if_pos]
  subst hroom
  unfold spadPa spadAddr at hlow hhigh
  omega

/-- R400, R401: the plan's program on the room, with step work there and no restore program. -/
theorem movePlan_moves (hx : getTh s { key := p.key, room := room } = some x) (hr : thRec s { key := p.key, room := room } = some r)
    (hb : p.body = some b) (him : b.images[r.image]? = some im) (hrestore : im.restore = none) (hfresh : x.fresh = false)
    (hworks : worksOn room p = true) : ∃ g : State, g.mem = s.mem ∧ (∃ y, getTh (movePlan s l room p) { key := p.key, room := room } = some y ∧ AtKept x y)
      ∧ (movePlan s l room p).mem = (windowsMoved g l p b im room r (cutWall p.key room x)).mem := by
  obtain ⟨htid, hfresh', hkept⟩ := cutWall_like p.key room x
  have hy := getTh_cutWall (key := p.key) (room := room) hx
  have hrec : thRec { s with threads := s.threads.map (cutWall p.key room) } { key := p.key, room := room } = some r := hr
  have hbusy : (openRun p).any (fun q => q.released && q.rooms.contains room) = true := by
    simp only [worksOn, Bool.and_eq_true] at hworks
    exact hworks.2
  have hmove : movePlan s l room p = modTh (windowsMoved { s with threads := s.threads.map (cutWall p.key room) } l p b im room r (cutWall p.key room x))
      { key := p.key, room := room } (moveThread true) := by
    unfold movePlan
    dsimp only
    rw [hy, hrec, hb]
    dsimp only
    rw [him]
    dsimp only
    rw [if_neg (by rw [hfresh', hfresh]; decide), hrestore, hbusy]
    rfl
  have hthreads := keep_threads (windowsMoved_keeps (s := { s with threads := s.threads.map (cutWall p.key room) }) (l := l) (p := p) (b := b)
    (im := im) (room := room) (r := r) (x := cutWall p.key room x))
  have hkeepKept : AtKept x (moveThread true (cutWall p.key room x)) := by
    obtain ⟨h1, h2, h3, h4⟩ := moveThread_atKept (cutWall p.key room x)
    exact ⟨h1.trans htid, h2, h3, fun k hk => h4 k (hkept.trans hk)⟩
  refine ⟨{ s with threads := s.threads.map (cutWall p.key room) }, rfl, ⟨_, ?_, hkeepKept⟩, ?_⟩
  · rw [hmove]
    exact getTh_modTh_eq ((getTh_of_threads hthreads _).trans hy) fun z => (moveThread_atKept z).tid
  · rw [hmove]
    rfl

end

/-! ## The substitution -/

/-- R405: what the failure adds to a recovery. -/
def faultJoins (s : State) (room : Nat) (perm : Bool) (r : Recov) : Recov :=
  let r1 := { r with
    rooms := r.rooms ++ [room], halted := r.halted ++ [room],
    repairs := r.repairs ++ [{ part := .room (room / 64) (slotOf s room), permanent := isPermanent s (.room (room / 64) (slotOf s room)) perm }] }
  if ((plansOn s room).filter (worksOn room)).isEmpty then r1 else loseWork s.tick.num.toNat r1

/-- R384, R393: the records of the substitution. -/
def subNoted (s : State) (e : FaultIn) (sp : Nat) (ps : List Plan) : State :=
  ps.foldl (fun g p => noteSub ((logFault s e).flog.nextSeq != s.flog.nextSeq) g sp p) (logFault s e)

/-- R400: the position is the spare's; no plan has moved yet. -/
def rebound (s : State) (room : Nat) (perm : Bool) (g : State) (sp : Nat) : State :=
  let s3 := joinRecov (retire g (.room (room / 64) (slotOf s room))) (faultJoins s room perm)
  { s3 with hw := { s3.hw with bound := aSet s3.hw.bound room sp } }

section
variable {s : State} {room unit : Nat} {perm : Bool} {l : Lost} {sp : Nat}

theorem roomFault_substitutes (h : pickSpare s (room / 64) = some sp) : ∃ e, roomFault s room unit perm l
    = ((plansOn s room).filter (worksOn room)).foldl rerunLate
        ((plansOn s room).foldl (fun g p => movePlan g l room p) (rebound s room perm (subNoted s e sp (plansOn s room)) sp)) := by
  unfold roomFault
  dsimp only
  rw [h]
  exact ⟨_, rfl⟩

theorem roomFault_stops (h : pickSpare s (room / 64) = none) :
    roomFault s room unit perm l
      = failStop s { code := 0x0502, room := some room, slot := some (slotOf s room), d0 := room / 64, d1 := slotOf s room } := by
  unfold roomFault
  dsimp only
  rw [h]

theorem noteSub_bodies (logged : Bool) (g : State) (sp : Nat) (p : Plan) (k : PlanKey) :
    (getPlan (noteSub logged g sp p) k).map (·.body) = (getPlan g k).map (·.body) := by
  unfold noteSub
  split
  · rfl
  · split
    · rfl
    · refine map_getPlan_modPlan ?_ ?_ _ _ _ <;> exact fun _ => rfl

theorem subNoted_keeps (s : State) (e : FaultIn) (sp : Nat) (ps : List Plan) : Keep { plans := true, flog := true } s (subNoted s e sp ps) :=
  keep_foldl (fun _ _ h => noteSub_keep rfl h) (logFault_keep rfl (keep_refl _ _))

theorem subNoted_bodies (s : State) (e : FaultIn) (sp : Nat) (ps : List Plan) (k : PlanKey) :
    (getPlan (subNoted s e sp ps) k).map (·.body) = (getPlan s k).map (·.body) := by
  have hall : ∀ (logged : Bool) (ps : List Plan) (g : State),
      (getPlan (ps.foldl (fun g p => noteSub logged g sp p) g) k).map (·.body) = (getPlan g k).map (·.body) := fun logged ps => by
    induction ps with
    | nil => exact fun _ => rfl
    | cons p ps ih => exact fun g => (ih _).trans (noteSub_bodies logged g sp p k)
  exact hall _ ps (logFault s e)

theorem thRec_of_bodies {u : State} {t : Tid} (h : (getPlan u t.key).map (·.body) = (getPlan s t.key).map (·.body)) : thRec u t = thRec s t := by
  have hbody : (getPlan u t.key).bind (·.body) = (getPlan s t.key).bind (·.body) := by
    have hjoin : ∀ o : Option Plan, o.bind (·.body) = (o.map (·.body)).join := fun o => by cases o <;> rfl
    rw [hjoin, hjoin, h]
  rw [thRec, hbody]
  rfl

theorem loseWork_parts (t : Nat) (r : Recov) : (loseWork t r).lost = true ∧ (loseWork t r).halted = r.halted ∧ (loseWork t r).repairs = r.repairs := by
  unfold loseWork
  split
  · next h => exact ⟨h, rfl, rfl⟩
  · exact ⟨rfl, rfl, rfl⟩

theorem faultJoins_parts (s : State) (room : Nat) (perm : Bool) (r : Recov) : (faultJoins s room perm r).halted = r.halted ++ [room]
    ∧ (faultJoins s room perm r).repairs = r.repairs
      ++ [{ part := .room (room / 64) (slotOf s room), permanent := isPermanent s (.room (room / 64) (slotOf s room)) perm }]
    ∧ ((plansOn s room).any (worksOn room) = true → (faultJoins s room perm r).lost = true)
    ∧ (plansOn s room = [] → (faultJoins s room perm r).lost = r.lost) := by
  unfold faultJoins
  split
  · next hempty =>
    refine ⟨rfl, rfl, fun hany => ?_, fun _ => rfl⟩
    obtain ⟨p, hp, hworks⟩ := List.any_eq_true.mp hany
    exact absurd (List.isEmpty_iff.mp hempty ▸ List.mem_filter.mpr ⟨hp, hworks⟩) List.not_mem_nil
  · next hsome =>
    obtain ⟨hlost, hhalted, hrepairs⟩ := loseWork_parts s.tick.num.toNat { r with
      rooms := r.rooms ++ [room], halted := r.halted ++ [room],
      repairs := r.repairs ++ [{ part := .room (room / 64) (slotOf s room), permanent := isPermanent s (.room (room / 64) (slotOf s room)) perm }] }
    exact ⟨hhalted, hrepairs, fun _ => hlost, fun hnone => absurd (by rw [hnone]; rfl) hsome⟩

/-- R400: what the moves of the plans leave. -/
theorem moves_keep (l : Lost) (room : Nat) (ps qs : List Plan) (g : State) :
    Keep { all with dev := false, tick := false, hw := false, recov := false } g
      (qs.foldl rerunLate (ps.foldl (fun g p => movePlan g l room p) g)) :=
  keep_foldl (fun _ _ h => rerunLate_keep rfl h) (keep_foldl (fun _ _ h => movePlan_keep rfl h) (keep_refl _ _))

theorem rerunLate_prompt {p : Plan} (h : (openRun p).any (·.late) = false) : rerunLate s p = s := by
  unfold rerunLate
  split
  · next r hr =>
    rw [hr] at h
    exact if_neg (by rw [show r.late = false from h]; decide)
  · rfl

theorem rebound_parts (g : State) : (rebound s room perm g sp).dev = g.dev ∧ (rebound s room perm g sp).tick = g.tick
    ∧ (rebound s room perm g sp).mem = g.mem ∧ (rebound s room perm g sp).plans = g.plans ∧ (rebound s room perm g sp).threads = g.threads := by
  unfold rebound joinRecov retire
  exact ⟨rfl, rfl, rfl, rfl, rfl⟩

theorem rebound_recov (g : State) : (rebound s room perm g sp).recov
    = some (faultJoins s room perm (g.recov.getD { tick := g.tick.num.toNat, sysTick := sysTick g, lost := false })) := by
  unfold rebound joinRecov retire
  rfl

theorem rebound_retired (g : State) : (rebound s room perm g sp).hw.retired = g.hw.retired ++ [.room (room / 64) (slotOf s room)] := by
  unfold rebound joinRecov retire
  rfl

/-- R400: with one plan on the room, whose step work there is not late, the fault is the move of that plan. -/
theorem roomFault_one {p : Plan} (h : pickSpare s (room / 64) = some sp) (hone : plansOn s room = [p]) (hworks : worksOn room p = true)
    (hprompt : (openRun p).any (·.late) = false) :
    ∃ g : State, roomFault s room unit perm l = movePlan g l room p ∧ g.mem = s.mem ∧ g.threads = s.threads ∧ ∀ t, thRec g t = thRec s t := by
  obtain ⟨e, he⟩ := roomFault_substitutes (unit := unit) (perm := perm) (l := l) h
  have hfilter : [p].filter (worksOn room) = [p] := List.filter_cons_of_pos hworks
  rw [hone, hfilter, List.foldl_cons, List.foldl_nil, List.foldl_cons, List.foldl_nil, rerunLate_prompt hprompt] at he
  have hkeep := subNoted_keeps s e sp [p]
  have hmem := keep_mem hkeep
  have hthreads := keep_threads hkeep
  have hbodies := fun t : Tid => thRec_of_bodies (subNoted_bodies s e sp [p] t.key)
  generalize subNoted s e sp [p] = g at *
  obtain ⟨_, _, hbmem, hbplans, hbthreads⟩ := rebound_parts (s := s) (room := room) (perm := perm) (sp := sp) g
  refine ⟨rebound s room perm g sp, he, hbmem.trans hmem, hbthreads.trans hthreads, fun t => ?_⟩
  rw [← hbodies t, thRec, thRec, getPlan_of_plans hbplans]

theorem slotOf_rebound (g : State) : slotOf (rebound s room perm g sp) room = sp := by
  rw [slotOf]
  show (aGet (aSet g.hw.bound room sp) room).getD (room % 64) = sp
  rw [aGet_aSet_eq]
  rfl

end

/-! ## Restore programs, spares, the repair map -/

section
variable {s : State}

theorem restoreEnds_parts (x : Thread) : (restoreEnds x).tid = x.tid ∧ (restoreEnds x).restore = false ∧ (restoreEnds x).stat = .barrier
    ∧ ∀ k, x.back = some k → (restoreEnds x).pc = k.pc ∧ (restoreEnds x).regs = k.regs ∧ (restoreEnds x).preds = k.preds := by
  unfold restoreEnds
  cases hk : x.back with
  | none => exact ⟨rfl, rfl, rfl, fun k h => nomatch h⟩
  | some k =>
    refine ⟨rfl, rfl, rfl, fun k' h => ?_⟩
    rw [← Option.some.inj h]
    exact ⟨rfl, rfl, rfl⟩

theorem restoreTimeout_stops {t : Tid} {x : Thread} (halive : alive s = true) (hx : getTh s t = some x) (hrestore : x.restore = true) :
    restoreTimeout s t = modTh s t (fun x => { restoreEnds x with noRun := true }) :=
  if_pos (by rw [halive, hx]; exact hrestore)

theorem restoreTimeout_none {t : Tid} {x : Thread} (hx : getTh s t = some x) (hrestore : x.restore = false) : restoreTimeout s t = s :=
  if_neg (by rw [hx, Option.any_some, hrestore, Bool.and_false]; decide)

theorem spareTest_passes (wing spare : Nat) : spareTest s wing spare true = s := if_pos (by simp)

/-- R404: a spare that fails its test is retired, and its repair entry is due. -/
theorem spareTest_fails {wing spare : Nat} (hserve : inService s = true) (hwing : wing < 96) (hspare : spare < 2)
    (hfree : spareFree s wing (64 + spare) = true) : ∃ u, spareTest s wing spare false = u
      ∧ u.hw = { s.hw with retired := s.hw.retired ++ [.room wing (64 + spare)] }
      ∧ u.attic.repairDue = s.attic.repairDue ++ [{ part := .room wing (64 + spare), permanent := true }] := by
  refine ⟨_, if_neg ?_, rfl, rfl⟩
  simp only [hserve, hfree, Bool.not_true, Bool.false_or, Bool.or_false, Bool.or_eq_true, decide_eq_true_eq]
  omega

theorem spareFree_retired {wing slot : Nat} (h : s.hw.retired.contains (.room wing slot) = true) : spareFree s wing slot = false := by
  rw [spareFree, h]
  rfl

/-- R405, R427: two writes, each to the copy that is not the newer one, write both copies. -/
theorem storeRepairs_both (a : Attic) (l : List Repair) : (∃ c, (storeRepairs a l).rep0 = some c ∧ c.entries = l)
    ∧ ∃ c, (storeRepairs a l).rep1 = some c ∧ c.entries = l := by
  unfold storeRepairs
  dsimp only
  cases h0 : a.rep0 with
  | none => cases h1 : a.rep1 with
    | none => exact ⟨⟨_, rfl, rfl⟩, ⟨_, rfl, rfl⟩⟩
    | some y =>
      have hnewer : ¬y.seq + 1 < y.seq := by omega
      simp [writeCopy, hnewer]
  | some x => cases h1 : a.rep1 with
    | none => simp [writeCopy]
    | some y =>
      have hnewer : ¬y.seq + 1 < y.seq := by omega
      by_cases hlt : x.seq < y.seq
      · simp [writeCopy, hlt, hnewer]
      · simp [writeCopy, hlt]

theorem repairMap_both {a : Attic} {l : List Repair} {c d : RepairCopy} (h0 : a.rep0 = some c) (h1 : a.rep1 = some d) (hc : c.entries = l)
    (hd : d.entries = l) : repairMap a = l := by
  rw [repairMap, h0, h1, newerCopy]
  split
  · exact hd
  · exact hc

end

/-! ## The end of a recovery -/

section
variable {s : State} {r : Recov} {time : Nat}

/-- R399: the recovery has ended. -/
def recovered (s : State) (r : Recov) (time : Nat) : State := endRecovery { s with now := time } r

theorem serviceResume_ends (halive : alive s = true) (hrec : s.recov = some r) (hmay : mayResume s r = true) :
    serviceResume s time = drive (settle (if r.lost then slideNow (recovered s r time) r
      else if !s.tick.released && s.slideP.isNone && s.tick.begun && !r.rooms.isEmpty then lateWatch (recovered s r time) else recovered s r time)) := by
  unfold serviceResume
  rw [hrec]
  exact if_neg (by simp [halive, hmay])

theorem serviceResume_none (h : s.recov = none) : serviceResume s time = s := by
  unfold serviceResume
  rw [h]

theorem slideNow_keeps (s : State) (r : Recov) : Keep { all with recov := false, now := false, tick := false, ctxs := false, attic := false } s
    (slideNow s r) := slideNow_keep rfl (keep_refl _ _)

/-- R71: the watches that decide late leave the tick as it was. -/
theorem lateWatch_tick (s : State) : (lateWatch s).tick = s.tick := by
  have hstop := finishStops_keeps (asOfEnd (fun s => watch s s.tick.num.toNat) s)
  have hwatch : Keep { all with tick := false } { s with tick := { s.tick with num := s.tick.num - 1 } }
      (watch { s with tick := { s.tick with num := s.tick.num - 1 } } (s.tick.num - 1).toNat) := watch_keep rfl (keep_refl _ _)
  have htick := keep_tick hwatch
  refine (keep_tick hstop).trans ?_
  show ({ (watch { s with tick := { s.tick with num := s.tick.num - 1 } } (s.tick.num - 1).toNat).tick with num := s.tick.num } : TickGen) = s.tick
  rw [htick]

theorem lateWatch_keeps (s : State) : Keep { all with recov := false, now := false } s (lateWatch s) := lateWatch_keep rfl (keep_refl _ _)

/-- R71, R406: the slide of a recovery that lost work, where none is known for its tick. -/
theorem slideNow_first (hlong : slideLength s r.tick ≠ 0) (hfirst : knownSlide s r.sysTick = 0) : ∃ y : State,
    slideNow s r = slideFor y r.tick 0 (slideLength s r.tick) ∧ y.slides = s.slides ++ [(s.dev.fabric.toNat, r.sysTick, slideLength s r.tick)]
      ∧ y.tick = s.tick ∧ y.slideDue = s.slideDue ∧ y.resumeAt = s.resumeAt := by
  unfold slideNow
  dsimp only
  rw [if_neg hlong, hfirst]
  have hkeep : ∀ bs, Keep { links := true } s (sendSlides s bs) := fun _ => sendSlides_keep rfl (keep_refl _ _)
  replace hkeep := hkeep (slideData s.dev.fabric.toNat r.sysTick.toNat (slideLength s r.tick))
  have hslides := keep_slides hkeep
  have htick := keep_tick hkeep
  have hdue := keep_slideDue hkeep
  have hresume := keep_resumeAt hkeep
  exact ⟨_, rfl, congrArg (· ++ [(s.dev.fabric.toNat, r.sysTick, slideLength s r.tick)]) hslides, htick, hdue, hresume⟩

end

/-! ## The statement -/

section
variable {s : State} {room unit : Nat} {perm : Bool} {bad : List Nat}

theorem roomHw_faults (hserve : roomServes s room = true) (hunit : unit ≤ 11) :
    exec (.roomHw room unit perm bad) s = .next (roomFault s room unit perm { all := unit == 11, words := bad }) :=
  congrArg Host.Outcome.next (if_pos (by rw [hserve, decide_eq_true hunit]; rfl))

theorem roomWatchdog_faults (hserve : roomServes s room = true) :
    exec (.roomWatchdogTimeout room) s = exec (.roomHw room 11 false []) s :=
  (congrArg Host.Outcome.next (if_pos hserve)).trans (roomHw_faults hserve (Nat.le_refl 11)).symm

/-- R13, R400, R405: the position is the spare's, the part retired, and a recovery under way. -/
theorem roomFault_rebinds {l : Lost} {sp : Nat} (hsp : pickSpare s (room / 64) = some sp) : ∃ r, (roomFault s room unit perm l).recov = some r
    ∧ slotOf (roomFault s room unit perm l) room = sp
    ∧ (roomFault s room unit perm l).hw.retired = s.hw.retired ++ [.room (room / 64) (slotOf s room)]
    ∧ (roomFault s room unit perm l).dev = s.dev ∧ (roomFault s room unit perm l).tick = s.tick ∧ room ∈ r.halted
    ∧ { part := .room (room / 64) (slotOf s room), permanent := isPermanent s (.room (room / 64) (slotOf s room)) perm } ∈ r.repairs
    ∧ ((plansOn s room).any (worksOn room) = true → r.lost = true) ∧ (s.recov = none → plansOn s room = [] → r.lost = false) := by
  obtain ⟨e, he⟩ := roomFault_substitutes (unit := unit) (perm := perm) (l := l) hsp
  rw [he]
  have hnoted := subNoted_keeps s e sp (plansOn s room)
  generalize subNoted s e sp (plansOn s room) = g at hnoted ⊢
  have hkeep := moves_keep l room (plansOn s room) ((plansOn s room).filter (worksOn room)) (rebound s room perm g sp)
  generalize List.foldl _ _ _ = v at hkeep ⊢
  have hhw := keep_hw hkeep
  have hdev := keep_dev hkeep
  have htick := keep_tick hkeep
  have hrecov := keep_recov hkeep
  have hghw := keep_hw hnoted
  have hgdev := keep_dev hnoted
  have hgtick := keep_tick hnoted
  have hgrecov := keep_recov hnoted
  obtain ⟨hbdev, hbtick, _⟩ := rebound_parts (s := s) (room := room) (perm := perm) (sp := sp) g
  rw [rebound_recov] at hrecov
  obtain ⟨hhalted, hrepairs, hlost, hkeeps⟩ := faultJoins_parts s room perm (g.recov.getD { tick := g.tick.num.toNat, sysTick := sysTick g, lost := false })
  refine ⟨_, hrecov, ?_, ?_, hdev.trans (hbdev.trans hgdev), htick.trans (hbtick.trans hgtick), ?_, ?_, hlost, fun hrec hno => (hkeeps hno).trans ?_⟩
  · rw [slotOf, hhw]
    exact slotOf_rebound g
  · rw [hhw, rebound_retired, hghw]
  · rw [hhalted]
    exact List.mem_append_right _ (List.mem_singleton.mpr rfl)
  · rw [hrepairs]
    exact List.mem_append_right _ (List.mem_singleton.mpr rfl)
  · rw [hgrecov, hrec]
    rfl

theorem roomFault_unused {l : Lost} {sp : Nat} (hsp : pickSpare s (room / 64) = some sp) (hno : plansOn s room = []) :
    (roomFault s room unit perm l).mem = s.mem ∧ (roomFault s room unit perm l).plans = s.plans ∧ (roomFault s room unit perm l).threads = s.threads := by
  obtain ⟨e, he⟩ := roomFault_substitutes (unit := unit) (perm := perm) (l := l) hsp
  rw [he, hno, List.filter_nil, List.foldl_nil, List.foldl_nil]
  obtain ⟨_, _, hmem, hplans, hthreads⟩ := rebound_parts (s := s) (room := room) (perm := perm) (sp := sp) (subNoted s e sp [])
  exact ⟨hmem, hplans, hthreads⟩

/-- R400, R401: the one plan on the room, with prompt step work there and no restore program. -/
theorem roomFault_plan {l : Lost} {sp : Nat} {p : Plan} {b : PlanBody} {rr : RoomRec} {x : Thread} {im : ImageRec}
    (hsp : pickSpare s (room / 64) = some sp) (hone : plansOn s room = [p]) (hb : p.body = some b)
    (hx : getTh s { key := p.key, room := room } = some x) (hrr : thRec s { key := p.key, room := room } = some rr)
    (him : b.images[rr.image]? = some im) (hrestore : im.restore = none) (hfresh : x.fresh = false) (hworks : worksOn room p = true)
    (hprompt : (openRun p).any (·.late) = false) :
    (∃ y, getTh (roomFault s room unit perm l) { key := p.key, room := room } = some y ∧ AtKept x y)
    ∧ (l.all = false → l.words = [] → (roomFault s room unit perm l).mem = s.mem)
    ∧ (l.all = true → rr.room = room → ∀ a, spadPa rr 0 ≤ a → a < spadPa rr 0 + rr.spadLen * 16384 →
        memByte (roomFault s room unit perm l).mem a = blankByte) := by
  obtain ⟨g, hmove, hmem, hthreads, hrec⟩ := roomFault_one (unit := unit) (perm := perm) (l := l) hsp hone hworks hprompt
  obtain ⟨w, hwmem, hy, hwindows⟩ := movePlan_moves (l := l) ((getTh_of_threads hthreads _).trans hx) ((hrec _).trans hrr) hb him hrestore hfresh hworks
  rw [hmove]
  refine ⟨hy, fun hall hwords => ?_, fun hall hroom a hlow hhigh => ?_⟩
  · rw [hwindows, windowsMoved_whole hall hwords, hwmem, hmem]
  · rw [hwindows]
    exact windowsMoved_zero hall hroom hlow hhigh

theorem serves_running (h : roomServes s room = true) : s.dev.failstop = false := by
  simp only [roomServes, inService, Bool.and_eq_true] at h
  exact alive_running h.1.1

/-- R71, R399: the state in which service resumes, before what waits for it goes on. -/
def resumed (s : State) (r : Recov) (time : Nat) : State :=
  if r.lost then slideNow (recovered s r time) r
  else if !s.tick.released && s.slideP.isNone && s.tick.begun && !r.rooms.isEmpty then lateWatch (recovered s r time) else recovered s r time

theorem resumed_parts (s : State) (r : Recov) (time : Nat) :
    (resumed s r time).recov = none ∧ (resumed s r time).now = time ∧ (resumed s r time).tick = s.tick := by
  have hslide := slideNow_keeps (recovered s r time) r
  have hlate := lateWatch_keeps (recovered s r time)
  have htick := keep_tick hslide
  have hrecov := keep_recov hslide
  have hnow := keep_now hslide
  have hrecov' := keep_recov hlate
  have hnow' := keep_now hlate
  unfold resumed
  split
  · exact ⟨hrecov, hnow, htick⟩
  · split
    · exact ⟨hrecov', hnow', lateWatch_tick _⟩
    · exact ⟨rfl, rfl, rfl⟩

theorem resumed_repairs {r : Recov} {time : Nat} (h : r.lost = true ∨ s.tick.released = true) :
    (resumed s r time).ctxs = s.ctxs ∧ (resumed s r time).attic.repairDue = s.attic.repairDue ++ r.repairs := by
  have hslide := slideNow_keeps (recovered s r time) r
  have hattic := keep_attic hslide
  have hctxs := keep_ctxs hslide
  unfold resumed
  split
  · exact ⟨hctxs, congrArg Attic.repairDue hattic⟩
  · next hlost =>
    rw [if_neg (by simp [h.resolve_left hlost])]
    exact ⟨rfl, rfl⟩

theorem resumed_whole {r : Recov} {time : Nat} (hlost : r.lost = false) (hreleased : s.tick.released = true) :
    resumed s r time = recovered s r time := by
  unfold resumed
  rw [if_neg (by rw [hlost]; decide), if_neg (by simp [hreleased])]

theorem serviceDrive_keeps (g : State) :
    Keep { all with tick := false, slides := false, slideDue := false, resumeAt := false, recov := false, now := false } g (drive (settle g)) :=
  drive_keep rfl (settle_keep rfl (keep_refl _ _))

theorem serviceDrive_attic {g : State} (h : idle g) : (drive (settle g)).attic = g.attic := by
  have hkeep : Keep { all with attic := false } g (drive g) := drive_keep rfl (keep_refl _ _)
  rw [settle_of_idle h]
  exact keep_attic hkeep

/-- R71, R406: the slide of a recovery that lost work. -/
theorem resumed_slides {r : Recov} {time : Nat} (hlost : r.lost = true) (hlong : slideLength s r.tick ≠ 0) (hfirst : knownSlide s r.sysTick = 0) :
    (resumed s r time).slides = s.slides ++ [(s.dev.fabric.toNat, r.sysTick, slideLength s r.tick)]
    ∧ (s.tick.num.toNat ≤ r.tick →
        (resumed s r time).slideDue = s.slideDue.filter (fun v => v.1 != r.tick) ++ [(r.tick, slideLength s r.tick)])
    ∧ (r.tick < s.tick.num.toNat → (resumed s r time).resumeAt = max s.resumeAt (r.tick + slideLength s r.tick)) := by
  obtain ⟨y, hy, hslides, htick, hdue, hresume⟩ := slideNow_first (s := recovered s r time) hlong hfirst
  replace hy : slideNow (recovered s r time) r = slideFor y r.tick 0 (slideLength s r.tick) := hy
  have hkeep := slideFor_keeps y r.tick 0 (slideLength s r.tick)
  have hpos := Nat.pos_of_ne_zero hlong
  unfold resumed
  rw [if_pos hlost, hy]
  refine ⟨(keep_slides hkeep).trans hslides, fun hto => ?_, fun hto => ?_⟩
  · rw [slideFor_due hpos (by rw [htick]; exact hto), hdue]
    rfl
  · rw [slideFor_now hpos (by rw [htick]; exact hto), hresume]
    rfl

end

/-- Settles O54: the fault rebinds the position and joins the recovery, and then each plan on the room moves. -/
theorem roomFailures : Obligations.RoomFailures := by
  refine ⟨fun room unit perm bad s hserve hunit => ⟨fun sp hsp => ?moves, fun hnone => ?stops, roomWatchdog_faults hserve⟩,
    fun t s x halive hx => ⟨fun hrestore => ?timeout, fun hrestore => ?idle⟩, fun wing spare s hserve hwing hspare hfree => ⟨?passes, ?fails⟩,
    fun s halive => ?write, fun time s r halive hrec hmay => ?service, fun time s hnone => ?none⟩
  case moves =>
    obtain ⟨r, hrecov, hslot, hretired, hdev, htick, hhalted, hrepairs, hlost, hnew⟩ :=
      roomFault_rebinds (unit := unit) (perm := perm) (l := { all := unit == 11, words := bad }) hsp
    refine ⟨_, r, roomHw_faults hserve hunit, hslot, hretired, hdev, htick, hrecov, hhalted, hrepairs, hlost,
      fun hrec hno => ⟨hnew hrec hno, roomFault_unused hsp hno⟩, fun p b rr x im hone hb hx hrr him hrestore hfresh hworks hprompt => ?_⟩
    obtain ⟨⟨y, hy, hkept⟩, hwhole, hzero⟩ := roomFault_plan (unit := unit) (perm := perm) (l := { all := unit == 11, words := bad })
      hsp hone hb hx hrr him hrestore hfresh hworks hprompt
    exact ⟨⟨y, hy, hkept.stat, hkept.outs, hkept.kept⟩,
      fun hlow hwords => hwhole (beq_eq_false_iff_ne.mpr (Nat.ne_of_lt (Nat.lt_succ_of_le hlow))) hwords,
      fun hall => hzero (beq_iff_eq.mpr hall)⟩
  case stops =>
    have hstop := failStop_stops (serves_running hserve)
      { code := 0x0502, room := some room, slot := some (slotOf s room), d0 := room / 64, d1 := slotOf s room }
    obtain ⟨hhw, _⟩ := failStop_keeps s { code := 0x0502, room := some room, slot := some (slotOf s room), d0 := room / 64, d1 := slotOf s room }
    exact ⟨_, (roomHw_faults hserve hunit).trans (congrArg Host.Outcome.next (roomFault_stops hnone)), hstop.failstop, hstop.failCode, hhw, hstop.mem⟩
  case timeout =>
    obtain ⟨htid, hend, hstat, hback⟩ := restoreEnds_parts x
    refine ⟨_, { restoreEnds x with noRun := true }, congrArg Host.Outcome.next (restoreTimeout_stops halive hx hrestore),
      getTh_modTh_eq hx fun y => (restoreEnds_parts y).1, hend, rfl, hstat, hback, rfl⟩
  case idle => exact congrArg Host.Outcome.next (restoreTimeout_none hx hrestore)
  case passes => exact congrArg Host.Outcome.next (spareTest_passes wing spare)
  case fails =>
    obtain ⟨u, hu, hhw, hdue⟩ := spareTest_fails hserve hwing hspare hfree
    refine ⟨u, congrArg Host.Outcome.next hu, by rw [hhw], spareFree_retired ?_, by rw [hhw], hdue⟩
    rw [hhw]
    exact List.contains_iff_mem.mpr (List.mem_append_right _ (List.mem_singleton.mpr rfl))
  case write =>
    have hexec : exec .repairMapWrite s = .next (repairWrite s) := congrArg Host.Outcome.next (if_pos halive)
    refine ⟨_, hexec, rfl, fun r hr => ?_, rfl⟩
    have hmap : s.attic.repairDue.foldl mapEntry (repairMap s.attic) = (repairMap s.attic).filter (fun q => q.part != r.part) ++ [r] := by
      rw [hr]
      rfl
    obtain ⟨⟨c, hc, hcl⟩, d, hd, hdl⟩ := storeRepairs_both s.attic (s.attic.repairDue.foldl mapEntry (repairMap s.attic))
    rw [hmap] at hcl hdl
    exact ⟨repairMap_both hc hd hcl hdl, ⟨c, hc, hcl⟩, d, hd, hdl⟩
  case service =>
    have hexec : exec (.serviceResume time) s = .next (drive (settle (resumed s r time))) :=
      congrArg Host.Outcome.next (serviceResume_ends halive hrec hmay)
    obtain ⟨hrecov, hnow, htick⟩ := resumed_parts s r time
    have hdrive := serviceDrive_keeps (resumed s r time)
    refine ⟨_, hexec, (keep_recov hdrive).trans hrecov, (keep_now hdrive).trans hnow, (keep_tick hdrive).trans htick, fun hidle hquick => ?_,
      fun hidle hquiet hlost hreleased => ?_, fun hlost hlong hfirst => ?_⟩
    · obtain ⟨hctxs, hdue⟩ := resumed_repairs (time := time) hquick
      rw [serviceDrive_attic (idle_of_ctxs hctxs hidle)]
      exact hdue
    · have hstill : settle (recovered s r time) = recovered s r time := settle_of_idle hidle
      have hdone : drive (recovered s r time) = recovered s r time := RoomWaits.drive_quiet hquiet
      rw [resumed_whole hlost hreleased, hstill, hdone]
      exact ⟨rfl, rfl, rfl⟩
    · obtain ⟨hslides, hlate, hnow'⟩ := resumed_slides (time := time) hlost hlong hfirst
      have hdue := keep_slideDue hdrive
      have hresume := keep_resumeAt hdrive
      exact ⟨(keep_slides hdrive).trans hslides, fun hto => hdue.trans (hlate hto), fun hto => hresume.trans (hnow' hto)⟩
  case none => exact congrArg Host.Outcome.next (serviceResume_none hnone)

end Sys2Proof.Proofs.RoomFaults
end

section
/-! PROOFS. O49: the page walker's requests: GATHER, STORE, VERIFY_OPEN and COMMIT (R245 to R252, R259, R261). -/
namespace Sys2Proof.Proofs.WalkRequests

open Sys2Proof Sys2Proof.Machine Sys2Proof.Laws
open Sys2Proof.Proofs.StateParts Sys2Proof.Proofs.RoomBasics Sys2Proof.Proofs.RoomWaits

/-! ## Issue on the move unit -/

section
variable {s : State} {t : Tid} {i : RoomIns} {c : RC} (h : issuesAt s t i c)
include h

/-- R126: the program as an instruction that the move unit takes finds it. -/
theorem issue_noted {rs ws : List Range} {e : OutEnd} (hmay : mayIssue c 6 rs ws) : ∃ y l, Noted c.th y
    ∧ ∀ g, c.issue 6 rs ws e g = putTh (g s { y with outs := l }).1 (advance1 (g s { y with outs := l }).2) := by
  obtain ⟨l, hl⟩ : ∃ l, holdFor c.th.outs 6 rs ws = some l := Option.isSome_iff_exists.mp hmay
  refine ⟨_, l ++ [{ unit := 6, reads := rs, writes := ws, ends := e }], noted_noteAll c.th (windowRanges rs) (windowRanges ws), fun g => ?_⟩
  unfold RC.issue
  rw [hl, issuesAt_state h]

/-- What an issue leaves of the program: its registers; it goes on. -/
structure GoesOn (x y : Thread) : Prop where
  tid : y.tid = x.tid
  regs : keepsRegs x y [] [] [] []
  next : goesOn x y

omit h in
theorem goesOn_like {x y z : Thread} (hy : Noted x y) (htid : z.tid = y.tid) (hregs : z.regs = y.regs) (hvregs : z.vregs = y.vregs)
    (hmasks : z.masks = y.masks) (hpreds : z.preds = y.preds) (hcalls : z.calls = y.calls) (hpc : z.pc = y.pc) (hreps : z.reps = y.reps) :
    GoesOn x (advance1 z) := by
  obtain ⟨rds, wrs, dirty, rfl⟩ := hy
  exact ⟨htid, keepsRegs_of_eq hregs hvregs hmasks hpreds hcalls, goesOn_advance1 hpc hreps⟩

/-- The program that an issue puts back. -/
theorem getTh_issued {u : State} {y : Thread} (hkeep : u.threads = s.threads) (hy : GoesOn c.th y) : getTh (putTh u y) t = some y := by
  have htid : y.tid = t := hy.tid.trans (issuesAt_tid h)
  have hold : getTh u y.tid = some c.th := by
    rw [htid, getTh_of_threads hkeep]
    exact issuesAt_getTh h
  rw [← htid]
  exact getTh_putTh_eq hold

theorem pgather_runs {f : Instr} (hexec : exec f s = .next (pgather s t i)) {body : RC → List Byte → State}
    (hbody : (match (walkDesc (c.desc i.imm.toNat 128)).op with
      | 0 => gather c (c.desc i.imm.toNat 128) i
      | 1 => walkStore c (c.desc i.imm.toNat 128) i
      | 2 => verifyOpen c (c.desc i.imm.toNat 128) i
      | 3 => walkCommit c (c.desc i.imm.toNat 128) i
      | _ => c.refuse 0x0104 0) = body c (c.desc i.imm.toNat 128)) : exec f s = .next (body c (c.desc i.imm.toNat 128)) := by
  rw [hexec, pgather, runIns_issues h]
  exact congrArg Host.Outcome.next hbody

end

/-! ## GATHER -/

/-- R245, R247: a GATHER's chunk is requested of the walk that it continues or starts. -/
def requested (c : RC) (bs : List Byte) (w : WalkTable) (kt : KvTable) (q : DWord) (chunk addr : Nat) (live : Bool) (s : State) (x : Thread) :
    State × Thread :=
  let d := walkDesc bs
  let old := (slotWalk x d.slot).filter (sameWalk bs q)
  let s1 := walkTag (if old.isNone then startWalk s c.ctx else s) c.t.key d live
  let x1 := if old.isSome then x else replaceWalk x
    { slot := d.slot, number := (getCtx s1 c.ctx).walks, handle := w.handle, gen := kt.gen, desc := bs, query := q, chunks := [] }
  (s1, addMov { x1 with walks := addChunk d.slot (chunk, addr, x.pc) x1.walks })

section
variable {c : RC} {bs : List Byte} {i : RoomIns} {w : WalkTable} {kt : KvTable}

theorem bind_walkRec {s : State} {b : PlanBody} {d : WalkDesc} {ctx : Nat} (hw : walkRec b d = some w) (hkt : getKv s ctx w.handle = some kt) :
    ((walkRec b d).bind fun w => (getKv s ctx w.handle).map fun t => (w, t)) = some (w, kt) := by
  rw [hw, Option.bind_some, hkt]
  rfl

theorem gather_issues {addr : Nat} (hw : walkRec c.b (walkDesc bs) = some w) (hkt : getKv c.s c.ctx w.handle = some kt)
    (haddr : dbits (sReg c.th i.a.toNat) 0 32 = addr) (hhigh : dbits (sReg c.th i.a.toNat) 52 12 = 0)
    (hspad : c.inSpad addr (slotBytes (walkDesc bs) w) 64 = true)
    (hspots : ∀ p ∈ walkSpots (walkDesc bs) w (queryOf (sReg c.th i.b.toNat)), p.index < kt.size) (hexpand : (walkDesc bs).expand = false)
    (hcand : candOk kt (dbits (sReg c.th i.b.toNat) 60 4) = true) : ∃ live, gather c bs i
      = c.issue 6 [] [rSpad addr (slotBytes (walkDesc bs) w)] (.chunk (walkDesc bs).slot) (requested c bs w kt (queryOf (sReg c.th i.b.toNat))
          (dbits (sReg c.th i.b.toNat) 48 12 + dbits (sReg c.th i.a.toNat) 32 20 * 2 ^ 12) addr live) := by
  subst haddr
  have hfind : (walkSpots (walkDesc bs) w (queryOf (sReg c.th i.b.toNat))).find? (fun p => decide (p.index ≥ kt.size)) = none :=
    List.find?_eq_none.mpr fun p hp => by have := hspots p hp; simpa using this
  unfold gather
  dsimp only
  rw [bind_walkRec hw hkt]
  dsimp only
  rw [if_neg (Classical.not_not.mpr hhigh), if_neg (by rw [hspad]; decide), hfind]
  dsimp only
  rw [hexpand, if_neg (by rw [Bool.false_and]; decide), if_neg (by rw [hcand]; decide)]
  exact ⟨_, rfl⟩

end

/-- R240: a walk takes the context's next number. -/
theorem getCtx_startWalk (s : State) (ctx : Nat) : (getCtx (startWalk s ctx) ctx).walks = (getCtx s ctx).walks + 1 := by
  rw [getCtx]
  show ((aGet (aSet s.ctxs ctx { getCtx s ctx with walks := (getCtx s ctx).walks + 1 }) ctx).getD {}).walks = _
  rw [aGet_aSet_eq]
  rfl

theorem walkTag_keeps (s : State) (k : PlanKey) (d : WalkDesc) (live : Bool) : Keep { plans := true } s (walkTag s k d live) :=
  walkTag_keep rfl (keep_refl _ _)

theorem walkTag_none {d : WalkDesc} (h : d.hasOut = false) (s : State) (k : PlanKey) (live : Bool) : walkTag s k d live = s :=
  if_neg (by rw [h]; decide)

section
variable {c : RC} {bs : List Byte} {w : WalkTable} {kt : KvTable} {q : DWord} {chunk addr : Nat} {live : Bool} {s : State} {x : Thread}

/-- R247: a chunk of the walk that runs in the slot. -/
theorem requested_continues (h : (slotWalk x (walkDesc bs).slot).any (sameWalk bs q) = true) :
    requested c bs w kt q chunk addr live s x
      = (walkTag s c.t.key (walkDesc bs) live, addMov { x with walks := addChunk (walkDesc bs).slot (chunk, addr, x.pc) x.walks }) := by
  have hsome : ((slotWalk x (walkDesc bs).slot).filter (sameWalk bs q)).isSome = true := by
    rw [Option.isSome_filter]
    exact h
  have hnone : ((slotWalk x (walkDesc bs).slot).filter (sameWalk bs q)).isNone = false := by
    rw [← Option.not_isSome, hsome]
    rfl
  unfold requested
  dsimp only
  rw [hsome, hnone]
  rfl

/-- R240, R247: a chunk of a walk that starts. -/
theorem requested_starts (h : (slotWalk x (walkDesc bs).slot).any (sameWalk bs q) = false) :
    requested c bs w kt q chunk addr live s x
      = (walkTag (startWalk s c.ctx) c.t.key (walkDesc bs) live, addMov { x with
          walks := addChunk (walkDesc bs).slot (chunk, addr, x.pc) (replaceWalk x {
            slot := (walkDesc bs).slot, number := (getCtx s c.ctx).walks + 1, handle := w.handle, gen := kt.gen, desc := bs, query := q,
            chunks := [] }).walks }) := by
  have hsome : ((slotWalk x (walkDesc bs).slot).filter (sameWalk bs q)).isSome = false := by
    rw [Option.isSome_filter]
    exact h
  have hnone : ((slotWalk x (walkDesc bs).slot).filter (sameWalk bs q)).isNone = true := by
    rw [← Option.not_isSome, hsome]
    rfl
  have hnumber : (getCtx (walkTag (startWalk s c.ctx) c.t.key (walkDesc bs) live) c.ctx).walks = (getCtx s c.ctx).walks + 1 := by
    have hctxs := keep_ctxs (walkTag_keeps (startWalk s c.ctx) c.t.key (walkDesc bs) live)
    rw [DescBasics.getCtx_of_ctxs hctxs]
    exact getCtx_startWalk s c.ctx
  unfold requested
  dsimp only
  rw [hsome, hnone, if_pos rfl, if_neg (by decide), hnumber]
  rfl

end

/-! ## Sessions -/

section
variable {s : State} {ctx handle : Nat} {kt : KvTable}

/-- The table of a handle, where the change keeps its name. -/
theorem getKv_modKv {g : KvTable → KvTable} (hctx : ∀ k, (g k).ctx = k.ctx) (hhandle : ∀ k, (g k).handle = k.handle)
    (h : getKv s ctx handle = some kt) : getKv (modKv s ctx handle g) ctx handle = some (g kt) := by
  have hname : ∀ k : KvTable, (k.ctx == ctx && k.handle == handle) = true → ((g k).ctx == ctx && (g k).handle == handle) = true := fun k hk => by
    rw [hctx, hhandle]
    exact hk
  exact AtticOps.find_updFirst hname h

theorem getKv_of_tables {u : State} (h : u.tables = s.tables) (c k : Nat) : getKv u c k = getKv s c k := by
  unfold getKv
  rw [h]

/-- R261: the table of a commit, its session closed. -/
def Closed (s : State) (ctx handle : Nat) : Prop := ∃ kt, getKv s ctx handle = some kt ∧ kt.session = none

theorem closed_of_tables {u : State} (h : u.tables = s.tables) (hs : Closed s ctx handle) : Closed u ctx handle := by
  obtain ⟨kt, hkt, hnone⟩ := hs
  exact ⟨kt, (getKv_of_tables h _ _).trans hkt, hnone⟩

theorem closed_commitEntry (p : Nat × KvEntry) (h : Closed s ctx handle) : Closed (commitEntry s ctx handle p) ctx handle := by
  obtain ⟨kt, hkt, hnone⟩ := h
  unfold commitEntry
  rw [hkt]
  dsimp only
  have hsent : ((frameOf (kvEntry (kvNewest kt) p.1)).elim s (sendDec s)).tables = s.tables := by
    cases frameOf (kvEntry (kvNewest kt) p.1) <;> rfl
  exact ⟨_, getKv_modKv (fun _ => rfl) (fun _ => rfl) ((getKv_of_tables hsent _ _).trans hkt), hnone⟩

theorem foldl_closed {A : Type} {f : State → A → State} (hf : ∀ s a, Closed s ctx handle → Closed (f s a) ctx handle) (l : List A) :
    ∀ s, Closed s ctx handle → Closed (l.foldl f s) ctx handle := by
  induction l with
  | nil => exact fun _ h => h
  | cons a l ih => exact fun s h => ih _ (hf s a h)

/-- R261: COMMIT closes the session. -/
theorem kvCommit_closes (leaf step : Nat) (hkt : getKv s ctx handle = some kt) (hopen : kt.session.isSome = true) :
    Closed (kvCommit s ctx handle leaf step) ctx handle := by
  obtain ⟨q, hq⟩ := Option.isSome_iff_exists.mp hopen
  unfold kvCommit
  rw [hkt, Option.bind_some, hq]
  dsimp only
  have hfirst : Closed (modKv s ctx handle (fun t => { t with session := none })) ctx handle :=
    ⟨_, getKv_modKv (fun _ => rfl) (fun _ => rfl) hkt, rfl⟩
  generalize (if leaf = 0 then [] else keptOverlay q (candPath q (leaf - 1) 9)) = kept
  have hkept := foldl_closed (f := fun s p => commitEntry s ctx handle p) (fun s p h => closed_commitEntry p h) kept _ hfirst
  generalize List.filter _ _ = lost
  have hlost := foldl_closed (f := decFrame) (fun s b h => closed_of_tables (u := decFrame s b) rfl h) lost _ hkept
  exact closed_of_tables rfl hlost

end

/-- R252: the blocks of a STORE are written. -/
def stored (q : StoreReq) (s : State) (x : Thread) : State × Thread :=
  ((kvStore s q).getD s, addMov (noteCtx ((kvStore s q).getD s) x [] (storedRanges ((kvStore s q).getD s) q)))

section
variable {c : RC} {bs : List Byte} {i : RoomIns} {w : WalkTable} {kt : KvTable}

theorem verifyOpen_issues {addr : Nat} {ps : List (Option Nat)} (hw : walkRec c.b (walkDesc bs) = some w) (hkt : getKv c.s c.ctx w.handle = some kt)
    (haddr : dbits (sReg c.th i.a.toNat) 0 32 = addr) (hhigh : dbits (sReg c.th i.a.toNat) 32 32 = 0) (hspad : c.inSpad addr 16 64 = true)
    (hnone : kt.session = none) (htree : treeParents (c.spad addr 16) = some ps) : verifyOpen c bs i
      = c.issue 6 [rSpad addr 16] [] .unit (fun s x => (walkTag (openSession s c.t w (c.spad addr 16) ps) c.t.key (walkDesc bs) true, addMov x)) := by
  subst haddr
  unfold verifyOpen
  dsimp only
  rw [bind_walkRec hw hkt]
  dsimp only
  rw [if_neg (Classical.not_not.mpr hhigh), if_neg (by rw [hspad]; decide), if_neg (by rw [hnone]; decide), htree]

theorem walkCommit_issues (hw : walkRec c.b (walkDesc bs) = some w) (hkt : getKv c.s c.ctx w.handle = some kt)
    (hhigh : dbits (sReg c.th i.a.toNat) 32 32 = 0) (hopen : kt.session.isSome = true)
    (hleaf : candOk kt ((forcedLeaf c.p c.k w.handle).getD (dbits (sReg c.th i.b.toNat) 0 4)) = true) : walkCommit c bs i
      = c.issue 6 [] [] .unit (fun s x => (walkTag (kvCommit s c.ctx w.handle
          ((forcedLeaf c.p c.k w.handle).getD (dbits (sReg c.th i.b.toNat) 0 4)) c.k) c.t.key (walkDesc bs) true, addMov x)) := by
  unfold walkCommit
  dsimp only
  rw [bind_walkRec hw hkt]
  dsimp only
  rw [if_neg (Classical.not_not.mpr hhigh), if_neg (by rw [Option.isNone_eq_false_iff.mpr hopen, hleaf]; decide)]

/-! ## STORE -/

/-- R252: a STORE that its checks let pass, with its request `q`. -/
theorem walkStore_tries {addr : Nat} (hw : walkRec c.b (walkDesc bs) = some w) (hkt : getKv c.s c.ctx w.handle = some kt)
    (haddr : dbits (sReg c.th i.a.toNat) 0 32 = addr) (hhigh : dbits (sReg c.th i.a.toNat) 32 32 = 0)
    (hspad : c.inSpad addr (dbits (sReg c.th i.b.toNat) 44 8 * blockBytes w) 64 = true) (hindex : dbits (sReg c.th i.b.toNat) 0 32 < kt.size)
    (hblocks : dbits (sReg c.th i.b.toNat) 32 12 + dbits (sReg c.th i.b.toNat) 44 8 ≤ pageBlocks w kt.pageLog2)
    (hcand : candOk kt (dbits (sReg c.th i.b.toNat) 60 4) = true) (hout : (walkDesc bs).hasOut = false) :
    walkStore c bs i = (kvStore c.s (storeReq c.ctx w (sReg c.th i.b.toNat) (c.spad addr (dbits (sReg c.th i.b.toNat) 44 8 * blockBytes w)))).elim
      (c.issue 6 [rSpad addr (dbits (sReg c.th i.b.toNat) 44 8 * blockBytes w)] [] .alloc (fun s x =>
          (s, addMov { x with stores := x.stores ++ [{ desc := bs, sa := addr, sb := sReg c.th i.b.toNat, ord := nextOrd s }] })))
      (fun _ => c.issue 6 [rSpad addr (dbits (sReg c.th i.b.toNat) 44 8 * blockBytes w)] [] .unit
        (stored (storeReq c.ctx w (sReg c.th i.b.toNat) (c.spad addr (dbits (sReg c.th i.b.toNat) 44 8 * blockBytes w))))) := by
  subst haddr
  unfold walkStore
  dsimp only
  rw [bind_walkRec hw hkt]
  dsimp only
  rw [if_neg (Classical.not_not.mpr hhigh), if_neg (by rw [hspad]; decide), if_neg (Nat.not_le.mpr hindex), if_neg (Nat.not_lt.mpr hblocks),
    if_neg (by rw [hcand]; decide)]
  simp only [walkTag_none hout]
  split
  · next hs => rw [hs]; rfl
  · next hs => rw [hs]; rfl

/-- R244: the high half of an address operand is zero. -/
theorem high_refused {body : RC → List Byte → RoomIns → State} {v : Nat} (hw : walkRec c.b (walkDesc bs) = some w)
    (hkt : getKv c.s c.ctx w.handle = some kt) (hhigh : dbits (sReg c.th i.a.toNat) 32 32 ≠ 0)
    (hbody : body = walkStore ∨ body = verifyOpen ∨ body = walkCommit) (hv : (sReg c.th i.a.toNat).toNat = v) :
    body c bs i = c.refuse 0x0100 v := by
  subst hv
  rcases hbody with rfl | rfl | rfl
  · unfold walkStore
    dsimp only
    rw [bind_walkRec hw hkt]
    exact if_pos hhigh
  · unfold verifyOpen
    dsimp only
    rw [bind_walkRec hw hkt]
    exact if_pos hhigh
  · unfold walkCommit
    dsimp only
    rw [bind_walkRec hw hkt]
    exact if_pos hhigh

end

/-! ## The statement -/

/-- Settles O49: each operation passes its checks, issues on the move unit, and changes what its own step says. -/
theorem pageWalkerRequests : Obligations.PageWalkerRequests := by
  intro t i s c w kt h bs d a b addr goes hw hkt
  have hs := issuesAt_state h
  have hkt' : getKv c.s c.ctx w.handle = some kt := by
    rw [hs]
    exact hkt
  refine ⟨fun hop hhigh hspad hspots hexpand hcand hmay => ?gather, fun ps hop hhigh hspad hnone htree hmay => ?verify,
    fun hop hhigh hopen hleaf hmay => ?commit, fun hop hhigh hspad hindex hblocks hcand hout hmay => ⟨fun s1 hstore => ?stores, fun hstore => ?waits⟩,
    fun hhigh hlow hop => ?refused⟩
  case gather =>
    obtain ⟨live, hgather⟩ := gather_issues hw hkt' rfl hhigh hspad hspots hexpand hcand
    obtain ⟨y, l, hnoted, hissue⟩ := issue_noted (e := .chunk d.slot) h hmay
    have hexec : exec (.gather t i) s = .next (gather c bs i) := pgather_runs (body := fun c bs => gather c bs i) h rfl (by rw [hop]; rfl)
    have hrun := hexec.trans (congrArg Host.Outcome.next (hgather.trans (hissue _)))
    have hwalks : y.walks = c.th.walks := hnoted.sameRegs.walks
    have hpc : y.pc = c.th.pc := hnoted.sameRegs.pc
    have hslot : slotWalk { y with outs := l } d.slot = slotWalk c.th d.slot := by
      show y.walks.find? _ = _
      rw [hwalks]
      rfl
    have hgo : ∀ ws, GoesOn c.th (advance1 (addMov { y with outs := l, walks := ws })) :=
      fun ws => goesOn_like (z := addMov { y with outs := l, walks := ws }) hnoted rfl rfl rfl rfl rfl rfl rfl rfl
    cases hold : (slotWalk c.th d.slot).any (sameWalk bs (queryOf b)) with
    | true =>
      rw [requested_continues (by rw [hslot]; exact hold)] at hrun
      have hkeep := walkTag_keeps s c.t.key d live
      have hctxs := keep_ctxs hkeep
      have hmem := keep_mem hkeep
      have hthreads := keep_threads hkeep
      refine ⟨_, _, hrun, ⟨getTh_issued h hthreads (hgo _), (hgo _).regs, (hgo _).next⟩, hmem, fun _ => ⟨?_, ?_⟩, nofun⟩
      · exact congrArg Ctx.walks (DescBasics.getCtx_of_ctxs hctxs _)
      · show addChunk d.slot (_, addr, y.pc) y.walks = _
        rw [hwalks, hpc]
    | false =>
      rw [requested_starts (by rw [hslot]; exact hold)] at hrun
      have hkeep := walkTag_keeps (startWalk s c.ctx) c.t.key d live
      have hctxs := keep_ctxs hkeep
      have hmem := keep_mem hkeep
      have hthreads := keep_threads hkeep
      refine ⟨_, _, hrun, ⟨getTh_issued h hthreads (hgo _), (hgo _).regs, (hgo _).next⟩, hmem, nofun, fun _ => ⟨?_, ?_⟩⟩
      · exact (congrArg Ctx.walks (DescBasics.getCtx_of_ctxs hctxs _)).trans (getCtx_startWalk s c.ctx)
      · show addChunk d.slot (_, addr, y.pc) (sweepWalks (y.walks.map _) ++ _) = _
        rw [hwalks, hpc]
        rfl
  case verify =>
    obtain ⟨y, l, hnoted, hissue⟩ := issue_noted (e := .unit) h hmay
    have hverify := verifyOpen_issues hw hkt' rfl hhigh hspad hnone htree
    have hexec : exec (.verifyOpen t i) s = .next (verifyOpen c bs i) := pgather_runs (body := fun c bs => verifyOpen c bs i) h rfl (by rw [hop]; rfl)
    have hrun := hexec.trans (congrArg Host.Outcome.next (hverify.trans (hissue _)))
    have hkeep := walkTag_keeps (openSession s c.t w (c.spad addr 16) ps) c.t.key d true
    have htables := keep_tables hkeep
    have hmem := keep_mem hkeep
    have hthreads := keep_threads hkeep
    have hgo : GoesOn c.th _ := goesOn_like (z := addMov { y with outs := l }) hnoted rfl rfl rfl rfl rfl rfl rfl rfl
    refine ⟨_, _, hrun, ⟨getTh_issued h hthreads hgo, hgo.regs, hgo.next⟩, hmem, ?_⟩
    refine (getKv_of_tables htables _ _).trans ?_
    have hopened := getKv_modKv (g := fun kt => { kt with
      session := some { key := t.key, room := t.room, tree := c.spad addr 16, parents := ps, overlays := ps.map (fun _ => []) } })
      (fun _ => rfl) (fun _ => rfl) hkt
    rw [issuesAt_t h]
    rw [issuesAt_ctx h] at hopened ⊢
    exact hopened
  case commit =>
    obtain ⟨y, l, hnoted, hissue⟩ := issue_noted (e := .unit) h hmay
    have hcommit := walkCommit_issues hw hkt' hhigh hopen hleaf
    have hexec : exec (.commit t i) s = .next (walkCommit c bs i) := pgather_runs (body := fun c bs => walkCommit c bs i) h rfl (by rw [hop]; rfl)
    have hrun := hexec.trans (congrArg Host.Outcome.next (hcommit.trans (hissue _)))
    obtain ⟨v, hv⟩ : ∃ v, kvCommit s c.ctx w.handle ((forcedLeaf c.p c.k w.handle).getD (dbits (sReg c.th i.b.toNat) 0 4)) c.k = v := ⟨_, rfl⟩
    have hclosed := kvCommit_closes ((forcedLeaf c.p c.k w.handle).getD (dbits (sReg c.th i.b.toNat) 0 4)) c.k hkt hopen
    have hcommits : ∀ leaf, Keep { plans := true, tables := true, frames := true, decs := true } s (kvCommit s c.ctx w.handle leaf c.k) :=
      fun _ => kvCommit_keep rfl (keep_refl _ _)
    replace hcommits := hcommits ((forcedLeaf c.p c.k w.handle).getD (dbits (sReg c.th i.b.toNat) 0 4))
    rw [hv] at hrun hclosed hcommits
    have hkeep := walkTag_keeps v c.t.key d true
    have htables := keep_tables hkeep
    have hmem := (keep_mem hkeep).trans (keep_mem hcommits)
    have hthreads := (keep_threads hkeep).trans (keep_threads hcommits)
    have hgo : GoesOn c.th _ := goesOn_like (z := addMov { y with outs := l }) hnoted rfl rfl rfl rfl rfl rfl rfl rfl
    obtain ⟨kt', hkt'', hnone⟩ := closed_of_tables htables hclosed
    exact ⟨_, _, kt', hrun, ⟨getTh_issued h hthreads hgo, hgo.regs, hgo.next⟩, hmem, hkt'', hnone⟩
  case stores =>
    obtain ⟨y, l, hnoted, hissue⟩ := issue_noted (e := .unit) h hmay
    have hwalk := walkStore_tries hw hkt' rfl hhigh hspad hindex hblocks hcand hout
    rw [hs, hstore, Option.elim_some, hissue, stored, hstore, Option.getD_some] at hwalk
    have hexec : exec (.store t i) s = .next (walkStore c bs i) := pgather_runs (body := fun c bs => walkStore c bs i) h rfl (by rw [hop]; rfl)
    have hrun := hexec.trans (congrArg Host.Outcome.next hwalk)
    have hkeep : Keep { free := true, tables := true, frames := true, decs := true, mem := true } s s1 :=
      keepSome_elim (kvStore_keep rfl (keep_refl _ _)) hstore
    have hthreads := keep_threads hkeep
    obtain ⟨rds, wrs, dirty, hland⟩ := noted_noteCtx s1 { y with outs := l } []
      (storedRanges s1 (storeReq c.ctx w b (c.spad addr (dbits b 44 8 * blockBytes w))))
    have hgo : GoesOn c.th (advance1 (addMov (noteCtx s1 { y with outs := l } []
        (storedRanges s1 (storeReq c.ctx w b (c.spad addr (dbits b 44 8 * blockBytes w))))))) := by
      rw [hland]
      exact goesOn_like hnoted rfl rfl rfl rfl rfl rfl rfl rfl
    exact ⟨_, _, hrun, ⟨getTh_issued h hthreads hgo, hgo.regs, hgo.next⟩, rfl, rfl, rfl⟩
  case waits =>
    obtain ⟨y, l, hnoted, hissue⟩ := issue_noted (e := .alloc) h hmay
    have hwalk := walkStore_tries hw hkt' rfl hhigh hspad hindex hblocks hcand hout
    rw [hs, hstore, Option.elim_none, hissue] at hwalk
    have hexec : exec (.store t i) s = .next (walkStore c bs i) := pgather_runs (body := fun c bs => walkStore c bs i) h rfl (by rw [hop]; rfl)
    have hrun := hexec.trans (congrArg Host.Outcome.next hwalk)
    have hgo : GoesOn c.th _ := goesOn_like (z := addMov { y with
      outs := l, stores := y.stores ++ [{ desc := bs, sa := addr, sb := b, ord := nextOrd s }] }) hnoted rfl rfl rfl rfl rfl rfl rfl rfl
    have hstores : y.stores = c.th.stores := by
      obtain ⟨rds, wrs, dirty, rfl⟩ := hnoted
      rfl
    refine ⟨_, _, hrun, ⟨getTh_issued h rfl hgo, hgo.regs, hgo.next⟩, rfl, rfl, ?_⟩
    show y.stores ++ _ = _
    rw [hstores]
  case refused =>
    have hop' : d.op = 1 ∨ d.op = 2 ∨ d.op = 3 := by omega
    refine ⟨_, ?_, (issuesAt_refuse h 0x0100 a.toNat)⟩
    rcases hop' with hop | hop | hop
    · exact pgather_runs (body := fun c _ => c.refuse 0x0100 a.toNat) h rfl (by rw [hop]; exact high_refused hw hkt' hhigh (.inl rfl) rfl)
    · exact pgather_runs (body := fun c _ => c.refuse 0x0100 a.toNat) h rfl (by rw [hop]; exact high_refused hw hkt' hhigh (.inr (.inl rfl)) rfl)
    · exact pgather_runs (body := fun c _ => c.refuse 0x0100 a.toNat) h rfl (by rw [hop]; exact high_refused hw hkt' hhigh (.inr (.inr rfl)) rfl)

end Sys2Proof.Proofs.WalkRequests
end

section
/-! PROOFS. O50: the page walker's events: a chunk lands, a decrement arrives, the reclaim set is fixed (R48, R239, R247, R248). -/
namespace Sys2Proof.Proofs.WalkEvents

open Sys2Proof Sys2Proof.Machine Sys2Proof.Laws
open Sys2Proof.Proofs.StateParts Sys2Proof.Proofs.RoomBasics Sys2Proof.Proofs.RoomUnits Sys2Proof.Proofs.RoomWaits

/-! ## Bytes of a chunk slot -/

theorem padTo_length (bs : List Byte) (n : Nat) : (padTo bs n).length = n := by
  unfold padTo zeros
  rw [List.length_take, List.length_append, List.length_replicate]
  omega

theorem memRead_congr {m m' : List Host.Cell} : ∀ {n a : Nat}, (∀ q, a ≤ q → q < a + n → memByte m' q = memByte m q) →
    memRead m' a n = memRead m a n
  | 0, _, _ => rfl
  | n + 1, a, h => by
    rw [memRead, memRead, h a (Nat.le_refl a) (by omega), memRead_congr fun q hlo hhi => h q (by omega) (by omega)]

theorem blkBytes_length (s : State) (w : WalkTable) (b : Blk) : (blkBytes s w b).length = blockBytes w := by
  unfold blkBytes
  split
  · exact memRead_length _ _ _
  · exact List.length_replicate

theorem spadPa_add (r : RoomRec) (a k : Nat) : spadPa r (a + k) = spadPa r a + k := by
  unfold spadPa spadAddr
  omega

/-- R248: a block without expansion changes only its own data area. -/
theorem memByte_landBlock_out {e : Bool} {s : State} {r : RoomRec} {d : WalkDesc} {w : WalkTable} {addr q : Nat}
    (hexpand : d.expand = false) (acc : List Host.Cell × Nat) {kb : Nat × Blk}
    (h : q < spadPa r addr + areaStart d + kb.1 * areaBytes d w ∨ spadPa r addr + areaStart d + kb.1 * areaBytes d w + areaBytes d w ≤ q) :
    memByte (landBlock e s r d w addr acc kb).1 q = memByte acc.1 q := by
  have harea : areaBytes d w = blockBytes w := by rw [areaBytes, hexpand]; rfl
  have hbytes : (landBlock e s r d w addr acc kb).1 = memWrite acc.1 (spadPa r (addr + areaStart d + kb.1 * areaBytes d w)) (blkBytes s w kb.2) := by
    rw [landBlock, hexpand]
    rfl
  rw [hbytes]
  refine memByte_memWrite_out ?_
  rw [blkBytes_length, spadPa_add, spadPa_add, ← harea]
  exact h

/-- R248: the data areas of a chunk lie behind its records, as many as the chunk has places. -/
theorem memByte_landBlocks_out {e : Bool} {s : State} {r : RoomRec} {d : WalkDesc} {w : WalkTable} {addr q n : Nat}
    (hexpand : d.expand = false) (hq : q < spadPa r addr + areaStart d ∨ spadPa r addr + areaStart d + n * areaBytes d w ≤ q) :
    ∀ {l : List (Nat × Blk)} (acc : List Host.Cell × Nat), (∀ kb ∈ l, kb.1 < n) →
      memByte (l.foldl (landBlock e s r d w addr) acc).1 q = memByte acc.1 q
  | [], _, _ => rfl
  | kb :: l, acc, hl => by
    rw [List.foldl_cons, memByte_landBlocks_out hexpand hq _ fun kb' h => hl kb' (List.mem_cons_of_mem _ h)]
    have hk : kb.1 * areaBytes d w + areaBytes d w ≤ n * areaBytes d w := by
      rw [← Nat.succ_mul]
      exact Nat.mul_le_mul_right _ (hl kb List.mem_cons_self)
    exact memByte_landBlock_out hexpand acc (by omega)

theorem enum_lt {A : Type} {l : List A} {kb : Nat × A} (h : kb ∈ enum l) : kb.1 < l.length := by
  obtain ⟨k, b⟩ := kb
  exact List.mem_range.mp (List.of_mem_zip h).1

/-! ## A chunk lands -/

/-- R248: header, records and data areas of a chunk, as they stand in memory once it has landed. -/
def landedMem (e : Bool) (s : State) (r : RoomRec) (d : WalkDesc) (w : WalkTable) (addr : Nat) (header : List Byte) (blocks : List Blk) :
    List Host.Cell × Nat :=
  (enum blocks).foldl (landBlock e s r d w addr)
    (memWrite (memWrite s.mem (spadPa r addr) header) (spadPa r (addr + 64)) (padTo ((blocks.map blkRecord).flatten) (areaStart d - 64)), 0)

section
variable {e : Bool} {s : State} {r : RoomRec} {d : WalkDesc} {w : WalkTable} {addr : Nat} {header : List Byte} {blocks : List Blk}
  (hexpand : d.expand = false) (hheader : header.length = 64) (hblocks : blocks.length ≤ d.chunk)
include hexpand hheader hblocks

theorem memByte_landedMem_out {q : Nat} (hq : q < spadPa r addr ∨ spadPa r addr + slotBytes d w ≤ q) :
    memByte (landedMem e s r d w addr header blocks).1 q = memByte s.mem q := by
  have hslot : slotBytes d w = areaStart d + d.chunk * areaBytes d w := by rw [slotBytes, hexpand]; rfl
  have hstart : 64 ≤ areaStart d := Nat.le_add_right _ _
  unfold landedMem
  rw [memByte_landBlocks_out (n := d.chunk) hexpand (by omega) _ fun kb h => Nat.lt_of_lt_of_le (enum_lt h) hblocks,
    memByte_memWrite_out (by rw [padTo_length, spadPa_add]; omega), memByte_memWrite_out (by omega)]

theorem memRead_landedMem_header (hwf : Memory.wf s.mem = true) : memRead (landedMem e s r d w addr header blocks).1 (spadPa r addr) 64 = header := by
  have hstart : 64 ≤ areaStart d := Nat.le_add_right _ _
  calc memRead (landedMem e s r d w addr header blocks).1 (spadPa r addr) 64
      = memRead (memWrite s.mem (spadPa r addr) header) (spadPa r addr) header.length := by
        rw [hheader]
        refine memRead_congr fun q hlo hhi => ?_
        unfold landedMem
        rw [memByte_landBlocks_out (n := d.chunk) hexpand (by omega) _ fun kb h => Nat.lt_of_lt_of_le (enum_lt h) hblocks,
          memByte_memWrite_out (by rw [spadPa_add]; omega)]
    _ = header := memRead_memWrite hwf

end

/-- What a landed chunk leaves of its program. -/
def chunkTaken (slot cycles : Nat) (e : Bool) (d : WalkDesc) (w : WalkTable) (ended : Bool) (x : Thread) : Thread :=
  { x with
    walks := walkLanded slot ended x.walks, meter := expandCycles e d w cycles x.meter, outs := dropFirst (fun o => o.ends == .chunk slot) x.outs }

/-- The chunk's bytes in memory and its program behind it; the pages touched and the skips reported are left (R233, R258). -/
def chunkIn (s : State) (t : Tid) (slot : Nat) (e : Bool) (d : WalkDesc) (w : WalkTable) (ended : Bool) (m : List Host.Cell × Nat) : State :=
  modTh { s with mem := m.1 } t (chunkTaken slot m.2 e d w ended)

theorem reports_keep (s : State) (t : Tid) (k handle : Nat) (blocks : List Blk) (l : List Nat) :
    Keep { dev := true, plans := true, frames := true, flog := true, links := true } s
      (l.foldl (fun s i => reportSkip s t k handle i) (touchBlocks s blocks)) :=
  keep_foldl (fun _ _ h => reportSkip_keep rfl h) (touchBlocks_keep rfl (keep_refl _ _))

theorem getFrame_modFrame (s : State) (b : Nat) {g : Frame → Frame} (hg : ∀ f, (g f).base = f.base) :
    getFrame (modFrame s b g) b = (getFrame s b).map g := by
  cases hf : getFrame s b with
  | some x => exact find_updFirst_eq (fun a ha => by rw [hg]; exact ha) hf
  | none =>
    have hnone := map_find_updFirst (p := fun f => f.base == b) (q := fun f => f.base == b) (g := g) (f := fun _ => ())
      (fun a => congrArg (· == b) (hg a)) (fun _ => rfl) s.frames
    have hf' : s.frames.find? (fun f => f.base == b) = none := hf
    rw [hf'] at hnone
    exact Option.map_eq_none_iff.mp hnone

/-- Settles O50: a chunk's writes lie in its slot, the header first; decrements and the reclaim set are as their definitions say. -/
theorem pageWalkerEvents : Obligations.PageWalkerEvents := by
  refine ⟨?chunk, ?decrement, ?reclaim⟩
  case chunk =>
    intro t slot s x p r b wk w kt chunk addr pc halive hok hx hrun hp hr hbody htake d hw hkt hexpand forced all blocks
    obtain ⟨header, hheader⟩ : ∃ h, chunkHeader blocks d.chunk (chunk * d.chunk) all.length wk.gen = h := ⟨_, rfl⟩
    have hlen : header.length = 64 := by rw [← hheader]; exact padTo_length _ _
    have hblocks : blocks.length ≤ d.chunk := List.length_take_le _ _
    obtain ⟨ended, hended⟩ : ∃ e, decide (all.length ≤ chunk * d.chunk + d.chunk) = e := ⟨_, rfl⟩
    obtain ⟨m, hm⟩ : ∃ m, landedMem b.reference s r d w addr header blocks = m := ⟨_, rfl⟩
    let y := chunkTaken slot m.2 b.reference d w ended x
    obtain ⟨u, hu, hkeep⟩ : ∃ u, chunkLand s t slot = u
        ∧ Keep { dev := true, plans := true, frames := true, flog := true, links := true } (chunkIn s t slot b.reference d w ended m) u := by
      refine ⟨_, ?_, reports_keep _ t (stepOf s t.key) w.handle blocks ((blocks.filter (·.skip)).map (·.spot.index)).eraseDups⟩
      have hpair : (walkRec b d).bind (fun w => (getKv s t.key.ctx w.handle).map fun kt => (w, kt)) = some (w, kt) := by
        rw [hw, Option.bind_some, hkt]
        rfl
      unfold chunkLand
      rw [hx, hp, hr]
      dsimp only
      rw [htake, hbody]
      dsimp only
      rw [hpair, ← hm, ← hheader, ← hended]
      rfl
    have hthreads : u.threads = (chunkIn s t slot b.reference d w ended m).threads := keep_threads hkeep
    have hmem : u.mem = m.1 := keep_mem hkeep
    have hy : getTh u t = some y :=
      (getTh_of_threads hthreads t).trans (getTh_modTh_eq (s := { s with mem := m.1 }) hx fun _ => rfl)
    have hexec : exec (.walkChunkLand t slot) s = .next u := by
      refine congrArg Host.Outcome.next ?_
      rw [if_pos halive, hu, settleWait_running hy hrun]
    refine ⟨u, y, hexec, hy, keepsRegs_of_eq rfl rfl rfl rfl rfl, rfl, congrArg (walkLanded slot · x.walks) hended.symm, rfl, ?_, fun q hq => ?_⟩
    · rw [hmem, hheader, ← hm]
      exact memRead_landedMem_header hexpand hlen hblocks (memWf_of_memOk hok)
    · rw [hmem, ← hm]
      exact memByte_landedMem_out hexpand hlen hblocks hq
  case decrement =>
    intro f s
    refine ⟨fun hin => ⟨_, congrArg Host.Outcome.next (if_pos hin), rfl, ?_⟩,
      fun hout => congrArg Host.Outcome.next (if_neg (by rw [hout]; decide))⟩
    exact getFrame_modFrame { s with decs := dropFirst (· == f) s.decs } f fun _ => rfl
  case reclaim =>
    intro s hticking hrunning hopen
    refine ⟨_, congrArg Host.Outcome.next (if_pos ?_), rfl⟩
    rw [hticking, hrunning, hopen]
    rfl

end Sys2Proof.Proofs.WalkEvents
end

section
/-! PROOFS. O51: PORCH_SEND and PORCH_RECV, announces and pieces (R331, R334 to R340). -/
namespace Sys2Proof.Proofs.PorchOps

open Sys2Proof Sys2Proof.Machine Sys2Proof.Laws
open Sys2Proof.Proofs.StateParts Sys2Proof.Proofs.RoomBasics Sys2Proof.Proofs.RoomUnits Sys2Proof.Proofs.RoomWaits
open Sys2Proof.Proofs.DescBasics

/-! ## The porch side stands -/

/-- No transfer under way can go on. -/
def stands (s : State) : Prop := ∀ x ∈ s.threads, x.xfers ≠ [] → stepXfers s x.tid = s

/-- The messages that waited are taken. -/
def emptied (s : State) : State := { s with links := { s.links with pieces := [] } }

theorem emptied_self {s : State} (h : s.links.pieces = []) : emptied s = s := by
  unfold emptied
  rw [← h]

section
variable {s u : State}

theorem rounds_standing (h : stands s) :
    ((s.threads.filter (fun x => !x.xfers.isEmpty)).map (·.tid)).foldl stepXfers s = s := by
  refine foldl_fixed fun t ht => ?_
  obtain ⟨x, hx, rfl⟩ := List.mem_map.mp ht
  obtain ⟨hmem, hbusy⟩ := List.mem_filter.mp hx
  exact h x hmem fun hnil => by rw [hnil] at hbusy; cases hbusy

theorem driveOnce_stands (h : stands s) (hpieces : s.links.pieces = []) : driveOnce s = s := by
  unfold driveOnce
  rw [rounds_standing h]
  dsimp only
  rw [hpieces]
  exact emptied_self hpieces

/-- R338 to R340: the one message that waits is taken. -/
theorem driveOnce_takes {m : Msg} (h : stands s) (hpieces : s.links.pieces = [m]) (hmsg : collMsg s m = some u) : driveOnce s = emptied u := by
  unfold driveOnce
  rw [rounds_standing h]
  dsimp only
  rw [hpieces]
  simp only [tryHeld, List.any_nil, Bool.false_eq_true, if_false, hmsg]
  rfl

theorem repeat_driveOnce (h1 : driveOnce s = u) (h2 : driveOnce u = u) (n : Nat) : Nat.repeat driveOnce (n + 1) s = u := by
  induction n with
  | zero => exact h1
  | succ n ih => rw [Nat.repeat, ih, h2]

theorem drive_settles (h1 : driveOnce s = u) (h2 : driveOnce u = u) : drive s = u := repeat_driveOnce h1 h2 _

theorem drive_stands (h : stands s) (hpieces : s.links.pieces = []) : drive s = s :=
  drive_settles (driveOnce_stands h hpieces) (driveOnce_stands h hpieces)

theorem stands_of_quiet (h : ∀ x ∈ s.threads, x.xfers = []) : stands s := fun x hx hbusy => absurd (h x hx) hbusy

end

/-! ## A transfer that waits -/

theorem updFirst_updFirst {A : Type} {p : A → Bool} {f g : A → A} (hf : ∀ a, p (f a) = p a) (l : List A) :
    updFirst p g (updFirst p f l) = updFirst p (fun a => g (f a)) l := by
  induction l with
  | nil => rfl
  | cons a l ih =>
    by_cases ha : p a = true
    · simp only [updFirst, ha, if_true, hf]
    · simp [updFirst, ha, ih]

theorem modTh_modTh {s : State} {t : Tid} {f g : Thread → Thread} (hf : ∀ x, (f x).tid = x.tid) :
    modTh (modTh s t f) t g = modTh s t (fun x => g (f x)) := by
  unfold modTh
  dsimp only
  rw [updFirst_updFirst fun x => by rw [hf]]

theorem thColl_of_parts {s u : State} (hplans : u.plans = s.plans) (hdev : u.dev = s.dev) (t : Tid) (k : Nat) :
    thColl u t k = thColl s t k := by
  unfold thColl collCtx
  rw [getPlan_of_plans hplans, hdev]

section
variable {s : State} {t : Tid} {x : Thread} {c : CollCtx} {i : Inst} {q : Xfer} {p : PeerSt}

/-- R338, R339: a transfer waits for its peer's announce, or for its pieces. -/
theorem stepXfer_waits (hx : getTh s t = some x) (hxfers : x.xfers = [q]) (hc : thColl s t q.coll = some c) (hi : instOf x q = some i)
    (hann : tryAnnounce s t c i q = s) (hmatch : tryMatch s t c i q = s) (hp : peerOf i q.peer q.carr = some p)
    (hwait : p.matched = false ∨ q.send = false ∧ q.elems ≠ 0) : stepXfer s t q.id = s := by
  have hfind : x.xfers.find? (fun r => r.id == q.id) = some q := by rw [hxfers]; simp
  unfold stepXfer
  rw [hx, Option.bind_some, hfind]
  dsimp only
  rw [hc, Option.bind_some, hi]
  dsimp only
  rw [hann, hx, Option.bind_some, hi, Option.getD_some, hmatch, hx]
  dsimp only
  rw [hi, Option.any_some, hp, Option.any_some]
  split
  · rfl
  · rename_i hgo
    obtain hun | ⟨hsend, helems⟩ := hwait
    · simp [hun] at hgo
    · rw [hsend, if_neg (by decide), if_neg helems]

theorem stepXfers_waits (hx : getTh s t = some x) (hxfers : x.xfers = [q]) (hstep : stepXfer s t q.id = s) : stepXfers s t = s := by
  unfold stepXfers
  rw [hx]
  show (x.xfers.map (·.id)).foldl (fun s id => stepXfer s t id) s = s
  rw [hxfers]
  exact hstep

theorem stepXfers_idle (hx : getTh s t = some x) (hxfers : x.xfers = []) : stepXfers s t = s := by
  unfold stepXfers
  rw [hx]
  show (x.xfers.map (·.id)).foldl (fun s id => stepXfer s t id) s = s
  rw [hxfers]
  rfl

theorem stepXfers_quiet (h : ∀ x ∈ s.threads, x.xfers = []) : stepXfers s t = s := by
  cases hx : getTh s t with
  | none => unfold stepXfers; rw [hx]; rfl
  | some x => exact stepXfers_idle hx (h x (List.mem_of_find?_eq_some hx))

/-- Only one program has transfers under way. -/
def loneXfers (s : State) (t : Tid) : Prop := ∀ y ∈ s.threads, y.tid ≠ t → y.xfers = []

theorem stands_of_lone (hothers : loneXfers s t) (hstep : stepXfers s t = s) : stands s := fun y hy hbusy => by
  have ht : y.tid = t := Classical.not_not.mp fun hne => hbusy (hothers y hy hne)
  rw [ht]
  exact hstep

theorem loneXfers_modTh {g : Thread → Thread} (htid : ∀ y, y.tid = t → (g y).tid = t) (hothers : loneXfers s t) :
    loneXfers (modTh s t g) t := by
  unfold loneXfers modTh at *
  intro y hy hne
  dsimp only at hy
  generalize s.threads = l at hy hothers
  induction l with
  | nil => cases hy
  | cons z l ih =>
    unfold updFirst at hy
    split at hy
    · rename_i hz
      obtain hy | hy := List.mem_cons.mp hy
      · exact absurd (hy ▸ htid z (beq_iff_eq.mp hz)) hne
      · exact hothers y (List.mem_cons_of_mem _ hy) hne
    · obtain hy | hy := List.mem_cons.mp hy
      · exact hothers y (hy ▸ List.mem_cons_self) hne
      · exact ih hy fun w hw => hothers w (List.mem_cons_of_mem _ hw)

/-- R338: without a port to the peer no announce leaves, and without an announce nothing matches. -/
theorem stepXfer_alone (hx : getTh s t = some x) (hxfers : x.xfers = [q]) (hc : thColl s t q.coll = some c) (hi : instOf x q = some i)
    (hp : peerOf i q.peer q.carr = some p) (hun : p.matched = false) (hport : directPorts s (c.g.members.getD q.peer 4096) = [])
    (hannc : s.links.anncs = []) : stepXfer s t q.id = s := by
  refine stepXfer_waits hx hxfers hc hi ?_ ?_ hp (.inl hun)
  · unfold tryAnnounce
    dsimp only
    rw [hport]
    exact if_pos (Bool.or_true _)
  · unfold tryMatch
    rw [hannc, hp]
    rfl

/-- R339: a receive whose announces have matched waits for its pieces. -/
theorem stepXfer_receives (hx : getTh s t = some x) (hxfers : x.xfers = [q]) (hc : thColl s t q.coll = some c) (hi : instOf x q = some i)
    (hp : peerOf i q.peer q.carr = some p) (hsent : p.sent = true) (hmatched : p.matched = true) (hrecv : q.send = false)
    (helems : q.elems ≠ 0) : stepXfer s t q.id = s := by
  refine stepXfer_waits hx hxfers hc hi ?_ ?_ hp (.inr ⟨hrecv, helems⟩)
  · unfold tryAnnounce
    rw [hp, Option.all_some, hsent]
    rfl
  · unfold tryMatch
    rw [hp]
    split
    · rename_i hp' _
      cases hp'
      rw [hmatched]
      rfl
    · rfl

end

/-! ## A message of a collective comes in -/

section
variable {s u : State} {m : Msg}

/-- R318: a message of a collective stands before the porch side, its sequence moved on. -/
def held (s : State) (m : Msg) : State := { s with links := { (bumpRx s m).links with pieces := [m] } }

theorem held_threads : (held s m).threads = s.threads := rfl
theorem held_pieces : (held s m).links.pieces = [m] := rfl
theorem held_anncs : (held s m).links.anncs = s.links.anncs := rfl
theorem headRoom_held (h : CollHead) : headRoom (held s m) h = headRoom s h := rfl
theorem headClosed_held (t : Tid) (c : CollCtx) (h : CollHead) : headClosed (held s m) t c h = headClosed s t c h := rfl
theorem recvFor_held (t : Tid) (h : CollHead) : recvFor (held s m) t h = recvFor s t h := rfl
theorem thRec_held (t : Tid) : thRec (held s m) t = thRec s t := rfl
theorem thColl_held (t : Tid) (k : Nat) : thColl (held s m) t k = thColl s t k := rfl
theorem getTh_held (t : Tid) : getTh (held s m) t = getTh s t := rfl

theorem emptied_threads : (emptied u).threads = u.threads := rfl
theorem emptied_pieces : (emptied u).links.pieces = [] := rfl
theorem emptied_mem : (emptied u).mem = u.mem := rfl
theorem emptied_anncs : (emptied u).links.anncs = u.links.anncs := rfl
theorem emptied_discards : (emptied u).links.discards = u.links.discards := rfl

theorem collIn_takes {kind : Nat} (halive : alive s = true) (hnext : msgNext s m = true) (htype : msgType m = 0) (hlen : 48 ≤ msgLen m)
    (hkind : (collHead (msgData m)).ckind = kind) (hpieces : s.links.pieces = []) (hstands : stands (held s m))
    (hmsg : collMsg (held s m) m = some u) (hafter : stands (emptied u)) : collIn s m kind = emptied u := by
  have hheld : ({ bumpRx s m with links := { (bumpRx s m).links with pieces := (bumpRx s m).links.pieces ++ [m] } } : State) = held s m := by
    have hnil : (bumpRx s m).links.pieces = [] := hpieces
    rw [hnil]
    rfl
  unfold collIn
  rw [if_neg (by simp [halive, hnext, htype, hkind, hlen])]
  dsimp only
  rw [hheld]
  exact drive_settles (driveOnce_takes hstands held_pieces hmsg) (driveOnce_stands hafter rfl)

/-- The same where no transfer is under way, before and after. -/
theorem collIn_takes_quiet {kind : Nat} (halive : alive s = true) (hnext : msgNext s m = true) (htype : msgType m = 0)
    (hlen : 48 ≤ msgLen m) (hkind : (collHead (msgData m)).ckind = kind) (hquiet : porchQuiet s) (hmsg : collMsg (held s m) m = some u)
    (hthreads : u.threads = s.threads) : collIn s m kind = emptied u := by
  obtain ⟨hxfers, hpieces⟩ := hquiet
  refine collIn_takes halive hnext htype hlen hkind hpieces (stands_of_quiet hxfers) hmsg (stands_of_quiet ?_)
  rw [emptied_threads, hthreads]
  exact hxfers

/-! ## Announces and messages for no plan -/

/-- R338: an announce as the room's store keeps it. -/
def anncOf (t : Tid) (m : Msg) : Annc :=
  { room := t.room, src := msgSrc m, rank := (collHead (msgData m)).rank, carr := (collHead (msgData m)).carr,
    group := (collHead (msgData m)).key, collTag := (collHead (msgData m)).collTag, coll := (collHead (msgData m)).coll,
    bound := (collHead (msgData m)).bound, sysTick := (collHead (msgData m)).sysTick, seq := (collHead (msgData m)).seq }

/-- R338: the announce has entered the store. -/
def stored (s : State) (m : Msg) (t : Tid) : State :=
  { visible s m with links := { (visible s m).links with anncs := (visible s m).links.anncs ++ [anncOf t m] } }

theorem stored_threads (t : Tid) : (stored s m t).threads = s.threads := rfl
theorem stored_anncs (t : Tid) : (stored s m t).links.anncs = s.links.anncs ++ [anncOf t m] := rfl

theorem takeAnnounce_stores {t : Tid} (hspace : (s.links.anncs.filter (fun a => a.room == t.room)).length < 4096)
    (hxfers : ∀ x ∈ s.threads, x.xfers = []) : takeAnnounce s m t (collHead (msgData m)) = some (stored s m t) := by
  unfold takeAnnounce
  rw [if_neg (Nat.not_le.mpr hspace)]
  exact congrArg some (stepXfers_quiet (s := stored s m t) hxfers)

theorem collMsg_stores {t : Tid} {c : CollCtx} (hkind : (collHead (msgData m)).ckind = 0)
    (hroom : headRoom s (collHead (msgData m)) = some (t, c)) (hopen : headClosed s t c (collHead (msgData m)) = false)
    (hspace : (s.links.anncs.filter (fun a => a.room == t.room)).length < 4096) (hxfers : ∀ x ∈ s.threads, x.xfers = []) :
    collMsg s m = some (stored s m t) := by
  unfold collMsg
  dsimp only
  rw [hroom]
  dsimp only
  rw [hopen, if_neg (by decide), if_pos hkind, takeAnnounce_stores hspace hxfers]

theorem collMsg_discards (hroom : headRoom s (collHead (msgData m)) = none) : collMsg s m = some (Machine.discard s m (collHead (msgData m))) := by
  unfold collMsg
  dsimp only
  rw [hroom]

/-- R340: what a discarded message changes: the count, and the record of the first of its sender. -/
theorem discard_counts (h : CollHead) : (Machine.discard s m h).links.discards = s.links.discards + 1
    ∧ (Machine.discard s m h).links.anncs = s.links.anncs ∧ (Machine.discard s m h).mem = s.mem ∧ (Machine.discard s m h).threads = s.threads := by
  unfold Machine.discard
  dsimp only
  split <;> exact ⟨rfl, rfl, rfl, rfl⟩

theorem collIn_discards {kind : Nat} (halive : alive s = true) (hnext : msgNext s m = true) (htype : msgType m = 0) (hlen : 48 ≤ msgLen m)
    (hquiet : porchQuiet s) (hroom : headRoom s (collHead (msgData m)) = none) (hkind : (collHead (msgData m)).ckind = kind) :
    (collIn s m kind).links.discards = s.links.discards + 1 ∧ (collIn s m kind).links.anncs = s.links.anncs ∧ (collIn s m kind).mem = s.mem := by
  obtain ⟨hcount, hanncs, hmem, hthreads⟩ := discard_counts (s := held s m) (m := m) (collHead (msgData m))
  rw [collIn_takes_quiet halive hnext htype hlen hkind hquiet (collMsg_discards (by rw [headRoom_held]; exact hroom)) hthreads]
  rw [emptied_discards, emptied_anncs, emptied_mem]
  exact ⟨hcount, hanncs, hmem⟩

/-! ## A piece lands -/

/-- R339: the receive as a further piece of it has landed. -/
def gotPiece (q : Xfer) (x : Thread) : Thread := { x with xfers := updFirst (fun r => r.id == q.id) (fun r => { r with got := r.got + 1 }) x.xfers }

/-- R336, R342: the program as its receive completes. -/
def gotAll (q : Xfer) (x : Thread) : Thread :=
  setStage { x with xfers := x.xfers.filter (fun r => r.id != q.id), outs := x.outs.filter (fun o => !outOf q.id o) } q.coll q.buf .holding

/-- R339: the piece stands in the scratchpad and is visible. -/
def landed (s : State) (m : Msg) (r : RoomRec) (c : CollCtx) (q : Xfer) : State :=
  visible (landPiece s r c q (collHead (msgData m)).piece ((msgData m).drop 48)) m

section
variable {t : Tid} {c : CollCtx} {x : Thread} {q : Xfer} {r : RoomRec}

theorem landPiece_parts (k : Nat) (bs : List Byte) : (landPiece s r c q k bs).threads = s.threads ∧ (landPiece s r c q k bs).plans = s.plans
    ∧ (landPiece s r c q k bs).dev = s.dev := by
  unfold landPiece
  dsimp only
  split <;> exact ⟨rfl, rfl, rfl⟩

theorem landed_parts : (landed s m r c q).threads = s.threads ∧ (landed s m r c q).plans = s.plans ∧ (landed s m r c q).dev = s.dev
    ∧ (landed s m r c q).mem = (landPiece s r c q (collHead (msgData m)).piece ((msgData m).drop 48)).mem := by
  obtain ⟨hthreads, hplans, hdev⟩ := landPiece_parts (s := s) (r := r) (c := c) (q := q) (collHead (msgData m)).piece ((msgData m).drop 48)
  exact ⟨hthreads, hplans, hdev, rfl⟩

theorem collMsg_lands (hkind : (collHead (msgData m)).ckind = 1) (hroom : headRoom s (collHead (msgData m)) = some (t, c))
    (hopen : headClosed s t c (collHead (msgData m)) = false) (hrecv : recvFor s t (collHead (msgData m)) = some q) (hr : thRec s t = some r)
    (hgood : q.bad = false) (htag : (collHead (msgData m)).tag = q.tag) (helems : (collHead (msgData m)).elems = q.elems) :
    collMsg s m = some (if q.got + 1 ≥ (collHead (msgData m)).pieces then recvDone (landed s m r c q) t q
      else modXfer (landed s m r c q) t q.id (fun q => { q with got := q.got + 1 })) := by
  unfold collMsg
  dsimp only
  rw [hroom]
  dsimp only
  rw [hopen, if_neg (by decide), if_neg (by rw [hkind]; decide)]
  unfold takePiece
  rw [hrecv, hr]
  dsimp only
  rw [if_neg (by simp [hgood, htag, helems])]
  rfl

theorem recvDone_gotAll (hx : getTh s t = some x) (hrun : running x) : recvDone s t q = modTh s t (gotAll q) := by
  have hboth : modTh (endXfer s t q.id) t (fun x => setStage x q.coll q.buf .holding) = modTh s t (gotAll q) :=
    modTh_modTh (fun _ => rfl)
  unfold recvDone
  rw [hboth]
  exact settleWait_running (getTh_modTh_eq hx fun _ => rfl) hrun

theorem gotPiece_xfers (hxfers : x.xfers = [q]) : (gotPiece q x).xfers = [{ q with got := q.got + 1 }] := by
  unfold gotPiece
  dsimp only
  rw [hxfers]
  exact if_pos (beq_self_eq_true q.id)

theorem gotAll_xfers (hxfers : x.xfers = [q]) : (gotAll q x).xfers = [] := by
  show x.xfers.filter (fun r => r.id != q.id) = []
  rw [hxfers]
  simp

/-- R339, R340: a piece for a receive of the one program with transfers, which then waits for more or is complete. -/
theorem piece_taken {g : Thread → Thread} (htid : ∀ y, (g y).tid = y.tid) (halive : alive s = true) (hnext : msgNext s m = true)
    (htype : msgType m = 0) (hlen : 48 ≤ msgLen m) (hpieces : s.links.pieces = []) (hkind : (collHead (msgData m)).ckind = 1)
    (hx : getTh s t = some x) (hothers : loneXfers s t) (hstep : stepXfers (held s m) t = held s m)
    (hmsg : collMsg (held s m) m = some (modTh (landed (held s m) m r c q) t g))
    (hafter : stepXfers (emptied (modTh (landed (held s m) m r c q) t g)) t = emptied (modTh (landed (held s m) m r c q) t g)) :
    ∃ u, exec (.piece m) s = .next u ∧ getTh u t = some (g x)
      ∧ u.mem = (landPiece s r c q (collHead (msgData m)).piece ((msgData m).drop 48)).mem := by
  obtain ⟨hthreads, hplans, hdev, hmem⟩ := landed_parts (s := held s m) (m := m) (r := r) (c := c) (q := q)
  have hlone : loneXfers (landed (held s m) m r c q) t := by
    unfold loneXfers
    rw [hthreads]
    exact hothers
  have hlone' : loneXfers (emptied (modTh (landed (held s m) m r c q) t g)) t := loneXfers_modTh (fun y hy => (htid y).trans hy) hlone
  refine ⟨_, congrArg Host.Outcome.next (collIn_takes halive hnext htype hlen hkind hpieces (stands_of_lone hothers hstep) hmsg
    (stands_of_lone hlone' hafter)), ?_, ?_⟩
  · refine getTh_modTh_eq (s := landed (held s m) m r c q) ?_ htid
    rw [getTh_of_threads hthreads]
    exact hx
  · refine hmem.trans ?_
    unfold landPiece
    dsimp only
    split <;> rfl

end

end

/-! ## PORCH_SEND and PORCH_RECV -/

/-- R331: the transfer that a porch instruction begins. -/
def xferOf (c : RC) (i : RoomIns) (x : Thread) (inst : Inst) (send : Bool) (bytes : List Byte) : Xfer :=
  let d := porchDesc (c.desc i.imm.toNat 32)
  let b := sReg c.th i.b.toNat
  { id := x.ticket, send := send, inst := inst.id, coll := d.coll, peer := dbits b 32 12, carr := dbits b 44 6, tag := BitVec.ofNat 32 (dbits b 0 32),
    elems := d.elems, fp32 := d.fp32, buf := d.buf, addr := (sReg c.th i.a.toNat).toNat, bytes := bytes, sysTick := inst.sysTick,
    seq := inst.seq, pc := x.pc }

/-- R126, R334: the program with its transfer under way. -/
def withXfer (q : Xfer) (l : List Out) (reads writes : List Range) (x : Thread) : Thread :=
  { x with
    ticket := q.id + 1, xfers := x.xfers ++ [q],
    outs := l ++ [{ unit := 6, reads := reads, writes := writes, ends := if q.send then .send q.id else .recv q.id }] }

/-- R338, R342: the peer is named, and a receive takes its staging buffer. -/
def begunXfer (q : Xfer) (inst : Inst) (l : List Out) (reads writes : List Range) (x : Thread) : Thread :=
  let x1 := namePeer (withXfer q l reads writes x) inst q.peer q.carr
  if q.send then x1 else setStage x1 q.coll q.buf .midReduction

/-- The program as it goes on behind the instruction. -/
def beginXfer (q : Xfer) (inst : Inst) (l : List Out) (reads writes : List Range) (x : Thread) : Thread :=
  advance1 (addMov (begunXfer q inst l reads writes x))

section
variable {s : State} {t : Tid} {i : RoomIns} {c : RC} {k : CollCtx} {x : Thread} {inst : Inst} {l : List Out}

theorem porch_runs (h : issuesAt s t i c) {send : Bool} {reads writes : List Range} {bytes : List Byte} {n : Nat}
    (hn : porchBytes (porchDesc (c.desc i.imm.toNat 32)) (tagFmt k.r (BitVec.ofNat 32 (dbits (sReg c.th i.b.toNat) 0 32))) = n)
    (hk : collCtx s c.b c.r.room (porchDesc (c.desc i.imm.toNat 32)).coll = some k)
    (hin : c.inSpad (sReg c.th i.a.toNat).toNat n 64 = true) (hrank : dbits (sReg c.th i.b.toNat) 32 12 < k.g.members.length)
    (hpeer : dbits (sReg c.th i.b.toNat) 32 12 ≠ k.rank) (haligned : unaligned s k (porchDesc (c.desc i.imm.toNat 32)) = false)
    (hinst : porchInst c k (porchDesc (c.desc i.imm.toNat 32)) = some (x, inst))
    (hreads : (if send then [rSpad (sReg c.th i.a.toNat).toNat n] else []) = reads)
    (hwrites : (if send then [] else [rSpad (sReg c.th i.a.toNat).toNat n]) = writes)
    (hfree : holdFor c.th.outs 6 reads writes = some l)
    (hstage : send = true ∨ pGet c.th.stages ((porchDesc (c.desc i.imm.toNat 32)).coll, (porchDesc (c.desc i.imm.toNat 32)).buf) ≠ some .midReduction)
    (hbytes : (if !send then [] else if (porchDesc (c.desc i.imm.toNat 32)).fp32 then
        toWire (tagFmt k.r (BitVec.ofNat 32 (dbits (sReg c.th i.b.toNat) 0 32)))
          (readWords s.mem (spadPa c.r (sReg c.th i.a.toNat).toNat) (porchDesc (c.desc i.imm.toNat 32)).elems)
        else c.spad (sReg c.th i.a.toNat).toNat n) = bytes) :
    porch s t i send = drive (putTh s (beginXfer (xferOf c i x inst send bytes) inst l reads writes x)) := by
  unfold porch
  rw [runIns_issues h, issuesAt_state h]
  dsimp only
  rw [hk]
  dsimp only
  rw [hn, if_neg (by simp [hin]), if_neg (by simp [hpeer, Nat.not_le.mpr hrank]), haligned, if_neg (by decide), hinst]
  dsimp only
  rw [hreads, hwrites, if_neg (by obtain hs | hs := hstage <;> simp [hs]), hfree]
  dsimp only
  rw [hbytes]
  rfl

theorem porchInst_like {d : PorchDesc} (h : porchInst c k d = some (x, inst)) : sameRegs c.th x ∧ x.xfers = c.th.xfers := by
  unfold porchInst at h
  split at h
  · dsimp only at h
    split at h
    · cases h
    · obtain ⟨rfl, -⟩ := Prod.mk.inj (Option.some.inj h)
      split <;> exact ⟨by constructor <;> rfl, rfl⟩
  · obtain ⟨i', -, hi'⟩ := Option.map_eq_some_iff.mp h
    obtain ⟨rfl, -⟩ := Prod.mk.inj hi'
    exact ⟨sameRegs_refl _, rfl⟩

/-- R337: the first collective that a program opens has no peers yet. -/
theorem porchInst_first {d : PorchDesc} (h : porchInst c k d = some (x, inst)) (hnone : c.th.insts = []) :
    x.insts = [inst] ∧ inst.peers = [] := by
  unfold porchInst at h
  split at h
  · dsimp only at h
    split at h
    · cases h
    · obtain ⟨rfl, rfl⟩ := Prod.mk.inj (Option.some.inj h)
      split <;> exact ⟨by dsimp only; rw [hnone]; rfl, rfl⟩
  · rw [lastInst, hnone] at h
    cases h

theorem namePeer_sameRegs (x : Thread) (i : Inst) (rank carr : Nat) : sameRegs x (namePeer x i rank carr) := by
  unfold namePeer
  split
  · exact sameRegs_refl x
  · constructor <;> rfl

theorem namePeer_xfers (x : Thread) (i : Inst) (rank carr : Nat) : (namePeer x i rank carr).xfers = x.xfers := by
  unfold namePeer
  split <;> rfl

theorem namePeer_insts (hinsts : x.insts = [inst]) (hpeers : inst.peers = []) (rank carr : Nat) :
    (namePeer x inst rank carr).insts = [{ inst with peers := [{ rank := rank, carr := carr }] }] := by
  have hnone : peerOf inst rank carr = none := by rw [peerOf, hpeers]; rfl
  unfold namePeer
  rw [hnone, if_neg (by decide)]
  dsimp only
  rw [hinsts, updFirst, sameInst, beq_self_eq_true, if_pos rfl, hpeers]
  rfl

section
variable {q : Xfer} {reads writes : List Range}

theorem begunXfer_sameRegs (x : Thread) : sameRegs x (begunXfer q inst l reads writes x) := by
  have hbegun : sameRegs x (withXfer q l reads writes x) := by constructor <;> rfl
  have hnamed := sameRegs_trans hbegun (namePeer_sameRegs (withXfer q l reads writes x) inst q.peer q.carr)
  unfold begunXfer
  dsimp only
  split
  · exact hnamed
  · exact sameRegs_trans hnamed (by constructor <;> rfl)

theorem begunXfer_xfers (x : Thread) : (begunXfer q inst l reads writes x).xfers = x.xfers ++ [q] := by
  have hnamed := namePeer_xfers (withXfer q l reads writes x) inst q.peer q.carr
  unfold begunXfer
  dsimp only
  split <;> exact hnamed

theorem begunXfer_insts (hinsts : x.insts = [inst]) (hpeers : inst.peers = []) :
    (begunXfer q inst l reads writes x).insts = [{ inst with peers := [{ rank := q.peer, carr := q.carr }] }] := by
  have hnamed := namePeer_insts (x := withXfer q l reads writes x) hinsts hpeers q.peer q.carr
  unfold begunXfer
  dsimp only
  split <;> exact hnamed

/-- R338: with no port to the peer the first transfer of a program waits. -/
theorem drive_putTh_alone {y : Thread} {hc : CollCtx} (hx : getTh s t = some c.th) (htid : y.tid = t) (hxfers : y.xfers = [q])
    (hinsts : y.insts = [{ inst with peers := [{ rank := q.peer, carr := q.carr }] }]) (hinst : q.inst = inst.id)
    (hquiet : porchQuiet s) (hport : directPorts s (hc.g.members.getD q.peer 4096) = []) (hcoll : thColl s t q.coll = some hc)
    (hannc : s.links.anncs = []) : drive (putTh s y) = putTh s y := by
  obtain ⟨hidle, hpieces⟩ := hquiet
  have hy : getTh (putTh s y) t = some y := by
    rw [← htid]
    exact getTh_putTh_eq (y := c.th) (by rw [htid]; exact hx)
  have hi : instOf y q = some { inst with peers := [{ rank := q.peer, carr := q.carr }] } := by
    rw [instOf, hinsts, hinst]
    simp
  have hlone : loneXfers (putTh s y) t := by
    unfold putTh
    rw [htid]
    exact loneXfers_modTh (fun _ _ => htid) fun z hz _ => hidle z hz
  have hpeer : peerOf { inst with peers := [{ rank := q.peer, carr := q.carr }] } q.peer q.carr = some { rank := q.peer, carr := q.carr } := by
    simp [peerOf]
  exact drive_stands (stands_of_lone hlone (stepXfers_waits hy hxfers (stepXfer_alone hy hxfers hcoll hi hpeer rfl hport hannc))) hpieces

end

/-- A porch instruction that is not refused: its transfer is the program's newest, and the porch side then goes on as far as it can. -/
theorem porch_issues (h : issuesAt s t i c) {f : Instr} {send : Bool} {reads writes : List Range} {bytes : List Byte} {q : Xfer}
    (hexec : exec f s = .next (porch s t i send))
    (hruns : porch s t i send = drive (putTh s (beginXfer q inst l reads writes x)))
    (hq : xferOf c i x inst send bytes = q) (hinst : porchInst c k (porchDesc (c.desc i.imm.toNat 32)) = some (x, inst)) :
    ∃ y, exec f s = .next (drive (putTh s y)) ∧ keepsRegs c.th y [] [] [] [] ∧ goesOn c.th y ∧ y.xfers = x.xfers ++ [q]
      ∧ (c.th.xfers = [] → porchQuiet s → directPorts s (k.g.members.getD (dbits (sReg c.th i.b.toNat) 32 12) 4096) = [] →
          thColl s t (porchDesc (c.desc i.imm.toNat 32)).coll = some k → s.links.anncs = [] → c.th.insts = [] →
          ∃ u, exec f s = .next u ∧ u = putTh s y) := by
  obtain ⟨hlike, hxfers⟩ := porchInst_like hinst
  have hbegun := begunXfer_sameRegs (q := q) (inst := inst) (l := l) (reads := reads) (writes := writes) x
  have hmoved : sameRegs c.th (addMov (begunXfer q inst l reads writes x)) := addMov_sameRegs (sameRegs_trans hlike hbegun)
  have hrun : exec f s = .next (drive (putTh s (beginXfer q inst l reads writes x))) := hexec.trans (congrArg Host.Outcome.next hruns)
  have hnewest : (beginXfer q inst l reads writes x).xfers = x.xfers ++ [q] := begunXfer_xfers x
  refine ⟨_, hrun, keepsRegs_advance _ _ (keepsRegs_same hmoved _ _ _ _), goesOn_advance1 hmoved.pc hmoved.reps, hnewest, ?_⟩
  intro hnone hquiet hport hcoll hannc hfirst
  obtain ⟨hinsts, hpeers⟩ := porchInst_first hinst hfirst
  rw [hxfers, hnone] at hnewest
  have hpeer : q.peer = dbits (sReg c.th i.b.toNat) 32 12 := by rw [← hq]; rfl
  refine ⟨_, hrun, ?_⟩
  refine drive_putTh_alone (c := c) (hc := k) (issuesAt_getTh h) (hmoved.tid.trans (issuesAt_tid h)) hnewest (begunXfer_insts hinsts hpeers)
    (by rw [← hq]; rfl) hquiet (by rw [hpeer]; exact hport) (by rw [← hq]; exact hcoll) hannc

end

/-- R339: a receive that has a piece to come waits for it, whatever the links hold. -/
theorem stepXfers_receives {s : State} {t : Tid} {x : Thread} {q : Xfer} {c : CollCtx} {i : Inst} {p : PeerSt} (hx : getTh s t = some x)
    (hxfers : x.xfers = [q]) (hc : thColl s t q.coll = some c) (hi : instOf x q = some i) (hp : peerOf i q.peer q.carr = some p)
    (hsent : p.sent = true) (hmatched : p.matched = true) (hrecv : q.send = false) (helems : q.elems ≠ 0) : stepXfers s t = s :=
  stepXfers_waits hx hxfers (stepXfer_receives hx hxfers hc hi hp hsent hmatched hrecv helems)

/-- Settles O51: a porch instruction begins its transfer, and messages of the collectives are taken as they come. -/
theorem porchTransfers : Obligations.PorchTransfers := by
  refine ⟨?issue, ?message, ?piece⟩
  case issue =>
    intro t i s c k x inst l h d b addr tag n hk hin hrank hpeer haligned hinst issued
    refine ⟨fun hfree hwire => ?_, fun hfree hstage => ?_⟩
    · have hbytes : (if !true then [] else if d.fp32 then toWire (tagFmt k.r tag) (readWords s.mem (spadPa c.r addr) d.elems)
          else c.spad addr n) = c.spad addr n := by rw [hwire]; rfl
      exact porch_issues h rfl (porch_runs h (send := true) rfl hk hin hrank hpeer haligned hinst rfl rfl hfree (.inl rfl) hbytes) rfl hinst
    · exact porch_issues h rfl (porch_runs h (send := false) rfl hk hin hrank hpeer haligned hinst rfl rfl hfree (.inr hstage) rfl) rfl hinst
  case message =>
    intro m s t c halive hnext htype hlen hquiet hport hd
    refine ⟨fun hkind hroom hopen hspace => ?_, fun hroom => ⟨fun hkind => ?_, fun hkind => ?_⟩⟩
    · have hmsg := collMsg_stores (s := held s m) hkind hroom hopen hspace hquiet.1
      have hthreads : (stored (held s m) m t).threads = s.threads := (stored_threads t).trans held_threads
      have hanncs := (stored_anncs (s := held s m) (m := m) t).trans (congrArg (· ++ [anncOf t m]) held_anncs)
      exact ⟨_, congrArg Host.Outcome.next (collIn_takes_quiet halive hnext htype hlen hkind hquiet hmsg hthreads),
        emptied_anncs.trans hanncs, emptied_threads.trans hthreads, emptied_pieces⟩
    · exact ⟨_, rfl, collIn_discards halive hnext htype hlen hquiet hroom hkind⟩
    · obtain ⟨hcount, -, hmem⟩ := collIn_discards halive hnext htype hlen hquiet hroom hkind
      exact ⟨_, rfl, hcount, hmem⟩
  case piece =>
    intro m s t c x q i p r halive hnext htype hlen hpieces hd hkind hroom hopen hx hrun hxfers hothers hrecv hrcv hgood helems hi hp hsent
      hmatched htag hsize hr hcoll
    have hstep : stepXfers (held s m) t = held s m :=
      stepXfers_receives ((getTh_held t).trans hx) hxfers ((thColl_held t q.coll).trans hcoll) hi hp hsent hmatched hrcv helems
    have hmsg := collMsg_lands (s := held s m) hkind ((headRoom_held _).trans hroom) ((headClosed_held t c _).trans hopen)
      ((recvFor_held t _).trans hrecv) ((thRec_held t).trans hr) hgood htag hsize
    obtain ⟨hthreads, hplans, hdev, -⟩ := landed_parts (s := held s m) (m := m) (r := r) (c := c) (q := q)
    have hland : getTh (landed (held s m) m r c q) t = some x := (getTh_of_threads hthreads t).trans ((getTh_held t).trans hx)
    by_cases hlast : hd.pieces ≤ q.got + 1
    · rw [if_pos hlast, recvDone_gotAll hland hrun] at hmsg
      have hgone : (gotAll q x).xfers = [] := gotAll_xfers hxfers
      have hafter := stepXfers_idle (s := emptied (modTh (landed (held s m) m r c q) t (gotAll q)))
        (getTh_modTh_eq (s := landed (held s m) m r c q) hland fun _ => rfl) hgone
      obtain ⟨u, hexec, hy, hmem⟩ := piece_taken (g := gotAll q) (fun _ => rfl) halive hnext htype hlen hpieces hkind hx hothers hstep hmsg hafter
      refine ⟨u, _, hexec, hy, keepsRegs_of_eq rfl rfl rfl rfl rfl, rfl, hmem,
        fun hmore => absurd hlast (Nat.not_le.mpr hmore), fun _ => ⟨hgone, ?_⟩⟩
      exact LinkTraffic.pGet_pSet_same _ _ _
    · rw [if_neg hlast] at hmsg
      have hone := gotPiece_xfers hxfers
      have hcoll' : thColl (emptied (modTh (landed (held s m) m r c q) t (gotPiece q))) t q.coll = some c :=
        (thColl_of_parts hplans hdev t q.coll).trans ((thColl_held t q.coll).trans hcoll)
      have hy' : getTh (emptied (modTh (landed (held s m) m r c q) t (gotPiece q))) t = some (gotPiece q x) :=
        getTh_modTh_eq (s := landed (held s m) m r c q) hland fun _ => rfl
      have hafter := stepXfers_receives hy' hone hcoll' hi hp hsent hmatched hrcv helems
      obtain ⟨u, hexec, hy, hmem⟩ := piece_taken (g := gotPiece q) (fun _ => rfl) halive hnext htype hlen hpieces hkind hx hothers hstep hmsg hafter
      exact ⟨u, _, hexec, hy, keepsRegs_of_eq rfl rfl rfl rfl rfl, rfl, hmem, fun _ => hone, fun hdone => absurd hdone hlast⟩

end Sys2Proof.Proofs.PorchOps
end

section
/-! PROOFS. O52: boundaries, release points and the finish of a step (R28, R31, R45, R49, R75, R107, R135, R136, R189). -/
namespace Sys2Proof.Proofs.Boundaries

open Sys2Proof Sys2Proof.Machine Sys2Proof.Laws
open Sys2Proof.Proofs.StateParts Sys2Proof.Proofs.DescBasics Sys2Proof.Proofs.RoomWaits

/-! ## A boundary -/

section
variable {s : State}

theorem beginTick_keeps (s : State) (b : Nat) : (beginTick s b).tick = (genBoundary s.tick b).1 ∧ (beginTick s b).now = b := by
  unfold beginTick tickEvent
  dsimp only
  split <;> exact ⟨rfl, rfl⟩

/-- R45: the tick that begins is the generator's, whatever else a boundary does. -/
theorem newTick_keeps (s : State) (n len : Nat) : (newTick (latchBooks s n) n len).tick = s.tick ∧ (newTick (latchBooks s n) n len).now = s.now := by
  have hkeep : Keep { all with tick := false, now := false } s (newTick (latchBooks s n) n len) :=
    newTick_keep rfl (latchBooks_keep rfl (keep_refl _ _))
  have htick := keep_tick hkeep
  have hnow := keep_now hkeep
  exact ⟨htick, hnow⟩

theorem closedTick_keeps (s : State) (n : Nat) : (endTick (closeTick s n) n).tick = s.tick := by
  have hkeep : Keep { all with tick := false } s (endTick (closeTick s n) n) := endTick_keep rfl (closeTick_keep rfl (keep_refl _ _))
  have htick := keep_tick hkeep
  exact htick

theorem boundary_tick {b : Nat} (hon : tickOn s = true) (hticking : ticking s.tick = true) (hpassed : s.tick.released = true)
    (hb : s.tick.nextB = some b) : (boundary s).tick = (genBoundary s.tick b).1 ∧ (boundary s).now = b := by
  unfold boundary
  rw [hb]
  dsimp only
  rw [if_neg (by simp [hon, hticking, hpassed])]
  split
  · obtain ⟨htick, hnow⟩ := beginTick_keeps s b
    exact ⟨htick, hnow⟩
  · split
    · obtain ⟨htick, hnow⟩ := newTick_keeps (beginTick (endTick (closeTick s s.tick.num.toNat) s.tick.num.toNat) b) s.tick.num.toNat (periodUnits s.tick)
      obtain ⟨hgen, htime⟩ := beginTick_keeps (endTick (closeTick s s.tick.num.toNat) s.tick.num.toNat) b
      rw [closedTick_keeps] at hgen
      exact ⟨htick.trans hgen, hnow.trans htime⟩
    · obtain ⟨htick, hnow⟩ := newTick_keeps (beginTick s b) s.tick.num.toNat (periodUnits s.tick)
      obtain ⟨hgen, htime⟩ := beginTick_keeps s b
      exact ⟨htick.trans hgen, hnow.trans htime⟩

/-- R38: from INTERNAL, with no period waiting and no role to take over, the next boundary follows a period later. -/
theorem genBoundary_internal {t : TickGen} (b : Nat) (hstate : t.state = .running) (huse : t.inUse = .internal)
    (hsource : ctlSource t = .internal) (halt : t.onAlt = false) (hprev : t.prev = none) (hperiod : t.newPeriod = none) :
    (genBoundary t b).1.nextB = some (b + periodUnits t) := by
  have hsame : applyPeriod t = t := by unfold applyPeriod; rw [hperiod]
  have hrole : nextRole t = none := by simp [nextRole, hstate, huse, hsource, halt, hprev]
  have hlen : tickLength (setAligned t) = periodUnits t := by simp [tickLength, setAligned, hstate, huse, periodUnits]
  unfold genBoundary
  dsimp only
  rw [hsame, hrole]
  exact congrArg (fun n => some (b + n)) hlen

/-! ## A release point -/

theorem freezeAll_tick (s : State) : (freezeAll s).tick = s.tick := by
  have hkeep : Keep { all with tick := false } s (freezeAll s) := freezeAll_keep rfl (keep_refl _ _)
  have htick := keep_tick hkeep
  exact htick

theorem settleRecovery_keeps (s : State) : (settleRecovery s).tick = s.tick ∧ (settleRecovery s).now = s.now := by
  have hkeep : Keep { all with now := false } s (settleRecovery s) := settleRecovery_keep rfl (keep_refl _ _)
  have hnow := keep_now hkeep
  refine ⟨?_, hnow⟩
  unfold settleRecovery
  split
  · rfl
  · split
    · rfl
    · split
      · exact freezeAll_tick _
      · split
        · rfl
        · exact RoomFaults.lateWatch_tick s

/-- What the release point does with the tables, steps and waits, once the tick has passed it. -/
def releaseDue (s : State) : State :=
  let s2 := releaseTables s
  let s3 := if s2.recov.any (·.lost) then s2 else releasePlans s2
  drive (settle ((s3.ctxs.map (·.1)).foldl tickWaits (retryStores s3)))

theorem releaseDue_keeps (s : State) : (releaseDue s).tick = s.tick ∧ (releaseDue s).now = s.now := by
  have htables : Keep { all with tick := false, now := false } s (releaseTables s) := releaseTables_keep rfl (keep_refl _ _)
  have hplans : Keep { all with tick := false, now := false } s
      (if (releaseTables s).recov.any (·.lost) then releaseTables s else releasePlans (releaseTables s)) := by
    split
    · exact htables
    · exact releasePlans_keep rfl htables
  have hkeep : Keep { all with tick := false, now := false } s (releaseDue s) :=
    drive_keep rfl (settle_keep rfl (keep_foldl (fun _ _ h => tickWaits_keep rfl h) (retryStores_keep rfl hplans)))
  have htick := keep_tick hkeep
  have hnow := keep_now hkeep
  exact ⟨htick, hnow⟩

theorem releasePoint_passes (hon : tickOn s = true) (hticking : ticking s.tick = true) (hopen : s.tick.released = false) :
    releasePoint s = if s.dev.failstop then passRelease s else releaseDue (passRelease (settleRecovery s)) := by
  unfold releasePoint
  rw [if_neg (by simp [hon, hticking, hopen])]
  rfl

theorem releasePoint_tick (hon : tickOn s = true) (hticking : ticking s.tick = true) (hopen : s.tick.released = false) :
    (releasePoint s).tick = { s.tick with released := true, tickOut := false } ∧ (releasePoint s).now = s.now := by
  rw [releasePoint_passes hon hticking hopen]
  split
  · exact ⟨rfl, rfl⟩
  · obtain ⟨htick, hnow⟩ := settleRecovery_keeps s
    obtain ⟨hdue, htime⟩ := releaseDue_keeps (passRelease (settleRecovery s))
    refine ⟨hdue.trans ?_, htime.trans hnow⟩
    unfold passRelease
    rw [htick]

end

/-! ## The finish of a step -/

section
variable {s : State} {key : PlanKey} {p : Plan} {r : StepRun}

theorem finishStep_waits (hp : getPlan s key = some p) (hr : p.run = some r) (hdone : stepDone s key r = false) : finishStep s key = s := by
  unfold finishStep
  rw [hp]
  dsimp only
  rw [hr]
  dsimp only
  rw [hdone]
  exact if_neg (by decide)

theorem spoilResults_same (h : p.maskChanged = false) : spoilResults s p = s := by
  unfold spoilResults
  rw [h]
  exact if_pos rfl

theorem markDone_ran {n : Nat} (hr : p.run = some r) (hk : r.k ≠ recompStep) :
    (markDone n p).run = some { r with finished := true } ∧ (markDone n p).next = r.k + 1 ∧ (markDone n p).lastTick = n
      ∧ (markDone n p).outs = p.outs ∧ (markDone n p).skip = p.skip ∧ (markDone n p).stopped = p.stopped ∧ (markDone n p).body = p.body := by
  unfold markDone
  rw [hr]
  dsimp only
  rw [if_neg hk]
  exact ⟨rfl, rfl, rfl, rfl, rfl, rfl, rfl⟩

/-- R107: a plan that has a step to come does not end. -/
theorem settleEnd_goesOn {q : Plan} (hq : getPlan s key = some q) (hskip : q.skip = []) (hstopped : q.stopped = false)
    (hmore : q.next < stepCount q) : settleEnd s key = s := by
  have hnext : nextStep q = q.next := by rw [nextStep, hskip]; rfl
  unfold settleEnd
  rw [hq]
  dsimp only
  rw [if_neg]
  simp [endDue, hstopped, hnext, Nat.not_le.mpr hmore]

theorem getPlan_key {q : Plan} (h : getPlan s key = some q) : q.key = key := beq_iff_eq.mp (List.find?_some (p := fun x : Plan => x.key == key) h)

theorem getPlan_modPlan {g : Plan → Plan} (hg : ∀ x, (g x).key = x.key) (hp : getPlan s key = some p) : getPlan (modPlan s key g) key = some (g p) :=
  find_updFirst_eq (fun a ha => by rw [hg]; exact ha) hp

theorem markDone_key (n : Nat) (x : Plan) : (markDone n x).key = x.key := by
  unfold markDone
  split <;> rfl

/-- R75: a step that is not the plan's last: what finishes of it is its run, and nothing ends. -/
theorem finishStep_goesOn {v : State} {x : Plan} (hp : getPlan s key = some p) (hr : p.run = some r) (hdone : stepDone s key r = true)
    (hv : queueOutputs (if (stepOutputs p r).isEmpty then spoilResults s p
      else modPlan (spoilResults s p) key (noteUpdate (wroteBlocks s p))) p r = v)
    (hx : getPlan v key = some x) (hxr : x.run = some r) (hk : r.k ≠ recompStep) (hskip : x.skip = []) (hstopped : x.stopped = false)
    (hmore : r.k + 1 < stepCount x) : finishStep s key = modPlan v key (markDone s.tick.num.toNat) := by
  obtain ⟨-, hnext, -, -, hskip', hstopped', hbody'⟩ := markDone_ran (n := s.tick.num.toNat) hxr hk
  unfold finishStep
  rw [hp]
  dsimp only
  rw [hr]
  dsimp only
  rw [if_pos hdone, hv]
  refine settleEnd_goesOn (getPlan_modPlan (fun x => markDone_key _ x) hx) (hskip'.trans hskip) (hstopped'.trans hstopped) ?_
  rw [hnext, stepCount, hbody']
  exact hmore

/-- R75: a step without outputs. -/
theorem finishStep_silent (hp : getPlan s key = some p) (hr : p.run = some r) (hdone : stepDone s key r = true) (hk : r.k ≠ recompStep)
    (hskip : p.skip = []) (hstopped : p.stopped = false) (hmore : r.k + 1 < stepCount p) (hnone : stepOutputs p r = []) :
    finishStep s key = modPlan (spoilResults s p) key (markDone s.tick.num.toNat) ∧ getPlan (spoilResults s p) key = some p := by
  have hkeep : Keep { all with plans := false } s (spoilResults s p) := spoilResults_keep rfl (keep_refl _ _)
  have hplans := keep_plans hkeep
  have hp' : getPlan (spoilResults s p) key = some p := (getPlan_of_plans hplans key).trans hp
  refine ⟨finishStep_goesOn hp hr hdone ?_ hp' hr hk hskip hstopped hmore, hp'⟩
  rw [hnone]
  unfold queueOutputs
  rw [hnone]
  rfl

/-! ## The output of a step -/

theorem stepOutputs_one {o : OutStat} (houts : p.outs = [o]) (hopen : o.done = none) (hstep : o.step = r.k) : stepOutputs p r = [(o, ownCode r o)] := by
  unfold stepOutputs
  rw [houts]
  simp [hopen, hstep]

/-- R107: an output as it is queued in tick `n`. -/
def delivered (c : Byte × Byte) (n : Nat) (held : Bool) (digest : List Byte) (o : OutStat) : OutStat :=
  { o with done := some c.1, cause := c.2, tick := n, hold := held, digest := digest }

/-- R66: the plan as the output of a step that it owes is delivered. -/
def deliver (step out : Nat) (f : OutStat → OutStat) (p : Plan) : Plan := { p with outs := updFirst (owed step out) f p.outs }

/-- R107: an output that is queued: its code and tick stand in the plan, its entry goes to the rings. -/
theorem queueOutput_one {o : OutStat} {b : PlanBody} {c : Byte × Byte} (hp : getPlan s key = some p) (houts : p.outs = [o])
    (hopen : o.done = none) (hb : p.body = some b) : ∃ y : OutStat,
    getPlan (queueOutput s key o.step o.outId c) key = some { p with outs := [y] } ∧ y.outId = o.outId ∧ y.done = some c.1
      ∧ y.tick = s.tick.num.toNat := by
  have howed : owed o.step o.outId o = true := by simp [owed, hopen]
  have hfind : p.outs.find? (owed o.step o.outId) = some o := by rw [houts]; simp [howed]
  obtain ⟨v, hv⟩ : ∃ v, (if p.silent then s else postPlanEntry s key.ctx (outEntry p o s.tick.num.toNat c)) = v := ⟨_, rfl⟩
  have hkeep : Keep { all with plans := false } s v := by
    rw [← hv]
    split
    · exact keep_refl _ _
    · exact postPlanEntry_keep rfl (keep_refl _ _)
  have hplans := keep_plans hkeep
  have hpv : getPlan v key = some p := (getPlan_of_plans hplans key).trans hp
  obtain ⟨f, hf⟩ : ∃ f, delivered c s.tick.num.toNat (decide (holdCount s key.ctx < holdCount v key.ctx))
    (rangeDigest s key.ctx b o.outId) = f := ⟨_, rfl⟩
  have hrun : queueOutput s key o.step o.outId c = codecOutput (modPlan v key (deliver o.step o.outId f)) key o.outId c.1.toNat := by
    unfold queueOutput
    rw [hp]
    dsimp only
    rw [hfind, hb]
    dsimp only
    rw [hv, ← hf]
    rfl
  have hmod : getPlan (modPlan v key (deliver o.step o.outId f)) key = some { p with outs := [f o] } := by
    rw [getPlan_modPlan (g := deliver o.step o.outId f) (fun _ => rfl) hpv, deliver, houts, updFirst, if_pos howed]
  have hcodec : Keep { all with plans := false } (modPlan v key (deliver o.step o.outId f))
      (codecOutput (modPlan v key (deliver o.step o.outId f)) key o.outId c.1.toNat) := codecOutput_keep rfl (keep_refl _ _)
  have hkept := keep_plans hcodec
  refine ⟨f o, ?_, ?_⟩
  · rw [hrun, getPlan_of_plans hkept key]
    exact hmod
  · rw [← hf]
    exact ⟨rfl, rfl, rfl⟩

/-- R75, R107: a step with one output. -/
theorem finishStep_output {o : OutStat} {b : PlanBody} (hp : getPlan s key = some p) (hr : p.run = some r) (hdone : stepDone s key r = true)
    (hk : r.k ≠ recompStep) (hskip : p.skip = []) (hstopped : p.stopped = false) (hmore : r.k + 1 < stepCount p) (houts : p.outs = [o])
    (hopen : o.done = none) (hstep : o.step = r.k) (hb : p.body = some b) : ∃ v x y,
    finishStep s key = modPlan v key (markDone s.tick.num.toNat) ∧ getPlan v key = some x ∧ x.run = some r ∧ x.outs = [y] ∧ y.outId = o.outId
      ∧ y.done = some (lateCode p o s.tick.num.toNat (ownCode r o)).1 ∧ y.tick = s.tick.num.toNat ∧ v.threads = s.threads ∧ v.tick = s.tick
      ∧ (p.maskChanged = false → v.mem = s.mem) := by
  obtain ⟨w, hw⟩ : ∃ w, modPlan (spoilResults s p) key (noteUpdate (wroteBlocks s p)) = w := ⟨_, rfl⟩
  have hspoil : Keep { all with plans := false, threads := false, tick := false } s (spoilResults s p) := spoilResults_keep rfl (keep_refl _ _)
  have hplans := keep_plans hspoil
  have hnoted : getPlan w key = some (noteUpdate (wroteBlocks s p) p) := by
    rw [← hw]
    exact getPlan_modPlan (fun _ => rfl) ((getPlan_of_plans hplans key).trans hp)
  have hwkeep : Keep { all with threads := false, tick := false } s w := by
    rw [← hw]
    exact modPlan_keep rfl (spoilResults_keep rfl (keep_refl _ _))
  have hwtick := keep_tick hwkeep
  have hwthreads := keep_threads hwkeep
  obtain ⟨v, hv⟩ : ∃ v, queueOutput w key o.step o.outId (lateCode p o s.tick.num.toNat (ownCode r o)) = v := ⟨_, rfl⟩
  obtain ⟨y, hx, hid, hcode, htick⟩ := queueOutput_one (c := lateCode p o s.tick.num.toNat (ownCode r o)) hnoted houts hopen hb
  rw [hv] at hx
  have hvkeep : Keep { all with threads := false, tick := false, mem := false } w v := by
    rw [← hv]
    exact queueOutput_keep rfl (keep_refl _ _)
  have hvtick := keep_tick hvkeep
  have hvthreads := keep_threads hvkeep
  have hvmem := keep_mem hvkeep
  have hone := stepOutputs_one (r := r) houts hopen hstep
  have hqueued : queueOutputs (if (stepOutputs p r).isEmpty then spoilResults s p
      else modPlan (spoilResults s p) key (noteUpdate (wroteBlocks s p))) p r = v := by
    unfold queueOutputs
    rw [hone, if_neg (by simp), hw]
    show queueOutput w p.key o.step o.outId (lateCode p o w.tick.num.toNat (ownCode r o)) = v
    rw [getPlan_key hp, hwtick]
    exact hv
  refine ⟨v, _, y, finishStep_goesOn hp hr hdone hqueued hx hr hk hskip hstopped hmore, hx, hr, rfl, hid, hcode,
    htick.trans (congrArg (fun t : TickGen => t.num.toNat) hwtick), hvthreads.trans hwthreads, hvtick.trans hwtick, fun hmask => hvmem.trans ?_⟩
  rw [← hw, spoilResults_same hmask]
  rfl

end

/-! ## A room is released -/

/-- R135, R136: what a release leaves of a room program; one that runs goes on running. -/
structure Resumes (x y : Thread) : Prop where
  tid : y.tid = x.tid
  pc : y.pc = x.pc
  regs : y.regs = x.regs
  preds : y.preds = x.preds
  noRun : y.noRun = x.noRun
  xfers : y.xfers = x.xfers
  stores : y.stores = x.stores
  runs : x.stat = .running → y.stat = .running

theorem Resumes.refl (x : Thread) : Resumes x x := ⟨rfl, rfl, rfl, rfl, rfl, rfl, rfl, id⟩

theorem Resumes.trans {x y z : Thread} (h : Resumes x y) (g : Resumes y z) : Resumes x z :=
  ⟨g.tid.trans h.tid, g.pc.trans h.pc, g.regs.trans h.regs, g.preds.trans h.preds, g.noRun.trans h.noRun, g.xfers.trans h.xfers,
    g.stores.trans h.stores, fun hrun => g.runs (h.runs hrun)⟩

/-- Program by program, what releases leave. -/
inductive ResumeAll : List Thread → List Thread → Prop
  | nil : ResumeAll [] []
  | cons {x y : Thread} {l l' : List Thread} (h : Resumes x y) (hl : ResumeAll l l') : ResumeAll (x :: l) (y :: l')

theorem resumeAll_refl : ∀ l : List Thread, ResumeAll l l
  | [] => ResumeAll.nil
  | x :: l => ResumeAll.cons (Resumes.refl x) (resumeAll_refl l)

theorem resumeAll_updFirst {l l' : List Thread} {p : Thread → Bool} {g : Thread → Thread} (hg : ∀ y, Resumes y (g y))
    (h : ResumeAll l l') : ResumeAll l (updFirst p g l') := by
  induction h with
  | nil => exact ResumeAll.nil
  | cons hxy hl ih =>
    unfold updFirst
    split
    · exact ResumeAll.cons (hxy.trans (hg _)) hl
    · exact ResumeAll.cons hxy ih

theorem resumeAll_find {l l' : List Thread} {t : Tid} {x : Thread} (h : ResumeAll l l')
    (hx : l.find? (fun z => z.tid == t) = some x) : ∃ y, l'.find? (fun z => z.tid == t) = some y ∧ Resumes x y := by
  induction h with
  | nil => cases hx
  | cons hab hl ih =>
    rename_i a b l l'
    rw [List.find?_cons] at hx ⊢
    rw [hab.tid]
    split at hx
    · cases hx
      exact ⟨b, rfl, hab⟩
    · exact ih hx

theorem resumeAll_mem {l l' : List Thread} {P : Thread → Prop} (h : ResumeAll l l') (hP : ∀ x y, Resumes x y → P x → P y)
    (hl : ∀ x ∈ l, P x) : ∀ y ∈ l', P y := by
  induction h with
  | nil => exact fun y hy => absurd hy List.not_mem_nil
  | cons hab hl' ih =>
    intro y hy
    obtain rfl | hy := List.mem_cons.mp hy
    · exact hP _ _ hab (hl _ List.mem_cons_self)
    · exact ih (fun x hx => hl x (List.mem_cons_of_mem _ hx)) y hy

/-- The state as rooms have been released since `s`. -/
structure Released (s u : State) : Prop where
  keeps : Keep { free := true, threads := true, mem := true } s u
  threads : ResumeAll s.threads u.threads

theorem Released.refl (s : State) : Released s s := ⟨keep_refl _ _, resumeAll_refl s.threads⟩

theorem Released.getTh {s u : State} {t : Tid} {x : Thread} (h : Released s u) (hx : getTh s t = some x) :
    ∃ y, Machine.getTh u t = some y ∧ Resumes x y := resumeAll_find h.threads hx

theorem Released.plans {s u : State} (h : Released s u) : u.plans = s.plans := by
  have hkeep := h.keeps
  have hplans := keep_plans hkeep
  exact hplans

/-- A plan with its steps' records, on rooms all of which may run. -/
structure Releasable (key : PlanKey) (b : PlanBody) (s : State) : Prop where
  plan : ∃ q, getPlan s key = some q ∧ q.body = some b
  mayRun : ∀ x ∈ s.threads, x.noRun = false

section
variable {key : PlanKey} {b : PlanBody} {s v : State} {k m : Nat}

theorem Releasable.of_released (h : Releasable key b s) (g : Released s v) : Releasable key b v := by
  obtain ⟨q, hq, hb⟩ := h.plan
  exact ⟨⟨q, (getPlan_of_plans g.plans key).trans hq, hb⟩, resumeAll_mem g.threads (fun _ _ hxy hx => hxy.noRun.trans hx) h.mayRun⟩

theorem thRec_of_plans {u : State} (h : u.plans = s.plans) (t : Tid) : thRec u t = thRec s t := by
  unfold thRec
  rw [getPlan_of_plans h]

/-- R134: loading the image of a room leaves the programs as they are. -/
theorem firstLoad_free (s : State) (p : Plan) (b : PlanBody) (r : RoomRec) (im : Option ImageRec) :
    Keep { free := true, threads := true, mem := true } s (im.elim s (firstLoad s p b r)) ∧ (im.elim s (firstLoad s p b r)).threads = s.threads := by
  cases im with
  | none => exact ⟨keep_refl _ _, rfl⟩
  | some im =>
    have hkeep : Keep { all with threads := false } s (firstLoad s p b r im) := firstLoad_keep rfl (keep_refl _ _)
    have hthreads := keep_threads hkeep
    exact ⟨firstLoad_keep rfl (keep_refl _ _), hthreads⟩

/-- R135, R136, R472: a room that the plan runs on is released: its program runs on. -/
theorem releaseRoom_runs {z : Thread} {r : RoomRec} (h : Releasable key b v) (hz : getTh v { key := key, room := m } = some z)
    (hr : thRec v { key := key, room := m } = some r) : ∃ w g, releaseRoom v key k m = modTh w { key := key, room := m } g
      ∧ Keep { free := true, threads := true, mem := true } v w ∧ w.threads = v.threads ∧ (∀ y, Resumes y (g y))
      ∧ ∀ y, (g y).stat = .running := by
  obtain ⟨q, hq, hb⟩ := h.plan
  have hmay : z.noRun = false := h.mayRun z (List.mem_of_find?_eq_some hz)
  unfold releaseRoom
  dsimp only
  rw [hz, hr, hq]
  dsimp only
  rw [hb]
  dsimp only
  rw [hmay, if_neg (by decide)]
  split
  · obtain ⟨hkeep, hthreads⟩ := firstLoad_free v q b r b.images[r.image]?
    exact ⟨_, _, rfl, hkeep, hthreads, fun y => ⟨rfl, rfl, rfl, rfl, rfl, rfl, rfl, fun _ => rfl⟩, fun _ => rfl⟩
  · split
    · exact ⟨_, _, rfl, keep_refl _ _, rfl, fun y => ⟨rfl, rfl, rfl, rfl, rfl, rfl, rfl, fun _ => rfl⟩, fun _ => rfl⟩
    · unfold undefVectors
      dsimp only
      refine ⟨_, _, PorchOps.modTh_modTh ?_, keep_refl _ _, rfl, fun y => ⟨rfl, rfl, rfl, rfl, rfl, rfl, rfl, fun _ => rfl⟩, fun _ => rfl⟩
      exact fun _ => rfl

theorem releaseRoom_none (h : getTh v { key := key, room := m } = none ∨ thRec v { key := key, room := m } = none) :
    releaseRoom v key k m = v := by
  unfold releaseRoom
  dsimp only
  obtain hz | hr := h
  · rw [hz]
  · rw [hr]
    split
    · rename_i hsome _
      cases hsome
    · rfl

theorem Released.modTh {u w : State} {t : Tid} {g : Thread → Thread} (h : Released s u) (hkeep : Keep { free := true, threads := true, mem := true } u w)
    (hthreads : w.threads = u.threads) (hg : ∀ y, Resumes y (g y)) : Released s (Machine.modTh w t g) := by
  refine ⟨modTh_keep rfl (keep_trans h.keeps hkeep), resumeAll_updFirst hg ?_⟩
  rw [hthreads]
  exact h.threads

theorem releaseRoom_released (h : Releasable key b v) (hsv : Released s v) : Released s (releaseRoom v key k m) := by
  cases hz : getTh v { key := key, room := m } with
  | none =>
    rw [releaseRoom_none (.inl hz)]
    exact hsv
  | some z =>
    cases hr : thRec v { key := key, room := m } with
    | none =>
      rw [releaseRoom_none (.inr hr)]
      exact hsv
    | some r =>
      obtain ⟨w, g, hrun, hkeep, hthreads, hg, -⟩ := releaseRoom_runs (k := k) h hz hr
      rw [hrun]
      exact hsv.modTh hkeep hthreads hg

/-- The rooms of a step are released in turn. -/
theorem releaseRooms_released (k : Nat) : ∀ (l : List Nat) {v : State}, Releasable key b v → Released s v →
    Released s (l.foldl (fun s m => releaseRoom s key k m) v)
  | [], _, _, hsv => hsv
  | m :: l, v, h, hsv => by
    have hone := releaseRoom_released (k := k) (m := m) h hsv
    exact releaseRooms_released k l (h.of_released (releaseRoom_released h (Released.refl v))) hone

theorem releaseRooms_run (k : Nat) : ∀ (l : List Nat) {v : State}, Releasable key b v → ∀ m ∈ l, ∀ x,
    getTh v { key := key, room := m } = some x → thRec v { key := key, room := m } ≠ none →
    ∃ y, getTh (l.foldl (fun s m => releaseRoom s key k m) v) { key := key, room := m } = some y ∧ y.stat = .running
  | [], _, _, _, hm, _, _, _ => absurd hm List.not_mem_nil
  | n :: l, v, h, m, hm, x, hx, hr => by
    have hone := releaseRoom_released (k := k) (m := n) h (Released.refl v)
    have hnext := h.of_released hone
    obtain rfl | hm := List.mem_cons.mp hm
    · obtain ⟨r, hr⟩ := Option.ne_none_iff_exists'.mp hr
      obtain ⟨w, g, hrun, -, hthreads, hg, hstat⟩ := releaseRoom_runs (k := k) h hx hr
      have hy : getTh (releaseRoom v key k m) { key := key, room := m } = some (g x) := by
        rw [hrun]
        exact getTh_modTh_eq ((getTh_of_threads hthreads _).trans hx) fun y => (hg y).tid
      obtain ⟨z, hz, hxz⟩ := (releaseRooms_released k l hnext (Released.refl _)).getTh hy
      exact ⟨z, hz, hxz.runs (hstat x)⟩
    · obtain ⟨y, hy, -⟩ := hone.getTh hx
      exact releaseRooms_run k l hnext m hm y hy (by rw [thRec_of_plans hone.plans]; exact hr)

end

/-! ## The release point of one plan -/

section
variable {s : State} {p : Plan} {b : PlanBody} {k : Nat}

/-- R49, R189: the run of a step without operands as it is released. -/
def runOf (s : State) (p : Plan) (b : PlanBody) (k : Nat) : StepRun :=
  { k := k, cheaper := runsCheaper p b k, tick := s.tick.num.toNat, released := true,
    rooms := liveRooms s p.key (pathRooms b k (runsCheaper p b k)), late := p.lateAgain.contains k }

/-- R49: the plan as that step begins. -/
def begun (s : State) (p : Plan) (b : PlanBody) (k : Nat) : State := modPlan s p.key (beginRun s k (runOf s p b k))

theorem latchOps_none (hshape : b.shape = []) : latchOps s p b k = [] := by
  unfold latchOps
  rw [hshape]
  split <;> rfl

theorem imageLoading_none (hweights : b.weights = []) : imageLoading s p b = false := by
  unfold imageLoading
  rw [hweights]
  simp

theorem getPlan_begun (hp : getPlan s p.key = some p) : getPlan (begun s p b k) p.key = some (beginRun s k (runOf s p b k) p) :=
  getPlan_modPlan (fun _ => rfl) hp

/-- R49, R135: a step without images and operands is released: its rooms are, and nothing finishes with it. -/
theorem releaseStep_releases (hp : getPlan s p.key = some p) (hb : p.body = some b) (hmay : ∀ x ∈ s.threads, x.noRun = false)
    (hweights : b.weights = []) (hshape : b.shape = []) (hrooms : (runOf s p b k).rooms ≠ []) :
    releaseStep s p b k = (runOf s p b k).rooms.foldl (fun s m => releaseRoom s p.key k m) (begun s p b k) := by
  have hq := getPlan_begun (b := b) (k := k) hp
  have hok : Releasable p.key b (begun s p b k) := ⟨⟨_, hq, hb⟩, hmay⟩
  have hplans := (releaseRooms_released k (runOf s p b k).rooms hok (Released.refl _)).plans
  unfold releaseStep
  dsimp only
  rw [imageLoading_none hweights, if_neg (by decide), latchOps_none hshape, if_neg (by simp)]
  refine finishStep_waits (p := beginRun s k (runOf s p b k) p) (r := runOf s p b k) ((getPlan_of_plans hplans p.key).trans hq) rfl ?_
  unfold stepDone
  rw [List.isEmpty_eq_false_iff.mpr hrooms]
  simp

/-- Contexts on which nothing waits for a release point. -/
def plainCtxs (s : State) : Prop := ∀ q ∈ s.ctxs, q.2.opens = [] ∧ q.2.addr.next = none

theorem getCtx_plain (h : plainCtxs s) (c : Nat) : (getCtx s c).opens = [] ∧ (getCtx s c).addr.next = none := by
  unfold getCtx
  cases hget : aGet s.ctxs c with
  | none => exact ⟨rfl, rfl⟩
  | some x => exact h _ (aGet_mem hget)

theorem releaseTables_plain (htables : s.tables = []) (hctxs : plainCtxs s) : releaseTables s = returnFrames s := by
  have hpublish : registerPublishes s = s := by unfold registerPublishes; rw [htables]; rfl
  have hgens : kvReleaseAll (returnFrames s) = returnFrames s := by
    have hnone : (returnFrames s).tables = [] := htables
    unfold kvReleaseAll
    rw [hnone]
    rfl
  have hplain : plainCtxs (returnFrames s) := hctxs
  have haddr : ∀ c, addrRelease (returnFrames s) c = returnFrames s := fun c => by
    unfold addrRelease
    dsimp only
    rw [(getCtx_plain hplain c).2]
  have hpages : ∀ c, pageWriteWaits (returnFrames s) c = returnFrames s := fun c => by
    unfold pageWriteWaits
    rw [(getCtx_plain hplain c).1]
    rfl
  unfold releaseTables
  dsimp only
  rw [hpublish, hgens, foldl_fixed fun c _ => haddr c, foldl_fixed fun c _ => hpages c]

theorem tickWaits_plain (hctxs : plainCtxs s) (c : Nat) : tickWaits s c = s := by
  unfold tickWaits
  rw [(getCtx_plain hctxs c).1]
  rfl

theorem retryStores_none (h : ∀ x ∈ s.threads, x.stores = []) : retryStores s = s := by
  refine foldl_fixed fun c _ => ?_
  have hnone : waitingStores s c = [] := by
    unfold waitingStores
    have hflat : (s.threads.map (fun x => if x.tid.key.ctx = c then x.stores.map (fun w => (x.tid, w)) else [])).flatten = [] := by
      rw [List.flatten_eq_nil_iff]
      intro l hl
      obtain ⟨x, hx, rfl⟩ := List.mem_map.mp hl
      rw [h x hx]
      split <;> rfl
    rw [hflat]
    rfl
  rw [hnone]
  rfl

theorem stepDue_parts (h : stepDue s p = true) : p.phase = .admitted ∧ openRun p = none := by
  simp only [stepDue, Bool.and_eq_true, beq_iff_eq, Option.isNone_iff_eq_none] at h
  obtain ⟨⟨⟨⟨⟨hphase, -⟩, hopen⟩, -⟩, -⟩, -⟩ := h
  exact ⟨hphase, hopen⟩

/-- R45, R49: the one plan's step is released. -/
theorem releasePlans_one (hplans : s.plans = [p]) (hb : p.body = some b) (hdue : stepDue s p = true) :
    releasePlans s = releaseStep s p b (dueStep p) := by
  obtain ⟨hphase, hopen⟩ := stepDue_parts hdue
  have hlate : runLate s p = p := by
    unfold runLate
    rw [hopen]
    simp
  have hsame : ({ s with plans := s.plans.map (runLate s) } : State) = s := by
    rw [hplans, List.map_singleton, hlate, ← hplans]
  have hadmitted : admittedPlans s = [p] := by
    unfold admittedPlans
    rw [hplans]
    simp [hphase]
  have hp : getPlan s p.key = some p := by
    unfold getPlan
    rw [hplans]
    simp
  unfold releasePlans
  rw [hsame]
  dsimp only
  rw [hadmitted]
  show releasePlan s p.key = _
  unfold releasePlan
  rw [hp]
  dsimp only
  rw [hb]
  exact if_pos hdue

/-- The state as the release point finds it, the frames reclaimed at the last latch returned. -/
def atRelease (s : State) : State := returnFrames (passRelease s)

theorem atRelease_plans : (atRelease s).plans = s.plans := rfl
theorem atRelease_recov : (atRelease s).recov = s.recov := rfl
theorem stepDue_atRelease : stepDue (atRelease s) p = stepDue s p := rfl
theorem runOf_atRelease : runOf (atRelease s) p b k = runOf s p b k := rfl

/-- R45, R49, R135: what the release point of a device with one plan, no recovery and nothing that waits does: it releases the step. -/
theorem releaseDue_one (hplans : s.plans = [p]) (hb : p.body = some b) (hrecov : s.recov = none) (hdue : stepDue s p = true)
    (hweights : b.weights = []) (hshape : b.shape = []) (hidle : idle s) (hquiet : porchQuiet s) (htables : s.tables = [])
    (hctxs : plainCtxs s) (hthreads : ∀ x ∈ s.threads, x.stores = [] ∧ x.noRun = false) (hrooms : (runOf s p b (dueStep p)).rooms ≠ []) :
    ∃ u, releaseDue (passRelease (settleRecovery s)) = u ∧ Released (begun (atRelease s) p b (dueStep p)) u
      ∧ u = (runOf s p b (dueStep p)).rooms.foldl (fun s m => releaseRoom s p.key (dueStep p) m) (begun (atRelease s) p b (dueStep p)) := by
  obtain ⟨hxfers, hpieces⟩ := hquiet
  have hp : getPlan (atRelease s) p.key = some p := by
    unfold getPlan
    rw [atRelease_plans, hplans]
    simp
  have hmay : ∀ x ∈ (atRelease s).threads, x.noRun = false := fun x hx => (hthreads x hx).2
  obtain ⟨u, hu⟩ : ∃ u, (runOf s p b (dueStep p)).rooms.foldl (fun s m => releaseRoom s p.key (dueStep p) m)
    (begun (atRelease s) p b (dueStep p)) = u := ⟨_, rfl⟩
  have hok : Releasable p.key b (begun (atRelease s) p b (dueStep p)) := ⟨⟨_, getPlan_begun hp, hb⟩, hmay⟩
  have hreleased : Released (begun (atRelease s) p b (dueStep p)) u := by
    rw [← hu]
    exact releaseRooms_released _ _ hok (Released.refl _)
  have hstep : releasePlans (atRelease s) = u := by
    rw [releasePlans_one (atRelease_plans.trans hplans) hb (stepDue_atRelease.trans hdue),
      releaseStep_releases hp hb hmay hweights hshape (by rw [runOf_atRelease]; exact hrooms), runOf_atRelease]
    exact hu
  have hkeep := hreleased.keeps
  have huctxs := keep_ctxs hkeep
  have hulinks := keep_links hkeep
  have hplain : plainCtxs u := by unfold plainCtxs; rw [huctxs]; exact hctxs
  have hstores : ∀ x ∈ u.threads, x.stores = [] :=
    resumeAll_mem hreleased.threads (fun _ _ hxy hx => hxy.stores.trans hx) fun x hx => (hthreads x hx).1
  have huquiet : porchQuiet u := by
    refine ⟨resumeAll_mem hreleased.threads (fun _ _ hxy hx => hxy.xfers.trans hx) hxfers, ?_⟩
    rw [hulinks]
    exact hpieces
  have huidle : idle u := idle_of_ctxs huctxs hidle
  have hsettled : settleRecovery s = s := by unfold settleRecovery; rw [hrecov]
  have hclear : releaseTables (passRelease s) = atRelease s := releaseTables_plain htables hctxs
  have hgoes : (atRelease s).recov.any (·.lost) = false := by rw [atRelease_recov, hrecov]; rfl
  refine ⟨u, ?_, hreleased, hu.symm⟩
  unfold releaseDue
  rw [hsettled, hclear]
  dsimp only
  rw [hgoes, if_neg (by decide), hstep, retryStores_none hstores, foldl_fixed fun c _ => tickWaits_plain hplain c, settle_of_idle huidle,
    drive_quiet huquiet]

end

/-- Settles O52: the generator's tick begins, the release point releases the due steps, and a step's finish moves its plan on. -/
theorem boundariesAndSteps : Obligations.BoundariesAndSteps := by
  refine ⟨⟨?boundary, ?release⟩, ?finish⟩
  case boundary =>
    intro s b hon hticking hpassed hb
    obtain ⟨htick, hnow⟩ := boundary_tick hon hticking hpassed hb
    refine ⟨_, rfl, hnow, ?_⟩
    rw [htick]
    exact ⟨rfl, rfl, rfl, rfl, rfl, fun hstate huse hsource halt hprev hperiod => genBoundary_internal b hstate huse hsource halt hprev hperiod⟩
  case release =>
    intro s hon hticking hopen
    obtain ⟨htick, hnow⟩ := releasePoint_tick hon hticking hopen
    refine ⟨_, rfl, htick, hnow, ?_⟩
    intro p b hrunning hplans hb hrecov hdue hweights hshape hidle hquiet htables hctxs hthreads k cheaper rooms hrooms
    obtain ⟨u, hu, hreleased, hfold⟩ := releaseDue_one hplans hb hrecov hdue hweights hshape hidle hquiet htables hctxs hthreads hrooms
    have hp : getPlan (atRelease s) p.key = some p := by
      unfold getPlan
      rw [atRelease_plans, hplans]
      simp
    rw [releasePoint_passes hon hticking hopen, hrunning, if_neg (by decide), hu]
    refine ⟨_, (getPlan_of_plans hreleased.plans p.key).trans (getPlan_begun hp), rfl, rfl, fun m hm x hx hr => ?_⟩
    have hok : Releasable p.key b (begun (atRelease s) p b k) := ⟨⟨_, getPlan_begun hp, hb⟩, fun x hx => (hthreads x hx).2⟩
    have hx' : getTh (begun (atRelease s) p b k) { key := p.key, room := m } = some x := hx
    have hr' : thRec (begun (atRelease s) p b k) { key := p.key, room := m } ≠ none := by
      unfold thRec at hr ⊢
      have hp' : getPlan s p.key = some p := hp
      rw [hp'] at hr
      rw [getPlan_begun hp]
      exact hr
    obtain ⟨y, hy, hstat⟩ := releaseRooms_run k rooms hok m hm x hx' hr'
    have hyu : getTh u { key := p.key, room := m } = some y := (congrArg (getTh · { key := p.key, room := m }) hfold).trans hy
    obtain ⟨z, hz, hres⟩ := hreleased.getTh hx'
    rw [hyu] at hz
    obtain rfl := Option.some.inj hz
    exact ⟨y, hyu, hstat, hres.pc, hres.regs, hres.preds⟩
  case finish =>
    intro key s p r halive hp hr n
    refine ⟨fun hdone => ?_, ?_⟩
    · refine congrArg Host.Outcome.next ?_
      rw [if_pos halive]
      exact finishStep_waits hp hr hdone
    intro hdone hk hskip hmore hstopped ran
    refine ⟨fun hnone => ?_, fun o b houts hopen hstep hb => ?_⟩
    · obtain ⟨hrun, hp'⟩ := finishStep_silent hp hr hdone hk hskip hstopped hmore hnone
      obtain ⟨hfin, hnext, hlast, houts, -⟩ := markDone_ran (n := n) hr hk
      refine ⟨_, _, congrArg Host.Outcome.next ((if_pos halive).trans hrun), getPlan_modPlan (fun x => markDone_key _ x) hp', ⟨hfin, hnext, hlast⟩,
        houts, fun hmask => ?_⟩
      rw [spoilResults_same hmask]
      rfl
    · obtain ⟨v, x, y, hrun, hx, hxr, hxouts, hid, hcode, htick, hthreads, hvtick, hmem⟩ :=
        finishStep_output hp hr hdone hk hskip hstopped hmore houts hopen hstep hb
      obtain ⟨hfin, hnext, hlast, hqouts, -⟩ := markDone_ran (n := n) hxr hk
      exact ⟨_, _, y, congrArg Host.Outcome.next ((if_pos halive).trans hrun), getPlan_modPlan (fun x => markDone_key _ x) hx,
        ⟨hfin, hnext, hlast⟩, hqouts.trans hxouts, hid, hcode, htick, hthreads, hvtick, hmem⟩

end Sys2Proof.Proofs.Boundaries
end
